-- ==== Sys2Proof/Word.lean ====
section
/-! DEFINITION. The word types of the E4 and the two list shapes that hold sparse data: a sparse store
(key and bit vector, zero where unlisted) and an association table. -/

namespace Sys2Proof

/-- A byte of any storage (R4). -/
abbrev Byte := BitVec 8
/-- A 32-bit register, instruction or payload word (R29, R34). -/
abbrev Word := BitVec 32
/-- A 64-bit value: a register pair, a tag, a bearing, a virtual address (R11, R21, R29). -/
abbrev DWord := BitVec 64

/-- Sparse storage: keys strictly rising, no entry equal to zero; an unlisted key reads as zero. -/
abbrev Sparse (w : Nat) := List (Nat × BitVec w)

/-- A table of records by key: keys strictly rising. -/
abbrev Tbl (α : Type) := List (Nat × α)

end Sys2Proof
end

