-- ==== Sys2Proof/Syntax.lean ====
section
/-! DEFINITION. The syntax of the E4: one constructor of `Instr` for each row of spec/opcode_table.json.
The instruction rows carry the operands of their encodings (R34 to R61); the event rows carry what the
unit that acts chooses, or what the outside world supplies. -/

namespace Sys2Proof

/-- Integer types of R47. -/
inductive IntTy where
  | i32 | n32 | i64 | n64
deriving DecidableEq, Repr

/-- Rounding codes of R46: `dyn` takes the mode from FPCTL. -/
inductive Rnd where
  | dyn | rne | rtz | rup | rdn
deriving DecidableEq, Repr

/-- Element types of R45, in code order. -/
inductive ElemTy where
  | i32 | n32 | i64 | n64 | i16 | n16 | i8 | n8 | f32 | f16 | bf16 | e4m3 | e5m2 | q8 | q4
deriving DecidableEq, Repr

/-- Scopes of R32, narrowest first. -/
inductive Scope where
  | core | die | dev | sys
deriving DecidableEq, Repr

/-- The b operand of formats A and X (R40): a lane register or a uniform one. -/
inductive BOp where
  | v (r : Nat)
  | s (r : Nat)
deriving DecidableEq, Repr

/-- Conditions of CMP (R119). -/
inductive Cond where
  | eq | ne | lt | le | gt | ge
deriving DecidableEq, Repr

/-- Conditions of FCMP (R127). -/
inductive FCond where
  | eq | ne | lt | le | gt | ge | un | ord
deriving DecidableEq, Repr

/-- Mask operations of KOP (R120). -/
inductive KOp where
  | and | or | xor | andn | not | mov | froms | tos
deriving DecidableEq, Repr

/-- Operations of REDUCE and SCAN (R135). -/
inductive RedOp where
  | add | min | max | and | or | xor
deriving DecidableEq, Repr

/-- Types of REDUCE and SCAN (R48). -/
inductive RedTy where
  | f32 | i32 | n32
deriving DecidableEq, Repr

/-- Operations of VOTE (R137). -/
inductive VoteOp where
  | any | all | none | count
deriving DecidableEq, Repr

/-- Modes of SHFL (R139). -/
inductive ShflMode where
  | idx | up | down | xor
deriving DecidableEq, Repr

/-- Operations of ATOMF (R48). -/
inductive AtomfOp where
  | addI32 | minI32 | maxI32 | minN32 | maxN32 | and | or | xor | swap | cas | addF32
deriving DecidableEq, Repr

/-- Operations of ATOM, FATOM and RED (R61). -/
inductive AtomOp where
  | add | min | max | and | or | xor | swap | cas
deriving DecidableEq, Repr

/-- Orders of ATOM, FATOM and RED (R61). -/
inductive AtomOrder where
  | relaxed | acq | rel | ar
deriving DecidableEq, Repr

/-- Kinds of FENCE (R207). -/
inductive FenceKind where
  | rel | acq | ar | sc
deriving DecidableEq, Repr

/-- Access sizes of format M (R51). -/
inductive Sz where
  | b | h | w | d
deriving DecidableEq, Repr

/-- Hints of PFX (R213). -/
inductive PfxHint where
  | l1 | l2 | ind
deriving DecidableEq, Repr

/-- Modes of CPY (R56). -/
inductive CpyMode where
  | f | h | t | c | m | gather | remote
deriving DecidableEq, Repr

/-- Rotation of QUANT (R52). -/
inductive Rot where
  | none | r32 | r64 | r128
deriving DecidableEq, Repr

/-- Activations of TACT (R52). -/
inductive Act where
  | copy | relu | gelu | sigm | tanh
deriving DecidableEq, Repr

/-- Operations of TRED (R52). -/
inductive TredOp where
  | sum | max | min | amax
deriving DecidableEq, Repr

/-- MOVC selectors of R276. -/
inductive Ctl where
  | fpctl | trapen | flags | mxcnt | ctxid | priv | leash | faultq
deriving DecidableEq, Repr

/-- The tag operand of SEND and SENDM (R54): tag modes 0, 1 and 2. -/
inductive TagSrc where
  | lane (a : Nat)
  | uni (a : Nat)
  | self
deriving DecidableEq, Repr

/-- A CMD write to a mailbox (R291): the port, the host tag, the CTX word and the 240 bytes of ARGS. The
command code is the constructor that carries it. -/
structure Cmd where
  port : Nat
  tag  : Nat
  ctx  : Nat
  args : Sparse 8
deriving DecidableEq, Repr

/-- The owner of a firing pack: core, pipeline and pack slot (R21). -/
structure PackRef where
  core : Nat
  pipe : Nat
  slot : Nat
deriving DecidableEq, Repr

/-- What an uncorrectable or correctable error strikes (R322 to R325). -/
inductive EccSite where
  | corrected
  | hbm (line : Nat)
  | l2 (asid line : Nat)
  | l1 (core asid line : Nat)
  | frame (p : PackRef) (word : Nat)
  | const (core img word : Nat)
  | tile (core pipe t : Nat)
  | laneReg (p : PackRef) (reg lane : Nat)
  | uniReg (p : PackRef) (reg : Nat)
  | code (core slot : Nat)
  | priv (p : PackRef) (line : Nat)
  | entry (core n word : Nat)
deriving DecidableEq, Repr

/-- What CACHE_EVICTION takes (R174). -/
inductive EvictSite where
  | l1 (core asid line : Nat)
  | l2 (asid line : Nat)
  | priv (p : PackRef) (line : Nat)
deriving DecidableEq, Repr

/-- A host access (R283, R285): through the memory window at a physical address; or a read at an offset of the aperture window, or of one
word of the mailbox window, which holds the mailbox, the inbox registers, the management registers and the report (R288, R289, R291,
R366, R368). -/
inductive HostAcc where
  | read (len : Nat)
  | write (bytes : List Byte) (ep : Bool)
  | aperture (len : Nat)
  | mailbox
deriving DecidableEq, Repr

/-- A firmware image offered through the management port (R367). -/
structure FwImage where
  body   : List Byte
  pubKey : List Byte
  sig    : List Byte
  svn    : Nat
  raise  : Bool
deriving DecidableEq, Repr, Inhabited

/-- The writable management registers with no row of their own (R366). -/
inductive MgmtReg where
  | cecnt | uecnt | aperr | pktdrop | thrcnt
  | attnonce (word : Nat)
  | other (off : Nat)
deriving DecidableEq, Repr

/-- A token packet as received (R295, R296): the header fields that the receiver checks, and the body. -/
structure TokPkt where
  dest    : Nat
  source  : Nat
  vc      : Nat
  count   : Nat
  hdrRsv  : Bool
  tag     : DWord
  coord   : Nat
  number  : Nat
  block   : Nat
  port    : Nat
  length  : Nat
  payload : List Word
  rel     : Bool
  rsv     : Bool
deriving DecidableEq, Repr

/-- A write packet as received (R295, R297): `count` is the header's, which must be that of its data flits. -/
structure WrPkt where
  dest   : Nat
  source : Nat
  count  : Nat
  hdrRsv : Bool
  addr   : Nat
  coord  : Nat
  number : Nat
  copyId : Nat
  bytes  : List Byte
deriving DecidableEq, Repr

/-- A write ack as received (R295, R297): the node it comes to and from, whether a reserved field is not zero, the copy and its bytes. -/
structure AckPkt where
  dest   : Nat
  source : Nat
  rsv    : Bool
  copyId : Nat
  bytes  : Nat
deriving DecidableEq, Repr

/-- A write fault as received (R295, R297): likewise, with the byte offset of the word in its packet and the kind. -/
structure FaultPkt where
  dest   : Nat
  source : Nat
  rsv    : Bool
  copyId : Nat
  off    : Nat
  kind   : Nat
deriving DecidableEq, Repr

/-- A flit that a port has sent (R294): its channel, and its place among those of the channel whose slots have not come back. -/
structure FlitId where
  vc : Nat
  n  : Nat
deriving DecidableEq, Repr

/-- A control packet of the launch handshake (R301): PREPARE; `rsv` says that a reserved field is not zero (R299). -/
structure PrepPkt where
  dest    : Nat
  source  : Nat
  rsv     : Bool
  coord   : Nat
  number  : Nat
  crc     : Nat
  widths  : List Nat
  field   : Nat
  colour  : Nat
  count   : Nat
  index   : Nat
  listCrc : Nat
deriving DecidableEq, Repr

/-- A control packet, or a settle marker, that names a launch and carries small values (R301, R302, R352). -/
structure CtlPkt where
  dest   : Nat
  source : Nat
  rsv    : Bool
  coord  : Nat
  number : Nat
  vals   : List Nat
deriving DecidableEq, Repr

/-- One constructor for each row of spec/opcode_table.json, in the table's order. -/
inductive Instr where
  -- integer arithmetic (R106 to R110)
  | add (sat : Bool) (t : IntTy) (d a : Nat) (b : BOp)
  | addImm (d a : Nat) (imm : Int)
  | sub (sat : Bool) (t : IntTy) (d a : Nat) (b : BOp)
  | mul (sat : Bool) (t : IntTy) (d a : Nat) (b : BOp)
  | mulImm (d a : Nat) (imm : Int)
  | mulh (t : IntTy) (d a : Nat) (b : BOp)
  | mad (t : IntTy) (d a : Nat) (b : BOp)
  | divi (wide : Bool) (d a : Nat) (b : BOp)
  | divn (wide : Bool) (d a : Nat) (b : BOp)
  | remi (wide : Bool) (d a : Nat) (b : BOp)
  | remn (wide : Bool) (d a : Nat) (b : BOp)
  | min (t : IntTy) (d a : Nat) (b : BOp)
  | max (t : IntTy) (d a : Nat) (b : BOp)
  | abs (wide : Bool) (d a : Nat)
  | neg (wide : Bool) (d a : Nat)
  | not (wide : Bool) (d a : Nat)
  | clz (wide : Bool) (d a : Nat)
  | popc (wide : Bool) (d a : Nat)
  | brev (wide : Bool) (d a : Nat)
  -- logic and shift (R111 to R113)
  | and (wide : Bool) (d a : Nat) (b : BOp)
  | andImm (d a : Nat) (imm : Int)
  | or (wide : Bool) (d a : Nat) (b : BOp)
  | orImm (d a : Nat) (imm : Int)
  | xor (wide : Bool) (d a : Nat) (b : BOp)
  | xorImm (d a : Nat) (imm : Int)
  | andn (wide : Bool) (d a : Nat) (b : BOp)
  | shl (wide : Bool) (d a : Nat) (b : BOp)
  | shr (wide : Bool) (d a : Nat) (b : BOp)
  | shra (wide : Bool) (d a : Nat) (b : BOp)
  | rotl (wide : Bool) (d a : Nat) (b : BOp)
  | shlImm (wide : Bool) (d a amt : Nat)
  | shrImm (wide : Bool) (d a amt : Nat)
  | shraImm (wide : Bool) (d a amt : Nat)
  | rotlImm (wide : Bool) (d a amt : Nat)
  | bfx (signed : Bool) (d a pos len : Nat)
  | bfi (d a pos len : Nat)
  -- moves (R114 to R117)
  | mov (wide : Bool) (d : Nat) (b : BOp)
  | movsLane (d a lane : Nat)
  | movsUniform (d a : Nat)
  | moviV (d : Nat) (imm : Int)
  | moviS (d : Nat) (imm : Int)
  | moviImm32 (uni : Bool) (d imm : Nat)
  | movhiV (d imm : Nat)
  | movhiS (d imm : Nat)
  | sel (d a : Nat) (b : BOp) (k : Nat)
  -- compare and mask (R119, R120)
  | cmp (c : Cond) (t : IntTy) (d a : Nat) (b : BOp)
  | cmpImm (c : Cond) (unsigned : Bool) (d a imm : Nat)
  | kop (op : KOp) (d a b : Nat)
  -- FP32 (R121 to R128)
  | fadd (r : Rnd) (d a : Nat) (b : BOp)
  | fsub (r : Rnd) (d a : Nat) (b : BOp)
  | fmul (r : Rnd) (d a : Nat) (b : BOp)
  | ffma (r : Rnd) (d a : Nat) (b : BOp)
  | fmin (d a : Nat) (b : BOp)
  | fmax (d a : Nat) (b : BOp)
  | fabs (d a : Nat)
  | fneg (d a : Nat)
  | fclass (d a : Nat)
  | frnd (r : Rnd) (d a : Nat)
  | fcmp (c : FCond) (sig : Bool) (d a : Nat) (b : BOp)
  | fscale (r : Rnd) (d a : Nat) (b : BOp)
  -- packed half (R129)
  | hadd2 (bf : Bool) (r : Rnd) (d a : Nat) (b : BOp)
  | hmul2 (bf : Bool) (r : Rnd) (d a : Nat) (b : BOp)
  | hfma2 (bf : Bool) (r : Rnd) (d a : Nat) (b : BOp)
  -- conversion (R130, R131)
  | cvt (dst src : ElemTy) (r : Rnd) (d a : Nat)
  -- special functions (R132, R133)
  | frcp (d a : Nat)
  | frsq (d a : Nat)
  | fsqrt (d a : Nat)
  | fexp2 (d a : Nat)
  | flog2 (d a : Nat)
  | fsin (d a : Nat)
  | fcos (d a : Nat)
  | ftanh (d a : Nat)
  | fsigm (d a : Nat)
  -- lane matvec (R134)
  | lmv (wide : Bool) (bias : Option Nat) (d a rows cols off : Nat)
  -- pack instructions (R135 to R140, R118)
  | reduce (op : RedOp) (t : RedTy) (d a : Nat)
  | scan (op : RedOp) (excl : Bool) (t : RedTy) (d a : Nat)
  | vote (op : VoteOp) (d a : Nat)
  | ballot (d a : Nat)
  | shfl (m : ShflMode) (d a : Nat) (b : BOp)
  | confl (d a : Nat)
  | lane (d : Nat)
  | nln (d : Nat)
  -- tiles (R147 to R163)
  | tzero (md : Nat)
  | tld (tr : Bool) (md td : Nat)
  | tst (tr : Bool) (ma td : Nat)
  | mma (ta tb : ElemTy) (md ma mb : Nat)
  | mmas (p48 : Bool) (ta tb : ElemTy) (md ma mb mm : Nat)
  | mmaq (ta tw : ElemTy) (md ma mb td : Nat)
  | quant (t : ElemTy) (rot : Rot) (md ma td : Nat)
  | deq (t : ElemTy) (md ma td : Nat)
  | tact (act : Act) (out : ElemTy) (bias : Option Nat) (md ma : Nat)
  | tred (op : TredOp) (col : Bool) (md ma : Nat)
  | tdesc (td a w0 : Nat)
  | bfence (d : Nat)
  | bwait (d : Nat)
  -- memory (R202 to R213)
  | ld (sz : Sz) (sext : Bool) (d base : Nat) (off : Int)
  | st (sz : Sz) (d base : Nat) (off : Int) (k : Nat)
  | lds (sz : Sz) (sext : Bool) (d base : Nat) (off : Int)
  | ldf (sz : Sz) (sext : Bool) (d base : Nat) (off : Int)
  | stf (sz : Sz) (d base : Nat) (off : Int) (k : Nat)
  | ldp (sz : Sz) (sext : Bool) (d base : Nat) (off : Int)
  | stp (sz : Sz) (d base : Nat) (off : Int) (k : Nat)
  | ldc (sz : Sz) (sext : Bool) (d base : Nat) (off : Int)
  | atomf (op : AtomfOp) (d a : Nat) (b : BOp)
  | fence (kind : FenceKind) (sc : Scope)
  | pfx (hint : PfxHint) (sz : Sz) (base : Nat) (off : Int) (k : Nat)
  | atom (op : AtomOp) (t : IntTy) (sc : Scope) (ord : AtomOrder) (d a : Nat) (b : BOp)
  | fatom (op : AtomOp) (sc : Scope) (ord : AtomOrder) (d a : Nat) (b : BOp)
  | red (op : AtomOp) (t : IntTy) (sc : Scope) (ord : AtomOrder) (a : Nat) (b : BOp)
  | cpy (mode : CpyMode) (es : Nat) (once : Bool) (sc : Scope) (d a : Nat) (b : BOp) (aux port block : Nat)
  -- tokens and control (R236 to R253)
  | send (tag : TagSrc) (d n k : Nat) (rel : Option Scope) (port block : Nat)
  | sendm (tag : TagSrc) (d n k : Nat) (rel : Option Scope) (b : Nat)
  | spawn (d a n eport k rport entry ret : Nat)
  | ret (d n : Nat) (rel : Option Scope)
  | endBlock
  | idxF (d f : Nat)
  | tagc (d : Nat)
  | mktag (d a : Nat)
  | mktagColour (d a : Nat) (b : BOp)
  | clock (d : Nat)
  | trap (code : Nat)
  | brk (code : Nat)
  | nop
  -- control registers and privileged instructions (R274 to R281)
  | movcRead (d : Nat) (sel : Ctl)
  | movcWrite (d : Nat) (sel : Ctl)
  | cwbi (a b : Nat)
  | rebind (a b : Nat)
  | tresume (d : Nat)
  | tskip (d : Nat)
  | tkill (d : Nat)
  | replay (d : Nat)
  | faultrd (d a word : Nat)
  -- recipe instructions (R342 to R347)
  | rdrop (a : Nat)
  | rfree (a : Nat)
  | rpin (unpin : Bool) (a : Nat)
  | rstat (d a : Nat)
  | rseal (d a b entry count : Nat)
  -- harbour commands (R278, R279)
  | hcmdMap (d a b : Nat)
  | hcmdUnmap (d a b : Nat)
  | hcmdProtect (d a b : Nat)
  | hcmdQuery (d a b : Nat)
  | hcmdTcflush (d a b mask : Nat)
  -- matching store, bins and helm (R215 to R230)
  | tokenAccept (core n : Nat)
  | outboundTokenLeave (core n : Nat)
  | spillTakeBack (core : Nat)
  | intakeTimeout (core vc : Nat)
  | seqRenumber (core : Nat)
  | binAllot (core : Nat)
  | leashExpiry (core bin : Nat)
  | packFiring (core : Nat)
  | codeRefetch (core : Nat) (ok : Bool)
  -- colour directory (R232, R242, R244)
  | colourGrant (n : Nat)
  | colourReturn (n : Nat)
  -- results, stores, engines, copies, traps
  | loadResult (p : PackRef) (n : Nat)
  | sfuResult (p : PackRef) (n : Nat)
  | lineFill (core n : Nat)
  | storeSlotClose (core n : Nat)
  | storeReceipt (core n : Nat)
  | storeHoldRelease (core n : Nat)
  | engineInstructionEnd (core pipe : Nat)
  | copyStart (core n : Nat) (words : List Nat)
  | copyComplete (core n : Nat)
  | copyFault (core n : Nat)
  | trapEntry (p : PackRef)
  | packResumption (p : PackRef)
  -- inbox, aperture and host access
  | inboxEntryWrite (ctx : Nat)
  | apertureWrite (port off : Nat) (bytes : List Byte)
  | inboxHeadWrite (port ctx : Nat) (head : Word)
  | hostMemoryAccess (port pa : Nat) (acc : HostAcc)
  -- evictor and Retrievers
  | evictorRun (stack : Nat)
  | recipeMiss (die n : Nat)
  | missRetry (n : Nat)
  | regenerationStart (die : Nat)
  | regenFrameTake (die : Nat)
  | quiescentClose (die : Nat)
  | recomputeComplete (die : Nat)
  | recomputeCrcCheck (die : Nat)
  | widthFailure (die : Nat)
  -- errors, heat, resets, firmware, management registers
  | eccError (site : EccSite)
  | thermalStateChange (die temp : Nat)
  | deviceReset
  | deviceReady
  | portReset (port : Nat)
  | firmwareImageUpdate (img : FwImage)
  | attestationGo (port : Nat)
  | attestationDone
  | chronoLoRead (port : Nat)
  | registerWrite (port : Nat) (reg : MgmtReg) (val : Word)
  -- mailbox commands
  | create (c : Cmd)
  | destroy (c : Cmd)
  | teardownComplete (ctx : Nat)
  | region (c : Cmd)
  | grant (c : Cmd)
  | map (c : Cmd)
  | mapUnmap (c : Cmd)
  | mapProtect (c : Cmd)
  | mapQuery (c : Cmd)
  | mapTcflush (c : Cmd)
  | load (c : Cmd)
  | unload (c : Cmd)
  | launch (c : Cmd)
  | close (c : Cmd)
  | retire (c : Cmd)
  | preempt (c : Cmd)
  | preemptCutComplete (ctx : Nat)
  | preemptTimeout (ctx : Nat)
  | settleMarkerReceive (p : CtlPkt)
  | settleTimeout (ctx : Nat)
  | resume (c : Cmd)
  | restoredPackPlace (ctx : Nat)
  | checkpoint (c : Cmd)
  | checkpointComplete
  | partition (c : Cmd)
  | mailboxUnknownCommand (code : Nat) (c : Cmd)
  -- links and multi-device launches
  | flitCrcError (port : Nat) (flit : FlitId)
  | linkDown (port : Nat)
  | freeSlotReturn (port vc : Nat)
  | tokenPacketReceive (port : Nat) (p : TokPkt)
  | writePacketReceive (port : Nat) (p : WrPkt)
  | writeAckReceive (port : Nat) (p : AckPkt)
  | writeFaultReceive (port : Nat) (p : FaultPkt) (more : Nat)
  | prepareReceive (p : PrepPkt)
  | prepareTimeout (n : Nat)
  | readyReceive (p : CtlPkt)
  | refuseReceive (p : CtlPkt)
  | startReceive (p : CtlPkt)
  | abortReceive (p : CtlPkt)
  | launchWaitTimeout (n : Nat)
  | closeControlReceive (p : CtlPkt)
  | retireControlReceive (p : CtlPkt)
  -- home slices and caches
  | lineWriteArrival (core n : Nat)
  | homeSliceAtomic (core n : Nat)
  | cacheEviction (site : EvictSite)
  | linkTraining (port : Nat)
  -- a word whose major opcode is no instruction (R42)
  | unassignedOpcode (op : Nat)
deriving DecidableEq, Repr, Inhabited

end Sys2Proof
end

