-- ==== Sys2Proof/Machine/Descriptor.lean ====
section
/-! DEFINITION. The fields of a tile descriptor and the conditions of R146 on it (R144 to R147): which
of them descriptor word 0 decides alone, and which need word 1. -/

namespace Sys2Proof

/-- Bits hi:lo of a word given as a number (R4). -/
def fld (w hi lo : Nat) : Nat := w / 2 ^ lo % 2 ^ (hi + 1 - lo)

/-- The element type of a 4-bit type code (R45); 0xF is none. -/
def elemOfCode : Nat → Option ElemTy
  | 0 => some .i32 | 1 => some .n32 | 2 => some .i64 | 3 => some .n64
  | 4 => some .i16 | 5 => some .n16 | 6 => some .i8 | 7 => some .n8
  | 8 => some .f32 | 9 => some .f16 | 10 => some .bf16 | 11 => some .e4m3
  | 12 => some .e5m2 | 13 => some .q8 | 14 => some .q4
  | _ => none

/-- The 4-bit code of an element type (R45). -/
def ElemTy.code : ElemTy → Nat
  | .i32 => 0 | .n32 => 1 | .i64 => 2 | .n64 => 3 | .i16 => 4 | .n16 => 5 | .i8 => 6 | .n8 => 7
  | .f32 => 8 | .f16 => 9 | .bf16 => 10 | .e4m3 => 11 | .e5m2 => 12 | .q8 => 13 | .q4 => 14

/-- The types a tile may hold (R146). -/
def ElemTy.isTile : ElemTy → Bool
  | .f32 | .i32 | .f16 | .bf16 | .e4m3 | .e5m2 | .i8 | .n8 | .q8 | .q4 => true
  | _ => false

/-- Bytes of one element in a tile; `.q4` holds two in a byte and is handled where it is laid out (R145). -/
def ElemTy.bytes : ElemTy → Nat
  | .i64 | .n64 => 8
  | .i32 | .n32 | .f32 => 4
  | .i16 | .n16 | .f16 | .bf16 => 2
  | _ => 1

/-- The grouped types (R77). -/
def ElemTy.isGrouped : ElemTy → Bool
  | .q8 | .q4 => true
  | _ => false

/-- The fields of the two words of a descriptor (R144). -/
structure Desc where
  v     : Bool
  rsv0  : Nat
  soff  : Nat
  grp   : Nat
  ty    : Nat
  cols  : Nat
  rows  : Nat
  rsv1  : Nat
  zoff  : Nat
  ext   : Nat
  base  : Nat
deriving DecidableEq, Repr

/-- The descriptor that words 0 and 1 give: rows, columns, extent and base in their own units (R144). -/
def Desc.ofWords (w0 w1 : Nat) : Desc where
  v := fld w0 31 31 = 1
  rsv0 := fld w0 30 30
  soff := fld w0 29 22 * 64
  grp := fld w0 21 20
  ty := fld w0 19 16
  cols := fld w0 15 8 + 1
  rows := fld w0 7 0 + 1
  rsv1 := fld w1 31 29
  zoff := fld w1 28 21 * 64
  ext := (fld w1 20 13 + 1) * 64
  base := fld w1 12 0 * 64

/-- The group size of a GRP code; 0 for none (R144). -/
def groupSize : Nat → Nat
  | 1 => 32 | 2 => 64 | 3 => 128 | _ => 0

/-- The code bytes of a matrix of a type (R145). -/
def codeBytes (t : ElemTy) (rows cols : Nat) : Nat :=
  if t = .q4 then rows * cols / 2 else rows * cols * t.bytes

/-- Two byte ranges, each a start and a length, share no byte. -/
def disjoint (a la b lb : Nat) : Bool := a + la ≤ b || b + lb ≤ a

/-- The conditions of R146 that word 0 alone decides, as R147 lists them. -/
def Desc.word0Ok (d : Desc) : Bool :=
  d.v && d.rsv0 == 0 &&
  match elemOfCode d.ty with
  | none => false
  | some t =>
    t.isTile && codeBytes t d.rows d.cols ≤ 16384 && (t != .q4 || d.cols % 2 == 0) &&
    if t.isGrouped then
      d.grp != 0 && d.rows % groupSize d.grp == 0 &&
      let g := d.rows / groupSize d.grp
      d.soff + g * d.cols * 2 ≤ 16384 && disjoint 0 (codeBytes t d.rows d.cols) d.soff (g * d.cols * 2)
    else d.grp == 0 && d.soff == 0

/-- The conditions of R146 that need word 1, as R147 lists them, for a descriptor whose word 0 is in order. -/
def Desc.word1Ok (d : Desc) : Bool :=
  d.rsv1 == 0 &&
  match elemOfCode d.ty with
  | none => false
  | some t =>
    if t.isGrouped then
      let g := d.rows / groupSize d.grp
      d.zoff + g * d.cols ≤ 16384 && disjoint 0 (codeBytes t d.rows d.cols) d.zoff (g * d.cols) &&
        disjoint d.soff (g * d.cols * 2) d.zoff (g * d.cols)
    else d.zoff == 0

/-- A well-formed descriptor (R146). -/
def Desc.wellFormed (d : Desc) : Bool := d.word0Ok && d.word1Ok

/-- The element type of a descriptor, .f32 where it holds none. -/
def Desc.elem (d : Desc) : ElemTy := (elemOfCode d.ty).getD .f32

/-- The length of the K axis of a descriptor's matrix (R145): the rows of a grouped type, the columns of any other. -/
def Desc.kAxis (d : Desc) : Nat := if d.elem.isGrouped then d.rows else d.cols

end Sys2Proof
end

