-- ==== Sys2Proof/WellFormed.lean ====
section
/-! DEFINITION. Which terms of `Instr` stand for an instruction the pipeline accepts: every register in
its class, every code one that R45 to R61 assign, every limit of the encodings kept (R39, R43 check 2,
less the tile count, which is the block's and is checked at issue). -/

namespace Sys2Proof

/-- The 64-bit integer types, whose operands are pairs (R47). -/
def IntTy.wide : IntTy → Bool
  | .i64 | .n64 => true
  | _ => false

/-- The signed integer types (R106). -/
def IntTy.signed : IntTy → Bool
  | .i32 | .i64 => true
  | _ => false

/-- The integer types of R45. -/
def ElemTy.isInt : ElemTy → Bool
  | .i32 | .n32 | .i64 | .n64 | .i16 | .n16 | .i8 | .n8 => true
  | _ => false

/-- The floating-point types of R45. -/
def ElemTy.isFloat : ElemTy → Bool
  | .f32 | .f16 | .bf16 | .e4m3 | .e5m2 => true
  | _ => false

/-- The 64-bit types of R45. -/
def ElemTy.wide : ElemTy → Bool
  | .i64 | .n64 => true
  | _ => false

namespace WF

/-- A lane register, or the even register of a lane pair (R39). -/
def vreg (wide : Bool) (r : Nat) : Bool := r < 64 && (!wide || r % 2 == 0)
/-- A uniform register, or the even register of a uniform pair (R39). -/
def sreg (wide : Bool) (r : Nat) : Bool := r < 32 && (!wide || r % 2 == 0)
/-- A b operand of the class (R40). -/
def bop (wide : Bool) : BOp → Bool
  | .v r => vreg wide r
  | .s r => sreg wide r
/-- A b operand with a register after it, as the addend of FFMA and HFMA2 (R122, R129). -/
def bopNext : BOp → Bool
  | .v r => r < 63
  | .s r => r < 31
/-- A mask operand (R39). -/
def kreg (k : Nat) : Bool := k < 8
/-- A mask destination: k0 may not be named (R30). -/
def kdst (k : Nat) : Bool := 0 < k && k < 8
/-- A tile or descriptor (R39). -/
def mreg (m : Nat) : Bool := m < 16
/-- A signed immediate of n bits (R38). -/
def simm (n : Nat) (i : Int) : Bool := -(2 ^ (n - 1) : Int) ≤ i && i < (2 ^ (n - 1) : Int)
/-- A run of registers within v63 (R50, R58). -/
def vrun (d n : Nat) : Bool := d < 64 && d + n ≤ 64
/-- An immediate shift amount (R49). -/
def amount (wide : Bool) (n : Nat) : Bool := n < if wide then 64 else 32
/-- A bit field within 32 bits (R49). -/
def bitField (pos len : Nat) : Bool := pos < 32 && 0 < len && pos + len ≤ 32
/-- The operand-type pairs of MMA and MMAS (R53). -/
def mmaPair : ElemTy → ElemTy → Bool
  | .bf16, .bf16 | .f16, .f16 => true
  | .e4m3, .e4m3 | .e4m3, .e5m2 | .e5m2, .e4m3 | .e5m2, .e5m2 => true
  | .i8, .i8 | .i8, .n8 | .n8, .i8 | .n8, .n8 => true
  | _, _ => false
/-- The type pairs of MMAQ (R53). -/
def mmaqPair (ta tw : ElemTy) : Bool :=
  (ta == .bf16 || ta == .f16 || ta == .e4m3 || ta == .e5m2 || ta == .i8) && tw.isGrouped
/-- The pairs of CVT with a legal rounding code (R131). -/
def cvt (dst src : ElemTy) (r : Rnd) : Bool :=
  if src.isFloat && dst.isFloat then dst != src
  else if src.isFloat && dst.isInt then true
  else if src.isInt && (dst == .f32 || dst == .f16 || dst == .bf16) then true
  else src.isInt && dst.isInt && dst != src && r == .dyn
/-- A size and its extension bit in a load (R51, R191); frame and private accesses are at most a word. -/
def loadSz (upToWord : Bool) (sz : Sz) (sext : Bool) : Bool :=
  match sz with
  | .b | .h => true
  | .w => !sext
  | .d => !sext && !upToWord
/-- The data register of an access (R51). -/
def dataReg (sz : Sz) (d : Nat) : Bool := vreg (sz == .d) d
/-- The tag operand of SEND and SENDM (R54). -/
def tagSrc : TagSrc → Bool
  | .lane a => vreg true a
  | .uni a => sreg true a
  | .self => true
/-- The operand classes of CPY by mode, and its other limits (R56, R208). -/
def cpy (mode : CpyMode) (es : Nat) (once : Bool) (sc : Scope) (d a : Nat) (b : BOp) (aux port block : Nat) : Bool :=
  bop false b && port < 4 && block < 65536 &&
  match mode with
  | .f => vreg false d && vreg true a && es == 0 && aux == 0
  | .h => vreg true d && vreg false a && es == 0 && aux == 0
  | .t => mreg d && vreg true a && es == 0 && aux < 16 && once && port == 0 && block == 0
  | .c => vreg false d && vreg true a && es == 0 && aux == 0
  | .m => vreg true d && vreg true a && es == 0 && aux == 0
  | .gather => vreg false d && vreg true a && es < 4 && sreg true aux
  | .remote => vreg true d && vreg true a && es == 0 && sreg false aux && sc == .sys

end WF

open WF in
/-- The check of R43, check 2, that needs the instruction alone. -/
def Instr.wellFormed : Instr → Bool
  | .add _ t d a b | .sub _ t d a b | .mul _ t d a b => vreg t.wide d && vreg t.wide a && bop t.wide b
  | .addImm d a i | .mulImm d a i | .andImm d a i | .orImm d a i | .xorImm d a i =>
    vreg false d && vreg false a && simm 12 i
  | .mulh t d a b | .mad t d a b | .min t d a b | .max t d a b => vreg t.wide d && vreg t.wide a && bop t.wide b
  | .divi w d a b | .divn w d a b | .remi w d a b | .remn w d a b => vreg w d && vreg w a && bop w b
  | .abs w d a | .neg w d a | .not w d a | .clz w d a | .popc w d a | .brev w d a => vreg w d && vreg w a
  | .and w d a b | .or w d a b | .xor w d a b | .andn w d a b => vreg w d && vreg w a && bop w b
  | .shl w d a b | .shr w d a b | .shra w d a b | .rotl w d a b => vreg w d && vreg w a && bop false b
  | .shlImm w d a n | .shrImm w d a n | .shraImm w d a n | .rotlImm w d a n =>
    vreg w d && vreg w a && amount w n
  | .bfx _ d a p l | .bfi d a p l => vreg false d && vreg false a && bitField p l
  | .mov w d b => vreg w d && bop w b
  | .movsLane d a l => sreg false d && vreg false a && l < 32
  | .movsUniform d a => sreg false d && sreg false a
  | .moviV d i => vreg false d && simm 18 i
  | .moviS d i => sreg false d && simm 18 i
  | .moviImm32 u d i => (if u then sreg false d else vreg false d) && i < 2 ^ 32
  | .movhiV d i => vreg false d && i < 2 ^ 18
  | .movhiS d i => sreg false d && i < 2 ^ 18
  | .sel d a b k => vreg false d && vreg false a && bop false b && kreg k
  | .cmp _ t d a b => kdst d && vreg t.wide a && bop t.wide b
  | .cmpImm _ _ d a i => kdst d && vreg false a && i < 2 ^ 32
  | .kop op d a b =>
    match op with
    | .and | .or | .xor | .andn => kdst d && kreg a && kreg b
    | .not | .mov => kdst d && kreg a && b == 0
    | .froms => kdst d && sreg false a && b == 0
    | .tos => sreg false d && kreg a && b == 0
  | .fadd _ d a b | .fsub _ d a b | .fmul _ d a b | .fscale _ d a b => vreg false d && vreg false a && bop false b
  | .ffma _ d a b => vreg false d && vreg false a && bopNext b
  | .fmin d a b | .fmax d a b => vreg false d && vreg false a && bop false b
  | .fabs d a | .fneg d a | .fclass d a => vreg false d && vreg false a
  | .frnd _ d a => vreg false d && vreg false a
  | .fcmp _ _ d a b => kdst d && vreg false a && bop false b
  | .hadd2 _ r d a b | .hmul2 _ r d a b =>
    vreg false d && vreg false a && bop false b && (r == .dyn || r == .rne || r == .rtz)
  | .hfma2 _ r d a b => vreg false d && vreg false a && bopNext b && (r == .dyn || r == .rne || r == .rtz)
  | .cvt dst src r d a => WF.cvt dst src r && vreg dst.wide d && vreg src.wide a
  | .frcp d a | .frsq d a | .fsqrt d a | .fexp2 d a | .flog2 d a | .fsin d a | .fcos d a | .ftanh d a
  | .fsigm d a => vreg false d && vreg false a
  | .lmv _ bias d a rows cols off =>
    0 < rows && rows ≤ 16 && 0 < cols && cols ≤ 16 && vrun d rows && vrun a cols &&
      (match bias with | none => true | some b => vrun b rows) && off < 2 ^ 18 && off % 4 == 0
  | .reduce op t d a => sreg false d && vreg false a && (t != .f32 || op == .add || op == .min || op == .max)
  | .scan op _ t d a => vreg false d && vreg false a && (t != .f32 || op == .add || op == .min || op == .max)
  | .vote _ d a => sreg false d && kreg a
  | .ballot d a => kdst d && vreg false a
  | .shfl _ d a b => vreg false d && vreg false a && bop false b
  | .confl d a => vreg false d && vreg false a
  | .lane d => vreg false d
  | .nln d => sreg false d
  | .tzero m => mreg m
  | .tld _ m t | .tst _ m t => mreg m && mreg t
  | .mma ta tb c a b => mmaPair ta tb && mreg c && mreg a && mreg b
  | .mmas _ ta tb c a b m => mmaPair ta tb && mreg c && mreg a && mreg b && mreg m
  | .mmaq ta tw c a b t => mmaqPair ta tw && mreg c && mreg a && mreg b && mreg t
  | .quant ty _ d a t =>
    (ty == .e4m3 || ty == .e5m2 || ty == .i8 || ty.isGrouped) && mreg d && mreg a && mreg t
  | .deq ty d a t => (ty == .f32 || ty == .bf16 || ty == .f16) && mreg d && mreg a && mreg t
  | .tact _ out bias d a => out.isFloat && mreg d && mreg a && (match bias with | none => true | some b => mreg b)
  | .tred _ _ d a => mreg d && mreg a
  | .tdesc t a w0 => mreg t && sreg false a && w0 < 2 ^ 32 && (Desc.ofWords w0 0).word0Ok
  | .bfence d | .bwait d => sreg false d
  | .ld sz x d b o => loadSz false sz x && dataReg sz d && vreg true b && simm 7 o
  | .st sz d b o k => dataReg sz d && vreg true b && simm 7 o && kreg k
  | .lds sz x d b o => loadSz false sz x && sreg (sz == .d) d && sreg true b && simm 7 o
  | .ldf sz x d b o | .ldp sz x d b o => loadSz true sz x && vreg false d && vreg false b && simm 7 o
  | .stf sz d b o k | .stp sz d b o k => sz != .d && vreg false d && vreg false b && simm 7 o && kreg k
  | .ldc sz x d b o => loadSz false sz x && dataReg sz d && sreg false b && simm 7 o
  | .atomf _ d a b => vreg false d && vreg false a && bop false b
  | .fence _ _ => true
  | .pfx h sz b o k => vreg true b && simm 7 o && kreg k && (h != .ind || sz == .w || sz == .d)
  | .atom _ t _ _ d a b => vreg t.wide d && vreg true a && bop t.wide b
  | .fatom op _ _ d a b =>
    (op == .add || op == .min || op == .max) && vreg false d && vreg true a && bop false b
  | .red op t _ o a b =>
    op != .swap && op != .cas && (o == .relaxed || o == .rel) && vreg true a && bop t.wide b
  | .cpy md es once sc d a b aux port block => WF.cpy md es once sc d a b aux port block
  | .send t d n k _ port block => tagSrc t && n ≤ 8 && vrun d n && kreg k && port < 4 && block < 65536
  | .sendm t d n k _ b => tagSrc t && n ≤ 8 && vrun d n && kreg k && vreg false b
  | .spawn d a n ep k rp e r =>
    n ≤ 8 && vrun d n && vreg true a && ep < 4 && kreg k && rp < 4 && e < 65536 && r < 65536
  | .ret d n _ => n ≤ 8 && vrun d n
  | .endBlock | .nop => true
  | .idxF d f => vreg false d && f < 6
  | .tagc d => vreg true d
  | .mktag d a => vreg true d && vreg true a
  | .mktagColour d a b => vreg true d && vreg true a && bop false b
  | .clock d => sreg true d
  | .trap c | .brk c => c < 2 ^ 18
  | .movcRead d _ => sreg false d
  | .movcWrite d c => sreg false d && (c == .fpctl || c == .trapen || c == .flags || c == .mxcnt)
  | .cwbi a b => sreg true a && sreg false b
  | .rebind a b => sreg false a && sreg false b
  | .tresume d | .tskip d | .tkill d | .replay d => sreg false d
  | .faultrd d a w => sreg false d && sreg false a && w < 16
  | .rdrop a | .rfree a => sreg true a
  | .rpin _ a => sreg true a
  | .rstat d a => sreg false d && sreg true a
  | .rseal d a b e n =>
    (d == 0 || d == 8 || d == 16) && sreg true a && b < 29 && e < 65536 && n ≤ 4
  | .hcmdMap d a b | .hcmdUnmap d a b | .hcmdProtect d a b | .hcmdQuery d a b =>
    sreg false d && sreg true a && sreg false b
  | .hcmdTcflush d a b m => sreg false d && sreg true a && sreg false b && m < 256
  | .unassignedOpcode op =>
    op == 0 || op == 0x1F || op == 0x33 || (0x5E ≤ op && op ≤ 0x6F) || (0x7D ≤ op && op ≤ 0x7F)
  | _ => true

/-- The rows of the table that are events: no word encodes them, and the pipeline never fetches one. -/
def Instr.isEvent : Instr → Bool
  | .tokenAccept .. | .outboundTokenLeave .. | .spillTakeBack .. | .intakeTimeout .. | .seqRenumber ..
  | .binAllot .. | .leashExpiry .. | .packFiring .. | .codeRefetch .. | .colourGrant .. | .colourReturn ..
  | .loadResult .. | .sfuResult .. | .lineFill .. | .storeSlotClose .. | .storeReceipt ..
  | .storeHoldRelease .. | .engineInstructionEnd .. | .copyStart .. | .copyComplete .. | .copyFault ..
  | .trapEntry .. | .packResumption .. | .inboxEntryWrite .. | .apertureWrite .. | .inboxHeadWrite ..
  | .hostMemoryAccess .. | .evictorRun .. | .recipeMiss .. | .missRetry .. | .regenerationStart ..
  | .regenFrameTake .. | .quiescentClose .. | .recomputeComplete .. | .recomputeCrcCheck ..
  | .widthFailure .. | .eccError .. | .thermalStateChange .. | .deviceReset | .deviceReady
  | .portReset .. | .firmwareImageUpdate .. | .attestationGo .. | .attestationDone | .chronoLoRead ..
  | .registerWrite .. | .create .. | .destroy .. | .teardownComplete .. | .region .. | .grant .. | .map ..
  | .mapUnmap .. | .mapProtect .. | .mapQuery .. | .mapTcflush .. | .load .. | .unload .. | .launch ..
  | .close .. | .retire .. | .preempt .. | .preemptCutComplete .. | .preemptTimeout ..
  | .settleMarkerReceive .. | .settleTimeout .. | .resume .. | .restoredPackPlace .. | .checkpoint ..
  | .checkpointComplete | .partition .. | .mailboxUnknownCommand .. | .flitCrcError .. | .linkDown ..
  | .freeSlotReturn .. | .tokenPacketReceive .. | .writePacketReceive .. | .writeAckReceive ..
  | .writeFaultReceive .. | .prepareReceive .. | .prepareTimeout .. | .readyReceive .. | .refuseReceive ..
  | .startReceive .. | .abortReceive .. | .launchWaitTimeout .. | .closeControlReceive ..
  | .retireControlReceive .. | .lineWriteArrival .. | .homeSliceAtomic .. | .cacheEviction ..
  | .linkTraining .. => true
  | _ => false

end Sys2Proof
end

