-- ==== Sys2Proof/Decode.lean ====
section
/-! DEFINITION. The decoder, total on any words, which rejects by name (R34 to R61), and after it the
encoder of a well-formed instruction, written from the same tables. -/

namespace Sys2Proof

/-- Why a word is no instruction: each is a failure of check 2 of R43, but for the missing second word (R35). -/
inductive Reject where
  | reservedField
  | badCode
  | badRegister
  | badLimit
  | noSecondWord
deriving DecidableEq, Repr

namespace Dec

/-- The result of decoding a part of a word. -/
abbrev R (α : Type) := Except Reject α

/-- Go on only where a condition holds. -/
def need (c : Bool) (r : Reject) : R Unit := if c then .ok () else .error r

/-- Field d of formats A, B, C, M and X (R37). -/
def d (w : Nat) : Nat := fld w 23 18
/-- Field a, which is base in format M (R37). -/
def a (w : Nat) : Nat := fld w 17 12
/-- Field b (R37). -/
def b (w : Nat) : Nat := fld w 11 6
/-- Field fn of formats A and X (R37). -/
def fn (w : Nat) : Nat := fld w 5 1
/-- Field S (R37). -/
def s (w : Nat) : Nat := fld w 0 0

/-- An n-bit field read as a signed number (R38). -/
def signed (n v : Nat) : Int := if v < 2 ^ (n - 1) then (v : Int) else (v : Int) - (2 ^ n : Nat)

/-- A lane register or pair (R39). -/
def v (wide : Bool) (r : Nat) : R Nat := if WF.vreg wide r then .ok r else .error .badRegister
/-- A uniform register or pair (R39). -/
def u (wide : Bool) (r : Nat) : R Nat := if WF.sreg wide r then .ok r else .error .badRegister
/-- A mask operand (R39). -/
def k (r : Nat) : R Nat := if WF.kreg r then .ok r else .error .badRegister
/-- A mask destination (R30). -/
def kd (r : Nat) : R Nat := if WF.kdst r then .ok r else .error .badRegister
/-- A tile or descriptor in a 6-bit field (R39). -/
def m (r : Nat) : R Nat := if WF.mreg r then .ok r else .error .badRegister
/-- The b operand with S (R40). -/
def bop (wide : Bool) (w : Nat) : R BOp :=
  if s w = 1 then do let r ← u wide (b w); .ok (.s r) else do let r ← v wide (b w); .ok (.v r)
/-- The b operand of an instruction that also reads the register after it (R122). -/
def bopNext (w : Nat) : R BOp := do
  let o ← bop false w
  need (WF.bopNext o) .badRegister
  .ok o
/-- The b field and S of an instruction with neither (R48). -/
def noB (w : Nat) : R Unit := need (b w == 0 && s w == 0) .reservedField

/-- The integer type of fn[1:0] (R47). -/
def intTy : Nat → IntTy
  | 0 => .i32 | 1 => .n32 | 2 => .i64 | _ => .n64
/-- The rounding code (R46). -/
def rnd : Nat → R Rnd
  | 0 => .ok .dyn | 1 => .ok .rne | 2 => .ok .rtz | 3 => .ok .rup | 4 => .ok .rdn
  | _ => .error .badCode
/-- The rounding code of packed half (R48). -/
def rndHalf : Nat → R Rnd
  | 0 => .ok .dyn | 1 => .ok .rne | 2 => .ok .rtz
  | _ => .error .badCode
/-- A condition of CMP (R48). -/
def cond : Nat → R Cond
  | 0 => .ok .eq | 1 => .ok .ne | 2 => .ok .lt | 3 => .ok .le | 4 => .ok .gt | 5 => .ok .ge
  | _ => .error .badCode
/-- A condition of FCMP (R48). -/
def fcond : Nat → FCond
  | 0 => .eq | 1 => .ne | 2 => .lt | 3 => .le | 4 => .gt | 5 => .ge | 6 => .un | _ => .ord
/-- An element type (R45). -/
def elem (c : Nat) : R ElemTy :=
  match elemOfCode c with
  | some t => .ok t
  | none => .error .badCode
/-- A scope (R32). -/
def scope : Nat → Scope
  | 0 => .core | 1 => .die | 2 => .dev | _ => .sys
/-- An access size (R51). -/
def sz : Nat → Sz
  | 0 => .b | 1 => .h | 2 => .w | _ => .d

/-- Format A, an integer operation with .sat and t (R47). -/
def arithSat (mk : Bool → IntTy → Nat → Nat → BOp → Instr) (w : Nat) : R Instr := do
  need (fn w / 8 == 0) .reservedField
  let t := intTy (fn w % 4)
  let d ← v t.wide (d w)
  let a ← v t.wide (a w)
  let b ← bop t.wide w
  .ok (mk (fn w / 4 % 2 == 1) t d a b)

/-- Format A, an integer operation with t (R47). -/
def arith (mk : IntTy → Nat → Nat → BOp → Instr) (w : Nat) : R Instr := do
  need (fn w / 4 == 0) .reservedField
  let t := intTy (fn w % 4)
  let d ← v t.wide (d w)
  let a ← v t.wide (a w)
  let b ← bop t.wide w
  .ok (mk t d a b)

/-- Format B with a signed immediate (R49). -/
def immB (mk : Nat → Nat → Int → Instr) (w : Nat) : R Instr := do
  let d ← v false (d w)
  let a ← v false (a w)
  .ok (mk d a (signed 12 (fld w 11 0)))

/-- The divide group (R47, R108). -/
def divide (w : Nat) : R Instr := do
  need (fn w / 8 == 0) .reservedField
  let wide := fn w / 2 % 2 == 1
  let d ← v wide (d w)
  let a ← v wide (a w)
  let b ← bop wide w
  match fn w / 4 % 2, fn w % 2 with
  | 0, 0 => .ok (.divi wide d a b)
  | 0, _ => .ok (.divn wide d a b)
  | _, 0 => .ok (.remi wide d a b)
  | _, _ => .ok (.remn wide d a b)

/-- The int unary group (R47, R110). -/
def intUnary (w : Nat) : R Instr := do
  noB w
  let wide := fn w / 2 % 2 == 1
  let d ← v wide (d w)
  let a ← v wide (a w)
  match fn w / 4, fn w % 2 with
  | 0, 0 => .ok (.abs wide d a)
  | 1, 0 => .ok (.neg wide d a)
  | 2, 1 => .ok (.not wide d a)
  | 3, 1 => .ok (.clz wide d a)
  | 4, 1 => .ok (.popc wide d a)
  | 5, 1 => .ok (.brev wide d a)
  | _, _ => .error .badCode

/-- Format A, a logic operation (R47, R111). -/
def logic (mk : Bool → Nat → Nat → BOp → Instr) (w : Nat) : R Instr := do
  need (fn w / 2 == 0) .reservedField
  let wide := fn w % 2 == 1
  let d ← v wide (d w)
  let a ← v wide (a w)
  let b ← bop wide w
  .ok (mk wide d a b)

/-- The shift group of format A (R47, R112); the amount is one 32-bit register. -/
def shift (w : Nat) : R Instr := do
  need (fn w / 8 == 0) .reservedField
  let wide := fn w / 4 % 2 == 1
  let d ← v wide (d w)
  let a ← v wide (a w)
  let b ← bop false w
  match fn w % 4 with
  | 0 => .ok (.shl wide d a b)
  | 1 => .ok (.shr wide d a b)
  | 2 => .ok (.shra wide d a b)
  | _ => .ok (.rotl wide d a b)

/-- The shift group of format B (R49). -/
def shiftImm (w : Nat) : R Instr := do
  need (fld w 11 9 == 0) .reservedField
  let wide := fld w 8 8 == 1
  let n := fld w 5 0
  need (WF.amount wide n) .badLimit
  let d ← v wide (d w)
  let a ← v wide (a w)
  match fld w 7 6 with
  | 0 => .ok (.shlImm wide d a n)
  | 1 => .ok (.shrImm wide d a n)
  | 2 => .ok (.shraImm wide d a n)
  | _ => .ok (.rotlImm wide d a n)

/-- BFX and BFI (R49). -/
def bitField (ins : Bool) (w : Nat) : R Instr := do
  let pos := fld w 5 0
  let len := fld w 10 6 + 1
  need (WF.bitField pos len) .badLimit
  let d ← v false (d w)
  let a ← v false (a w)
  if ins then do
    need (fld w 11 11 == 0) .reservedField
    .ok (.bfi d a pos len)
  else .ok (.bfx (fld w 11 11 == 1) d a pos len)

/-- MOV (R48). -/
def mov (w : Nat) : R Instr := do
  need (fn w / 2 == 0 && a w == 0) .reservedField
  let wide := fn w == 1
  let d ← v wide (d w)
  let b ← bop wide w
  .ok (.mov wide d b)

/-- MOVS (R49). -/
def movs (w : Nat) : R Instr := do
  need (fld w 10 5 == 0) .reservedField
  let d ← u false (d w)
  if fld w 11 11 = 0 then do
    let a ← v false (a w)
    .ok (.movsLane d a (fld w 4 0))
  else do
    need (fld w 4 0 == 0) .reservedField
    let a ← u false (a w)
    .ok (.movsUniform d a)

/-- SEL (R48). -/
def sel (w : Nat) : R Instr := do
  need (fn w / 8 == 0) .reservedField
  let d ← v false (d w)
  let a ← v false (a w)
  let b ← bop false w
  .ok (.sel d a b (fn w % 8))

/-- CMP (R48). -/
def cmp (w : Nat) : R Instr := do
  let c ← cond (fn w / 4)
  let t := intTy (fn w % 4)
  let d ← kd (d w)
  let a ← v t.wide (a w)
  let b ← bop t.wide w
  .ok (.cmp c t d a b)

/-- KOP (R48). -/
def kop (w : Nat) : R Instr := do
  need (fn w / 8 == 0 && s w == 0) .reservedField
  match fn w % 8 with
  | 0 => do .ok (.kop .and (← kd (d w)) (← k (a w)) (← k (b w)))
  | 1 => do .ok (.kop .or (← kd (d w)) (← k (a w)) (← k (b w)))
  | 2 => do .ok (.kop .xor (← kd (d w)) (← k (a w)) (← k (b w)))
  | 3 => do .ok (.kop .andn (← kd (d w)) (← k (a w)) (← k (b w)))
  | 4 => do noB w; .ok (.kop .not (← kd (d w)) (← k (a w)) 0)
  | 5 => do noB w; .ok (.kop .mov (← kd (d w)) (← k (a w)) 0)
  | 6 => do noB w; .ok (.kop .froms (← kd (d w)) (← u false (a w)) 0)
  | _ => do noB w; .ok (.kop .tos (← u false (d w)) (← k (a w)) 0)

/-- Format A, an FP32 operation with a rounding code (R48). -/
def fp (mk : Rnd → Nat → Nat → BOp → Instr) (w : Nat) : R Instr := do
  need (fn w / 8 == 0) .reservedField
  let r ← rnd (fn w % 8)
  let d ← v false (d w)
  let a ← v false (a w)
  let b ← bop false w
  .ok (mk r d a b)

/-- FFMA, whose addend is the register after b (R48, R122). -/
def ffma (w : Nat) : R Instr := do
  need (fn w / 8 == 0) .reservedField
  let r ← rnd (fn w % 8)
  let d ← v false (d w)
  let a ← v false (a w)
  let b ← bopNext w
  .ok (.ffma r d a b)

/-- FMIN and FMAX (R48). -/
def fminmax (w : Nat) : R Instr := do
  need (fn w / 2 == 0) .reservedField
  let d ← v false (d w)
  let a ← v false (a w)
  let b ← bop false w
  .ok (if fn w = 0 then .fmin d a b else .fmax d a b)

/-- The FP unary group (R48). -/
def fpUnary (w : Nat) : R Instr := do
  noB w
  let d ← v false (d w)
  let a ← v false (a w)
  match fn w / 8 with
  | 3 => do let r ← rnd (fn w % 8); .ok (.frnd r d a)
  | 0 => do need (fn w % 8 == 0) .reservedField; .ok (.fabs d a)
  | 1 => do need (fn w % 8 == 0) .reservedField; .ok (.fneg d a)
  | _ => do need (fn w % 8 == 0) .reservedField; .ok (.fclass d a)

/-- FCMP (R48). -/
def fcmp (w : Nat) : R Instr := do
  need (fn w / 16 == 0) .reservedField
  let d ← kd (d w)
  let a ← v false (a w)
  let b ← bop false w
  .ok (.fcmp (fcond (fn w % 8)) (fn w / 8 % 2 == 1) d a b)

/-- The half2 group (R48). -/
def half2 (w : Nat) : R Instr := do
  let r ← rndHalf (fn w / 8)
  let bf := fn w / 4 % 2 == 1
  let d ← v false (d w)
  let a ← v false (a w)
  match fn w % 4 with
  | 0 => do .ok (.hadd2 bf r d a (← bop false w))
  | 1 => do .ok (.hmul2 bf r d a (← bop false w))
  | 2 => do .ok (.hfma2 bf r d a (← bopNext w))
  | _ => .error .badCode

/-- CVT (R48, R130). -/
def cvt (w : Nat) : R Instr := do
  need (s w == 0) .reservedField
  let dst ← elem (fn w % 16)
  let src ← elem (b w % 16)
  let r ← rnd (fn w / 16 * 4 + b w / 16)
  need (WF.cvt dst src r) .badCode
  let d ← v dst.wide (d w)
  let a ← v src.wide (a w)
  .ok (.cvt dst src r d a)

/-- The SFU group (R48). -/
def sfu (w : Nat) : R Instr := do
  noB w
  let d ← v false (d w)
  let a ← v false (a w)
  match fn w with
  | 0 => .ok (.frcp d a)
  | 1 => .ok (.frsq d a)
  | 2 => .ok (.fsqrt d a)
  | 3 => .ok (.fexp2 d a)
  | 4 => .ok (.flog2 d a)
  | 5 => .ok (.fsin d a)
  | 6 => .ok (.fcos d a)
  | 7 => .ok (.ftanh d a)
  | 8 => .ok (.fsigm d a)
  | _ => .error .badCode

/-- The operation of REDUCE and SCAN (R48). -/
def redOp : Nat → R RedOp
  | 0 => .ok .add | 1 => .ok .min | 2 => .ok .max | 3 => .ok .and | 4 => .ok .or | 5 => .ok .xor
  | _ => .error .badCode
/-- The type of REDUCE and SCAN with an operation (R48). -/
def redTy (op : RedOp) : Nat → R RedTy
  | 0 => if op = .add ∨ op = .min ∨ op = .max then .ok .f32 else .error .badCode
  | 1 => .ok .i32
  | 2 => .ok .n32
  | _ => .error .badCode

/-- REDUCE (R48). -/
def reduce (w : Nat) : R Instr := do
  noB w
  let op ← redOp (fn w % 8)
  let t ← redTy op (fn w / 8)
  let d ← u false (d w)
  let a ← v false (a w)
  .ok (.reduce op t d a)

/-- SCAN (R48). -/
def scan (w : Nat) : R Instr := do
  need (b w / 2 == 0 && s w == 0) .reservedField
  let op ← redOp (fn w % 8)
  let t ← redTy op (fn w / 8)
  let d ← v false (d w)
  let a ← v false (a w)
  .ok (.scan op (b w == 1) t d a)

/-- VOTE (R48). -/
def vote (w : Nat) : R Instr := do
  noB w
  need (fn w / 4 == 0) .reservedField
  let d ← u false (d w)
  let a ← k (a w)
  let op : VoteOp := match fn w with | 0 => .any | 1 => .all | 2 => .none | _ => .count
  .ok (.vote op d a)

/-- A format A instruction with d and a alone (R48). -/
def da (w : Nat) : R Unit := need (b w == 0 && fn w == 0 && s w == 0) .reservedField

/-- SHFL (R48). -/
def shfl (w : Nat) : R Instr := do
  need (fn w / 4 == 0) .reservedField
  let d ← v false (d w)
  let a ← v false (a w)
  let b ← bop false w
  let m : ShflMode := match fn w with | 0 => .idx | 1 => .up | 2 => .down | _ => .xor
  .ok (.shfl m d a b)

/-- LANE and NLN (R48). -/
def laneNln (w : Nat) : R Instr := do
  noB w
  need (a w == 0 && fn w / 2 == 0) .reservedField
  if fn w = 0 then do .ok (.lane (← v false (d w))) else do .ok (.nln (← u false (d w)))

/-- Field md of format T (R37). -/
def tmd (w : Nat) : Nat := fld w 23 20
/-- Field ma of format T. -/
def tma (w : Nat) : Nat := fld w 19 16
/-- Field mb of format T. -/
def tmb (w : Nat) : Nat := fld w 15 12
/-- Field td of format T. -/
def ttd (w : Nat) : Nat := fld w 11 8
/-- Field fn of format T. -/
def tfn (w : Nat) : Nat := fld w 7 0

/-- QUANT (R52). -/
def quant (w : Nat) : R Instr := do
  need (tmb w == 0 && tfn w / 64 == 0) .reservedField
  let t ← elem (tfn w % 16)
  need (t == .e4m3 || t == .e5m2 || t == .i8 || t.isGrouped) .badCode
  let r : Rot := match tfn w / 16 with | 0 => .none | 1 => .r32 | 2 => .r64 | _ => .r128
  .ok (.quant t r (tmd w) (tma w) (ttd w))

/-- DEQ (R52). -/
def deq (w : Nat) : R Instr := do
  need (tmb w == 0 && tfn w / 16 == 0) .reservedField
  let t ← elem (tfn w % 16)
  need (t == .f32 || t == .bf16 || t == .f16) .badCode
  .ok (.deq t (tmd w) (tma w) (ttd w))

/-- The output type of TACT (R52). -/
def tactOut : Nat → R ElemTy
  | 0 => .ok .f32 | 1 => .ok .bf16 | 2 => .ok .f16 | 3 => .ok .e4m3 | 4 => .ok .e5m2
  | _ => .error .badCode
/-- The activation of TACT (R52). -/
def tactAct : Nat → R Act
  | 0 => .ok .copy | 1 => .ok .relu | 2 => .ok .gelu | 3 => .ok .sigm | 4 => .ok .tanh
  | _ => .error .badCode

/-- TACT (R52). -/
def tact (w : Nat) : R Instr := do
  need (ttd w == 0) .reservedField
  let act ← tactAct (tfn w % 16)
  let out ← tactOut (tfn w / 16 % 8)
  if tfn w / 128 = 1 then .ok (.tact act out (some (tmb w)) (tmd w) (tma w))
  else do
    need (tmb w == 0) .reservedField
    .ok (.tact act out none (tmd w) (tma w))

/-- TRED (R52). -/
def tred (w : Nat) : R Instr := do
  need (tmb w == 0 && ttd w == 0 && tfn w / 8 == 0) .reservedField
  let op : TredOp := match tfn w % 4 with | 0 => .sum | 1 => .max | 2 => .min | _ => .amax
  .ok (.tred op (tfn w / 4 == 1) (tmd w) (tma w))

/-- MMA (R52, R53). -/
def mma (w : Nat) : R Instr := do
  need (ttd w == 0) .reservedField
  let ta ← elem (tfn w % 16)
  let tb ← elem (tfn w / 16)
  need (WF.mmaPair ta tb) .badCode
  .ok (.mma ta tb (tmd w) (tma w) (tmb w))

/-- The load forms of format M (R51, R191). -/
def load (upToWord : Bool) (dst : Bool → Nat → R Nat) (base : Nat → R Nat)
    (mk : Sz → Bool → Nat → Nat → Int → Instr) (w : Nat) : R Instr := do
  let z := sz (fld w 8 7)
  need (fld w 11 10 == 0) .reservedField
  need (WF.loadSz upToWord z (fld w 9 9 == 1)) .badCode
  let d ← dst (z == .d) (d w)
  let b ← base (a w)
  .ok (mk z (fld w 9 9 == 1) d b (signed 7 (fld w 6 0)))

/-- The store forms of format M (R51, R191). -/
def store (upToWord : Bool) (base : Nat → R Nat) (mk : Sz → Nat → Nat → Int → Nat → Instr) (w : Nat) : R Instr := do
  let z := sz (fld w 8 7)
  need (!(upToWord && z == .d)) .badCode
  let d ← v (z == .d) (d w)
  let b ← base (a w)
  .ok (mk z d b (signed 7 (fld w 6 0)) (fld w 11 9))

/-- PFX (R51, R191). -/
def pfx (w : Nat) : R Instr := do
  let z := sz (fld w 8 7)
  let b ← v true (a w)
  let o := signed 7 (fld w 6 0)
  match d w with
  | 0 => .ok (.pfx .l1 z b o (fld w 11 9))
  | 1 => .ok (.pfx .l2 z b o (fld w 11 9))
  | 2 => do need (z == .w || z == .d) .badCode; .ok (.pfx .ind z b o (fld w 11 9))
  | _ => .error .badCode

/-- ATOMF (R48). -/
def atomf (w : Nat) : R Instr := do
  let d ← v false (d w)
  let a ← v false (a w)
  let b ← bop false w
  match fn w with
  | 0 => .ok (.atomf .addI32 d a b)
  | 1 => .ok (.atomf .minI32 d a b)
  | 2 => .ok (.atomf .maxI32 d a b)
  | 3 => .ok (.atomf .minN32 d a b)
  | 4 => .ok (.atomf .maxN32 d a b)
  | 5 => .ok (.atomf .and d a b)
  | 6 => .ok (.atomf .or d a b)
  | 7 => .ok (.atomf .xor d a b)
  | 8 => .ok (.atomf .swap d a b)
  | 9 => .ok (.atomf .cas d a b)
  | 10 => .ok (.atomf .addF32 d a b)
  | _ => .error .badCode

/-- FENCE (R50, R207). -/
def fence (w : Nat) : R Instr := do
  need (d w == 0 && fld w 17 4 == 0) .reservedField
  let kd : FenceKind := match fld w 1 0 with | 0 => .rel | 1 => .acq | 2 => .ar | _ => .sc
  .ok (.fence kd (scope (fld w 3 2)))

/-- A release suffix: a scope is allowed only with .rel (R50, R54). -/
def relOf (rel sc : Nat) : R (Option Scope) :=
  if rel = 1 then .ok (some (scope sc)) else do need (sc == 0) .reservedField; .ok none

/-- A payload of n registers from vN (R50). -/
def payload (d n : Nat) : R Unit := need (n ≤ 8 && WF.vrun d n) .badLimit

/-- RETURN (R50). -/
def ret (w : Nat) : R Instr := do
  need (fld w 17 7 == 0) .reservedField
  payload (d w) (fld w 3 0)
  let r ← relOf (fld w 6 6) (fld w 5 4)
  .ok (.ret (d w) (fld w 3 0) r)

/-- Format C with d naming a uniform register and imm18 zero (R50). -/
def uniC (mk : Nat → Instr) (w : Nat) : R Instr := do
  need (fld w 17 0 == 0) .reservedField
  let d ← u false (d w)
  .ok (mk d)

/-- A MOVC selector (R276). -/
def ctl : Nat → R Ctl
  | 0 => .ok .fpctl | 1 => .ok .trapen | 2 => .ok .flags | 3 => .ok .mxcnt
  | 4 => .ok .ctxid | 5 => .ok .priv | 6 => .ok .leash | 7 => .ok .faultq
  | _ => .error .badCode

/-- MOVC (R49, R276, R277). -/
def movc (w : Nat) : R Instr := do
  need (a w == 0 && fld w 10 6 == 0) .reservedField
  let d ← u false (d w)
  let c ← ctl (fld w 5 0)
  if fld w 11 11 = 0 then .ok (.movcRead d c)
  else do
    need (c == .fpctl || c == .trapen || c == .flags || c == .mxcnt) .badCode
    .ok (.movcWrite d c)

/-- Instructions of one word: opcodes 0x01 to 0x32 (R41). -/
def lane1 (op w : Nat) : R Instr :=
  match op with
  | 0x01 => arithSat .add w
  | 0x02 => immB .addImm w
  | 0x03 => arithSat .sub w
  | 0x04 => arithSat .mul w
  | 0x05 => immB .mulImm w
  | 0x06 => arith .mulh w
  | 0x07 => arith .mad w
  | 0x08 => divide w
  | 0x09 => arith .min w
  | 0x0A => arith .max w
  | 0x0B => intUnary w
  | 0x0C => logic .and w
  | 0x0D => immB .andImm w
  | 0x0E => logic .or w
  | 0x0F => immB .orImm w
  | 0x10 => logic .xor w
  | 0x11 => immB .xorImm w
  | 0x12 => logic .andn w
  | 0x13 => shift w
  | 0x14 => shiftImm w
  | 0x15 => bitField false w
  | 0x16 => bitField true w
  | 0x17 => mov w
  | 0x18 => movs w
  | 0x19 => do .ok (.moviV (← v false (d w)) (signed 18 (fld w 17 0)))
  | 0x1A => do .ok (.moviS (← u false (d w)) (signed 18 (fld w 17 0)))
  | 0x1B => do .ok (.movhiV (← v false (d w)) (fld w 17 0))
  | 0x1C => do .ok (.movhiS (← u false (d w)) (fld w 17 0))
  | 0x1D => sel w
  | 0x1E => cmp w
  | 0x20 => kop w
  | 0x21 => fp .fadd w
  | 0x22 => fp .fsub w
  | 0x23 => fp .fmul w
  | 0x24 => ffma w
  | 0x25 => fminmax w
  | 0x26 => fpUnary w
  | 0x27 => fcmp w
  | 0x28 => fp .fscale w
  | 0x29 => half2 w
  | 0x2A => cvt w
  | 0x2B => sfu w
  | 0x2C => reduce w
  | 0x2D => scan w
  | 0x2E => vote w
  | 0x2F => do da w; .ok (.ballot (← kd (d w)) (← v false (a w)))
  | 0x30 => shfl w
  | 0x31 => do da w; .ok (.confl (← v false (d w)) (← v false (a w)))
  | 0x32 => laneNln w
  | _ => .error .badCode

/-- Instructions of one word: opcodes 0x34 to 0x5D (R41). -/
def sys1 (op w : Nat) : R Instr :=
  match op with
  | 0x34 => do need (fld w 19 0 == 0) .reservedField; .ok (.tzero (tmd w))
  | 0x35 => do
    need (tma w == 0 && tmb w == 0 && tfn w / 2 == 0) .reservedField
    .ok (.tld (tfn w == 1) (tmd w) (ttd w))
  | 0x36 => do
    need (tmd w == 0 && tmb w == 0 && tfn w / 2 == 0) .reservedField
    .ok (.tst (tfn w == 1) (tma w) (ttd w))
  | 0x37 => mma w
  | 0x38 => quant w
  | 0x39 => deq w
  | 0x3A => tact w
  | 0x3B => tred w
  | 0x3C => uniC .bfence w
  | 0x3D => uniC .bwait w
  | 0x3E => load false v (v true) .ld w
  | 0x3F => store false (v true) .st w
  | 0x40 => load false u (u true) .lds w
  | 0x41 => load true v (v false) .ldf w
  | 0x42 => store true (v false) .stf w
  | 0x43 => load true v (v false) .ldp w
  | 0x44 => store true (v false) .stp w
  | 0x45 => load false v (u false) .ldc w
  | 0x46 => atomf w
  | 0x47 => fence w
  | 0x48 => pfx w
  | 0x49 => ret w
  | 0x4A => do need (fld w 23 0 == 0) .reservedField; .ok .endBlock
  | 0x4B => do
    need (a w == 0 && fld w 11 3 == 0) .reservedField
    need (fld w 2 0 < 6) .badCode
    .ok (.idxF (← v false (d w)) (fld w 2 0))
  | 0x4C => do need (a w == 0) .reservedField; da w; .ok (.tagc (← v true (d w)))
  | 0x4D => do
    need (fn w / 2 == 0) .reservedField
    let d ← v true (d w)
    let a ← v true (a w)
    if fn w = 0 then do noB w; .ok (.mktag d a) else do .ok (.mktagColour d a (← bop false w))
  | 0x4E => do need (a w == 0) .reservedField; da w; .ok (.clock (← u true (d w)))
  | 0x4F => do need (d w == 0) .reservedField; .ok (.trap (fld w 17 0))
  | 0x50 => do need (d w == 0) .reservedField; .ok (.brk (fld w 17 0))
  | 0x51 => do need (fld w 23 0 == 0) .reservedField; .ok .nop
  | 0x52 => movc w
  | 0x53 => do
    need (d w == 0 && fn w == 0 && s w == 1) .reservedField
    .ok (.cwbi (← u true (a w)) (← u false (b w)))
  | 0x54 => do
    need (d w == 0 && fn w == 0 && s w == 1) .reservedField
    .ok (.rebind (← u false (a w)) (← u false (b w)))
  | 0x55 => uniC .tresume w
  | 0x56 => uniC .tskip w
  | 0x57 => uniC .tkill w
  | 0x58 => uniC .replay w
  | 0x59 => do
    need (fld w 11 4 == 0) .reservedField
    .ok (.faultrd (← u false (d w)) (← u false (a w)) (fld w 3 0))
  | 0x5A => do need (d w == 0) .reservedField; da w; .ok (.rdrop (← u true (a w)))
  | 0x5B => do need (d w == 0) .reservedField; da w; .ok (.rfree (← u true (a w)))
  | 0x5C => do
    need (d w == 0 && fn w / 2 == 0) .reservedField
    noB w
    .ok (.rpin (fn w == 1) (← u true (a w)))
  | 0x5D => do da w; .ok (.rstat (← u false (d w)) (← u true (a w)))
  | _ => .error .badCode

/-- The tag operand of SEND and SENDM by tag mode (R54). -/
def tagSrc (w mode : Nat) : R TagSrc :=
  match mode with
  | 0 => do .ok (.lane (← v true (a w)))
  | 1 => do .ok (.uni (← u true (a w)))
  | 2 => do need (a w == 0) .reservedField; .ok .self
  | _ => .error .badCode

/-- SEND and SENDM (R54). -/
def send (many : Bool) (w x : Nat) : R Instr := do
  need (fn w / 8 == 0 && s w == 0 && fld x 31 27 == 0) .reservedField
  let t ← tagSrc w (fld x 26 25)
  let n := fld x 21 18
  payload (d w) n
  let r ← relOf (fld x 24 24) (fld x 23 22)
  if many then do
    need (fld x 17 0 == 0) .reservedField
    .ok (.sendm t (d w) n (fn w % 8) r (b w))
  else do
    need (b w == 0) .reservedField
    .ok (.send t (d w) n (fn w % 8) r (fld x 17 16) (fld x 15 0))

/-- SPAWN (R55). -/
def spawn (w x : Nat) : R Instr := do
  need (s w == 0) .reservedField
  payload (d w) (b w / 4)
  let a ← v true (a w)
  .ok (.spawn (d w) a (b w / 4) (b w % 4) (fn w % 8) (fn w / 8) (fld x 15 0) (fld x 31 16))

/-- The mode of CPY (R56). -/
def cpyMode : Nat → R CpyMode
  | 0 => .ok .f | 1 => .ok .h | 2 => .ok .t | 3 => .ok .c | 4 => .ok .m | 5 => .ok .gather | 6 => .ok .remote
  | _ => .error .badCode

/-- CPY (R56, R208). -/
def cpy (w x : Nat) : R Instr := do
  need (fn w == 0) .reservedField
  let mode ← cpyMode (fld x 20 18)
  let o ← bop false w
  let es := fld x 26 24
  let once := fld x 23 23 == 1
  let sc := scope (fld x 22 21)
  need (WF.cpy mode es once sc (d w) (a w) o (fld x 31 27) (fld x 17 16) (fld x 15 0)) .badLimit
  .ok (.cpy mode es once sc (d w) (a w) o (fld x 31 27) (fld x 17 16) (fld x 15 0))

/-- MMAS (R57). -/
def mmas (w x : Nat) : R Instr := do
  need (fn w == 0 && s w == 0 && fld x 31 18 == 0 && fld x 3 0 == 0) .reservedField
  need (fld x 17 16 < 2) .badCode
  let ta ← elem (fld x 11 8)
  let tb ← elem (fld x 15 12)
  need (WF.mmaPair ta tb) .badCode
  .ok (.mmas (fld x 17 16 == 1) ta tb (← m (d w)) (← m (a w)) (← m (b w)) (fld x 7 4))

/-- MMAQ (R57). -/
def mmaq (w x : Nat) : R Instr := do
  need (fn w == 0 && s w == 0 && fld x 31 12 == 0) .reservedField
  let ta ← elem (fld x 7 4)
  let tw ← elem (fld x 11 8)
  need (WF.mmaqPair ta tw) .badCode
  .ok (.mmaq ta tw (← m (d w)) (← m (a w)) (← m (b w)) (fld x 3 0))

/-- LMV (R58). -/
def lmv (w x : Nat) : R Instr := do
  need (fn w == 0 && s w == 0 && fld x 31 28 == 0) .reservedField
  let rows := fld x 21 18 + 1
  let cols := fld x 25 22 + 1
  let off := fld x 17 0
  need (WF.vrun (d w) rows && WF.vrun (a w) cols && off % 4 == 0) .badLimit
  if fld x 27 27 = 1 then do
    need (WF.vrun (b w) rows) .badLimit
    .ok (.lmv (fld x 26 26 == 1) (some (b w)) (d w) (a w) rows cols off)
  else do
    need (b w == 0) .reservedField
    .ok (.lmv (fld x 26 26 == 1) none (d w) (a w) rows cols off)

/-- TDESC (R60, R147). -/
def tdesc (w x : Nat) : R Instr := do
  da w
  let td ← m (d w)
  let a ← u false (a w)
  need ((Desc.ofWords x 0).word0Ok) .badLimit
  .ok (.tdesc td a x)

/-- HCMD (R60, R278, R279). -/
def hcmd (w x : Nat) : R Instr := do
  need (fn w == 0 && s w == 1 && fld x 31 16 == 0) .reservedField
  let d ← u false (d w)
  let a ← u true (a w)
  let b ← u false (b w)
  match fld x 7 0 with
  | 1 => do need (fld x 15 8 == 0) .reservedField; .ok (.hcmdMap d a b)
  | 2 => do need (fld x 15 8 == 0) .reservedField; .ok (.hcmdUnmap d a b)
  | 3 => do need (fld x 15 8 == 0) .reservedField; .ok (.hcmdProtect d a b)
  | 4 => do need (fld x 15 8 == 0) .reservedField; .ok (.hcmdQuery d a b)
  | 5 => .ok (.hcmdTcflush d a b (fld x 15 8))
  | _ => .error .badCode

/-- RSEAL (R60, R343). -/
def rseal (w x : Nat) : R Instr := do
  need (fn w == 0 && s w == 1 && fld x 31 19 == 0) .reservedField
  need (d w == 0 || d w == 8 || d w == 16) .badRegister
  let a ← u true (a w)
  need (b w < 29) .badRegister
  need (fld x 18 16 ≤ 4) .badCode
  .ok (.rseal (d w) a (b w) (fld x 15 0) (fld x 18 16))

/-- The operation of a global atomic (R61). -/
def atomOp : Nat → R AtomOp
  | 0 => .ok .add | 1 => .ok .min | 2 => .ok .max | 3 => .ok .and | 4 => .ok .or | 5 => .ok .xor
  | 6 => .ok .swap | 7 => .ok .cas
  | _ => .error .badCode
/-- The order of a global atomic (R61). -/
def atomOrder : Nat → AtomOrder
  | 0 => .relaxed | 1 => .acq | 2 => .rel | _ => .ar

/-- ATOM, FATOM and RED (R61, R205). -/
def atom (w x : Nat) : R Instr := do
  need (fn w == 0 && fld x 31 13 == 0) .reservedField
  let op ← atomOp (fld x 3 0)
  let o := atomOrder (fld x 12 11)
  let sc := scope (fld x 9 8)
  let a ← v true (a w)
  if fld x 7 4 = 8 then do
    need (fld x 10 10 == 1 && (op == .add || op == .min || op == .max)) .badCode
    .ok (.fatom op sc o (← v false (d w)) a (← bop false w))
  else do
    need (fld x 7 4 < 4) .badCode
    let t := intTy (fld x 7 4)
    if fld x 10 10 = 1 then do .ok (.atom op t sc o (← v t.wide (d w)) a (← bop t.wide w))
    else do
      need (op != .swap && op != .cas && (o == .relaxed || o == .rel)) .badCode
      need (d w == 0) .reservedField
      .ok (.red op t sc o a (← bop t.wide w))

/-- Instructions of two words: opcodes 0x70 to 0x7C (R41). -/
def two (op w x : Nat) : R Instr :=
  match op with
  | 0x70 => do
    need (fn w / 2 == 0 && a w == 0 && b w == 0 && s w == 0) .reservedField
    if fn w = 1 then do .ok (.moviImm32 true (← u false (d w)) x)
    else do .ok (.moviImm32 false (← v false (d w)) x)
  | 0x71 => send false w x
  | 0x72 => send true w x
  | 0x73 => spawn w x
  | 0x74 => cpy w x
  | 0x75 => mmas w x
  | 0x76 => mmaq w x
  | 0x77 => lmv w x
  | 0x78 => tdesc w x
  | 0x79 => hcmd w x
  | 0x7A => rseal w x
  | 0x7B => atom w x
  | 0x7C => do
    noB w
    let c ← cond (fn w / 4)
    need (fn w / 2 % 2 == 0) .badCode
    .ok (.cmpImm c (fn w % 2 == 1) (← kd (d w)) (← v false (a w)) x)
  | _ => .error .badCode

end Dec

/-- The major opcode of a word (R34). -/
def majorOp (w : Nat) : Nat := fld w 30 24

/-- The major opcodes that are no instruction (R42). -/
def unassigned (op : Nat) : Bool :=
  op == 0 || op == 0x1F || op == 0x33 || (0x5E ≤ op && op ≤ 0x6F) || (0x7D ≤ op && op ≤ 0x7F)

/-- How many words an instruction with this major opcode has (R34). -/
def opWords (op : Nat) : Nat := if 0x70 ≤ op && op < 0x7F then 2 else 1

/-- The decoder: the instruction that words w0 and x give, where x is read only by a two-word opcode. A word
whose opcode is no instruction gives the row UNASSIGNED_OPCODE (R42), which fails check 1 of R43; every other
refusal is a failure of check 2. -/
def decodeWords (w0 : Nat) (x : Option Nat) : Except Reject Instr :=
  let op := majorOp w0
  if unassigned op then .ok (.unassignedOpcode op)
  else if opWords op = 2 then
    match x with
    | some w1 => Dec.two op w0 w1
    | none => .error .noSecondWord
  else if op < 0x33 then Dec.lane1 op w0 else Dec.sys1 op w0

/-- One decoded instruction: its W bit, the instruction, its words (R34). -/
structure Decoded where
  w     : Bool
  instr : Instr
  len   : Nat
deriving DecidableEq, Repr

/-- The instruction at the head of a list of words, with what stands after it; `none` of no words. -/
def decode : List Nat → Option (Except Reject Decoded × List Nat)
  | [] => none
  | w0 :: rest =>
    let n := opWords (majorOp w0)
    some ((decodeWords w0 rest.head?).map fun i => { w := fld w0 31 31 = 1, instr := i, len := n }, rest.drop (n - 1))

/-- The words a list of bytes holds, each little-endian (R4); bytes short of a word at the end are dropped. -/
def wordsOfBytes : List Byte → List Nat
  | a :: b :: c :: d :: rest =>
    (a.toNat + 2 ^ 8 * b.toNat + 2 ^ 16 * c.toNat + 2 ^ 24 * d.toNat) :: wordsOfBytes rest
  | _ => []

/-- The instruction at the head of a list of bytes. -/
def decodeBytes (bs : List Byte) : Option (Except Reject Decoded) := (decode (wordsOfBytes bs)).map Prod.fst

namespace Enc

/-- Format A and the first word of format X (R37), without W. -/
def fmtA (op d a b fn s : Nat) : Nat := op * 2 ^ 24 + d * 2 ^ 18 + a * 2 ^ 12 + b * 2 ^ 6 + fn * 2 + s
/-- Format B (R37). -/
def fmtB (op d a imm : Nat) : Nat := op * 2 ^ 24 + d * 2 ^ 18 + a * 2 ^ 12 + imm
/-- Format C (R37). -/
def fmtC (op d imm : Nat) : Nat := op * 2 ^ 24 + d * 2 ^ 18 + imm
/-- Format M (R37). -/
def fmtM (op d base k sz imm : Nat) : Nat :=
  op * 2 ^ 24 + d * 2 ^ 18 + base * 2 ^ 12 + k * 2 ^ 9 + sz * 2 ^ 7 + imm
/-- Format T (R37). -/
def fmtT (op md ma mb td fn : Nat) : Nat :=
  op * 2 ^ 24 + md * 2 ^ 20 + ma * 2 ^ 16 + mb * 2 ^ 12 + td * 2 ^ 8 + fn

/-- A signed number in an n-bit field (R38). -/
def imm (n : Nat) (i : Int) : Nat := (i % (2 ^ n : Nat)).toNat
/-- The number of the register that b names (R40). -/
def breg : BOp → Nat
  | .v r => r
  | .s r => r
/-- S (R40). -/
def bs : BOp → Nat
  | .v _ => 0
  | .s _ => 1
/-- Format A with a b operand. -/
def opA (op d a : Nat) (b : BOp) (fn : Nat) : Nat := fmtA op d a (breg b) fn (bs b)
/-- A flag bit. -/
def bit (b : Bool) : Nat := if b then 1 else 0
/-- The type field t (R47). -/
def ty : IntTy → Nat
  | .i32 => 0 | .n32 => 1 | .i64 => 2 | .n64 => 3
/-- The rounding code (R46). -/
def rnd : Rnd → Nat
  | .dyn => 0 | .rne => 1 | .rtz => 2 | .rup => 3 | .rdn => 4
/-- The condition of CMP (R48). -/
def cond : Cond → Nat
  | .eq => 0 | .ne => 1 | .lt => 2 | .le => 3 | .gt => 4 | .ge => 5
/-- The condition of FCMP (R48). -/
def fcond : FCond → Nat
  | .eq => 0 | .ne => 1 | .lt => 2 | .le => 3 | .gt => 4 | .ge => 5 | .un => 6 | .ord => 7
/-- The operation of REDUCE and SCAN (R48). -/
def redOp : RedOp → Nat
  | .add => 0 | .min => 1 | .max => 2 | .and => 3 | .or => 4 | .xor => 5
/-- The type of REDUCE and SCAN (R48). -/
def redTy : RedTy → Nat
  | .f32 => 0 | .i32 => 1 | .n32 => 2
/-- The operation of VOTE (R48). -/
def voteOp : VoteOp → Nat
  | .any => 0 | .all => 1 | .none => 2 | .count => 3
/-- The mode of SHFL (R48). -/
def shflMode : ShflMode → Nat
  | .idx => 0 | .up => 1 | .down => 2 | .xor => 3
/-- The operation of ATOMF (R48). -/
def atomfOp : AtomfOp → Nat
  | .addI32 => 0 | .minI32 => 1 | .maxI32 => 2 | .minN32 => 3 | .maxN32 => 4 | .and => 5 | .or => 6
  | .xor => 7 | .swap => 8 | .cas => 9 | .addF32 => 10
/-- The scope (R32). -/
def scope : Scope → Nat
  | .core => 0 | .die => 1 | .dev => 2 | .sys => 3
/-- The size (R51). -/
def sz : Sz → Nat
  | .b => 0 | .h => 1 | .w => 2 | .d => 3
/-- The selector (R276). -/
def ctl : Ctl → Nat
  | .fpctl => 0 | .trapen => 1 | .flags => 2 | .mxcnt => 3 | .ctxid => 4 | .priv => 5 | .leash => 6 | .faultq => 7
/-- The operation of ATOM, FATOM and RED (R61). -/
def atomOp : AtomOp → Nat
  | .add => 0 | .min => 1 | .max => 2 | .and => 3 | .or => 4 | .xor => 5 | .swap => 6 | .cas => 7
/-- The order of ATOM, FATOM and RED (R61). -/
def atomOrder : AtomOrder → Nat
  | .relaxed => 0 | .acq => 1 | .rel => 2 | .ar => 3
/-- The mode of CPY (R56). -/
def cpyMode : CpyMode → Nat
  | .f => 0 | .h => 1 | .t => 2 | .c => 3 | .m => 4 | .gather => 5 | .remote => 6
/-- The rotation of QUANT (R52). -/
def rot : Rot → Nat
  | .none => 0 | .r32 => 1 | .r64 => 2 | .r128 => 3
/-- The output type of TACT (R52). -/
def tactOut : ElemTy → Nat
  | .bf16 => 1 | .f16 => 2 | .e4m3 => 3 | .e5m2 => 4 | _ => 0
/-- The activation of TACT (R52). -/
def tactAct : Act → Nat
  | .copy => 0 | .relu => 1 | .gelu => 2 | .sigm => 3 | .tanh => 4
/-- The operation of TRED (R52). -/
def tredOp : TredOp → Nat
  | .sum => 0 | .max => 1 | .min => 2 | .amax => 3
/-- The a field and the tag mode of a tag operand (R54). -/
def tagReg : TagSrc → Nat
  | .lane a => a
  | .uni a => a
  | .self => 0
/-- The tag mode (R54). -/
def tagMode : TagSrc → Nat
  | .lane _ => 0 | .uni _ => 1 | .self => 2
/-- Bits 24:22 of word 1 of SEND and SENDM, or bits 6:4 of RETURN: .rel over the scope (R50, R54). -/
def rel : Option Scope → Nat
  | none => 0
  | some sc => 4 + scope sc
/-- Word 1 of an atomic (R61). -/
def atomWord (op : AtomOp) (tyCode : Nat) (sc : Scope) (o : AtomOrder) (ret : Nat) : Nat :=
  atomOrder o * 2 ^ 11 + ret * 2 ^ 10 + scope sc * 2 ^ 8 + tyCode * 2 ^ 4 + atomOp op
/-- The shift group of format B (R49). -/
def shiftImm (wide : Bool) (d a n sel : Nat) : Nat := fmtB 0x14 d a (bit wide * 2 ^ 8 + sel * 2 ^ 6 + n)
/-- A load of format M (R51). -/
def load (op : Nat) (z : Sz) (sext : Bool) (d b : Nat) (o : Int) : Nat := fmtM op d b (bit sext) (sz z) (imm 7 o)
/-- A store of format M (R51). -/
def store (op : Nat) (z : Sz) (d b : Nat) (o : Int) (k : Nat) : Nat := fmtM op d b k (sz z) (imm 7 o)
/-- A format A instruction of the divide, unary, logic or shift groups with a width bit. -/
def alu (op d a : Nat) (b : BOp) (fn : Nat) : List Nat := [opA op d a b fn]

end Enc

open Enc in
/-- The words of a well-formed instruction, without W; the event rows have none (R34 to R61). -/
def encode : Instr → List Nat
  | .add s t d a b => alu 0x01 d a b (bit s * 4 + ty t)
  | .addImm d a i => [fmtB 0x02 d a (imm 12 i)]
  | .sub s t d a b => alu 0x03 d a b (bit s * 4 + ty t)
  | .mul s t d a b => alu 0x04 d a b (bit s * 4 + ty t)
  | .mulImm d a i => [fmtB 0x05 d a (imm 12 i)]
  | .mulh t d a b => alu 0x06 d a b (ty t)
  | .mad t d a b => alu 0x07 d a b (ty t)
  | .divi w d a b => alu 0x08 d a b (bit w * 2)
  | .divn w d a b => alu 0x08 d a b (bit w * 2 + 1)
  | .remi w d a b => alu 0x08 d a b (4 + bit w * 2)
  | .remn w d a b => alu 0x08 d a b (4 + bit w * 2 + 1)
  | .min t d a b => alu 0x09 d a b (ty t)
  | .max t d a b => alu 0x0A d a b (ty t)
  | .abs w d a => [fmtA 0x0B d a 0 (0 + bit w * 2) 0]
  | .neg w d a => [fmtA 0x0B d a 0 (4 + bit w * 2) 0]
  | .not w d a => [fmtA 0x0B d a 0 (8 + bit w * 2 + 1) 0]
  | .clz w d a => [fmtA 0x0B d a 0 (12 + bit w * 2 + 1) 0]
  | .popc w d a => [fmtA 0x0B d a 0 (16 + bit w * 2 + 1) 0]
  | .brev w d a => [fmtA 0x0B d a 0 (20 + bit w * 2 + 1) 0]
  | .and w d a b => alu 0x0C d a b (bit w)
  | .andImm d a i => [fmtB 0x0D d a (imm 12 i)]
  | .or w d a b => alu 0x0E d a b (bit w)
  | .orImm d a i => [fmtB 0x0F d a (imm 12 i)]
  | .xor w d a b => alu 0x10 d a b (bit w)
  | .xorImm d a i => [fmtB 0x11 d a (imm 12 i)]
  | .andn w d a b => alu 0x12 d a b (bit w)
  | .shl w d a b => alu 0x13 d a b (bit w * 4)
  | .shr w d a b => alu 0x13 d a b (bit w * 4 + 1)
  | .shra w d a b => alu 0x13 d a b (bit w * 4 + 2)
  | .rotl w d a b => alu 0x13 d a b (bit w * 4 + 3)
  | .shlImm w d a n => [shiftImm w d a n 0]
  | .shrImm w d a n => [shiftImm w d a n 1]
  | .shraImm w d a n => [shiftImm w d a n 2]
  | .rotlImm w d a n => [shiftImm w d a n 3]
  | .bfx x d a p l => [fmtB 0x15 d a (bit x * 2 ^ 11 + (l - 1) * 2 ^ 6 + p)]
  | .bfi d a p l => [fmtB 0x16 d a ((l - 1) * 2 ^ 6 + p)]
  | .mov w d b => alu 0x17 d 0 b (bit w)
  | .movsLane d a l => [fmtB 0x18 d a l]
  | .movsUniform d a => [fmtB 0x18 d a (2 ^ 11)]
  | .moviV d i => [fmtC 0x19 d (imm 18 i)]
  | .moviS d i => [fmtC 0x1A d (imm 18 i)]
  | .moviImm32 u d i => [fmtA 0x70 d 0 0 (bit u) 0, i]
  | .movhiV d i => [fmtC 0x1B d i]
  | .movhiS d i => [fmtC 0x1C d i]
  | .sel d a b k => alu 0x1D d a b k
  | .cmp c t d a b => alu 0x1E d a b (cond c * 4 + ty t)
  | .cmpImm c u d a i => [fmtA 0x7C d a 0 (cond c * 4 + bit u) 0, i]
  | .kop op d a b =>
    [fmtA 0x20 d a b (match op with
      | .and => 0 | .or => 1 | .xor => 2 | .andn => 3 | .not => 4 | .mov => 5 | .froms => 6 | .tos => 7) 0]
  | .fadd r d a b => alu 0x21 d a b (rnd r)
  | .fsub r d a b => alu 0x22 d a b (rnd r)
  | .fmul r d a b => alu 0x23 d a b (rnd r)
  | .ffma r d a b => alu 0x24 d a b (rnd r)
  | .fmin d a b => alu 0x25 d a b 0
  | .fmax d a b => alu 0x25 d a b 1
  | .fabs d a => [fmtA 0x26 d a 0 0 0]
  | .fneg d a => [fmtA 0x26 d a 0 8 0]
  | .fclass d a => [fmtA 0x26 d a 0 16 0]
  | .frnd r d a => [fmtA 0x26 d a 0 (24 + rnd r) 0]
  | .fcmp c x d a b => alu 0x27 d a b (bit x * 8 + fcond c)
  | .fscale r d a b => alu 0x28 d a b (rnd r)
  | .hadd2 bf r d a b => alu 0x29 d a b (rnd r * 8 + bit bf * 4)
  | .hmul2 bf r d a b => alu 0x29 d a b (rnd r * 8 + bit bf * 4 + 1)
  | .hfma2 bf r d a b => alu 0x29 d a b (rnd r * 8 + bit bf * 4 + 2)
  | .cvt dst src r d a => [fmtA 0x2A d a (rnd r % 4 * 16 + src.code) (rnd r / 4 * 16 + dst.code) 0]
  | .frcp d a => [fmtA 0x2B d a 0 0 0]
  | .frsq d a => [fmtA 0x2B d a 0 1 0]
  | .fsqrt d a => [fmtA 0x2B d a 0 2 0]
  | .fexp2 d a => [fmtA 0x2B d a 0 3 0]
  | .flog2 d a => [fmtA 0x2B d a 0 4 0]
  | .fsin d a => [fmtA 0x2B d a 0 5 0]
  | .fcos d a => [fmtA 0x2B d a 0 6 0]
  | .ftanh d a => [fmtA 0x2B d a 0 7 0]
  | .fsigm d a => [fmtA 0x2B d a 0 8 0]
  | .lmv w bias d a rows cols off =>
    [fmtA 0x77 d a (match bias with | none => 0 | some r => r) 0 0,
     (match bias with | none => 0 | some _ => 1) * 2 ^ 27 + bit w * 2 ^ 26 + (cols - 1) * 2 ^ 22 + (rows - 1) * 2 ^ 18 + off]
  | .reduce op t d a => [fmtA 0x2C d a 0 (redTy t * 8 + redOp op) 0]
  | .scan op x t d a => [fmtA 0x2D d a (bit x) (redTy t * 8 + redOp op) 0]
  | .vote op d a => [fmtA 0x2E d a 0 (voteOp op) 0]
  | .ballot d a => [fmtA 0x2F d a 0 0 0]
  | .shfl m d a b => alu 0x30 d a b (shflMode m)
  | .confl d a => [fmtA 0x31 d a 0 0 0]
  | .lane d => [fmtA 0x32 d 0 0 0 0]
  | .nln d => [fmtA 0x32 d 0 0 1 0]
  | .tzero m => [fmtT 0x34 m 0 0 0 0]
  | .tld tr m t => [fmtT 0x35 m 0 0 t (bit tr)]
  | .tst tr m t => [fmtT 0x36 0 m 0 t (bit tr)]
  | .mma ta tb c a b => [fmtT 0x37 c a b 0 (tb.code * 16 + ta.code)]
  | .mmas p ta tb c a b m => [fmtA 0x75 c a b 0 0, bit p * 2 ^ 16 + tb.code * 2 ^ 12 + ta.code * 2 ^ 8 + m * 2 ^ 4]
  | .mmaq ta tw c a b t => [fmtA 0x76 c a b 0 0, tw.code * 2 ^ 8 + ta.code * 2 ^ 4 + t]
  | .quant t r d a td => [fmtT 0x38 d a 0 td (rot r * 16 + t.code)]
  | .deq t d a td => [fmtT 0x39 d a 0 td t.code]
  | .tact act out bias d a =>
    [fmtT 0x3A d a (match bias with | none => 0 | some r => r) 0
      ((match bias with | none => 0 | some _ => 1) * 128 + tactOut out * 16 + tactAct act)]
  | .tred op col d a => [fmtT 0x3B d a 0 0 (bit col * 4 + tredOp op)]
  | .tdesc t a w0 => [fmtA 0x78 t a 0 0 0, w0]
  | .bfence d => [fmtC 0x3C d 0]
  | .bwait d => [fmtC 0x3D d 0]
  | .ld z x d b o => [load 0x3E z x d b o]
  | .st z d b o k => [store 0x3F z d b o k]
  | .lds z x d b o => [load 0x40 z x d b o]
  | .ldf z x d b o => [load 0x41 z x d b o]
  | .stf z d b o k => [store 0x42 z d b o k]
  | .ldp z x d b o => [load 0x43 z x d b o]
  | .stp z d b o k => [store 0x44 z d b o k]
  | .ldc z x d b o => [load 0x45 z x d b o]
  | .atomf op d a b => alu 0x46 d a b (atomfOp op)
  | .fence kd sc => [fmtC 0x47 0 (scope sc * 4 + (match kd with | .rel => 0 | .acq => 1 | .ar => 2 | .sc => 3))]
  | .pfx h z b o k => [store 0x48 z (match h with | .l1 => 0 | .l2 => 1 | .ind => 2) b o k]
  | .atom op t sc o d a b => [opA 0x7B d a b 0, atomWord op (ty t) sc o 1]
  | .fatom op sc o d a b => [opA 0x7B d a b 0, atomWord op 8 sc o 1]
  | .red op t sc o a b => [opA 0x7B 0 a b 0, atomWord op (ty t) sc o 0]
  | .cpy md es once sc d a b aux port block =>
    [opA 0x74 d a b 0, aux * 2 ^ 27 + es * 2 ^ 24 + bit once * 2 ^ 23 + scope sc * 2 ^ 21 + cpyMode md * 2 ^ 18 +
      port * 2 ^ 16 + block]
  | .send t d n k r port block =>
    [fmtA 0x71 d (tagReg t) 0 k 0, tagMode t * 2 ^ 25 + rel r * 2 ^ 22 + n * 2 ^ 18 + port * 2 ^ 16 + block]
  | .sendm t d n k r b => [fmtA 0x72 d (tagReg t) b k 0, tagMode t * 2 ^ 25 + rel r * 2 ^ 22 + n * 2 ^ 18]
  | .spawn d a n ep k rp e r => [fmtA 0x73 d a (n * 4 + ep) (rp * 8 + k) 0, r * 2 ^ 16 + e]
  | .ret d n r => [fmtC 0x49 d (rel r * 2 ^ 4 + n)]
  | .endBlock => [fmtC 0x4A 0 0]
  | .idxF d f => [fmtB 0x4B d 0 f]
  | .tagc d => [fmtA 0x4C d 0 0 0 0]
  | .mktag d a => [fmtA 0x4D d a 0 0 0]
  | .mktagColour d a b => alu 0x4D d a b 1
  | .clock d => [fmtA 0x4E d 0 0 0 0]
  | .trap c => [fmtC 0x4F 0 c]
  | .brk c => [fmtC 0x50 0 c]
  | .nop => [fmtC 0x51 0 0]
  | .movcRead d c => [fmtB 0x52 d 0 (ctl c)]
  | .movcWrite d c => [fmtB 0x52 d 0 (2 ^ 11 + ctl c)]
  | .cwbi a b => [fmtA 0x53 0 a b 0 1]
  | .rebind a b => [fmtA 0x54 0 a b 0 1]
  | .tresume d => [fmtC 0x55 d 0]
  | .tskip d => [fmtC 0x56 d 0]
  | .tkill d => [fmtC 0x57 d 0]
  | .replay d => [fmtC 0x58 d 0]
  | .faultrd d a w => [fmtB 0x59 d a w]
  | .rdrop a => [fmtA 0x5A 0 a 0 0 0]
  | .rfree a => [fmtA 0x5B 0 a 0 0 0]
  | .rpin un a => [fmtA 0x5C 0 a 0 (bit un) 0]
  | .rstat d a => [fmtA 0x5D d a 0 0 0]
  | .rseal d a b e n => [fmtA 0x7A d a b 0 1, n * 2 ^ 16 + e]
  | .hcmdMap d a b => [fmtA 0x79 d a b 0 1, 1]
  | .hcmdUnmap d a b => [fmtA 0x79 d a b 0 1, 2]
  | .hcmdProtect d a b => [fmtA 0x79 d a b 0 1, 3]
  | .hcmdQuery d a b => [fmtA 0x79 d a b 0 1, 4]
  | .hcmdTcflush d a b m => [fmtA 0x79 d a b 0 1, m * 2 ^ 8 + 5]
  | .unassignedOpcode op => (op * 2 ^ 24) :: List.replicate (opWords op - 1) 0
  | _ => []

/-- The words of an instruction with W (R34). -/
def encodeW (w : Bool) (i : Instr) : List Nat :=
  match encode i with
  | [] => []
  | x :: rest => (Enc.bit w * 2 ^ 31 + x) :: rest

/-- What the decoder reads from an instruction whose bits are w, numbered from the first word's bit 0; a second
word beyond nbits is zero. -/
def decodeTableWord (nbits w : Nat) : Option Instr :=
  let v := w % 2 ^ nbits
  match decodeWords (v % 2 ^ 32) (some (v / 2 ^ 32 % 2 ^ 32)) with
  | .ok i => some i
  | .error _ => none

end Sys2Proof
end

