-- ==== Sys2Proof/Config.lean ====
section
/-! DEFINITION. What an implementation fixes and what the spec leaves open: constants with no body, so that
no proof can see a value of them. -/

namespace Sys2Proof

/-- What moves next: a pipeline issues, a unit or the outside world acts, ck pass, a packet reaches a link port as its flits' bytes
(R294, R295), a step of bring-up ends, well (0) or with the error of R366 that it names (R365), or the loader goes on with a port's LOAD (R72). -/
inductive Move where
  | issue (core pipe : Nat)
  | event (i : Instr)
  | pass (ck : Nat)
  | packet (port : Nat) (bytes : List Byte)
  | boot (err : Nat)
  | loader (port : Nat)
deriving DecidableEq, Repr, Inhabited

namespace Config

/-- The move that comes next where the agenda names none: the order of the device's units and of the
outside world, which the spec leaves open (R85, R169, R176, R219). Log 1. -/
opaque freeMove : Nat → Move

/-- The code of the copy fault of kind node, which R210 names and R315 does not number: a free value. Log 16. -/
opaque kindNode : Nat

/-- The source code of an inbox entry whose token the management core makes, which R289 does not list: a free value. Log 26. -/
opaque mgmtSource : Nat
/-- The bearing of such an entry: a free value. Log 26. -/
opaque mgmtBearing : DWord
/-- SHA-256 (R367, R368), which the spec names and does not define. Log 11. -/
opaque sha256 : List Byte → List Byte
/-- The Ebbader image in the module's flash, which the boot ROM verifies (R365, R367): a free value. Log 11. -/
opaque flashImage : FwImage
/-- The owner-table entries of the frames that the firmware keeps (R267, R364), by frame: free values. Log 5. -/
opaque fwOwner : Nat → Nat
/-- The Plaoz ports that have a partner, and so train (R365), as a mask: a free value. Log 72. -/
opaque linkedPorts : Nat
/-- The verification of an SLH-DSA-SHA2-256s signature: key, message, signature (R367). Log 11. -/
opaque slhVerify : List Byte → List Byte → List Byte → Bool
/-- The signature under the device identity key (R368). Log 11. -/
opaque slhSign : List Byte → List Byte
/-- The identity public key, 64 bytes (R367, R368). Log 11. -/
opaque identityKey : List Byte
/-- The fused hash of the vendor's public key (R367). Log 11. -/
opaque fusedKeyHash : List Byte
/-- The fused minimum security version as manufactured (R367). Log 11. -/
opaque fusedMinSvn : Nat

end Config
end Sys2Proof
end

