-- ==== Sys2Proof/Machine/State.lean ====
section
/-! DEFINITION. The state of the E4 as plain data: the packs, the cores, the contexts, the device and the
outside, with the model's own agenda; the state right after reset; the reasons a step can stop. -/

namespace Sys2Proof.Machine

/-- Why the machine stops with a fault of the model's own. -/
inductive Fault where
  /-- Raised by a meaning that is given to `exec` while no pack is issuing: no step does so, and the spec has
  no such case. Safe: nothing is said of what the hardware would do (log 12). -/
  | noPack
deriving DecidableEq, Repr

/-- Why there is no meaning. -/
inductive Refusal where
  /-- Raised by `exec` for an instruction that has no meaning yet. Safe: nothing is said of it. -/
  | notModelled (mnemonic : String)
deriving DecidableEq, Repr

/-- A condition of a release: every listed access is to be performed at the scope (R176, R180). -/
structure Cond where
  sc   : Scope
  uids : List Nat
deriving DecidableEq, Repr

/-- A token (R18), with what the units keep beside it: its inbox source (R289), the bearing of its sender, the
unit that made it, and the accesses that its release covers. -/
structure Tok where
  slot    : Nat
  port    : Nat
  tag     : DWord
  pay     : List Word
  ctx     : Nat
  rel     : Option Scope
  handler : Bool
  src     : Nat
  bearing : DWord
  core    : Nat
  cov     : List Nat
deriving DecidableEq, Repr

/-- A token in an outbound queue (R239): the serial of its pack, the conditions it leaves under, and the
colour that a RETURN frees as it leaves (R244) or that a SPAWN was granted for it (R242). -/
structure OutTok where
  tok    : Tok
  serial : Nat
  conds  : List Cond
  frees  : Option (Nat × Nat)
  grants : Option (Nat × Nat)
deriving DecidableEq, Repr

/-- The states of a matching entry that is in use (R218). -/
inductive EntrySt where
  | part | binned | waitbin
deriving DecidableEq, Repr

/-- A matching entry (R218), with its payload words, the ck at which it entered its bin, the accesses
that the releases it took cover, its port area in frame memory (first unit and units, R221), and its poisoned payload words (R322). -/
structure Entry where
  tag     : DWord
  slot    : Nat
  ctx     : Nat
  pres    : Nat
  st      : EntrySt
  acq     : Nat
  seq     : Nat
  pay     : Sparse 32
  entered : Nat
  handler : Bool
  cov     : List Nat
  area    : Nat × Nat := (0, 0)
  bad     : List Nat := []
deriving DecidableEq, Repr

/-- A bin that is allotted (R222), whether its leash has expired (R223), and of a recovery bin the die whose share it takes (R336). -/
structure Bin where
  ctx      : Nat
  slot     : Nat
  recovery : Bool
  expired  : Bool
  share    : Option Nat := none
deriving DecidableEq, Repr

/-- One lane of a report entry (R309). -/
structure RepLane where
  lane   : Nat
  cause  : Nat
  detail : Nat
  addr   : Nat
deriving DecidableEq, Repr

/-- A report entry (R309). -/
structure Report where
  idx    : Nat
  w0     : Nat
  w1     : Nat
  replay : Bool
  lanes  : List RepLane
deriving DecidableEq, Repr

/-- An entry of a resumed pack's replay list: the instruction, the lanes and their addresses (R318). -/
structure Replay where
  idx   : Nat
  lanes : List Nat
  addrs : List (Nat × Nat)
  rest  : Report
deriving DecidableEq, Repr

/-- What a trap point has fixed until the frame is written (R303 to R309): its index, the resume index, the code of
TRAP or BRK, the index of the report entry that gives the cause, and the cause where there is no entry. -/
structure Trap where
  idx    : Nat
  resume : Nat
  code   : Nat
  entry  : Option Nat
  cause  : Nat
deriving DecidableEq, Repr

/-- Where a pack stands (R303, R310). -/
inductive PackSt where
  | run | drain | trapped
deriving DecidableEq, Repr

/-- One lane of a deferred result (R173, R195): bound to a value, waiting for a collector slot, or failed with a
cause and its detail. -/
inductive LaneRes where
  | bound (val : Nat)
  | wait (slot : Nat)
  | fail (cause detail : Nat)
deriving DecidableEq, Repr

/-- A lane of a deferred-result instruction with the address of its access. -/
structure DefLane where
  lane : Nat
  addr : Nat
  res  : LaneRes
deriving DecidableEq, Repr

/-- The kinds of deferred result (R20, R306). -/
inductive DefKind where
  | load | priv | atom | sfu | fault
deriving DecidableEq, Repr

/-- A deferred result that has not all arrived (R20, R306); `acq` is the scope at which an atomic whose instruction traps still acquires
as its result arrives (R182, R194). -/
structure Deferred where
  uid    : Nat
  kind   : DefKind
  idx    : Nat
  w0     : Nat
  w1     : Nat
  uni    : Bool
  d      : Nat
  size   : Nat
  sext   : Bool
  lanes  : List DefLane
  cls    : List (Nat × Nat)
  trapen : Word
  ready  : Nat
  acq    : Option Scope := none
deriving DecidableEq, Repr

/-- A batch of engine work (R151): members that have not ended, the classes raised, whether a poisoned operand
was read, whether it has been closed, and whether it has been counted. -/
structure Batch where
  num     : Nat
  members : Nat
  cls     : Nat
  psc     : Bool
  closed  : Bool
  done    : Bool
deriving DecidableEq, Repr

/-- What a pack is parked on after issue: the instruction, the accesses that are to be performed at a scope first,
and how far it has come. -/
structure Wait where
  instr : Instr
  uids  : List Nat
  sc    : Scope
  phase : Nat
  info  : Nat
deriving DecidableEq, Repr

/-- The identity of a pack at firing (R10, R14, R16, R17, R274); `areas` are its port and work areas in frame memory, each by lane
position, first unit of 32 bytes and length in units (R25, R26, R221). -/
structure PackId where
  ctx      : Nat
  slot     : Nat
  img      : Nat
  serial   : Nat
  n        : Nat
  tier     : Nat
  handler  : Bool
  priv     : Bool
  colour   : Option Nat
  restored : Bool
  tags     : List DWord
  areas    : List (Nat × Nat × Nat) := []
deriving DecidableEq, Repr

/-- The registers of a pack (R29, R31): keys of v are register x 32 + lane, of td twice the number and the word. -/
structure Regs where
  v      : Sparse 32
  s      : Sparse 32
  k      : Sparse 32
  td     : Sparse 32
  vBad   : List Nat
  sBad   : List Nat
  fpctl  : Word
  trapen : Word
  leash  : Word
deriving DecidableEq, Repr

/-- The frame view, the private words and the tile map of a pack (R26, R27, R141): keys are word x 32 + lane. -/
structure Views where
  frame    : Sparse 32
  frameBad : List Nat
  priv     : Sparse 32
  privBad  : List Nat
  tiles    : List Nat
deriving DecidableEq, Repr

/-- The control of a pack: its pc, what it waits for, and its traps. -/
structure Ctrl where
  pc       : Nat
  start    : Nat
  fetch    : Nat
  deferred : List Deferred
  reports  : List Report
  batches  : List Batch
  bopen    : Nat
  wait     : Option Wait
  holds    : List Cond
  hb       : List Nat
  st       : PackSt
  trap     : Trap
  resume   : Option Nat
  replay   : List Replay
  cls      : Nat
  lastPfx  : List (Nat × List (Nat × Nat))
deriving DecidableEq, Repr

/-- A pack in its slot (R29). -/
structure Pack where
  id : PackId
  r  : Regs
  m  : Views
  c  : Ctrl
deriving DecidableEq, Repr

/-- The frame columns of an ended pack that copies still use (R211), with the areas of those columns. -/
structure Ghost where
  serial : Nat
  ctx    : Nat
  slot   : Nat
  n      : Nat
  words  : Nat
  m      : Views
  cols   : List Nat := []
  areas  : List (Nat × Nat × Nat) := []
deriving DecidableEq, Repr

/-- A line of a core's L1 (R174, R322, R335). -/
structure L1Line where
  asid   : Nat
  line   : Nat
  data   : Sparse 8
  poison : Bool
  colour : Option Nat
deriving DecidableEq, Repr

/-- A write or a RED of a line, from the first RED on that found its bytes absent (R188): a RED acts at an offset in the line. -/
inductive LineOp where
  | write (data : Sparse 8) (mask : Nat)
  | red (op : AtomOp) (ty : IntTy) (off arg : Nat)
deriving DecidableEq, Repr

/-- A line at its home slice (R174, R188, R322, R335): which bytes it holds, which are newer than HBM, whether it
is held behind a fault, and how many probes of its writes are unanswered. `ops` is what has reached it, in order, from the first RED on that
found its bytes absent: it acts on the bytes of memory as they are read. `posted` lists what has left it for host memory while
probes are unanswered: the place of each write in the line's order, and its bytes (R172, R173). -/
structure L2Line where
  asid   : Nat
  line   : Nat
  data   : Sparse 8
  valid  : Nat
  dirty  : Nat
  held   : Bool
  probes : Nat
  poison : Bool
  colour : Option Nat
  ops    : List LineOp := []
  posted : List (Nat × Nat) := []
deriving DecidableEq, Repr

/-- What an atomic does at the home slice: its deferred result by identity, or the wake-buffer entry of a RED; `perf` orders its sending among
the stores of its core (R172). -/
structure AtomReq where
  uid     : Nat
  serial  : Nat
  lane    : Nat
  addr    : Nat
  size    : Nat
  op      : AtomOp
  ty      : Option IntTy
  arg     : Nat
  cmp     : Nat
  wake    : Option Nat
  ftz     : Bool := false
  perf    : Nat := 0
deriving DecidableEq, Repr

/-- The kinds of collector slot (R197); `done` is that of a RED which has executed and whose receipt has still to return. -/
inductive SlotKind where
  | load | store
  | atom (a : AtomReq)
  | done
deriving DecidableEq, Repr

/-- A slot of the request collector (R197): a store slot keeps its bytes, its mask and its entries; a slot that is
closed takes no further request; a load slot or an atomic may be parked at a Retriever (R189). `uid` orders its opening among the
accesses of the device, and `l2` says that only prefetches into the home slice wait for it (R213). -/
structure Slot where
  kind    : SlotKind
  asid    : Nat
  line    : Nat
  opened  : Nat
  closed  : Bool
  parked  : Bool
  data    : Sparse 8
  mask    : Nat
  entries : List Nat
  colour  : Option Nat
  uid     : Nat := 0
  l2      : Bool := false
deriving DecidableEq, Repr

/-- Where a line write that has left its core stands: on its way, in the home slice with its probe unanswered,
there with a clean answer (R173, R270), or with its receipt returned and its write to host memory not yet completed by the host
(R173, R200). -/
inductive FlightSt where
  | sent | arrived | clean | posted
deriving DecidableEq, Repr

/-- A line write of a store slot (R197); `uids` are the stores of a posted one, which have left the wake buffer, with the
serials of their packs; `seq` is its place in the coherence order of its line (R172), and `slot` the collector slot that a RED keeps until its
receipt. -/
structure Flight where
  asid    : Nat
  line    : Nat
  data    : Sparse 8
  mask    : Nat
  entries : List Nat
  colour  : Option Nat
  st      : FlightSt
  uids    : List (Nat × Nat) := []
  seq     : Nat := 0
  slot    : Option Nat := none
deriving DecidableEq, Repr

/-- The states of a wake-buffer entry in use (R314); a held one waits behind a release fence (R180). -/
inductive WakeSt where
  | held | pending | faulted | replaying
deriving DecidableEq, Repr

/-- A wake-buffer entry (R200, R314, R315); `shared` says that a release of its pack at .core covers it, so that another pack of the
core may inherit it (R179, R181); `perf` orders the stores and REDs of a core by when they were performed at .core (R173, R174); `kept` says
that its pack may take the places kept for handler and recovery packs (R199); `seq` is its place in the coherence order of its line (R172). -/
structure Wake where
  uid     : Nat
  ctx     : Nat
  asid    : Nat
  va      : Nat
  size    : Nat
  data    : Nat
  red     : Option (AtomOp × IntTy)
  tag     : DWord
  slot    : Nat
  bearing : DWord
  conds   : List Cond
  st      : WakeSt
  kind    : Nat
  chrono  : Nat
  colour  : Option Nat
  applied : Bool
  shared  : Bool
  perf    : Nat := 0
  kept    : Bool := false
  seq     : Nat := 0
deriving DecidableEq, Repr

/-- The stages of a copy (R184, R209 to R212). -/
inductive CopySt where
  | waiting | moving | sent | faulted | replaying
deriving DecidableEq, Repr

/-- An element of a gather as far as it has been read (R185): its index with the mark of the index word, then its bytes with the mark of
their line. -/
structure GElem where
  pos : Nat
  idx : Nat
  bad : Bool
  val : Option (Nat × Bool)
deriving DecidableEq, Repr

/-- A copy in the copy queue (R208 to R212), with its fault record (R315): of its words, counted from 0 in ascending
place, `done` lists those moved and `bad` those that failed, each with its kind and the address that failed; `pkts` are
the write packets that the remote node has not answered, oldest first, each with its first word and its words (R297); `elems` are
the elements of a gather read so far (R185), `marks` the words moved with a poison mark (R211, R322), `parked` the words whose
read stands at a Retriever (R189), `first` the first failure of a record that is replayed (R315, R320), and `at_` the entry of another core's queue in which a restored record
stands whose pack has gone elsewhere (R356): it is kept with its pack, under a number that no handle has. -/
structure Copy where
  uid     : Nat
  ctx     : Nat
  mode    : CpyMode
  serial  : Nat
  pipe    : Nat
  tile    : Nat
  batch   : Nat
  src     : Nat
  dst     : Nat
  len     : Nat
  es      : Nat
  aux     : Nat
  img     : Nat
  slot    : Nat
  port    : Nat
  tag     : DWord
  bslot   : Nat
  bearing : DWord
  cond    : Cond
  st      : CopySt
  done    : List Nat
  bad     : List (Nat × Nat × Nat)
  poison  : Bool
  handler : Bool
  colour  : Option Nat
  chrono  : Nat
  pkts    : List (Nat × Nat)
  elems   : List GElem := []
  marks   : List Nat := []
  parked  : List Nat := []
  first   : Nat × Nat × Nat := (0, 0, 0)
  at_     : Option (Nat × Nat) := none
deriving DecidableEq, Repr

/-- A request in a colour allocator queue (R232, R242): `granted` is the colour that the directory has given it, while its token waits for a
place in the outbound queue (R319), and `kept` says that its pack may take the places kept there (R239). -/
structure SpawnReq where
  uid     : Nat
  ctx     : Nat
  serial  : Nat
  level   : Nat
  index   : Nat
  pay     : List Word
  slot    : Nat
  port    : Nat
  parent  : DWord
  rslot   : Nat
  rport   : Nat
  bearing : DWord
  waits   : List Nat
  granted : Option Nat := none
  kept    : Bool := false
deriving DecidableEq, Repr

/-- A stream of the indirect prefetcher (R214). -/
structure Stream where
  asid  : Nat
  slot  : Nat
  idx   : Nat
  base  : Nat
  shift : Nat
  conf  : Nat
  used  : Nat
  xs    : List (Nat × Nat)
deriving DecidableEq, Repr

/-- An entry of an engine queue (R148): the instruction with the descriptor it captured. -/
structure EngOp where
  uid    : Nat
  serial : Nat
  slot   : Nat
  instr  : Instr
  w0     : Nat
  w1     : Nat
  batch  : Nat
  tier   : Nat
deriving DecidableEq, Repr

/-- A physical tile (R141, R164). -/
structure Tile where
  data   : Sparse 8
  poison : Bool
deriving DecidableEq, Repr

/-- A lane instruction of more than 1 ck that has issued and raised a class (R104): the ck at which it completes, the slot and the serial
of its pack, its length, its classes, and the lanes of its trap. -/
structure Late where
  due    : Nat
  slot   : Nat
  serial : Nat
  len    : Nat
  cls    : Nat
  lanes  : List RepLane
deriving DecidableEq, Repr

/-- A pipeline (R20, R100, R104, R148): the slot that issued last, the first ck at which it may issue, its engine queue, the entry that
the engine runs, the ck after which that one started, and the instruction that has still to complete. -/
structure Pipe where
  turn  : Nat
  next  : Nat
  queue : List EngOp
  busy  : Nat
  tiles : Tbl Tile
  run   : Option Nat := none
  late  : Option Late := none
deriving DecidableEq, Repr

/-- The helm of a core (R225 to R228): for each class the turn pointer and the firings used, the bypass counts of
candidates by bin and group, the ck of the last tier-3 firing (R362) and of the last firing (R225). -/
structure Helm where
  turns  : Tbl (Nat × Nat)
  bypass : List ((Nat × Nat × Bool × Nat × Nat) × Nat)
  last3  : Option Nat
  last   : Option Nat := none
deriving DecidableEq, Repr

/-- The code-store copies with an uncorrectable error (R325) and constant store of a core (R28, R322). -/
structure Stores where
  codeBad  : List Nat
  consts   : Tbl (Sparse 8)
  constBad : List (Nat × Nat)
deriving DecidableEq, Repr

/-- A core (R23); `dying` are the packs that ended at a ck, with it and their slots, whose resources are free from the next ck on (R247);
`raised` are handler tokens that the core has raised and that wait for a place in its outbound queue (R239, R311); `spawned` are restored
requests that wait for a place in its allocator queue (R23, R356). -/
structure Core where
  serial   : Nat
  seq      : Nat
  hseq     : Nat
  entries  : List Entry
  bins     : Tbl Bin
  closed   : List (Nat × Nat × Nat)
  quiet    : List (Nat × Nat × Nat)
  helm     : Helm
  arriving : List Tok
  intake   : Tbl (List (Tok × Nat))
  spill    : List Tok
  outbound : List OutTok
  alloc    : List SpawnReq
  l1       : List L1Line
  slots    : Tbl Slot
  flights  : List Flight
  wake     : Tbl Wake
  copies   : Tbl Copy
  ghosts   : List Ghost
  st       : Stores
  streams  : List Stream
  pipes    : Tbl Pipe
  packs    : Tbl Pack
  dying    : List (Nat × Nat × Pack) := []
  raised   : List OutTok := []
  spawned  : List SpawnReq := []
deriving DecidableEq, Repr

/-- A core after reset (R364). -/
def Core.reset : Core where
  serial := 0
  seq := 0
  hseq := 0
  entries := []
  bins := []
  closed := []
  quiet := []
  helm := { turns := [], bypass := [], last3 := none }
  arriving := []
  intake := []
  spill := []
  outbound := []
  alloc := []
  l1 := []
  slots := []
  flights := []
  wake := []
  copies := []
  ghosts := []
  st := { codeBad := [], consts := [], constBad := [] }
  streams := []
  pipes := []
  packs := []

/-- A pipeline after reset (R364). -/
def Pipe.reset : Pipe where
  turn := 15
  next := 0
  queue := []
  busy := 0
  tiles := []

/-- A bound block slot (R10, R69, R71): the placement, the code as the loader rewrote it, the image whose slot map,
widths and constants serve it (R281), and whether a REBIND is closing it (R234). -/
structure Block where
  ctx     : Nat
  img     : Nat
  run     : Nat
  ports   : Nat
  frame   : Nat
  priv    : Nat
  tiles   : Nat
  leash   : Nat
  ordered : Bool
  first   : Nat
  count   : Nat
  mask    : Nat
  code    : List Nat
  closing : Bool
  recipe  : Bool
deriving DecidableEq, Repr

/-- A launch entry of an image (R70). -/
structure LaunchEnt where
  block : Nat
  port  : Nat
  first : Nat
  count : Nat
  pay   : List Word
deriving DecidableEq, Repr

/-- A loaded image (R68 to R71). -/
structure Image where
  ctx      : Nat
  pure     : Bool
  slots    : List Nat
  widths   : List Nat
  consts   : List Byte
  launches : List LaunchEnt
  crc      : Nat
deriving DecidableEq, Repr

/-- The states of a resident context (R349). -/
inductive CtxSt where
  | running | cutting | preempted | restoring | ending
deriving DecidableEq, Repr

/-- The states of a recipe record (R330). -/
inductive RecSt where
  | pinned | sealed | dropped | regen | failed
deriving DecidableEq, Repr

/-- A recipe record that is not FREE (R328). -/
structure Rec where
  tile    : Nat
  sources : List Nat
  pinsrc  : List Bool
  params  : List Word
  crc     : Nat
  entry   : Nat
  depth   : Nat
  st      : RecSt
  busy    : Nat
  deps    : Nat
  pinners : Nat
  pins    : Nat
  chrono  : Nat
  misses  : Nat
deriving DecidableEq, Repr

/-- The teardown record (R359). -/
structure Teardown where
  packs    : Nat
  trapped  : Nat
  entries  : Nat
  tokens   : Nat
  late     : Nat
  copies   : Nat
  records  : Nat
  releases : Nat
  spawns   : Nat
  written  : Nat
  dropped  : Nat
  recipes  : Nat
deriving DecidableEq, Repr

/-- A pack in a save image (R351, R354): parked packs are resumed by the E4, trapped ones come back trapped. `core` is the core
it is saved from, and from RESUME on the core it goes to (R356); `tiles` and `dumps` are by tile register, and `badFrame` and
`badDumps` are the lines of frame and dumps that carry a poison mark (R326). -/
structure SavedPack where
  core   : Nat
  pack   : Pack
  tiles  : Tbl Tile
  queue  : List EngOp
  frame  : Sparse 8
  dumps  : Tbl (Sparse 8)
  parked : Bool
  badFrame : List Nat := []
  badDumps : Tbl (List Nat) := []
deriving DecidableEq, Repr

/-- The save image of a pre-empted context (R354), as the records that the firmware has written to `pages` (log 27); `misses` are the
parked accesses, by die, each with its tile and the bearing of its pack, and `size` is the bytes written. -/
structure Save where
  settled  : Bool
  cut      : Nat
  cores    : List Nat
  entries  : List (Nat × Nat × Entry)
  closed   : List (Nat × Nat)
  tokens   : List Tok
  outbound : List (Nat × OutTok)
  spawns   : List (Nat × SpawnReq)
  wakes    : List (Nat × Wake)
  copies   : List (Nat × Copy)
  packs    : List SavedPack
  ghosts   : List (Nat × Ghost)
  misses   : List (Nat × Nat × DWord) := []
  pages    : List Nat := []
  size     : Nat := 0
deriving DecidableEq, Repr

/-- A marker of a pre-emption cut (R350 step 7), by the queue at whose tail it was placed: an outbound queue, an intake queue, the fabric
path to a core, a spill area, or a channel of a link port; that of an intake queue with the ck of its placing. -/
inductive CutMark where
  | outbound (core : Nat)
  | intake (core vc since : Nat)
  | fabric (core : Nat)
  | spill (core : Nat)
  | link (port vc : Nat)
deriving DecidableEq, Repr

/-- A running PREEMPT (R350, R352): whether its markers are placed, and whether its save image is written while it waits
to be settled; whether step 2 has ended; the markers that are not done; and the pages reserved for the image (R354). -/
structure Cut where
  start   : Nat
  timeout : Nat
  settle  : Bool
  placed  : Bool
  saved   : Bool
  drained : Bool := false
  marks   : List CutMark := []
  pages   : List Nat := []
deriving DecidableEq, Repr

/-- The control of a context that packs read and write (R31, R274, R275). -/
structure CtxRegs where
  asid   : Nat
  port   : Nat
  cls    : Nat
  weight : Nat
  priv   : Nat
  fpctl  : Word
  trapen : Word
  flags  : Word
  mxcnt  : Word
deriving DecidableEq, Repr

/-- The inbox and the host backing area of a context (R286, R289, R290); `backOf` keeps, for a page that was evicted and is mapped again, the
backing page of each of its 64 KiB, by virtual page number (R272). -/
structure Inbox where
  base     : Nat
  k        : Nat
  head     : Nat
  tail     : Nat
  seq      : Nat
  places   : List Tok
  backBase : Nat
  backSize : Nat
  backUsed : List Nat
  backOf   : List (Nat × Nat) := []
deriving DecidableEq, Repr

/-- A resident context (R10); `recPages` hold its recipe table (R293, R328), `areaPages` its arrival area (R355). -/
structure Ctx where
  r        : CtxRegs
  cores    : List Nat
  st       : CtxSt
  box      : Inbox
  privSize : Nat
  root     : Nat
  regions  : Tbl (BitVec 64)
  onTrap   : Option Nat
  onFault  : Option Nat
  pools    : List (Nat × Nat)
  returns  : List ((Nat × Nat) × (DWord × Nat × Nat))
  recipes  : Tbl Rec
  cut      : Option Cut
  arrivals : List Tok
  save     : Option Save
  tear     : Teardown
  restore  : List SavedPack
  recPages : List Nat := []
  areaPages : List Nat := []
deriving DecidableEq, Repr

/-- The phases of a regeneration (R337, R339). -/
inductive RegenPhase where
  | sources | frame | running | complete | failed (kind arg : Nat)
deriving DecidableEq, Repr

/-- A regeneration on a Retriever's stack (R337): the record, the sources made resident so far, and the frame. -/
structure Regen where
  ctx   : Nat
  rix   : Nat
  done  : Nat
  phase : RegenPhase
  frame : Nat
  since : Nat
deriving DecidableEq, Repr

/-- A Retriever (R337): its queue of tiles, the regeneration it runs with those it waits under, and the live colour. -/
structure Retriever where
  queue  : List (Nat × Nat)
  stack  : List Regen
  colour : Option Nat
deriving DecidableEq, Repr

/-- A miss on its way to a Retriever, or waiting for room in its queue until a ck (R337). -/
structure Miss where
  die   : Nat
  ctx   : Nat
  rix   : Nat
  retry : Option Nat
deriving DecidableEq, Repr

/-- The states of a registered launch (R301). -/
inductive LaunchSt where
  | waiting | preparing | ready | running | refused
deriving DecidableEq, Repr

/-- A registered launch (R296, R300, R301, R352): `ready` lists the members that replied READY, `answers` counts replies, `why`
is the first refusal's index and reason, `marks` the settle markers received by node. -/
structure Launch where
  coord  : Nat
  num    : Nat
  ctx    : Nat
  img    : Nat
  role   : Nat
  st     : LaunchSt
  colour : Nat
  n      : Nat
  field  : Nat
  nodes  : List Nat
  index  : Nat
  since  : Nat
  ready  : List Nat
  answers : Nat
  why    : Nat × Nat
  sent   : Tbl Nat
  recv   : Tbl Nat
  marks  : Tbl Nat
  port   : Nat
deriving DecidableEq, Repr

/-- A mailbox (R291): command, context, status and argument bytes. -/
structure Mbox where
  cmd    : Nat
  ctx    : Nat
  status : Word
  args   : Sparse 8
deriving DecidableEq, Repr

/-- What a packet on a link carries (R295 to R298, R301, R302, R350, R352, R360). -/
inductive PktBody where
  | token (coord number block : Nat) (t : Tok)
  | write (addr coord number copyId : Nat) (bytes : List Byte)
  | ack (copyId bytes : Nat)
  | fault (copyId off kind more : Nat)
  | marker (coord number : Nat) (vals : List Nat)
  | control (kind coord number : Nat) (vals : List Nat)
deriving DecidableEq, Repr

/-- A packet handed to the links: where from and to, on which channel (R295, R298), the flits not yet sent, and those sent
whose slots have not been returned (R294). -/
structure Pkt where
  dest : Nat
  vc   : Nat
  core : Nat
  body : PktBody
  left : Nat
  due  : Nat
deriving DecidableEq, Repr

/-- A Plaoz port (R294): whether it is up, its free-slot count for each channel, its queue of packets with unsent flits, its
packets that are wholly sent and not wholly returned, and the receive slots in use on each channel. The flits of a channel are numbered from
training on: `sent` and `back` count those sent and those whose slots have been returned, `tries` the failed tries of a flit (channel,
number), and `recent` holds the last 256 flits, newest last, which is what the replay buffer holds. -/
structure Link where
  up      : Bool
  counts  : Tbl Nat
  queue   : List Pkt
  replay  : List Pkt
  tries   : List ((Nat × Nat) × Nat)
  used    : Tbl Nat
  sent    : Tbl Nat := []
  back    : Tbl Nat := []
  recent  : List (Nat × Nat) := []
deriving DecidableEq, Repr

/-- A link port after reset: not up, since it is not trained (R364, R365). -/
def Link.reset : Link where
  up := false
  counts := []
  queue := []
  replay := []
  tries := []
  used := []

/-- An entry of a harbour unit's translation cache (R265). -/
structure TcEntry where
  unit : Nat
  asid : Nat
  page : Nat
  big  : Bool
deriving DecidableEq, Repr

/-- The memories (R24, R261, R286): the HBM, the memory behind each host port by host bus address, the lines at the
home slices, the poisoned lines of HBM, the translation caches and the owner tables by frame. -/
structure Mem where
  hbm    : Sparse 8
  host0  : Sparse 8
  host1  : Sparse 8
  bad    : List Nat
  l2     : List L2Line
  tc     : List TcEntry
  owner  : Sparse 64
deriving DecidableEq, Repr

/-- The partition table (R284): two domain entries, the core codes and the chunk codes; code 0 is unlisted. -/
structure Domain where
  enabled : Bool
  limit   : Nat
  base    : Nat
  size    : Nat
deriving DecidableEq, Repr

/-- The partition table, and what the firmware keeps: evictor marks, table frames by number, the pages of 2 MiB that hold recipe
tables and save images, and those of 64 KiB that hold arrival areas, by frame (R272, R279, R328, R354, R355). -/
structure Part where
  dom    : List Domain
  cores  : List Nat
  chunks : List Nat
  low    : List Nat
  high   : List Nat
  tables : List Nat
  kept   : List Nat := []
  small  : List Nat := []
deriving DecidableEq, Repr

/-- The counts of the management registers (R366). -/
inductive Counter where
  | cecnt | uecnt | pktdrop | thrcnt
  | aperr (port : Nat)
deriving DecidableEq, Repr

/-- The management registers (R366) and the latches of R363, those of a port by port; `spillFull` are the cores that signal a full spill
area (R231), `boot` is the last step of bring-up that has ended (R365), `tally` holds for a count the ck of its last event and the events of
that ck, and `chkRec` the arrivals counts of the last checkpoint (R360). -/
structure Mgmt where
  booterr  : Nat
  secure   : Bool
  ready    : Bool
  svn      : Nat
  cecnt    : Word
  uecnt    : Word
  aperr    : List Word
  pktdrop  : Word
  thrcnt   : Word
  done     : List Bool
  nonce    : List (Sparse 32)
  latch    : List Word
  thermal  : List Nat
  queue    : List Nat
  reports  : Tbl (List Byte)
  fwHash   : List Byte
  svnFused : Nat
  spillFull : List Nat := []
  boot     : Nat := 1
  tally    : List (Counter × Nat × Nat) := []
  chkRec   : List (Nat × Nat) := []
deriving DecidableEq, Repr

/-- A return that has reached the colour directory (R244): the lane's colour, its payload, and the token that
carries it, whose slot, port and tag the return record gives; `kept` says that its pack may take the places kept in the outbound queue
(R239). -/
structure RetReq where
  ctx    : Nat
  level  : Nat
  colour : Nat
  out    : OutTok
  kept   : Bool := false
deriving DecidableEq, Repr

/-- A running CHECKPOINT (R360): for each stack its node, its port, its poison list and the bytes acknowledged; the stack that
failed; and the arrivals count of each context as CHECKPOINT was accepted. -/
structure Chk where
  start    : Nat
  dest     : Nat
  nodes    : List Nat
  ports    : List Nat
  lists    : List (List Nat)
  acks     : List Nat
  failed   : Option Nat
  arrivals : List (Nat × Nat)
deriving DecidableEq, Repr

/-- What came of a host read (R283, R285, R322): the bytes, and whether EP is set or the request was refused. -/
structure HostReply where
  port : Nat
  data : List Byte
  ep   : Bool
  ur   : Bool
deriving DecidableEq, Repr

/-- A running LOAD of a port (R72): its command; and, once the image has been read and has passed every check, the image with the
block slots and the handle that it is to have. -/
structure LoadJob where
  cmd    : Cmd
  image  : Option (List Byte)
  slots  : List Nat
  handle : Nat
deriving DecidableEq, Repr

/-- The ports and what passed through them (R282 to R302): `loads` are the LOADs that run, by port, `held` are packets for which no port of the route mask is up (R294), `wait` holds tokens at I/O die 0 that wait for an inbox place
(R290), `hwait` tokens that wait there for a core whose spill area is full (R231), `lwait` link tokens that wait for a place in a core's
intake queue, with core, channel and port (R230). -/
structure Io where
  up      : List Bool
  mbox    : List Mbox
  wait    : List Tok
  hwait   : List Tok := []
  lwait   : List (Tok × Nat × Nat × Nat)
  hseq    : Tbl Nat
  links   : Tbl Link
  held    : List Pkt
  route   : Sparse 16
  node    : Nat
  remote  : Tbl (Nat × Nat)
  msix    : List (Nat × Nat)
  reads   : List HostReply
  reports : List Nat
  loads   : Tbl LoadJob := []
  ep      : List (Nat × Nat) := []
deriving DecidableEq, Repr

/-- The state of the device. The fields `agenda`, `freeCount`, `cur` and `uid` are the model's own (log 1, log 8). -/
structure State where
  agenda    : List Move
  freeCount : Nat
  cur       : PackRef
  uid       : Nat
  now       : Nat
  mem       : Mem
  part      : Part
  blocks    : Tbl Block
  images    : Tbl Image
  ctxs      : Tbl Ctx
  level7    : List Nat
  returns   : List RetReq
  retr      : Tbl Retriever
  misses    : List Miss
  launches  : List Launch
  prepares  : List (PrepPkt × Nat)
  io        : Io
  mgmt      : Mgmt
  chk       : Option Chk
  cores     : Tbl Core
deriving DecidableEq, Repr

/-- A mailbox after reset: busy, every other byte zero (R364; the zeros are DESIGN CHOICE, log 3). -/
def Mbox.reset : Mbox where
  cmd := 0
  ctx := 0
  status := 0x8000
  args := []

/-- The partition after reset: domain 0 enabled with every core and every chunk not coded 3; the chunks of stack 7
are coded 3 (R364; which chunks are is DESIGN CHOICE, log 5). Domain 0 has all 64 contexts and a host window of every offset (DESIGN
CHOICE, log 3): PARTITION, which alone can change them, reads its table from that window (R284, R292). -/
def Part.reset : Part where
  dom := [{ enabled := true, limit := 64, base := 0, size := 2 ^ 50 }, { enabled := false, limit := 0, base := 0, size := 0 }]
  cores := List.replicate 192 1
  chunks := List.replicate 448 1 ++ List.replicate 64 3
  low := List.replicate 8 0
  high := List.replicate 8 0
  tables := []

/-- The state right after device reset (R364). -/
def State.reset : State where
  agenda := []
  freeCount := 0
  cur := { core := 0, pipe := 0, slot := 0 }
  uid := 0
  now := 0
  mem := { hbm := [], host0 := [], host1 := [], bad := [], l2 := [], tc := [], owner := [] }
  part := Part.reset
  blocks := []
  images := []
  ctxs := []
  level7 := []
  returns := []
  retr := []
  misses := []
  launches := []
  prepares := []
  io := { up := [false, false], mbox := [Mbox.reset, Mbox.reset], wait := [], lwait := [], hseq := [],
          links := [], held := [], route := [], node := 0, remote := [], msix := [], reads := [], reports := [] }
  mgmt := { booterr := 0, secure := false, ready := false, svn := 0, cecnt := 0, uecnt := 0, aperr := [0, 0],
            pktdrop := 0, thrcnt := 0, done := [false, false], nonce := [[], []], latch := [0, 0],
            thermal := [0, 0, 0, 0], queue := [], reports := [], fwHash := [], svnFused := 0 }
  chk := none
  cores := []

end Sys2Proof.Machine
end

