-- ==== Sys2Proof/Machine/Table.lean ====
section
/-! DEFINITION. Reading and writing the two list shapes that hold sparse data, and small list functions. -/

namespace Sys2Proof

namespace Tbl

/-- The record at a key, if there is one. -/
def find {α : Type} (k : Nat) : Tbl α → Option α
  | [] => none
  | (i, x) :: t => if i = k then some x else find k t

/-- The record put at a key, in place or at its place in rising order. -/
def put {α : Type} (k : Nat) (v : α) : Tbl α → Tbl α
  | [] => [(k, v)]
  | (i, x) :: t => if i = k then (k, v) :: t else if k < i then (k, v) :: (i, x) :: t else (i, x) :: put k v t

/-- The table without a key. -/
def del {α : Type} (k : Nat) (t : Tbl α) : Tbl α := t.filter fun e => e.1 != k

/-- The record at a key changed, where there is one. -/
def upd {α : Type} (k : Nat) (f : α → α) (t : Tbl α) : Tbl α := t.map fun e => if e.1 = k then (k, f e.2) else e

/-- The lowest number from `i`, among `fuel` of them, that is no key. -/
def freeFrom {α : Type} (t : Tbl α) (i : Nat) : Nat → Option Nat
  | 0 => none
  | fuel + 1 => if (t.find i).isNone then some i else freeFrom t (i + 1) fuel

/-- The lowest free key below a bound. -/
def free {α : Type} (t : Tbl α) (n : Nat) : Option Nat := freeFrom t 0 n

end Tbl

namespace Sparse

/-- The value at a key: zero where unlisted. -/
def get {w : Nat} (k : Nat) : Sparse w → BitVec w
  | [] => 0
  | (i, x) :: t => if i = k then x else get k t

/-- The insertion of a value that is not zero. -/
def ins {w : Nat} (k : Nat) (v : BitVec w) : Sparse w → Sparse w
  | [] => [(k, v)]
  | (i, x) :: t => if i = k then (k, v) :: t else if k < i then (k, v) :: (i, x) :: t else (i, x) :: ins k v t

/-- The store with a value at a key; the value zero removes the entry. -/
def set {w : Nat} (k : Nat) (v : BitVec w) (m : Sparse w) : Sparse w :=
  if v = 0 then m.filter (fun e => e.1 != k) else ins k v m

/-- Keys strictly rising. -/
def rising {w : Nat} : Sparse w → Bool
  | [] => true
  | [_] => true
  | (i, _) :: (j, y) :: t => i < j && rising ((j, y) :: t)

/-- The canonical form: keys strictly rising, and no entry that is zero. -/
def wf {w : Nat} (m : Sparse w) : Bool := rising m && m.all fun e => e.2 != 0

/-- Values written at consecutive keys. -/
def setRun {w : Nat} (k : Nat) : List (BitVec w) → Sparse w → Sparse w
  | [], m => m
  | v :: vs, m => setRun (k + 1) vs (set k v m)

/-- The values at n consecutive keys. -/
def getRun {w : Nat} (m : Sparse w) (k n : Nat) : List (BitVec w) := (List.range n).map fun i => get (k + i) m

end Sparse

/-- A number added to a list of numbers with no repeats. -/
def addNew (k : Nat) (l : List Nat) : List Nat := if l.contains k then l else l ++ [k]

/-- Insertion of x into a list ordered by a key, after its equals. -/
def insertBy {α : Type} (key : α → Nat) (x : α) : List α → List α
  | [] => [x]
  | y :: t => if key x < key y then x :: y :: t else y :: insertBy key x t

/-- A list in rising order of a key; equals keep their order. -/
def sortBy {α : Type} (key : α → Nat) (l : List α) : List α := l.foldl (fun acc x => insertBy key x acc) []

/-- The numbers of the one bits of m below n, ascending. -/
def bitsOf (m n : Nat) : List Nat := (List.range n).filter fun i => m.testBit i

/-- The number whose one bits are the listed ones. -/
def maskOf (l : List Nat) : Nat := l.foldl (fun a i => a ||| 2 ^ i) 0

/-- The little-endian number of a list of bytes (R4). -/
def leNat : List Byte → Nat
  | [] => 0
  | b :: t => b.toNat + 256 * leNat t

/-- The n little-endian bytes of a number (R4). -/
def leBytes : Nat → Nat → List Byte
  | 0, _ => []
  | n + 1, v => BitVec.ofNat 8 v :: leBytes n (v / 256)

/-- Steps of CRC-32C over bits, with the reflected Castagnoli polynomial 0x82F63B78. PRESUMED, log 13. -/
def crcBits : Nat → Nat → Nat
  | 0, c => c
  | n + 1, c => crcBits n (if c % 2 = 1 then (c / 2) ^^^ 0x82F63B78 else c / 2)

/-- CRC-32C with initial value and final xor 0xFFFF_FFFF (R68, R215, R328, R383). -/
def crc32c (bs : List Byte) : Nat := (bs.foldl (fun c b => crcBits 8 (c ^^^ b.toNat)) 0xFFFFFFFF) ^^^ 0xFFFFFFFF

end Sys2Proof
end

