-- ==== Sys2Proof/Machine/Ops.lean ====
section
/-! DEFINITION. The named operations over the state: its records, the registers of a pack, issuing and parking,
release conditions, tokens, ending a pack, and raising a trap. -/

namespace Sys2Proof.Machine

/-- The outcome of a meaning. -/
abbrev Out := Host.Outcome State Fault Refusal

/-! ### Records of the state -/

/-- A core (R22). -/
def State.core (s : State) (c : Nat) : Core := (s.cores.find c).getD Core.reset
/-- A core replaced. -/
def State.setCore (s : State) (c : Nat) (k : Core) : State := { s with cores := s.cores.put c k }
/-- A core changed. -/
def State.modCore (s : State) (c : Nat) (f : Core → Core) : State := s.setCore c (f (s.core c))
/-- The key of a pack slot on its core: p of R307. -/
def pkey (r : PackRef) : Nat := r.pipe * 16 + r.slot
/-- The pack in a slot. -/
def State.pack (s : State) (r : PackRef) : Option Pack := (s.core r.core).packs.find (pkey r)
/-- The pack in a slot replaced. -/
def State.setPack (s : State) (r : PackRef) (p : Pack) : State :=
  s.modCore r.core fun c => { c with packs := c.packs.put (pkey r) p }
/-- A pipeline of a core (R23). -/
def Core.pipe (c : Core) (i : Nat) : Pipe := (c.pipes.find i).getD Pipe.reset
/-- A pipeline changed. -/
def Core.modPipe (c : Core) (i : Nat) (f : Pipe → Pipe) : Core := { c with pipes := c.pipes.put i (f (c.pipe i)) }
/-- A pipeline changed, in the state. -/
def State.modPipe (s : State) (c i : Nat) (f : Pipe → Pipe) : State := s.modCore c fun k => k.modPipe i f
/-- A resident context (R10). -/
def State.ctx (s : State) (n : Nat) : Option Ctx := s.ctxs.find n
/-- A resident context changed. -/
def State.modCtx (s : State) (n : Nat) (f : Ctx → Ctx) : State := { s with ctxs := s.ctxs.upd n f }
/-- A bound block slot (R10); slot 0xFFFF is never bound. -/
def State.block (s : State) (n : Nat) : Option Block := if n = 0xFFFF then none else s.blocks.find n
/-- A new identity for an access, a copy or a token. -/
def State.fresh (s : State) (n : Nat) : State := { s with uid := s.uid + n }
/-- The ASID of a context; 0, the firmware's, where it is not resident. -/
def State.asid (s : State) (ctx : Nat) : Nat := match s.ctx ctx with | some x => x.r.asid | none => 0
/-- The context of an ASID. -/
def State.ctxOfAsid (s : State) (asid : Nat) : Option (Nat × Ctx) := s.ctxs.find? fun e => e.2.r.asid == asid

/-- A pack's context ends, and the pack is no recompute: it issues and ends nothing more (R348, R358). -/
def State.stopped (s : State) (p : Pack) : Bool :=
  p.id.colour.isNone && (match s.ctx p.id.ctx with | some x => x.st == .ending | none => true)

/-! ### Tags and bearings -/

/-- The level of a tag (R11). -/
def tagLevel (t : DWord) : Nat := t.toNat / 2 ^ 61
/-- The colour number of a tag (R11). -/
def tagNumber (t : DWord) : Nat := t.toNat / 2 ^ 48 % 2 ^ 13
/-- The 16-bit colour of a tag: level and number (R12). -/
def tagColour (t : DWord) : Nat := t.toNat / 2 ^ 48
/-- The index of a tag (R11). -/
def tagIndex (t : DWord) : Nat := t.toNat % 2 ^ 48
/-- A tag of a level, a colour number and an index (R11). -/
def mkTag (level number index : Nat) : DWord :=
  BitVec.ofNat 64 (level % 8 * 2 ^ 61 + number % 2 ^ 13 * 2 ^ 48 + index % 2 ^ 48)
/-- The index of close tokens (R224). -/
def closeIndex : Nat := 0xFFFFFFFFFFFF

/-- Field f of an index under the widths of a launch header (R13). -/
def idxField (widths : List Nat) (f index : Nat) : Nat :=
  let total := widths.foldl (· + ·) 0
  let upto := (widths.take (f + 1)).foldl (· + ·) 0
  index % 2 ^ total / 2 ^ (total - upto) % 2 ^ (widths.getD f 0)

/-- A bearing (R21). -/
def mkBearing (serial idx lane core pipe slot : Nat) : DWord :=
  BitVec.ofNat 64 (lane * 2 ^ 48 + core * 2 ^ 38 + pipe * 2 ^ 36 + slot * 2 ^ 32 + serial % 2 ^ 24 * 2 ^ 8 + idx % 256)
/-- The firing serial of a bearing (R21). -/
def bearingSerial (b : DWord) : Nat := b.toNat / 2 ^ 8 % 2 ^ 24
/-- The core of a bearing (R21). -/
def bearingCore (b : DWord) : Nat := b.toNat / 2 ^ 38 % 2 ^ 8
/-- The lane of a bearing (R21). -/
def bearingLane (b : DWord) : Nat := b.toNat / 2 ^ 48 % 2 ^ 5
/-- The bearing of the instruction at an index of a pack. -/
def Pack.bearing (p : Pack) (r : PackRef) (idx lane : Nat) : DWord := mkBearing p.id.serial idx lane r.core r.pipe r.slot

/-! ### Registers of a pack -/

/-- A lane register (R29). -/
def Pack.v (p : Pack) (r L : Nat) : Word := Sparse.get (r * 32 + L) p.r.v
/-- A lane register written; a write clears its poison (R322). -/
def Pack.setV (p : Pack) (r L : Nat) (x : Word) : Pack :=
  { p with r := { p.r with v := Sparse.set (r * 32 + L) x p.r.v, vBad := p.r.vBad.filter (· != r * 32 + L) } }
/-- A lane pair (R29). -/
def Pack.v2 (p : Pack) (r L : Nat) : DWord := (p.v (r + 1) L) ++ (p.v r L)
/-- Consecutive lane registers of one lane written. -/
def Pack.setVs (p : Pack) (r L : Nat) : List Word → Pack
  | [] => p
  | x :: t => (p.setV r L x).setVs (r + 1) L t
/-- A uniform register: s0 reads zero (R29). -/
def Pack.s (p : Pack) (r : Nat) : Word := if r = 0 then 0 else Sparse.get r p.r.s
/-- A uniform register written: a write to s0 is discarded (R29). -/
def Pack.setS (p : Pack) (r : Nat) (x : Word) : Pack :=
  if r = 0 then p else { p with r := { p.r with s := Sparse.set r x p.r.s, sBad := p.r.sBad.filter (· != r) } }
/-- A uniform pair (R29). -/
def Pack.s2 (p : Pack) (r : Nat) : DWord := (p.s (r + 1)) ++ (p.s r)
/-- A uniform pair written. -/
def Pack.setS2 (p : Pack) (r : Nat) (x : DWord) : Pack := (p.setS r (x.setWidth 32)).setS (r + 1) ((x >>> 32).setWidth 32)
/-- The active mask: the low n bits (R14). -/
def Pack.active (p : Pack) : Word := BitVec.ofNat 32 (2 ^ p.id.n - 1)
/-- A lane mask: k0 reads the active mask (R14, R29). -/
def Pack.k (p : Pack) (r : Nat) : Word := if r = 0 then p.active else Sparse.get r p.r.k
/-- A lane mask written; k0 is never a destination (R30). -/
def Pack.setK (p : Pack) (r : Nat) (x : Word) : Pack :=
  if r = 0 then p else { p with r := { p.r with k := Sparse.set r x p.r.k } }
/-- A word of a tile descriptor (R144). -/
def Pack.tdw (p : Pack) (j w : Nat) : Word := Sparse.get (j * 2 + w) p.r.td
/-- A tile descriptor written (R147). -/
def Pack.setTd (p : Pack) (j : Nat) (w0 w1 : Word) : Pack :=
  { p with r := { p.r with td := Sparse.set (j * 2 + 1) w1 (Sparse.set (j * 2) w0 p.r.td) } }

/-- The lanes an instruction acts on: the active lanes, of which a pack has at most 32 (R14), or those of the replay list's head
(R318). -/
def Pack.lanes (p : Pack) : List Nat :=
  match p.c.replay with
  | [] => List.range (min p.id.n 32)
  | r :: _ => (List.range (min p.id.n 32)).filter fun L => r.lanes.contains L
/-- Of those, the lanes that a mask selects (R105). -/
def Pack.lanesIn (p : Pack) (k : Nat) : List Nat := p.lanes.filter fun L => (p.k k).getLsbD L
/-- The address an access of a lane takes: the one formed, or the one a replay gives (R318). -/
def Pack.addr (p : Pack) (L formed : Nat) : Nat :=
  match p.c.replay with
  | [] => formed
  | r :: _ => ((r.addrs.find? fun e => e.1 == L).map Prod.snd).getD formed
/-- The instruction index that issues (R10, R318). -/
def Pack.idx (p : Pack) : Nat :=
  match p.c.replay with
  | [] => p.c.pc
  | r :: _ => r.idx
/-- The words of the instruction at an index of a pack's block; the second word of an unassigned opcode is never read (R42), and stands as 0
(DEDUCED, log 63). -/
def State.wordsAt (s : State) (p : Pack) (idx : Nat) : Nat × Nat :=
  match s.block p.id.slot with
  | none => (0, 0)
  | some b =>
    let w0 := b.code.getD idx 0
    (w0, if opWords (majorOp w0) = 2 && !unassigned (majorOp w0) then b.code.getD (idx + 1) 0 else 0)
/-- A pack that is no restored pack any more: at a trap, or at the end of its replay list (R17). -/
def Pack.settled (p : Pack) : Pack := { p with id := { p.id with restored := false } }
/-- The pack after an instruction of a length: the next index, or the next entry of the replay list, at whose end a restored
pack is one no more (R17). -/
def Pack.advance (p : Pack) (len : Nat) : Pack :=
  match p.c.replay with
  | [] => { p with c := { p.c with pc := p.c.pc + len } }
  | [_] => ({ p with c := { p.c with replay := [] } } : Pack).settled
  | _ :: t => { p with c := { p.c with replay := t } }
/-- The first word at the index where a pack stands. -/
def State.headWord (s : State) (p : Pack) : Nat :=
  match s.block p.id.slot with | some b => b.code.getD p.idx 0 | none => 0

/-- The instruction that a pack issues next has W set, or is the one at which a resumed pack goes on (R20, R318). A replayed
instruction is issued without a W point. -/
def State.atPoint (s : State) (p : Pack) : Bool :=
  p.c.replay.isEmpty && (p.c.resume.isSome || fld (s.headWord p) 31 31 == 1)

/-- The length in words of an instruction (R34). -/
def instrLen (i : Instr) : Nat := (encode i).length

/-! ### Release conditions -/

/-- A deferred result with a lane that has not bound. -/
def Deferred.unbound (d : Deferred) : Bool :=
  d.kind != .sfu && d.kind != .fault && d.lanes.any fun l => match l.res with | .wait _ => true | _ => false

/-- An access is not yet performed at a scope (R173): a store or RED in its wake-buffer entry, at .sys a store whose write the host has not
completed, or a load or an atomic with return that has not bound. -/
def Core.pending (c : Core) (sc : Scope) (u : Nat) : Bool :=
  c.wake.any (fun e => e.2.uid == u && (sc != .core || e.2.st == .held)) ||
  (sc == .sys && c.flights.any fun f => f.st == .posted && f.uids.any fun e => e.1 == u) ||
  c.packs.any (fun e => e.2.c.deferred.any fun d => d.uid == u && d.unbound)
/-- An access is not yet performed at a scope, on whatever core it stands. -/
def State.pending (s : State) (sc : Scope) (u : Nat) : Bool := s.cores.any fun e => e.2.pending sc u
/-- A release condition holds (R176, R180). -/
def State.met (s : State) (k : Cond) : Bool := k.uids.all fun u => !s.pending k.sc u
/-- The accesses of a pack issued so far that are not yet performed. -/
def State.accesses (s : State) (r : PackRef) (p : Pack) : List Nat :=
  ((s.core r.core).wake.filter fun e => bearingSerial e.2.bearing == p.id.serial && bearingCore e.2.bearing == r.core).map
      (fun e => e.2.uid)
    ++ ((s.core r.core).flights.flatMap fun f =>
      if f.st = .posted then (f.uids.filter fun e => e.2 == p.id.serial).map Prod.fst else [])
    ++ (p.c.deferred.filter Deferred.unbound).map (fun d => d.uid)
/-- Those, with the ones it inherited (R176, R179). -/
def State.covered (s : State) (r : PackRef) (p : Pack) : List Nat :=
  s.accesses r p ++ p.c.hb.filter fun u => s.pending .sys u

/-! ### Tokens -/

/-- An outbound queue has a place for a token (R239): 32 of the 512 are kept for handler and recovery packs. -/
def Core.outRoom (c : Core) (kept : Bool) : Bool := c.outbound.length < if kept then 512 else 480

/-- A token put in an outbound queue (R239). -/
def State.pushOut (s : State) (core : Nat) (t : OutTok) : State :=
  s.modCore core fun c => { c with outbound := c.outbound ++ [t] }

/-- A handler token (R311): its tag is of the unit that raises it and that unit's sequence number; with no
designated block it goes to the inbox as source 4, under colour 0xFFFF (R312). -/
def handlerTok (x : Ctx) (ctx unit q : Nat) (trap : Bool) (pay : List Word) (bearing : DWord) : Tok :=
  let index := unit * 2 ^ 40 + q
  match if trap then x.onTrap else x.onFault with
  | some b => { slot := b, port := 0, tag := mkTag 0 0 index, pay, ctx, rel := some .dev, handler := true, src := 4,
                bearing, core := unit, cov := [] }
  | none => { slot := 0xFFFF, port := 0, tag := mkTag 7 0x1FFF index, pay, ctx, rel := some .dev, handler := true,
              src := 4, bearing, core := unit, cov := [] }

/-- Handler tokens that wait for a place in the outbound queue take it, oldest first (R239). -/
def Core.pumpRaised (c : Core) : Core :=
  let n := 512 - c.outbound.length
  { c with outbound := c.outbound ++ c.raised.take n, raised := c.raised.drop n }

/-- A fault or trap token raised at a core goes to that core's outbound queue (R217, R305, R311), and waits there while that is full. -/
def State.raiseAtCore (s : State) (core ctx : Nat) (trap : Bool) (pay : List Word) (bearing : DWord) (serial : Nat) : State :=
  match s.ctx ctx with
  | none => s
  | some x =>
    let t := handlerTok x ctx core (s.core core).hseq trap pay bearing
    s.modCore core fun c => ({ c with
      hseq := (c.hseq + 1) % 2 ^ 40
      raised := c.raised ++ [{ tok := t, serial := serial, conds := [], frees := none, grants := none }] } : Core).pumpRaised

/-- The eight words of a fault token of causes 34 to 37 (R311). -/
def refusedPay (cause slot port : Nat) (tag : DWord) : List Word :=
  [0xFFFFFFFF, BitVec.ofNat 32 cause, tag.setWidth 32, (tag >>> 32).setWidth 32,
   BitVec.ofNat 32 (port % 4 * 2 ^ 16 + slot % 2 ^ 16), 0, 0, 0]

/-! ### The engine queue -/

/-- The tile registers that an engine instruction names. -/
def engTiles : Instr → List Nat
  | .tzero m => [m]
  | .tld _ m _ => [m]
  | .tst _ m _ => [m]
  | .mma _ _ c a b => [c, a, b]
  | .mmas _ _ _ c a b m => [c, a, b, m]
  | .mmaq _ _ c a b _ => [c, a, b]
  | .quant _ _ d a _ => [d, a]
  | .deq _ d a _ => [d, a]
  | .tact _ _ bias d a => [d, a] ++ bias.toList
  | .tred _ _ d a => [d, a]
  | _ => []

/-- An entry of an engine queue is held behind a CPY.t of its pack that was issued before it and fills a tile it names (R150). -/
def Core.engineHeld (c : Core) (o : EngOp) : Bool :=
  c.copies.any fun e => e.2.mode == .t && e.2.serial == o.serial && e.2.uid < o.uid && (engTiles o.instr).contains e.2.dst

/-- The place in the queue of the entry that the engine takes next (R148, R150): the oldest that is not held, nor behind a held entry of
its own pack. -/
def Core.engineNext (c : Core) (q : List EngOp) : Option Nat :=
  (List.range q.length).find? fun i => match q[i]? with
    | none => false
    | some o => !((q.take (i + 1)).any fun x => x.serial == o.serial && c.engineHeld x)

/-- An idle engine starts the entry that it takes next, at the ck after this one (R148). -/
def State.engineStart (s : State) (core pipe : Nat) : State :=
  let c := s.core core
  let q := c.pipe pipe
  match q.run, (c.engineNext q.queue).bind fun i => q.queue[i]? with
  | none, some o => s.modPipe core pipe fun x => { x with run := some o.uid, busy := s.now }
  | _, _ => s

/-! ### Ending a pack -/

/-- The frame words of a block's instances. -/
def State.frameWords (s : State) (slot : Nat) : Nat := match s.block slot with | some b => b.frame / 4 | none => 0

/-- The number of words of a copy. -/
def Copy.words (q : Copy) : Nat := if q.mode = .gather then (q.len * 2 ^ q.es + 3) / 4 else q.len / 4

/-- The frame columns, of the n of its pack, that a copy reads or writes (R26, R211). -/
def Copy.cols (q : Copy) (n : Nat) : List Nat :=
  let from_ (ea : Nat) : List Nat := (List.range n).filter fun L =>
    q.words ≥ 32 || (List.range q.words).any fun i => (ea / 4 + i) % 32 == L
  match q.mode with
  | .f | .gather => from_ q.dst
  | .h => from_ q.src
  | _ => []

/-- The frame columns of a pack that its copies in flight keep (R211). -/
def Core.copyCols (c : Core) (serial n : Nat) : List Nat :=
  (List.range n).filter fun L => c.copies.any fun e => e.2.serial == serial && (e.2.cols n).contains L

/-- The frame columns that copies of a pack still use outlive it (R211). -/
def State.ghost (s : State) (r : PackRef) (p : Pack) : State :=
  match (s.core r.core).copyCols p.id.serial p.id.n with
  | [] => s
  | cols =>
    s.modCore r.core fun c => { c with ghosts := c.ghosts ++
      [{ serial := p.id.serial, ctx := p.id.ctx, slot := p.id.slot, n := p.id.n, words := s.frameWords p.id.slot, cols,
         areas := p.id.areas.filter fun a => cols.contains a.1, m := { p.m with priv := [], privBad := [], tiles := [] } }] }

/-- A pack freed, as step 4 of END (R247): its slot, its tiles, which are cleared (R141), its frames but for what
copies use, and its private lines. The slot, tiles and frames may be taken at the next ck. -/
def State.freePack (s : State) (r : PackRef) (p : Pack) : State :=
  (s.ghost r p).modCore r.core fun c =>
    ({ c with packs := c.packs.del (pkey r), dying := (c.dying.filter fun (e : Nat × Nat × Pack) => e.1 == s.now) ++ [(s.now, pkey r, p)] }).modPipe r.pipe
      fun q => { q with tiles := q.tiles.filter fun e => !p.m.tiles.contains e.1 }

/-- The packs whose slot, tiles, frames and private bytes are taken at a ck: those that stand, and those that have ended at that ck, whose
resources are free from the next one on (R247). -/
def Core.holders (c : Core) (now : Nat) : Tbl Pack := c.packs ++ (c.dying.filter fun (e : Nat × Nat × Pack) => e.1 == now).map Prod.snd

/-- The tokens of a pack that TKILL discards: those that no fault record holds (R319). -/
def Core.heldByRecord (c : Core) (t : OutTok) : Bool :=
  t.conds.any fun k => k.uids.any fun u => c.wake.any fun e => e.2.uid == u && (e.2.st == .faulted || e.2.st == .replaying)

/-- A colour freed (R244), with its return record. -/
def State.freeColour (s : State) (ctx level number : Nat) : State :=
  s.modCtx ctx fun x => { x with pools := x.pools.filter (· != (level, number)), returns := x.returns.filter fun e => e.1 != (level, number) }

/-- A token that TKILL discards: of the pack, and held by no fault record (R319). -/
def Core.discards (c : Core) (serial : Nat) (t : OutTok) : Bool := t.serial == serial && !c.heldByRecord t && !t.tok.handler

/-- Restored requests that wait for places in the allocator queue take those that are free, in their order (R23, R356). -/
def Core.pumpAlloc (c : Core) : Core :=
  let n := 64 - c.alloc.length
  { c with alloc := c.alloc ++ c.spawned.take n, spawned := c.spawned.drop n }

/-- A pack killed (R319): its pending tokens and SPAWN requests are discarded, colours granted to a discarded child token or
freed by a discarded return go back to their pools (DEDUCED, log 23), and it is freed. A trapped pack has drained its engine work and its
copies into tiles (R167); what a recompute pack has of them ends with it, since its tiles go (R335; DEDUCED, log 62). -/
def State.killPack (s : State) (r : PackRef) (p : Pack) : State :=
  let c := s.core r.core
  let gone := ((c.outbound.filter (c.discards p.id.serial)).flatMap fun t => t.frees.toList ++ t.grants.toList) ++
    ((c.alloc ++ c.spawned).filter fun q => q.serial == p.id.serial).flatMap fun q => q.granted.toList.map fun g => (q.level, g)
  let s1 := gone.foldl (fun (t : State) e => t.freeColour p.id.ctx e.1 e.2) s
  let s2 := s1.modCore r.core fun k =>
    { k with outbound := k.outbound.filter (fun t => !c.discards p.id.serial t)
             alloc := k.alloc.filter (fun q => q.serial != p.id.serial)
             spawned := k.spawned.filter (fun q => q.serial != p.id.serial)
             copies := k.copies.filter fun e => !(e.2.serial == p.id.serial && e.2.mode == .t) }
  let s3 := s2.modPipe r.core r.pipe fun q =>
    let run := (q.queue.find? fun o => q.run == some o.uid).map fun o => o.serial
    { q with queue := q.queue.filter fun o => o.serial != p.id.serial, run := if run = some p.id.serial then none else q.run }
  ((s3.engineStart r.core r.pipe).modCore r.core Core.pumpAlloc).freePack r p

/-- The Retriever whose live colour is c, with its die. -/
def State.retrOf (s : State) (c : Nat) : Option (Nat × Retriever) := s.retr.find? fun e => e.2.colour == some c

/-- The recompute of a live colour fails with a kind (R335, R339); a failure already noted stands. -/
def State.failRegen (s : State) (c kind arg : Nat) : State :=
  match s.retrOf c with
  | none => s
  | some (die, q) =>
    match q.stack with
    | [] => s
    | g :: t =>
      match g.phase with
      | .running | .complete => { s with retr := s.retr.put die { q with stack := { g with phase := .failed kind arg } :: t } }
      | _ => s

/-! ### Batches -/

/-- The open batch closed and the next one opened (R151, R152). -/
def Pack.closeBatch (p : Pack) : Pack :=
  let o := p.c.bopen
  let bs := if p.c.batches.any (fun b => b.num == o)
    then p.c.batches.map fun b => if b.num = o then { b with closed := true } else b
    else p.c.batches ++ [{ num := o, members := 0, cls := 0, psc := false, closed := true, done := false }]
  { p with c := { p.c with batches := bs, bopen := o + 1 } }

/-! ### Raising a trap -/

/-- A report entry joined to those of a pack: one instruction has one entry (R309). -/
def Pack.addReport (p : Pack) (q : Report) : Pack :=
  let join (e : Report) : Report :=
    { e with replay := e.replay || q.replay,
             lanes := sortBy (fun l => l.lane) ((e.lanes.filter fun l => !(q.lanes.any fun m => m.lane == l.lane)) ++ q.lanes) }
  let rs := if p.c.reports.any (fun e => e.idx == q.idx)
    then p.c.reports.map fun e => if e.idx = q.idx then join e else e
    else insertBy (fun e => e.idx) q p.c.reports
  { p with c := { p.c with reports := rs } }

/-- The causes whose entries are replayed (R304). -/
def replayCause (c : Nat) : Bool := [4, 5, 6, 7, 8, 9, 10, 12, 14, 15, 16, 17, 21, 22].contains c

/-- A report entry for lanes of the instruction at an index. -/
def State.mkReport (s : State) (p : Pack) (idx : Nat) (lanes : List RepLane) : Report :=
  let w := s.wordsAt p idx
  { idx, w0 := w.1, w1 := w.2, replay := lanes.any fun l => replayCause l.cause, lanes }

/-- A pack stops at a trap point and drains (R303, R305): its open batch closes, the trap point's entry joins the
report entries with what is left of a replay list, and the resume index is fixed; a resumed pack keeps its own
(R318). A recompute pack ends instead, and its recompute fails with kind 3 (R335). -/
def State.raise (s : State) (r : PackRef) (p : Pack) (idx resume code : Nat) (entry : Option Report) (cause : Nat) : State :=
  match p.id.colour with
  | some c =>
    let cs := match entry with | some e => ((e.lanes.head?).map fun l => l.cause).getD cause | none => cause
    (s.killPack r p).failRegen c 3 cs
  | none =>
    let rest := p.c.replay.tail.map fun q => q.rest
    let p1 := p.closeBatch
    let p2 := match entry with | some e => p1.addReport e | none => p1
    let p3 := (rest.foldl (fun q e => q.addReport e) p2).settled
    s.setPack r { p3 with c := { p3.c with
      st := .drain, wait := none, replay := [],
      trap := { idx, resume := p.c.resume.getD resume, code,
                entry := entry.map fun e => e.idx, cause } } }

/-- A trap at issue of the current instruction (R303): the failing lanes, and the index after it. -/
def State.trapIssue (s : State) (r : PackRef) (p : Pack) (len : Nat) (lanes : List RepLane) : State :=
  s.raise r p p.idx (p.idx + len) 0 (some (s.mkReport p p.idx lanes)) 0

/-- Every active lane with one cause: the lane mask k0. -/
def Pack.allLanes (p : Pack) (cause detail addr : Nat) : List RepLane :=
  p.lanes.map fun L => { lane := L, cause, detail, addr }

/-- The illegal-instruction trap at a failed check (R43). -/
def State.trapIllegal (s : State) (r : PackRef) (p : Pack) (len check : Nat) : State :=
  s.trapIssue r p len (p.allLanes 1 check 0)

/-- A trap at a report point (R303): it is taken before the instruction at an index, whose index is the resume
index; the cause is of the entry with the lowest index. -/
def State.trapReport (s : State) (r : PackRef) (p : Pack) : State :=
  match p.id.colour, p.c.reports.head? with
  | some c, some e => (s.killPack r p).failRegen c 3 (((e.lanes.head?).map fun l => l.cause).getD 0)
  | some c, none => (s.killPack r p).failRegen c 3 0
  | none, e =>
    let p1 := ((p.c.replay.map fun q => q.rest).foldl (fun q e => q.addReport e) p.closeBatch).settled
    s.setPack r { p1 with c := { p1.c with
      st := .drain, wait := none, replay := [],
      trap := { idx := p.c.pc, resume := p.c.resume.getD p.c.pc, code := 0, entry := e.map fun q => q.idx, cause := 0 } } }

/-! ### Issuing -/

/-- One more deferred-result instruction may issue (R306): at most 16 of the pack's have results that have not arrived or that stand
reported, so that a trap frame holds at most 17 entries (DEDUCED, log 70). -/
def Pack.deferRoom (p : Pack) : Bool := p.c.deferred.length + p.c.reports.length < 16

/-- A deferred-result instruction that finds no room parks before issue; where every result has arrived and only reports are left, the
pack takes its report trap there, since nothing it waits for can come (DEDUCED, log 70). -/
def State.deferWait (s : State) (p : Pack) : State := if p.c.deferred.isEmpty then s.trapReport s.cur p else s

/-- The pipeline of a pack is taken for a number of ck from now (R104, R196). -/
def State.occupy (s : State) (r : PackRef) (ck : Nat) : State :=
  s.modPipe r.core r.pipe fun q => { q with next := s.now + ck }

/-- The pack parks on an instruction after its issue. -/
def Pack.park (p : Pack) (i : Instr) (uids : List Nat) (sc : Scope) (info : Nat) : Pack :=
  { p with c := { p.c with wait := some { instr := i, uids, sc, phase := 0, info } } }

/-- The L1 global lines of a core dropped, and its open load slots closed to new requests (R174 step 5, R197). -/
def State.acquireDrop (s : State) (core : Nat) : State :=
  s.modCore core fun c =>
    { c with l1 := [], slots := c.slots.map fun e => if e.2.kind = .load then (e.1, { e.2 with closed := true }) else e }

end Sys2Proof.Machine
end

