-- ==== Sys2Proof/Machine/Operands.lean ====
section
/-! DEFINITION. The operand forms: the b operand, the registers an instruction reads, the lanes that take part,
effective addresses (R40, R105, R190), and the check of register poison that every issue makes (R324). -/

namespace Sys2Proof.Machine

/-- The b operand of a lane (R40). -/
def Pack.b (p : Pack) (b : BOp) (L : Nat) : Word := match b with | .v r => p.v r L | .s r => p.s r
/-- The b operand as a pair (R40). -/
def Pack.b2 (p : Pack) (b : BOp) (L : Nat) : DWord := match b with | .v r => p.v2 r L | .s r => p.s2 r
/-- The register after the one that b names (R122, R129). -/
def BOp.next : BOp → BOp
  | .v r => .v (r + 1)
  | .s r => .s (r + 1)

/-- A register, or the two of a pair, as b operands. -/
def pairOf (wide : Bool) (b : BOp) : List BOp := if wide then [b, BOp.next b] else [b]
/-- A lane register, or the two of a lane pair. -/
def vOf (wide : Bool) (r : Nat) : List BOp := pairOf wide (.v r)
/-- Consecutive lane registers. -/
def vRun (r n : Nat) : List BOp := (List.range n).map fun i => .v (r + i)
/-- A uniform pair. -/
def sPair (r : Nat) : List BOp := [.s r, .s (r + 1)]
/-- The registers of a tag operand (R54). -/
def tagRegs : TagSrc → List BOp
  | .lane a => vOf true a
  | .uni a => sPair a
  | .self => []

/-- The lane and uniform registers that an instruction reads. -/
def reads : Instr → List BOp
  | .add _ t _ a b | .sub _ t _ a b | .mul _ t _ a b => vOf t.wide a ++ pairOf t.wide b
  | .addImm _ a _ | .mulImm _ a _ | .andImm _ a _ | .orImm _ a _ | .xorImm _ a _ => [.v a]
  | .mulh t _ a b | .min t _ a b | .max t _ a b | .cmp _ t _ a b => vOf t.wide a ++ pairOf t.wide b
  | .mad t d a b => vOf t.wide d ++ vOf t.wide a ++ pairOf t.wide b
  | .divi w _ a b | .divn w _ a b | .remi w _ a b | .remn w _ a b => vOf w a ++ pairOf w b
  | .abs w _ a | .neg w _ a | .not w _ a | .clz w _ a | .popc w _ a | .brev w _ a => vOf w a
  | .and w _ a b | .or w _ a b | .xor w _ a b | .andn w _ a b => vOf w a ++ pairOf w b
  | .shl w _ a b | .shr w _ a b | .shra w _ a b | .rotl w _ a b => vOf w a ++ [b]
  | .shlImm w _ a _ | .shrImm w _ a _ | .shraImm w _ a _ | .rotlImm w _ a _ => vOf w a
  | .bfx _ _ a _ _ => [.v a]
  | .bfi d a _ _ => [.v d, .v a]
  | .mov w _ b => pairOf w b
  | .movsLane _ a _ => [.v a]
  | .movsUniform _ a => [.s a]
  | .movhiV d _ => [.v d]
  | .movhiS d _ => [.s d]
  | .sel _ a b _ => [.v a, b]
  | .cmpImm _ _ _ a _ => [.v a]
  | .kop op _ a _ => if op = .froms then [.s a] else []
  | .fadd _ _ a b | .fsub _ _ a b | .fmul _ _ a b | .fscale _ _ a b => [.v a, b]
  | .ffma _ _ a b | .hfma2 _ _ _ a b => [.v a, b, BOp.next b]
  | .fmin _ a b | .fmax _ a b | .fcmp _ _ _ a b | .hadd2 _ _ _ a b | .hmul2 _ _ _ a b => [.v a, b]
  | .fabs _ a | .fneg _ a | .fclass _ a | .frnd _ _ a => [.v a]
  | .cvt _ src _ _ a => vOf src.wide a
  | .frcp _ a | .frsq _ a | .fsqrt _ a | .fexp2 _ a | .flog2 _ a | .fsin _ a | .fcos _ a | .ftanh _ a
  | .fsigm _ a => [.v a]
  | .lmv _ bias _ a rows cols _ => vRun a cols ++ (match bias with | none => [] | some b => vRun b rows)
  | .reduce _ _ _ a | .scan _ _ _ _ a | .ballot _ a | .confl _ a => [.v a]
  | .shfl _ _ a b => [.v a, b]
  | .tdesc _ a _ => [.s a]
  | .bwait d => [.s d]
  | .ld _ _ _ b _ => vOf true b
  | .st sz d b _ _ => vOf (sz == .d) d ++ vOf true b
  | .lds _ _ _ b _ => sPair b
  | .ldf _ _ _ b _ | .ldp _ _ _ b _ => [.v b]
  | .stf _ d b _ _ | .stp _ d b _ _ => [.v d, .v b]
  | .ldc _ _ _ b _ => [.s b]
  | .atomf op d a b => (if op = .cas then [.v d] else []) ++ [.v a, b]
  | .pfx _ _ b _ _ => vOf true b
  | .atom op t _ _ d a b => (if op = .cas then vOf t.wide d else []) ++ vOf true a ++ pairOf t.wide b
  | .fatom _ _ _ _ a b => vOf true a ++ [b]
  | .red _ t _ _ a b => vOf true a ++ pairOf t.wide b
  | .cpy md _ _ _ d a b aux _ _ =>
    b :: (match md with
      | .f | .c => .v d :: vOf true a
      | .h => .v a :: vOf true d
      | .t => vOf true a
      | .m => vOf true d ++ vOf true a
      | .gather => .v d :: vOf true a ++ sPair aux
      | .remote => vOf true d ++ vOf true a ++ [.s aux])
  | .send t d n _ _ _ _ => tagRegs t ++ vRun d n
  | .sendm t d n _ _ b => tagRegs t ++ vRun d n ++ [.v b]
  | .spawn d a n _ _ _ _ _ => vOf true a ++ vRun d n
  | .ret d n _ => vRun d n
  | .mktag _ a => vOf true a
  | .mktagColour _ a b => vOf true a ++ [b]
  | .movcWrite d _ => [.s d]
  | .cwbi a b => sPair a ++ [.s b]
  | .rebind a b => [.s a, .s b]
  | .tresume d | .tskip d | .tkill d | .replay d => [.s d]
  | .faultrd _ a _ => [.s a]
  | .rdrop a | .rfree a | .rpin _ a | .rstat _ a => sPair a
  | .rseal d a b _ n => sPair a ++ ((List.range (2 * n)).map fun i => .s (d + i)) ++ [.s b, .s (b + 1), .s (b + 2), .s (b + 3)]
  | .hcmdMap _ a b | .hcmdUnmap _ a b | .hcmdProtect _ a b | .hcmdQuery _ a b | .hcmdTcflush _ a b _ =>
    sPair a ++ [.s b]
  | _ => []

/-- The lanes that take part in an instruction (R105, R202, R236). -/
def Pack.taking (p : Pack) : Instr → List Nat
  | .st _ _ _ _ k | .stf _ _ _ _ k | .stp _ _ _ _ k | .pfx _ _ _ _ k | .send _ _ _ k _ _ _ | .sendm _ _ _ k _ _
  | .spawn _ _ _ _ k _ _ _ => p.lanesIn k
  | .movsLane _ _ l => if l < p.id.n then [l] else []
  | .cpy _ _ once _ _ _ _ _ _ _ => if once then p.lanes.take 1 else p.lanes
  | _ => p.lanes

/-- The size in bytes of a size code (R190). -/
def Sz.bytes : Sz → Nat
  | .b => 1 | .h => 2 | .w => 4 | .d => 8

/-- The effective address of a global access of a lane: a virtual address modulo 2^64 (R190). -/
def Pack.eaGlobal (p : Pack) (base : Nat) (off : Int) (sz : Sz) (L : Nat) : Nat :=
  p.addr L (((p.v2 base L).toNat + off * Sz.bytes sz) % 2 ^ 64).toNat
/-- The effective address of LDS (R190). -/
def Pack.eaUniform (p : Pack) (base : Nat) (off : Int) (sz : Sz) : Nat :=
  p.addr (p.lanes.headD 0) (((p.s2 base).toNat + off * Sz.bytes sz) % 2 ^ 64).toNat
/-- A view address is exact and not wrapped (R190); a report entry holds it modulo 2^64, and one taken back from an
entry is read as signed. -/
def Pack.addrView (p : Pack) (L : Nat) (formed : Int) : Int :=
  match p.c.replay with
  | [] => formed
  | _ :: _ => (BitVec.ofNat 64 (p.addr L (BitVec.ofInt 64 formed).toNat)).toInt
/-- The effective address of a frame or private access of a lane (R190). -/
def Pack.eaView (p : Pack) (base : Nat) (off : Int) (sz : Sz) (L : Nat) : Int :=
  p.addrView L ((p.v base L).toNat + off * Sz.bytes sz)
/-- The effective address of LDC (R190). -/
def Pack.eaConst (p : Pack) (base : Nat) (off : Int) (sz : Sz) : Int :=
  p.addrView (p.lanes.headD 0) ((p.s base).toNat + off * Sz.bytes sz)

/-- The address of a lane's access, which a report entry holds and a replay takes (R309, R318): that of a format-M access or of an
atomic, the global range of a copy, or the constant offset of LMV; 0 for other instructions. -/
def Pack.accessAddr (p : Pack) (i : Instr) (L : Nat) : Nat :=
  let view (e : Int) : Nat := (BitVec.ofInt 64 e).toNat
  match i with
  | .ld sz _ _ base off | .st sz _ base off _ | .pfx _ sz base off _ => p.eaGlobal base off sz L
  | .lds sz _ _ base off => p.eaUniform base off sz
  | .ldf sz _ _ base off | .stf sz _ base off _ | .ldp sz _ _ base off | .stp sz _ base off _ => view (p.eaView base off sz L)
  | .ldc sz _ _ base off => view (p.eaConst base off sz)
  | .atom _ _ _ _ _ a _ | .fatom _ _ _ _ a _ | .red _ _ _ _ a _ => p.addr L (p.v2 a L).toNat
  | .atomf _ _ a _ => view (p.addrView L (p.v a L).toNat)
  | .cpy mode _ _ _ d a _ _ _ _ => if mode = .h then p.addr L (p.v2 d L).toNat else p.addr L (p.v2 a L).toNat
  | .lmv _ _ _ _ _ _ off => off
  | _ => 0

/-- The position whose value SHFL gives a lane: one that is no active position gives the lane its own (R139). -/
def Pack.shflFrom (p : Pack) (m : ShflMode) (b : BOp) (L : Nat) : Nat :=
  let y := (p.b b L).toNat
  let j : Int := match m with
    | .idx => y
    | .up => (L : Int) - y
    | .down => (L : Int) + y
    | .xor => (L ^^^ y : Nat)
  if 0 ≤ j && j < p.id.n then j.toNat else L

/-- The lane registers whose values a lane's result takes, as the keys of `Regs.v`: its own copies of the sources; of SHFL that of the
position it reads (R139), of SCAN those below it with its own where the form includes it (R136), of REDUCE and CONFL those of every active
position (R135, R140). -/
def Pack.laneReads (p : Pack) (i : Instr) (L : Nat) : List Nat :=
  let own (b : BOp) : List Nat := match b with | .v r => [r * 32 + L] | .s _ => []
  match i with
  | .reduce _ _ _ a | .confl _ a => (List.range p.id.n).map fun j => a * 32 + j
  | .scan _ excl _ _ a => (List.range (if excl then L else L + 1)).map fun j => a * 32 + j
  | .shfl m _ a b => (a * 32 + p.shflFrom m b L) :: own b
  | _ => (reads i).flatMap own

/-- The report lanes of a register with an uncorrectable error that an instruction reads: those that read it, or
every active lane for a uniform one (R324). -/
def Pack.badLanes (p : Pack) (i : Instr) : List RepLane :=
  if p.r.vBad.isEmpty && p.r.sBad.isEmpty then []
  else
    let rs := reads i
    let uni := rs.any fun b => match b with | .s r => p.r.sBad.contains r | .v _ => false
    if uni then p.lanes.map fun L => { lane := L, cause := 21, detail := 0, addr := p.accessAddr i L }
    else
      let hit (L : Nat) : Bool := (p.laneReads i L).any fun x => p.r.vBad.contains x
      ((p.taking i).filter hit).map fun L => { lane := L, cause := 21, detail := 0, addr := p.accessAddr i L }

/-- The tiles and descriptors that an instruction names (R30). -/
def limited : Instr → List Nat
  | .tzero m => [m]
  | .tld _ m t | .tst _ m t => [m, t]
  | .mma _ _ c a b => [c, a, b]
  | .mmas _ _ _ c a b m => [c, a, b, m]
  | .mmaq _ _ c a b t => [c, a, b, t]
  | .quant _ _ d a t | .deq _ d a t => [d, a, t]
  | .tact _ _ bias d a => [d, a] ++ bias.toList
  | .tred _ _ d a => [d, a]
  | .tdesc t _ _ => [t]
  | .cpy .t _ _ _ d _ _ aux _ _ => [d, aux % 16]
  | _ => []

/-- An instruction marked P in the opcode map, or a MOVC that names FAULTQ (R41, R43 check 3, R276). -/
def needsPriv : Instr → Bool
  | .rebind _ _ | .tresume _ | .tskip _ | .tkill _ | .replay _ | .faultrd _ _ _ | .movcRead _ .faultq
  | .hcmdMap _ _ _ | .hcmdUnmap _ _ _ | .hcmdProtect _ _ _ | .hcmdQuery _ _ _ | .hcmdTcflush _ _ _ _ => true
  | _ => false

/-- A harbour command, which needs HCEN too (R274). -/
def isHcmd : Instr → Bool
  | .hcmdMap _ _ _ | .hcmdUnmap _ _ _ | .hcmdProtect _ _ _ | .hcmdQuery _ _ _ | .hcmdTcflush _ _ _ _ => true
  | _ => false

/-- A context's PRIV lets its privileged packs issue HCMD (R274). -/
def State.hcen (s : State) (ctx : Nat) : Bool := match s.ctx ctx with | some x => x.r.priv &&& 4 != 0 | none => false

/-- Check 3 of R43 is passed (R274). -/
def State.privOk (s : State) (p : Pack) (i : Instr) : Bool := !needsPriv i || (p.id.priv && (!isHcmd i || s.hcen p.id.ctx))

/-- The issue of an instruction on the pack that issues. Without one, the model's fault. The checks come in order: the
tile limit of its block (R43 check 2, R30), privilege (R43 check 3), and poisoned registers (R324); then what the
meaning gives. -/
def issue (s : State) (i : Instr) (f : Pack → State) : Out :=
  match s.pack s.cur with
  | none => .fault .noPack
  | some p =>
    if (limited i).any fun m => p.m.tiles.length ≤ m then .next (s.trapIllegal s.cur p (instrLen i) 2)
    else if !s.privOk p i then .next (s.trapIssue s.cur p (instrLen i) (p.allLanes 2 0 0))
    else match p.badLanes i with
      | [] => .next (f p)
      | ls => .next (s.trapIssue s.cur p (instrLen i) ls)

/-- The pack moves past the current instruction after an occupancy. -/
def State.retire (s : State) (p : Pack) (len occ : Nat) : State := (s.setPack s.cur (p.advance len)).occupy s.cur occ

/-- The value of n little-endian bytes extended to a load's destination (R191). -/
def extend (n : Nat) (sext : Bool) (v : Nat) : Nat :=
  if sext && v / 2 ^ (8 * n - 1) % 2 = 1 then 2 ^ 32 - 2 ^ (8 * n) + v else v
/-- The registers a loaded value fills: one, or a pair for a doubleword. -/
def loadWords (size v : Nat) : List Word :=
  if size = 8 then [BitVec.ofNat 32 v, BitVec.ofNat 32 (v / 2 ^ 32)] else [BitVec.ofNat 32 v]
/-- The number that a store writes: the low bytes of the register or pair (R191). -/
def Pack.storeData (p : Pack) (d : Nat) (sz : Sz) (L : Nat) : Nat :=
  (if sz = .d then (p.v2 d L).toNat else (p.v d L).toNat) % 2 ^ (8 * Sz.bytes sz)

end Sys2Proof.Machine
end

