-- ==== Sys2Proof/Machine/Flags.lean ====
section
/-! DEFINITION. The exception classes and their commits (R93 to R95), the completion of a lane instruction with
its trap and hold (R99, R100), and the shared shapes of lane instructions. -/

namespace Sys2Proof.Machine

namespace Cls
/-- Invalid (R93). -/
def iv : Nat := 1
/-- Divide by zero. -/
def dz : Nat := 2
/-- Overflow. -/
def of : Nat := 4
/-- Underflow. -/
def uf : Nat := 8
/-- Inexact. -/
def nx : Nat := 16
/-- NaN produced. -/
def np : Nat := 32
/-- Infinity produced. -/
def ip : Nat := 64
end Cls

/-- The classes that TRAPEN can enable: IV, DZ, OF, NP and IP (R98). -/
def trapClasses : Nat := 0x67

/-- The classes a TRAPEN value enables (R98). -/
def enabled (trapen : Word) : Nat := trapen.toNat &&& trapClasses

/-- Classes committed to a context's FLAGS, once (R94). -/
def State.commit (s : State) (ctx cls : Nat) : State :=
  s.modCtx ctx fun x => { x with r := { x.r with flags := x.r.flags ||| BitVec.ofNat 32 cls } }

/-- The classes of a pack's instruction committed: to FLAGS, or for a recompute pack gathered to be discarded (R95). -/
def State.commitFor (s : State) (p : Pack) (cls : Nat) : State × Pack :=
  match p.id.colour with
  | none => (s.commit p.id.ctx cls, p)
  | some _ => (s, { p with c := { p.c with cls := p.c.cls ||| cls } })

/-- What one lane of an instruction gives: its result words and the classes it raises. -/
structure LaneOut where
  vals : List Word
  cls  : Nat
deriving DecidableEq, Repr

/-- The results of an instruction written to consecutive registers of each lane. -/
def Pack.writeLanes (p : Pack) (d : Nat) (res : List (Nat × LaneOut)) : Pack :=
  res.foldl (fun q e => q.setVs d e.1 e.2.vals) p

/-- The union of the classes of the lanes. -/
def orCls (cs : List (Nat × Nat)) : Nat := cs.foldl (fun a e => a ||| e.2) 0

/-- The report lanes of an arithmetic trap: the enabled classes that each lane raised (R99), with the lanes' addresses (R309). -/
def arithLanes (at_ : Nat → Nat) (en : Nat) (cs : List (Nat × Nat)) : List RepLane :=
  (cs.filter fun e => e.2 &&& en != 0).map fun e => { lane := e.1, cause := 3, detail := e.2 &&& en, addr := at_ e.1 }

/-- A lane instruction of the pack in a slot completes (R94, R99): its classes are committed; then it traps where a lane raised an
enabled class, and goes on otherwise. -/
def State.finishLane (s : State) (r : PackRef) (p : Pack) (len cls : Nat) (ls : List RepLane) : State :=
  let sp := s.commitFor p cls
  match ls with
  | [] => sp.1.setPack r (sp.2.advance len)
  | ls => sp.1.trapIssue r sp.2 len ls

/-- The completion of a lane instruction whose results stand in `p` (R94, R99, R100, R104): at the last ck of its occupancy, which for an
occupancy of 1 is the ck of its issue; one that raises no class has nothing to do then. A floating-point one holds the pipeline 4 ck
while TRAPEN enables a class. `lanes` are those of its trap. -/
def State.completeWith (s : State) (p : Pack) (len occ : Nat) (fp : Bool) (cls : Nat) (lanes : List RepLane) : State :=
  let s1 := s.occupy s.cur (occ + if fp && enabled p.r.trapen != 0 then 4 else 0)
  if occ ≤ 1 || cls == 0 then s1.finishLane s.cur p len cls lanes
  else (s1.setPack s.cur p).modPipe s.cur.core s.cur.pipe fun q =>
    { q with late := some { due := s.now + occ - 1, slot := s.cur.slot, serial := p.id.serial, len, cls, lanes } }

/-- The same for lanes that make no access or fail no check, from their classes. -/
def State.completeAt (s : State) (p : Pack) (len occ : Nat) (fp : Bool) (at_ : Nat → Nat) (cs : List (Nat × Nat)) : State :=
  s.completeWith p len occ fp (orCls cs) (arithLanes at_ (enabled p.r.trapen) cs)

/-- The instruction that a pipeline has still to complete does so where its ck has come (R104), unless its pack has ended. -/
def State.completeLate (s : State) (core pipe t : Nat) : State :=
  match ((s.core core).pipe pipe).late with
  | none => s
  | some l =>
    if t < l.due then s
    else
      let s1 := s.modPipe core pipe fun q => { q with late := none }
      let r : PackRef := { core, pipe, slot := l.slot }
      match s1.pack r with
      | some p => if p.id.serial = l.serial && p.c.st == .run && !s1.stopped p then s1.finishLane r p l.len l.cls l.lanes else s1
      | none => s1

/-- Time passes to a ck: every lane instruction due by then completes (R104). -/
def State.tick (s : State) (t : Nat) : State :=
  let s1 := (s.cores.map Prod.fst).foldl (fun u core => [0, 1, 2, 3].foldl (fun v pipe => v.completeLate core pipe t) u) s
  { s1 with now := t }

/-- The pack in a slot has a lane instruction that has still to complete. -/
def Core.hasLate (c : Core) (key : Nat) : Bool :=
  match (c.pipe (key / 16)).late with | some l => l.slot == key % 16 | none => false

/-- The completion of an instruction that makes no access. -/
def State.complete (s : State) (p : Pack) (len occ : Nat) (fp : Bool) (cs : List (Nat × Nat)) : State :=
  s.completeAt p len occ fp (fun _ => 0) cs

/-- A lane instruction (R105): every lane reads before any writes. -/
def laneOp (s : State) (i : Instr) (d occ : Nat) (fp : Bool) (f : Pack → Nat → LaneOut) : Out :=
  issue s i fun p =>
    let res := p.lanes.map fun L => (L, f p L)
    s.complete (p.writeLanes d res) (instrLen i) occ fp (res.map fun e => (e.1, e.2.cls))

/-- A lane instruction with one result word and no class. -/
def lane32 (s : State) (i : Instr) (d occ : Nat) (f : Pack → Nat → Word) : Out :=
  laneOp s i d occ false fun p L => { vals := [f p L], cls := 0 }

/-- The two words of a pair (R29). -/
def words2 (x : DWord) : List Word := [x.setWidth 32, (x >>> 32).setWidth 32]

/-- A lane instruction with a 64-bit result and no class. -/
def lane64 (s : State) (i : Instr) (d occ : Nat) (f : Pack → Nat → DWord) : Out :=
  laneOp s i d occ false fun p L => { vals := words2 (f p L), cls := 0 }

/-- The mask word whose bits are the active lanes for which a test holds; other bits keep an old value's. -/
def laneMask (old : Word) (lanes : List Nat) (f : Nat → Bool) : Word :=
  lanes.foldl (fun m L => if f L then m ||| (1#32 <<< L) else m &&& ~~~(1#32 <<< L)) old

/-- An instruction that writes the pack alone, with an occupancy and no class. -/
def packOp (s : State) (i : Instr) (occ : Nat) (f : Pack → Pack) : Out :=
  issue s i fun p => s.retire (f p) (instrLen i) occ

end Sys2Proof.Machine
end

