-- ==== Sys2Proof/Machine/Integer.lean ====
section
/-! DEFINITION. Integer arithmetic of the lanes (R106 to R110). -/

namespace Sys2Proof.Machine

/-! ### Integers of a type -/

/-- The width of an integer type (R103, R106). -/
def tyWidth (t : IntTy) : Nat := if t.wide then 64 else 32
/-- A number of a type's width read as the type says (R106). -/
def ival (t : IntTy) (x : Nat) : Int := if t.signed then (BitVec.ofNat (tyWidth t) x).toInt else x
/-- The least value of a type. -/
def tyMin (t : IntTy) : Int := if t.signed then -(2 ^ (tyWidth t - 1)) else 0
/-- The greatest value of a type. -/
def tyMax (t : IntTy) : Int := if t.signed then 2 ^ (tyWidth t - 1) - 1 else 2 ^ tyWidth t - 1
/-- The nearest value in the range of a type (R106). -/
def clampTy (t : IntTy) (e : Int) : Int := if e < tyMin t then tyMin t else if tyMax t < e then tyMax t else e
/-- The low 64 bits of an exact integer; an operation keeps the width of its type (R106). -/
def wrap64 (e : Int) : DWord := BitVec.ofInt 64 e
/-- The result words of a width: one, or the two of a pair (R103). -/
def resWords (wide : Bool) (x : DWord) : List Word := if wide then words2 x else [x.setWidth 32]

/-- The a operand of a lane as a number: a register, or a pair (R103). -/
def Pack.opA (p : Pack) (wide : Bool) (a L : Nat) : Nat := if wide then (p.v2 a L).toNat else (p.v a L).toNat
/-- The b operand of a lane as a number (R40, R103). -/
def Pack.opB (p : Pack) (wide : Bool) (b : BOp) (L : Nat) : Nat := if wide then (p.b2 b L).toNat else (p.b b L).toNat

/-- An integer operation of two operands of a type, which raises no flag. -/
def intOp (s : State) (i : Instr) (t : IntTy) (d a : Nat) (b : BOp) (occ : Nat) (f : Int → Int → Int) : Out :=
  laneOp s i d occ false fun p L =>
    { vals := resWords t.wide (wrap64 (f (ival t (p.opA t.wide a L)) (ival t (p.opB t.wide b L)))), cls := 0 }

/-- The exact result, saturated where the instruction says so (R106). -/
def satTy (sat : Bool) (t : IntTy) (e : Int) : Int := if sat then clampTy t e else e

/-- ADD (R106). -/
def execAdd (sat : Bool) (t : IntTy) (d a : Nat) (b : BOp) (s : State) : Out :=
  intOp s (.add sat t d a b) t d a b 1 fun x y => satTy sat t (x + y)

/-- ADD with an immediate (R106). -/
def execAddImm (d a : Nat) (imm : Int) (s : State) : Out :=
  lane32 s (.addImm d a imm) d 1 fun p L => BitVec.ofInt 32 ((p.v a L).toInt + imm)

/-- SUB (R106). -/
def execSub (sat : Bool) (t : IntTy) (d a : Nat) (b : BOp) (s : State) : Out :=
  intOp s (.sub sat t d a b) t d a b 1 fun x y => satTy sat t (x - y)

/-- The occupancy of the multiplies (R104). -/
def occMul (t : IntTy) : Nat := if t.wide then 2 else 1

/-- MUL (R106). -/
def execMul (sat : Bool) (t : IntTy) (d a : Nat) (b : BOp) (s : State) : Out :=
  intOp s (.mul sat t d a b) t d a b (occMul t) fun x y => satTy sat t (x * y)

/-- MUL with an immediate (R106). -/
def execMulImm (d a : Nat) (imm : Int) (s : State) : Out :=
  lane32 s (.mulImm d a imm) d 1 fun p L => BitVec.ofInt 32 ((p.v a L).toInt * imm)

/-- MULH: the floor of the product over 2 to the width (R107). -/
def execMulh (t : IntTy) (d a : Nat) (b : BOp) (s : State) : Out :=
  intOp s (.mulh t d a b) t d a b (occMul t) fun x y => (x * y).fdiv (2 ^ tyWidth t)

/-- MAD: the product added to vD (R107). -/
def execMad (t : IntTy) (d a : Nat) (b : BOp) (s : State) : Out :=
  laneOp s (.mad t d a b) d (occMul t) false fun p L =>
    { vals := resWords t.wide (wrap64 (ival t (p.opA t.wide a L) * ival t (p.opB t.wide b L) + ival t (p.opA t.wide d L))),
      cls := 0 }

/-- The divide group (R108): a zero divisor gives quotient 0 and the dividend as remainder, and raises DZ. -/
def divOp (s : State) (i : Instr) (t : IntTy) (remainder : Bool) (d a : Nat) (b : BOp) : Out :=
  laneOp s i d (if t.wide then 16 else 8) false fun p L =>
    let x := ival t (p.opA t.wide a L)
    let y := ival t (p.opB t.wide b L)
    let q := if y = 0 then 0 else x.tdiv y
    let r := if y = 0 then x else x - q * y
    { vals := resWords t.wide (wrap64 (if remainder then r else q)), cls := if y = 0 then Cls.dz else 0 }

/-- The type of a width and signedness. -/
def intTy (wide signed : Bool) : IntTy := match wide, signed with
  | false, true => .i32 | false, false => .n32 | true, true => .i64 | true, false => .n64

/-- DIVI (R108). -/
def execDivi (wide : Bool) (d a : Nat) (b : BOp) (s : State) : Out := divOp s (.divi wide d a b) (intTy wide true) false d a b
/-- DIVN (R108). -/
def execDivn (wide : Bool) (d a : Nat) (b : BOp) (s : State) : Out := divOp s (.divn wide d a b) (intTy wide false) false d a b
/-- REMI (R108). -/
def execRemi (wide : Bool) (d a : Nat) (b : BOp) (s : State) : Out := divOp s (.remi wide d a b) (intTy wide true) true d a b
/-- REMN (R108). -/
def execRemn (wide : Bool) (d a : Nat) (b : BOp) (s : State) : Out := divOp s (.remn wide d a b) (intTy wide false) true d a b

/-- MIN (R109). -/
def execMin (t : IntTy) (d a : Nat) (b : BOp) (s : State) : Out :=
  intOp s (.min t d a b) t d a b 1 fun x y => if x ≤ y then x else y
/-- MAX (R109). -/
def execMax (t : IntTy) (d a : Nat) (b : BOp) (s : State) : Out :=
  intOp s (.max t d a b) t d a b 1 fun x y => if x ≤ y then y else x

/-- An integer operation of one operand (R110). -/
def unOp (s : State) (i : Instr) (wide : Bool) (d a : Nat) (f : Nat → DWord) : Out :=
  laneOp s i d 1 false fun p L => { vals := resWords wide (f (p.opA wide a L)), cls := 0 }

/-- ABS: the most negative value gives itself (R110). -/
def execAbs (wide : Bool) (d a : Nat) (s : State) : Out :=
  unOp s (.abs wide d a) wide d a fun x => wrap64 ((ival (intTy wide true) x).natAbs)
/-- NEG (R110). -/
def execNeg (wide : Bool) (d a : Nat) (s : State) : Out :=
  unOp s (.neg wide d a) wide d a fun x => wrap64 (-(ival (intTy wide true) x))
/-- NOT (R110). -/
def execNot (wide : Bool) (d a : Nat) (s : State) : Out :=
  unOp s (.not wide d a) wide d a fun x => ~~~(BitVec.ofNat 64 x)

/-- The number of leading zero bits of a number of w bits (R110). -/
def clzNat (w x : Nat) : Nat := ((List.range w).takeWhile fun i => !(x.testBit (w - 1 - i))).length
/-- The number of one bits among the low w (R110). -/
def popcNat (w x : Nat) : Nat := (bitsOf x w).length
/-- Bit j moves to bit w - 1 - j (R110). -/
def brevNat (w x : Nat) : Nat := (bitsOf x w).foldl (fun m j => m + 2 ^ (w - 1 - j)) 0

/-- CLZ (R110). -/
def execClz (wide : Bool) (d a : Nat) (s : State) : Out :=
  unOp s (.clz wide d a) wide d a fun x => BitVec.ofNat 64 (clzNat (if wide then 64 else 32) x)
/-- POPC (R110). -/
def execPopc (wide : Bool) (d a : Nat) (s : State) : Out :=
  unOp s (.popc wide d a) wide d a fun x => BitVec.ofNat 64 (popcNat (if wide then 64 else 32) x)
/-- BREV (R110). -/
def execBrev (wide : Bool) (d a : Nat) (s : State) : Out :=
  unOp s (.brev wide d a) wide d a fun x => BitVec.ofNat 64 (brevNat (if wide then 64 else 32) x)

end Sys2Proof.Machine
end

