-- ==== Sys2Proof/Machine/Translate.lean ====
section
/-! DEFINITION. Region rights, page tables, translation at the harbour units and physical memory (R257 to
R269, R285, R286, R331, R335). -/

namespace Sys2Proof.Machine

/-! ### The region map -/

/-- An entry of a region map holds an address (R259). -/
def regionHolds (e : BitVec 64) (va : Nat) : Bool :=
  let n := e.toNat
  let size := fld n 9 5 + 16
  n % 2 = 1 && va / 2 ^ size == fld n 47 16 * 2 ^ 16 / 2 ^ size

/-- The rights of a byte, as bits R 1, W 2, X 4: the OR over the valid entries that hold it (R259). -/
def Ctx.rights (x : Ctx) (va : Nat) : Nat :=
  x.regions.foldl (fun a e => if regionHolds e.2 va then a ||| fld e.2.toNat 3 1 else a) 0

/-- The trap area of a context (R307). -/
def trapArea : Nat := 0xFFFF00000000
/-- An address in the trap area's 384 MiB (R307). -/
def inTrapArea (va : Nat) : Bool := trapArea ≤ va && va < trapArea + 192 * 0x200000
/-- The private window (R257). -/
def inPrivWindow (va : Nat) : Bool := 0xF00000000000 ≤ va

/-- The 64 KiB granules that a byte range touches: a region's bounds are multiples of 64 KiB (R258), so rights are
constant in each. -/
def granules (va len : Nat) : List Nat :=
  if len = 0 then [] else (List.range ((va + len - 1) / 2 ^ 16 - va / 2 ^ 16 + 1)).map fun i => (va / 2 ^ 16 + i) * 2 ^ 16

/-- Every byte of a range has the needed rights (R193 check 3). An address at or above 2^48 or in the private window
lies in no region (R257), but a handler pack has R and W in its trap area (R307). -/
def Ctx.allowed (x : Ctx) (handler : Bool) (need va len : Nat) : Bool :=
  (granules va len).all fun g =>
    if inPrivWindow g then handler && inTrapArea g && need &&& 4 = 0
    else (x.rights g) &&& need == need

/-! ### Physical addresses -/

/-- A physical address in device HBM (R261). -/
def paHbm (pa : Nat) : Bool := pa < 2 ^ 39
/-- The host port of a physical address in a host window (R261). -/
def paHost (pa : Nat) : Option Nat := if pa / 2 ^ 50 = 2 then some 0 else if pa / 2 ^ 50 = 3 then some 1 else none

/-- The size of the host window of a port (R284). -/
def State.winSize (s : State) (port : Nat) : Nat := match s.part.dom[port]? with | some d => d.size | none => 0

/-- The host bus address of an offset in the host window of a port (R286): the window base and the offset. -/
def State.hostBus (s : State) (port off : Nat) : Nat := (match s.part.dom[port]? with | some d => d.base | none => 0) + off

/-- The bytes of a physical address (R261, R286): host memory is held by host bus address. -/
def State.physRead (s : State) (pa n : Nat) : List Byte :=
  match paHost pa with
  | some 0 => Sparse.getRun s.mem.host0 (s.hostBus 0 (pa % 2 ^ 50)) n
  | some _ => Sparse.getRun s.mem.host1 (s.hostBus 1 (pa % 2 ^ 50)) n
  | none => Sparse.getRun s.mem.hbm pa n

/-- Bytes written at a physical address. -/
def State.physWrite (s : State) (pa : Nat) (bs : List Byte) : State :=
  match paHost pa with
  | some 0 => { s with mem := { s.mem with host0 := Sparse.setRun (s.hostBus 0 (pa % 2 ^ 50)) bs s.mem.host0 } }
  | some _ => { s with mem := { s.mem with host1 := Sparse.setRun (s.hostBus 1 (pa % 2 ^ 50)) bs s.mem.host1 } }
  | none => { s with mem := { s.mem with hbm := Sparse.setRun pa bs s.mem.hbm } }

/-- The memories stand in their one canonical form: HBM, the memory behind each host port, and the owner table. -/
def Memory.wf (m : Mem) : Bool := Sparse.wf m.hbm && Sparse.wf m.host0 && Sparse.wf m.host1 && Sparse.wf m.owner

/-- Bytes of the memory behind a host port, by window offset (R286). -/
def State.hostRead (s : State) (port off n : Nat) : List Byte :=
  Sparse.getRun (if port % 2 = 0 then s.mem.host0 else s.mem.host1) (s.hostBus (port % 2) off) n
/-- Bytes written to the memory behind a host port, by window offset (R286). -/
def State.hostWrite (s : State) (port off : Nat) (bs : List Byte) : State :=
  if port % 2 = 0 then { s with mem := { s.mem with host0 := Sparse.setRun (s.hostBus 0 off) bs s.mem.host0 } }
  else { s with mem := { s.mem with host1 := Sparse.setRun (s.hostBus 1 off) bs s.mem.host1 } }
/-- A range lies within the host window of a port (R284, R286). -/
def State.inWindow (s : State) (port off len : Nat) : Bool := off + len ≤ s.winSize port && off + len ≤ 2 ^ 50

/-- A table entry of 8 bytes (R262). -/
def State.entry64 (s : State) (pa : Nat) : Nat := leNat (Sparse.getRun s.mem.hbm pa 8)
/-- A table entry written. -/
def State.setEntry64 (s : State) (pa v : Nat) : State :=
  { s with mem := { s.mem with hbm := Sparse.setRun pa (leBytes 8 v) s.mem.hbm } }

/-! ### The walk -/

/-- What a walk finds (R262 to R266, R331): the leaf's place, its value and whether it maps 2 MiB; nothing mapped, with
the leaf's place where the path reaches one; an evicted page; a dropped recipe tile; a table that is malformed. -/
inductive Walk where
  | leaf (at_ val : Nat) (big : Bool)
  | none (at_ : Option Nat)
  | evicted (at_ val : Nat) (big : Bool)
  | recipe (at_ rix : Nat)
  | format
deriving DecidableEq, Repr

/-- A leaf in form: reserved bits zero, LEAF 1, PFN aligned and in HBM or a host window (R261, R264, R266). -/
def leafOk (v : Nat) (big : Bool) : Bool :=
  let pa := fld v 51 16 * 2 ^ 16
  fld v 63 52 == 0 && fld v 15 9 == 0 && fld v 2 2 == 0 && fld v 1 1 == 1 &&
    (!big || fld v 20 16 == 0) && (paHbm pa || (paHost pa).isSome)

/-- A pointer in form (R263, R266): its next table lies in HBM and is aligned for its level. -/
def ptrOk (v level : Nat) : Bool :=
  fld v 63 52 == 0 && fld v 7 2 == 0 && fld v 1 1 == 0 && paHbm (fld v 51 8 * 2 ^ 8) &&
    (level == 3 || fld v 11 8 == 0)

/-- The address of the next table of a pointer (R263). -/
def ptrNext (v : Nat) : Nat := fld v 51 8 * 2 ^ 8

/-- What a leaf's value says (R264, R266, R331). -/
def leafWalk (at_ v : Nat) (big : Bool) : Walk :=
  if v % 2 = 1 then if leafOk v big then .leaf at_ v big else .format
  else if fld v 8 8 = 1 then
    if fld v 51 50 = 1 then .recipe at_ (fld v 28 16) else .evicted at_ v big
  else .none (some at_)

/-- The walk of the tree below a root (R262). -/
def State.walk (s : State) (root va : Nat) : Walk :=
  let e1 := s.entry64 (root + fld va 47 39 * 8)
  if e1 % 2 = 0 then .none none
  else if !ptrOk e1 1 then .format
  else
    let e2 := s.entry64 (ptrNext e1 + fld va 38 30 * 8)
    if e2 % 2 = 0 then .none none
    else if !ptrOk e2 2 then .format
    else
      let a3 := ptrNext e2 + fld va 29 21 * 8
      let e3 := s.entry64 a3
      if e3 % 2 = 1 && fld e3 1 1 = 0 then
        if !ptrOk e3 3 then .format
        else leafWalk (ptrNext e3 + fld va 20 16 * 8) (s.entry64 (ptrNext e3 + fld va 20 16 * 8)) false
      else leafWalk a3 e3 true

/-- The physical address that a leaf gives (R262, R264). -/
def leafPa (v : Nat) (big : Bool) (va : Nat) : Nat :=
  if big then fld v 51 21 * 2 ^ 21 + va % 2 ^ 21 else fld v 51 16 * 2 ^ 16 + va % 2 ^ 16

/-- The kinds of access that a translation serves (R265, R266). -/
inductive XlUse where
  | read | write | atomic
deriving DecidableEq, Repr

/-- The outcome of a translation: a physical address with the leaf's place and size, a fault of a kind (R266), or a dropped
recipe tile of a context. -/
inductive Xl where
  | ok (pa : Nat) (at_ : Option (Nat × Bool))
  | fault (kind : Nat)
  | recipe (ctx rix : Nat)
deriving DecidableEq, Repr

/-- The regeneration frame that accesses of a live colour use for a tile (R335, R337). -/
def State.regenFrame (s : State) (asid va : Nat) (colour : Option Nat) : Option Nat :=
  match colour with
  | none => none
  | some c =>
    match s.retrOf c with
    | none => none
    | some (_, q) =>
      match q.stack with
      | [] => none
      | g :: _ =>
        match s.ctx g.ctx with
        | none => none
        | some x =>
          match x.recipes.find g.rix with
          | none => none
          | some t => if x.r.asid == asid && t.tile == va / 2 ^ 16 * 2 ^ 16 && t.st == .regen then some g.frame else none

/-- A translation at a harbour unit (R265, R266). -/
def State.translate (s : State) (asid va : Nat) (use : XlUse) (colour : Option Nat) : Xl :=
  match s.regenFrame asid va colour with
  | some f => .ok (f + va % 2 ^ 16) none
  | none =>
    match s.ctxOfAsid asid with
    | none => .fault 1
    | some (n, x) =>
      if va ≥ 2 ^ 48 then .fault 1
      else match s.walk x.root va with
        | .none _ => .fault 1
        | .evicted _ _ _ => .fault 2
        | .format => .fault 4
        | .recipe _ k =>
          if use = .write then .fault 3 else .recipe n k
        | .leaf at_ v big =>
          let pa := leafPa v big va
          if use != .read && fld v 3 3 = 0 then .fault 3
          else match paHost pa with
            | some h =>
              if use = .atomic then .fault 5
              else if s.winSize h ≤ pa % 2 ^ 50 then .fault 4 else .ok pa (some (at_, big))
            | none => .ok pa (some (at_, big))

/-- The translating unit of an address (R265). -/
def xlUnit (asid va : Nat) : Nat := crc32c (leBytes 2 asid ++ leBytes 4 (va / 2 ^ 21 % 2 ^ 27)) % 8

/-- An entry put in a translation cache, which holds 16,384 of its unit's; the oldest gives way (R265). -/
def addTc (e : TcEntry) (tc : List TcEntry) : List TcEntry :=
  if tc.contains e then tc
  else
    let same := tc.filter fun x => x.unit == e.unit
    (if same.length < 16384 then tc else match same with | [] => tc | o :: _ => tc.erase o) ++ [e]

/-- A translation done: A is set, and D for a store, and the leaf stands in its unit's cache (R265). -/
def State.touch (s : State) (asid va : Nat) (use : XlUse) (at_ : Option (Nat × Bool)) : State :=
  match at_ with
  | none => s
  | some (a, big) =>
    let page := if big then va / 2 ^ 21 * 32 else va / 2 ^ 16
    let e : TcEntry := { unit := xlUnit asid va, asid, page, big }
    let s1 := s.setEntry64 a (s.entry64 a ||| (if use = .read then 2 ^ 6 else 2 ^ 6 + 2 ^ 7))
    { s1 with mem := { s1.mem with tc := addTc e s1.mem.tc } }

/-- The home die of a line (R383). -/
def homeDie (asid line : Nat) : Nat := crc32c (leBytes 2 asid ++ leBytes 6 (line % 2 ^ 42)) % 4

/-- The code of a chunk of HBM (R284). -/
def State.chunk (s : State) (pa : Nat) : Nat := s.part.chunks.getD (pa / 2 ^ 30) 0

/-- The owner entry of a frame that the firmware keeps: GRANT and the reserved bits are 0, the rest the spec leaves open (R267, R364; log
5). -/
def fwFrame (f : Nat) : Nat :=
  Config.fwOwner f / 2 ^ 32 % 2 ^ 32 * 2 ^ 32 + Config.fwOwner f / 2 ^ 8 % 2 ^ 12 * 2 ^ 8 + Config.fwOwner f % 3

/-- The owner entry of the frame that holds a physical address (R267): a frame of a chunk coded 3 for which none is written is one that
the firmware keeps (R364). -/
def State.ownerOf (s : State) (pa : Nat) : Nat :=
  let v := (Sparse.get (pa / 2 ^ 16) s.mem.owner).toNat
  if v = 0 && s.chunk pa = 3 then fwFrame (pa / 2 ^ 16) else v

/-- An owner entry written. -/
def State.setOwner (s : State) (pa v : Nat) : State :=
  { s with mem := { s.mem with owner := Sparse.set (pa / 2 ^ 16) (BitVec.ofNat 64 v) s.mem.owner } }
/-- The fields of an owner entry (R267). -/
def ownState (v : Nat) : Nat := v % 4
/-- RCNT (R267). -/
def ownCount (v : Nat) : Nat := fld v 19 8
/-- GRANT (R267). -/
def ownGrant (v : Nat) : Nat := fld v 31 20
/-- WVA (R267). -/
def ownWva (v : Nat) : Nat := fld v 63 32
/-- An owner entry of fields (R267). -/
def mkOwner (wva grant count st : Nat) : Nat := wva % 2 ^ 32 * 2 ^ 32 + grant % 2 ^ 12 * 2 ^ 20 + count % 2 ^ 12 * 2 ^ 8 + st


end Sys2Proof.Machine
end

