-- ==== Sys2Proof/Machine/Home.lean ====
section
/-! DEFINITION. The home slices, the L1 caches and the forwarding of a core's own stores (R172, R174, R188,
R322, R335). -/

namespace Sys2Proof.Machine

/-- The mask of all 64 bytes of a line. -/
def fullMask : Nat := 2 ^ 64 - 1
/-- The mask of n bytes from an offset in a line. -/
def byteMask (off n : Nat) : Nat := (2 ^ n - 1) * 2 ^ off

/-- The regeneration mark under which an access finds its line: only accesses that carry the live colour use marked
lines of the tile (R335). -/
def State.lineColour (s : State) (asid va : Nat) (colour : Option Nat) : Option Nat :=
  if (s.regenFrame asid va colour).isSome then colour else none

/-- A line at its home slice. -/
def State.l2 (s : State) (asid line : Nat) (colour : Option Nat) : Option L2Line :=
  s.mem.l2.find? fun l => l.asid == asid && l.line == line && l.colour == colour

/-- A line at its home slice replaced or added. -/
def State.putL2 (s : State) (l : L2Line) : State :=
  { s with mem := { s.mem with l2 :=
      (s.mem.l2.filter fun x => !(x.asid == l.asid && x.line == l.line && x.colour == l.colour)) ++ [l] } }

/-- Bytes laid over a line's data where a mask has bits. -/
def overlay (base : Sparse 8) (data : Sparse 8) (mask : Nat) : Sparse 8 :=
  (bitsOf mask 64).foldl (fun m i => Sparse.set i (Sparse.get i data) m) base

/-- The size in bytes of an integer type. -/
def tyBytes (t : IntTy) : Nat := if t.wide then 8 else 4

/-- The new value of an integer atomic (R205). -/
def atomInt (op : AtomOp) (t : IntTy) (old arg cmp : Nat) : Nat :=
  match op with
  | .add => (old + arg) % 2 ^ tyWidth t
  | .min => if ival t old ≤ ival t arg then old else arg
  | .max => if ival t old ≤ ival t arg then arg else old
  | .and => old &&& arg
  | .or => old ||| arg
  | .xor => old ^^^ arg
  | .swap => arg
  | .cas => if old = cmp then arg else old

/-- A line of which a home slice holds nothing yet. -/
def L2Line.new (asid line : Nat) (colour : Option Nat) : L2Line where
  asid := asid
  line := line
  data := []
  valid := 0
  dirty := 0
  held := false
  probes := 0
  poison := false
  colour := colour

/-- The bytes of a line after an operation on it. -/
def LineOp.apply (d : Sparse 8) : LineOp → Sparse 8
  | .write x m => overlay d x m
  | .red op t off arg =>
    Sparse.setRun off (leBytes (tyBytes t) (atomInt op t (leNat (Sparse.getRun d off (tyBytes t))) arg 0)) d
/-- The bytes that an operation writes. -/
def LineOp.mask : LineOp → Nat
  | .write _ m => m
  | .red _ t off _ => byteMask off (tyBytes t)

/-- The bytes of a line over those of memory, with every operation that waits for them (R174, R188). -/
def L2Line.over (l : L2Line) (mem : Sparse 8) : Sparse 8 :=
  match l.ops with
  | [] => overlay mem l.data l.valid
  | ops => ops.foldl LineOp.apply mem
/-- A line made whole from the bytes of memory and their poison mark. -/
def L2Line.whole (l : L2Line) (mem : Sparse 8) (bad : Bool) : L2Line :=
  { l with data := l.over mem, valid := fullMask, dirty := l.ops.foldl (fun a o => a ||| o.mask) l.dirty, poison := l.poison || bad, ops := [] }
/-- A line whose bytes are written (R172): one write of all 64 clears its poison (R322), and nothing of what came before is left. -/
def L2Line.write (l : L2Line) (data : Sparse 8) (mask : Nat) : L2Line :=
  { l with data := overlay l.data data mask, valid := l.valid ||| mask, dirty := l.dirty ||| mask, poison := l.poison && mask != fullMask
           ops := if mask = fullMask || l.ops.isEmpty then [] else l.ops ++ [.write data mask] }
/-- A line that a RED reaches whose bytes are absent (R188): it takes its place among the writes of the line, and acts as they are read. -/
def L2Line.await (l : L2Line) (op : AtomOp) (t : IntTy) (off arg : Nat) : L2Line :=
  let keep := fullMask ^^^ byteMask off (tyBytes t)
  { l with ops := (if l.ops.isEmpty then [.write l.data l.valid] else l.ops) ++ [.red op t off arg]
           valid := l.valid &&& keep, dirty := l.dirty &&& keep }

/-- What a read at a home slice finds: bytes with the poison of their line, a fault of a kind, or a dropped recipe tile. -/
inductive HRes where
  | data (bs : List Byte) (poison : Bool)
  | fault (kind : Nat)
  | recipe (ctx rix : Nat)
deriving DecidableEq, Repr

/-- The physical address of a line for its write-back, with the leaf that gives it: through its regeneration mapping or its leaf, whatever
the leaf's W; none where there is no usable leaf (R265, R335). -/
def State.lineHome (s : State) (l : L2Line) : Option (Nat × Option (Nat × Bool)) :=
  match s.ctxOfAsid l.asid with
  | none => none
  | some (_, x) =>
    match s.regenFrame l.asid (l.line * 64) l.colour with
    | some f => some (f + l.line * 64 % 2 ^ 16, none)
    | none => match s.walk x.root (l.line * 64) with
      | .leaf at_ v big => some (leafPa v big (l.line * 64), some (at_, big))
      | _ => none

/-- A line has something that memory has not: dirty bytes, a poison mark, or a RED that waits for its bytes. -/
def L2Line.unsaved (l : L2Line) : Bool := l.dirty != 0 || l.poison || !l.ops.isEmpty

/-- A line whose REDs act on the bytes of memory at a physical address (R188); one on which none waits is left as it is. -/
def State.settleLine (s : State) (l : L2Line) (pa : Nat) : L2Line :=
  if l.ops.isEmpty then l else l.whole (Sparse.setRun 0 (s.physRead pa 64) []) (s.mem.bad.contains (pa / 64))

/-- Bytes that carry a poison mark leave for host memory: their TLP is sent with EP set (R326). -/
def State.sendEp (s : State) (pa n : Nat) : State :=
  if (paHost pa).isSome then { s with io := { s.io with ep := s.io.ep ++ [(pa, n)] } } else s

/-- The dirty bytes of a line written to HBM through its leaf, and its poison mark kept there (R322); a line of host
memory goes to its host. The harbour unit translates the write-back, as the use given (R265). A line with no usable leaf stays as it is. -/
def State.writeBack (s : State) (l0 : L2Line) (use : XlUse := .read) : State :=
  match s.lineHome l0 with
  | none => s
  | some (pa, at_) =>
    let l := s.settleLine l0 pa
    let s := if l.poison then s.sendEp pa 64 else s
    let s1 := (bitsOf l.dirty 64).foldl (fun t i => t.physWrite (pa + i) [Sparse.get i l.data]) s
    let bad := if l.poison then addNew (pa / 64) s1.mem.bad
      else if l.valid = fullMask then s1.mem.bad.filter (· != pa / 64) else s1.mem.bad
    (({ s1 with mem := { s1.mem with bad := if paHbm pa then bad else s1.mem.bad } }).putL2 { l with dirty := 0 }).touch l.asid
      (l.line * 64) use at_

/-- The lines an L2 of 64 MiB holds (R24). -/
def l2Lines : Nat := 2 ^ 20

/-- A line given up: written back where it is dirty or poisoned, and dropped if nothing of it is left to write (R188, R265). -/
def State.giveUp (s : State) (l : L2Line) : State :=
  let s1 := if l.unsaved then s.writeBack l else s
  match s1.l2 l.asid l.line l.colour with
  | some l1 =>
    if l1.dirty = 0 && l1.ops.isEmpty then
      { s1 with mem := { s1.mem with l2 := s1.mem.l2.filter fun x => !(x.asid == l.asid && x.line == l.line && x.colour == l.colour) } }
    else s
  | none => s1

/-- Room for one more line on a die whose L2 is full (R24): the line it has held longest that is neither held nor probed, and that has a
usable leaf, is given up (R188). Which line goes is DESIGN CHOICE (log 57). -/
def State.roomL2 (s : State) (asid line : Nat) : State :=
  let die := homeDie asid line
  let mine := s.mem.l2.filter fun l => homeDie l.asid l.line == die
  if mine.length < l2Lines then s
  else match mine.find? fun l => !l.held && l.probes == 0 && (!l.unsaved || (s.lineHome l).isSome) with
    | some l => s.giveUp l
    | none => s

/-- A line of the home slice made whole from HBM through a translation (R265). Lines of host memory are read through
and not kept (log 14). -/
def State.fill (s : State) (asid va : Nat) (colour : Option Nat) (use : XlUse) : State × HRes :=
  let line := va / 64
  let key := s.lineColour asid va colour
  match s.translate asid (line * 64) use colour with
  | .fault k => (s, .fault k)
  | .recipe n k => (s, .recipe n k)
  | .ok pa at_ =>
    let s1 := s.touch asid va use at_
    let mem : Sparse 8 := Sparse.setRun 0 (s.physRead pa 64) []
    match s.l2 asid line key with
    | some l =>
      if (paHost pa).isSome then (s1, .data (Sparse.getRun (l.over mem) 0 64) l.poison)
      else
        let l1 := l.whole mem (s.mem.bad.contains (pa / 64))
        (s1.putL2 l1, .data (Sparse.getRun l1.data 0 64) l1.poison)
    | none =>
      if (paHost pa).isSome then (s1, .data (Sparse.getRun mem 0 64) false)
      else
        let bad := s.mem.bad.contains (pa / 64)
        ((s1.roomL2 asid line).putL2 ((L2Line.new asid line key).whole mem bad), .data (Sparse.getRun mem 0 64) bad)

/-- The bytes of a read within one line, at the home slice: from the line where it holds them, else after a fill
(R174). -/
def State.homeRead (s : State) (asid va n : Nat) (colour : Option Nat) (use : XlUse) : State × HRes :=
  let off := va % 64
  let part (bs : List Byte) := (bs.drop off).take n
  let whole (q : State × HRes) : State × HRes :=
    match q with | (s1, .data bs p) => (s1, .data (part bs) p) | (s1, h) => (s1, h)
  match s.l2 asid (va / 64) (s.lineColour asid va colour) with
  | some l =>
    if l.valid &&& byteMask off n = byteMask off n then (s, .data (Sparse.getRun l.data off n) l.poison)
    else whole (s.fill asid va colour use)
  | none => whole (s.fill asid va colour use)

/-- A line of the home slice changed, or added where it is absent. -/
def State.modL2 (s : State) (asid line : Nat) (colour : Option Nat) (f : L2Line → L2Line) : State :=
  let key := s.lineColour asid (line * 64) colour
  match s.l2 asid line key with
  | some l => s.putL2 (f l)
  | none => (s.roomL2 asid line).putL2 (f (L2Line.new asid line key))

/-- Bytes that reach a line of the home slice (R172, R174). -/
def State.homeWrite (s : State) (asid line : Nat) (data : Sparse 8) (mask : Nat) (colour : Option Nat) : State :=
  s.modL2 asid line colour fun l => l.write data mask

/-- One write of all 64 bytes of a line clears its poison (R322). -/
def State.clearPoison (s : State) (asid line : Nat) (colour : Option Nat) : State :=
  match s.l2 asid line (s.lineColour asid (line * 64) colour) with
  | some l => s.putL2 { l with poison := false }
  | none => s

/-- A list of bytes as line data from an offset. -/
def lineData (off : Nat) (bs : List Byte) : Sparse 8 := Sparse.setRun off bs []

/-- Every L1 copy of lines that a test selects dropped, on every core. -/
def State.dropL1 (s : State) (f : L1Line → Bool) : State :=
  { s with cores := s.cores.map fun e => (e.1, { e.2 with l1 := e.2.l1.filter fun l => !f l }) }

/-- The lines of an ASID in a byte range. -/
def inRange (asid va len : Nat) (a line : Nat) : Bool := a == asid && va / 64 ≤ line && line * 64 < va + len

/-- A translation succeeds. -/
def State.admits (s : State) (asid line : Nat) (use : XlUse) : Bool :=
  match s.translate asid (line * 64) use none with | .ok _ _ => true | _ => false

/-- The old translation admits the writes to a line whose probes are unanswered (R270 step 2). -/
def State.writable (s : State) (asid line : Nat) : Bool :=
  s.admits asid line .write && (s.admits asid line .atomic || !(s.cores.any fun e => e.2.flights.any fun f =>
    f.st == .arrived && f.asid == asid && f.line == line && f.slot.isSome))

/-- Step 2 of an unmap (R270): every dirty line of the range is written back, and every copy in L2 and L1 is
invalidated; the probes of bytes written back have clean answers. A line that is held, or whose probe the old translation
answers with a fault (R188), is left. Poison marks go with the lines. -/
def State.flushRange (s : State) (asid va len : Nat) : State :=
  let hit (l : L2Line) : Bool := inRange asid va len l.asid l.line && !l.held && l.colour.isNone && (l.probes == 0 || s.writable asid l.line)
  let s1 := (s.mem.l2.filter fun l => hit l && l.unsaved).foldl
    (fun (t : State) l => t.writeBack l (if l.probes = 0 then .read else .write)) s
  let s2 : State := { s1 with mem := { s1.mem with l2 := s1.mem.l2.filter fun l => !hit l } }
  let s3 := s2.dropL1 fun l => inRange asid va len l.asid l.line && l.colour.isNone
  let left (f : Flight) : Bool := s.mem.l2.any fun l => l.asid == f.asid && l.line == f.line && l.colour.isNone && !hit l
  let clean (f : Flight) : Flight :=
    if f.st == .arrived && inRange asid va len f.asid f.line && f.colour.isNone && s.writable asid f.line && !left f
    then { f with st := .clean } else f
  { s3 with cores := s3.cores.map fun (e : Nat × Core) => (e.1, { e.2 with flights := e.2.flights.map clean }) }

/-- A store or RED that another access of a lane sees before the home slice does (R174 step 4, R180): performed at
.core or held in its own pack, and not yet at the home slice. -/
def Wake.forwards (w : Wake) (asid core serial lane uid : Nat) : Bool :=
  w.asid == asid && w.red.isNone && !w.applied &&
  match w.st with
  | .pending => bearingSerial w.bearing != serial || bearingLane w.bearing != lane || w.uid < uid
  | .held => bearingSerial w.bearing == serial && bearingCore w.bearing == core && w.uid < uid
  | _ => false

/-- The latest store of a list (R174 step 4): a held one of the own pack comes after every store that is performed, since it is
performed later; held ones in issue order, performed ones in the order in which they were performed. -/
def latestStore (ws : Tbl Wake) : Option Wake :=
  match (sortBy (fun e => e.2.uid) (ws.filter fun e => e.2.st == .held)).getLast? with
  | some e => some e.2
  | none => (sortBy (fun e => e.2.perf) ws).getLast?.map Prod.snd

/-- A store covers a byte. -/
def Wake.covers (w : Wake) (asid va : Nat) (colour : Option Nat) : Bool :=
  w.asid == asid && w.red.isNone && w.va ≤ va && va < w.va + w.size && w.colour == colour

/-- The place, among the stores of its core, of the first store to a byte that a lane has performed after its load, and that has not reached the
home slice: the load comes before it, and takes no value of it or of a later one (R169, R172). -/
def Core.ownLater (c : Core) (asid serial lane uid va : Nat) (colour : Option Nat) : Option Nat :=
  (sortBy id ((c.wake.filter fun e => e.2.covers asid va colour && !e.2.applied && e.2.st == .pending &&
    bearingSerial e.2.bearing == serial && bearingLane e.2.bearing == lane && uid < e.2.uid).map fun e => e.2.perf)).head?

/-- The byte that forwarding gives: of the latest such store (R174 step 4) that is not after a later store of the load's own lane. -/
def Core.forward (c : Core) (asid core serial lane uid va : Nat) (colour : Option Nat) : Option Byte :=
  let before (w : Wake) : Bool :=
    w.st == .held || match c.ownLater asid serial lane uid va colour with | some n => w.perf < n | none => true
  (latestStore (c.wake.filter fun e => e.2.forwards asid core serial lane uid && e.2.covers asid va colour && before e.2)).map
    fun w => BitVec.ofNat 8 (w.data / 2 ^ (8 * (va - w.va)))

/-- A copy of a line in an L1 (R174, R335). -/
def Core.l1line (c : Core) (asid line : Nat) (colour : Option Nat) : Option L1Line :=
  c.l1.find? fun l => l.asid == asid && l.line == line && l.colour == colour

/-- The bytes of a store put into the L1 copy of its line, where there is one (R174 step 3). -/
def Core.storeL1 (c : Core) (asid va size data : Nat) (colour : Option Nat) : Core :=
  { c with l1 := c.l1.map fun l =>
      if l.asid == asid && l.line == va / 64 && l.colour == colour
      then { l with data := Sparse.setRun (va % 64) (leBytes size data) l.data } else l }

/-- The lines an L1 of 512 KiB holds (R23). -/
def l1Lines : Nat := 8192

/-- A line placed in an L1, with the core's own stores that have not reached the home slice (R172, R174). A full L1 gives up the line it
has held longest: which one is DESIGN CHOICE (log 57). -/
def Core.placeL1 (c : Core) (core asid line : Nat) (data : List Byte) (poison : Bool) (colour : Option Nat) (uid : Nat) : Core :=
  let base := lineData 0 data
  let ws := sortBy (fun e => e.2.perf) (c.wake.filter fun e => e.2.forwards asid core (2 ^ 24) 0 uid && e.2.va / 64 == line &&
    e.2.colour == colour && e.2.st == .pending)
  let d := ws.foldl (fun m e => Sparse.setRun (e.2.va % 64) (leBytes e.2.size e.2.data) m) base
  let ls := c.l1.filter fun l => !(l.asid == asid && l.line == line && l.colour == colour)
  { c with l1 := ls.drop (ls.length + 1 - l1Lines) ++ [{ asid, line, data := d, poison, colour }] }

/-- The bytes that forwarding lays over those read for a lane (R174 step 4). -/
def Core.withForward (c : Core) (asid core serial lane uid va : Nat) (colour : Option Nat) (bs : List Byte) : List Byte :=
  (List.range bs.length).map fun i => (c.forward asid core serial lane uid (va + i) colour).getD (bs.getD i 0)

/-- Forwarding gives every byte of a lane's load, so that it reads neither the L1 copy nor the home slice (R174 step 4): no poison of
the line, and no fault of its fill, meets it (R195, R323; DEDUCED, log 36). -/
def Core.allForwarded (c : Core) (asid core serial lane uid va n : Nat) (colour : Option Nat) : Bool :=
  (List.range n).all fun i => (c.forward asid core serial lane uid (va + i) colour).isSome

end Sys2Proof.Machine
end

