-- ==== Sys2Proof/Machine/LoadStore.lean ====
section
/-! DEFINITION. Loads and stores to the global, frame, private and constant storages, the request collector at
issue, and prefetch (R190 to R204, R213, R214). -/

namespace Sys2Proof.Machine

/-! ### Checks and resources at issue -/

/-- Packs that draw on the reserves: handler and recovery packs (R17, R199). -/
def PackId.reserved (q : PackId) : Bool := q.handler || q.colour.isSome || q.restored

/-- The rights of a range for a pack: of its context's regions (R193 check 3); a recompute pack writes only the tile
being regenerated (R335). Rights bits are R 1, W 2. -/
def State.permits (s : State) (p : Pack) (need va len : Nat) : Bool :=
  match s.ctx p.id.ctx with
  | none => false
  | some x =>
    (va + len ≤ 2 ^ 64) && x.allowed p.id.handler need va len &&
    match p.id.colour with
    | none => true
    | some _ => need &&& 2 = 0 || (granules va len).all fun g => (s.regenFrame x.r.asid g p.id.colour).isSome

/-- The cause that a global access of a lane fails with (R193): misalignment, then permission. -/
def State.globalCause (s : State) (p : Pack) (need va size : Nat) : Option Nat :=
  if va % size != 0 then some 4 else if s.permits p need va size then none else some 8

/-- The cause that a frame or private access fails with (R193): misalignment, then the bound of the block's words. -/
def viewCause (cause words : Nat) (ea : Int) (size : Nat) : Option Nat :=
  if ea % size != 0 then some 4
  else if 0 ≤ ea && (ea / 128) < words then none else some cause

/-- Report lanes of the lanes that fail, with their addresses. -/
def failing (accs : List (Nat × Nat)) (cause : Nat → Nat → Option Nat) : List RepLane :=
  accs.filterMap fun e => (cause e.1 e.2).map fun c => { lane := e.1, cause := c, detail := 0, addr := e.2 }

/-- The lanes that pass. -/
def passing (accs : List (Nat × Nat)) (cause : Nat → Nat → Option Nat) : List (Nat × Nat) :=
  accs.filter fun e => (cause e.1 e.2).isNone

/-- Free places beyond the reserve: an ordinary pack leaves 32 (R199, R201). -/
def roomFor (q : PackId) (cap used need kept : Nat) : Bool := used + need + (if q.reserved then 0 else kept) ≤ cap

/-- The numbers of a list without repeats, in order of first occurrence. -/
def distinct (l : List Nat) : List Nat := l.foldl (fun a x => addNew x a) []

/-- The occupancy of a request to the collector (R196). -/
def occLines (q : Nat) : Nat := max 1 ((q + 7) / 8)

/-! ### Waiting lanes -/

/-- A lane that waits for a collector slot, with what orders it. -/
structure Waiter where
  key    : Nat
  serial : Nat
  colour : Option Nat
  uid    : Nat
  size   : Nat
  lane   : Nat
  addr   : Nat
deriving DecidableEq, Repr

/-- The lanes of a core's packs that wait for a slot. -/
def Core.waiters (c : Core) (n : Nat) : List Waiter :=
  c.packs.flatMap fun e => e.2.c.deferred.flatMap fun d => (d.lanes.filter fun l => l.res == .wait n).map fun l =>
    { key := e.1, serial := e.2.id.serial, colour := e.2.id.colour, uid := d.uid, size := d.size, lane := l.lane, addr := l.addr }

/-- The lanes of a core's packs that wait for any slot. -/
def Core.allWaiters (c : Core) : List Waiter := c.slots.flatMap fun e => c.waiters e.1

/-- The lanes of a slot resolved, each by its waiter's result. -/
def Core.resolve (c : Core) (n : Nat) (f : Waiter → LaneRes) : Core :=
  let lane (key : Nat) (q : Pack) (d : Deferred) (l : DefLane) : DefLane :=
    if l.res == .wait n then
      { l with res := f { key, serial := q.id.serial, colour := q.id.colour, uid := d.uid, size := d.size, lane := l.lane, addr := l.addr } }
    else l
  let dfr (key : Nat) (q : Pack) (d : Deferred) : Deferred := { d with lanes := d.lanes.map (lane key q d) }
  let pk (key : Nat) (q : Pack) : Pack := { q with c := { q.c with deferred := q.c.deferred.map (dfr key q) } }
  { c with packs := c.packs.map fun e => (e.1, pk e.1 e.2) }

/-- Two accesses touch one line. -/
def sameLine (a b : Nat) : Bool := a / 64 == b / 64

/-- An earlier atomic or RED of the same lane to the line has not executed: the access waits (R169). Those sent before `since` are left
out. -/
def Core.atomBefore (c : Core) (serial lane uid va : Nat) (since : Nat := 0) : Bool :=
  c.slots.any (fun e => match e.2.kind with
    | .atom a => a.serial == serial && a.lane == lane && a.uid < uid && sameLine a.addr va && since ≤ a.perf
    | _ => false) ||
  c.wake.any fun e => e.2.red.isSome && !e.2.applied && bearingSerial e.2.bearing == serial &&
    bearingLane e.2.bearing == lane && e.2.uid < uid && sameLine e.2.va va && (e.2.st == .held || since ≤ e.2.perf)

/-- An earlier load of the same lane to the line has not bound: the write waits (R169). -/
def Core.loadBefore (c : Core) (serial lane uid va : Nat) : Bool :=
  c.allWaiters.any fun w => w.serial == serial && w.lane == lane && w.uid < uid && sameLine w.addr va

/-- A store that an atomic comes after has not reached the home slice (R169, R172): one of the same lane to overlapping bytes, or one of any
lane of the core that was performed at .core before the atomic was sent, since its lane may have read it by forwarding. -/
def Core.storeBefore (c : Core) (asid serial lane uid perf va size : Nat) : Bool :=
  c.wake.any fun e => !e.2.applied && e.2.asid == asid && e.2.va < va + size && va < e.2.va + e.2.size &&
    (((e.2.st == .pending || e.2.st == .held) && bearingSerial e.2.bearing == serial && bearingLane e.2.bearing == lane && e.2.uid < uid) ||
      (e.2.st == .pending && e.2.red.isNone && e.2.perf < perf))

/-- A core has sent an atomic or RED of a line that has not executed. -/
def Core.atomOn (c : Core) (asid line : Nat) : Bool :=
  c.slots.any fun e => (match e.2.kind with | .atom _ => true | _ => false) && e.2.asid == asid && e.2.line == line

/-- A RED of the core to bytes of an access was performed at .core before it issued, and has not executed: the load
waits for the value (R173, R200). Those sent before `since` are left out. -/
def Core.redBefore (c : Core) (asid uid va size : Nat) (since : Nat := 0) : Bool :=
  c.wake.any fun e => e.2.red.isSome && !e.2.applied && e.2.st == .pending && e.2.asid == asid && e.2.perf < uid && since ≤ e.2.perf &&
    e.2.va < va + size && va < e.2.va + e.2.size

/-- A lane's load must wait: an earlier load, atomic or RED of the lane to the line has not bound or executed (R169), or a RED of the
core stands before it (R200). -/
def Core.loadWaits (c : Core) (asid serial lane uid va size : Nat) : Bool :=
  c.loadBefore serial lane uid va || c.atomBefore serial lane uid va || c.redBefore asid uid va size

/-- The load slot that a request of a line joins (R197): open for less than 64 ck and not closed. `late` says whether a lane of the request
comes after an atomic or RED sent since some point: one that was sent after the slot opened may itself wait for a load of the slot, and its lane
does not join (R169; DEDUCED, log 15). A recompute pack joins no parked slot, since its access does not park (R335). -/
def State.joinLoad (s : State) (core asid line : Nat) (colour : Option Nat) (recompute : Bool) (late : Nat → Bool) : Option Nat :=
  ((s.core core).slots.find? fun e => e.2.kind == .load && e.2.asid == asid && e.2.line == line && e.2.colour == colour &&
    !e.2.closed && !(e.2.parked && recompute) && s.now < e.2.opened + 64 && !late e.2.uid).map Prod.fst

/-- The store slot of a line. -/
def Core.storeSlot (c : Core) (asid line : Nat) (colour : Option Nat) : Option (Nat × Slot) :=
  c.slots.find? fun e => e.2.kind == .store && e.2.asid == asid && e.2.line == line && e.2.colour == colour

/-- A new slot opened (R197); the lowest free number below 256. -/
def State.openSlot (s : State) (core : Nat) (sl : Slot) : State × Nat :=
  let n := ((s.core core).slots.free 256).getD 255
  (s.modCore core fun c => { c with slots := c.slots.put n sl }, n)

/-- A store slot closed: it sends its write (R197). One write of all 64 bytes clears the poison of the core's L1 copy too (R322). -/
def State.closeStore (s : State) (core n : Nat) (sl : Slot) : State :=
  let f : Flight := { asid := sl.asid, line := sl.line, data := sl.data, mask := sl.mask, entries := sl.entries,
                      colour := sl.colour, st := .sent }
  let clear (l : L1Line) : L1Line :=
    if sl.mask == fullMask && l.asid == sl.asid && l.line == sl.line && l.colour == sl.colour then { l with poison := false } else l
  s.modCore core fun k => { k with slots := k.slots.del n, flights := k.flights ++ [f], l1 := k.l1.map clear }

/-- A store slot takes no further request: its 64 ck are over, or all its bytes are written (R197). -/
def Slot.spent (sl : Slot) (now : Nat) : Bool := sl.opened + 64 ≤ now || sl.mask == fullMask

/-- A slot's first contents. -/
def State.newSlot (s : State) (kind : SlotKind) (asid line : Nat) (colour : Option Nat) : Slot :=
  { kind, asid, line, opened := s.now, closed := false, parked := false, data := [], mask := 0, entries := [], colour, uid := s.uid }

/-! ### Global loads -/

/-- A new load slot of a line; a load slot that the line has takes no request from then on, so that a lane's loads of one line
stand in slots in their order (R169). With `l2` its line goes into the home slice alone (R213). -/
def State.openLoad (s : State) (core asid line : Nat) (colour : Option Nat) (l2 : Bool) : State × Nat :=
  let shut (sl : Slot) : Slot :=
    if sl.kind = .load && sl.asid == asid && sl.line == line && sl.colour == colour then { sl with closed := true } else sl
  (s.modCore core fun c => { c with slots := c.slots.map fun e => (e.1, shut e.2) }).openSlot core
    { s.newSlot .load asid line colour with l2 }

/-- A request that is to give the L1 its line joins a slot (R197, R213). -/
def State.joinL1 (s : State) (core n : Nat) : State := s.modCore core fun c => { c with slots := c.slots.upd n fun x => { x with l2 := false } }

/-- The lanes of a load's line that bind at issue: those that meet an L1 copy and need not wait (R169, R174, R200). -/
def State.hits (s : State) (p : Pack) (uid size line : Nat) (accs : List (Nat × Nat)) : List (Nat × Nat) :=
  let c := s.core s.cur.core
  let asid := s.asid p.id.ctx
  match c.l1line asid line (s.lineColour asid (line * 64) p.id.colour) with
  | some _ => accs.filter fun e => !c.loadWaits asid p.id.serial e.1 uid e.2 size
  | none => []

/-- The bytes that a lane's load takes from an L1 copy and forwarding (R174 step 4), or the fault of a poisoned line (R195). -/
def Core.bindL1 (c : Core) (l : L1Line) (asid core serial lane uid va size : Nat) (key : Option Nat) : LaneRes :=
  if l.poison && !c.allForwarded asid core serial lane uid va size key then .fail 10 0
  else .bound (leNat (c.withForward asid core serial lane uid va key (Sparse.getRun l.data (va % 64) size)))

/-- The lanes of a load that miss, or have to wait, come after an atomic or RED sent since some point (R169, R200). -/
def State.lateSince (s : State) (p : Pack) (uid size : Nat) (accs : List (Nat × Nat)) (since : Nat) : Bool :=
  let c := s.core s.cur.core
  accs.any fun e => c.atomBefore p.id.serial e.1 uid e.2 since || c.redBefore (s.asid p.id.ctx) uid e.2 size since

/-- The request of one line for lanes of a load (R197): a hit binds them from the L1 copy and forwarding (R174); those that miss, or
have to wait, join a slot or open one. -/
def State.loadLine (s : State) (p : Pack) (uid size line : Nat) (accs : List (Nat × Nat)) : State × List DefLane :=
  let core := s.cur.core
  let c := s.core core
  let asid := s.asid p.id.ctx
  let key := s.lineColour asid (line * 64) p.id.colour
  let hit := s.hits p uid size line accs
  let late := accs.filter fun e => !hit.contains e
  let bound : List DefLane := match c.l1line asid line key with
    | some l => hit.map fun e => { lane := e.1, addr := e.2, res := c.bindL1 l asid core p.id.serial e.1 uid e.2 size key }
    | none => []
  if late.isEmpty then (s, bound)
  else
    let q := match s.joinLoad core asid line key p.id.colour.isSome (s.lateSince p uid size late) with
      | some n => (s.joinL1 core n, n)
      | none => s.openLoad core asid line key false
    (q.1, bound ++ late.map fun e => { lane := e.1, addr := e.2, res := .wait q.2 })

/-- New slots that a load's lines need (R199). -/
def State.loadNeeds (s : State) (p : Pack) (size : Nat) (accs : List (Nat × Nat)) : Nat :=
  let asid := s.asid p.id.ctx
  ((distinct (accs.map fun e => e.2 / 64)).filter fun l =>
    let mine := accs.filter fun e => e.2 / 64 == l
    let late := mine.filter fun e => !(s.hits p s.uid size l mine).contains e
    !late.isEmpty && (s.joinLoad s.cur.core asid l (s.lineColour asid (l * 64) p.id.colour) p.id.colour.isSome
      (s.lateSince p s.uid size late)).isNone).length

/-- A pack with one more deferred result outstanding (R20). -/
def Pack.defer (p : Pack) (d : Deferred) : Pack := { p with c := { p.c with deferred := p.c.deferred ++ [d] } }

/-- The training of a stream by the first LD after a PFX.ind (R214): the base and shift that fit every lane with both. -/
def streamFit (xs eas : List (Nat × Nat)) : Option (Nat × Nat) :=
  let both := xs.filterMap fun e => (eas.find? fun a => a.1 == e.1).map fun a => (e.2, a.2)
  if (distinct (both.map Prod.fst)).length < 2 then none
  else
    let base (h : Nat) (e : Nat × Nat) : Nat := (e.2 + 2 ^ 64 - e.1 * 2 ^ h % 2 ^ 64) % 2 ^ 64
    ((List.range 5).find? fun h => (distinct (both.map (base h))).length == 1).bind fun h =>
      both.head?.map fun e => (base h e, h)

/-- The stream entry after a training LD (R214). -/
def Stream.train (t : Stream) (fit : Option (Nat × Nat)) : Stream :=
  match fit with
  | none => { t with conf := t.conf - 1 }
  | some (b, h) => if t.base = b && t.shift = h && t.conf > 0 then { t with conf := Nat.min 3 (t.conf + 1) }
    else { t with base := b, shift := h, conf := 1 }

/-- The prefetcher seen by an LD of a pack, which is the first one after each PFX.ind that it has issued since its last LD (R214). Lanes of the
LD that fail R193 form no access, and take no part in the fit: DESIGN CHOICE (log 75). -/
def State.trainStream (s : State) (p : Pack) (eas : List (Nat × Nat)) : State × Pack :=
  match p.c.lastPfx with
  | [] => (s, p)
  | ps =>
    let asid := s.asid p.id.ctx
    let f (t : Stream) : Stream :=
      if t.asid == asid && t.slot == p.id.slot then
        match ps.find? fun e => e.1 == t.idx with
        | some e => t.train (streamFit e.2 eas)
        | none => t
      else t
    (s.modCore s.cur.core fun c => { c with streams := c.streams.map f }, { p with c := { p.c with lastPfx := [] } })

/-- The loads of passing lanes made, one request a line (R197): the deferred result is recorded, and lanes that fail
take their trap (R194). -/
def State.loadGlobal (s : State) (p : Pack) (len size : Nat) (sext uni : Bool) (d : Nat) (good : List (Nat × Nat))
    (bad : List RepLane) : State :=
  let lines := distinct (good.map fun e => e.2 / 64)
  let uid := s.uid
  let step (q : State × List DefLane) (l : Nat) : State × List DefLane :=
    let a := q.1.loadLine p uid size l (good.filter fun e => e.2 / 64 == l)
    (a.1, q.2 ++ a.2)
  let q := lines.foldl step (s.fresh 1, [])
  let w := s.wordsAt p p.idx
  let dfr : Deferred := { uid, kind := .load, idx := p.idx, w0 := w.1, w1 := w.2, uni, d, size, sext,
                          lanes := sortBy (fun l => l.lane) q.2, cls := [], trapen := p.r.trapen, ready := s.now }
  let p1 := if good.isEmpty then p else p.defer dfr
  let s1 := q.1.occupy s.cur (if uni then 1 else occLines lines.length)
  match bad with
  | [] => s1.setPack s.cur (p1.advance len)
  | ls => s1.trapIssue s.cur p1 len ls

/-- LD (R202). -/
def execLd (sz : Sz) (sext : Bool) (d base : Nat) (off : Int) (s : State) : Out :=
  issue s (.ld sz sext d base off) fun p =>
    let n := Sz.bytes sz
    let accs := p.lanes.map fun L => (L, p.eaGlobal base off sz L)
    let chk := fun _ va => s.globalCause p 1 va n
    let good := passing accs chk
    if !p.deferRoom then s.deferWait p
    else if !roomFor p.id 256 (s.core s.cur.core).slots.length (s.loadNeeds p n good) 32 then s
    else
      let t := s.trainStream p good
      t.1.loadGlobal t.2 1 n sext false d good (failing accs chk)

/-- LDS: one access for the pack, attributed to lane position 0 (R202). -/
def execLds (sz : Sz) (sext : Bool) (d base : Nat) (off : Int) (s : State) : Out :=
  issue s (.lds sz sext d base off) fun p =>
    let n := Sz.bytes sz
    let ea := p.eaUniform base off sz
    match s.globalCause p 1 ea n with
    | some c => (s.occupy s.cur 1).trapIssue s.cur p 1 (p.allLanes c 0 ea)
    | none =>
      if !p.deferRoom then s.deferWait p
      else if !roomFor p.id 256 (s.core s.cur.core).slots.length (s.loadNeeds p n [(0, ea)]) 32 then s
      else s.loadGlobal p 1 n sext true d [(0, ea)] []

/-! ### Global stores -/

/-- The release conditions that still hold a pack's later stores (R180). -/
def State.liveHolds (s : State) (p : Pack) : List Cond := p.c.holds.filter fun k => !s.met k

/-- A store performed at .core: it enters the L1 state and the request collector (R173, R197, R200). It joins the store slot of its
line; a slot that takes no further request is closed first, and so is one of a line of which an atomic has been sent, which may wait for a store
of the slot (R169; DEDUCED, log 15). -/
def State.performStore (s : State) (core entry : Nat) (w : Wake) : State :=
  let line := w.va / 64
  let key := s.lineColour w.asid w.va w.colour
  let w1 := { w with st := .pending, perf := s.uid }
  let s1 := (s.fresh 1).modCore core fun c =>
    { c.storeL1 w.asid w.va w.size w.data key with wake := c.wake.put entry w1 }
  let q := match (s1.core core).storeSlot w.asid line key with
    | some (n, sl) =>
      if sl.spent s.now || (s1.core core).atomOn w.asid line then (s1.closeStore core n sl).openSlot core (s1.newSlot .store w.asid line key) else (s1, n)
    | none => s1.openSlot core (s1.newSlot .store w.asid line key)
  q.1.modCore core fun c => { c with slots := c.slots.upd q.2 fun sl =>
    { sl with data := Sparse.setRun (w.va % 64) (leBytes w.size w.data) sl.data,
              mask := sl.mask ||| byteMask (w.va % 64) w.size, entries := sl.entries ++ [entry] } }

/-- A held store or RED of a pack that comes before another of it in the same line. -/
def Core.heldBefore (c : Core) (w : Wake) : Bool :=
  c.wake.any fun e => e.2.st == .held && e.2.uid < w.uid && bearingSerial e.2.bearing == bearingSerial w.bearing && sameLine e.2.va w.va

/-- One lane's store entered in the wake buffer (R200, R314): held behind the pack's release fences, or performed. While an earlier store
of the pack to the line is held, it is held behind that one (R169; DEDUCED, log 15). -/
def State.storeLane (s : State) (p : Pack) (size : Nat) (holds : List Cond) (e : Nat × Nat) (data : Nat) : State :=
  let core := s.cur.core
  let entry := ((s.core core).wake.free 512).getD 511
  let w : Wake := { uid := s.uid, ctx := p.id.ctx, asid := s.asid p.id.ctx, va := e.2, size, data, red := none,
                    tag := p.id.tags.getD e.1 0, slot := p.id.slot, bearing := p.bearing s.cur p.idx e.1, conds := holds,
                    st := .held, kind := 0, chrono := 0, colour := p.id.colour, applied := false, shared := false,
                    kept := p.id.reserved }
  let s1 := s.fresh 1
  if holds.isEmpty && !(s.core core).heldBefore w then s1.performStore core entry w
  else s1.modCore core fun c => { c with wake := c.wake.put entry w }

/-- New slots that a store's lines need (R199); none while the stores are held. -/
def State.storeNeeds (s : State) (p : Pack) (lines : List Nat) : Nat :=
  let asid := s.asid p.id.ctx
  if (s.liveHolds p).isEmpty then
    (lines.filter fun l => ((s.core s.cur.core).storeSlot asid l (s.lineColour asid (l * 64) p.id.colour)).isNone).length
  else 0

/-- ST (R202): lanes store in ascending position, so the highest wins a byte (R170). -/
def execSt (sz : Sz) (d base : Nat) (off : Int) (k : Nat) (s : State) : Out :=
  issue s (.st sz d base off k) fun p =>
    let n := Sz.bytes sz
    let accs := (p.lanesIn k).map fun L => (L, p.eaGlobal base off sz L)
    let chk := fun _ va => s.globalCause p 2 va n
    let good := passing accs chk
    let lines := distinct (good.map fun e => e.2 / 64)
    let c := s.core s.cur.core
    if !roomFor p.id 512 c.wake.length good.length 32 || !roomFor p.id 256 c.slots.length (s.storeNeeds p lines) 32 then s
    else
      let holds := s.liveHolds p
      let s1 := good.foldl (fun t e => t.storeLane p n holds e (p.storeData d sz e.1)) s
      let s2 := s1.occupy s.cur (occLines lines.length)
      let p1 := { p with c := { p.c with holds := holds } }
      match failing accs chk with
      | [] => s2.setPack s.cur (p1.advance 1)
      | ls => s2.trapIssue s.cur p1 1 ls

/-! ### Frame and private views -/

/-- A word of a view: zero at an inactive position (R26, R27). -/
def viewWord (n : Nat) (m : Sparse 32) (key : Nat) : Word := if key % 32 < n then Sparse.get key m else 0

/-- The bytes of a view at an address within one word. -/
def viewBytes (n : Nat) (m : Sparse 32) (ea size : Nat) : Nat :=
  (viewWord n m (ea / 4)).toNat / 2 ^ (8 * (ea % 4)) % 2 ^ (8 * size)

/-- A word with bytes put in it. -/
def putBytes (w : Word) (off size data : Nat) : Word :=
  let m := (2 ^ (8 * size) - 1) * 2 ^ (8 * off)
  BitVec.ofNat 32 ((w.toNat &&& (2 ^ 32 - 1 - m)) ||| (data % 2 ^ (8 * size) * 2 ^ (8 * off)))

/-- Bytes written in a view; an inactive position is not written (R26). -/
def viewStore (n : Nat) (m : Sparse 32) (ea size data : Nat) : Sparse 32 :=
  if ea / 4 % 32 < n then Sparse.set (ea / 4) (putBytes (Sparse.get (ea / 4) m) (ea % 4) size data) m else m

/-- The frame words and private words of a pack's block. -/
def State.privWords (s : State) (slot : Nat) : Nat := match s.block slot with | some b => b.priv | none => 0

/-- A report entry's address of a view access. -/
def viewAddr (ea : Int) : Nat := (BitVec.ofInt 64 ea).toNat

/-- The report lanes of view accesses that fail. -/
def viewFailing (accs : List (Nat × Int)) (cause words size : Nat) : List RepLane :=
  accs.filterMap fun e => (viewCause cause words e.2 size).map fun c =>
    { lane := e.1, cause := c, detail := 0, addr := viewAddr e.2 }

/-- The view accesses that pass, as byte addresses. -/
def viewPassing (accs : List (Nat × Int)) (cause words size : Nat) : List (Nat × Nat) :=
  (accs.filter fun e => (viewCause cause words e.2 size).isNone).map fun e => (e.1, e.2.toNat)

/-- The report lanes of reads of poisoned words, of active positions only (R204, R323). -/
def poisonLanes (n : Nat) (bad : List Nat) (accs : List (Nat × Nat)) : List RepLane :=
  (accs.filter fun e => e.2 / 4 % 32 < n && bad.contains (e.2 / 4)).map fun e =>
    { lane := e.1, cause := 11, detail := 0, addr := e.2 }

/-- The end of an instruction that completes at issue: it goes on, or takes the trap of its failing lanes. -/
def State.finishIssue (s : State) (p : Pack) (len occ : Nat) (bad : List RepLane) : State :=
  match sortBy (fun l => l.lane) bad with
  | [] => s.retire p len occ
  | ls => (s.occupy s.cur occ).trapIssue s.cur p len ls

/-- LDF (R202, R204). -/
def execLdf (sz : Sz) (sext : Bool) (d base : Nat) (off : Int) (s : State) : Out :=
  issue s (.ldf sz sext d base off) fun p =>
    let n := Sz.bytes sz
    let accs := p.lanes.map fun L => (L, p.eaView base off sz L)
    let good := viewPassing accs 5 (s.frameWords p.id.slot) n
    let p1 := good.foldl (fun q e => q.setV d e.1 (BitVec.ofNat 32 (extend n sext (viewBytes p.id.n p.m.frame e.2 n)))) p
    s.finishIssue p1 1 1 (viewFailing accs 5 (s.frameWords p.id.slot) n ++ poisonLanes p.id.n p.m.frameBad good)

/-- STF (R202, R204): a .w store clears the poison of its word. -/
def execStf (sz : Sz) (d base : Nat) (off : Int) (k : Nat) (s : State) : Out :=
  issue s (.stf sz d base off k) fun p =>
    let n := Sz.bytes sz
    let accs := (p.lanesIn k).map fun L => (L, p.eaView base off sz L)
    let good := viewPassing accs 5 (s.frameWords p.id.slot) n
    let fr := good.foldl (fun m e => viewStore p.id.n m e.2 n (p.storeData d sz e.1)) p.m.frame
    let bad := if n = 4 then p.m.frameBad.filter fun w => !(good.any fun e => e.2 / 4 == w && w % 32 < p.id.n) else p.m.frameBad
    s.finishIssue { p with m := { p.m with frame := fr, frameBad := bad } } 1 1
      (viewFailing accs 5 (s.frameWords p.id.slot) n)

/-- The lines of private accesses (R197). -/
def privLines (accs : List (Nat × Nat)) : Nat := (distinct (accs.map fun e => e.2 / 64)).length

/-- LDP (R202): deferred; private words change only by their own pack, so their value is taken at issue (R169). -/
def execLdp (sz : Sz) (sext : Bool) (d base : Nat) (off : Int) (s : State) : Out :=
  issue s (.ldp sz sext d base off) fun p =>
    if !p.deferRoom then s.deferWait p
    else
      let n := Sz.bytes sz
      let accs := p.lanes.map fun L => (L, p.eaView base off sz L)
      let words := s.privWords p.id.slot
      let good := viewPassing accs 6 words n
      let w := s.wordsAt p p.idx
      let bad (e : Nat × Nat) : Bool := e.2 / 4 % 32 < p.id.n && p.m.privBad.contains (e.2 / 64)
      let lane (e : Nat × Nat) : DefLane :=
        { lane := e.1, addr := e.2, res := if bad e then .fail 10 0 else .bound (viewBytes p.id.n p.m.priv e.2 n) }
      let dfr : Deferred := { uid := s.uid, kind := .priv, idx := p.idx, w0 := w.1, w1 := w.2, uni := false, d, size := n, sext,
                              lanes := good.map lane, cls := [], trapen := p.r.trapen, ready := s.now }
      let p1 := if good.isEmpty then p else p.defer dfr
      (s.fresh 1).finishIssue p1 1 (occLines (privLines good)) (viewFailing accs 6 words n)

/-- STP (R202): performed at issue. A line whose 64 bytes are written at once loses its poison (R322). -/
def execStp (sz : Sz) (d base : Nat) (off : Int) (k : Nat) (s : State) : Out :=
  issue s (.stp sz d base off k) fun p =>
    let n := Sz.bytes sz
    let accs := (p.lanesIn k).map fun L => (L, p.eaView base off sz L)
    let words := s.privWords p.id.slot
    let good := viewPassing accs 6 words n
    let pr := good.foldl (fun m e => viewStore p.id.n m e.2 n (p.storeData d sz e.1)) p.m.priv
    let whole (l : Nat) : Bool := (List.range 64).all fun i => good.any fun e => e.2 ≤ l * 64 + i && l * 64 + i < e.2 + n
    s.finishIssue { p with m := { p.m with priv := pr, privBad := p.m.privBad.filter fun l => !whole l } } 1
      (occLines (privLines good)) (viewFailing accs 6 words n)

/-! ### Constants -/

/-- The image whose constants serve a block's firings, its constant bytes, and their count (R70, R281). -/
def State.constBytes (s : State) (slot : Nat) : Nat :=
  match s.block slot with
  | some b => match s.images.find b.run with | some i => i.consts.length | none => 0
  | none => 0

/-- The image handle whose constants serve a block. -/
def State.runImage (s : State) (slot : Nat) : Nat := match s.block slot with | some b => b.run | none => 0

/-- Constant bytes on a core (R28). -/
def State.constRead (s : State) (core img off n : Nat) : List Byte :=
  Sparse.getRun (((s.core core).st.consts.find img).getD []) off n

/-- A constant range holds a poisoned word (R322). -/
def State.constPoison (s : State) (core img off n : Nat) : Bool :=
  (s.core core).st.constBad.any fun e => e.1 == img && off ≤ e.2 * 4 + 3 && e.2 * 4 < off + n

/-- LDC (R202, R204). -/
def execLdc (sz : Sz) (sext : Bool) (d base : Nat) (off : Int) (s : State) : Out :=
  issue s (.ldc sz sext d base off) fun p =>
    let n := Sz.bytes sz
    let ea := p.eaConst base off sz
    let img := s.runImage p.id.slot
    if ea % n != 0 then s.finishIssue p 1 1 (p.allLanes 4 0 (viewAddr ea))
    else if ea < 0 || ea + n > s.constBytes p.id.slot then s.finishIssue p 1 1 (p.allLanes 7 0 (viewAddr ea))
    else
      let v := extend n sext (leNat (s.constRead s.cur.core img ea.toNat n))
      let p1 := p.lanes.foldl (fun q L => q.setVs d L (loadWords n v)) p
      s.finishIssue p1 1 1 (if s.constPoison s.cur.core img ea.toNat n then p.allLanes 11 0 (viewAddr ea) else [])

/-! ### Prefetch -/

/-- Free collector slots that a prefetch of a pack may take (R199). -/
def State.pfxRoom (s : State) (p : Pack) : Nat := 256 - (if p.id.reserved then 0 else 32) - (s.core s.cur.core).slots.length

/-- A prefetch of a line for a pack (R213): a load request that no lane waits for, dropped where a check or a slot stops it. Into the L1, a copy
there answers it. It joins a load slot of the line or takes one (R197); a slot that only prefetches into the home slice have joined gives the L1
nothing. The fill drops it where the translation or a dropped tile does. -/
def State.prefetch (s : State) (p : Pack) (va : Nat) (toL1 : Bool) : State :=
  let core := s.cur.core
  let asid := s.asid p.id.ctx
  let line := va / 64
  let key := s.lineColour asid (line * 64) p.id.colour
  if !(s.permits p 1 va 1) || (toL1 && ((s.core core).l1line asid line key).isSome) then s
  else match s.joinLoad core asid line key p.id.colour.isSome fun _ => false with
    | some n => if toL1 then s.joinL1 core n else s
    | none => if s.pfxRoom p = 0 then s else (s.openLoad core asid line key !toL1).1

/-- The lines whose index reads find a collector slot (R199, R213): those in the L1 or in a slot that they join, and as many others as
slots are free. -/
def State.pfxLines (s : State) (p : Pack) (lines : List Nat) : List Nat :=
  let asid := s.asid p.id.ctx
  let key (l : Nat) := s.lineColour asid (l * 64) p.id.colour
  let free (l : Nat) : Bool := ((s.core s.cur.core).l1line asid l (key l)).isSome ||
    (s.joinLoad s.cur.core asid l (key l) p.id.colour.isSome fun _ => false).isSome
  lines.filter free ++ (lines.filter fun l => !free l).take (s.pfxRoom p)

/-- The index value that PFX.ind reads for a lane, where the read is not dropped (R213, R214). It is read as the instruction issues, and
an index in a poisoned line is dropped: DESIGN CHOICE (log 58). -/
def State.pfxIndex (s : State) (p : Pack) (size va : Nat) : Option Nat :=
  let a := va / size * size
  if !s.permits p 1 a size then none
  else match s.homeRead (s.asid p.id.ctx) a size p.id.colour .read with
    | (_, .data bs false) => some (leNat bs)
    | _ => none

/-- The stream entry of a PFX.ind (R214): kept as the most recently used, or taken from the least recently used. A use is the issue of its
PFX.ind, and not the training by an LD: DESIGN CHOICE (log 75). -/
def Core.pfxStream (c : Core) (asid slot idx : Nat) (xs : List (Nat × Nat)) : Core :=
  let mine (t : Stream) : Bool := t.asid == asid && t.slot == slot && t.idx == idx
  match c.streams.find? mine with
  | some t => { c with streams := (c.streams.filter fun u => !mine u) ++ [{ t with xs }] }
  | none =>
    let old := if c.streams.length < 16 then c.streams else c.streams.tail
    { c with streams := old ++ [{ asid, slot, idx, base := 0, shift := 0, conf := 0, used := 0, xs }] }

/-- PFX (R213, R214). -/
def execPfx (hint : PfxHint) (sz : Sz) (base : Nat) (off : Int) (k : Nat) (s : State) : Out :=
  issue s (.pfx hint sz base off k) fun p =>
    let n := Sz.bytes sz
    let accs := (p.lanesIn k).map fun L => (L, p.eaGlobal base off sz L)
    let lines := distinct ((accs.filter fun e => s.permits p 1 e.2 1).map fun e => e.2 / 64)
    let occ := occLines lines.length
    match hint with
    | .l1 => (lines.foldl (fun (t : State) l => t.prefetch p (l * 64) true) s).retire p 1 occ
    | .l2 => (lines.foldl (fun (t : State) l => t.prefetch p (l * 64) false) s).retire p 1 occ
    | .ind =>
      let ok := s.pfxLines p lines
      let xs := (accs.filter fun e => ok.contains (e.2 / 64)).filterMap fun e => (s.pfxIndex p n e.2).map fun x => (e.1, x)
      let asid := s.asid p.id.ctx
      let s1 := s.modCore s.cur.core fun c => c.pfxStream asid p.id.slot p.idx xs
      let t := ((s1.core s.cur.core).streams.find? fun t => t.asid == asid && t.slot == p.id.slot && t.idx == p.idx)
      let s2 := match t with
        | some t => if t.conf ≥ 2 then xs.foldl (fun (u : State) (e : Nat × Nat) => u.prefetch p ((t.base + e.2 * 2 ^ t.shift) % 2 ^ 64) true) s1 else s1
        | none => s1
      s2.retire { p with c := { p.c with lastPfx := (p.c.lastPfx.filter fun e => e.1 != p.idx) ++ [(p.idx, xs)] } } 1 occ

end Sys2Proof.Machine
end

