-- ==== Sys2Proof/Machine/Fence.lean ====
section
/-! DEFINITION. FENCE (R180, R181, R207), and what an acquire does to a pack. -/

namespace Sys2Proof.Machine

/-- The accesses that an acquire through memory, by a pack of a core at a scope, may have synchronised with, and that are not yet performed at
.sys (R176, R181; log 8): those of its core that a release at .core covers, and the stores to host memory, of cores that the scope spans, which
have their receipts and which the host has not completed. A release at .die or wider covers nothing else, since its accesses are performed as
it is read (R173). -/
def State.unperformed (s : State) (core asid : Nat) (sc : Scope) : List Nat :=
  let spans (k : Nat) : Bool := match sc with | .core => k == core | .die => k / 48 == core / 48 | _ => true
  ((s.core core).wake.filter fun e => e.2.shared).map (fun e => e.2.uid) ++
    (s.cores.filter fun e => spans e.1).flatMap fun e => e.2.flights.flatMap fun f =>
      if f.st == .posted && f.asid == asid then f.uids.map Prod.fst else []

/-- Identities joined to those a pack has inherited. -/
def Pack.inherit (p : Pack) (us : List Nat) : Pack :=
  { p with c := { p.c with hb := us.foldl (fun a u => addNew u a) p.c.hb } }

/-- The end of a pack's park: it goes on past its instruction, at the earliest after some ck. -/
def Pack.unpark (p : Pack) (len : Nat) (start : Nat) : Pack :=
  { p with c := { p.c with wait := none, start := start } }.advance len

/-- The condition of a park holds. -/
def State.ready (s : State) (w : Wait) : Bool := s.met { sc := w.sc, uids := w.uids }

/-- A fence that parks ends when its accesses are performed (R180): at .die or wider the L1 global lines are dropped, in
2 ck (R177), and an acquire inherits what its core has not performed. -/
def finishFence (s : State) (r : PackRef) (p : Pack) (w : Wait) : State :=
  if s.ready w then
    let p1 := p.inherit (s.unperformed r.core (s.asid p.id.ctx) w.sc)
    if w.sc = .core then s.setPack r (p1.unpark 1 s.now)
    else (s.acquireDrop r.core).setPack r (p1.unpark 1 (s.now + 2))
  else s.setPack r p

/-- The loads and atomics with return of a pack that have not bound. -/
def Pack.unboundUids (p : Pack) : List Nat := (p.c.deferred.filter Deferred.unbound).map fun d => d.uid

/-- A pack that has issued a release fence: its later stores wait for what it covers (R180). -/
def State.addHold (s : State) (r : PackRef) (p : Pack) (sc : Scope) : Pack :=
  { p with c := { p.c with holds := s.liveHolds p ++ [{ sc, uids := s.covered r p }] } }

/-- A release of a pack at .core covers accesses that are not performed further out: its core notes them (R179). -/
def State.share (s : State) (r : PackRef) (p : Pack) (sc : Scope) : State :=
  let us := s.covered r p
  if sc = .core then
    s.modCore r.core fun c => { c with wake := c.wake.map fun e => (e.1, { e.2 with shared := e.2.shared || us.contains e.2.uid }) }
  else s

/-- FENCE (R180, R207). -/
def execFence (kind : FenceKind) (sc : Scope) (s : State) : Out :=
  issue s (.fence kind sc) fun p =>
    let s1 := (if kind = .acq then s else s.share s.cur p sc).occupy s.cur 1
    let wait (us : List Nat) : Wait := { instr := .fence kind sc, uids := us, sc, phase := 0, info := 0 }
    let go (q : Pack) (us : List Nat) : State :=
      finishFence s1 s.cur { q with c := { q.c with wait := some (wait us) } } (wait us)
    match kind with
    | .rel => s1.setPack s.cur ((s.addHold s.cur p sc).advance 1)
    | .acq => go p p.unboundUids
    | .ar => go (s.addHold s.cur p sc) p.unboundUids
    | .sc => go p (s.covered s.cur p)

end Sys2Proof.Machine
end

