-- ==== Sys2Proof/Machine/Float.lean ====
section
/-! DEFINITION. Floating point: the formats, exact values, rounding with its classes, and the operations that
lane and tile instructions share (R74, R75, R79 to R83, R93). -/

namespace Sys2Proof.Machine

/-! ### Formats and values -/

/-- A format of R74: exponent bits, fraction bits, bias, and whether its top exponent holds infinity and NaN. -/
structure Fmt where
  eb   : Nat
  fb   : Nat
  bias : Int
  ieee : Bool
deriving DecidableEq, Repr

/-- FP32. -/
def f32 : Fmt := { eb := 8, fb := 23, bias := 127, ieee := true }
/-- FP16. -/
def f16 : Fmt := { eb := 5, fb := 10, bias := 15, ieee := true }
/-- BF16. -/
def bf16 : Fmt := { eb := 8, fb := 7, bias := 127, ieee := true }
/-- E4M3. -/
def e4m3 : Fmt := { eb := 4, fb := 3, bias := 7, ieee := false }
/-- E5M2. -/
def e5m2 : Fmt := { eb := 5, fb := 2, bias := 15, ieee := true }

/-- The value of a bit pattern: a NaN, signalling or quiet, an infinity, or the finite number m * 2^e with a sign. -/
inductive FVal where
  | nan (sig : Bool)
  | inf (neg : Bool)
  | fin (neg : Bool) (m : Nat) (e : Int)
deriving DecidableEq, Repr

/-- The value of a pattern (R74, R75); under `ftz` a subnormal is read as a zero of its sign (R80). -/
def Fmt.val (f : Fmt) (ftz : Bool) (x : Nat) : FVal :=
  let neg := x.testBit (f.eb + f.fb)
  let e := x / 2 ^ f.fb % 2 ^ f.eb
  let fr := x % 2 ^ f.fb
  if f.ieee && e == 2 ^ f.eb - 1 then if fr = 0 then .inf neg else .nan (!(fr.testBit (f.fb - 1)))
  else if !f.ieee && e == 2 ^ f.eb - 1 && fr == 2 ^ f.fb - 1 then .nan false
  else if e = 0 then .fin neg (if ftz then 0 else fr) (1 - f.bias - f.fb)
  else .fin neg (2 ^ f.fb + fr) (e - f.bias - f.fb)

/-- A value is a NaN. -/
def FVal.isNan : FVal → Bool | .nan _ => true | _ => false
/-- A value is a signalling NaN. -/
def FVal.isSig : FVal → Bool | .nan s => s | _ => false
/-- A value is infinite. -/
def FVal.isInf : FVal → Bool | .inf _ => true | _ => false
/-- A value is a zero. -/
def FVal.isZero : FVal → Bool | .fin _ 0 _ => true | _ => false
/-- The sign of a value that is no NaN. -/
def FVal.neg : FVal → Bool | .nan _ => false | .inf n => n | .fin n _ _ => n
/-- A value with its sign inverted. -/
def FVal.negate : FVal → FVal | .nan s => .nan s | .inf n => .inf (!n) | .fin n m e => .fin (!n) m e

/-- The sign bit of a format. -/
def Fmt.sign (f : Fmt) (neg : Bool) : Nat := if neg then 2 ^ (f.eb + f.fb) else 0
/-- The canonical NaN of a format (R75). -/
def Fmt.nan (f : Fmt) : Nat := if f.ieee then (2 ^ f.eb - 1) * 2 ^ f.fb + 2 ^ (f.fb - 1) else 2 ^ (f.eb + f.fb) - 1
/-- The infinity of a format that has one (R75). -/
def Fmt.inf (f : Fmt) (neg : Bool) : Nat := f.sign neg + (2 ^ f.eb - 1) * 2 ^ f.fb
/-- The largest finite value of a format (R74). -/
def Fmt.max (f : Fmt) (neg : Bool) : Nat := f.sign neg + if f.ieee then (2 ^ f.eb - 1) * 2 ^ f.fb - 1 else 2 ^ (f.eb + f.fb) - 2

/-! ### Rounding -/

/-- Rounding modes (R79). -/
inductive RM where
  | rne | rtz | rup | rdn
deriving DecidableEq, Repr

/-- A result with the classes it raised. -/
structure FR where
  bits : Nat
  cls  : Nat
deriving DecidableEq, Repr

/-- The number of bits of a number. -/
def bitLen (m : Nat) : Nat := if m = 0 then 0 else Nat.log2 m + 1

/-- A magnitude m over 2^s, with a non-zero remainder below it where `sticky`, rounded to an integer, and whether it was
inexact (R79). A shift far beyond the number's bits is cut, which changes neither. -/
def roundMag (rm : RM) (neg : Bool) (m s : Nat) (sticky : Bool) : Nat × Bool :=
  let s := Nat.min s (bitLen m + 2)
  let q := m / 2 ^ s
  let r := m % 2 ^ s
  let inexact := r != 0 || sticky
  let up := match rm with
    | .rtz => false
    | .rup => inexact && !neg
    | .rdn => inexact && neg
    | .rne => 2 * r > 2 ^ s || (2 * r == 2 ^ s && s != 0 && (sticky || q % 2 == 1))
  (if up then q + 1 else q, inexact)

/-- What an overflow writes (R82). -/
def Fmt.overflow (f : Fmt) (rm : RM) (neg : Bool) : Nat :=
  if !f.ieee then f.max neg
  else match rm with
    | .rne => f.inf neg
    | .rtz => f.max neg
    | .rup => if neg then f.max neg else f.inf neg
    | .rdn => if neg then f.inf neg else f.max neg

/-- The number (-1)^neg * m * 2^e, with a remainder below it where `sticky`, rounded into a format with its classes OF, UF
and NX (R79, R80, R82); under `ftz` a subnormal result is written as a zero of its sign. -/
def Fmt.round (f : Fmt) (rm : RM) (ftz neg : Bool) (m : Nat) (e : Int) (sticky : Bool) : FR :=
  if m = 0 && !sticky then { bits := f.sign neg, cls := 0 }
  else
    let top := e + bitLen m - 1
    let emin := 1 - f.bias
    let at_ (q : Int) : Nat × Bool :=
      if q ≤ e then (m * 2 ^ (e - q).toNat, sticky) else roundMag rm neg m (q - e).toNat sticky
    let free := at_ (top - f.fb)
    let tiny := top + 1 < emin || (top < emin && free.1 < 2 ^ (f.fb + 1))
    let q := (if top < emin then emin else top) - f.fb
    let r := at_ q
    if r.1 < 2 ^ f.fb then
      if ftz && r.1 != 0 then { bits := f.sign neg, cls := Cls.uf ||| Cls.nx }
      else { bits := f.sign neg + r.1, cls := if r.2 then (if tiny then Cls.uf else 0) ||| Cls.nx else 0 }
    else
      let sig := if r.1 = 2 ^ (f.fb + 1) then 2 ^ f.fb else r.1
      let ex := q + f.fb + f.bias + if r.1 = 2 ^ (f.fb + 1) then 1 else 0
      let big := if f.ieee then ex ≥ 2 ^ f.eb - 1
        else ex ≥ 2 ^ f.eb || (ex == 2 ^ f.eb - 1 && sig == 2 ^ (f.fb + 1) - 1)
      if big then { bits := f.overflow rm neg, cls := Cls.of ||| Cls.nx }
      else { bits := f.sign neg + ex.toNat * 2 ^ f.fb + (sig - 2 ^ f.fb)
             cls := if r.2 then (if tiny then Cls.uf else 0) ||| Cls.nx else 0 }

/-- How an instruction computes: format, mode and flush. -/
structure FCfg where
  fmt : Fmt
  rm  : RM
  ftz : Bool
deriving DecidableEq, Repr

/-- A value rounded into a format; an infinity into E4M3 is an invalid NaN (R82). -/
def FCfg.put (c : FCfg) (v : FVal) : FR :=
  match v with
  | .nan _ => { bits := c.fmt.nan, cls := 0 }
  | .inf n => if c.fmt.ieee then { bits := c.fmt.inf n, cls := 0 } else { bits := c.fmt.nan, cls := Cls.iv }
  | .fin n m e => c.fmt.round c.rm c.ftz n m e false

/-- The classes that follow from the operands (R81, R93): invalid for a signalling NaN, NaN produced, infinity produced. -/
def Fmt.mark (f : Fmt) (srcs : List FVal) (r : FR) : FR :=
  let v := f.val false r.bits
  { r with cls := r.cls ||| (if srcs.any FVal.isSig then Cls.iv else 0)
      ||| (if v.isNan && !(srcs.any FVal.isNan) then Cls.np else 0)
      ||| (if v.isInf && !(srcs.any FVal.isInf) then Cls.ip else 0) }

/-- An invalid operation's result. -/
def Fmt.invalid (f : Fmt) : FR := { bits := f.nan, cls := Cls.iv }

/-! ### Exact sums and products -/

/-- A signed mantissa at an exponent not above its own. -/
def scaled (neg : Bool) (m : Nat) (e at_ : Int) : Int := if neg then -(m * 2 ^ (e - at_).toNat : Nat) else (m * 2 ^ (e - at_).toNat : Nat)

/-- The exact sum of two finite numbers, with the sign of a zero sum (R79). -/
def addFin (rm : RM) (nx : Bool) (mx : Nat) (ex : Int) (ny : Bool) (my : Nat) (ey : Int) : FVal :=
  let e := min ex ey
  let t := scaled nx mx ex e + scaled ny my ey e
  if t = 0 then .fin (if nx == ny then nx else rm == .rdn) 0 e else .fin (t < 0) t.natAbs e

/-- a + b, rounded once (R79 to R82, R121). -/
def FCfg.add (c : FCfg) (x y : FVal) : FR :=
  c.fmt.mark [x, y] (match x, y with
    | .nan _, _ | _, .nan _ => { bits := c.fmt.nan, cls := 0 }
    | .inf a, .inf b => if a == b then c.put (.inf a) else c.fmt.invalid
    | .inf a, _ => c.put (.inf a)
    | _, .inf b => c.put (.inf b)
    | .fin nx mx ex, .fin ny my ey => c.put (addFin c.rm nx mx ex ny my ey))

/-- The exact product of two values that are no NaN: none for zero times infinity. -/
def mulVal (x y : FVal) : Option FVal :=
  match x, y with
  | .inf a, .inf b => some (.inf (a != b))
  | .inf a, .fin n m _ => if m = 0 then none else some (.inf (a != n))
  | .fin n m _, .inf b => if m = 0 then none else some (.inf (b != n))
  | .fin nx mx ex, .fin ny my ey => some (.fin (nx != ny) (mx * my) (ex + ey))
  | .nan s, _ => some (.nan s)
  | _, .nan s => some (.nan s)

/-- a * b, rounded once (R121). -/
def FCfg.mul (c : FCfg) (x y : FVal) : FR :=
  c.fmt.mark [x, y] (if x.isNan || y.isNan then { bits := c.fmt.nan, cls := 0 }
    else match mulVal x y with
      | none => c.fmt.invalid
      | some v => c.put v)

/-- a * b + c, rounded once (R122): zero times infinity is invalid whatever the addend. -/
def FCfg.fma (c : FCfg) (x y z : FVal) : FR :=
  c.fmt.mark [x, y, z] (if x.isNan || y.isNan then { bits := c.fmt.nan, cls := 0 }
    else match mulVal x y with
      | none => c.fmt.invalid
      | some p => match p, z with
        | _, .nan _ => { bits := c.fmt.nan, cls := 0 }
        | .inf a, .inf b => if a == b then c.put (.inf a) else c.fmt.invalid
        | .inf a, _ => c.put (.inf a)
        | _, .inf b => c.put (.inf b)
        | .fin np mp ep, .fin nz mz ez => c.put (addFin c.rm np mp ep nz mz ez)
        | .nan _, _ => { bits := c.fmt.nan, cls := 0 })

/-! ### Order -/

/-- x is less than y, for values that are no NaN, with -0 less than +0 (R123). -/
def FVal.lt0 (x y : FVal) : Bool :=
  match x, y with
  | .inf a, .inf b => a && !b
  | .inf a, _ => a
  | _, .inf b => !b
  | .fin nx mx ex, .fin ny my ey =>
    let e := min ex ey
    let a := scaled nx mx ex e
    let b := scaled ny my ey e
    a < b || (a == b && nx && !ny)
  | _, _ => false

/-- x equals y as numbers (R127). -/
def FVal.eqv (x y : FVal) : Bool :=
  match x, y with
  | .inf a, .inf b => a == b
  | .fin nx mx ex, .fin ny my ey => let e := min ex ey; scaled nx mx ex e == scaled ny my ey e
  | _, _ => false

/-- x is less than y as numbers (R127). -/
def FVal.lt (x y : FVal) : Bool := x.lt0 y && !(x.eqv y)

/-- The pattern of an operand after a flush: a zero of its sign, or its own bits. -/
def Fmt.flushed (f : Fmt) (v : FVal) (x : Nat) : Nat := match v with | .fin n 0 _ => f.sign n | _ => x

/-- FMIN and FMAX (R123). -/
def minMax (f : Fmt) (ftz isMax : Bool) (x y : Nat) : FR :=
  let a := f.val ftz x
  let b := f.val ftz y
  let bits := if a.isNan && b.isNan then f.nan
    else if a.isNan then f.flushed b y
    else if b.isNan then f.flushed a x
    else if a.lt0 b then (if isMax then f.flushed b y else f.flushed a x)
    else (if isMax then f.flushed a x else f.flushed b y)
  { bits, cls := if a.isSig || b.isSig then Cls.iv else 0 }

/-! ### Conversions to and from integers -/

/-- The integer nearest to a finite value under a mode, with its sign, and whether it changed (R83, R126). -/
def roundInt (rm : RM) (neg : Bool) (m : Nat) (e : Int) : Int × Bool :=
  let r := if 0 ≤ e then (m * 2 ^ e.toNat, false) else roundMag rm neg m (-e).toNat false
  (if neg then -(r.1 : Int) else r.1, r.2)

/-- A value converted to an integer in a range (R83). -/
def toInt (rm : RM) (lo hi : Int) (v : FVal) : Int × Nat :=
  match v with
  | .nan _ => (0, Cls.iv)
  | .inf n => (if n then lo else hi, Cls.iv)
  | .fin n m e =>
    let r := roundInt rm n m e
    if r.1 < lo then (lo, Cls.iv) else if hi < r.1 then (hi, Cls.iv) else (r.1, if r.2 then Cls.nx else 0)

/-- The value of an exact integer. -/
def ofInt (x : Int) : FVal := .fin (x < 0) x.natAbs 0

/-- A quotient of whole numbers times 2^e, rounded into a format: enough bits of it, and what is left as sticky. -/
def Fmt.roundQuot (f : Fmt) (rm : RM) (ftz neg : Bool) (num den : Nat) (e : Int) : FR :=
  let k := bitLen den + f.fb + 4
  f.round rm ftz neg (num * 2 ^ k / den) (e - k) (num * 2 ^ k % den != 0)

/-! ### The pack's modes -/

/-- The mode that a rounding code selects (R46, R79). -/
def Pack.rm (p : Pack) (r : Rnd) : RM :=
  match r with
  | .rne => .rne | .rtz => .rtz | .rup => .rup | .rdn => .rdn
  | .dyn => match p.r.fpctl.toNat % 4 with | 0 => .rne | 1 => .rtz | 2 => .rup | _ => .rdn

/-- FTZ of the pack (R78, R80). -/
def Pack.ftz (p : Pack) : Bool := p.r.fpctl.getLsbD 2

/-- How an FP32 instruction of the pack computes. -/
def Pack.cfg (p : Pack) (fmt : Fmt) (r : Rnd) : FCfg := { fmt, rm := p.rm r, ftz := p.ftz }

/-- A lane's result of one word with its classes. -/
def FR.lane (r : FR) : LaneOut := { vals := [BitVec.ofNat 32 r.bits], cls := r.cls }

end Sys2Proof.Machine
end

