-- ==== Sys2Proof/Machine/Moves.lean ====
section
/-! DEFINITION. Moves, selection, lane identity, integer compares and mask logic (R114 to R120). -/

namespace Sys2Proof.Machine

/-- MOV (R114). -/
def execMov (wide : Bool) (d : Nat) (b : BOp) (s : State) : Out :=
  laneOp s (.mov wide d b) d 1 false fun p L => { vals := resWords wide (BitVec.ofNat 64 (p.opB wide b L)), cls := 0 }

/-- MOVS from a lane: 0 where the position is inactive (R116). -/
def execMovsLane (d a lane : Nat) (s : State) : Out :=
  packOp s (.movsLane d a lane) 1 fun p => p.setS d (if lane < p.id.n then p.v a lane else 0)

/-- MOVS from a uniform register (R116). -/
def execMovsUniform (d a : Nat) (s : State) : Out := packOp s (.movsUniform d a) 1 fun p => p.setS d (p.s a)

/-- MOVI to a lane register (R115). -/
def execMoviV (d : Nat) (imm : Int) (s : State) : Out := lane32 s (.moviV d imm) d 1 fun _ _ => BitVec.ofInt 32 imm
/-- MOVI to a uniform register (R115). -/
def execMoviS (d : Nat) (imm : Int) (s : State) : Out := packOp s (.moviS d imm) 1 fun p => p.setS d (BitVec.ofInt 32 imm)

/-- MOVI with a 32-bit immediate (R115). -/
def execMoviImm32 (uni : Bool) (d imm : Nat) (s : State) : Out :=
  if uni then packOp s (.moviImm32 uni d imm) 1 fun p => p.setS d (BitVec.ofNat 32 imm)
  else lane32 s (.moviImm32 uni d imm) d 1 fun _ _ => BitVec.ofNat 32 imm

/-- Bits 31:14 of a word replaced (R115). -/
def movhi (x : Word) (imm : Nat) : Word := BitVec.ofNat 32 (imm * 2 ^ 14 + x.toNat % 2 ^ 14)

/-- MOVHI to a lane register (R115). -/
def execMovhiV (d imm : Nat) (s : State) : Out := lane32 s (.movhiV d imm) d 1 fun p L => movhi (p.v d L) imm
/-- MOVHI to a uniform register (R115). -/
def execMovhiS (d imm : Nat) (s : State) : Out := packOp s (.movhiS d imm) 1 fun p => p.setS d (movhi (p.s d) imm)

/-- SEL (R117). -/
def execSel (d a : Nat) (b : BOp) (k : Nat) (s : State) : Out :=
  lane32 s (.sel d a b k) d 1 fun p L => if (p.k k).getLsbD L then p.v a L else p.b b L

/-- LANE (R118). -/
def execLane (d : Nat) (s : State) : Out := lane32 s (.lane d) d 1 fun _ L => BitVec.ofNat 32 L
/-- NLN (R118). -/
def execNln (d : Nat) (s : State) : Out := packOp s (.nln d) 1 fun p => p.setS d (BitVec.ofNat 32 p.id.n)

/-- A condition between two integers (R119). -/
def condHolds (c : Sys2Proof.Cond) (x y : Int) : Bool :=
  match c with
  | .eq => x == y | .ne => x != y | .lt => x < y | .le => x ≤ y | .gt => y < x | .ge => y ≤ x

/-- The mask of the active lanes for which a test holds; every other bit is 0 (R105). -/
def Pack.maskWhere (p : Pack) (f : Nat → Bool) : Word := laneMask 0 p.lanes f

/-- CMP (R119). -/
def execCmp (c : Sys2Proof.Cond) (t : IntTy) (d a : Nat) (b : BOp) (s : State) : Out :=
  packOp s (.cmp c t d a b) 1 fun p =>
    p.setK d (p.maskWhere fun L => condHolds c (ival t (p.opA t.wide a L)) (ival t (p.opB t.wide b L)))

/-- CMP with an immediate (R119). -/
def execCmpImm (c : Sys2Proof.Cond) (unsigned : Bool) (d a imm : Nat) (s : State) : Out :=
  packOp s (.cmpImm c unsigned d a imm) 1 fun p =>
    let t := intTy false (!unsigned)
    p.setK d (p.maskWhere fun L => condHolds c (ival t (p.v a L).toNat) (ival t imm))

/-- KOP (R120): on all 32 bits. -/
def execKop (op : KOp) (d a b : Nat) (s : State) : Out :=
  packOp s (.kop op d a b) 1 fun p =>
    match op with
    | .and => p.setK d (p.k a &&& p.k b)
    | .or => p.setK d (p.k a ||| p.k b)
    | .xor => p.setK d (p.k a ^^^ p.k b)
    | .andn => p.setK d (p.k a &&& ~~~(p.k b))
    | .not => p.setK d (~~~(p.k a))
    | .mov => p.setK d (p.k a)
    | .froms => p.setK d (p.s a)
    | .tos => p.setS d (p.k a)

end Sys2Proof.Machine
end

