-- ==== Sys2Proof/Machine/FloatInstr.lean ====
section
/-! DEFINITION. The FP32, packed half and conversion instructions of the lanes (R121 to R131). -/

namespace Sys2Proof.Machine

/-- The value of a lane's FP32 operand under the pack's flush (R80). -/
def Pack.fv (p : Pack) (x : Word) : FVal := f32.val p.ftz x.toNat

/-- A two-operand FP32 instruction. -/
def fpOp (s : State) (i : Instr) (r : Rnd) (d a : Nat) (b : BOp) (f : FCfg → FVal → FVal → FR) : Out :=
  laneOp s i d 1 true fun p L => (f (p.cfg f32 r) (p.fv (p.v a L)) (p.fv (p.b b L))).lane

/-- FADD (R121). -/
def execFadd (r : Rnd) (d a : Nat) (b : BOp) (s : State) : Out := fpOp s (.fadd r d a b) r d a b FCfg.add
/-- FSUB (R121). -/
def execFsub (r : Rnd) (d a : Nat) (b : BOp) (s : State) : Out :=
  fpOp s (.fsub r d a b) r d a b fun c x y => c.add x y.negate
/-- FMUL (R121). -/
def execFmul (r : Rnd) (d a : Nat) (b : BOp) (s : State) : Out := fpOp s (.fmul r d a b) r d a b FCfg.mul

/-- FFMA: the addend is the register after b (R122). -/
def execFfma (r : Rnd) (d a : Nat) (b : BOp) (s : State) : Out :=
  laneOp s (.ffma r d a b) d 1 true fun p L =>
    ((p.cfg f32 r).fma (p.fv (p.v a L)) (p.fv (p.b b L)) (p.fv (p.b (BOp.next b) L))).lane

/-- FMIN (R123). -/
def execFmin (d a : Nat) (b : BOp) (s : State) : Out :=
  laneOp s (.fmin d a b) d 1 true fun p L => (minMax f32 p.ftz false (p.v a L).toNat (p.b b L).toNat).lane
/-- FMAX (R123). -/
def execFmax (d a : Nat) (b : BOp) (s : State) : Out :=
  laneOp s (.fmax d a b) d 1 true fun p L => (minMax f32 p.ftz true (p.v a L).toNat (p.b b L).toNat).lane

/-- FABS: the sign bit alone (R81, R124). -/
def execFabs (d a : Nat) (s : State) : Out :=
  laneOp s (.fabs d a) d 1 true fun p L => { vals := [p.v a L &&& 0x7FFFFFFF#32], cls := 0 }
/-- FNEG: the sign bit alone (R81, R124). -/
def execFneg (d a : Nat) (s : State) : Out :=
  laneOp s (.fneg d a) d 1 true fun p L => { vals := [p.v a L ^^^ 0x80000000#32], cls := 0 }

/-- The class bit of an FP32 value (R125). -/
def fclassBit (v : FVal) : Nat :=
  match v with
  | .nan sig => if sig then 8 else 9
  | .inf n => if n then 0 else 7
  | .fin n m _ => if m = 0 then (if n then 3 else 4) else if m < 2 ^ 23 then (if n then 2 else 5) else (if n then 1 else 6)

/-- FCLASS (R125). -/
def execFclass (d a : Nat) (s : State) : Out :=
  laneOp s (.fclass d a) d 1 true fun p L => { vals := [BitVec.ofNat 32 (2 ^ fclassBit (p.fv (p.v a L)))], cls := 0 }

/-- A value rounded to an integral value, keeping its sign, with no NX (R126). -/
def fround (rm : RM) (v : FVal) : FR :=
  f32.mark [v] (match v with
    | .nan _ => { bits := f32.nan, cls := 0 }
    | .inf n => { bits := f32.inf n, cls := 0 }
    | .fin n m e =>
      let r := roundInt rm n m e
      { bits := (f32.round rm false n r.1.natAbs 0 false).bits, cls := 0 })

/-- FRND (R126). -/
def execFrnd (r : Rnd) (d a : Nat) (s : State) : Out :=
  laneOp s (.frnd r d a) d 1 true fun p L => (fround (p.rm r) (p.fv (p.v a L))).lane

/-- A condition of FCMP (R127). -/
def fcondHolds (c : FCond) (x y : FVal) : Bool :=
  let un := x.isNan || y.isNan
  match c with
  | .eq => !un && x.eqv y
  | .ne => un || !(x.eqv y)
  | .lt => !un && x.lt y
  | .le => !un && (x.lt y || x.eqv y)
  | .gt => !un && y.lt x
  | .ge => !un && (y.lt x || x.eqv y)
  | .un => un
  | .ord => !un

/-- FCMP (R127): a mask, with IV for a signalling NaN, or for any NaN with .s. -/
def execFcmp (c : FCond) (sig : Bool) (d a : Nat) (b : BOp) (s : State) : Out :=
  issue s (.fcmp c sig d a b) fun p =>
    let x (L : Nat) : FVal := p.fv (p.v a L)
    let y (L : Nat) : FVal := p.fv (p.b b L)
    let cls (L : Nat) : Nat := if (if sig then (x L).isNan || (y L).isNan else (x L).isSig || (y L).isSig) then Cls.iv else 0
    s.complete (p.setK d (p.maskWhere fun L => fcondHolds c (x L) (y L))) 1 1 true (p.lanes.map fun L => (L, cls L))

/-- A value times 2^e, rounded once (R128). -/
def FCfg.scale (c : FCfg) (v : FVal) (e : Int) : FR :=
  c.fmt.mark [v] (c.put (match v with | .fin n m x => .fin n m (x + e) | w => w))

/-- FSCALE (R128). -/
def execFscale (r : Rnd) (d a : Nat) (b : BOp) (s : State) : Out :=
  laneOp s (.fscale r d a b) d 1 true fun p L => ((p.cfg f32 r).scale (p.fv (p.v a L)) (p.b b L).toInt).lane

/-! ### Packed half -/

/-- The format of the half2 group (R129). -/
def halfFmt (bf : Bool) : Fmt := if bf then bf16 else f16
/-- An element of a register of two (R129). -/
def halfVal (f : Fmt) (ftz : Bool) (x : Word) (e : Nat) : FVal := f.val ftz (x.toNat / 2 ^ (16 * e) % 2 ^ 16)
/-- Two elements' results in one register, with the classes of both (R129). -/
def half2 (g : Nat → FR) : LaneOut :=
  { vals := [BitVec.ofNat 32 ((g 0).bits + (g 1).bits * 2 ^ 16)], cls := (g 0).cls ||| (g 1).cls }

/-- HADD2 (R129). -/
def execHadd2 (bf : Bool) (r : Rnd) (d a : Nat) (b : BOp) (s : State) : Out :=
  laneOp s (.hadd2 bf r d a b) d 1 true fun p L =>
    let f := halfFmt bf
    half2 fun e => (p.cfg f r).add (halfVal f p.ftz (p.v a L) e) (halfVal f p.ftz (p.b b L) e)
/-- HMUL2 (R129). -/
def execHmul2 (bf : Bool) (r : Rnd) (d a : Nat) (b : BOp) (s : State) : Out :=
  laneOp s (.hmul2 bf r d a b) d 1 true fun p L =>
    let f := halfFmt bf
    half2 fun e => (p.cfg f r).mul (halfVal f p.ftz (p.v a L) e) (halfVal f p.ftz (p.b b L) e)
/-- HFMA2 (R129). -/
def execHfma2 (bf : Bool) (r : Rnd) (d a : Nat) (b : BOp) (s : State) : Out :=
  laneOp s (.hfma2 bf r d a b) d 1 true fun p L =>
    let f := halfFmt bf
    half2 fun e => (p.cfg f r).fma (halfVal f p.ftz (p.v a L) e) (halfVal f p.ftz (p.b b L) e)
      (halfVal f p.ftz (p.b (BOp.next b) L) e)

/-! ### Conversion -/

/-- The format of a floating-point element type. -/
def fmtOf : ElemTy → Option Fmt
  | .f32 => some f32 | .f16 => some f16 | .bf16 => some bf16 | .e4m3 => some e4m3 | .e5m2 => some e5m2
  | _ => none

/-- FTZ acts on FP32, FP16 and BF16 alone (R80). -/
def ftzOn (t : ElemTy) : Bool := t == .f32 || t == .f16 || t == .bf16

/-- The width in bits of an element type (R45). -/
def elemWidth (t : ElemTy) : Nat := 8 * t.bytes

/-- An integer element type is signed (R76). -/
def elemSigned (t : ElemTy) : Bool := t == .i32 || t == .i64 || t == .i16 || t == .i8

/-- The bounds of an integer element type (R76). -/
def elemLo (t : ElemTy) : Int := if elemSigned t then -(2 ^ (elemWidth t - 1)) else 0
/-- The greatest value of an integer element type (R76). -/
def elemHi (t : ElemTy) : Int := if elemSigned t then 2 ^ (elemWidth t - 1) - 1 else 2 ^ elemWidth t - 1

/-- The integer in the low bits of a source (R130). -/
def elemInt (t : ElemTy) (x : Nat) : Int :=
  let y := x % 2 ^ elemWidth t
  if elemSigned t && y ≥ 2 ^ (elemWidth t - 1) then (y : Int) - 2 ^ elemWidth t else y

/-- One value converted (R83, R130, R131): the result as 64 bits, an integer extended by its sign, with the classes. An unsigned value past
the largest of a signed type of the same width gives that largest value (DESIGN CHOICE, log 68). -/
def convert (dst src : ElemTy) (rm : RM) (ftz : Bool) (x : Nat) : DWord × Nat :=
  match fmtOf src, fmtOf dst with
  | some fs, some fd =>
    let v := fs.val (ftz && ftzOn src) (x % 2 ^ elemWidth src)
    let r := fd.mark [v] (({ fmt := fd, rm, ftz := ftz && ftzOn dst } : FCfg).put v)
    (BitVec.ofNat 64 r.bits, r.cls)
  | some fs, none =>
    let v := fs.val (ftz && ftzOn src) (x % 2 ^ elemWidth src)
    let r := toInt rm (elemLo dst) (elemHi dst) v
    (wrap64 r.1, r.2)
  | none, some fd =>
    let r := fd.mark [] (({ fmt := fd, rm, ftz } : FCfg).put (ofInt (elemInt src x)))
    (BitVec.ofNat 64 r.bits, r.cls)
  | none, none =>
    let y := elemInt src x
    (wrap64 (if y < elemLo dst then elemLo dst else if elemHi dst < y then elemHi dst else y), 0)

/-- CVT (R130, R131): a floating-point instruction where one of its types is (R100). -/
def execCvt (dst src : ElemTy) (r : Rnd) (d a : Nat) (s : State) : Out :=
  laneOp s (.cvt dst src r d a) d 1 (src.isFloat || dst.isFloat) fun p L =>
    let q := convert dst src (p.rm r) p.ftz (p.opA src.wide a L)
    { vals := resWords dst.wide q.1, cls := q.2 }

end Sys2Proof.Machine
end

