-- ==== Sys2Proof/Machine/Results.lean ====
section
/-! DEFINITION. Results and receipts: fills, deferred results, store slots, line writes, receipts, holds and
evictions as events of their own units (R172 to R174, R188, R189, R195, R197, R200, R314). -/

namespace Sys2Proof.Machine

/-- A miss of a line of a dropped tile goes to the Retriever of the line's home die (R189, R383). -/
def State.noteMiss (s : State) (asid line ctx rix : Nat) : State :=
  let m : Miss := { die := homeDie asid line, ctx, rix, retry := none }
  if s.misses.any (fun x => x.die == m.die && x.ctx == ctx && x.rix == rix) then s else { s with misses := s.misses ++ [m] }

/-! ### Fills and deferred results -/

/-- Only recompute packs, or no lane at all, wait for a slot whose line is of another dropped tile: the packs end, a prefetch is dropped,
and the access does not park (R213, R335). -/
def readersEnd (ws : List Waiter) : Bool := ws.all fun w => w.colour.isSome

/-- A waiter of a slot must wait for an earlier access of its lane that has not bound or executed, or for a RED of its core (R169, R200). -/
def Core.fillWaits (c : Core) (asid n : Nat) (w : Waiter) : Bool :=
  (c.slots.any fun e => e.1 != n && (c.waiters e.1).any fun x =>
    x.serial == w.serial && x.lane == w.lane && x.uid < w.uid && sameLine x.addr w.addr) ||
  c.atomBefore w.serial w.lane w.uid w.addr || c.redBefore asid w.uid w.addr w.size

/-- The recompute packs that a read of an undeclared dropped tile ends (R335). -/
def State.killReaders (s : State) (core : Nat) (ws : List Waiter) : State :=
  ws.foldl (fun t w => match w.colour with
    | none => t
    | some c =>
      let r : PackRef := { core, pipe := w.key / 16, slot := w.key % 16 }
      match t.pack r with
      | some p => (t.killPack r p).failRegen c 2 0
      | none => t) s

/-- The lanes of a load slot bind (R174, R195, R197): where the L1 holds the line, from that copy, unless a lane comes before a store of its
own that the copy may hold (R169); else from the home slice with forwarding, or with the fault of the fill, or the slot parks at a Retriever.
The line is placed in the L1 unless the slot is closed or only prefetches into the home slice wait for it (R213). -/
def State.fillSlot (s : State) (core n : Nat) (sl : Slot) : State :=
  let c := s.core core
  let ws := c.waiters n
  let done (t : State) : State := t.modCore core fun k => { k with slots := k.slots.del n }
  let all (w : Waiter) : Bool := c.allForwarded sl.asid core w.serial w.lane w.uid w.addr w.size sl.colour
  let later (w : Waiter) : Bool :=
    (List.range w.size).any fun i => (c.ownLater sl.asid w.serial w.lane w.uid (w.addr + i) sl.colour).isSome
  match if ws.isEmpty || ws.any later then none else c.l1line sl.asid sl.line sl.colour with
  | some l => done (s.modCore core fun k => k.resolve n fun w => c.bindL1 l sl.asid core w.serial w.lane w.uid w.addr w.size sl.colour)
  | none =>
    match s.homeRead sl.asid (sl.line * 64) 64 sl.colour .read with
    | (s1, .data bs poison) =>
      let bind (w : Waiter) : LaneRes :=
        if poison && !all w then .fail 10 0
        else .bound (leNat (c.withForward sl.asid core w.serial w.lane w.uid w.addr sl.colour ((bs.drop (w.addr % 64)).take w.size)))
      let s2 := s1.modCore core fun k =>
        let k1 := k.resolve n bind
        if sl.closed || sl.l2 then k1 else k1.placeL1 core sl.asid sl.line bs poison sl.colour s.uid
      done s2
    | (s1, .fault k) =>
      let bind (w : Waiter) : LaneRes :=
        let laid (bs : List Byte) : LaneRes := .bound (leNat (c.withForward sl.asid core w.serial w.lane w.uid w.addr sl.colour bs))
        if all w then laid (List.replicate w.size 0)
        else match s.homeRead sl.asid w.addr w.size sl.colour .read with
        | (_, .data bs false) => laid bs
        | (_, .data _ true) => .fail 10 0
        | _ => .fail 9 k
      done (s1.modCore core fun k => k.resolve n bind)
    | (s1, .recipe ctx rix) =>
      let s2 := s1.killReaders core ws
      if readersEnd ws then done s2
      else (s2.modCore core fun k => { k with slots := k.slots.upd n fun x => { x with parked := true } }).noteMiss sl.asid sl.line ctx rix

/-- The fill of a load slot arrives (R174, R197), once no lane that waits for it waits for an earlier access. -/
def execLineFill (core n : Nat) (s : State) : Out :=
  let c := s.core core
  match c.slots.find n with
  | none => .next s
  | some sl =>
    if sl.kind != .load || sl.parked || (c.waiters n).any (c.fillWaits sl.asid n) then .next s else .next (s.fillSlot core n sl)

/-- The result of a deferred instruction delivered (R195, R101): bound lanes are written, failing lanes and lanes with an
enabled class enter the pack's report entries, and classes are committed. An atomic whose instruction trapped acquires now, if its order
says so (R182, R194). -/
def State.deliver (s : State) (r : PackRef) (p : Pack) (n : Nat) (d : Deferred) : State :=
  let put (q : Pack) (l : DefLane) : Pack :=
    match l.res with
    | .bound v =>
      let ws := if d.kind = .load || d.kind = .priv then loadWords d.size (extend d.size d.sext v) else loadWords d.size v
      if d.uni then (match ws with
        | [a] => q.setS d.d a
        | a :: b :: _ => (q.setS d.d a).setS (d.d + 1) b
        | [] => q)
      else q.setVs d.d l.lane ws
    | _ => q
  let p1 := d.lanes.foldl put { p with c := { p.c with deferred := p.c.deferred.eraseIdx n } }
  let fails := d.lanes.flatMap fun l => match l.res with
    | .fail c k => if d.uni then (List.range p.id.n).map fun L => ({ lane := L, cause := c, detail := k, addr := l.addr } : RepLane)
      else [{ lane := l.lane, cause := c, detail := k, addr := l.addr }]
    | _ => []
  let sp := s.commitFor p1 (orCls d.cls)
  let reps := sortBy (fun l => l.lane) (fails ++ arithLanes (fun L => ((d.lanes.find? fun l => l.lane == L).map fun l => l.addr).getD 0) (enabled d.trapen) d.cls)
  let p2 := if reps.isEmpty then sp.2 else sp.2.addReport
    { idx := d.idx, w0 := d.w0, w1 := d.w1, replay := reps.any fun l => replayCause l.cause, lanes := reps }
  match d.acq with
  | none => sp.1.setPack r p2
  | some sc =>
    let s1 := sp.1.setPack r (p2.inherit (sp.1.unperformed r.core (sp.1.asid p.id.ctx) sc))
    if sc = .core then s1 else s1.acquireDrop r.core

/-- A deferred result of a pack that has all its lanes. -/
def Deferred.resolved (d : Deferred) : Bool := d.lanes.all fun l => match l.res with | .wait _ => false | _ => true

/-- The result of a load, a private load, an atomic with return or a FAULTRD arrives (R195, R321). -/
def execLoadResult (r : PackRef) (n : Nat) (s : State) : Out :=
  match s.pack r with
  | none => .next s
  | some p =>
    match p.c.deferred[n]? with
    | none => .next s
    | some d => if d.kind != .sfu && d.resolved && d.ready ≤ s.now then .next (s.deliver r p n d) else .next s

/-- The result of a special function arrives (R101, R132). -/
def execSfuResult (r : PackRef) (n : Nat) (s : State) : Out :=
  match s.pack r with
  | none => .next s
  | some p =>
    match p.c.deferred[n]? with
    | none => .next s
    | some d => if d.kind == .sfu && d.ready ≤ s.now then .next (s.deliver r p n d) else .next s

/-! ### Store slots, line writes and receipts -/

/-- Some release, fence or CPY start of the core waits for an access beyond .core (R197). -/
def Core.awaited (c : Core) (u : Nat) : Bool :=
  let in_ (k : Cond) : Bool := k.sc != .core && k.uids.contains u
  c.outbound.any (fun t => t.conds.any in_) || c.copies.any (fun e => in_ e.2.cond) ||
  c.wake.any (fun e => e.2.conds.any in_) ||
  c.packs.any fun e => e.2.c.holds.any in_ || (match e.2.c.wait with | some w => w.sc != .core && w.uids.contains u | none => false)

/-- A store slot closes and sends its write (R197): after 64 ck, or early when it is full, when a release waits for one of
its stores, when a load of the line has missed, or when slots run out. -/
def execStoreSlotClose (core n : Nat) (s : State) : Out :=
  let c := s.core core
  match c.slots.find n with
  | none => .next s
  | some sl =>
    let early := sl.mask == fullMask ||
      sl.entries.any (fun i => match c.wake.find i with | some w => c.awaited w.uid | none => false) ||
      c.slots.any (fun e => e.2.kind == .load && e.2.asid == sl.asid && e.2.line == sl.line) || c.slots.length ≥ 224
    if sl.kind != .store || !(early || sl.opened + 64 ≤ s.now) then .next s
    else
      .next (s.closeStore core n sl)

/-- One more probe of a write to a line stands unanswered (R188). -/
def State.probe (s : State) (asid line : Nat) (colour : Option Nat) : State :=
  match s.l2 asid line (s.lineColour asid (line * 64) colour) with
  | some l => s.putL2 { l with probes := l.probes + 1 }
  | none => s

/-- A line write reaches its home slice and takes its place in the coherence order (R172, R188): its bytes stand in the
line, whose probe is unanswered. Writes of one core to one line arrive in order, and after what R169 puts before them. -/
def execLineWriteArrival (core n : Nat) (s : State) : Out :=
  let c := s.core core
  match c.flights[n]? with
  | none => .next s
  | some f =>
    let earlier := (c.flights.take n).any fun g => g.st == .sent && g.asid == f.asid && g.line == f.line && g.colour == f.colour
    let blocked := f.entries.any fun i => match c.wake.find i with
      | some w => c.loadBefore (bearingSerial w.bearing) (bearingLane w.bearing) w.uid w.va ||
          c.atomBefore (bearingSerial w.bearing) (bearingLane w.bearing) w.uid w.va
      | none => false
    if f.st != .sent || earlier || blocked then .next s
    else
      let s1 := s.homeWrite f.asid f.line f.data f.mask f.colour
      let s2 := (s1.probe f.asid f.line f.colour).fresh 1
      .next (s2.modCore core fun k =>
        { k with flights := k.flights.set n { f with st := .arrived, seq := s.uid }
                 wake := k.wake.map fun e => if f.entries.contains e.1 then (e.1, { e.2 with applied := true, seq := s.uid }) else e })

/-- The record handle of a store or copy record (R316). -/
def recordHandle (copy : Bool) (core entry : Nat) : Nat := (if copy then 2 ^ 17 else 0) + core * 2 ^ 9 + entry

/-- The eight words of a fault token of cause 32 or 33 (R311). -/
def faultPay (cause kind handle : Nat) (bearing : DWord) (va : Nat) (tag : DWord) : List Word :=
  [BitVec.ofNat 32 handle, BitVec.ofNat 32 (kind * 256 + cause), bearing.setWidth 32, (bearing >>> 32).setWidth 32,
   BitVec.ofNat 32 va, BitVec.ofNat 32 (va / 2 ^ 32), tag.setWidth 32, (tag >>> 32).setWidth 32]

/-- A probe of a line answered: one fewer unanswered, where its write had been counted, and held or not (R188). -/
def State.answerProbe (s : State) (asid line : Nat) (colour : Option Nat) (counted held : Bool) : State :=
  match s.l2 asid line (s.lineColour asid (line * 64) colour) with
  | some l => s.putL2 { l with probes := if counted then l.probes - 1 else l.probes, held := l.held || held }
  | none => if held then s.putL2 { L2Line.new asid line (s.lineColour asid (line * 64) colour) with held := true } else s

/-- The fault token of a store record (R311, R314). -/
def State.storeFaultTok (s : State) (core entry : Nat) (w : Wake) : State :=
  s.raiseAtCore core w.ctx false (faultPay 32 w.kind (recordHandle false core entry) w.bearing w.va w.tag) w.bearing (2 ^ 24)

/-- An entry's receipt returns as a fault (R314): the record is written and a fault token sent, but not while the context
is being cut (R350 step 4); of a context that ends the entry is freed without a token (R358). -/
def State.faultEntry (s : State) (core entry kind : Nat) : State :=
  match (s.core core).wake.find entry with
  | none => s
  | some w =>
    let s1 := s.modCore core fun k => { k with wake := k.wake.put entry { w with st := .faulted, kind, chrono := s.now } }
    match s.ctx w.ctx with
    | some x => if x.st = .cutting then s1
      else if x.st = .ending then s.modCore core fun k => { k with wake := k.wake.del entry }
      else s1.storeFaultTok core entry { w with kind }
    | none => s1

/-- Bytes of a write that stands at a place in a line's coherence order leave for host memory (R172, R173; log 14): not those that a later
write of the line has sent there before. The home slice keeps the line while it is held or a probe of it is unanswered, with a note of the
write, and keeps no copy after that. -/
def State.hostBytes (s : State) (asid line : Nat) (colour : Option Nat) (pa : Nat) (data : Sparse 8) (mask seq : Nat) : State :=
  match s.l2 asid line (s.lineColour asid (line * 64) colour) with
  | none => (bitsOf mask 64).foldl (fun t i => t.physWrite (pa + i) [Sparse.get i data]) s
  | some l =>
    let newer := (l.posted.filter fun e => seq < e.1).foldl (fun a e => a ||| e.2) 0
    let s1 := (bitsOf (mask &&& (fullMask ^^^ newer)) 64).foldl (fun t i => t.physWrite (pa + i) [Sparse.get i data]) s
    let s2 := if l.poison then s1.sendEp pa 64 else s1
    if l.probes = 0 && !l.held
    then { s2 with mem := { s2.mem with l2 := s2.mem.l2.filter fun x => !(x.asid == asid && x.line == line && x.colour == l.colour) } }
    else s2.putL2 { l with posted := l.posted ++ [(seq, mask)] }

/-- The line of a RED whose REDs have acted on the bytes of host memory (R188), and its bytes. -/
def State.settledHost (s : State) (asid line : Nat) (colour : Option Nat) (pa : Nat) : State × Sparse 8 :=
  match s.l2 asid line (s.lineColour asid (line * 64) colour) with
  | none => (s, Sparse.setRun 0 (s.physRead pa 64) [])
  | some l => let l1 := s.settleLine l pa; (s.putL2 l1, l1.data)

/-- The bytes of a write whose page is host memory leave for the host (R173; log 14). Its stores are performed at .sys only as the host
completes the write (R173, R200): the write stands posted until then. -/
def State.postHost (s : State) (core : Nat) (f : Flight) (pa : Nat) (uids : List (Nat × Nat)) : State :=
  if (paHost pa).isSome then
    let q := if f.slot.isSome then s.settledHost f.asid f.line f.colour pa else (s, f.data)
    let s2 := q.1.hostBytes f.asid f.line f.colour pa q.2 f.mask f.seq
    s2.modCore core fun k => { k with flights := k.flights ++ [{ f with st := .posted, data := [], mask := 0, entries := [], uids, slot := none }] }
  else s

/-- The harbour unit's answer to a line write returns (R173, R314): clean receipts free the entries it covers; a fault
holds the line and makes each entry a record. A RED's collector slot frees with it (R197). For a write that stands posted, it is the host that has completed it. -/
def execStoreReceipt (core n : Nat) (s : State) : Out :=
  let c := s.core core
  match c.flights[n]? with
  | none => .next s
  | some f =>
    if f.st = .sent then .next s
    else if f.st = .posted then .next (s.modCore core fun k => { k with flights := k.flights.eraseIdx n })
    else
      let uids := f.entries.filterMap fun i => (c.wake.find i).map fun w => (w.uid, bearingSerial w.bearing)
      let red := f.entries.any fun i => match c.wake.find i with | some w => w.red.isSome | none => false
      let probed := f.mask != 0
      let s0 := s.modCore core fun k => { k with flights := k.flights.eraseIdx n
                                                 slots := match f.slot with | some m => k.slots.del m | none => k.slots }
      let free (t : State) : State := t.modCore core fun k => { k with wake := k.wake.filter fun e => !f.entries.contains e.1 }
      let answer (t : State) (held : Bool) : State :=
        if probed || held then t.answerProbe f.asid f.line f.colour probed held else t
      if f.st = .clean then .next (free (answer s0 false))
      else
        let fail (k : Nat) : State := f.entries.foldl (fun t i => t.faultEntry core i k) (answer s0 true)
        match s.translate f.asid (f.line * 64) (if red then .atomic else .write) f.colour with
        | .ok pa at_ => .next (free (((answer s0 false).touch f.asid (f.line * 64) .write at_).postHost core f pa uids))
        | .fault k => .next (fail k)
        | .recipe _ _ => .next (fail 3)

/-- The store slot of a line holds a byte of an access from a store that issued later: the byte would keep that store's value (R197), so
the access is performed only after the slot has sent its write. -/
def Core.laterStore (c : Core) (w : Wake) (key : Option Nat) : Bool :=
  match c.storeSlot w.asid (w.va / 64) key with
  | none => false
  | some (_, sl) => sl.entries.any fun i => match c.wake.find i with
    | some x => w.uid < x.uid && x.va < w.va + w.size && w.va < x.va + x.size
    | none => false

/-- The hold of a store behind release fences ends (R180, R200): it is performed at .core; a RED goes to the home slice, and its core
drops its L1 copy of the line (R174 step 6). A new slot leaves the kept ones to the packs they are kept for (R199). -/
def execStoreHoldRelease (core n : Nat) (s : State) : Out :=
  let c := s.core core
  match c.wake.find n with
  | none => .next s
  | some w =>
    let key := s.lineColour w.asid w.va w.colour
    let full := c.slots.length + (if w.kept then 1 else 33) > 256
    if w.st != .held || !(w.conds.all s.met) || c.heldBefore w then .next s
    else
      let w1 := { w with conds := [] }
      match w.red with
      | none =>
        if ((c.storeSlot w.asid (w.va / 64) key).isNone && full) || c.laterStore w key then .next s
        else .next (s.performStore core n w1)
      | some (op, ty) =>
        if full then .next s
        else
          let a : AtomReq := { uid := w.uid, serial := bearingSerial w.bearing, lane := bearingLane w.bearing, addr := w.va,
                               size := w.size, op, ty := some ty, arg := w.data, cmp := 0, wake := some n, perf := s.uid }
          let q := (s.fresh 1).openSlot core (s.newSlot (.atom a) w.asid (w.va / 64) key)
          .next (q.1.modCore core fun k =>
            { k with wake := k.wake.put n { w1 with st := .pending, perf := s.uid }
                     l1 := k.l1.filter fun l => !(l.asid == w.asid && l.line == w.va / 64) })

/-! ### Evictions -/

/-- A cache gives up a line (R174, R188): an L1 copy is dropped; a line of a home slice goes to HBM unless it is held or a
probe of it is unanswered; a private line goes to the private pool, which changes no value (R27). -/
def execCacheEviction (site : EvictSite) (s : State) : Out :=
  match site with
  | .l1 core asid line =>
    .next (s.modCore core fun c => { c with l1 := c.l1.filter fun l => !(l.asid == asid && l.line == line) })
  | .l2 asid line =>
    match s.mem.l2.find? fun l => l.asid == asid && l.line == line && !l.held && l.probes == 0 with
    | none => .next s
    | some l => .next (s.giveUp l)
  | .priv _ _ => .next s

end Sys2Proof.Machine
end

