-- ==== Sys2Proof/Machine/Atomics.lean ====
section
/-! DEFINITION. Global atomics at issue and at the home slice, and frame atomics (R181 to R183, R205, R206). -/

namespace Sys2Proof.Machine

/-- The new value of an atomic, with its classes (R205); `none` stands for .f32, whose .min and .max flush as FMIN and FMAX do (R123). -/
def atomNew (ftz : Bool) (op : AtomOp) (ty : Option IntTy) (old arg cmp : Nat) : Nat × Nat :=
  match ty with
  | none =>
    let r : FR := match op with
      | .min => minMax f32 ftz false old arg
      | .max => minMax f32 ftz true old arg
      | _ => ({ fmt := f32, rm := .rne, ftz := false } : FCfg).add (f32.val false old) (f32.val false arg)
    (r.bits, r.cls)
  | some t => (atomInt op t old arg cmp, 0)

/-- A lane of an atomic sent to its home slice: one collector slot, and no L1 copy of the line on its core (R174 step 6, R197). -/
def State.sendAtom (s : State) (p : Pack) (a : AtomReq) : State × Nat :=
  let asid := s.asid p.id.ctx
  let key := s.lineColour asid a.addr p.id.colour
  let q := s.openSlot s.cur.core (s.newSlot (.atom a) asid (a.addr / 64) key)
  (q.1.modCore s.cur.core fun c => { c with l1 := c.l1.filter fun l => !(l.asid == asid && l.line == a.addr / 64) }, q.2)

/-- An atomic orders what came before it. -/
def AtomOrder.releases (o : AtomOrder) : Bool := o == .rel || o == .ar
/-- An atomic orders what comes after it. -/
def AtomOrder.acquires (o : AtomOrder) : Bool := o == .acq || o == .ar

/-- The scope of an atomic, and whether it acquires. -/
def atomAcq : Instr → Option Scope
  | .atom _ _ sc ord _ _ _ => if AtomOrder.acquires ord then some sc else none
  | .fatom _ sc ord _ _ _ => if AtomOrder.acquires ord then some sc else none
  | _ => none

/-- An atomic that acquires ends its park when its result has bound (R182): at .die or wider the L1 global lines are dropped,
in 2 ck, and the pack inherits what its core has not performed. -/
def finishAtom (s : State) (r : PackRef) (p : Pack) (w : Wait) : State :=
  if s.ready w then
    match atomAcq w.instr with
    | none => s.setPack r (p.unpark 2 s.now)
    | some sc =>
      let p1 := p.inherit (s.unperformed r.core (s.asid p.id.ctx) sc)
      if sc = .core then s.setPack r (p1.unpark 2 s.now) else (s.acquireDrop r.core).setPack r (p1.unpark 2 (s.now + 2))
  else s.setPack r p

/-- ATOM and FATOM at issue (R180 to R182, R193, R196, R199, R205, R306). Where a lane traps, the lanes that pass still acquire, as their
result arrives in the drain (R182, R194). -/
def atomIssue (s : State) (i : Instr) (op : AtomOp) (ty : Option IntTy) (sc : Scope) (ord : AtomOrder) (d a : Nat) (b : BOp) : Out :=
  issue s i fun p =>
    let wide := match ty with | some t => t.wide | none => false
    let n := if wide then 8 else 4
    let accs := p.lanes.map fun L => (L, p.addr L (p.v2 a L).toNat)
    let chk := fun _ va => s.globalCause p 3 va n
    let good := passing accs chk
    let bad := failing accs chk
    let held := !(s.liveHolds p).isEmpty || (AtomOrder.releases ord && !(s.met { sc, uids := s.covered s.cur p }))
    if !p.deferRoom then s.deferWait p
    else if held || !roomFor p.id 256 (s.core s.cur.core).slots.length good.length 32 then s
    else
      let uid := s.uid
      let req (e : Nat × Nat) : AtomReq :=
        { uid, serial := p.id.serial, lane := e.1, addr := e.2, size := n, op, ty, arg := p.opB wide b e.1, cmp := p.opA wide d e.1,
          wake := none, ftz := p.ftz, perf := uid }
      let step (q : State × List DefLane) (e : Nat × Nat) : State × List DefLane :=
        let x := q.1.sendAtom p (req e)
        (x.1, q.2 ++ [{ lane := e.1, addr := e.2, res := .wait x.2 }])
      let q := good.foldl step ((if AtomOrder.releases ord then s.share s.cur p sc else s).fresh 1, [])
      let w := s.wordsAt p p.idx
      let dfr : Deferred := { uid, kind := .atom, idx := p.idx, w0 := w.1, w1 := w.2, uni := false, d, size := n, sext := false,
                              lanes := q.2, cls := [], trapen := p.r.trapen, ready := s.now,
                              acq := if AtomOrder.acquires ord && !bad.isEmpty then some sc else none }
      let p1 := if good.isEmpty then p else p.defer dfr
      let s1 := q.1.occupy s.cur (occLines accs.length)
      match bad with
      | [] =>
        if AtomOrder.acquires ord then
          let wt : Wait := { instr := i, uids := [uid], sc := .core, phase := 0, info := 0 }
          let p2 := { p1 with c := { p1.c with wait := some wt } }
          finishAtom (s1.setPack s.cur p2) s.cur p2 wt
        else s1.setPack s.cur (p1.advance 2)
      | ls => s1.trapIssue s.cur p1 2 ls

/-- ATOM (R205). -/
def execAtom (op : AtomOp) (t : IntTy) (sc : Scope) (ord : AtomOrder) (d a : Nat) (b : BOp) (s : State) : Out :=
  atomIssue s (.atom op t sc ord d a b) op (some t) sc ord d a b
/-- FATOM (R205). -/
def execFatom (op : AtomOp) (sc : Scope) (ord : AtomOrder) (d a : Nat) (b : BOp) (s : State) : Out :=
  atomIssue s (.fatom op sc ord d a b) op none sc ord d a b

/-- One lane of a RED: its wake-buffer entry, held behind the pack's release fences, or behind an earlier held store of the pack to the
line (R169), or on its way to the home slice (R180, R181, R200). Its core drops the L1 copy of the line (R174 step 6). -/
def State.redLane (s : State) (p : Pack) (op : AtomOp) (t : IntTy) (holds : List Cond) (e : Nat × Nat) (arg : Nat) : State :=
  let core := s.cur.core
  let entry := ((s.core core).wake.free 512).getD 511
  let w : Wake := { uid := s.uid, ctx := p.id.ctx, asid := s.asid p.id.ctx, va := e.2, size := tyBytes t, data := arg,
                    red := some (op, t), tag := p.id.tags.getD e.1 0, slot := p.id.slot, bearing := p.bearing s.cur p.idx e.1,
                    conds := holds, st := .held, kind := 0, chrono := 0, colour := p.id.colour,
                    applied := false, shared := false, kept := p.id.reserved }
  let go := holds.isEmpty && !(s.core core).heldBefore w
  let s1 := (s.fresh 1).modCore core fun c =>
    { c with wake := c.wake.put entry (if go then { w with st := .pending, perf := s.uid } else w)
             l1 := c.l1.filter fun l => !(l.asid == w.asid && l.line == e.2 / 64) }
  if go then
    (s1.sendAtom p { uid := s.uid, serial := p.id.serial, lane := e.1, addr := e.2, size := tyBytes t, op, ty := some t, arg, cmp := 0,
                     wake := some entry, perf := s.uid }).1
  else s1

/-- RED (R181, R182, R200, R201, R205): with order .rel it acts after a release fence. -/
def execRed (op : AtomOp) (t : IntTy) (sc : Scope) (ord : AtomOrder) (a : Nat) (b : BOp) (s : State) : Out :=
  issue s (.red op t sc ord a b) fun p =>
    let n := tyBytes t
    let accs := p.lanes.map fun L => (L, p.addr L (p.v2 a L).toNat)
    let chk := fun _ va => s.globalCause p 2 va n
    let good := passing accs chk
    let c := s.core s.cur.core
    let p1 := if AtomOrder.releases ord then s.addHold s.cur p sc else { p with c := { p.c with holds := s.liveHolds p } }
    let holds := s.liveHolds p1
    let slots := if holds.isEmpty then good.length else 0
    if !roomFor p.id 512 c.wake.length good.length 32 || !roomFor p.id 256 c.slots.length slots 32 then s
    else
      let s1 := good.foldl (fun (u : State) e => u.redLane p op t holds e (p.opB t.wide b e.1))
        (if AtomOrder.releases ord then s.share s.cur p sc else s)
      let s2 := s1.occupy s.cur (occLines accs.length)
      match failing accs chk with
      | [] => s2.setPack s.cur (p1.advance 2)
      | ls => s2.trapIssue s.cur p1 2 ls

/-- The classes of a lane joined to its deferred result. -/
def Core.addCls (c : Core) (uid lane cls : Nat) : Core :=
  let f (d : Deferred) : Deferred := if d.uid = uid then { d with cls := d.cls ++ [(lane, cls)] } else d
  if cls = 0 then c
  else { c with packs := c.packs.map fun e => (e.1, { e.2 with c := { e.2.c with deferred := e.2.c.deferred.map f } }) }

/-- An earlier atomic of the same lane to the line stands before this one (R169). -/
def Core.atomEarlier (c : Core) (a : AtomReq) : Bool :=
  c.slots.any fun e => match e.2.kind with
    | .atom x => x.serial == a.serial && x.lane == a.lane && x.uid < a.uid && sameLine x.addr a.addr
    | _ => false

/-- A RED acts at its home slice (R174 step 6, R205): on the bytes that the slice reads where the harbour unit admits it. Where it does not, the
RED takes its place in the coherence order as a store does (R188): it acts on the bytes that the line holds, or waits in the line for those that
are absent. -/
def State.redHome (s : State) (asid line : Nat) (a : AtomReq) (t : IntTy) (colour : Option Nat) : State :=
  let off := a.addr % 64
  let write (u : State) (old : Nat) : State :=
    u.homeWrite asid line (lineData off (leBytes a.size (atomInt a.op t old a.arg a.cmp))) (byteMask off a.size) colour
  let here : State :=
    match s.l2 asid line (s.lineColour asid (line * 64) colour) with
    | some l =>
      if l.valid &&& byteMask off a.size = byteMask off a.size then write s (leNat (Sparse.getRun l.data off a.size))
      else s.putL2 (l.await a.op t off a.arg)
    | none => s.modL2 asid line colour fun l => l.await a.op t off a.arg
  match s.translate asid a.addr .atomic colour with
  | .ok _ at_ => match s.homeRead asid a.addr a.size colour .atomic with
    | (s1, .data bs _) => write (s1.touch asid a.addr .atomic at_) (leNat bs)
    | _ => here
  | _ => here

/-- A RED has reached its home slice: its line is probed, its core's L1 copy goes, and its collector slot waits for its receipt (R174, R188,
R197). -/
def State.redArrive (s : State) (core n : Nat) (sl : Slot) (a : AtomReq) (w : Nat) (t : IntTy) : State :=
  let s1 := ((s.redHome sl.asid sl.line a t sl.colour).probe sl.asid sl.line sl.colour).fresh 1
  s1.modCore core fun k =>
    { k with slots := k.slots.upd n fun x => { x with kind := .done }
             flights := k.flights ++ [{ asid := sl.asid, line := sl.line, data := [], mask := byteMask (a.addr % 64) a.size, entries := [w],
                                        colour := sl.colour, st := .arrived, seq := s.uid, slot := some n }]
             wake := k.wake.upd w fun e => { e with applied := true, seq := s.uid }
             l1 := k.l1.filter fun l => !(l.asid == sl.asid && l.line == sl.line) }

/-- The line is of a FAILED recipe tile (R330). -/
def State.failedTile (s : State) (asid line : Nat) : Bool :=
  match s.ctxOfAsid asid with
  | some (_, x) => x.recipes.any fun e => e.2.st == .failed && e.2.tile == line * 64 / 2 ^ 16 * 2 ^ 16
  | none => false

/-- What an atomic with return gives that its page refuses (R195, R332): on a line of a FAILED tile the fault of its poison. -/
def State.atomFault (s : State) (sl : Slot) (a : AtomReq) (kind : Nat) : LaneRes :=
  if s.failedTile sl.asid sl.line then
    match s.homeRead sl.asid a.addr a.size sl.colour .read with
    | (_, .data _ true) => .fail 10 0
    | _ => .fail 9 kind
  else .fail 9 kind

/-- HOME_SLICE_ATOMIC (R174 step 6, R182, R189, R195, R205, R323): the atomic in a slot reads, combines and writes at its home
slice in one step. ATOM and FATOM bind; a RED's receipt follows. -/
def execHomeSliceAtomic (core n : Nat) (s : State) : Out :=
  let c := s.core core
  match c.slots.find n with
  | none => .next s
  | some sl =>
    match sl.kind with
    | .atom a =>
      if sl.parked || c.storeBefore sl.asid a.serial a.lane a.uid a.perf a.addr a.size || c.loadBefore a.serial a.lane a.uid a.addr ||
          c.atomEarlier a then .next s
      else
        let done (t : State) (r : LaneRes) : State := t.modCore core fun k => { (k.resolve n fun _ => r) with slots := k.slots.del n }
        match a.wake, a.ty with
        | some w, some t => .next (s.redArrive core n sl a w t)
        | _, _ =>
          match s.translate sl.asid a.addr .atomic sl.colour with
          | .fault k => .next (done s (s.atomFault sl a k))
          | .recipe ctx rix =>
            let s1 := s.killReaders core (c.waiters n)
            if readersEnd (c.waiters n) then .next (s1.modCore core fun k => { k with slots := k.slots.del n })
            else .next ((s1.modCore core fun k => { k with slots := k.slots.upd n fun x => { x with parked := true } }).noteMiss
              sl.asid sl.line ctx rix)
          | .ok _ at_ =>
            match s.homeRead sl.asid a.addr a.size sl.colour .atomic with
            | (s1, .data bs poison) =>
              if poison then .next (done s1 (.fail 10 0))
              else
                let old := leNat bs
                let q := atomNew a.ftz a.op a.ty old a.arg a.cmp
                let off := a.addr % 64
                let s2 := (s1.touch sl.asid a.addr .atomic at_).homeWrite sl.asid sl.line (lineData off (leBytes a.size q.1))
                  (byteMask off a.size) sl.colour
                .next (done (s2.modCore core fun k =>
                  { (k.addCls a.uid a.lane q.2) with l1 := k.l1.filter fun l => !(l.asid == sl.asid && l.line == sl.line) }) (.bound old))
            | (s1, .fault k) => .next (done s1 (.fail 9 k))
            | (s1, .recipe _ _) => .next s1
    | _ => .next s

/-- The new word of a frame atomic with its classes (R206). -/
def atomfNew (op : AtomfOp) (old arg cmp : Nat) : Nat × Nat :=
  match op with
  | .addI32 => atomNew false .add (some .i32) old arg cmp
  | .minI32 => atomNew false .min (some .i32) old arg cmp
  | .maxI32 => atomNew false .max (some .i32) old arg cmp
  | .minN32 => atomNew false .min (some .n32) old arg cmp
  | .maxN32 => atomNew false .max (some .n32) old arg cmp
  | .and => atomNew false .and (some .i32) old arg cmp
  | .or => atomNew false .or (some .i32) old arg cmp
  | .xor => atomNew false .xor (some .i32) old arg cmp
  | .swap => atomNew false .swap (some .i32) old arg cmp
  | .cas => atomNew false .cas (some .i32) old arg cmp
  | .addF32 => atomNew false .add none old arg cmp

/-- What a frame atomic has done so far: the pack, with the lanes that read poison and the classes of lanes. -/
structure FrameAtoms where
  pack : Pack
  bad  : List RepLane
  cls  : List (Nat × Nat)
deriving DecidableEq, Repr

/-- One lane of a frame atomic, whose address has passed its checks (R183, R206). -/
def FrameAtoms.step (op : AtomfOp) (d : Nat) (arg cmp : Nat → Nat) (q : FrameAtoms) (e : Nat × Nat) : FrameAtoms :=
  let p := q.pack
  let key := e.2 / 4
  if key % 32 ≥ p.id.n then { q with pack := p.setV d e.1 0 }
  else
    let old := Sparse.get key p.m.frame
    if p.m.frameBad.contains key then
      { q with pack := p.setV d e.1 old, bad := q.bad ++ [{ lane := e.1, cause := 11, detail := 0, addr := e.2 }] }
    else
      let r := atomfNew op old.toNat (arg e.1) (cmp e.1)
      { q with pack := { (p.setV d e.1 old) with m := { p.m with frame := Sparse.set key (BitVec.ofNat 32 r.1) p.m.frame } }
               cls := q.cls ++ [(e.1, r.2)] }

/-- ATOMF (R183, R193, R194, R206): lanes in ascending position; failing lanes and lanes with an enabled class share the
instruction's entry. Classes are committed, and their trap taken, at the last ck of its occupancy of 2. -/
def execAtomf (op : AtomfOp) (d a : Nat) (b : BOp) (s : State) : Out :=
  issue s (.atomf op d a b) fun p =>
    let words := s.frameWords p.id.slot
    let accs := p.lanes.map fun L => (L, p.addrView L (p.v a L).toNat)
    let good := viewPassing accs 5 words 4
    let q := good.foldl (FrameAtoms.step op d (fun L => (p.b b L).toNat) (fun L => (p.v d L).toNat)) { pack := p, bad := [], cls := [] }
    let arith := arithLanes (p.accessAddr (.atomf op d a b)) (enabled p.r.trapen) q.cls
    s.completeWith q.pack 1 2 (op == .addF32) (orCls q.cls) (sortBy (fun l => l.lane) (viewFailing accs 5 words 4 ++ q.bad ++ arith))

end Sys2Proof.Machine
end

