-- ==== Sys2Proof/Machine/CopyEngine.lean ====
section
/-! DEFINITION. Copies: CPY at issue (R208, R209) and the copy engine's events (R184 to R186, R210 to R212). -/

namespace Sys2Proof.Machine

/-! ### Issue -/

/-- One copy as a lane forms it (R208). -/
structure CopyArgs where
  src : Nat
  dst : Nat
  len : Nat
  aux : Nat
deriving DecidableEq, Repr

/-- The operands of a lane's copy; a replay gives the global range that R309 records (R318). -/
def Pack.copyArgs (p : Pack) (mode : CpyMode) (d a : Nat) (b : BOp) (aux L : Nat) : CopyArgs :=
  let len := (p.b b L).toNat
  match mode with
  | .f => { src := p.addr L (p.v2 a L).toNat, dst := (p.v d L).toNat, len, aux := 0 }
  | .h => { src := (p.v a L).toNat, dst := p.addr L (p.v2 d L).toNat, len, aux := 0 }
  | .t => { src := p.addr L (p.v2 a L).toNat, dst := d, len, aux := aux % 16 }
  | .c => { src := p.addr L (p.v2 a L).toNat, dst := (p.v d L).toNat, len, aux := 0 }
  | .m => { src := p.addr L (p.v2 a L).toNat, dst := (p.v2 d L).toNat, len, aux := 0 }
  | .gather => { src := p.addr L (p.v2 a L).toNat, dst := (p.v d L).toNat, len, aux := (p.s2 aux).toNat }
  | .remote => { src := p.addr L (p.v2 a L).toNat, dst := (p.v2 d L).toNat, len, aux := (p.s aux).toNat % 2 ^ 20 }

/-- The greatest length of a mode: bytes, or indices for .gather (R208). -/
def copyLimit : CpyMode → Nat
  | .f | .h => 524288
  | .t => 2 ^ 32
  | .c => 262144
  | .m | .remote => 16777216
  | .gather => 4096

/-- The bytes a copy writes to its destination (R209, R212). -/
def CopyArgs.bytes (c : CopyArgs) (mode : CpyMode) (es : Nat) : Nat :=
  if mode = .gather then (c.len * 2 ^ es + 3) / 4 * 4 else c.len

/-- A frame range lies within the block's frame words (R193, R209). -/
def frameRange (words ea len : Nat) : Bool := len = 0 || (ea + len - 1) / 128 < words

/-- The mode a copy acts in: a .remote whose node is this device acts as .m (R210). -/
def State.copyMode (s : State) (mode : CpyMode) (c : CopyArgs) : CpyMode := if mode = .remote && c.aux = s.io.node then .m else mode

/-- The first check of R209 that a copy fails: its cause. An empty constant range is tested by its end, and an empty frame range passes at
any offset: DESIGN CHOICE (log 60). -/
def State.copyCause (s : State) (p : Pack) (mode : CpyMode) (es : Nat) (c : CopyArgs) : Option Nat :=
  let words := s.frameWords p.id.slot
  let n := c.bytes mode es
  let aligned := match mode with
    | .f | .c => c.src % 4 == 0 && c.dst % 4 == 0 && c.len % 4 == 0
    | .h | .m | .remote => c.src % 4 == 0 && c.dst % 4 == 0 && c.len % 4 == 0
    | .t => c.src % 4 == 0 && c.len % 4 == 0
    | .gather => c.dst % 4 == 0 && c.src % 2 ^ es == 0 && c.aux % 4 == 0
  let td := Desc.ofWords (p.tdw c.aux 0).toNat (p.tdw c.aux 1).toNat
  if c.len > copyLimit mode then some 22
  else if !aligned then some 4
  else if (mode == .f || mode == .gather) && !frameRange words c.dst n then some 5
  else if mode == .h && !frameRange words c.src n then some 5
  else if mode == .c && c.dst + c.len > s.constBytes p.id.slot then some 7
  else if mode == .t && !(td.v && c.len ≤ td.ext) then some 12
  else
    let ok := match mode with
      | .f | .t | .c | .remote => s.permits p 1 c.src c.len
      | .h => s.permits p 2 c.dst c.len
      | .m => s.permits p 1 c.src c.len && s.permits p 2 c.dst c.len
      | .gather => s.permits p 1 c.aux (c.len * 4)
    if ok then none else some 8

/-- The global range that a report entry records for a copy (R309). -/
def copyAddr (mode : CpyMode) (c : CopyArgs) : Nat := if mode = .h then c.dst else c.src

/-- The entries of a core's copy queue in which records stand whose packs are on other cores (R356). -/
def State.copyGuests (s : State) (core : Nat) : List Nat :=
  s.cores.flatMap fun e => e.2.copies.filterMap fun q => match q.2.at_ with | some x => if x.1 = core then some x.2 else none | none => none

/-- The entries in use of a core's copy queue (R209). -/
def State.copyCount (s : State) (core : Nat) : Nat := ((s.core core).copies.filter fun e => e.1 < 64).length + (s.copyGuests core).length

/-- The lowest free entry of a core's copy queue (R209). -/
def State.copyFree (s : State) (core : Nat) : Option Nat :=
  (List.range 64).find? fun i => ((s.core core).copies.find i).isNone && !(s.copyGuests core).contains i

/-- Where the copy of an entry of a core's queue is kept: its core and number (R316). -/
def State.copyPlace (s : State) (core n : Nat) : Nat × Nat :=
  match (s.core core).copies.find n with
  | some _ => (core, n)
  | none => (s.cores.findSome? fun e => (e.2.copies.find? fun q => q.2.at_ == some (core, n)).map fun q => (e.1, q.1)).getD (core, n)

/-- A copy put in the copy queue (R209), waiting for its issue-time release (R184); a CPY.t joins the open batch (R150). -/
def State.startCopy (s : State) (p : Pack) (mode : CpyMode) (es : Nat) (sc : Scope) (L : Nat) (c : CopyArgs) (port block : Nat) :
    State × Pack :=
  let core := s.cur.core
  let q : Copy :=
    { uid := s.uid, ctx := p.id.ctx, mode, serial := p.id.serial, pipe := s.cur.pipe,
      tile := if mode = .t then p.m.tiles.getD c.dst 0 else 0, batch := p.c.bopen, src := c.src, dst := c.dst, len := c.len,
      es, aux := c.aux, img := s.runImage p.id.slot, slot := block, port, tag := p.id.tags.getD L 0, bslot := p.id.slot,
      bearing := p.bearing s.cur p.idx L, cond := { sc, uids := s.covered s.cur p }, st := .waiting, done := [], bad := [],
      poison := false, handler := p.id.reserved, colour := p.id.colour, chrono := 0,
      pkts := [] }
  let n := (s.copyFree core).getD 63
  let bs := if mode = .t then
      (if p.c.batches.any (fun b => b.num == p.c.bopen)
        then p.c.batches.map fun b => if b.num = p.c.bopen then { b with members := b.members + 1 } else b
        else p.c.batches ++ [{ num := p.c.bopen, members := 1, cls := 0, psc := false, closed := false, done := false }])
    else p.c.batches
  ((s.fresh 1).modCore core fun k => { k with copies := k.copies.put n q }, { p with c := { p.c with batches := bs } })

/-- CPY (R208, R209): copies that pass start, lanes that fail trap. -/
def execCpy (mode : CpyMode) (es : Nat) (once : Bool) (sc : Scope) (d a : Nat) (b : BOp) (aux port block : Nat) (s : State) : Out :=
  let i : Instr := .cpy mode es once sc d a b aux port block
  issue s i fun p =>
    let ls := if once then p.lanes.take 1 else p.lanes
    let accs := ls.map fun L => (L, p.copyArgs mode d a b aux L)
    let good := accs.filter fun e => (s.copyCause p (s.copyMode mode e.2) es e.2).isNone
    let bad := accs.filterMap fun e => (s.copyCause p (s.copyMode mode e.2) es e.2).map fun c =>
      ({ lane := e.1, cause := c, detail := 0, addr := copyAddr mode e.2 } : RepLane)
    if !roomFor p.id 64 (s.copyCount s.cur.core) good.length 8 then s
    else
      let t := good.foldl (fun q e => q.1.startCopy q.2 (s.copyMode mode e.2) es sc e.1 e.2 port block) (s, p)
      let rep := if once then bad.flatMap fun l => p.lanes.map fun L => { l with lane := L } else bad
      t.1.finishIssue t.2 2 1 rep

/-! ### Moving words -/

/-- What a read at a source gives: its bits and mark, a failure of a kind, or the line of an access that parks at a Retriever. -/
inductive Got where
  | word (v : Nat) (poison : Bool)
  | fail (kind va : Nat)
  | parked (line ctx rix : Nat)
deriving DecidableEq, Repr

/-- The frame view of the pack that issued a copy, with its lanes: of the pack, or kept after END (R211). -/
def State.viewOf (s : State) (core serial : Nat) : Option (Nat × Views) :=
  let c := s.core core
  match c.packs.find? fun e => e.2.id.serial == serial with
  | some e => some (e.2.id.n, e.2.m)
  | none => (c.ghosts.find? fun g => g.serial == serial).map fun g => (g.n, g.m)

/-- A word written in the frame view of a copy's pack; an inactive column is not written (R210). -/
def State.copyFrame (s : State) (core serial ea : Nat) (w : Word) (poison : Bool) : State :=
  let key := ea / 4
  let put (n : Nat) (m : Views) : Views :=
    if key % 32 < n then
      { m with frame := Sparse.set key w m.frame
               frameBad := if poison then addNew key m.frameBad else m.frameBad.filter (· != key) }
    else m
  s.modCore core fun c =>
    { c with packs := c.packs.map fun e => if e.2.id.serial == serial then (e.1, { e.2 with m := put e.2.id.n e.2.m }) else e
             ghosts := c.ghosts.map fun g => if g.serial == serial then { g with m := put g.n g.m } else g }

/-- A global read of a copy within a line: every access of the copy engine is translated, wherever its line stands, and sets A
(R211, R265). -/
def State.copyRead (s : State) (asid va n : Nat) (colour : Option Nat) : State × Got :=
  match s.translate asid va .read colour with
  | .fault k => (s, .fail k va)
  | .recipe c r => (s, .parked (va / 64) c r)
  | .ok _ at_ =>
    match (s.touch asid va .read at_).homeRead asid va n colour .read with
    | (s1, .data bs p) => (s1, .word (leNat bs) p)
    | (s1, .fault k) => (s1, .fail k va)
    | (s1, .recipe c r) => (s1, .parked (va / 64) c r)

/-- A global word written at its home slice, or a failure's kind: the write is translated as a store is, the L1 copy of the
copy's own core is dropped, and poison marks the line, or the TLP to host memory (R184, R211, R326). -/
def State.copyWrite (s : State) (core asid va : Nat) (w : Word) (poison : Bool) (colour : Option Nat) : State × Option Nat :=
  match s.translate asid va .write colour with
  | .fault k => (s, some k)
  | .recipe _ _ => (s, some 3)
  | .ok pa at_ =>
    let s1 := (s.touch asid va .write at_).modCore core fun c =>
      { c with l1 := c.l1.filter fun l => !(l.asid == asid && l.line == va / 64) }
    let bs := leBytes 4 w.toNat
    if (paHost pa).isSome then ((if poison then s1.sendEp pa 4 else s1).physWrite pa bs, none)
    else
      let s2 := s1.homeWrite asid (va / 64) (lineData (va % 64) bs) (byteMask (va % 64) 4) colour
      if poison then
        match s2.l2 asid (va / 64) (s2.lineColour asid va colour) with
        | some l => (s2.putL2 { l with poison := true }, none)
        | none => (s2, none)
      else (s2, none)

/-- A gather of a context may read an element (R193, R211). -/
def State.mayGather (s : State) (q : Copy) (va e : Nat) : Bool :=
  match s.ctx q.ctx with | some c => va + e ≤ 2 ^ 64 && c.allowed false 1 va e | none => false

/-- What a copy has read of the element at a position. -/
def Copy.elem (q : Copy) (i : Nat) : Option GElem := q.elems.find? fun e => e.pos == i
/-- An element as far as it has been read, kept by its copy. -/
def Copy.putElem (q : Copy) (e : GElem) : Copy := { q with elems := (q.elems.filter fun x => x.pos != e.pos) ++ [e] }

/-- An element of a gather read one stage further (R185, R210): first its index, which is read once; then, with the rights of the whole
element, its bytes, which are read at one instant. Where the stage is not done, why not. -/
def State.gatherStage (s : State) (q : Copy) (i : Nat) : State × Copy × Option Got :=
  let asid := s.asid q.ctx
  match q.elem i with
  | none => match s.copyRead asid (q.aux + 4 * i) 4 q.colour with
    | (s1, .word x p) => (s1, q.putElem { pos := i, idx := x, bad := p, val := none }, none)
    | (s1, g) => (s1, q, some g)
  | some e => match e.val with
    | some _ => (s, q, none)
    | none =>
      let n := 2 ^ q.es
      let va := (q.src + e.idx * n) % 2 ^ 64
      if !s.mayGather q va n then (s, q, some (.fail 6 va))
      else match s.copyRead asid va n q.colour with
        | (s1, .word y p) => (s1, q.putElem { e with val := some (y, p) }, none)
        | (s1, g) => (s1, q, some g)

/-- An element of a gather: its bytes with the marks of its index and its line, after the stages that are left. -/
def State.gatherElem (s : State) (q : Copy) (i : Nat) : State × Copy × Got :=
  match s.gatherStage q i with
  | (s1, q1, some g) => (s1, q1, g)
  | (s1, q1, none) => match s1.gatherStage q1 i with
    | (s2, q2, some g) => (s2, q2, g)
    | (s2, q2, none) => match q2.elem i with
      | some { val := some (y, p), bad := b, .. } => (s2, q2, .word y (b || p))
      | _ => (s2, q2, .word 0 false)

/-- Word j of a gather: half of an element of 8 bytes, or the elements that it holds, side by side; past the last one zero (R185, R210). -/
def State.gatherWord (s : State) (q : Copy) (j : Nat) : State × Copy × Got :=
  let e := 2 ^ q.es
  let elem (acc : State × Copy × Got) (off : Nat) : State × Copy × Got :=
    match acc.2.2 with
    | .word w p =>
      let b := j * 4 + off
      if b % e != 0 || b / e ≥ q.len then acc
      else match acc.1.gatherElem acc.2.1 (b / e) with
        | (s1, q1, .word x p1) => (s1, q1, .word (w ||| (x * 2 ^ (8 * off))) (p || p1))
        | r => r
    | _ => acc
  if e = 8 then
    if j / 2 ≥ q.len then (s, q, .word 0 false)
    else match s.gatherElem q (j / 2) with
      | (s1, q1, .word x p) => (s1, q1, .word (x / 2 ^ (32 * (j % 2)) % 2 ^ 32) p)
      | r => r
  else [0, 1, 2, 3].foldl elem (s, q, .word 0 false)

/-- The source word of a copy (R210), with what a gather has read of its elements. -/
def State.copySource (s : State) (core : Nat) (q : Copy) (j : Nat) : State × Copy × Got :=
  match q.mode with
  | .h =>
    let key := (q.src + 4 * j) / 4
    match s.viewOf core q.serial with
    | some (n, m) => (s, q, .word (viewWord n m.frame key).toNat (key % 32 < n && m.frameBad.contains key))
    | none => (s, q, .word 0 false)
  | .gather => s.gatherWord q j
  | _ => let r := s.copyRead (s.asid q.ctx) (q.src + 4 * j) 4 q.colour; (r.1, q, r.2)

/-- A physical tile of a pipeline (R141). -/
def Core.tile (c : Core) (pipe t : Nat) : Tile := ((c.pipe pipe).tiles.find t).getD { data := [], poison := false }
/-- A physical tile written. -/
def Core.setTile (c : Core) (pipe t : Nat) (x : Tile) : Core := c.modPipe pipe fun q => { q with tiles := q.tiles.put t x }

/-- A word put at a copy's destination (R210, R211): the kind of a failure, if it fails. -/
def State.copyDest (s : State) (core : Nat) (q : Copy) (j : Nat) (w : Word) (poison : Bool) : State × Option Nat :=
  match q.mode with
  | .f | .gather => (s.copyFrame core q.serial (q.dst + 4 * j) w poison, none)
  | .t =>
    (s.modCore core fun c =>
      let t := c.tile q.pipe q.tile
      c.setTile q.pipe q.tile { t with data := Sparse.setRun (4 * j) (leBytes 4 w.toNat) t.data }, none)
  | .c =>
    let key := (q.dst + 4 * j) / 4
    (s.modCore core fun c => { c with st := { c.st with
        consts := c.st.consts.put q.img (Sparse.setRun (q.dst + 4 * j) (leBytes 4 w.toNat) ((c.st.consts.find q.img).getD []))
        constBad := let r := c.st.constBad.filter fun e => e != (q.img, key); if poison then r ++ [(q.img, key)] else r } }, none)
  | .h | .m => s.copyWrite core (s.asid q.ctx) (q.dst + 4 * j) w poison q.colour
  | .remote => (s, none)

/-- The slot of the pack with a serial on a core. -/
def State.refOf (s : State) (core serial : Nat) : Option PackRef :=
  ((s.core core).packs.find? fun e => e.2.id.serial == serial).map fun e => { core, pipe := e.1 / 16, slot := e.1 % 16 }

/-- A copy of a recompute reads an undeclared dropped tile (R335): the word is given up, the pack ends, and the recompute fails
with kind 2. -/
def State.undeclared (s : State) (core n j serial c : Nat) : State :=
  let s1 := s.modCore core fun k => { k with copies := k.copies.upd n fun x => { x with done := x.done ++ [j] } }
  match s1.refOf core serial with
  | none => s1.failRegen c 2 0
  | some r => match s1.pack r with
    | some p => (s1.killPack r p).failRegen c 2 0
    | none => s1.failRegen c 2 0

/-- A copy has written every word of a destination line with good data: together one write of all 64 bytes, which clears the poison of
the line (R322; DEDUCED, log 61). -/
def State.wholeLine (s : State) (core : Nat) (q : Copy) (j : Nat) : State :=
  let va := (q.dst + 4 * j) / 64 * 64
  let w0 := (va - q.dst) / 4
  let whole := q.dst ≤ va && va + 64 ≤ q.dst + q.len &&
    (List.range 16).all fun i => q.done.contains (w0 + i) && !(q.marks.contains (w0 + i))
  if (q.mode == .h || q.mode == .m) && whole then
    let asid := s.asid q.ctx
    let s1 := s.clearPoison asid (va / 64) q.colour
    s1.modCore core fun c => { c with l1 := c.l1.map fun l =>
      if l.asid == asid && l.line == va / 64 && l.colour == s.lineColour asid va q.colour then { l with poison := false } else l }
  else s

/-- One word of a copy moved (R210, R211): it is done, or bad with a kind, or parked while its source is at a Retriever (R189). -/
def State.moveWord (s : State) (core n j : Nat) : State :=
  match (s.core core).copies.find n with
  | none => s
  | some q =>
    if q.done.contains j || q.bad.any (fun e => e.1 == j) || j ≥ q.words then s
    else
      let upd (t : State) (f : Copy → Copy) : State := t.modCore core fun c => { c with copies := c.copies.upd n f }
      match s.copySource core q j with
      | (s1, q1, g) =>
        let keep (x : Copy) : Copy := { x with elems := q1.elems, parked := x.parked.filter (· != j) }
        match g with
        | .fail k va => upd s1 fun x => { keep x with bad := insertBy Prod.fst (j, k, va) x.bad }
        | .parked line c r => match q.colour with
          | some k => s1.undeclared core n j q.serial k
          | none => (upd s1 fun x => { keep x with parked := (keep x).parked ++ [j] }).noteMiss (s.asid q.ctx) line c r
        | .word v p =>
          match s1.copyDest core q j (BitVec.ofNat 32 v) p with
          | (s2, some k) => upd s2 fun x => { keep x with bad := insertBy Prod.fst (j, k, (q.dst + 4 * j)) x.bad }
          | (s2, none) =>
            let s3 := upd s2 fun x => { keep x with done := x.done ++ [j], poison := x.poison || p,
                                                    marks := if p then x.marks ++ [j] else x.marks }
            match (s3.core core).copies.find n with | some x => s3.wholeLine core x j | none => s3

/-- A stage of one element of a gather on its own (R185): the index or the bytes are read, and moved with their word later. -/
def State.stageElem (s : State) (core n i : Nat) : State :=
  match (s.core core).copies.find n with
  | none => s
  | some q =>
    if q.mode != .gather || i ≥ q.len then s
    else match s.gatherStage q i with
      | (s1, q1, none) => s1.modCore core fun c => { c with copies := c.copies.upd n fun x => { x with elems := q1.elems } }
      | _ => s

/-- Every word not yet tried moved. -/
def State.moveAll (s : State) (core n : Nat) : State :=
  match (s.core core).copies.find n with
  | none => s
  | some q => (List.range q.words).foldl (fun t j => t.moveWord core n j) s

/-! ### The order of CPY.t with engine work (R150) -/

/-- A CPY.t waits for the engine instructions of its pack issued before it that name its tile (R150). -/
def Core.tileReady (c : Core) (q : Copy) : Bool :=
  q.mode != .t || !((c.pipe q.pipe).queue.any fun o => o.serial == q.serial && o.uid < q.uid && (engTiles o.instr).contains q.dst)

/-! ### Events -/

/-- The copy engine starts a copy whose issue-time release holds, and moves the listed words of a started one (R184). A number past the
words of a gather names an element, counted from there, of which one stage is read (R185). -/
def execCopyStart (core n : Nat) (words : List Nat) (s : State) : Out :=
  let c := s.core core
  match c.copies.find n with
  | none => .next s
  | some q =>
    let go := q.st == .moving || (q.st == .waiting && s.met q.cond && c.tileReady q)
    if !go || q.mode == .remote then .next s
    else
      let s1 := s.modCore core fun k => { k with copies := k.copies.put n { q with st := .moving } }
      .next (words.foldl (fun t j => if j < q.words then t.moveWord core n j else t.stageElem core n (j - q.words)) s1)

/-- A batch's member ends (R151): its classes and its poisoned reads join the batch. -/
def Pack.endMember (p : Pack) (batch cls : Nat) (psc : Bool) : Pack :=
  let f (b : Batch) : Batch :=
    if b.num = batch then { b with members := b.members - 1, cls := b.cls ||| cls, psc := b.psc || psc } else b
  { p with c := { p.c with batches := p.c.batches.map f } }

/-- A counter of MXCNT advanced, saturating at 255 (R96). -/
def bumpCnt (m : Word) (lo : Nat) : Word :=
  let v := fld m.toNat (lo + 7) lo
  if v = 255 then m else m + BitVec.ofNat 32 (2 ^ lo)

/-- MXCNT after a batch (R97): each counter once. -/
def bumpAll (m : Word) (cls : Nat) (psc : Bool) : Word :=
  let m1 := if cls &&& 1 != 0 then bumpCnt m 0 else m
  let m2 := if cls &&& 4 != 0 then bumpCnt m1 8 else m1
  let m3 := if cls &&& 0x60 != 0 then bumpCnt m2 16 else m2
  if psc then bumpCnt m3 24 else m3

/-- The batches of a pack that are closed and have no member left complete, in ascending number (R151): MXCNT and FLAGS are
updated once for each (R97), but for a recompute pack, which discards them (R95), and for a context that is torn down (R167). -/
def State.countBatches (s : State) (r : PackRef) : State :=
  match s.pack r with
  | none => s
  | some p =>
    let step (q : State × List Batch × Bool) (b : Batch) : State × List Batch × Bool :=
      if b.done then (q.1, q.2.1 ++ [b], q.2.2)
      else if q.2.2 && b.closed && b.members == 0 then
        let s1 := if p.id.colour.isSome || s.stopped p then q.1
          else (q.1.commit p.id.ctx (b.cls &&& 0x65)).modCtx p.id.ctx fun x =>
            { x with r := { x.r with mxcnt := bumpAll x.r.mxcnt b.cls b.psc } }
        (s1, q.2.1 ++ [{ b with done := true }], q.2.2)
      else (q.1, q.2.1 ++ [b], false)
    let q := (sortBy (fun b => b.num) p.c.batches).foldl step (s, [], true)
    q.1.setPack r { p with c := { p.c with batches := q.2.1 } }

/-- A copy ends: its queue entry is freed with frame columns that only it kept (R211); a CPY.t zeroes the rest of its tile and ends
its batch's member (R150). -/
def State.endCopy (s : State) (core n : Nat) (q : Copy) : State :=
  let s1 := s.modCore core fun c => { c with copies := c.copies.del n }
  let s2 := s1.modCore core fun c =>
    let gs := c.ghosts.map fun g => if g.serial = q.serial then { g with cols := c.copyCols g.serial g.n } else g
    { c with ghosts := gs.filter fun g => !g.cols.isEmpty }
  if q.mode != .t then s2
  else
    let psc := q.poison
    let s3 := s2.modCore core fun c =>
      let t := c.tile q.pipe q.tile
      c.setTile q.pipe q.tile { data := t.data.filter fun e => e.1 < q.len && (q.done.contains (e.1 / 4)), poison := q.poison }
    match s3.refOf core q.serial with
    | none => s3
    | some r =>
      match s3.pack r with
      | none => s3
      | some p => ((s3.setPack r (p.endMember q.batch 0 psc)).countBatches r).engineStart core q.pipe

/-- A word of a copy whose read stood parked binds where the read is parked no longer (R189): a remote copy keeps it until its packets are
formed. -/
def State.bindWord (s : State) (core n j : Nat) : State :=
  match (s.core core).copies.find n with
  | none => s
  | some q =>
    let upd (t : State) (f : Copy → Copy) : State := t.modCore core fun c => { c with copies := c.copies.upd n f }
    match s.copySource core q j with
    | (_, _, .parked _ _ _) => s
    | (s1, _, g) =>
      if q.mode != .remote then s.moveWord core n j
      else
        let free (x : Copy) : Copy := { x with parked := x.parked.filter (· != j) }
        match g with
        | .word y p => upd s1 fun x => (free x).putElem { pos := j, idx := 0, bad := false, val := some (y, p) }
        | _ => upd s1 free

/-- The completion token of a copy (R184, R212). -/
def State.copyDone (s : State) (core n : Nat) (q : Copy) : State :=
  let s1 := s.endCopy core n q
  if q.mode = .t then s1
  else s1.pushOut core
    { tok := { slot := q.slot, port := q.port, tag := q.tag,
               pay := [BitVec.ofNat 32 (if q.mode = .gather then q.len * 2 ^ q.es else q.len)], ctx := q.ctx,
               rel := some q.cond.sc, handler := false, src := 1, bearing := q.bearing, core, cov := q.cond.uids },
      serial := 2 ^ 24, conds := [], frees := none, grants := none }

/-- The registered launch of a context in which a node takes part (R210). -/
def State.launchTo (s : State) (ctx node : Nat) : Option Launch :=
  s.launches.find? fun l => l.ctx == ctx && l.role != 0 && l.nodes.contains node

/-- What the words of a remote copy give as they are read: those to send, those that fail, and those that are parked. -/
structure RemoteRead where
  s      : State
  words  : List (Nat × Nat)
  bad    : List (Nat × Nat × Nat)
  parked : List Nat
deriving DecidableEq, Repr

/-- A word of a remote copy, as it was bound when its tile was regenerated (R189), or as it is read now. -/
def State.remoteWord (s : State) (asid : Nat) (q : Copy) (j : Nat) : State × Got :=
  match q.elem j with
  | some { val := some (y, p), .. } => (s, .word y p)
  | _ => s.copyRead asid (q.src + 4 * j) 4 q.colour

/-- One word of a remote copy read (R297): a poisoned word fails with kind 7 (R315). -/
def RemoteRead.step (asid : Nat) (q : Copy) (x : RemoteRead) (j : Nat) : RemoteRead :=
  match x.s.remoteWord asid q j with
  | (s1, .word w false) => { x with s := s1, words := x.words ++ [(j, w)] }
  | (s1, .word _ true) => { x with s := s1, bad := x.bad ++ [(j, 7, q.src + 4 * j)] }
  | (s1, .fail k va) => { x with s := s1, bad := x.bad ++ [(j, k, va)] }
  | (s1, .parked line c r) => { x with s := s1.noteMiss asid line c r, parked := x.parked ++ [j] }

/-- Words gathered into payloads of at most 4,096 bytes (R297). -/
def packWords (ps : List (Nat × List Byte)) (e : Nat × Nat) : List (Nat × List Byte) :=
  match ps.getLast? with
  | some (j0, bs) =>
    if j0 + bs.length / 4 == e.1 && bs.length < 4096 then ps.dropLast ++ [(j0, bs ++ leBytes 4 e.2)]
    else ps ++ [(e.1, leBytes 4 e.2)]
  | none => [(e.1, leBytes 4 e.2)]

/-- The port by which a packet leaves (R299): of the route mask of its node's entry, by source core and channel among those
that are up. -/
def State.routePort (s : State) (q : Pkt) : Option Nat :=
  let mask := (Sparse.get (q.dest / 2 ^ 12) s.io.route).toNat
  let up := (bitsOf mask 16).filter fun i => match s.io.links.find i with | some l => l.up | none => false
  up[(q.core + q.vc) % up.length]?

/-- The flits of a packet (R295 to R297): a control packet holds 12 values in its first (log 32). -/
def PktBody.flits : PktBody → Nat
  | .write _ _ _ _ bs => 1 + (bs.length + 63) / 64
  | .control _ _ _ vs => 1 + (vs.length - 12 + 15) / 16
  | _ => 1

/-- The free-slot count of a channel (R294). -/
def Link.count (l : Link) (vc : Nat) : Nat := (l.counts.find vc).getD 0

/-- The flits of a channel that have been sent since training (R294). -/
def Link.sentOn (l : Link) (vc : Nat) : Nat := (l.sent.find vc).getD 0
/-- The flits of a channel whose slots have been returned (R294). -/
def Link.backOn (l : Link) (vc : Nat) : Nat := (l.back.find vc).getD 0

/-- The flits that the replay buffer holds once more are sent: the last 256 (R294). -/
def lastFlits (fs : List (Nat × Nat)) : List (Nat × Nat) := fs.drop (fs.length - 256)

/-- One packet of the queue sends the flits that its channel's count allows; a channel whose count is 0 sends none (R294). -/
def Link.sendOne (l : Link) (q : Pkt) : Link :=
  let n := min q.left (l.count q.vc)
  let l1 : Link := { l with counts := l.counts.put q.vc (l.count q.vc - n), sent := l.sent.put q.vc (l.sentOn q.vc + n),
                            recent := lastFlits (l.recent ++ (List.range n).map fun i => (q.vc, l.sentOn q.vc + i)) }
  let q1 : Pkt := { q with left := q.left - n, due := q.due + n }
  if q1.left = 0 then { l1 with replay := l1.replay ++ [q1] } else { l1 with queue := l1.queue ++ [q1] }

/-- A port that is up sends what its counts allow, in order on each channel (R294, R298). -/
def Link.pump (l : Link) : Link := if l.up then l.queue.foldl Link.sendOne { l with queue := [] } else l

/-- A packet put in a port's queue. -/
def State.sendVia (s : State) (port : Nat) (q : Pkt) : State :=
  let l := (s.io.links.find port).getD Link.reset
  { s with io := { s.io with links := s.io.links.put port ({ l with queue := l.queue ++ [q] } : Link).pump } }

/-- A packet put on the links (R299): it goes to the port that its node, core and channel choose, or waits where no port of the
mask is up (R294). -/
def State.sendPkt (s : State) (q : Pkt) : State :=
  match s.routePort q with
  | some port => s.sendVia port q
  | none => { s with io := { s.io with held := s.io.held ++ [q] } }

/-- A packet none of whose flits has been sent. -/
def mkPkt (dest vc core : Nat) (body : PktBody) : Pkt := { dest, vc, core, body, left := body.flits, due := 0 }

/-- A remote copy's words read and sent as write packets (R297), and whether they were: not while a word is parked at a
Retriever. A node with no part in the launch fails every word with kind node (R210): a copy of length 0 has no word to fail and completes,
DESIGN CHOICE (log 60). -/
def State.sendRemote (s : State) (core n : Nat) (q : Copy) : State × Bool :=
  let upd (t : State) (f : Copy → Copy) : State := t.modCore core fun c => { c with copies := c.copies.upd n f }
  let todo := (List.range q.words).filter fun j => !(q.done.contains j) && !(q.bad.any fun e => e.1 == j)
  match s.launchTo q.ctx q.aux with
  | none => (upd s fun x => { x with st := .sent, bad := todo.map fun j => (j, Config.kindNode, q.src + 4 * j) }, true)
  | some l =>
    let x := todo.foldl (RemoteRead.step (s.asid q.ctx) q) { s, words := [], bad := [], parked := [] }
    if !x.parked.isEmpty then (upd x.s fun y => { y with parked := x.parked }, false)
    else
      let id := q.uid % 2 ^ 32
      let send (t : State) (e : Nat × List Byte) : State :=
        t.sendPkt (mkPkt q.aux 2 core (.write (q.dst + 4 * e.1) l.coord l.num id e.2))
      let ps := x.words.foldl packWords []
      let s1 := ps.foldl send x.s
      let s2 := { s1 with io := { s1.io with remote := s1.io.remote.put id (core, n) } }
      (upd s2 fun y => { y with st := .sent, bad := sortBy Prod.fst (y.bad ++ x.bad), pkts := ps.map fun e => (e.1, e.2.length / 4) }, true)

/-- A copy completes once every word is written without fault (R184, R211, R212); a remote copy first sends its words, and
completes when the node has acknowledged them. A completion needs a place in the outbound queue. -/
def execCopyComplete (core n : Nat) (s : State) : Out :=
  let c := s.core core
  match c.copies.find n with
  | none => .next s
  | some q =>
    let go := q.st == .moving || (q.st == .waiting && s.met q.cond && c.tileReady q)
    if q.mode == .remote then
      if go then .next (s.sendRemote core n { q with st := .moving }).1
      else if q.st == .sent && q.bad.isEmpty && q.done.length == q.words && c.outRoom q.handler
      then .next (s.copyDone core n q) else .next s
    else if !go || !c.outRoom q.handler then .next s
    else
      let s1 := (s.modCore core fun k => { k with copies := k.copies.put n { q with st := .moving } }).moveAll core n
      match (s1.core core).copies.find n with
      | some q1 => if q1.bad.isEmpty && q1.done.length == q1.words then .next (s1.copyDone core n q1) else .next s1
      | none => .next s1

/-- The fault token of a copy record (R211, R311). -/
def State.copyFaultTok (s : State) (core n : Nat) (q : Copy) : State :=
  match q.bad with
  | [] => s
  | (_, k, va) :: _ =>
    let x := q.at_.getD (core, n)
    s.raiseAtCore x.1 q.ctx false (faultPay 33 k (recordHandle true x.1 x.2) q.bearing va q.tag) q.bearing (2 ^ 24)

/-- A copy that has tried every word and left some unwritten takes its copy fault (R211): one record and one fault token;
its completion is held. -/
def execCopyFault (core n : Nat) (s : State) : Out :=
  match (s.core core).copies.find n with
  | none => .next s
  | some q =>
    match q.bad with
    | [] => .next s
    | _ :: _ =>
      if (q.st == .moving || q.st == .sent) && q.done.length + q.bad.length == q.words && (s.core core).outRoom true then
        let s1 := s.modCore core fun c => { c with copies := c.copies.put n { q with st := .faulted, chrono := s.now } }
        match s.ctx q.ctx with
        | some x => if x.st = .cutting then .next s1
          else .next (s1.copyFaultTok core n q)
        | none => .next s1
      else .next s

end Sys2Proof.Machine
end

