-- ==== Sys2Proof/Machine/Control.lean ====
section
/-! DEFINITION. Token, spawn and block-control instructions (R236 to R254). -/

namespace Sys2Proof.Machine

/-! ### SEND and SENDM -/

/-- The block slot of an image-local number through the slot map of the pack's image; 0xFFFF is the inbox (R71, R237). -/
def State.mapBlock (s : State) (slot n : Nat) : Option Nat :=
  if n = 0xFFFF then some 0xFFFF
  else match s.images.find (s.runImage slot) with
    | some i => i.slots[n]?
    | none => none

/-- The tag of a lane's instance (R14). -/
def Pack.ownTag (p : Pack) (L : Nat) : DWord := p.id.tags.getD L 0

/-- The tag operand of a lane (R237). -/
def Pack.tagOf (p : Pack) (t : TagSrc) (L : Nat) : DWord :=
  match t with
  | .lane a => p.v2 a L
  | .uni a => p.s2 a
  | .self => p.ownTag L

/-- The payload of a lane: n registers from d (R236). -/
def Pack.payload (p : Pack) (d n L : Nat) : List Word := (List.range n).map fun i => p.v (d + i) L

/-- A token that a lane makes, with the release that its instruction carries (R176, R236). -/
def State.mkTok (s : State) (p : Pack) (L slot port : Nat) (tag : DWord) (pay : List Word) (rel : Option Scope) : OutTok :=
  let cov := match rel with | some _ => s.covered s.cur p | none => []
  { tok := { slot, port, tag, pay, ctx := p.id.ctx, rel, handler := false, src := 0, bearing := p.bearing s.cur p.idx L,
             core := s.cur.core, cov }
    serial := p.id.serial
    conds := match rel with | some sc => [{ sc, uids := cov }] | none => []
    frees := none, grants := none }

/-- Occupancy of the instructions that make e tokens or requests (R254). -/
def occTokens (e : Nat) : Nat := max 1 ((e + 7) / 8)

/-- The checks of a token by a lane (R238): its cause, if it fails. -/
def sendCause (p : Pack) (L : Nat) (target : Option Nat) (tag : DWord) : Option Nat :=
  if target.isNone then some 14
  else if tagLevel tag = 7 && tagLevel (p.ownTag L) != 7 then some 15 else none

/-- The tokens of the lanes that pass go to the outbound queue, and the lanes that fail trap (R238, R239). -/
def State.sendAll (s : State) (p : Pack) (toks : List (Nat × Option Nat × Nat × DWord × List Word)) (rel : Option Scope) : State :=
  let good := toks.filter fun e => (sendCause p e.1 e.2.1 e.2.2.2.1).isNone
  let bad := toks.filterMap fun e => (sendCause p e.1 e.2.1 e.2.2.2.1).map fun c =>
    ({ lane := e.1, cause := c, detail := 0, addr := 0 } : RepLane)
  let c := s.core s.cur.core
  if !roomFor p.id 512 c.outbound.length good.length 32 then s
  else
    let s1 := good.foldl (fun (t : State) e =>
      t.pushOut s.cur.core (s.mkTok p e.1 (e.2.1.getD 0xFFFF) e.2.2.1 e.2.2.2.1 e.2.2.2.2 rel)) s
    s1.finishIssue p 2 (occTokens good.length) bad

/-- SEND (R237): with a uniform tag one token, of the lowest lane that takes part. -/
def execSend (tag : TagSrc) (d n k : Nat) (rl : Option Scope) (port block : Nat) (s : State) : Out :=
  issue s (.send tag d n k rl port block) fun p =>
    let ls := match tag with | .uni _ => (p.lanesIn k).take 1 | _ => p.lanesIn k
    s.sendAll p (ls.map fun L => (L, some block, port, p.tagOf tag L, p.payload d n L)) rl

/-- SENDM (R237): one token for each lane, to the target in vB. -/
def execSendm (tag : TagSrc) (d n k : Nat) (rl : Option Scope) (b : Nat) (s : State) : Out :=
  issue s (.sendm tag d n k rl b) fun p =>
    s.sendAll p ((p.lanesIn k).map fun L =>
      let t := (p.v b L).toNat
      (L, s.mapBlock p.id.slot (t % 2 ^ 16), t / 2 ^ 16 % 4, p.tagOf tag L, p.payload d n L)) rl

/-! ### SPAWN and RETURN -/

/-- SPAWN (R241 to R243): a request for each lane in ascending position; lanes at level 6 or 7 take the spawn-depth fault. -/
def execSpawn (d a n eport k rport entry ret : Nat) (s : State) : Out :=
  issue s (.spawn d a n eport k rport entry ret) fun p =>
    let ls := p.lanesIn k
    let ok (L : Nat) : Bool := tagLevel (p.ownTag L) < 6
    let good := ls.filter ok
    let bad := (ls.filter fun L => !ok L).map fun L => ({ lane := L, cause := 16, detail := 0, addr := 0 } : RepLane)
    let c := s.core s.cur.core
    if c.alloc.length + c.spawned.length + good.length > 64 then s
    else
      let req (j L : Nat) : SpawnReq :=
        { uid := s.uid + j, ctx := p.id.ctx, serial := p.id.serial, level := tagLevel (p.ownTag L) + 1,
          index := (p.v2 a L).toNat % 2 ^ 48, pay := p.payload d n L, slot := entry, port := eport, parent := p.ownTag L,
          rslot := ret, rport := rport, bearing := p.bearing s.cur p.idx L, waits := s.covered s.cur p,
          kept := p.id.reserved }
      let rs := (good.zipIdx).map fun e => req e.2 e.1
      let s1 := (s.fresh good.length).modCore s.cur.core fun k => { k with alloc := k.alloc ++ rs }
      s1.finishIssue p 2 (occTokens good.length) bad

/-- RETURN (R244): each active lane's return goes to the colour directory; lanes of level 0 or 7 take the return-level fault.
The pack parks before issue as for any instruction that makes tokens (R239). A return of a colour that its core does not hold has no slot or port
to report: its fault token of cause 37 gives slot 0 and port 0, with the tag of the lane that returned it (DESIGN CHOICE, log 75). -/
def execRet (d n : Nat) (rl : Option Scope) (s : State) : Out :=
  issue s (.ret d n rl) fun p =>
    let lv (L : Nat) : Nat := tagLevel (p.ownTag L)
    let good := p.lanes.filter fun L => lv L != 0 && lv L != 7
    let bad := (p.lanes.filter fun L => lv L == 0 || lv L == 7).map fun L =>
      ({ lane := L, cause := 17, detail := 0, addr := 0 } : RepLane)
    if !roomFor p.id 512 (s.core s.cur.core).outbound.length good.length 32 then s
    else
      let q (L : Nat) : RetReq :=
        { ctx := p.id.ctx, level := lv L, colour := tagNumber (p.ownTag L),
          out := s.mkTok p L 0 0 (p.ownTag L) (p.payload d n L) rl, kept := p.id.reserved }
      ({ s with returns := s.returns ++ good.map q }).finishIssue p 1 (occTokens p.lanes.length) bad

/-! ### END -/

/-- The pack's own closed batches have all completed up to a number (R153). -/
def Pack.batchesDone (p : Pack) (upto : Option Nat) : Bool :=
  p.c.batches.all fun b => b.done || (match upto with | some n => n < b.num | none => b.num ≥ p.c.bopen)

/-- A completed batch that counted a poisoned operand has not been reported (R165). -/
def Pack.pscOpen (p : Pack) (upto : Option Nat) : Bool :=
  p.c.batches.any fun b => b.done && b.psc && (match upto with | some n => b.num ≤ n | none => true)

/-- The batches a report covers marked as reported (R165). -/
def Pack.pscReported (p : Pack) (upto : Option Nat) : Pack :=
  let f (b : Batch) : Batch :=
    if b.done && (match upto with | some n => b.num ≤ n | none => true) then { b with psc := false } else b
  { p with c := { p.c with batches := p.c.batches.map f } }

/-- The tile-poison trap (R165): after a BWAIT it resumes past it, at END at the END. -/
def State.trapTile (s : State) (r : PackRef) (p : Pack) (resume : Nat) (upto : Option Nat) : State :=
  s.raise r (p.pscReported upto) p.c.pc resume 0 none 13

/-- END once its batches and deferred results are in (R247): a pending report traps and nothing is freed; else the pack's
resources are freed. -/
def finishEnd (s : State) (r : PackRef) (p : Pack) (_w : Wait) : State :=
  let s0 := (s.setPack r p).countBatches r
  match s0.pack r with
  | none => s0
  | some p1 =>
    if !(p1.batchesDone none) || !p1.c.deferred.isEmpty then s0
    else if !p1.c.reports.isEmpty then s0.trapReport r p1
    else if p1.pscOpen none then s0.trapTile r p1 p1.c.pc none
    else s0.freePack r p1

/-- END (R247): the open batch closes, and the pack parks until step 4. -/
def execEndBlock (s : State) : Out :=
  issue s .endBlock fun p =>
    let w : Wait := { instr := .endBlock, uids := [], sc := .core, phase := 0, info := 0 }
    let p1 := p.closeBatch
    finishEnd (s.occupy s.cur 1) s.cur { p1 with c := { p1.c with wait := some w } } w

/-! ### Tags, the chronometer, stops -/

/-- The field widths that read a block's tags (R248, R281). -/
def State.widths (s : State) (slot : Nat) : List Nat :=
  match s.images.find (s.runImage slot) with | some i => i.widths | none => []

/-- IDX.F (R248). -/
def execIdxF (d f : Nat) (s : State) : Out :=
  lane32 s (.idxF d f) d 1 fun p L => BitVec.ofNat 32 (idxField (s.widths p.id.slot) f (tagIndex (p.ownTag L)))

/-- TAGC (R249). -/
def execTagc (d : Nat) (s : State) : Out := lane64 s (.tagc d) d 1 fun p L => p.ownTag L

/-- MKTAG with the lane's own colour (R250). -/
def execMktag (d a : Nat) (s : State) : Out :=
  lane64 s (.mktag d a) d 1 fun p L =>
    BitVec.ofNat 64 (tagColour (p.ownTag L) * 2 ^ 48 + (p.v2 a L).toNat % 2 ^ 48)

/-- MKTAG with a colour operand (R250). -/
def execMktagColour (d a : Nat) (b : BOp) (s : State) : Out :=
  lane64 s (.mktagColour d a b) d 1 fun p L =>
    BitVec.ofNat 64 ((p.b b L).toNat % 2 ^ 16 * 2 ^ 48 + (p.v2 a L).toNat % 2 ^ 48)

/-- CLOCK (R251): the chronometer at its issue ck. -/
def execClock (d : Nat) (s : State) : Out :=
  packOp s (.clock d) 1 fun p => p.setS2 d (BitVec.ofNat 64 s.now)

/-- TRAP (R252): the software trap, with the code, k0 and no report entry. -/
def execTrap (code : Nat) (s : State) : Out :=
  issue s (.trap code) fun p => (s.occupy s.cur 1).raise s.cur p p.idx (p.idx + 1) code none 18

/-- BRK (R252): the breakpoint. -/
def execBrk (code : Nat) (s : State) : Out :=
  issue s (.brk code) fun p => (s.occupy s.cur 1).raise s.cur p p.idx (p.idx + 1) code none 19

/-- NOP (R253). -/
def execNop (s : State) : Out := packOp s .nop 1 id

/-! ### Batches -/

/-- BFENCE (R152). -/
def execBfence (d : Nat) (s : State) : Out :=
  issue s (.bfence d) fun p =>
    let p1 := (p.closeBatch).setS d (BitVec.ofNat 32 p.c.bopen)
    ((s.retire p1 1 1).countBatches s.cur)

/-- BWAIT once the batches it waits for are in (R153): the next instruction issues 3 ck later at the earliest, or the
tile-poison trap is taken (R165). -/
def finishBwait (s : State) (r : PackRef) (p : Pack) (w : Wait) : State :=
  let upto := if w.phase = 0 then none else some w.info
  let s0 := (s.setPack r p).countBatches r
  match s0.pack r with
  | none => s0
  | some p1 =>
    if !(p1.batchesDone upto) then s0
    else if p1.pscOpen upto then s0.trapTile r p1 (p1.c.pc + 1) upto
    else s0.setPack r (p1.unpark 1 (if w.uids.isEmpty then s.now else s.now + 3))

/-- BWAIT (R153): b at or above the open batch's number, or s0, closes it and waits for all. -/
def execBwait (d : Nat) (s : State) : Out :=
  issue s (.bwait d) fun p =>
    let b := (p.s d).toNat
    let all := d = 0 || b ≥ p.c.bopen
    let p1 := if all then p.closeBatch else p
    let open_ := !((p1.batchesDone (if all then none else some b)))
    let w : Wait := { instr := .bwait d, uids := if open_ then [0] else [], sc := .core, phase := if all then 0 else 1, info := b }
    finishBwait (s.occupy s.cur 1) s.cur { p1 with c := { p1.c with wait := some w } } w

end Sys2Proof.Machine
end

