-- ==== Sys2Proof/Machine/Colours.lean ====
section
/-! DEFINITION. The colour directory: grants and returns (R232, R242, R244). -/

namespace Sys2Proof.Machine

/-- The queued requests of every core with their cores, in the order they reached the directory (R232, R242). Of one core that is
the order of issue; between cores the spec leaves it open, and it is the order of issue too: DESIGN CHOICE (log 45). -/
def State.requests (s : State) : List (Nat × SpawnReq) :=
  sortBy (fun e => e.2.uid) (s.cores.flatMap fun e => e.2.alloc.map fun q => (e.1, q))

/-- The lowest free colour of a level (R232). -/
def Ctx.freeNumber (x : Ctx) (level : Nat) : Option Nat := (List.range 8192).find? fun n => !x.pools.contains (level, n)

/-- The close marks of a colour cleared on every core as it is taken from its pool (R224). -/
def State.clearClose (s : State) (ctx colour : Nat) : State :=
  { s with cores := s.cores.map fun (e : Nat × Core) => (e.1, { e.2 with closed := e.2.closed.filter fun k => !(k.1 == ctx && k.2.2 == colour) }) }

/-- A colour granted to a request, with its return record (R242). -/
def State.grantColour (s : State) (core : Nat) (q : SpawnReq) (c : Nat) : State :=
  let s1 := s.modCtx q.ctx fun x =>
    { x with pools := x.pools ++ [(q.level, c)], returns := x.returns ++ [((q.level, c), (q.parent, q.rslot, q.rport))] }
  (s1.clearClose q.ctx (q.level * 2 ^ 13 + c)).modCore core fun k =>
    { k with alloc := k.alloc.map fun r => if r.uid = q.uid then { r with granted := some c } else r }

/-- The child token of a granted request enters the outbound queue of its core, and its entry in the allocator queue is free (R242). -/
def State.childToken (s : State) (core : Nat) (q : SpawnReq) (c : Nat) : State :=
  (s.modCore core fun k => ({ k with alloc := k.alloc.filter fun r => r.uid != q.uid } : Core).pumpAlloc).pushOut core
    { tok := { slot := q.slot, port := q.port, tag := mkTag q.level c q.index, pay := q.pay, ctx := q.ctx, rel := some .dev,
               handler := false, src := 0, bearing := q.bearing, core, cov := q.waits },
      serial := q.serial, conds := [{ sc := .dev, uids := q.waits }], frees := none, grants := some (q.level, c) }

/-- COLOUR_GRANT (R232, R242): the n-th queued request, where it is the oldest of its context and level that waits for a colour and its
pool has one, is granted it; a granted request's token enters its core's outbound queue as that has a place (R239). -/
def execColourGrant (n : Nat) (s : State) : Out :=
  let rs := s.requests
  match rs[n]? with
  | none => .next s
  | some (core, q) =>
    let enter (t : State) (c : Nat) : State := if (t.core core).outRoom q.kept then t.childToken core q c else t
    match q.granted, s.ctx q.ctx with
    | _, none => .next s
    | some c, some _ => .next (enter s c)
    | none, some x =>
      let first := !((rs.take n).any fun e => e.2.ctx == q.ctx && e.2.level == q.level && e.2.granted.isNone)
      match x.freeNumber q.level with
      | none => .next s
      | some c => if first then .next (enter (s.grantColour core q c) c) else .next s

/-- COLOUR_RETURN (R244): the n-th return at the directory; of one colour, the lanes of one pack come in order. A colour held
sends the lane's payload to the recorded parent; any other return sends the fault token of cause 37. -/
def execColourReturn (n : Nat) (s : State) : Out :=
  match s.returns[n]? with
  | none => .next s
  | some q =>
    let core := q.out.tok.core
    let before := (s.returns.take n).any fun e => e.out.tok.core == core && e.out.serial == q.out.serial
    if before || !(s.core core).outRoom q.kept then .next s
    else
      let s0 := { s with returns := s.returns.eraseIdx n }
      match (s.ctx q.ctx).bind fun x => (x.returns.find? fun e => e.1 == (q.level, q.colour)).map Prod.snd with
      | some (parent, slot, port) =>
        let s1 := s0.modCtx q.ctx fun x => { x with returns := x.returns.filter fun e => e.1 != (q.level, q.colour) }
        .next (s1.pushOut core { q.out with tok := { q.out.tok with slot, port, tag := parent }, frees := some (q.level, q.colour) })
      | none =>
        .next (s0.raiseAtCore core q.ctx false (refusedPay 37 q.out.tok.slot q.out.tok.port q.out.tok.tag) 0 (2 ^ 24))

end Sys2Proof.Machine
end

