-- ==== Sys2Proof/Machine/Traps.lean ====
section
/-! DEFINITION. Trap entry with the trap frame and the tile dump, resumption, the trap instructions, fault records
and FAULTRD (R303 to R321, R167). -/

namespace Sys2Proof.Machine

/-! ### The trap frame -/

/-- The address of the trap frame of a pack slot (R307). -/
def frameVa (r : PackRef) : Nat := trapArea + r.core * 0x200000 + pkey r * 0x4000
/-- The address of the dump of a physical tile (R307). -/
def dumpVa (r : PackRef) (t : Nat) : Nat := trapArea + r.core * 0x200000 + 0x100000 + r.pipe * 0x40000 + t * 0x4000
/-- The trap-frame handle of a pack slot (R307). -/
def frameHandle (r : PackRef) : Nat := r.core * 64 + pkey r

/-- The cause and detail that a trap gives (R309): of the lowest lane of one entry, or the trap's own. -/
def Pack.trapCause (p : Pack) : Nat × Nat :=
  match p.c.trap.entry with
  | none => (p.c.trap.cause, 0)
  | some i =>
    match p.c.reports.find? fun e => e.idx == i with
    | none => (p.c.trap.cause, 0)
    | some e =>
      match e.lanes with
      | [] => (p.c.trap.cause, 0)
      | l :: _ =>
        if l.cause = 3 then (3, (e.lanes.filter fun m => m.cause == 3).foldl (fun a m => a ||| m.detail) 0)
        else (l.cause, l.detail)

/-- The cause word (R308). -/
def Pack.causeWord (p : Pack) : Nat := p.trapCause.1 + p.trapCause.2 % 256 * 256

/-- The lane mask of an entry (R309). -/
def Report.mask (e : Report) : Nat := maskOf ((e.lanes.filter fun l => l.cause != 0).map fun l => l.lane)

/-- A number as two words. -/
def two (n : Nat) : List Word := [BitVec.ofNat 32 n, BitVec.ofNat 32 (n / 2 ^ 32)]

/-- The 88 words of a report entry (R309). -/
def Report.words (e : Report) (p : Pack) (r : PackRef) : List Word :=
  let at_ (L : Nat) : Option RepLane := e.lanes.find? fun l => l.lane == L
  let half (L : Nat) : Nat := match at_ L with | some l => l.cause % 256 + l.detail % 256 * 256 | none => 0
  two (p.bearing r e.idx 0).toNat ++ [BitVec.ofNat 32 e.mask, if e.replay then 1 else 2]
    ++ [BitVec.ofNat 32 e.w0, BitVec.ofNat 32 e.w1, 0, 0]
    ++ (List.range 16).map (fun i => BitVec.ofNat 32 (half (2 * i) + half (2 * i + 1) * 2 ^ 16))
    ++ (List.range 32).flatMap fun L => match at_ L with | some l => two l.addr | none => [0, 0]

/-- The tile map byte of a tile register (R308). -/
def Pack.mapByte (p : Pack) (j : Nat) : Nat := match p.m.tiles[j]? with | some t => 0x80 + t | none => 0

/-- The poisoned tile registers of a pack (R165). -/
def State.tilePoison (s : State) (r : PackRef) (p : Pack) : Nat :=
  maskOf ((List.range p.m.tiles.length).filter fun j => ((s.core r.core).tile r.pipe (p.m.tiles.getD j 0)).poison)

/-- The words of a trap frame by word offset (R308). -/
def State.trapFrame (s : State) (r : PackRef) (p : Pack) : Sparse 32 :=
  let head : List Word :=
    [1, BitVec.ofNat 32 p.causeWord] ++ two (p.bearing r p.c.trap.idx 0).toNat ++
    [BitVec.ofNat 32 p.c.trap.resume, BitVec.ofNat 32 p.c.trap.code,
     BitVec.ofNat 32 (p.id.slot % 2 ^ 16 + p.c.reports.length * 2 ^ 16), BitVec.ofNat 32 p.c.bopen] ++ two s.now ++
    [BitVec.ofNat 32 (s.tilePoison r p), 0, p.r.fpctl, p.r.trapen]
  let tags := (List.range 32).flatMap fun L => two (p.id.tags.getD L 0).toNat
  let map := (List.range 4).map fun i =>
    BitVec.ofNat 32 (p.mapByte (4 * i) + p.mapByte (4 * i + 1) * 2 ^ 8 + p.mapByte (4 * i + 2) * 2 ^ 16 + p.mapByte (4 * i + 3) * 2 ^ 24)
  let regs := (List.range 32).map p.s ++ (List.range 8).map p.k ++
    (List.range 16).flatMap (fun j => [p.tdw j 0, p.tdw j 1]) ++ map
  let ents := p.c.reports.flatMap fun e => e.words p r
  Sparse.setRun 256 ents (Sparse.setRun 128 regs (Sparse.setRun 64 tags (Sparse.setRun 0 head [])))
    ++ (p.r.v.foldr (fun e m => Sparse.set e.1 e.2 m) []).map fun e => (2048 + e.1, e.2)

/-- Words as bytes by byte offset (R4). -/
def wordBytes (m : Sparse 32) : Sparse 8 :=
  m.flatMap fun e => ((leBytes 4 e.2.toNat).zipIdx.map fun b => (4 * e.1 + b.2, b.1)).filter fun b => b.2 != 0

/-- Whole lines written at the home slice from a line address on, and their copies on the writing core dropped. -/
def State.putLines (s : State) (core asid va n : Nat) (d : Sparse 8) : State :=
  let put (t : State) (i : Nat) : State :=
    t.homeWrite asid (va / 64 + i) ((d.filter fun e => e.1 / 64 == i).map fun e => (e.1 % 64, e.2)) fullMask none
  ((List.range n).foldl put s).modCore core fun c =>
    { c with l1 := c.l1.filter fun l => !(l.asid == asid && va / 64 ≤ l.line && l.line < va / 64 + n) }

/-- The state word of a trap frame written (R310), and the core's copy of its line dropped. -/
def State.setFrameState (s : State) (asid : Nat) (r : PackRef) (v : Nat) : State :=
  let line := frameVa r / 64
  (s.homeWrite asid line (lineData 0 (leBytes 4 v)) (byteMask 0 4) none).modCore r.core fun c =>
    { c with l1 := c.l1.filter fun l => !(l.asid == asid && l.line == line) }

/-- The eight words of a trap token (R311). -/
def trapPay (r : PackRef) (p : Pack) : List Word :=
  let lanes := match p.c.trap.entry with
    | none => (p.active).toNat
    | some _ => p.c.reports.foldl (fun a e => a ||| e.mask) 0
  let low := ((bitsOf lanes 32).head?).getD 0
  let tag := p.id.tags.getD low 0
  let b := p.bearing r p.c.trap.idx 0
  [BitVec.ofNat 32 (frameHandle r), BitVec.ofNat 32 p.causeWord] ++ two b.toNat ++
  [BitVec.ofNat 32 lanes, BitVec.ofNat 32 (p.id.slot % 2 ^ 16 + p.c.reports.length * 2 ^ 16)] ++ two tag.toNat

/-- A pack that is trapping has drained (R305, R167). -/
def State.drained (s : State) (r : PackRef) (p : Pack) : Bool :=
  let c := s.core r.core
  p.c.deferred.isEmpty && p.batchesDone none && !((c.pipe r.pipe).queue.any fun o => o.serial == p.id.serial) &&
    !(c.copies.any fun e => e.2.serial == p.id.serial && e.2.mode == .t)

/-- TRAP_ENTRY (R305 steps 2 and 3): the frame and the dump are written, and the trap token goes to the outbound queue. -/
def execTrapEntry (r : PackRef) (s : State) : Out :=
  let s0 := match s.pack r with | some p => if p.c.st = PackSt.drain then s.countBatches r else s | none => s
  match s0.pack r with
  | none => .next s
  | some p =>
    if p.c.st != PackSt.drain || s0.stopped p || !(s0.drained r p) || !(s0.core r.core).outRoom true then .next s0
    else
      let asid := s0.asid p.id.ctx
      let s1 := s0.putLines r.core asid (frameVa r) 256 (wordBytes (s0.trapFrame r p))
      let s2 := p.m.tiles.foldl (fun (t : State) k => t.putLines r.core asid (dumpVa r k) 256 ((s0.core r.core).tile r.pipe k).data) s1
      let p1 := p.pscReported none
      let s3 := s2.setPack r { p1 with c := { p1.c with st := .trapped, resume := none } }
      .next (s3.raiseAtCore r.core p.id.ctx true (trapPay r p) (p.bearing r p.c.trap.idx 0) p.id.serial)

/-! ### Resumption -/

/-- Bytes as a reader at the home slice finds them; zero where nothing can be read. -/
def State.peek (s : State) (asid va n : Nat) : List Byte :=
  match (s.homeRead asid va n none .read).2 with | .data bs _ => bs | _ => List.replicate n 0

/-- A reader at the home slice finds bytes of a poisoned line. -/
def State.peekBad (s : State) (asid va n : Nat) : Bool :=
  match (s.homeRead asid va n none .read).2 with | .data _ bad => bad | _ => false

/-- A word of a trap frame as the handler left it. -/
def State.frameWord (s : State) (asid : Nat) (r : PackRef) (w : Nat) : Nat := leNat (s.peek asid (frameVa r + 4 * w) 4)

/-- The replay entry that the frame holds at a place, for a report of the pack (R318). -/
def State.replayOf (s : State) (asid : Nat) (r : PackRef) (p : Pack) (i : Nat) (e : Report) : Option Replay :=
  let w := 256 + 88 * i
  let cause (L : Nat) : Nat := s.frameWord asid r (w + 8 + L / 2) / 2 ^ (16 * (L % 2)) % 256
  let detail (L : Nat) : Nat := s.frameWord asid r (w + 8 + L / 2) / 2 ^ (16 * (L % 2) + 8) % 256
  let addr (L : Nat) : Nat := s.frameWord asid r (w + 24 + 2 * L) + 2 ^ 32 * s.frameWord asid r (w + 25 + 2 * L)
  let lanes := (bitsOf (s.frameWord asid r (w + 2)) 32).filter fun L => L < p.id.n && replayCause (cause L)
  if s.frameWord asid r (w + 3) % 256 != 1 || lanes.isEmpty then none
  else
    let rest : Report := { e with replay := true, lanes := lanes.map fun L => { lane := L, cause := cause L, detail := detail L, addr := addr L } }
    some { idx := e.idx, lanes, addrs := lanes.map fun L => (L, addr L), rest }

/-- The registers of a pack as the frame holds them: s0 and k0 are not reloaded (R318), and reserved fields are not written (R6). Lane and
uniform registers from a poisoned line are written with its mark (R326). -/
def State.reload (s : State) (asid : Nat) (r : PackRef) (p : Pack) : Pack :=
  let f (w : Nat) : Word := BitVec.ofNat 32 (s.frameWord asid r w)
  let p1 := (List.range 64).foldl (fun q i => (List.range p.id.n).foldl (fun q L => q.setV i L (f (2048 + i * 32 + L))) q) p
  let p2 := (List.range 31).foldl (fun q j => q.setS (j + 1) (f (129 + j))) p1
  let p3 := (List.range 7).foldl (fun q j => q.setK (j + 1) (f (161 + j))) p2
  let p4 := (List.range 16).foldl (fun q j => q.setTd j (f (168 + 2 * j) &&& 0xBFFFFFFF) (f (169 + 2 * j) &&& 0x1FFFFFFF)) p3
  let bad (w : Nat) : Bool := s.peekBad asid (frameVa r + 4 * w) 4
  { p4 with r := { p4.r with fpctl := f 12 &&& 7, trapen := f 13 &&& BitVec.ofNat 32 trapClasses
                             vBad := (List.range 2048).filter fun e => e % 32 < p.id.n && bad (2048 + e)
                             sBad := ((List.range 31).filter fun j => bad (129 + j)).map (· + 1) } }

/-- PACK_RESUMPTION (R318): the trapped pack reloads its registers and tiles, a tile with the poison of its dump's lines (R326), and takes up
its replay list; a pack whose code could not be fetched tries the fetch again (R325). -/
def execPackResumption (r : PackRef) (s : State) : Out :=
  match s.pack r with
  | none => .next s
  | some p =>
    if p.c.st != .trapped || p.c.resume.isNone || s.stopped p then .next s
    else
      let asid := s.asid p.id.ctx
      let reps := (p.c.reports.zipIdx).filterMap fun e => s.replayOf asid r p e.2 e.1
      let p0 := s.reload asid r p
      let p1 := if reps.isEmpty then p0.settled else p0
      let idx := p.c.trap.resume
      let bad := p.c.trap.cause = 20 && (s.core r.core).st.codeBad.contains p.id.slot
      let dump (t : State) (k : Nat) : State := t.modCore r.core fun c =>
        c.setTile r.pipe k { (c.tile r.pipe k) with
          data := wordBytes (Sparse.setRun 0 ((List.range 4096).map fun i => BitVec.ofNat 32 (leNat (s.peek asid (dumpVa r k + 4 * i) 4))) [])
          poison := (c.tile r.pipe k).poison || (List.range 256).any fun i => s.peekBad asid (dumpVa r k + 64 * i) 64 }
      .next ((p.m.tiles.foldl dump s).setPack r { p1 with c := { p1.c with
        st := .run, pc := idx, start := s.now, fetch := if bad then 1 else 0, reports := [], replay := reps, resume := some idx } })

/-! ### Handles (R316, R317) -/

/-- The pack whose frame a value names for a context, or a status. -/
def State.frameRef (s : State) (ctx h : Nat) : Except Nat (PackRef × Pack) :=
  if h ≥ 12288 then .error (if h < 2 ^ 18 && h / 2 ^ 9 % 2 ^ 8 < 192 then 5 else 2)
  else
    let r : PackRef := { core := h / 64, pipe := h % 64 / 16, slot := h % 16 }
    match s.pack r with
    | none => .error 3
    | some p =>
      if p.c.st != .trapped && p.c.resume.isNone then .error 3
      else if p.id.ctx != ctx then .error 4
      else if p.c.st != .trapped || p.c.resume.isSome then .error 3 else .ok (r, p)

/-- A store record is open (R316). -/
def Wake.isOpen (w : Wake) : Bool := w.st == .faulted || w.st == .replaying
/-- A copy record is open. -/
def Copy.isOpen (q : Copy) : Bool := q.st == .faulted || q.st == .replaying

/-- The store record that a handle names. -/
def State.storeRec (s : State) (h : Nat) : Option Wake :=
  if h < 2 ^ 17 && h / 2 ^ 9 < 192 then ((s.core (h / 2 ^ 9)).wake.find (h % 512)).filter Wake.isOpen else none
/-- The copy record that a handle names. -/
def State.copyRec (s : State) (h : Nat) : Option Copy :=
  if 2 ^ 17 ≤ h && h < 2 ^ 18 && h / 2 ^ 9 % 2 ^ 8 < 192 then
    let x := s.copyPlace (h / 2 ^ 9 % 2 ^ 8) (h % 512)
    ((s.core x.1).copies.find x.2).filter Copy.isOpen
  else none

/-- The status of a copy-record handle for an instruction that takes one; 0 where the record is FAULTED. -/
def State.copyStatus (s : State) (ctx h : Nat) : Nat :=
  if h ≥ 2 ^ 18 || h / 2 ^ 9 % 2 ^ 8 ≥ 192 then 2
  else match s.copyRec h with
    | none => 3
    | some q => if q.ctx != ctx then 4 else if q.st != .faulted then 3 else 0

/-- The status of a store-record handle. -/
def State.storeStatus (s : State) (ctx h : Nat) : Nat :=
  if h ≥ 2 ^ 17 || h / 2 ^ 9 ≥ 192 then 2
  else match s.storeRec h with
    | none => 3
    | some w => if w.ctx != ctx then 4 else if w.st != .faulted then 3 else 0

/-! ### TRESUME, TSKIP, TKILL -/

/-- The issue of an instruction that parks until the pack's earlier accesses are performed at .dev and then acts (R278,
R280, R317). -/
def parkDev (s : State) (i : Instr) (fin : State → PackRef → Pack → Wait → State) : Out :=
  issue s i fun p =>
    let w : Wait := { instr := i, uids := s.accesses s.cur p, sc := .dev, phase := 0, info := 0 }
    fin (s.occupy s.cur 1) s.cur { p with c := { p.c with wait := some w } } w

/-- A status written, and the pack goes on (R317). -/
def State.reply (s : State) (r : PackRef) (p : Pack) (d st len : Nat) : State :=
  s.setPack r ((p.setS d (BitVec.ofNat 32 st)).unpark len s.now)

/-- TRESUME acts (R310, R318). -/
def finishTresume (d : Nat) (s : State) (r : PackRef) (p : Pack) (w : Wait) : State :=
  if !s.ready w then s.setPack r p
  else match s.frameRef p.id.ctx (p.s d).toNat with
    | .error st => s.reply r p d st 1
    | .ok (q, t) =>
    ((s.setFrameState (s.asid p.id.ctx) q 2).setPack q { t with c := { t.c with resume := some t.c.trap.resume } }).reply r p d 0 1

/-- TSKIP acts (R319). -/
def finishTskip (d : Nat) (s : State) (r : PackRef) (p : Pack) (w : Wait) : State :=
  if !s.ready w then s.setPack r p
  else match s.frameRef p.id.ctx (p.s d).toNat with
    | .error st => s.reply r p d st 1
    | .ok (q, t) => ((s.setFrameState (s.asid p.id.ctx) q 0).freePack q t).reply r p d 0 1

/-- TKILL acts (R319): on a trapped pack, or on a copy record, whose copy ends; a tile it was to fill is poisoned, and its batch
counts PSC (R150). -/
def finishTkill (d : Nat) (s : State) (r : PackRef) (p : Pack) (w : Wait) : State :=
  if !s.ready w then s.setPack r p
  else
    let h := (p.s d).toNat
    if h / 2 ^ 17 % 2 = 1 then
      let st := s.copyStatus p.id.ctx h
      if st != 0 then s.reply r p d st 1
      else match s.copyRec h with
        | none => s.reply r p d 3 1
        | some q =>
          let x := s.copyPlace (h / 2 ^ 9 % 2 ^ 8) (h % 512)
          let s1 := (s.setPack r p).endCopy x.1 x.2 { q with poison := true }
          match s1.pack r with | some p1 => s1.reply r p1 d 0 1 | none => s1
    else match s.frameRef p.id.ctx h with
      | .error st => s.reply r p d st 1
      | .ok (q, t) => ((s.setFrameState (s.asid p.id.ctx) q 0).killPack q t).reply r p d 0 1

/-- TRESUME (R317, R318). -/
def execTresume (d : Nat) (s : State) : Out := parkDev s (.tresume d) (finishTresume d)
/-- TSKIP (R317, R319). -/
def execTskip (d : Nat) (s : State) : Out := parkDev s (.tskip d) (finishTskip d)
/-- TKILL (R317, R319). -/
def execTkill (d : Nat) (s : State) : Out := parkDev s (.tkill d) (finishTkill d)

/-! ### REPLAY -/

/-- An open record of a line. -/
def Wake.recordOf (w : Wake) (asid line : Nat) (colour : Option Nat) : Bool :=
  w.isOpen && w.asid == asid && w.va / 64 == line && w.colour == colour

/-- The bytes of a record's store, or those that its RED has left in the line, leave for host memory. -/
def State.postRecord (s : State) (asid line : Nat) (colour : Option Nat) (pa : Nat) (w : Wake) : State :=
  let q := if w.red.isSome then s.settledHost asid line colour pa else (s, lineData (w.va % 64) (leBytes w.size w.data))
  q.1.hostBytes asid line colour pa q.2 (byteMask (w.va % 64) w.size) w.seq

/-- Every open record of a line freed, on every core, and its line no longer held (R314): REDs that waited for bytes of the line act on those
of memory. Bytes of a host page leave for the host in the order that their line gave them (R172; log 14). -/
def State.cleanLine (s : State) (asid line : Nat) (colour : Option Nat) (pa : Nat) : State :=
  let hit (w : Wake) : Bool := w.recordOf asid line colour
  let host := (paHost pa).isSome
  let recs := sortBy (fun w => w.seq) (s.cores.flatMap fun e => (e.2.wake.map Prod.snd).filter hit)
  let gone (c : Core) : List (Nat × Nat) := (c.wake.filter fun x => hit x.2).map fun x => (x.2.uid, bearingSerial x.2.bearing)
  let posted (c : Core) : List Flight :=
    if host && !(gone c).isEmpty
    then [{ asid, line, data := [], mask := 0, entries := [], colour, st := .posted, uids := gone c }] else []
  let s1 := { s with cores := s.cores.map fun (e : Nat × Core) =>
    (e.1, { e.2 with wake := e.2.wake.filter fun x => !hit x.2, flights := e.2.flights ++ posted e.2 }) }
  let s2 := match s1.l2 asid line (s1.lineColour asid (line * 64) colour) with
    | none => s1
    | some l => s1.putL2 { s1.settleLine l pa with held := false }
  if host then recs.foldl (fun t w => t.postRecord asid line colour pa w) s2 else s2

/-- The re-probe of a store record (R314, R320). -/
def State.reprobe (s : State) (r : PackRef) (p : Pack) (d core n : Nat) (w : Wake) : State :=
  let again (k : Nat) : State :=
    (s.modCore core fun c => { c with wake := c.wake.upd n fun x => { x with st := .faulted, kind := k } }).reply r p d (1 + k * 256) 1
  match s.translate w.asid (w.va / 64 * 64) (if w.red.isSome then .atomic else .write) w.colour with
  | .ok pa at_ => ((s.touch w.asid w.va .write at_).cleanLine w.asid (w.va / 64) w.colour pa).reply r p d 0 1
  | .fault k => again k
  | .recipe _ _ => again 3

/-- A copy under REPLAY has tried every word again (R320): it completes, or its record describes what remains. -/
def State.replayEnd (s : State) (r : PackRef) (p : Pack) (d core n : Nat) (q : Copy) : State :=
  if q.done.length + q.bad.length != q.words then s.setPack r p
  else match q.bad with
    | e :: _ =>
      (s.modCore core fun c => { c with copies := c.copies.upd n fun x => { x with st := .faulted } }).reply r p d (1 + e.2.1 * 256) 1
    | [] =>
      if !(s.core core).outRoom q.handler then s.setPack r p
      else
        let s1 := (s.setPack r p).copyDone core n q
        match s1.pack r with | some p1 => s1.reply r p1 d 0 1 | none => s1

/-- The copy of a record moves its unwritten words again (R320); a remote one sends them, once. -/
def State.replayMove (s : State) (core n phase : Nat) (q : Copy) : State × Nat :=
  if q.mode = .remote then
    if phase = 1 then
      let x := s.sendRemote core n q
      (x.1.modCore core fun c => { c with copies := c.copies.upd n fun y => { y with st := .replaying } }, if x.2 then 2 else 1)
    else (s, 2)
  else (s.moveAll core n, 2)

/-- REPLAY acts (R314, R320): the record becomes REPLAYING; then its line is probed, or its words move, again. -/
def finishReplay (d : Nat) (s : State) (r : PackRef) (p : Pack) (w : Wait) : State :=
  let h := (p.s d).toNat
  let at_ := if h / 2 ^ 17 % 2 = 1 then s.copyPlace (h / 2 ^ 9 % 2 ^ 8) (h % 512) else (h / 2 ^ 9 % 2 ^ 8, h % 512)
  let core := at_.1
  let n := at_.2
  let go (phase uid : Nat) : Pack := { p with c := { p.c with wait := some { w with phase, info := uid } } }
  if w.phase = 0 then
    if !s.ready w then s.setPack r p
    else if h / 2 ^ 17 % 2 = 1 then
      let st := s.copyStatus p.id.ctx h
      if st != 0 then s.reply r p d st 1
      else match s.copyRec h with
        | none => s.reply r p d 3 1
        | some q =>
          let q1 : Copy := { q with st := .replaying, bad := [], first := q.bad.headD (0, 0, 0), elems := q.elems.filter fun e => e.val.isSome }
          (s.modCore core fun c => { c with copies := c.copies.put n q1 }).setPack r (go 1 q.uid)
    else
      let st := s.storeStatus p.id.ctx h
      if st != 0 then s.reply r p d st 1
      else match s.storeRec h with
        | none => s.reply r p d 3 1
        | some x =>
          (s.modCore core fun c => { c with wake := c.wake.put n { x with st := .replaying } }).setPack r (go 1 x.uid)
  else if h / 2 ^ 17 % 2 = 1 then
    match s.copyRec h with
    | none => s.reply r p d 0 1
    | some q =>
      if q.uid != w.info then s.reply r p d 0 1
      else
        let x := s.replayMove core n w.phase q
        match (x.1.core core).copies.find n with
        | some q1 => x.1.replayEnd r (go x.2 w.info) d core n q1
        | none => x.1.reply r p d 0 1
  else match s.storeRec h with
    | none => s.reply r p d 0 1
    | some x => if x.uid != w.info then s.reply r p d 0 1 else s.reprobe r p d core n x

/-- REPLAY (R317, R320). -/
def execReplay (d : Nat) (s : State) : Out := parkDev s (.replay d) (finishReplay d)

/-- A word whose major opcode is no instruction fails check 1 of R43 (R42). -/
def execUnassignedOpcode (op : Nat) (s : State) : Out :=
  issue s (.unassignedOpcode op) fun p => s.trapIllegal s.cur p (opWords op) 1

/-! ### FAULTRD and FAULTQ -/

/-- The fence holds of packs that have ended, which stand with their held stores: each with the serial of its pack (R180). -/
def Core.endedHolds (c : Core) : List (Nat × Cond) :=
  let all := (c.wake.filter fun e => e.2.st == .held && !(c.packs.any fun q => q.2.id.serial == bearingSerial e.2.bearing)).flatMap
    fun e => e.2.conds.map fun k => (bearingSerial e.2.bearing, k)
  all.foldl (fun a x => if a.contains x then a else a ++ [x]) []

/-- What waits on an access: release tokens, CPY starts and fence holds (R315). -/
def State.heldOn (s : State) (uid : Nat) : Nat :=
  let in_ (k : Cond) : Bool := k.sc != .core && k.uids.contains uid
  (s.cores.map fun e =>
    (e.2.outbound.filter fun t => t.conds.any in_).length + (e.2.copies.filter fun q => q.2.st == .waiting && in_ q.2.cond).length
      + (e.2.packs.map fun q => (q.2.c.holds.filter in_).length).sum + (e.2.endedHolds.filter fun h => in_ h.2).length).sum

/-- The sixteen words of a store record (R315). -/
def State.storeRecWords (s : State) (h : Nat) (w : Wake) : List Word :=
  two w.bearing.toNat ++ two w.va ++ two w.tag.toNat ++
  [BitVec.ofNat 32 (w.slot % 2 ^ 16 + 32 * 2 ^ 16 + w.kind * 2 ^ 24),
   BitVec.ofNat 32 ((if w.st = .replaying then 2 else 1) + Nat.log2 w.size * 2 ^ 8), BitVec.ofNat 32 h, 0, 1, 0] ++ two w.chrono ++
  [BitVec.ofNat 32 (s.heldOn w.uid), 0]

/-- The sixteen words of a copy record (R315): while it is replayed, it describes the fault that it had; what waits on it is its completion
token (DEDUCED, log 19). -/
def copyRecWords (h : Nat) (q : Copy) : List Word :=
  let first := if q.st = .replaying then q.first else q.bad.headD (0, 0, 0)
  two q.bearing.toNat ++ two first.2.2 ++ two q.tag.toNat ++
  [BitVec.ofNat 32 (q.bslot % 2 ^ 16 + 33 * 2 ^ 16 + first.2.1 * 2 ^ 24),
   if q.st = .replaying then 2 else 1, BitVec.ofNat 32 h, BitVec.ofNat 32 (4 * first.1),
   BitVec.ofNat 32 (q.words - q.done.length), 0] ++ two q.chrono ++ [if q.mode = .t then 0 else 1, 0]

/-- The word of an open record that a context's pack reads, else 0 (R321). -/
def State.recWord (s : State) (ctx h word : Nat) : Word :=
  match s.storeRec h, s.copyRec h with
  | some w, _ => if w.ctx = ctx then (s.storeRecWords h w).getD word 0 else 0
  | none, some q => if q.ctx = ctx then (copyRecWords h q).getD word 0 else 0
  | none, none => 0

/-- FAULTRD ends when its word has arrived (R321). -/
def finishFaultrd (s : State) (r : PackRef) (p : Pack) (w : Wait) : State :=
  if p.c.deferred.any fun d => d.uid == w.info then s.setPack r p else s.setPack r (p.unpark 1 s.now)

/-- FAULTRD (R321): a deferred result that also parks its pack. -/
def execFaultrd (d a word : Nat) (s : State) : Out :=
  issue s (.faultrd d a word) fun p =>
    if !p.deferRoom then s.deferWait p
    else
      let h := (p.s a).toNat
      let x := s.wordsAt p p.idx
      let dfr : Deferred := { uid := s.uid, kind := .fault, idx := p.idx, w0 := x.1, w1 := x.2, uni := true, d, size := 4, sext := false,
                              lanes := [{ lane := 0, addr := 0, res := .bound (s.recWord p.id.ctx h word).toNat }], cls := [],
                              trapen := p.r.trapen, ready := s.now }
      let w : Wait := { instr := .faultrd d a word, uids := [], sc := .core, phase := 0, info := s.uid }
      let p1 := p.defer dfr
      ((s.fresh 1).occupy s.cur 1).setPack s.cur { p1 with c := { p1.c with wait := some w } }

/-- FAULTQ of a context (R313). -/
def State.faultq (s : State) (ctx : Nat) : Word :=
  let trapped := (s.cores.map fun e => (e.2.packs.filter fun q => q.2.id.ctx == ctx &&
    (q.2.c.st == .trapped || q.2.c.resume.isSome)).length).sum
  let recs := (s.cores.map fun e => (e.2.wake.filter fun w => w.2.ctx == ctx && w.2.isOpen).length +
    (e.2.copies.filter fun q => q.2.ctx == ctx && q.2.isOpen).length).sum
  BitVec.ofNat 32 (min trapped 255 * 2 ^ 16 + min recs 65535)

end Sys2Proof.Machine
end

