-- ==== Sys2Proof/Machine/Harbour.lean ====
section
/-! DEFINITION. Harbour commands on pages, for HCMD and for the mailbox alike: map, unmap, protect, query, tcflush, with
the owner table and the page tables (R262 to R271, R278, R279). -/

namespace Sys2Proof.Machine

namespace HCode
/-- The status codes of R278. -/
def done : Nat := 0
/-- Synonym. -/
def synonym : Nat := 1
/-- Not granted. -/
def notGranted : Nat := 2
/-- Format. -/
def format : Nat := 3
/-- Count. -/
def count : Nat := 4
/-- Not mapped. -/
def notMapped : Nat := 5
/-- Already mapped. -/
def mapped : Nat := 6
/-- Recipe. -/
def isRecipe : Nat := 7
/-- The command block is unreadable. -/
def unreadable : Nat := 8
end HCode

/-- What a page operation works for: the context with its ASID and root, and whether the firmware issues it. -/
structure PageOwner where
  ctx  : Nat
  asid : Nat
  root : Nat
  fw   : Bool
deriving DecidableEq, Repr

/-- A page operation: the page, the physical page and the attributes (R278). -/
structure PageReq where
  va   : Nat
  pa   : Nat
  attr : Nat
deriving DecidableEq, Repr

/-- The size of the page: 2 MiB or 64 KiB (R278). -/
def PageReq.size (q : PageReq) : Nat := if q.attr.testBit 3 then 2 ^ 21 else 2 ^ 16
/-- A page of 2 MiB. -/
def PageReq.big (q : PageReq) : Bool := q.attr.testBit 3

/-- The leaf that a map writes: V = 1, LEAF = 1, A = D = 0 (R264, R279). -/
def PageReq.leaf (q : PageReq) : Nat :=
  3 + (q.attr % 2) * 2 ^ 3 + (q.attr / 2 % 2) * 2 ^ 4 + (q.attr / 4 % 2) * 2 ^ 5 + q.pa / 2 ^ 16 * 2 ^ 16

/-- The form of a request on a virtual page (R278 code 3). -/
def PageReq.vaOk (q : PageReq) : Bool := q.attr < 16 && q.va % q.size == 0 && q.va < 0xF00000000000

/-- The frames of a page from a physical address on. -/
def framesOf (pa size : Nat) : List Nat := (List.range (size / 2 ^ 16)).map fun i => pa + i * 2 ^ 16

/-! ### Page tables -/

/-- The first byte of the firmware's table frames: chunk 448 (log 5). -/
def tableBase : Nat := 448 * 2 ^ 30

/-- A table unit of 4 KiB taken and zeroed: the lowest that is free. -/
def State.takeTable (s : State) : State × Nat :=
  let n := ((List.range (s.part.tables.length + 1)).find? fun i => !s.part.tables.contains i).getD s.part.tables.length
  let pa := tableBase + n * 4096
  ({ s with part := { s.part with tables := s.part.tables ++ [n] },
            mem := { s.mem with hbm := s.mem.hbm.filter fun e => !(pa ≤ e.1 && e.1 < pa + 4096) } }, pa)

/-- A table given back. -/
def State.giveTable (s : State) (pa : Nat) : State :=
  { s with part := { s.part with tables := s.part.tables.filter (· != (pa - tableBase) / 4096) } }

/-- The next table below an entry, built where it is missing (R263, R279). -/
def State.nextTable (s : State) (at_ : Nat) : State × Nat :=
  let e := s.entry64 at_
  if e % 2 = 1 && fld e 1 1 = 0 then (s, ptrNext e)
  else
    let t := s.takeTable
    (t.1.setEntry64 at_ (t.2 + 1), t.2)

/-- The level-3 entry of an address, with the tables above it built. -/
def State.entry3 (s : State) (root va : Nat) : State × Nat :=
  let a := s.nextTable (root + fld va 47 39 * 8)
  let b := a.1.nextTable (a.2 + fld va 38 30 * 8)
  (b.1, b.2 + fld va 29 21 * 8)

/-- A leaf written at its level, with the tables above it built; a level-4 table gives way to a 2 MiB leaf (R279). -/
def State.writeLeaf (s : State) (root : Nat) (q : PageReq) : State :=
  let a := s.entry3 root q.va
  let e := a.1.entry64 a.2
  if q.big then
    let s1 := if e % 2 = 1 && fld e 1 1 = 0 then a.1.giveTable (ptrNext e) else a.1
    s1.setEntry64 a.2 q.leaf
  else
    let b := a.1.nextTable a.2
    b.1.setEntry64 (b.2 + fld q.va 20 16 * 8) q.leaf

/-- The level-4 leaves that stand below a 2 MiB page's place. -/
def State.leaves4 (s : State) (root va : Nat) : Option (List Nat) :=
  let e1 := s.entry64 (root + fld va 47 39 * 8)
  if e1 % 2 = 0 then none
  else
    let e2 := s.entry64 (ptrNext e1 + fld va 38 30 * 8)
    if e2 % 2 = 0 then none
    else
      let e3 := s.entry64 (ptrNext e2 + fld va 29 21 * 8)
      if e3 % 2 = 1 && fld e3 1 1 = 0 then some ((List.range 32).map fun i => s.entry64 (ptrNext e3 + i * 8)) else none

/-! ### The backing pages of evicted leaves -/

/-- The 64 KiB backing pages of an evicted leaf, from its page number (R264, R271). -/
def backPages (v : Nat) (big : Bool) : List Nat := (List.range (if big then 32 else 1)).map fun i => fld v 51 16 + i

/-- Backing pages given back (log 20). -/
def State.freeBack (s : State) (ctx : Nat) (ps : List Nat) : State :=
  s.modCtx ctx fun x => { x with box := { x.box with backUsed := x.box.backUsed.filter (fun n => !ps.contains n),
                                                     backOf := x.box.backOf.filter fun e => !ps.contains e.2 } }

/-- The backing pages kept for the pages of a range that are mapped again, in ascending virtual page (R272, log 20). -/
def Ctx.backAt (x : Ctx) (va size : Nat) : List Nat :=
  (List.range (size / 2 ^ 16)).filterMap fun i => (x.box.backOf.find? fun e => e.1 == va / 2 ^ 16 + i).map Prod.snd

/-- The backing pages of an evicted leaf that a map replaces: kept with the page where it has the leaf's size, else given back (log 20). -/
def State.keepBack (s : State) (ctx va size : Nat) (ps : List Nat) : State :=
  if ps.length = size / 2 ^ 16 then
    s.modCtx ctx fun x => { x with box := { x.box with backOf := x.box.backOf ++ (ps.zipIdx).map fun e => (va / 2 ^ 16 + e.2, e.1) } }
  else s.freeBack ctx ps

/-! ### Owner table -/

/-- The check of R268 on one frame for a map, with the allotment (R278 code 2). The firmware maps into an ASID that does not
hold the frame only read-only, and never a frame it keeps. -/
def State.ownCheck (s : State) (o : PageOwner) (w : Bool) (pa : Nat) : Nat :=
  let e := s.ownerOf pa
  let mine := ownGrant e == o.asid && ownGrant e != 0
  if !(mine || (o.fw && !w && ownGrant e != 0)) then HCode.notGranted
  else if ownState e = 0 then HCode.done
  else if ownState e = 1 || w then HCode.synonym
  else if ownCount e = 4095 then HCode.count else HCode.done

/-- The owner entry of a frame as it is mapped (R268). -/
def State.ownMap (s : State) (w : Bool) (va pa : Nat) : State :=
  let e := s.ownerOf pa
  s.setOwner pa (if w then mkOwner (va / 2 ^ 16) (ownGrant e) 0 1
    else mkOwner 0 (ownGrant e) ((if ownState e = 2 then ownCount e else 0) + 1) 2)

/-- The owner entry of a frame as a mapping goes (R270 step 3). -/
def State.ownUnmap (s : State) (pa : Nat) : State :=
  let e := s.ownerOf pa
  s.setOwner pa (if ownState e = 2 && ownCount e > 1 then mkOwner 0 (ownGrant e) (ownCount e - 1) 2 else mkOwner 0 (ownGrant e) 0 0)

/-- The translation-cache entries of an ASID in a range dropped. -/
def State.dropTc (s : State) (asid va size : Nat) : State :=
  { s with mem := { s.mem with tc := s.mem.tc.filter fun e =>
      !(e.asid == asid && e.page * 2 ^ 16 < va + size && va < e.page * 2 ^ 16 + (if e.big then 2 ^ 21 else 2 ^ 16)) } }

/-! ### The operations on a page -/

/-- A live recipe tile stands in a range: a record that is not FREE (R279, R332). -/
def State.liveTile (s : State) (ctx va size : Nat) : Bool :=
  match s.ctx ctx with
  | none => false
  | some x => x.recipes.any fun e => va ≤ e.2.tile && e.2.tile < va + size

/-- What stands where a map would write: a code, and the backing pages of the evicted leaf that it replaces (R279). -/
def State.mapPlace (s : State) (o : PageOwner) (q : PageReq) : Nat × List Nat :=
  match s.leaves4 o.root q.va with
  | some vs =>
    if q.big then (if vs.any fun v => v % 2 == 1 || fld v 8 8 == 1 then HCode.mapped else HCode.done, [])
    else match s.walk o.root q.va with
      | .leaf _ _ _ => (HCode.mapped, [])
      | .recipe _ _ => (HCode.isRecipe, [])
      | .format => (HCode.format, [])
      | .evicted _ v b => (HCode.done, backPages v b)
      | .none _ => (HCode.done, [])
  | none => match s.walk o.root q.va with
    | .leaf _ _ _ => (HCode.mapped, [])
    | .recipe _ _ => (HCode.isRecipe, [])
    | .format => (HCode.format, [])
    | .evicted _ v b => (HCode.done, backPages v b)
    | .none _ => (HCode.done, [])

/-- One page mapped, or the code of what stops it (R268, R278, R279): form, host memory, what stands there, then the owner
table frame by frame. -/
def State.pageMap (s : State) (o : PageOwner) (q : PageReq) : State × Nat :=
  let w := q.attr % 2 = 1
  let fs := framesOf q.pa q.size
  if !q.vaOk || q.pa % q.size != 0 then (s, HCode.format)
  else if (paHost q.pa).isSome then (s, HCode.notGranted)
  else if !paHbm q.pa then (s, HCode.format)
  else
    let pl := s.mapPlace o q
    if pl.1 != 0 then (s, pl.1)
    else match (fs.map fun f => s.ownCheck o w f).find? (· != 0) with
      | some c => (s, c)
      | none =>
        let s1 := (fs.zipIdx).foldl (fun (t : State) f => t.ownMap w (q.va + f.2 * 2 ^ 16) f.1) s
        ((s1.writeLeaf o.root q).keepBack o.ctx q.va q.size pl.2, HCode.done)

/-- The leaf that maps a page for an unmap or a protect, or the code of what stops it (R279). -/
def State.mappedLeaf (s : State) (o : PageOwner) (q : PageReq) : Except Nat (Nat × Nat) :=
  if !q.vaOk then .error HCode.format
  else if s.liveTile o.ctx q.va q.size then .error HCode.isRecipe
  else if q.big && (s.leaves4 o.root q.va).isSome then .error HCode.format
  else match s.walk o.root q.va with
    | .leaf at_ v big => if big != q.big then .error HCode.format else .ok (at_, v)
    | .recipe _ _ => .error HCode.isRecipe
    | _ => .error HCode.notMapped

/-- One page unmapped in the four steps of R270. -/
def State.pageUnmap (s : State) (o : PageOwner) (q : PageReq) : State × Nat :=
  match s.mappedLeaf o q with
  | .error c => (s, c)
  | .ok (at_, v) =>
    let s1 := (s.flushRange o.asid q.va q.size).setEntry64 at_ 0
    let pa := leafPa v q.big q.va
    let s2 := if (paHost pa).isSome then s1 else (framesOf pa q.size).foldl (fun (t : State) f => t.ownUnmap f) s1
    ((s2.dropTc o.asid q.va q.size).freeBack o.ctx (match s.ctx o.ctx with | some x => x.backAt q.va q.size | none => []), HCode.done)

/-- One page's rights and attributes changed (R271, R279); A and D stand as the write-back of its dirty lines leaves them (R265). -/
def State.pageProtect (s : State) (o : PageOwner) (q : PageReq) : State × Nat :=
  match s.mappedLeaf o q with
  | .error c => (s, c)
  | .ok (at_, v) =>
    let pa := leafPa v q.big q.va
    let fs := if (paHost pa).isSome then [] else framesOf pa q.size
    let w0 := fld v 3 3
    let w1 := q.attr % 2
    if w0 = 0 && w1 = 1 && !(fs.all fun f => ownState (s.ownerOf f) == 2 && ownCount (s.ownerOf f) == 1) then (s, HCode.synonym)
    else
      let flush := (w0 = 1 && w1 = 0) || fld v 5 4 != q.attr / 2 % 4
      let s1 := if flush then s.flushRange o.asid q.va q.size else s
      let new := s1.entry64 at_ / 2 ^ 6 * 2 ^ 6 + 3 + w1 * 2 ^ 3 + (q.attr / 2 % 2) * 2 ^ 4 + (q.attr / 4 % 2) * 2 ^ 5
      let s2 := if w0 = w1 then s1 else (fs.zipIdx).foldl (fun (t : State) f =>
        let e := t.ownerOf f.1
        t.setOwner f.1 (if w1 = 1 then mkOwner (q.va / 2 ^ 16 + f.2) (ownGrant e) 0 1 else mkOwner 0 (ownGrant e) 1 2)) s1
      ((s2.setEntry64 at_ new).dropTc o.asid q.va q.size, HCode.done)

/-- The leaf entry found at a page, or 0, and whether it is mapped (R279). -/
def State.pageQuery (s : State) (o : PageOwner) (q : PageReq) : Except Nat (Nat × Nat) :=
  if !q.vaOk then .error HCode.format
  else match s.walk o.root q.va with
    | .leaf _ v _ => .ok (v, 1)
    | .evicted _ v _ => .ok (v, 0)
    | .recipe at_ _ => .ok (s.entry64 at_, 0)
    | .none (some at_) => .ok (s.entry64 at_, 0)
    | .none none => .ok (0, 0)
    | .format => .ok (0, 0)

/-- The translation-cache entries of an ASID dropped in the units of a mask; 0 selects all eight (R279). -/
def State.tcFlush (s : State) (asid mask : Nat) : State :=
  { s with mem := { s.mem with tc := s.mem.tc.filter fun e => !(e.asid == asid && (mask == 0 || mask.testBit e.unit)) } }

/-! ### HCMD -/

/-- The harbour operations of HCMD. -/
inductive HOp where
  | map | unmap | protect | query | tcflush (mask : Nat)
deriving DecidableEq, Repr

/-- The operations that act on sB pages; `.query` and `.tcflush` ignore sB (R278, R279). -/
def HOp.counted : HOp → Bool
  | .map | .unmap | .protect => true
  | _ => false

/-- One page of a harbour operation. -/
def State.pageOp (s : State) (op : HOp) (o : PageOwner) (q : PageReq) : State × Nat :=
  match op with
  | .map => s.pageMap o q
  | .unmap => s.pageUnmap o q
  | .protect => s.pageProtect o q
  | _ => (s, HCode.done)

/-- A command block as read: VA, PA, ATTR and the reserved bytes (R278). -/
structure HBlock where
  va   : Nat
  pa   : Nat
  attr : Nat
  rsv  : Nat
deriving DecidableEq, Repr

/-- The block of its 32 bytes, given as one number. -/
def HBlock.ofNat (n : Nat) : HBlock :=
  { va := n % 2 ^ 64, pa := n / 2 ^ 64 % 2 ^ 64, attr := n / 2 ^ 128 % 2 ^ 8, rsv := n / 2 ^ 136 }

/-- The reserved bytes and bits of a block are zero (R278). -/
def HBlock.clean (b : HBlock) : Bool := b.rsv == 0 && b.attr < 16

/-- The request on page j of a block (R278). -/
def HBlock.page (b : HBlock) (j : Nat) : PageReq :=
  let q : PageReq := { va := b.va, pa := b.pa, attr := if b.rsv = 0 then b.attr else 16 }
  { q with va := b.va + j * q.size, pa := b.pa + j * q.size }

/-- What the harbour units read at a block's address: its number, unreadable, or parked at a Retriever. -/
def State.readBlock (s : State) (asid va : Nat) : State × HRes :=
  let part (acc : State × HRes) (i : Nat) : State × HRes :=
    match acc.2 with
    | .data bs p =>
      match acc.1.homeRead asid (va + 8 * i) 8 none .read with
      | (s1, .data cs q) => (s1, .data (bs ++ cs) (p || q))
      | r => r
    | _ => acc
  (List.range 4).foldl part (s, .data [] false)

/-- The status word (R278). -/
def hStatus (done code : Nat) : Nat := done * 2 ^ 8 + code

/-- HCMD ends (R278 step 5): the status is written, and as an acquire at .dev the core's L1 global lines are dropped. -/
def State.hReply (s : State) (r : PackRef) (p : Pack) (d st : Nat) : State :=
  (s.acquireDrop r.core).reply r (p.inherit (s.unperformed r.core (s.asid p.id.ctx) .dev)) d st 2

/-- The result of a query written to its block, through the home slice (R279). -/
def State.putQuery (s : State) (core asid va v : Nat) : State :=
  let a := s.copyWrite core asid (va + 8) (BitVec.ofNat 32 v) false none
  (a.1.copyWrite core asid (va + 12) (BitVec.ofNat 32 (v / 2 ^ 32)) false none).1

/-- HCMD acts (R278 steps 2 to 5): it reads its block once, then one page in a step. -/
def finishHcmd (op : HOp) (d a : Nat) (b : Nat) (s : State) (r : PackRef) (p : Pack) (w : Wait) : State :=
  match s.ctx p.id.ctx with
  | none => s.setPack r p
  | some x =>
    let o : PageOwner := { ctx := p.id.ctx, asid := x.r.asid, root := x.root, fw := false }
    let va := (p.s2 a).toNat
    let count := (p.s b).toNat
    if w.phase = 0 then
      if !s.ready w then s.setPack r p
      else if op.counted && count = 0 then s.hReply r p d 0
      else match s.readBlock o.asid va with
        | (s1, .recipe n k) => (s1.noteMiss o.asid (va / 64) n k).setPack r p
        | (s1, .fault _) => s1.hReply r p d HCode.unreadable
        | (s1, .data _ true) => s1.hReply r p d HCode.unreadable
        | (s1, .data bs false) =>
          let blk := leNat bs
          match op with
          | .tcflush m =>
            if (HBlock.ofNat blk).clean then (s1.tcFlush o.asid m).hReply r p d 0 else s1.hReply r p d HCode.format
          | .query =>
            match s1.pageQuery o ((HBlock.ofNat blk).page 0) with
            | .error c => s1.hReply r p d c
            | .ok (v, n) => (s1.putQuery r.core o.asid va v).hReply r p d (hStatus n 0)
          | _ => s1.setPack r { p with c := { p.c with wait := some { w with phase := 1, info := blk } } }
    else
      let j := w.phase - 1
      let q := s.pageOp op o ((HBlock.ofNat w.info).page j)
      if q.2 != 0 then q.1.hReply r p d (hStatus j q.2)
      else if j + 1 = count then q.1.hReply r p d (hStatus count 0)
      else q.1.setPack r { p with c := { p.c with wait := some { w with phase := w.phase + 1 } } }

/-- HCMD at issue (R278 step 1): its block is 8-aligned and in a region with R and W, or the pack takes the fault. -/
def hcmdIssue (i : Instr) (op : HOp) (d a b : Nat) (s : State) : Out :=
  issue s i fun p =>
    let va := (p.s2 a).toNat
    if va % 8 != 0 then (s.occupy s.cur 1).trapIssue s.cur p 2 (p.allLanes 4 0 0)
    else if !s.permits p 3 va 32 then (s.occupy s.cur 1).trapIssue s.cur p 2 (p.allLanes 8 0 0)
    else
      let w : Wait := { instr := i, uids := s.covered s.cur p, sc := .dev, phase := 0, info := 0 }
      finishHcmd op d a b (s.occupy s.cur 1) s.cur { p with c := { p.c with wait := some w } } w

/-- HCMD.map (R279). -/
def execHcmdMap (d a b : Nat) (s : State) : Out := hcmdIssue (.hcmdMap d a b) .map d a b s
/-- HCMD.unmap (R279). -/
def execHcmdUnmap (d a b : Nat) (s : State) : Out := hcmdIssue (.hcmdUnmap d a b) .unmap d a b s
/-- HCMD.protect (R279). -/
def execHcmdProtect (d a b : Nat) (s : State) : Out := hcmdIssue (.hcmdProtect d a b) .protect d a b s
/-- HCMD.query (R279). -/
def execHcmdQuery (d a b : Nat) (s : State) : Out := hcmdIssue (.hcmdQuery d a b) .query d a b s
/-- HCMD.tcflush (R279). -/
def execHcmdTcflush (d a b mask : Nat) (s : State) : Out := hcmdIssue (.hcmdTcflush d a b mask) (.tcflush mask) d a b s

end Sys2Proof.Machine
end

