-- ==== Sys2Proof/Machine/Privileged.lean ====
section
/-! DEFINITION. MOVC, CWBI and REBIND (R274 to R277, R280, R281, R234). -/

namespace Sys2Proof.Machine

/-! ### MOVC -/

/-- CTXID of a context (R275). -/
def ctxId (n : Nat) (x : Ctx) : Word :=
  BitVec.ofNat 32 (x.r.weight % 16 * 2 ^ 21 + x.r.cls % 4 * 2 ^ 19 + x.r.port % 2 * 2 ^ 18 + n % 64 * 2 ^ 12 + x.r.asid % 2 ^ 12)

/-- The value of a control register as a pack reads it (R31, R276, R313). -/
def State.control (s : State) (p : Pack) (sel : Ctl) : Word :=
  match s.ctx p.id.ctx with
  | none => 0
  | some x => match sel with
    | .fpctl => p.r.fpctl
    | .trapen => p.r.trapen
    | .flags => x.r.flags
    | .mxcnt => x.r.mxcnt
    | .ctxid => ctxId p.id.ctx x
    | .priv => BitVec.ofNat 32 x.r.priv
    | .leash => p.r.leash
    | .faultq => s.faultq p.id.ctx

/-- A control register written: reserved bits are ignored, FLAGS clears the bits written as 1 (R94, R96, R276, R277). -/
def State.setControl (s : State) (p : Pack) (sel : Ctl) (x : Word) : State × Pack :=
  match sel with
  | .fpctl => (s, { p with r := { p.r with fpctl := x &&& 7 } })
  | .trapen => (s, { p with r := { p.r with trapen := x &&& BitVec.ofNat 32 trapClasses } })
  | .flags => (s.modCtx p.id.ctx fun c => { c with r := { c.r with flags := c.r.flags &&& ~~~x } }, p)
  | .mxcnt => (s.modCtx p.id.ctx fun c => { c with r := { c.r with mxcnt := x } }, p)
  | _ => (s, p)

/-- MOVC sD, name (R277). -/
def execMovcRead (d : Nat) (sel : Ctl) (s : State) : Out :=
  packOp s (.movcRead d sel) 1 fun p => p.setS d (s.control p sel)

/-- MOVC name, sD (R277). -/
def execMovcWrite (d : Nat) (sel : Ctl) (s : State) : Out :=
  issue s (.movcWrite d sel) fun p =>
    let q := s.setControl p sel (p.s d)
    q.1.retire q.2 1 1

/-! ### CWBI -/

/-- Some right of R and W covers every byte of a range (R280). -/
def State.permitsAny (s : State) (p : Pack) (va len : Nat) : Bool :=
  len = 0 || (va + len ≤ 2 ^ 64 && (granules va len).all fun g => s.permits p 1 g 1 || s.permits p 2 g 1)

/-- The write-back and invalidation of a range, with the lines that carry the regeneration mark of the pack's own colour (R335); unlike an unmap
it answers no probe, and it leaves a line whose write has no answer yet. -/
def State.cwbiRange (s : State) (asid va len : Nat) (colour : Option Nat) : State :=
  let own (a line : Nat) (m : Option Nat) : Bool := inRange asid va len a line && (m.isNone || m == colour)
  let hit (l : L2Line) : Bool := own l.asid l.line l.colour && !l.held && l.probes == 0
  let s1 := (s.mem.l2.filter fun l => hit l && l.unsaved).foldl (fun (t : State) l => t.writeBack l) s
  let s2 : State := { s1 with mem := { s1.mem with l2 := s1.mem.l2.filter fun l => !(hit l && l.dirty == 0 && l.ops.isEmpty) } }
  s2.dropL1 fun l => own l.asid l.line l.colour

/-- CWBI acts (R280 steps 2 to 5): dirty lines of the range are written to HBM, its copies are invalidated but for held
lines, and the core drops its L1 global lines. -/
def finishCwbi (a b : Nat) (s : State) (r : PackRef) (p : Pack) (w : Wait) : State :=
  if !s.ready w then s.setPack r p
  else
    let len := (p.s b).toNat
    if len = 0 then s.setPack r (p.unpark 1 s.now)
    else ((s.cwbiRange (s.asid p.id.ctx) (p.s2 a).toNat len p.id.colour).acquireDrop r.core).setPack r (p.unpark 1 s.now)

/-- CWBI (R280): start and length are multiples of 64 and every byte has R or W, or the pack takes the fault. -/
def execCwbi (a b : Nat) (s : State) : Out :=
  issue s (.cwbi a b) fun p =>
    let va := (p.s2 a).toNat
    let len := (p.s b).toNat
    if va % 64 != 0 || len % 64 != 0 then (s.occupy s.cur 1).trapIssue s.cur p 1 (p.allLanes 4 0 0)
    else if !s.permitsAny p va len then (s.occupy s.cur 1).trapIssue s.cur p 1 (p.allLanes 8 0 0)
    else
      let w : Wait := { instr := .cwbi a b, uids := s.covered s.cur p, sc := .dev, phase := 0, info := 0 }
      finishCwbi a b (s.occupy s.cur 1) s.cur { p with c := { p.c with wait := some w } } w

/-! ### REBIND -/

/-- An image is pure. -/
def State.pureImage (s : State) (h : Nat) : Bool := match s.images.find h with | some i => i.pure | none => false

/-- A slot belongs to a pure image (R281). -/
def State.pureSlot (s : State) (b : Block) : Bool := s.pureImage b.img || s.pureImage b.run

/-- The checks of R281 that need no report of the cores: the status, 0 where they pass. -/
def State.rebindStatus (s : State) (ctx target donor : Nat) : Nat :=
  match s.block target with
  | none => 2
  | some t =>
    if t.ctx != ctx then 2
    else match s.block donor with
      | none => 3
      | some b =>
        if b.ctx != ctx || donor = target then 3
        else if s.pureSlot t || s.pureSlot b then 4 else 0

/-- A slot has an entry or a firing pack on some core (R234 step 2). -/
def State.slotLive (s : State) (slot : Nat) : Bool :=
  s.cores.any fun e => e.2.entries.any (fun x => x.slot == slot) || e.2.packs.any fun q => q.2.id.slot == slot

/-- A slot bound to a donor's block (R234 step 3, R281): streams of the slot are cleared (R214). -/
def State.bindTo (s : State) (target donor : Nat) : State :=
  match s.blocks.find target, s.blocks.find donor with
  | some t, some b =>
    let s1 := { s with blocks := s.blocks.put target { b with img := t.img, closing := false } }
    { s1 with cores := s1.cores.map fun (e : Nat × Core) => (e.1, { e.2 with streams := e.2.streams.filter fun x => x.slot != target }) }
  | _, _ => s

/-- REBIND closes its target, and in a later step takes the cores' reports (R234). -/
def finishRebind (a b : Nat) (s : State) (r : PackRef) (p : Pack) (w : Wait) : State :=
  let target := (p.s a).toNat % 2 ^ 16
  let donor := (p.s b).toNat % 2 ^ 16
  let reopen (t : State) (v : Bool) : State := { t with blocks := t.blocks.upd target fun x => { x with closing := v } }
  let st := s.rebindStatus p.id.ctx target donor
  if w.phase = 0 then
    if st != 0 then s.reply r p a st 1
    else (reopen s true).setPack r { p with c := { p.c with wait := some { w with phase := 1 } } }
  else if st != 0 then (reopen s false).reply r p a st 1
  else if s.slotLive target then (reopen s false).reply r p a 1 1
  else (s.bindTo target donor).reply r p a 0 1

/-- REBIND (R281). -/
def execRebind (a b : Nat) (s : State) : Out :=
  issue s (.rebind a b) fun p =>
    let w : Wait := { instr := .rebind a b, uids := [], sc := .core, phase := 0, info := 0 }
    finishRebind a b (s.occupy s.cur 1) s.cur { p with c := { p.c with wait := some w } } w

end Sys2Proof.Machine
end

