-- ==== Sys2Proof/Machine/Recipes.lean ====
section
/-! DEFINITION. The recipe table and the recipe instructions: RSEAL, RDROP, RFREE, RPIN, RSTAT (R327 to R331, R342 to R347). -/

namespace Sys2Proof.Machine

/-! ### Records -/

/-- The record of a tile with its index (R328). -/
def Ctx.tileRec (x : Ctx) (va : Nat) : Option (Nat × Rec) := x.recipes.find? fun e => e.2.tile == va

/-- Recipe records changed. -/
def State.modRec (s : State) (ctx rix : Nat) (f : Rec → Rec) : State :=
  s.modCtx ctx fun x => { x with recipes := x.recipes.upd rix f }

/-- The code of a record's state (R330). -/
def RecSt.code : RecSt → Nat
  | .pinned => 1 | .sealed => 2 | .dropped => 3 | .regen => 4 | .failed => 5

/-- A range of 64 KiB may be a recipe tile by its address and its leaf (R327). -/
def State.tileLeaf (s : State) (x : Ctx) (va : Nat) : Option (Nat × Nat) :=
  if va % 2 ^ 16 != 0 || va ≥ 0xF00000000000 then none
  else match s.walk x.root va with
    | .leaf at_ v false => if fld v 4 4 = 0 then some (at_, v) else none
    | _ => none

/-- A range is a tile: it has a record, or a leaf that R327 admits. -/
def State.isTile (s : State) (x : Ctx) (va : Nat) : Bool := (x.tileRec va).isSome || (s.tileLeaf x va).isSome

/-- A line of a tile is held behind a deferred store fault, or stands under a write whose answer is still to come (R328, R188). -/
def State.tileHeld (s : State) (asid tile : Nat) : Bool :=
  s.mem.l2.any fun l => l.asid == asid && l.line / 1024 == tile / 2 ^ 16 && l.colour.isNone && (l.held || l.probes != 0)

/-- A tile is held resident (R328). -/
def State.heldResident (s : State) (asid : Nat) (t : Rec) : Bool :=
  t.pinners != 0 || t.pins != 0 || t.busy != 0 || s.tileHeld asid t.tile

/-- A PINNED record of a tile (R328, R330). -/
def Rec.pinnedNew (tile : Nat) : Rec where
  tile := tile
  sources := []
  pinsrc := []
  params := [0, 0, 0, 0]
  crc := 0
  entry := 0xFFFF
  depth := 0
  st := .pinned
  busy := 0
  deps := 0
  pinners := 0
  pins := 0
  chrono := 0
  misses := 0

/-- A record created at the lowest free index (R328). -/
def Ctx.addRec (x : Ctx) (t : Rec) : Ctx := { x with recipes := x.recipes.put ((x.recipes.free 8192).getD 8191) t }

/-- PINNED records that nothing holds any more are FREE (R330). -/
def Ctx.freePinned (x : Ctx) : Ctx :=
  { x with recipes := x.recipes.filter fun e => !(e.2.st == .pinned && e.2.deps == 0 && e.2.pins == 0) }

/-! ### Dropping -/

/-- The leaf bits that a recipe tile keeps while its page is absent: SH and EV. -/
def keptBits (v : Nat) : Nat := fld v 5 4 * 2 ^ 4

/-- The marker leaf of a dropped tile (R331). -/
def markerLeaf (v rix : Nat) : Nat := 2 ^ 50 + rix % 2 ^ 13 * 2 ^ 16 + 2 ^ 8 + keptBits v + 2

/-- Every L2 and L1 copy of a tile's unmarked lines invalidated without any write (R331 step 2). -/
def State.discardTile (s : State) (asid tile : Nat) : State :=
  let hit (a line : Nat) : Bool := a == asid && line / 1024 == tile / 2 ^ 16
  ({ s with mem := { s.mem with l2 := s.mem.l2.filter fun l => !(hit l.asid l.line && l.colour.isNone) } }).dropL1
    fun l => hit l.asid l.line && l.colour.isNone

/-- A sealed tile dropped in the steps of R331. -/
def State.dropTile (s : State) (ctx rix : Nat) : State :=
  match s.ctx ctx with
  | none => s
  | some x =>
    match x.recipes.find rix with
    | none => s
    | some t =>
      match s.walk x.root t.tile with
      | .leaf at_ v false =>
        let s1 := (s.discardTile x.r.asid t.tile).setEntry64 at_ (markerLeaf v rix)
        let pa := leafPa v false t.tile
        let s2 := if paHbm pa then s1.setOwner pa (mkOwner 0 (ownGrant (s1.ownerOf pa)) 0 0) else s1
        (s2.dropTc x.r.asid t.tile 0x10000).modRec ctx rix fun q => { q with st := .dropped }
      | _ => s

/-- A tile may be dropped: SEALED and not held resident (R331, R344). -/
def State.mayDrop (s : State) (asid : Nat) (t : Rec) : Bool := t.st == .sealed && !s.heldResident asid t && t.depth ≤ 4

/-! ### The shared form of RSEAL, RDROP, RFREE and RPIN (R342) -/

/-- The status word (R342): the index that the tile's record has when it is written. -/
def State.recStatus (s : State) (ctx va code : Nat) : Nat :=
  let ix := match s.ctx ctx with | some x => ((x.tileRec va).map Prod.fst).getD 0xFFFF | none => 0xFFFF
  ix * 2 ^ 16 + code

/-- The instruction acts when the pack's earlier accesses are performed at .dev; the status goes to the even register, and
the core drops its L1 global lines (R342). -/
def finishRecipe (a len : Nat) (act : State → Ctx → Nat → Nat → State × Nat) (s : State) (r : PackRef) (p : Pack) (w : Wait) : State :=
  if !s.ready w then s.setPack r p
  else match s.ctx p.id.ctx with
    | none => s.setPack r p
    | some x =>
      let va := (p.s2 a).toNat
      let q := act s x p.id.ctx va
      (q.1.acquireDrop r.core).reply r (p.inherit (q.1.unperformed r.core (q.1.asid p.id.ctx) .dev)) a (q.1.recStatus p.id.ctx va q.2) len

/-- The issue of a recipe instruction: alignment, then rights on the tile, precise for k0 (R342). -/
def recipeIssue (s : State) (i : Instr) (a need : Nat) (fin : State → PackRef → Pack → Wait → State) : Out :=
  issue s i fun p =>
    let va := (p.s2 a).toNat
    let bad (c : Nat) : State := (s.occupy s.cur 1).trapIssue s.cur p (instrLen i) (p.allLanes c 0 0)
    if va % 0x10000 != 0 then bad 4
    else if !s.permits p need va 0x10000 then bad 8
    else
      let w : Wait := { instr := i, uids := s.covered s.cur p, sc := .dev, phase := 0, info := 0 }
      fin (s.occupy s.cur 1) s.cur { p with c := { p.c with wait := some w } } w

/-! ### RSEAL -/

/-- A source is chained (R329). -/
def chained (t : Option Rec) : Bool :=
  match t with
  | some t => (t.st == .sealed || t.st == .dropped || t.st == .regen) && t.depth + 1 ≤ 4
  | none => false

/-- A source can be neither chained nor pinned (R329). -/
def cannotSource (t : Option Rec) : Bool :=
  match t with | some t => (t.st == .dropped || t.st == .regen) && t.depth + 1 > 4 | none => false

/-- The status of a seal, 0 where it is accepted (R343, in the order of its table). -/
def State.sealStatus (s : State) (x : Ctx) (va : Nat) (srcs : List Nat) : Nat :=
  let rec_ (a : Nat) : Option Rec := (x.tileRec a).map Prod.snd
  let recs := srcs.map rec_
  let fresh := (recs.filter fun t => t.isNone).length + (if (rec_ va).isNone then 1 else 0)
  if !(s.isTile x va) || srcs.any (fun a => !(s.isTile x a)) then 1
  else if (match rec_ va with | some t => t.st != RecSt.pinned | none => false) then 2
  else if (distinct srcs).length != srcs.length || srcs.contains va || recs.any (fun t => match t with | some t => t.st == RecSt.failed | none => false) then 7
  else if recs.any cannotSource then 4
  else if x.recipes.length + fresh > 8192 then 5
  else if recs.any (fun t => match t with | some t => t.deps ≥ 65535 || (!chained (some t) && t.pinners ≥ 65535) | none => false) then 6
  else 0

/-- A source counted: it has a record, and its dependants and, where it is pinned, its pinners rise (R329). -/
def Ctx.countSource (x : Ctx) (a : Nat) : Ctx :=
  let x1 := if (x.tileRec a).isSome then x else x.addRec (Rec.pinnedNew a)
  match x1.tileRec a with
  | none => x1
  | some (i, t) =>
    { x1 with recipes := x1.recipes.put i { t with deps := t.deps + 1, pinners := t.pinners + (if chained (some t) then 0 else 1) } }

/-- An accepted seal (R343 steps 1 to 4). -/
def State.sealTile (s : State) (ctx va : Nat) (srcs : List Nat) (params : List Word) (entry : Nat) : State :=
  match s.ctx ctx with
  | none => s
  | some x =>
    match s.tileLeaf x va with
    | none => s
    | some (at_, v0) =>
      let recs := srcs.map fun a => (x.tileRec a).map Prod.snd
      let depth := 1 + (recs.filter chained).foldl (fun m t => max m ((t.map fun q => q.depth).getD 0)) 0
      let x1 := srcs.foldl Ctx.countSource x
      let x2 := if (x1.tileRec va).isSome then x1 else x1.addRec (Rec.pinnedNew va)
      let pa := leafPa v0 false va
      let s1 := (s.modCtx ctx fun _ => x2).flushRange x.r.asid va 0x10000
      let v := s1.entry64 at_
      let s2 := (s1.setEntry64 at_ (v - fld v 3 3 * 8)).dropTc x.r.asid va 0x10000
      let s3 := if paHbm pa && ownState (s2.ownerOf pa) = 1 then s2.setOwner pa (mkOwner 0 (ownGrant (s2.ownerOf pa)) 1 2) else s2
      match x2.tileRec va with
      | none => s3
      | some (i, t) =>
        let ix (a : Nat) : Nat := ((x2.tileRec a).map Prod.fst).getD 0xFFFF
        let pins := recs.map fun q => !chained q
        let crc := crc32c (s3.physRead pa 0x10000)
        let q : Rec := { t with sources := srcs.map ix, pinsrc := pins, params, crc, entry, depth, st := .sealed,
                                chrono := s.now, misses := 0 }
        s3.modCtx ctx fun y => { y with recipes := y.recipes.put i q }

/-- RSEAL acts (R343). -/
def finishRseal (d a b entry n : Nat) (s : State) (r : PackRef) (p : Pack) (w : Wait) : State :=
  let srcs := (List.range n).map fun i => (p.s2 (d + 2 * i)).toNat
  let params := (List.range 4).map fun i => p.s (b + i)
  finishRecipe a 2 (fun t x ctx va =>
    let st := t.sealStatus x va srcs
    (if st = 0 then t.sealTile ctx va srcs params entry else t, st)) s r p w

/-- RSEAL (R342, R343). -/
def execRseal (d a b entry n : Nat) (s : State) : Out := recipeIssue s (.rseal d a b entry n) a 3 (finishRseal d a b entry n)

/-! ### RDROP -/

/-- RDROP acts (R344). -/
def finishRdrop (a : Nat) (s : State) (r : PackRef) (p : Pack) (w : Wait) : State :=
  finishRecipe a 1 (fun t x ctx va =>
    if !(t.isTile x va) then (t, 1)
    else match x.tileRec va with
      | none => (t, 2)
      | some (i, q) =>
        if q.st != .sealed then (t, 2) else if t.heldResident x.r.asid q then (t, 3) else (t.dropTile ctx i, 0)) s r p w

/-- RDROP (R342, R344). -/
def execRdrop (a : Nat) (s : State) : Out := recipeIssue s (.rdrop a) a 1 (finishRdrop a)

/-! ### RFREE -/

/-- Busy marks of records lowered. -/
def State.unbusy (s : State) (ctx : Nat) (rs : List Nat) : State :=
  rs.foldl (fun (t : State) i => t.modRec ctx i fun q => { q with busy := q.busy - 1 }) s

/-- Accesses parked on a tile go on and find its state again. -/
def State.unpark (s : State) (asid tile : Nat) : State :=
  let f (e : Nat × Slot) : Nat × Slot :=
    if e.2.asid == asid && e.2.line / 1024 == tile / 2 ^ 16 then (e.1, { e.2 with parked := false }) else e
  { s with cores := s.cores.map fun (e : Nat × Core) => (e.1, { e.2 with slots := e.2.slots.map f }) }

/-- A record taken off every Retriever's queue and stack, with the busy marks it had set (R345; DEDUCED, log 21). -/
def State.unqueue (s : State) (ctx rix : Nat) : State :=
  let mine (g : Regen) : Bool := g.ctx == ctx && g.rix == rix
  let marks := s.retr.flatMap fun e => (e.2.stack.filter mine).flatMap fun g =>
    match s.ctx ctx with
    | some x => match x.recipes.find rix with | some t => t.sources.take g.done | none => []
    | none => []
  { s.unbusy ctx marks with
    retr := s.retr.map fun e => (e.1, { e.2 with queue := e.2.queue.filter (fun q => q != (ctx, rix)), stack := e.2.stack.filter fun g => !mine g })
    misses := s.misses.filter fun m => !(m.ctx == ctx && m.rix == rix) }

/-- The source counts of a record undone (R345 step 1). -/
def Ctx.undoSources (x : Ctx) (t : Rec) : Ctx :=
  ((t.sources.zip t.pinsrc).foldl (fun (y : Ctx) e => { y with recipes := y.recipes.upd e.1 fun q =>
    { q with deps := q.deps - 1, pinners := q.pinners - (if e.2 then 1 else 0) } }) x).freePinned

/-- A resident tile's page made writable again (R345 step 2); a frame with other read-only mappings stays READONLY (log 21). -/
def State.unsealPage (s : State) (asid at_ v tile : Nat) : State :=
  let pa := leafPa v false tile
  let e := s.ownerOf pa
  if !paHbm pa then s.setEntry64 at_ (v - fld v 3 3 * 8 + 8)
  else if ownState e = 2 && ownCount e = 1 then
    ((s.setEntry64 at_ (v - fld v 3 3 * 8 + 8)).setOwner pa (mkOwner (tile / 2 ^ 16) (ownGrant e) 0 1)).dropTc asid tile 0x10000
  else s

/-- The record of a tile ended (R345). -/
def State.freeTile (s : State) (ctx rix : Nat) (t : Rec) : State :=
  let s1 := s.unqueue ctx rix
  let s2 := s1.modCtx ctx fun x => ({ x with recipes := x.recipes.del rix }).undoSources t
  match s2.ctx ctx with
  | none => s2
  | some x =>
    match t.st, s2.walk x.root t.tile with
    | .pinned, _ => s2
    | .dropped, .recipe at_ _ => (s2.setEntry64 at_ 0).unpark x.r.asid t.tile
    | _, .leaf at_ v false => s2.unsealPage x.r.asid at_ v t.tile
    | _, _ => s2

/-- RFREE acts (R345). -/
def finishRfree (a : Nat) (s : State) (r : PackRef) (p : Pack) (w : Wait) : State :=
  finishRecipe a 1 (fun t x ctx va =>
    if !(t.isTile x va) then (t, 1)
    else match x.tileRec va with
      | none => (t, 2)
      | some (i, q) =>
        if q.st = .regen then (t, 2) else if q.deps != 0 || q.busy != 0 then (t, 3) else (t.freeTile ctx i q, 0)) s r p w

/-- RFREE (R342, R345). -/
def execRfree (a : Nat) (s : State) : Out := recipeIssue s (.rfree a) a 1 (finishRfree a)

/-! ### RPIN and RSTAT -/

/-- RPIN acts (R346). -/
def finishRpin (unpin : Bool) (a : Nat) (s : State) (r : PackRef) (p : Pack) (w : Wait) : State :=
  finishRecipe a 1 (fun t x ctx va =>
    if !(t.isTile x va) then (t, 1)
    else match unpin, x.tileRec va with
      | true, none => (t, 2)
      | true, some (i, q) =>
        if q.pins = 0 then (t, 2)
        else (t.modCtx ctx fun y => ({ y with recipes := y.recipes.put i { q with pins := q.pins - 1 } }).freePinned, 0)
      | false, none =>
        if x.recipes.length ≥ 8192 then (t, 5)
        else (t.modCtx ctx fun y => y.addRec { Rec.pinnedNew va with pins := 1 }, 0)
      | false, some (i, q) =>
        if q.st = .dropped then (t, 2)
        else if q.pins = 65535 then (t, 6)
        else (t.modRec ctx i fun y => { y with pins := y.pins + 1 }, 0)) s r p w

/-- RPIN and RPIN.unpin (R342, R346). -/
def execRpin (unpin : Bool) (a : Nat) (s : State) : Out := recipeIssue s (.rpin unpin a) a 1 (finishRpin unpin a)

/-- The word of RSTAT (R347). -/
def State.rstatWord (s : State) (ctx va : Nat) : Word :=
  match s.ctx ctx with
  | none => 0xFFFF0000
  | some x =>
    match x.tileRec va with
    | none => 0xFFFF0000
    | some (i, t) =>
      let b (c : Bool) (n : Nat) : Nat := if c then 2 ^ n else 0
      BitVec.ofNat 32 (i * 2 ^ 16 + b (t.busy != 0) 10 + b (t.pinners != 0 || t.pins != 0 || s.tileHeld x.r.asid t.tile) 9
        + b (t.deps != 0) 8 + t.depth % 8 * 2 ^ 4 + t.st.code)

/-- RSTAT ends with its word (R347). -/
def finishRstat (d a : Nat) (s : State) (r : PackRef) (p : Pack) (_w : Wait) : State :=
  s.setPack r ((p.setS d (s.rstatWord p.id.ctx (p.s2 a).toNat)).unpark 1 s.now)

/-- RSTAT (R347): no fence and no check; its lookup ends at once here. -/
def execRstat (d a : Nat) (s : State) : Out :=
  issue s (.rstat d a) fun p => finishRstat d a (s.occupy s.cur 1) s.cur p
    { instr := .rstat d a, uids := [], sc := .core, phase := 0, info := 0 }

end Sys2Proof.Machine
end

