-- ==== Sys2Proof/Machine/Evictor.lean ====
section
/-! DEFINITION. The evictor (R272, R286, R331). -/

namespace Sys2Proof.Machine

/-- A victim: the frame it frees first, its context, its virtual page with the leaf, for a recipe tile its record, and for a page whose backing
copy is current where that stands. -/
structure Victim where
  pa   : Nat
  ctx  : Nat
  va   : Nat
  at_  : Nat
  leaf : Nat
  big  : Bool
  rix  : Option Nat
  back : Option Nat
deriving DecidableEq, Repr

/-- The stack of a physical address (R261). -/
def stackOf (pa : Nat) : Nat := pa / 2 ^ 36 % 8

/-- Sealed recipe tiles that may be dropped: class 1 (R272, R331). -/
def State.class1 (s : State) (ok : Nat → Nat → Bool) : List Victim :=
  s.ctxs.flatMap fun e => e.2.recipes.filterMap fun q =>
    match s.walk e.2.root q.2.tile with
    | .leaf at_ v false =>
      let pa := leafPa v false q.2.tile
      if paHbm pa && ok pa e.1 && fld v 5 5 = 1 && s.mayDrop e.2.r.asid q.2
      then some { pa, ctx := e.1, va := q.2.tile, at_, leaf := v, big := false, rix := some q.1, back := none } else none
    | _ => none

/-- The first backing page of a run of free ones in a context's backing area, as a physical page number (R286). -/
def Ctx.freeBacking (x : Ctx) (n : Nat) : Option Nat :=
  let first := ((2 + x.r.port % 2) * 2 ^ 50 + x.box.backBase) / 2 ^ 16
  ((List.range (x.box.backSize / 2 ^ 16)).map fun i => first + i).find? fun p =>
    p + n ≤ first + x.box.backSize / 2 ^ 16 && (List.range n).all fun i => !x.box.backUsed.contains (p + i)

/-- Pages with EV = 1 that the evictor may take: WRITABLE frames with no held line and no store on its way, that hold no recipe tile
(R272). -/
def State.evictable (s : State) (ok : Nat → Nat → Bool) : List Victim :=
  s.mem.owner.filterMap fun e =>
    let pa := e.1 * 2 ^ 16
    let own := e.2.toNat
    if ownState own != 1 then none
    else match s.ctxOfAsid (ownGrant own) with
      | none => none
      | some (n, x) =>
        let va := ownWva own * 2 ^ 16
        match s.walk x.root va with
        | .leaf at_ v big =>
          let size := if big then 2 ^ 21 else 2 ^ 16
          let held := s.mem.l2.any fun l => inRange x.r.asid va size l.asid l.line && (l.held || l.probes != 0)
          let tile := x.recipes.any fun q => va ≤ q.2.tile && q.2.tile < va + size
          if ok pa n && fld v 5 5 = 1 && leafPa v big va = pa && va % size = 0 && !held && !tile
          then some { pa, ctx := n, va, at_, leaf := v, big, rix := none, back := none } else none
        | _ => none

/-- The size of a victim's page. -/
def Victim.size (v : Victim) : Nat := if v.big then 2 ^ 21 else 2 ^ 16

/-- Where the backing copy of a page stands, if it is current: the pages kept from its last eviction hold its bytes, and no line of it is newer
than HBM (log 24). -/
def State.currentBack (s : State) (v : Victim) : Option Nat :=
  match s.ctx v.ctx with
  | none => none
  | some x => match x.backAt v.va v.size with
    | [] => none
    | b :: ps =>
      let run := (b :: ps) == (List.range (v.size / 2 ^ 16)).map fun i => b + i
      let newer := s.mem.l2.any fun l => inRange x.r.asid v.va v.size l.asid l.line && (l.dirty != 0 || !l.ops.isEmpty)
      if run && !newer && s.physRead (b * 2 ^ 16) v.size == s.physRead v.pa v.size then some b else none

/-- Clean pages whose backing copy is current: class 2 (R272). -/
def State.class2 (s : State) (ok : Nat → Nat → Bool) : List Victim :=
  (s.evictable ok).filterMap fun v => if fld v.leaf 7 7 = 0 then (s.currentBack v).map fun b => { v with back := some b } else none

/-- Dirty pages, while their context's backing area has room: class 3 (R272, R286). -/
def State.class3 (s : State) (ok : Nat → Nat → Bool) : List Victim :=
  (s.evictable ok).filter fun v => fld v.leaf 7 7 == 1 &&
    (match s.ctx v.ctx with | some x => (x.freeBacking (v.size / 2 ^ 16)).isSome | none => false)

/-- The victim of a sweep in ascending frame order, with those passed before it, whose A is cleared: the first whose A is 0, or
after a whole sweep the first (R272). -/
def sweep (vs : List Victim) : Option (Victim × List Victim) :=
  let os := sortBy (fun v => v.pa) vs
  match os.findIdx? fun v => fld v.leaf 6 6 == 0 with
  | some i => (os[i]?).map fun v => (v, os.take i)
  | none => match os with
    | v :: _ => some (v, os)
    | [] => none

/-- A page freed as an unmap frees it; the leaf keeps its backing pages, from b on (R264, R272). -/
def State.leavePage (s : State) (v : Victim) (asid b : Nat) : State :=
  let s1 := s.setEntry64 v.at_ (b * 2 ^ 16 + 2 ^ 8 + fld v.leaf 5 3 * 2 ^ 3 + 2)
  let s2 := (framesOf v.pa v.size).foldl (fun (t : State) f => t.ownUnmap f) s1
  (s2.dropTc asid v.va v.size).modCtx v.ctx fun y =>
    { y with box := { y.box with backOf := y.box.backOf.filter fun e => !(v.va / 2 ^ 16 ≤ e.1 && e.1 < (v.va + v.size) / 2 ^ 16) } }

/-- A page evicted (R270, R272, R286): with no write where its backing copy is current, else written to free pages of the backing area, where
those of an older copy are given back; poisoned lines go with EP set (R326). -/
def State.evictPage (s : State) (v : Victim) : State :=
  match s.ctx v.ctx with
  | none => s
  | some x =>
    let s1 := s.flushRange x.r.asid v.va v.size
    match v.back with
    | some b => s1.leavePage v x.r.asid b
    | none => match x.freeBacking (v.size / 2 ^ 16) with
      | none => s
      | some b =>
        let poisoned := s1.mem.bad.filter fun k => v.pa / 64 ≤ k && k < (v.pa + v.size) / 64
        let sent := poisoned.foldl (fun (t : State) k => t.sendEp (b * 2 ^ 16 + (k * 64 - v.pa)) 64) s1
        let s2 := (sent.physWrite (b * 2 ^ 16) (s1.physRead v.pa v.size)).freeBack v.ctx (x.backAt v.va v.size)
        (s2.leavePage v x.r.asid b).modCtx v.ctx fun y =>
          { y with box := { y.box with backUsed := y.box.backUsed ++ (List.range (v.size / 2 ^ 16)).map fun i => b + i } }

/-- One victim taken, of the first class that has one (R272). -/
def State.evictOne (s : State) (ok : Nat → Nat → Bool) : Option State :=
  let clear (t : State) (vs : List Victim) : State :=
    vs.foldl (fun (u : State) v => u.setEntry64 v.at_ (u.entry64 v.at_ - fld (u.entry64 v.at_) 6 6 * 2 ^ 6)) t
  match sweep (s.class1 ok) with
  | some (v, passed) =>
    match v.rix with
    | some k => some ((clear s passed).dropTile v.ctx k)
    | none => none
  | none => match sweep (s.class2 ok) with
    | some (v, passed) => some ((clear s passed).evictPage v)
    | none => match sweep (s.class3 ok) with
      | some (v, passed) => some ((clear s passed).evictPage v)
      | none => none

/-- The free frames of a stack: those whose owner entry is FREE (R267, R272). -/
def State.freeFrames (s : State) (stack : Nat) : Nat :=
  2 ^ 20 - (s.mem.owner.filter fun e => stackOf (e.1 * 2 ^ 16) == stack && ownState e.2.toNat != 0).length

/-- Victims taken until the free frames reach the high-water mark, or none is left. -/
def State.evictTo (stack high : Nat) : Nat → State → State
  | 0, s => s
  | n + 1, s =>
    if s.freeFrames stack ≥ high then s
    else match s.evictOne fun pa _ => stackOf pa == stack with
      | some t => State.evictTo stack high n t
      | none => s

/-- EVICTOR_RUN (R272): when the free frames of a stack stand below its low-water mark. -/
def execEvictorRun (stack : Nat) (s : State) : Out :=
  if s.freeFrames stack < s.part.low.getD stack 0 then
    .next (State.evictTo stack (s.part.high.getD stack 0) (s.mem.owner.length + 1) s)
  else .next s

end Sys2Proof.Machine
end

