-- ==== Sys2Proof/Machine/Matching.lean ====
section
/-! DEFINITION. Placement, matching stores, bins, spill and intake (R215 to R222, R229, R230, R300), the outbound
queue (R239) and the inbox writer (R290). -/

namespace Sys2Proof.Machine

/-! ### Placement -/

/-- The placement core of a tag: the hash of the selected fields over the core set (R215). -/
def placementCore (b : Block) (widths : List Nat) (index : Nat) : Nat :=
  let key := (List.range 6).flatMap fun f => if b.mask.testBit f then leBytes 8 (idxField widths f index) else []
  b.first + crc32c key % b.count

/-- The physical core of a placement core (R216). -/
def Ctx.mapCore (x : Ctx) (p : Nat) : Nat := x.cores.getD (p % x.cores.length) 0

/-- The physical core of a tag for a block (R215, R216). -/
def State.placeCore (s : State) (x : Ctx) (b : Block) (index : Nat) : Nat :=
  let widths := match s.images.find b.run with | some i => i.widths | none => []
  x.mapCore (placementCore b widths index)

/-- The distinct physical cores of a block's placement set (R224). -/
def Ctx.placeSet (x : Ctx) (b : Block) : List Nat := distinct ((List.range b.count).map fun i => x.mapCore (b.first + i))

/-- A slot is one of the context's designated handler blocks (R311). -/
def State.isHandler (s : State) (ctx slot : Nat) : Bool :=
  match s.ctx ctx with | some x => x.onTrap == some slot || x.onFault == some slot | none => false

/-- The launch whose nodes place a token: level 0, the colour of a multi-device launch of its context (R300). A token for the
inbox is one of them (R237); a token for a block outside the launch's image, which no packet can name (R296), stays here
(DEDUCED, log 35). -/
def State.launchOf (s : State) (t : Tok) : Option Launch :=
  if t.handler || tagLevel t.tag != 0 then none
  else s.launches.find? fun l => l.ctx == t.ctx && l.role != 0 && l.colour == tagNumber t.tag && l.n > 1 &&
    (l.st == .running || l.st == .ready) &&
    (t.slot == 0xFFFF || (match s.images.find l.img with | some i => i.slots.contains t.slot | none => false))

/-- The node of a token by its device index (R300). -/
def State.nodeOf (s : State) (l : Launch) (index : Nat) : Nat :=
  let widths := match s.images.find l.img with | some i => i.widths | none => []
  l.nodes.getD (idxField widths l.field index % l.n) s.io.node

/-- The launch and the other node that a token leaves for (R300). -/
def State.awayNode (s : State) (t : Tok) : Option (Launch × Nat) :=
  (s.launchOf t).bind fun l =>
    let node := s.nodeOf l (tagIndex t.tag)
    if node = s.io.node then none else some (l, node)

/-- The number of an image block that a slot is bound to. -/
def localOf (i : Image) (slot : Nat) : Nat := (i.slots.findIdx? (· == slot)).getD 0xFFFF

/-- What of a token crosses a link (R178, R296): a release at .sys; one at a narrower scope has been fulfilled and leaves no flag. -/
def Tok.crossing (t : Tok) : Tok := { t with rel := if t.rel = some .sys then some .sys else none, cov := [] }

/-- A token leaves for another node (R296, R298, R300); the launch counts what it sends to each node (R352). -/
def State.sendToken (s : State) (l : Launch) (node : Nat) (t : Tok) : State :=
  let blk := match s.images.find l.img with | some i => localOf i t.slot | none => 0xFFFF
  let f (m : Launch) : Launch :=
    if m.coord = l.coord && m.num = l.num then { m with sent := m.sent.put node ((m.sent.find node).getD 0 + 1) } else m
  { s with launches := s.launches.map f }.sendPkt
    (mkPkt node (if s.isHandler t.ctx t.slot then 3 else 4 + t.core % 4) t.core (.token l.coord l.num blk t.crossing))

/-- A token on its way to a core. -/
def State.arrive (s : State) (core : Nat) (t : Tok) : State :=
  s.modCore core fun c => { c with arriving := c.arriving ++ [t] }

/-- A token for the inbox takes a place of the writer, or waits at I/O die 0 for one (R290). -/
def State.toInbox (s : State) (t : Tok) : State :=
  match s.ctx t.ctx with
  | none => s
  | some x =>
    if x.box.places.length < 64 then s.modCtx t.ctx fun y => { y with box := { y.box with places := y.box.places ++ [t] } }
    else { s with io := { s.io with wait := s.io.wait ++ [t] } }

/-- The next handler token of a unit that is no core, and its fault (R311). -/
def State.unitTok (s : State) (x : Ctx) (unit ctx : Nat) (pay : List Word) : State × Tok :=
  let q := (s.io.hseq.find unit).getD 0
  ({ s with io := { s.io with hseq := s.io.hseq.put unit ((q + 1) % 2 ^ 40) } }, handlerTok x ctx unit q false pay 0)

/-- A local token placed on its core, or copied to its block's cores if it closes a colour (R217, R224). -/
def State.placeLocal (s : State) (x : Ctx) (b : Block) (t : Tok) : State :=
  if b.ordered && tagIndex t.tag == closeIndex then (x.placeSet b).foldl (fun u c => u.arrive c t) s
  else s.arrive (s.placeCore x b (tagIndex t.tag)) t

/-- A fault token raised at an I/O die or by a Retriever is placed there (R217, R311). -/
def State.raiseAtUnit (s : State) (unit ctx : Nat) (pay : List Word) : State :=
  match s.ctx ctx with
  | none => s
  | some x =>
    let q := s.unitTok x unit ctx pay
    if q.2.slot = 0xFFFF then q.1.toInbox q.2
    else match q.1.block q.2.slot with
      | some b => if b.ctx = ctx then q.1.placeLocal x b q.2 else q.1
      | none => q.1

/-- The slot check of R220 where a token's placement is computed at a unit that is no core: the block, or the fault token of
cause 35 sent. -/
def State.unitSlot (s : State) (t : Tok) : Except State Block :=
  match s.block t.slot with
  | none => .error (s.raiseAtUnit t.core t.ctx (refusedPay 35 t.slot t.port t.tag))
  | some b => if b.ctx != t.ctx then .error (s.raiseAtUnit t.core t.ctx (refusedPay 35 t.slot t.port t.tag)) else .ok b

/-- The pages of 2 MiB that the firmware can still give out: in chunks coded 3 other than that of its tables, with no frame
owned and none kept (R284; which it takes first is DESIGN CHOICE, log 5). -/
def State.fwPages (s : State) (n : Nat) : List Nat :=
  let used := s.part.kept ++ s.part.small.map (· / 32) ++ distinct ((s.mem.owner.filter fun e => e.2 != 0).map fun e => e.1 / 32)
  let chunks := (List.range 512).filter fun g => s.part.chunks.getD g 0 == 3 && g != 448
  (chunks.flatMap fun g => ((List.range 512).map fun i => g * 512 + i).filter fun p => !used.contains p).take n

/-- Pages that the firmware keeps from now on, or no longer. -/
def State.keepPages (s : State) (ps : List Nat) : State := { s with part := { s.part with kept := s.part.kept ++ ps } }
/-- Pages that the firmware gives up. -/
def State.dropPages (s : State) (ps : List Nat) : State := { s with part := { s.part with kept := s.part.kept.filter fun p => !ps.contains p } }

/-- The page of 64 KiB that the firmware gives out next, if one is left, by the number of its frame (R284, R354; which it takes is DESIGN CHOICE,
log 5). -/
def State.smallFrame (s : State) : Option Nat :=
  let free (f : Nat) : Bool := !s.part.kept.contains (f / 32) && !s.part.small.contains f && Sparse.get f s.mem.owner == 0
  let chunks := (List.range 512).filter fun g => s.part.chunks.getD g 0 == 3 && g != 448
  chunks.findSome? fun g => (List.range 512).findSome? fun i => ((List.range 32).map fun j => (g * 512 + i) * 32 + j).find? free

/-- Pages of 64 KiB that the firmware gives up. -/
def State.dropFrames (s : State) (fs : List Nat) : State := { s with part := { s.part with small := s.part.small.filter fun f => !fs.contains f } }

/-- The token records of 64 bytes that a page of 64 KiB of the arrival area holds (R354). -/
def areaTokens : Nat := 1024

/-- The arrival area of a context needs another page for one more token (R355). -/
def Ctx.areaFull (x : Ctx) : Bool := areaTokens * x.areaPages.length ≤ x.arrivals.length

/-- A token can be kept nowhere: its context is pre-empted or being restored, its arrival area is full, and no page can be had (R355). -/
def State.stays (s : State) (t : Tok) : Bool :=
  match s.ctx t.ctx with
  | some x => (x.st == .preempted || x.st == .restoring) && x.areaFull && s.smallFrame.isNone
  | none => false

/-- The arrival area grown by a page of 64 KiB where it must be (R354, R355). -/
def State.growArea (s : State) (ctx : Nat) (x : Ctx) : State :=
  if x.areaFull then
    ({ s with part := { s.part with small := s.part.small ++ s.smallFrame.toList } } : State).modCtx ctx fun y =>
      { y with areaPages := y.areaPages ++ s.smallFrame.toList }
  else s

/-- A token kept for a context that is pre-empted, and dropped and counted for one that ends or is not resident (R220, R349,
R355, R358); none where the context takes it. -/
def State.divert (s : State) (t : Tok) : Option State :=
  match s.ctx t.ctx with
  | none => some s
  | some x =>
    match x.st with
    | .preempted | .restoring => some ((s.growArea t.ctx x).modCtx t.ctx fun y => { y with arrivals := y.arrivals ++ [t] })
    | .ending => some (s.modCtx t.ctx fun y => { y with tear := { y.tear with late := y.tear.late + 1 } })
    | _ => none

/-- The same for a token that is already on its way between cores or in a spill area: of a context that is being restored it is one of those
that RESUME has placed again (R356 step 3), and is matched. -/
def State.divertPlaced (s : State) (t : Tok) : Option State :=
  match s.ctx t.ctx with
  | some x => if x.st = .restoring then none else s.divert t
  | none => s.divert t

/-- Whether such a token stays where it is. -/
def State.placedStays (s : State) (t : Tok) : Bool :=
  s.stays t && match s.ctx t.ctx with | some x => x.st == .preempted | none => false

/-! ### Resources of the matching store -/

/-- The classes that draw on separate reserves (R218, R221, R336): programs, handlers, and each live level-7 colour. -/
inductive TokClass where
  | program | handler
  | colour (c : Nat)
deriving DecidableEq, Repr

/-- The class of a token or an entry by what made it (R218): a handler token is a fault or trap token, whatever else is sent to a handler
block. -/
def tokClass (handler : Bool) (tag : DWord) : TokClass :=
  if tagLevel tag = 7 then .colour (tagNumber tag) else if handler then .handler else .program

/-- The class of a token. -/
def Tok.cls (t : Tok) : TokClass := tokClass t.handler t.tag
/-- The class of an entry. -/
def Entry.cls (e : Entry) : TokClass := tokClass e.handler e.tag

/-- The class of an instance by its block and tag, which its frame memory and its bin are drawn by (R221, R222). -/
def State.classOf (s : State) (ctx slot : Nat) (tag : DWord) : TokClass :=
  if tagLevel tag = 7 then .colour (tagNumber tag) else if s.isHandler ctx slot then .handler else .program

/-- The class of a pack's instances. -/
def PackId.cls (q : PackId) : TokClass := match q.colour with | some c => .colour c | none => if q.handler then .handler else .program

/-- An area of frame memory: its first unit of 32 bytes and its length in units (R221). -/
abbrev Area := Nat × Nat

/-- The areas of frame memory in use on a core at a ck: port areas of entries, areas of packs, and areas that copies keep (R211, R221,
R247). -/
def Core.areasUsed (c : Core) (now : Nat) : List Area :=
  ((c.entries.map fun e => e.area) ++ ((c.holders now).flatMap fun e => e.2.id.areas.map Prod.snd) ++
    (c.ghosts.flatMap fun g => g.areas.map Prod.snd)).filter fun a => a.2 != 0

/-- The banks of 16 KiB that make up a class's pool (R221, R336): 4 for the live colour of each Retriever, 4 for handlers, 236 for programs;
which banks they are is the model's own numbering (log 17). -/
def State.poolBanks (s : State) : TokClass → List Nat
  | .program => (List.range 236).map fun i => 20 + i
  | .handler => [16, 17, 18, 19]
  | .colour c => match s.retrOf c with | some e => (List.range 4).map fun i => 4 * e.1 + i | none => []

/-- The first place in a bank where n units fit among those in use (R221). -/
def fitBank (used : List Area) (n bank : Nat) : Option Nat :=
  let lo := bank * 512
  let ends := (used.filter fun a => lo ≤ a.1 && a.1 < lo + 512).map fun a => a.1 + a.2
  (sortBy id (lo :: ends)).find? fun x => x + n ≤ lo + 512 && !(used.any fun a => a.1 < x + n && x < a.1 + a.2)

/-- A place for n units in the first of the banks that has one: an area does not cross a bank (R221). -/
def fitArea (used : List Area) (banks : List Nat) (n : Nat) : Option Nat := banks.findSome? (fitBank used n)

/-- Places for m areas of n units each, one after another. -/
def fitAreas (used : List Area) (banks : List Nat) (n : Nat) : Nat → Option (List Area)
  | 0 => some []
  | m + 1 => match fitArea used banks n with
    | none => none
    | some x => (fitAreas ((x, n) :: used) banks n m).map fun l => (x, n) :: l

/-- The unit where the port area of a new entry goes: from the lowest bank of the pool up (DESIGN CHOICE, log 17). -/
def State.portArea (s : State) (core : Nat) (k : TokClass) (ports : Nat) : Option Nat :=
  fitArea ((s.core core).areasUsed s.now) (s.poolBanks k) ports

/-- The units of a block's work area (R221, R227). -/
def Block.workUnits (b : Block) : Nat := (b.frame + 31) / 32 - b.ports

/-- The work areas of n instances of a block: from the highest bank of the pool down, away from the port areas (DESIGN CHOICE, log 17). -/
def State.workAreas (s : State) (core : Nat) (k : TokClass) (b : Block) (n : Nat) : Option (List Area) :=
  if b.workUnits = 0 then some (List.replicate n (0, 0))
  else fitAreas ((s.core core).areasUsed s.now) (s.poolBanks k).reverse b.workUnits n

/-- The entries a class may hold (R218, R336). -/
def entryCap : TokClass → Nat
  | .program => 16128
  | .handler => 64
  | .colour _ => 48

/-- Entries of a class on a core. -/
def State.entryCount (s : State) (core : Nat) (k : TokClass) : Nat :=
  ((s.core core).entries.filter fun e => e.cls == k).length

/-- A new entry of a class and its port area, from the pool of another, can be had (R219, R221). -/
def State.entryRoom (s : State) (core : Nat) (k pool : TokClass) (ports : Nat) : Bool :=
  s.entryCount core k < entryCap k && (s.portArea core pool ports).isSome

/-- The die of the Retriever whose share a class draws on (R336). -/
def State.shareOf (s : State) : TokClass → Option Nat
  | .colour c => (s.retrOf c).map Prod.fst
  | _ => none

/-- A bin for a class can be allotted (R222, R336): one of the program's 1,016, of the handlers' 4, or the one of its Retriever. -/
def State.binRoom (s : State) (core : Nat) (k : TokClass) : Bool :=
  let c := s.core core
  let rec_ := (c.bins.filter fun e => e.2.recovery).length
  let hand := (c.bins.filter fun e => !e.2.recovery && s.isHandler e.2.ctx e.2.slot).length
  match k with
  | .program => c.bins.length - rec_ - hand < 1016
  | .handler => hand < 4
  | .colour _ => match s.shareOf k with | some d => !(c.bins.any fun e => e.2.share == some d) | none => false

/-- The entry of a slot and a tag (R11). -/
def Core.findEntry (c : Core) (slot : Nat) (tag : DWord) : Option Entry := c.entries.find? fun e => e.slot == slot && e.tag == tag

/-- An entry replaced. -/
def Core.putEntry (c : Core) (e : Entry) : Core :=
  { c with entries := c.entries.map fun x => if x.slot == e.slot && x.tag == e.tag then e else x }

/-- The sequence counter used once (R218). -/
def Core.nextSeq (c : Core) : Core := { c with seq := (c.seq + 1) % 2 ^ 32 }

/-- The age of a sequence number (R218). -/
def Core.age (c : Core) (seq : Nat) : Nat := (c.seq + 2 ^ 32 - seq) % 2 ^ 32

/-- Entries oldest first (R218). -/
def Core.oldest (c : Core) (es : List Entry) : List Entry := sortBy (fun e => 2 ^ 32 - c.age e.seq) es

/-- The number of a bin that is allotted. -/
def Core.binOf (c : Core) (ctx slot : Nat) (recovery : Bool) : Option Nat :=
  (c.bins.find? fun e => e.2.ctx == ctx && e.2.slot == slot && e.2.recovery == recovery).map Prod.fst

/-- The age past which a core renumbers its entries (R218). -/
def renumberAge : Nat := 2 ^ 30
/-- A core takes no token into its matching store until it has renumbered its entries (R218). -/
def Core.mustRenumber (c : Core) : Bool := c.entries.any fun e => c.age e.seq ≥ renumberAge

/-- The classes whose bins come from one reserve (R222, R336). -/
def State.sameReserve (s : State) (k l : TokClass) : Bool :=
  match k, l with
  | .colour _, .colour _ => s.shareOf k == s.shareOf l
  | _, _ => k == l

/-- An instance waits for a bin that one of a class could have (R222). -/
def State.binWaits (s : State) (core : Nat) (k : TokClass) : Bool :=
  (s.core core).entries.any fun e => e.st == .waitbin && s.sameReserve k (s.classOf e.ctx e.slot e.tag)

/-- A complete entry joins its block's bin with a new SEQ (R219, R222), which is allotted where it has none: the free one of the lowest number
(DESIGN CHOICE, log 75). -/
def State.joinBin (s : State) (core : Nat) (e : Entry) : State :=
  let c := s.core core
  let recovery := tagLevel e.tag == 7
  let join (k : Core) : Core := (k.putEntry { e with st := .binned, seq := k.seq, entered := s.now }).nextSeq
  match c.binOf e.ctx e.slot recovery with
  | some _ => s.setCore core (join c)
  | none =>
    let n := (c.bins.free 1024).getD 1023
    let b : Bin := { ctx := e.ctx, slot := e.slot, recovery, expired := false, share := s.shareOf (s.classOf e.ctx e.slot e.tag) }
    s.setCore core (join { c with bins := c.bins.put n b })

/-- A complete entry joins its block's bin, or waits for one: while instances wait, a bin that is free goes to them in SEQ order (R222). -/
def State.toBin (s : State) (core : Nat) (e : Entry) : State :=
  let k := s.classOf e.ctx e.slot e.tag
  if ((s.core core).binOf e.ctx e.slot (tagLevel e.tag == 7)).isSome || (s.binRoom core k && !s.binWaits core k) then s.joinBin core e
  else s.setCore core ((s.core core).putEntry { e with st := .waitbin })

/-- A payload written to a port's words, padded with zeros (R25, R219). -/
def putPayload (m : Sparse 32) (port : Nat) (pay : List Word) : Sparse 32 :=
  Sparse.setRun (8 * port) ((List.range 8).map fun j => pay.getD j 0) m

/-- The STATE code of an entry in use (R218). -/
def EntrySt.code : EntrySt → Nat
  | .part => 1
  | .binned => 2
  | .waitbin => 3

/-- The 128 bits of an entry (R218). -/
def Entry.bits (e : Entry) : BitVec 128 :=
  e.tag ++ BitVec.ofNat 16 e.slot ++ BitVec.ofNat 6 e.ctx ++ BitVec.ofNat 4 e.pres ++ BitVec.ofNat 3 e.st.code ++ BitVec.ofNat 3 e.acq ++
    BitVec.ofNat 32 e.seq

/-- The ACQ code of a release scope (R218). -/
def acqCode : Option Scope → Nat
  | none => 0
  | some .core => 1
  | some .die => 2
  | some .dev => 3
  | some .sys => 4

/-- The accesses that a token's release passes on to its consumer, where one scope instance holds both cores (R175). -/
def Tok.passes (t : Tok) (core : Nat) : List Nat :=
  match t.rel with
  | none => []
  | some .core => if t.core = core then t.cov else []
  | some .die => if t.core / 48 = core / 48 && t.core < 192 then t.cov else []
  | some _ => t.cov

/-- An entry that takes a token at a port it lacks (R218, R219). The write of its payload clears the poison of the port's words (R322). -/
def Entry.take (e : Entry) (core : Nat) (t : Tok) : Entry :=
  { e with pres := e.pres ||| 2 ^ t.port, acq := max e.acq (acqCode t.rel), pay := putPayload e.pay t.port t.pay,
           bad := e.bad.filter fun w => w / 8 != t.port
           cov := (t.passes core).foldl (fun a u => addNew u a) e.cov }

/-- A token accepted by an entry: it becomes complete or stays partial (R219). -/
def State.settle (s : State) (core : Nat) (b : Block) (e : Entry) : State :=
  if e.pres % 2 ^ b.ports = 2 ^ b.ports - 1 then s.toBin core e else s.setCore core ((s.core core).putEntry e)

/-- What becomes of a token at a matching store (R219, R220, R224): done, or it needs a new entry that cannot be had. -/
inductive Accept where
  | done (s : State)
  | noRoom
deriving Repr

/-- A token reaches the matching store of a core. -/
def State.accept (s : State) (core : Nat) (t : Tok) : Accept :=
  match s.block t.slot with
  | none => .done (s.raiseAtCore core t.ctx false (refusedPay 35 t.slot t.port t.tag) 0 (2 ^ 24))
  | some b =>
    if t.port ≥ b.ports then .done (s.raiseAtCore core t.ctx false (refusedPay 36 t.slot t.port t.tag) 0 (2 ^ 24))
    else if b.ordered && tagIndex t.tag == closeIndex then
      let key := (t.ctx, t.slot, tagColour t.tag)
      .done (s.modCore core fun c => if c.closed.contains key then c else { c with closed := c.closed ++ [key] })
    else match (s.core core).findEntry t.slot t.tag with
      | some e =>
        if e.pres.testBit t.port then
          .done (s.raiseAtCore core t.ctx false (refusedPay 34 t.slot t.port t.tag) 0 (2 ^ 24))
        else .done (s.settle core b (e.take core t))
      | none =>
        if b.closing || !(s.entryRoom core t.cls (s.classOf t.ctx t.slot t.tag) b.ports) then .noRoom
        else
          let c := s.core core
          let at_ := (s.portArea core (s.classOf t.ctx t.slot t.tag) b.ports).getD 0
          let e : Entry := { tag := t.tag, slot := t.slot, ctx := t.ctx, pres := 0, st := .part, acq := 0, seq := c.seq, pay := [],
                             entered := 0, handler := t.handler, cov := [], area := (at_, b.ports) }
          let s1 := s.setCore core { c with entries := c.entries ++ [e] }.nextSeq
          .done (s1.settle core b (e.take core t))

/-- A token goes to its existing entry whatever the pressure (R219). -/
def State.finds (s : State) (core : Nat) (t : Tok) : Bool := ((s.core core).findEntry t.slot t.tag).isSome

/-- A receive slot of a link given back (R294). -/
def State.giveSlot (s : State) (port vc : Nat) : State :=
  let f (l : Link) : Link := { l with used := l.used.put vc ((l.used.find vc).getD 0 - 1) }
  { s with io := { s.io with links := s.io.links.upd port f } }

/-- A link token that waits for a place in an intake queue takes it, and its receive slot is
returned (R230, R294). -/
def State.refill (s : State) (core vc : Nat) : State :=
  match s.io.lwait.find? fun e => e.2.1 == core && e.2.2.1 == vc with
  | none => s
  | some e =>
    let q := ((s.core core).intake.find vc).getD []
    if q.length ≥ 32 then s
    else
      let s1 := s.modCore core fun c => { c with intake := c.intake.put vc (q ++ [(e.1, s.now)]) }
      ({ s1 with io := { s1.io with lwait := s1.io.lwait.erase e } } : State).giveSlot e.2.2.2 vc

/-- Every link token that finds a place in the queues of a core takes it (R230). -/
def State.refillAll (s : State) (core : Nat) : State :=
  s.io.lwait.foldl (fun t _ => (List.range 8).foldl (fun u vc => u.refill core vc) t) s

/-- The records of a core's spill area (R229). -/
def spillCap : Nat := 262144

/-- A core whose spill area is full signals the management core, as long as it is full (R231). -/
def State.signalSpill (s : State) (core : Nat) : State :=
  let l := s.mgmt.spillFull
  { s with mgmt := { s.mgmt with
      spillFull := if (s.core core).spill.length ≥ spillCap then addNew core l else l.filter (· != core) } }

/-- A spilled or waiting token goes to the spill area (R229). -/
def State.spillTok (s : State) (core : Nat) (t : Tok) : State :=
  (s.modCore core fun c => { c with spill := c.spill ++ [t] }).signalSpill core

/-- The core that a token goes to accepts it (R231, R239): with those on their way, its spill area has room for it; or it finds its entry;
or it draws on a reserve that has room. -/
def State.accepts (s : State) (core : Nat) (t : Tok) : Bool :=
  (s.core core).spill.length + (s.core core).arriving.length < spillCap || s.finds core t ||
    (t.cls != .program && s.entryRoom core t.cls (s.classOf t.ctx t.slot t.tag) (match s.block t.slot with | some b => b.ports | none => 1))

/-- A token whose order of arrival after another is fixed (R217, R233): both of one core, or both written by a host to one context. -/
def Tok.follows (t u : Tok) : Bool := (t.core < 192 && u.core == t.core) || (t.src == 2 && u.src == 2 && u.ctx == t.ctx)

/-- A token of a context that takes it, placed at a unit that is no core (R217, R220, R300); none where its core does not accept it (R231).
One that a link brought goes on to no other node (R300). -/
def State.tryPlace (s : State) (x : Ctx) (t : Tok) : Option State :=
  let away := if t.src = 3 then none else s.awayNode t
  if t.slot = 0xFFFF then
    match away with
    | some e => some (s.sendToken e.1 e.2 t)
    | none => some (s.toInbox t)
  else match s.unitSlot t with
    | .error s1 => some s1
    | .ok b =>
      let close := b.ordered && tagIndex t.tag == closeIndex
      match if close then none else away with
      | some e => some (s.sendToken e.1 e.2 t)
      | none => if close || s.accepts (s.placeCore x b (tagIndex t.tag)) t then some (s.placeLocal x b t) else none

/-- A token placed as its context's state has it (R220, R349, R355, R358), or none where it stays at I/O die 0. -/
def State.admitTok (s : State) (t : Tok) : Option State :=
  if s.stays t then none
  else match s.divert t, s.ctx t.ctx with
    | some s1, _ => some s1
    | none, some x => s.tryPlace x t
    | none, none => some s

/-- The tokens of a list placed in their order, and those that stay: behind an earlier one whose order with it is fixed (R217, R233), or where
they cannot be placed yet. -/
def State.placeList (s : State) (place : State → Tok → Option State) (ts : List Tok) : State × List Tok :=
  ts.foldl (fun (a : State × List Tok) t =>
    if a.2.any fun u => t.follows u then (a.1, a.2 ++ [t])
    else match place a.1 t with
      | some u => (u, a.2)
      | none => (a.1, a.2 ++ [t])) (s, [])

/-- The tokens that wait at I/O die 0 are placed as far as they can be (R231, R288). -/
def State.admitHost (s : State) : State :=
  let r := ({ s with io := { s.io with hwait := [] } } : State).placeList State.admitTok s.io.hwait
  { r.1 with io := { r.1.io with hwait := r.2 ++ r.1.io.hwait } }

/-- A token of a unit that is no core: it is placed, or waits at I/O die 0 behind those that wait there (R217, R231, R288). -/
def State.placeTok (s : State) (t : Tok) : State := ({ s with io := { s.io with hwait := s.io.hwait ++ [t] } } : State).admitHost

/-- TOKEN_ACCEPT (R219): numbers 0 to 7 take the head of an intake channel, 8 + i the i-th local token on its way. Local
tokens of one source core, and those of a host to one context, arrive in the order they left (R217, R233). A local token that needs a new
entry is spilled where it cannot have one, or where tokens stand in the spill area before it (R229). While the core has entries to renumber,
its matching store takes none (R218). -/
def execTokenAccept (core n : Nat) (s : State) : Out :=
  let c := s.core core
  if c.mustRenumber then .next s
  else if n < 8 then
    match (c.intake.find n).getD [] with
    | [] => .next s
    | (t, _) :: rest =>
      let pop (u : State) : State := (u.modCore core fun k => { k with intake := k.intake.put n rest }).refill core n
      if s.stays t then .next s
      else match s.divert t with
      | some s1 => .next (pop s1)
      | none => match s.accept core t with
        | .done s1 => .next (pop s1)
        | .noRoom => .next s
  else
    match c.arriving[n - 8]? with
    | none => .next s
    | some t =>
      if ((c.arriving.take (n - 8)).any fun u => t.follows u) || s.placedStays t then .next s
      else
        let pop (u : State) : State := (u.modCore core fun k => { k with arriving := k.arriving.eraseIdx (n - 8) }).admitHost
        match s.divertPlaced t with
        | some s1 => .next (pop s1)
        | none =>
          let mustSpill := !c.spill.isEmpty && !(s.finds core t) && t.cls == .program &&
            !(match s.block t.slot with | some b => t.port ≥ b.ports || (b.ordered && tagIndex t.tag == closeIndex) | none => true)
          let closing := match s.block t.slot with | some b => b.closing | none => false
          match (if mustSpill then Accept.noRoom else s.accept core t) with
          | .done s1 => .next (pop s1)
          | .noRoom =>
            if closing || c.spill.length ≥ spillCap then .next s else .next (pop (s.spillTok core t))

/-- SPILL_TAKE_BACK (R229): the oldest spilled token, with 64 free ordinary entries and its port area. -/
def execSpillTakeBack (core : Nat) (s : State) : Out :=
  match (s.core core).spill with
  | [] => .next s
  | t :: rest =>
    let pop (u : State) : State := ((u.modCore core fun k => { k with spill := rest }).signalSpill core).admitHost
    if s.entryCount core .program + 64 > 16128 || (s.core core).mustRenumber || s.placedStays t then .next s
    else match s.divertPlaced t with
      | some s1 => .next (pop s1)
      | none => match s.accept core t with
        | .done s1 => .next (pop s1)
        | .noRoom => .next s

/-- INTAKE_TIMEOUT (R230): the head of a channel that has waited 4,096 ck is spilled (its receive slot went back as it entered the queue, R294),
where the spill area has room that no local token on its way needs (R231); not while its context is pre-empted (R355). -/
def execIntakeTimeout (core vc : Nat) (s : State) : Out :=
  let c := s.core core
  match (c.intake.find vc).getD [] with
  | [] => .next s
  | (t, since) :: rest =>
    let waits := match s.divert t with
      | some _ => false
      | none => match s.accept core t with | .noRoom => true | .done _ => false
    if !waits || s.now < since + 4096 || c.spill.length + c.arriving.length ≥ spillCap then .next s
    else
      let s1 := (s.spillTok core t).modCore core fun k => { k with intake := k.intake.put vc rest }
      .next (s1.refill core vc)

/-- SEQ_RENUMBER (R218). -/
def execSeqRenumber (core : Nat) (s : State) : Out :=
  let c := s.core core
  let es := c.oldest c.entries
  match es with
  | [] => .next s
  | o :: _ =>
    if c.age o.seq < renumberAge then .next s
    else
      let n := es.length
      .next (s.setCore core { c with entries := (es.zipIdx).map fun e => { e.1 with seq := (c.seq + 2 ^ 32 - n + e.2) % 2 ^ 32 } })

/-- BIN_ALLOT (R222): the block of the oldest WAITBIN instance that can have a bin gets it, and its waiting instances join in
SEQ order. -/
def execBinAllot (core : Nat) (s : State) : Out :=
  let c := s.core core
  let ws := c.oldest (c.entries.filter fun e => e.st == .waitbin)
  match ws.find? fun e => s.binRoom core (s.classOf e.ctx e.slot e.tag) with
  | none => .next s
  | some o =>
    let mine := ws.filter fun e => e.ctx == o.ctx && e.slot == o.slot && (tagLevel e.tag == 7) == (tagLevel o.tag == 7)
    .next (mine.foldl (fun t e => t.joinBin core e) s)

/-! ### The outbound queue -/

/-- OUTBOUND_TOKEN_LEAVE (R176, R217, R220, R239, R290, R300): a token whose release holds leaves, with its placement
computed then; one that its destination does not accept stays, and one of a context that is being restored goes to the arrival area (R355). Handler tokens that wait for a place in the queue take those that are
free first. -/
def execOutboundTokenLeave (core n : Nat) (s0 : State) : Out :=
  let s := if (s0.core core).raised.isEmpty then s0 else s0.modCore core Core.pumpRaised
  let c := s.core core
  match c.outbound[n]? with
  | none => .next s
  | some o =>
    let t := o.tok
    let gone (u : State) : State :=
      let u1 := u.modCore core fun k => { k with outbound := k.outbound.eraseIdx n }
      match o.frees with | some (l, m) => u1.freeColour t.ctx l m | none => u1
    if !(o.conds.all s.met) then .next s
    else match s.ctx t.ctx with
      | none => .next (gone s)
      | some x =>
        if x.st = .ending then .next ((gone s).placeTok t)
        else if t.slot = 0xFFFF then
          match s.awayNode t with
          | some e => .next ((gone s).sendToken e.1 e.2 t)
          | none => if x.box.places.length < 64 then .next ((gone s).toInbox t) else .next s
        else match s.block t.slot with
          | none => .next ((gone s).raiseAtCore core t.ctx false (refusedPay 35 t.slot t.port t.tag) 0 (2 ^ 24))
          | some b =>
            if b.ctx != t.ctx then .next ((gone s).raiseAtCore core t.ctx false (refusedPay 35 t.slot t.port t.tag) 0 (2 ^ 24))
            else
              let close := b.ordered && tagIndex t.tag == closeIndex
              match (if close then none else s.awayNode t) with
              | some e => .next ((gone s).sendToken e.1 e.2 t)
              | none =>
                if s.stays t then .next s
                else match (gone s).divert t with
                  | some u => .next u
                  | none =>
                    if close || s.accepts (s.placeCore x b (tagIndex t.tag)) t then .next ((gone s).placeLocal x b t) else .next s

/-! ### The inbox -/

/-- The 64 bytes of an inbox entry (R289). -/
def inboxBytes (t : Tok) (seq : Nat) : List Byte :=
  leBytes 8 t.tag.toNat ++ leBytes 1 t.port ++ leBytes 1 t.pay.length ++ leBytes 1 t.src ++ leBytes 1 0 ++ leBytes 4 seq ++
  leBytes 8 t.bearing.toNat ++ leBytes 8 0 ++ ((List.range 8).flatMap fun j => leBytes 4 (t.pay.getD j 0).toNat)

/-- The sequence word after one (R290). -/
def nextInboxSeq (q : Nat) : Nat := if q ≥ 0xFFFFFFFF then 1 else q + 1

/-- INBOX_ENTRY_WRITE (R290): the oldest token with a place is written where the inbox has room; TAIL advances, the
context's vector fires when TAIL moves away from HEAD, and a token that waited takes the place. -/
def execInboxEntryWrite (ctx : Nat) (s : State) : Out :=
  match s.ctx ctx with
  | none => .next s
  | some x =>
    match x.box.places with
    | [] => .next s
    | t :: rest =>
      let used := (x.box.tail + 2 ^ 32 - x.box.head) % 2 ^ 32
      if used ≥ 2 ^ x.box.k || x.st == .ending then .next s
      else
        let seq := nextInboxSeq x.box.seq
        let at_ := x.box.base + x.box.tail % 2 ^ x.box.k * 64
        let s1 := s.hostWrite x.r.port at_ (inboxBytes t seq)
        let s2 := s1.modCtx ctx fun y =>
          { y with box := { y.box with places := rest, seq, tail := (y.box.tail + 1) % 2 ^ 32 } }
        let s3 := if used = 0 then { s2 with io := { s2.io with msix := s2.io.msix ++ [(x.r.port, ctx + 1)] } } else s2
        match s3.io.wait.find? fun u => u.ctx == ctx with
        | some u => .next ({ s3 with io := { s3.io with wait := s3.io.wait.erase u } }.toInbox u)
        | none => .next s3

end Sys2Proof.Machine
end

