-- ==== Sys2Proof/Machine/Helm.lean ====
section
/-! DEFINITION. The helm: eligibility, the walk of the tiers, fitting, bypasses and firing (R14, R16, R222 to R228,
R325, R362). -/

namespace Sys2Proof.Machine

/-! ### Eligible groups -/

/-- What names a candidate: context, slot, recovery, and for an ordered block colour and group (R228). -/
abbrev CandKey := Nat × Nat × Bool × Nat × Nat

/-- A set of instances that may fire together; `quiet` says that a quiescent close made the group eligible (R334). -/
structure Cand where
  key     : CandKey
  bin     : Nat
  tier    : Nat
  full    : Bool
  quiet   : Bool
  entered : Nat
  entries : List Entry
deriving DecidableEq, Repr

/-- The instances of a bin in match order (R218). -/
def Core.inBin (c : Core) (b : Bin) : List Entry :=
  c.oldest (c.entries.filter fun e => e.st == .binned && e.ctx == b.ctx && e.slot == b.slot && (tagLevel e.tag == 7) == b.recovery)

/-- The oldest entry ck of instances. -/
def firstEntered (es : List Entry) : Nat := es.foldl (fun a e => min a e.entered) (match es with | e :: _ => e.entered | [] => 0)

/-- The group of an instance of an ordered block (R224). -/
def groupOf (e : Entry) : Nat × Nat := (tagColour e.tag, tagIndex e.tag / 32)

/-- A quiescent close made a group of a live level-7 colour eligible (R334). -/
def Core.groupQuiet (c : Core) (b : Bin) (g : Nat × Nat) : Bool := b.recovery && c.quiet.contains (g.1 % 2 ^ 13, b.slot, g.2)

/-- A group of an ordered block is eligible: complete, or its colour closed, or closed at a quiescence (R224, R334). -/
def Core.groupReady (c : Core) (b : Bin) (g : Nat × Nat) (es : List Entry) : Bool :=
  es.length == 32 || c.closed.contains (b.ctx, b.slot, g.1) || c.groupQuiet b g

/-- The eligible groups of an ordered bin, by ascending colour and group (R224). -/
def Core.groups (c : Core) (b : Bin) : List ((Nat × Nat) × List Entry) :=
  let es := c.inBin b
  let gs := es.foldl (fun (a : List (Nat × Nat)) e => if a.contains (groupOf e) then a else a ++ [groupOf e]) []
  let all := gs.map fun g => (g, sortBy (fun e => tagIndex e.tag) (es.filter fun e => groupOf e == g))
  sortBy (fun e => e.1.1 * 2 ^ 48 + e.1.2) (all.filter fun e => c.groupReady b e.1 e.2)

/-- The leash of a normal bin has expired at the current ck (R223). -/
def State.leashDue (s : State) (blk : Block) (es : List Entry) : Bool := !es.isEmpty && firstEntered es + blk.leash ≤ s.now

/-- The candidates of one bin (R223, R224): in normal mode the oldest 32 where it is full or its leash has expired; in
ordered mode the next eligible group, and of a recovery bin every one, among which the helm chooses by colour (R225). -/
def State.binCands (s : State) (core n : Nat) (b : Bin) : List Cand :=
  let c := s.core core
  let tier := if b.recovery then 2 else if s.isHandler b.ctx b.slot then 1 else 3
  match s.block b.slot with
  | none => []
  | some blk =>
    if blk.ordered then
      let gs := c.groups b
      (if b.recovery then gs else gs.take 1).map fun g =>
        { key := (b.ctx, b.slot, b.recovery, g.1.1, g.1.2), bin := n, tier, full := true, quiet := c.groupQuiet b g.1,
          entered := firstEntered g.2, entries := g.2 }
    else
      let es := c.inBin b
      if es.length ≥ 32 || (b.expired && !es.isEmpty) || s.leashDue blk es then
        [{ key := (b.ctx, b.slot, b.recovery, 0, 0), bin := n, tier, full := es.length ≥ 32, quiet := false,
           entered := firstEntered es, entries := es.take 32 }]
      else []

/-- Every candidate of a core whose context runs (R349), and of a context that is being cut those of its recomputes, which run to
their end (R348, R350). -/
def State.cands (s : State) (core : Nat) : List Cand :=
  ((s.core core).bins.filter fun e =>
      match s.ctx e.2.ctx with | some x => x.st == .running || (x.st == .cutting && e.2.recovery) | none => false).flatMap
    fun e => s.binCands core e.1 e.2

/-- The weight of a context (R226). -/
def State.weightOf (s : State) (ctx : Nat) : Nat := match s.ctx ctx with | some x => x.r.weight | none => 0

/-- Contexts in number order from one on, and round (R226). -/
def fromOn (n : Nat) (all : List Nat) : List Nat := (all.filter fun m => n ≤ m) ++ all.filter fun m => m < n

/-- The contexts of a class that have an eligible pack in tier 3 on a core, in number order. -/
def State.eligible (s : State) (cls : Nat) (cs : List Cand) : List Nat :=
  (s.ctxs.filter fun e => e.2.r.cls == cls && cs.any fun k => k.tier == 3 && k.key.1 == e.1).map Prod.fst

/-- The turn pointer of a class as the helm looks (R226): it stays where its context has an eligible pack and weight left; else it moves to the
next context that has one, whose use of its weight begins. -/
def State.turnAt (s : State) (core cls : Nat) (cs : List Cand) : Option (Nat × Nat) :=
  let es := s.eligible cls cs
  match (s.core core).helm.turns.find cls with
  | none => es.head?.map fun n => (n, 0)
  | some (ptr, used) =>
    if es.contains ptr && used < s.weightOf ptr then some (ptr, used)
    else match (fromOn (ptr + 1) es).head? with
      | some n => some (n, 0)
      | none => some (ptr, used)

/-- The contexts of a class with eligible packs here, from the turn pointer on (R226). -/
def State.turnOrder (s : State) (core cls : Nat) (cs : List Cand) : List Nat :=
  match s.turnAt core cls cs with
  | none => []
  | some (ptr, _) => fromOn ptr (s.eligible cls cs)

/-- A context's candidates in helm order: full ones by entry ck, then leash-expired ones; bin number breaks ties (R225). -/
def ctxOrder (cs : List Cand) : List Cand :=
  let by_ := sortBy (fun k => k.entered * 1024 + k.bin) cs
  (by_.filter fun k => k.full) ++ by_.filter fun k => !k.full

/-- Of a live level-7 colour, the group that fires next (R225): among groups that a quiescent close made eligible, by slot and then group
(R334); else by group (R224). Groups that a quiescent close made eligible come before others of their colour, and a lower slot before a
higher one of the same group (DESIGN CHOICE, log 71). -/
def nextOfColour (cs : List Cand) : List Cand :=
  match sortBy (fun (k : Cand) => k.key.2.1 * 2 ^ 48 + k.key.2.2.2.2) (cs.filter fun k => k.quiet) with
  | k :: _ => [k]
  | [] => (sortBy (fun (k : Cand) => k.key.2.2.2.2 * 2 ^ 16 + k.key.2.1) cs).take 1

/-- The walk of the tiers (R225). Candidates whose entry ck is the same keep the order of the bin table: DESIGN CHOICE (log 75). -/
def State.walkHelm (s : State) (core : Nat) : List Cand :=
  let cs := s.cands core
  let t1 := sortBy (fun k => k.entered) (cs.filter fun k => k.tier == 1)
  let t2all := cs.filter fun k => k.tier == 2
  let colours := distinct (t2all.map fun k => k.key.2.2.2.1)
  let t2 := sortBy (fun k => k.entered) (colours.flatMap fun c => nextOfColour (t2all.filter fun k => k.key.2.2.2.1 == c))
  let t3 := [0, 1, 2, 3].flatMap fun cls => (s.turnOrder core cls cs).flatMap fun n =>
    ctxOrder (cs.filter fun k => k.tier == 3 && k.key.1 == n)
  t1 ++ t2 ++ t3

/-! ### Fitting -/

/-- The private allowance of a context on each core (R273). -/
def Ctx.allowance (x : Ctx) : Nat := if x.cores.isEmpty then 0 else x.privSize / x.cores.length / 128 * 128

/-- Private bytes in use by a context's packs on a core. -/
def State.privUsed (s : State) (core ctx : Nat) : Nat :=
  ((((s.core core).holders s.now).filter fun e => e.2.id.ctx == ctx).map fun e => s.privWords e.2.id.slot * 128).sum

/-- Tiles that packs of a pipeline hold, of tier 3 or of all. -/
def tilesHeld (hs : Tbl Pack) (pipe : Nat) (only3 : Bool) : Nat :=
  ((hs.filter fun e => e.1 / 16 == pipe && (!only3 || e.2.id.tier == 3)).map fun e => e.2.m.tiles.length).sum

/-- The pack slots of a pipeline in use. -/
def slotsUsed (hs : Tbl Pack) (pipe : Nat) : Nat := (hs.filter fun e => e.1 / 16 == pipe).length

/-- The lowest free pack slot of a pipeline for a tier: slot 15 is kept for tiers 1 and 2 (R227); which free slot a pack takes is DESIGN
CHOICE (log 69). -/
def freeSlot (hs : Tbl Pack) (pipe tier : Nat) : Option Nat :=
  (List.range (if tier = 3 then 15 else 16)).find? fun i => (hs.find (pipe * 16 + i)).isNone

/-- A pipeline has a slot and the tiles for a pack (R227). -/
def pipeFits (hs : Tbl Pack) (pipe tier tiles : Nat) : Bool :=
  (freeSlot hs pipe tier).isSome && tilesHeld hs pipe false + tiles ≤ 16 && (pipe != 0 || tier != 3 || tilesHeld hs 0 true + tiles ≤ 12)

/-- The class whose pools a candidate draws on. -/
def State.candClass (s : State) (k : Cand) : TokClass :=
  match k.entries with | e :: _ => s.classOf e.ctx e.slot e.tag | [] => .program

/-- The pipeline a candidate fires on, if it fits (R227): of those that fit, the one with the fewest slots in use. -/
def State.fits (s : State) (core : Nat) (k : Cand) : Option Nat :=
  let hs := (s.core core).holders s.now
  match s.block k.key.2.1, s.ctx k.key.1 with
  | some b, some x =>
    let privOk := b.priv = 0 || s.privUsed core k.key.1 + b.priv * 128 ≤ x.allowance
    if (s.workAreas core (s.candClass k) b k.entries.length).isSome && privOk then
      (sortBy (fun p => slotsUsed hs p) ((List.range 4).filter fun p => pipeFits hs p k.tier b.tiles)).head?
    else none
  | _, _ => none

/-! ### Firing -/

/-- The serials that a core still carries (R16). -/
def Core.serialsUsed (c : Core) (core : Nat) : List Nat :=
  ((c.wake.filter fun e => bearingCore e.2.bearing == core).map fun e => bearingSerial e.2.bearing) ++
  (c.copies.map fun e => e.2.serial) ++ c.packs.map fun e => e.2.id.serial

/-- The serials that a core still carries, with those of its store records that stand on other cores, and those given to packs that RESUME
has still to place there (R16, R357). -/
def State.serialsUsed (s : State) (core : Nat) : List Nat :=
  (s.core core).serialsUsed core ++
    (s.cores.flatMap fun e => if e.1 = core then [] else
      (e.2.wake.filter fun w => bearingCore w.2.bearing == core).map fun w => bearingSerial w.2.bearing) ++
    s.ctxs.flatMap fun e => (e.2.restore.filter fun q => q.core == core).map fun q => q.pack.id.serial

/-- The next serial that is not carried (R16). -/
def nextSerial (used : List Nat) : Nat → Nat → Nat
  | 0, n => n
  | fuel + 1, n => if used.contains n then nextSerial used fuel ((n + 1) % 2 ^ 24) else n

/-- The frame view of a firing pack: each instance's port area in its lane's column (R25, R26). -/
def frameOf (es : List Entry) : Sparse 32 :=
  (es.zipIdx).foldl (fun m e => e.1.pay.foldr (fun w a => Sparse.set (w.1 * 32 + e.2) w.2 a) m) []

/-- The poisoned frame words of a firing pack: those of its payloads (R322). -/
def badOf (es : List Entry) : List Nat := (es.zipIdx).flatMap fun e => e.1.bad.map fun w => w * 32 + e.2

/-- The physical tiles that a firing pack takes: the lowest free ones of its pipeline (DESIGN CHOICE, log 69). -/
def takeTiles (hs : Tbl Pack) (pipe n : Nat) : List Nat :=
  let held := hs.flatMap fun e => if e.1 / 16 = pipe then e.2.m.tiles else []
  ((List.range 16).filter fun t => !held.contains t).take n

/-- The areas of a firing pack by lane position: the port area of each instance, and its work area (R25, R26, R221). -/
def packAreas (es : List Entry) (works : List Area) : List (Nat × Nat × Nat) :=
  ((es.zipIdx).map fun e => (e.2, e.1.area)) ++ (works.zipIdx).map fun a => (a.2, a.1)

/-- The pack of a candidate as the helm fires it (R14, R29, R31, R227, R274, R333, R334). -/
def State.newPack (s : State) (core pipe : Nat) (k : Cand) (b : Block) (x : Ctx) (serial start : Nat) : Pack :=
  let c := s.core core
  let colour := if k.tier = 2 then some (k.key.2.2.2.1 % 2 ^ 13) else none
  let priv := colour.isNone && (x.r.priv &&& 2 != 0 || (x.r.priv &&& 1 != 0 && k.tier == 1))
  { id := { ctx := k.key.1, slot := k.key.2.1, img := b.run, serial, n := k.entries.length, tier := k.tier, handler := k.tier == 1,
            priv, colour, restored := false, tags := k.entries.map fun e => e.tag,
            areas := packAreas k.entries ((s.workAreas core (s.candClass k) b k.entries.length).getD []) }
    r := { v := [], s := [], k := [], td := [], vBad := [], sBad := [],
           fpctl := if b.recipe || colour.isSome then 0 else x.r.fpctl,
           trapen := if colour.isSome then 0 else x.r.trapen,
           leash := if b.ordered then 0 else BitVec.ofNat 32 b.leash }
    m := { frame := frameOf k.entries, frameBad := badOf k.entries, priv := [], privBad := [],
           tiles := takeTiles (c.holders s.now) pipe b.tiles }
    c := { pc := 0, start, fetch := if c.st.codeBad.contains k.key.2.1 then 1 else 0, deferred := [], reports := [],
           batches := [], bopen := 0, wait := none, holds := [],
           hb := k.entries.foldl (fun a e => e.cov.foldl (fun a u => addNew u a) a) [],
           st := .run, trap := { idx := 0, resume := 0, code := 0, entry := none, cause := 0 }, resume := none, replay := [],
           cls := 0, lastPfx := [] } }

/-- A candidate fires on a pipeline (R227): serial, positions, columns, registers; an acquire at .die or wider drops the
core's L1 global lines in 2 ck (R177); the entries are freed, and the bin where none is left (R222). -/
def State.fire (s : State) (core pipe : Nat) (k : Cand) : State :=
  match s.block k.key.2.1, s.ctx k.key.1 with
  | some b, some x =>
    let c := s.core core
    let serial := nextSerial (s.serialsUsed core) 4096 c.serial
    let acq := k.entries.foldl (fun a e => max a e.acq) 0
    let p := s.newPack core pipe k b x serial (s.now + 4 + if acq ≥ 2 then 2 else 0)
    let slot := (freeSlot (c.holders s.now) pipe k.tier).getD 0
    let es := c.entries.filter fun e => !k.entries.contains e
    let left := es.any fun e => e.st == .binned && e.ctx == k.key.1 && e.slot == k.key.2.1 && (tagLevel e.tag == 7) == k.key.2.2.1
    let bins := if left then c.bins.upd k.bin fun q => { q with expired := false } else c.bins.del k.bin
    let c1 := ({ c with serial := (serial + 1) % 2 ^ 24, entries := es, bins, packs := c.packs.put (pipe * 16 + slot) p,
                        quiet := c.quiet.filter fun q => q != (k.key.2.2.2.1 % 2 ^ 13, k.key.2.1, k.key.2.2.2.2) }).modPipe pipe
      fun q => { q with tiles := q.tiles.filter fun e => !p.m.tiles.contains e.1 }
    let s1 := s.setCore core c1
    if acq ≥ 2 then s1.acquireDrop core else s1
  | _, _ => s

/-- The bypass count of a candidate (R228). -/
def Core.bypassOf (c : Core) (k : CandKey) : Nat := ((c.helm.bypass.find? fun e => e.1 == k).map Prod.snd).getD 0

/-- A core's helm changed. -/
def State.modHelm (s : State) (core : Nat) (f : Helm → Helm) : State := s.modCore core fun c => { c with helm := f c.helm }

/-- The turn pointers set as the helm looks (R226). -/
def State.setTurns (s : State) (core : Nat) : State :=
  let cs := s.cands core
  s.modHelm core fun h => { h with turns := [0, 1, 2, 3].foldl (fun (t : Tbl (Nat × Nat)) cls =>
    match s.turnAt core cls cs with | some x => t.put cls x | none => t) h.turns }

/-- A tier-3 firing of the context at its class's pointer uses one of its weight (R226). -/
def State.useTurn (s : State) (core : Nat) (k : Cand) : State :=
  match s.ctx k.key.1 with
  | none => s
  | some x => s.modHelm core fun h => { h with turns := h.turns.upd x.r.cls fun e => if e.1 = k.key.1 then (e.1, e.2 + 1) else e }

/-- The ck of a firing, and of a tier-3 one (R225, R362). -/
def State.noteFiring (s : State) (core : Nat) (k : Cand) : State :=
  s.modHelm core fun h => { h with last := some s.now, last3 := if k.tier = 3 then some s.now else h.last3 }

/-- Tier-3 firings may go ahead on a core: the die is not too hot (R362) and no restored pack waits there (R356). -/
def State.tier3Ok (s : State) (core : Nat) : Bool :=
  let heat := s.mgmt.thermal.getD (core / 48) 0
  let last := match (s.core core).helm.last3 with | some t => t + 4 ≤ s.now | none => true
  heat < 2 && (heat = 0 || last) && !(s.ctxs.any fun e => e.2.restore.any fun q => q.core == core)

/-- PACK_FIRING (R225 to R228): the helm looks once in a ck. The candidate fires if it fits; else another in its place, at most 8 times, which
uses weight only where it is of the candidate's own context; a candidate of tier 1 or 2 that does not fit holds tier 3. A candidate that
fires, in its place or in another's, loses its count. -/
def execPackFiring (core : Nat) (s0 : State) : Out :=
  if (s0.core core).helm.last = some s0.now then .next s0
  else
    let s := s0.setTurns core
    match (s.walkHelm core).filter fun k => k.tier != 3 || s.tier3Ok core with
    | [] => .next s
    | k :: rest =>
      let count (t : State) (gone : List CandKey) (more : List (CandKey × Nat)) : State :=
        t.modHelm core fun h => { h with bypass := (h.bypass.filter fun e => !gone.contains e.1) ++ more }
      let fired (q : Cand) (p : Nat) : State :=
        let s1 := (s.fire core p q).noteFiring core q
        if q.tier = 3 && q.key.1 = k.key.1 then s1.useTurn core q else s1
      match s.fits core k with
      | some p => .next (count (fired k p) [k.key] [])
      | none =>
        let cnt := (s.core core).bypassOf k.key
        if cnt ≥ 8 then .next s
        else match (rest.filter fun q => (k.tier == 3) == (q.tier == 3)).find? fun q => (s.fits core q).isSome with
          | none => .next s
          | some q => .next (count (fired q ((s.fits core q).getD 0)) [k.key, q.key] [(k.key, cnt + 1)])

/-- LEASH_EXPIRY (R223): a normal bin whose oldest instance entered its leash ago becomes eligible. -/
def execLeashExpiry (core bin : Nat) (s : State) : Out :=
  let c := s.core core
  match c.bins.find bin with
  | none => .next s
  | some b =>
    match s.block b.slot, c.inBin b with
    | some blk, e :: es =>
      if !blk.ordered && s.leashDue blk (e :: es) then
        .next (s.setCore core { c with bins := c.bins.put bin { b with expired := true } })
      else .next s
    | _, _ => .next s

/-- CODE_REFETCH (R325): the refetch of a firing pack's block ends; it rewrites the code store, or the pack traps before
index 0 with cause 20. -/
def execCodeRefetch (core : Nat) (ok : Bool) (s : State) : Out :=
  let c := s.core core
  match c.packs.find? fun e => e.2.c.fetch == 1 && e.2.c.st == .run with
  | none => .next s
  | some (key, p) =>
    let r : PackRef := { core, pipe := key / 16, slot := key % 16 }
    let p1 := { p with c := { p.c with fetch := 0 } }
    if ok then
      .next ((s.setPack r p1).modCore core fun k => { k with st := { k.st with codeBad := k.st.codeBad.filter (· != p.id.slot) } })
    else .next (s.raise r p1 0 0 0 none 20)

end Sys2Proof.Machine
end

