-- ==== Sys2Proof/Machine/Retriever.lean ====
section
/-! DEFINITION. The Retrievers: misses, regenerations, the quiescent close, completion and failure of a recompute
(R330, R334 to R340). -/

namespace Sys2Proof.Machine

/-- A Retriever with nothing to do. -/
def Retriever.idle : Retriever where
  queue := []
  stack := []
  colour := none

/-- The Retriever of a die (R336). -/
def State.retriever (s : State) (die : Nat) : Retriever := (s.retr.find die).getD Retriever.idle
/-- A Retriever replaced. -/
def State.setRetr (s : State) (die : Nat) (q : Retriever) : State := { s with retr := s.retr.put die q }

/-- A record with its context. -/
def State.recOf (s : State) (ctx rix : Nat) : Option (Ctx × Rec) :=
  match s.ctx ctx with
  | none => none
  | some x => (x.recipes.find rix).map fun t => (x, t)

/-- A tile stands in some Retriever's queue or on its stack. -/
def State.queued (s : State) (ctx rix : Nat) : Bool :=
  s.retr.any fun e => e.2.queue.contains (ctx, rix) || e.2.stack.any fun g => g.ctx == ctx && g.rix == rix

/-! ### Misses -/

/-- A miss comes to its Retriever (R337): it joins a tile that is queued or in REGEN, goes to the end of the queue, or finds it
full and tries again 64 ck later; a tile that is no longer dropped lets its accesses go on. -/
def State.takeMiss (s : State) (n : Nat) (m : Miss) : State :=
  let gone : State := { s with misses := s.misses.eraseIdx n }
  match s.recOf m.ctx m.rix with
  | none => gone
  | some (x, t) =>
    if s.queued m.ctx m.rix || t.st = .regen then gone
    else if t.st != .dropped then gone.unpark x.r.asid t.tile
    else
      let q := s.retriever m.die
      if q.queue.length < 256 then gone.setRetr m.die { q with queue := q.queue ++ [(m.ctx, m.rix)] }
      else { s with misses := s.misses.set n { m with retry := some (s.now + 64) } }

/-- RECIPE_MISS (R189, R337): the n-th miss on its way, to the Retriever of its line's home die. -/
def execRecipeMiss (die n : Nat) (s : State) : Out :=
  match s.misses[n]? with
  | none => .next s
  | some m => if m.die = die && m.retry.isNone then .next (s.takeMiss n m) else .next s

/-- MISS_RETRY (R337). -/
def execMissRetry (n : Nat) (s : State) : Out :=
  match s.misses[n]? with
  | none => .next s
  | some m => match m.retry with
    | none => .next s
    | some t => if t ≤ s.now then .next (s.takeMiss n m) else .next s

/-! ### The end of a regeneration -/

/-- The divergence fault token (R340). -/
def divergencePay (kind tile rix crc sealed_ arg : Nat) : List Word :=
  [0xFFFFFFFF, BitVec.ofNat 32 (38 + kind * 256)] ++ two tile ++
  [BitVec.ofNat 32 (rix % 2 ^ 13), BitVec.ofNat 32 crc, BitVec.ofNat 32 sealed_, BitVec.ofNat 32 arg]

/-- The loads and atomics parked on a tile fail as poison (R330). -/
def State.poisonParked (s : State) (asid tile : Nat) : State :=
  let mine (e : Nat × Slot) : Bool := e.2.parked && e.2.asid == asid && e.2.line / 1024 == tile / 2 ^ 16
  let core (c : Core) : Core :=
    (c.slots.filter mine).foldl (fun (k : Core) e => { (k.resolve e.1 fun _ => .fail 10 0) with slots := k.slots.del e.1 }) c
  { s with cores := s.cores.map fun (e : Nat × Core) => (e.1, core e.2) }

/-- The read of a word of a copy stands parked on a tile: of a gather, that of its index or of its element. -/
def State.readsTile (s : State) (core tile : Nat) (q : Copy) (j : Nat) : Bool :=
  match (s.copySource core q j).2.2 with
  | .parked _ c r => (match s.recOf c r with | some (_, t) => t.tile == tile | none => false)
  | _ => false

/-- Copy reads parked on a tile deliver words of zero marked poisoned (R330); a remote copy does not send them (R315). -/
def State.zeroCopy (s : State) (core n tile : Nat) (q : Copy) : State :=
  let step (t : State) (j : Nat) : State :=
    let upd (u : State) (f : Copy → Copy) : State :=
      u.modCore core fun c => { c with copies := c.copies.upd n fun x => f { x with parked := x.parked.filter (· != j) } }
    if !(s.readsTile core tile q j) then t
    else if q.mode == .remote then upd t fun x => { x with bad := insertBy Prod.fst (j, 7, q.src + 4 * j) x.bad }
    else match t.copyDest core q j 0 true with
      | (u, some k) => upd u fun x => { x with bad := insertBy Prod.fst (j, k, q.dst + 4 * j) x.bad }
      | (u, none) => upd u fun x => { x with done := x.done ++ [j], poison := true, marks := x.marks ++ [j] }
  q.parked.foldl step s

/-- The copies of a context that have reads parked: core, entry and copy. -/
def State.parkedCopies (s : State) (ctx : Nat) : List (Nat × Nat × Copy) :=
  s.cores.flatMap fun e => (e.2.copies.filter fun q => q.2.ctx == ctx && !q.2.parked.isEmpty).map fun q => (e.1, q.1, q.2)

/-- Every copy of a context whose parked reads stand on a tile. -/
def State.zeroCopies (s : State) (ctx tile : Nat) : State :=
  (s.parkedCopies ctx).foldl (fun (t : State) e => t.zeroCopy e.1 e.2.1 tile e.2.2) s

/-- A parked atomic binds to the bytes of the tile, which is READONLY, or to their poison, and writes nothing (R189, R339; DEDUCED,
log 76). -/
def State.bindAtom (s : State) (core n : Nat) (sl : Slot) (a : AtomReq) : State :=
  let bind (t : State) (r : LaneRes) : State := t.modCore core fun k => { (k.resolve n fun _ => r) with slots := k.slots.del n }
  match s.homeRead sl.asid a.addr a.size sl.colour .read with
  | (s1, .data bs poison) => bind s1 (if poison then .fail 10 0 else .bound (leNat bs))
  | (s1, .fault k) => bind s1 (.fail 9 k)
  | (s1, .recipe _ _) => s1

/-- A parked slot's access binds at its home slice: a load's lanes once none of them waits for an earlier access (R189). -/
def State.bindSlot (s : State) (core n : Nat) : State :=
  match (s.core core).slots.find n with
  | none => s
  | some sl =>
    match sl.kind with
    | .atom a => s.bindAtom core n sl a
    | _ => match execLineFill core n s with
      | .next t => t
      | _ => s

/-- Every access parked on a tile of a context is released and binds at once, loads and atomics in the order of their issue: to the bytes that
the tile holds at this instant, or to their poison (R189, R339). -/
def State.bindTile (s : State) (ctx asid tile : Nat) : State :=
  let mine (q : Slot) : Bool := q.parked && q.asid == asid && q.line / 1024 == tile / 2 ^ 16
  let first (c : Core) (e : Nat × Slot) : Nat :=
    match e.2.kind with | .atom a => a.uid | _ => ((c.waiters e.1).map fun w => w.uid).foldl min (2 ^ 64)
  let all := s.cores.flatMap fun e => (e.2.slots.filter fun q => mine q.2).map fun q => (first e.2 q, e.1, q.1)
  let s1 := (sortBy Prod.fst all).foldl (fun t e => t.bindSlot e.2.1 e.2.2) (s.unpark asid tile)
  (s1.parkedCopies ctx).foldl (fun (t : State) e => e.2.2.parked.foldl (fun u j => u.bindWord e.1 e.2.1 j) t) s1

/-- A source has become FAILED (R330, R337, R340 kind 5): each regeneration of the stack is given up, its busy marks undone and
its parked accesses released; its tile stays DROPPED. -/
def State.failSources (s : State) (die failed : Nat) : State :=
  let q := s.retriever die
  let one (t : State) (g : Regen) : State :=
    match t.recOf g.ctx g.rix with
    | none => t
    | some (x, r) =>
      let t1 := ((t.unbusy g.ctx (r.sources.take g.done)).poisonParked x.r.asid r.tile).zeroCopies g.ctx r.tile
      t1.raiseAtUnit (196 + die) g.ctx (divergencePay 5 r.tile g.rix 0 r.crc failed)
  (q.stack.foldl one s).setRetr die { q with stack := [] }

/-- A regeneration ends with its record in a new state: busy marks go, the colour returns, parked accesses bind (R337, R339). -/
def State.endRegen (s : State) (die : Nat) (g : Regen) (r : Rec) (x : Ctx) : State :=
  let q := s.retriever die
  let s1 := (s.unbusy g.ctx r.sources).setRetr die { q with stack := q.stack.tail, colour := none }
  let s2 : State := { s1 with level7 := s1.level7.filter fun c => q.colour != some c }
  s2.bindTile g.ctx x.r.asid r.tile

/-- The regeneration on top of a Retriever's stack, with its record. -/
def State.topRegen (s : State) (die : Nat) : Option (Regen × Ctx × Rec) :=
  match (s.retriever die).stack with
  | [] => none
  | g :: _ => (s.recOf g.ctx g.rix).map fun e => (g, e.1, e.2)

/-- The top regeneration replaced. -/
def State.setTop (s : State) (die : Nat) (g : Regen) : State :=
  let q := s.retriever die
  s.setRetr die { q with stack := g :: q.stack.tail }

/-! ### Starting -/

/-- A regeneration that has made no source resident yet. -/
def Regen.start (ctx rix now : Nat) : Regen where
  ctx := ctx
  rix := rix
  done := 0
  phase := .sources
  frame := 0
  since := now

/-- One step over the sources of a record (R337): a dropped source is regenerated first, a FAILED one ends the record's
regeneration, a resident one is marked busy. -/
def State.sourceStep (s : State) (die : Nat) (g : Regen) (r : Rec) : State :=
  match r.sources[g.done]? with
  | none => s.setTop die { g with phase := .frame, since := s.now }
  | some i =>
    match s.recOf g.ctx i with
    | none => s
    | some (_, t) =>
      match t.st with
      | .failed => s.failSources die i
      | .regen => s
      | .dropped =>
        if s.retr.any fun e => e.2.stack.any fun h => h.ctx == g.ctx && h.rix == i then s
        else
          let q := s.retriever die
          s.setRetr die { q with queue := q.queue.filter (fun e => e != (g.ctx, i)), stack := Regen.start g.ctx i s.now :: q.stack }
      | _ => (s.modRec g.ctx i fun y => { y with busy := y.busy + 1 }).setTop die { g with done := g.done + 1 }

/-- REGENERATION_START (R330, R337): the Retriever takes the head of its queue, or readies the next source of the tile it works
on. -/
def execRegenerationStart (die : Nat) (s : State) : Out :=
  let q := s.retriever die
  match q.stack, q.queue with
  | g :: _, _ =>
    match s.topRegen die with
    | some (_, _, r) => if g.phase = .sources then .next (s.sourceStep die g r) else .next s
    | none => .next (s.setRetr die { q with stack := q.stack.tail })
  | [], (ctx, rix) :: rest =>
    let s1 := s.setRetr die { q with queue := rest }
    match s.recOf ctx rix with
    | none => .next s1
    | some (x, t) =>
      if t.st = .dropped then
        if s.retr.any fun e => e.2.stack.any fun h => h.ctx == ctx && h.rix == rix then .next s1
        else .next (s1.setRetr die { q with queue := rest, stack := [Regen.start ctx rix s.now] })
      else if t.st = .regen then .next s1
      else .next (s1.unpark x.r.asid t.tile)
  | [], [] => .next s

/-- The free frame of lowest physical address that is granted to an ASID (R337). -/
def State.freeFrame (s : State) (asid : Nat) : Option Nat :=
  (s.mem.owner.find? fun e => ownState e.2.toNat == 0 && ownGrant e.2.toNat == asid).map fun e => e.1 * 2 ^ 16

/-- Pages of one context evicted until a frame granted to it is free, or none is left (R337). -/
def State.evictFor (ctx asid : Nat) : Nat → State → State
  | 0, s => s
  | n + 1, s =>
    if (s.freeFrame asid).isSome then s
    else match s.evictOne fun _ c => c == ctx with
      | some t => State.evictFor ctx asid n t
      | none => s

/-- The lowest free level-7 colour (R232). -/
def State.freeColour7 (s : State) : Option Nat := (List.range 8192).find? fun c => !s.level7.contains c

/-- The entry token of a recompute, made by the Retriever of a die (R217, R338). -/
def entryTok (die ctx c : Nat) (r : Rec) : Tok where
  slot := r.entry
  port := 0
  tag := mkTag 7 c 0
  pay := two r.tile ++ r.params
  ctx := ctx
  rel := some .dev
  handler := false
  src := 0
  bearing := 0
  core := 196 + die
  cov := []

/-- REGEN_FRAME_TAKE (R337, R338): the tile enters REGEN on a free frame of its context, which keeps its bytes, under a level-7
colour, and the entry token is injected; without a frame or a colour the Retriever waits. -/
def execRegenFrameTake (die : Nat) (s : State) : Out :=
  match s.topRegen die with
  | none => .next s
  | some (g, x, r) =>
    if g.phase != .frame || r.st != .dropped || x.st != .running then .next s
    else
      let s1 := State.evictFor g.ctx x.r.asid (s.mem.owner.length + 1) s
      match s1.freeFrame x.r.asid, s1.freeColour7 with
      | some f, some c =>
        let s2 := (s1.setOwner f (mkOwner (r.tile / 2 ^ 16) x.r.asid 0 1)).modRec g.ctx g.rix fun y => { y with st := .regen }
        let q := s2.retriever die
        let s3 := { (s2.setRetr die { q with stack := { g with phase := .running, frame := f, since := s.now } :: q.stack.tail, colour := some c })
                    with level7 := s2.level7 ++ [c] }
        .next ((s3.clearClose g.ctx (7 * 2 ^ 13 + c)).placeTok (entryTok die g.ctx c r))
      | _, _ => .next s1

/-! ### The live count -/

/-- A token of a live colour. -/
def Tok.ofColour (t : Tok) (c : Nat) : Bool := tagLevel t.tag == 7 && tagNumber t.tag == c

/-- The tokens of a colour that have not entered a matching store (R334). -/
def Core.liveToks (k : Core) (c : Nat) : Nat :=
  (k.outbound.filter fun t => t.tok.ofColour c).length + (k.arriving.filter fun t => t.ofColour c).length +
  (k.spill.filter fun t => t.ofColour c).length + (k.intake.map fun e => (e.2.filter fun t => t.1.ofColour c).length).sum

/-- The live count of a colour (R334). -/
def State.liveCount (s : State) (c : Nat) : Nat :=
  (s.cores.map fun e => e.2.liveToks c + (e.2.packs.filter fun p => p.2.id.colour == some c).length +
    (e.2.wake.filter fun w => w.2.colour == some c).length + (e.2.copies.filter fun q => q.2.colour == some c).length).sum

/-- The instances of a colour on a core. -/
def Core.ofColour (k : Core) (c : Nat) : List Entry := k.entries.filter fun e => tagLevel e.tag == 7 && tagNumber e.tag == c

/-- QUIESCENT_CLOSE (R334): with a live count of 0, every group that holds a BINNED instance of the colour becomes eligible. -/
def execQuiescentClose (die : Nat) (s : State) : Out :=
  let q := s.retriever die
  match q.colour, q.stack with
  | some c, g :: _ =>
    if g.phase != .running || s.liveCount c != 0 then .next s
    else
      let close (k : Core) : Core :=
        let gs := ((k.ofColour c).filter fun e => e.st == .binned).map fun e => (c, e.slot, tagIndex e.tag / 32)
        { k with quiet := gs.foldl (fun a x => if a.contains x then a else a ++ [x]) k.quiet }
      .next { s with cores := s.cores.map fun (e : Nat × Core) => (e.1, close e.2) }
  | _, _ => .next s

/-- RECOMPUTE_COMPLETE (R334): the live count is 0 and no instance of the colour is left. -/
def execRecomputeComplete (die : Nat) (s : State) : Out :=
  let q := s.retriever die
  match q.colour, q.stack with
  | some c, g :: _ =>
    if g.phase = .running && s.liveCount c = 0 && s.cores.all (fun e => (e.2.ofColour c).isEmpty)
    then .next (s.setTop die { g with phase := .complete, since := s.now }) else .next s
  | _, _ => .next s

/-! ### Installing -/

/-- The bytes of a tile under its regeneration mapping: the frame's, with marked lines of the home slices over them (R339). -/
def State.regenBytes (s : State) (asid tile frame c : Nat) : List Byte :=
  let line (i : Nat) : List Byte :=
    let mem : Sparse 8 := Sparse.setRun 0 (s.physRead (frame + i * 64) 64) []
    match s.l2 asid (tile / 64 + i) (some c) with
    | some l => Sparse.getRun (l.over mem) 0 64
    | none => Sparse.getRun mem 0 64
  (List.range 1024).flatMap line

/-- The leaf and the owner entry of a tile that is installed again (R339). -/
def State.installLeaf (s : State) (x : Ctx) (r : Rec) (frame : Nat) : State :=
  match s.walk x.root r.tile with
  | .recipe at_ _ =>
    (s.setEntry64 at_ (frame + keptBits (s.entry64 at_) + 3)).setOwner frame (mkOwner 0 x.r.asid 1 2)
  | _ => s

/-- A line whose regeneration mark is cleared, under the bytes that a held line of the tile keeps and the REDs that wait in it (R335, R314,
R188). -/
def unmarkLine (l : L2Line) (held : Option L2Line) : L2Line :=
  match held with
  | none => { l with colour := none }
  | some h =>
    let waits := h.ops.foldl (fun a o => match o with | .red _ _ _ _ => a ||| o.mask | .write _ _ => a) 0
    let keep := fullMask ^^^ waits
    { h with data := overlay l.data h.data h.valid, valid := l.valid &&& keep ||| h.valid, dirty := l.dirty &&& keep ||| h.dirty
             poison := l.poison || h.poison, ops := if h.ops.isEmpty then [] else .write l.data l.valid :: h.ops }

/-- The marks of a colour cleared in every cache (R335). -/
def State.clearMarks (s : State) (asid tile c : Nat) : State :=
  let mine (a line : Nat) (m : Option Nat) : Bool := a == asid && line / 1024 == tile / 2 ^ 16 && m == some c
  let marked := s.mem.l2.filter fun l => mine l.asid l.line l.colour
  let rest := s.mem.l2.filter fun l => !(mine l.asid l.line l.colour) &&
    !(l.colour.isNone && marked.any fun m => m.asid == l.asid && m.line == l.line)
  let new := marked.map fun l => unmarkLine l (s.l2 asid l.line none)
  let l1 (l : L1Line) : L1Line := if mine l.asid l.line l.colour then { l with colour := none } else l
  { s with mem := { s.mem with l2 := rest ++ new }
           cores := s.cores.map fun (e : Nat × Core) => (e.1, { e.2 with l1 := e.2.l1.map l1 }) }

/-- The marked lines of a tile invalidated, and every line of the tile poisoned, in its frame and in the home slices (R335, R339). -/
def State.poisonTile (s : State) (asid tile frame c : Nat) : State :=
  let mine (a line : Nat) (m : Option Nat) : Bool := a == asid && line / 1024 == tile / 2 ^ 16 && m == some c
  let mark (l : L2Line) : L2Line := if mine l.asid l.line (some c) && l.colour.isNone then { l with poison := true } else l
  ({ s with mem := { s.mem with l2 := (s.mem.l2.filter fun (l : L2Line) => !(mine l.asid l.line l.colour)).map mark,
                                bad := ((List.range 1024).map fun i => frame / 64 + i).foldl (fun a k => addNew k a) s.mem.bad } } : State).dropL1
    fun l => mine l.asid l.line l.colour

/-- A recompute that failed (R339): the leaf is written, the tile poisoned, the record FAILED, and the fault token sent. -/
def State.failTile (s : State) (die : Nat) (g : Regen) (x : Ctx) (r : Rec) (c kind crc arg : Nat) : State :=
  let s1 := ((s.poisonTile x.r.asid r.tile g.frame c).installLeaf x r g.frame).modRec g.ctx g.rix fun y => { y with st := .failed }
  (s1.endRegen die g r x).raiseAtUnit (196 + die) g.ctx (divergencePay kind r.tile g.rix crc r.crc arg)

/-- Every token and instance of a colour discarded (R339). -/
def State.discardColour (s : State) (c : Nat) : State :=
  let core (k : Core) : Core :=
    let es := k.entries.filter fun e => !(tagLevel e.tag == 7 && tagNumber e.tag == c)
    { k with outbound := k.outbound.filter (fun t => !t.tok.ofColour c), arriving := k.arriving.filter (fun t => !t.ofColour c),
             spill := k.spill.filter (fun t => !t.ofColour c), entries := es,
             intake := k.intake.map (fun e => (e.1, e.2.filter fun t => !t.1.ofColour c)), quiet := k.quiet.filter (fun q => q.1 != c),
             helm := { k.helm with bypass := k.helm.bypass.filter fun e => !(e.1.2.2.1 && e.1.2.2.2.1 % 2 ^ 13 == c) },
             bins := k.bins.filter fun b => !b.2.recovery || es.any fun e => e.st == .binned && tagLevel e.tag == 7 && e.slot == b.2.slot && e.ctx == b.2.ctx }
  { s with cores := s.cores.map fun (e : Nat × Core) => (e.1, core e.2) }

/-- Nothing of a colour runs any more: its packs have ended and its stores and copies are done with. -/
def State.colourIdle (s : State) (c : Nat) : Bool :=
  !(s.cores.any fun e => e.2.packs.any (fun p => p.2.id.colour == some c) || e.2.wake.any (fun w => w.2.colour == some c) ||
    e.2.copies.any fun q => q.2.colour == some c && q.2.st != .faulted)

/-- RECOMPUTE_CRC_CHECK (R339, R340): a complete recompute is compared after 1,024 ck; one that failed discards what is left of
its colour, waits for its packs, and ends as a mismatch does. -/
def execRecomputeCrcCheck (die : Nat) (s : State) : Out :=
  match s.topRegen die, (s.retriever die).colour with
  | some (g, x, r), some c =>
    match g.phase with
    | .complete =>
      if s.now < g.since + 1024 then .next s
      else
        let crc := crc32c (s.regenBytes x.r.asid r.tile g.frame c)
        if crc = r.crc then
          let s1 := (s.clearMarks x.r.asid r.tile c).installLeaf x r g.frame
          .next ((s1.modRec g.ctx g.rix fun y => { y with st := .sealed, misses := min (y.misses + 1) (2 ^ 32 - 1) }).endRegen die g r x)
        else .next (s.failTile die g x r c 1 crc 0)
    | .failed kind arg =>
      let s1 := s.discardColour c
      if s1.colourIdle c then .next (s1.failTile die g x r c kind 0 arg) else .next s1
    | _ => .next s
  | _, _ => .next s

/-- WIDTH_FAILURE (R336): the colour's share of a core is full of complete instances, BINNED or waiting for its one bin, while its spilled
tokens wait there, and nothing of it moves or can fire. -/
def execWidthFailure (die : Nat) (s : State) : Out :=
  let q := s.retriever die
  match q.colour, q.stack with
  | some c, g :: _ =>
    let still := !(s.cores.any fun e => e.2.packs.any (fun p => p.2.id.colour == some c) || e.2.outbound.any (fun t => t.tok.ofColour c) ||
      e.2.arriving.any (fun t => t.ofColour c) || e.2.copies.any fun p => p.2.colour == some c)
    let stuck (core : Nat) (k : Core) : Bool :=
      (match k.spill.find? fun t => t.ofColour c with
        | some t => !(s.entryRoom core (.colour c) (.colour c) (match s.block t.slot with | some b => b.ports | none => 1))
        | none => false) &&
      (k.ofColour c).all (fun e => e.st != .part) && !((s.cands core).any fun x => x.tier == 2 && x.key.2.2.2.1 % 2 ^ 13 == c)
    if g.phase = .running && still && s.cores.any (fun e => stuck e.1 e.2) then .next (s.failRegen c 4 0) else .next s
  | _, _ => .next s

end Sys2Proof.Machine
end

