-- ==== Sys2Proof/Machine/Wire.lean ====
section
/-! DEFINITION. Link packets as bytes: the header, the fields of each type of packet, and their reading (R4, R295 to R297, R299). The
fields of acks, faults, markers and control packets have no layout in the spec: theirs is the model's (DESIGN CHOICE, log 32). -/

namespace Sys2Proof.Machine

/-! ### The header -/

/-- The 8-byte header of a packet (R295); `rsv` says that a reserved field is not zero. -/
structure LinkHdr where
  dest   : Nat
  source : Nat
  typ    : Nat
  vc     : Nat
  count  : Nat
  rsv    : Bool
deriving DecidableEq, Repr

/-- The header's fields in a number of 64 bits (R295). -/
def LinkHdr.ofNat (n : Nat) : LinkHdr where
  dest := n % 2 ^ 20
  source := n / 2 ^ 20 % 2 ^ 20
  typ := n / 2 ^ 40 % 2 ^ 4
  vc := n / 2 ^ 44 % 2 ^ 3
  count := n / 2 ^ 48 % 2 ^ 8
  rsv := n / 2 ^ 47 % 2 != 0 || n / 2 ^ 56 % 2 ^ 8 != 0

/-- A header with its reserved fields zero (R295). -/
def LinkHdr.toNat (h : LinkHdr) : Nat :=
  h.dest % 2 ^ 20 + h.source % 2 ^ 20 * 2 ^ 20 + h.typ % 2 ^ 4 * 2 ^ 40 + h.vc % 2 ^ 3 * 2 ^ 44 + h.count % 2 ^ 8 * 2 ^ 48

/-- The type of a packet (R295). -/
def PktBody.typ : PktBody → Nat
  | .token .. => 1
  | .write .. => 2
  | .ack .. => 3
  | .fault .. => 4
  | .marker .. => 5
  | .control .. => 6

/-! ### Packets sent -/

/-- Bytes filled with zeros to whole flits. -/
def flitPad (bs : List Byte) : List Byte := bs ++ List.replicate ((64 - bs.length % 64) % 64) 0

/-- The launch identifier (R296). -/
def launchId (coord number : Nat) : Nat := coord % 2 ^ 20 * 2 ^ 12 + number % 2 ^ 12

/-- The fields of a packet after its header, in the order of their offsets (R296, R297). -/
def PktBody.fields : PktBody → List Byte
  | .token coord number block t =>
    leBytes 8 t.tag.toNat ++ leBytes 4 (launchId coord number) ++ leBytes 2 block ++ leBytes 1 t.port ++ leBytes 1 t.pay.length ++
    ((List.range 8).flatMap fun i => leBytes 4 (t.pay.getD i 0).toNat) ++ leBytes 1 (if t.rel = some .sys then 1 else 0) ++ leBytes 7 0
  | .write addr coord number copyId bytes =>
    leBytes 8 addr ++ leBytes 4 (launchId coord number) ++ leBytes 4 copyId ++ leBytes 4 bytes.length ++ leBytes 36 0 ++ bytes
  | .ack copyId bytes => leBytes 4 copyId ++ leBytes 4 bytes
  | .fault copyId off kind more => leBytes 4 copyId ++ leBytes 4 off ++ leBytes 2 kind ++ leBytes 2 more
  | .marker coord number vals => leBytes 1 0 ++ leBytes 1 vals.length ++ leBytes 2 0 ++ leBytes 4 (launchId coord number) ++ vals.flatMap (leBytes 8)
  | .control kind coord number vals =>
    leBytes 1 kind ++ leBytes 1 vals.length ++ leBytes 2 0 ++ leBytes 4 (launchId coord number) ++ vals.flatMap (leBytes 4)

/-- A packet of this node as the bytes of its flits (R295). -/
def Pkt.bytes (q : Pkt) (node : Nat) : List Byte :=
  let h : LinkHdr := { dest := q.dest, source := node, typ := q.body.typ, vc := q.vc, count := q.body.flits - 1, rsv := false }
  flitPad (leBytes 8 h.toNat ++ q.body.fields)

/-! ### Packets received -/

/-- A number at an offset of a packet: every field is little-endian (R4). -/
def pktNat (bs : List Byte) (off n : Nat) : Nat := leNat ((bs.drop off).take n)

/-- A packet as read from its flits: of a type, or of none that there is (R295, R299). -/
inductive PktIn where
  | token (p : TokPkt)
  | write (p : WrPkt)
  | ack (p : AckPkt)
  | fault (p : FaultPkt) (more : Nat)
  | marker (p : CtlPkt)
  | control (kind : Nat) (p : CtlPkt)
  | reserved
deriving DecidableEq, Repr

/-- The values of a marker or a control packet: n bytes each, which are 8 of a marker, whose count is kept at 8 (R352). -/
def ctlVals (bs : List Byte) (n : Nat) : List Nat := (List.range (pktNat bs 9 1)).map fun i => pktNat bs (16 + n * i) n

/-- A packet read from its flits (R295 to R297). -/
def readPacket (bs : List Byte) : PktIn :=
  let h := LinkHdr.ofNat (pktNat bs 0 8)
  let id (off : Nat) : Nat := pktNat bs off 4
  let ctl : CtlPkt := { dest := h.dest, source := h.source, rsv := h.rsv || pktNat bs 10 2 != 0, coord := id 12 / 2 ^ 12,
                        number := id 12 % 2 ^ 12, vals := ctlVals bs (if h.typ = 5 then 8 else 4) }
  match h.typ with
  | 1 => .token { dest := h.dest, source := h.source, vc := h.vc, count := h.count, hdrRsv := h.rsv, tag := BitVec.ofNat 64 (pktNat bs 8 8),
                  coord := id 16 / 2 ^ 12, number := id 16 % 2 ^ 12, block := pktNat bs 0x14 2, port := pktNat bs 0x16 1,
                  length := pktNat bs 0x17 1, payload := (List.range 8).map fun i => BitVec.ofNat 32 (pktNat bs (0x18 + 4 * i) 4),
                  rel := pktNat bs 0x38 1 % 2 == 1, rsv := pktNat bs 0x38 1 / 2 != 0 || pktNat bs 0x39 7 != 0 }
  | 2 => .write { dest := h.dest, source := h.source, count := h.count, hdrRsv := h.rsv, addr := pktNat bs 8 8, coord := id 16 / 2 ^ 12,
                  number := id 16 % 2 ^ 12, copyId := id 0x14, bytes := (bs.drop 64).take (pktNat bs 0x18 4) }
  | 3 => .ack { dest := h.dest, source := h.source, rsv := h.rsv || pktNat bs 16 48 != 0, copyId := id 8, bytes := id 12 }
  | 4 => .fault { dest := h.dest, source := h.source, rsv := h.rsv || pktNat bs 20 44 != 0, copyId := id 8, off := id 12,
                  kind := pktNat bs 16 2 } (pktNat bs 18 2)
  | 5 => .marker ctl
  | 6 => .control (pktNat bs 8 1) ctl
  | _ => .reserved

/-- The event of a packet that a link port has received whole: by its type, and of a control packet by its kind (R301, R302, R352, log
32). A marker that names no launch is the peer's own (R350) and asks nothing; one of a reserved type, or of a kind that there is not, has
none. -/
def PktIn.event (port : Nat) : PktIn → Option Instr
  | .token p => some (.tokenPacketReceive port p)
  | .write p => some (.writePacketReceive port p)
  | .ack p => some (.writeAckReceive port p)
  | .fault p more => some (.writeFaultReceive port p more)
  | .marker p => some (.settleMarkerReceive p)
  | .control 1 p =>
    let v (i : Nat) : Nat := p.vals.getD i 0
    some (.prepareReceive { dest := p.dest, source := p.source, rsv := p.rsv, coord := p.coord, number := p.number, crc := v 0,
                            widths := (p.vals.drop 1).take 6, field := v 7, colour := v 8, count := v 9, index := v 10, listCrc := v 11 })
  | .control 2 p => some (.readyReceive p)
  | .control 3 p => some (.refuseReceive p)
  | .control 4 p => some (.startReceive p)
  | .control 5 p => some (.abortReceive p)
  | .control 6 p => some (.closeControlReceive p)
  | .control 7 p => some (.retireControlReceive p)
  | .control _ _ => none
  | .reserved => none

/-- The header of a peer's marker of its own cut (R298, R350): on one of VCs 3 to 7. -/
def LinkHdr.peerMarker (h : LinkHdr) : Bool := h.typ == 5 && 3 ≤ h.vc

end Sys2Proof.Machine
end

