-- ==== Sys2Proof/Machine/Links.lean ====
section
/-! DEFINITION. The Plaoz links: flits and slots, ports going down and training, token packets, write packets and their
answers (R294 to R299). -/

namespace Sys2Proof.Machine

/-! ### The link layer -/

/-- A port changed. -/
def State.modLink (s : State) (port : Nat) (f : Link → Link) : State :=
  { s with io := { s.io with links := s.io.links.put port (f ((s.io.links.find port).getD Link.reset)) } }

/-- A port. -/
def State.link (s : State) (port : Nat) : Link := (s.io.links.find port).getD Link.reset

/-- The first packet of a channel with a flit that is not returned gives one up. -/
def returnFlit (vc : Nat) : List Pkt → List Pkt
  | [] => []
  | q :: t => if q.vc = vc && q.due != 0 then { q with due := q.due - 1 } :: t else q :: returnFlit vc t

/-- The failed tries of a flit of a channel (R294). -/
def Link.triesOf (l : Link) (f : Nat × Nat) : Nat := ((l.tries.find? fun e => e.1 == f).map Prod.snd).getD 0

/-- The n-th flit of a channel whose slot has not come back, if the replay buffer holds it (R294). -/
def Link.flitAt (l : Link) (vc n : Nat) : Option (Nat × Nat) :=
  let f := (vc, l.backOn vc + n)
  if f.2 < l.sentOn vc && l.recent.contains f then some f else none

/-- FLIT_CRC_ERROR (R294): the receiver discards the bad flit, the n-th of its channel that is not returned, and the sender resends from
its replay buffer, in the original order: what changes is the number of failed tries of the flit. -/
def execFlitCrcError (port : Nat) (flit : FlitId) (s : State) : Out :=
  let l := s.link port
  match l.flitAt flit.vc flit.n with
  | some f =>
    if l.up then .next (s.modLink port fun k =>
      { k with tries := (f, min (k.triesOf f + 1) 16) :: k.tries.filter fun e => e.1 != f }) else .next s
  | none => .next s

/-- A marker of the port itself (R350 step 7). -/
def Pkt.ownMarker (q : Pkt) : Bool := match q.body with | .marker .. => q.vc != 0 | _ => false

/-- The packets of a port that goes down move on, in order, with every flit whose slot was not returned; a marker of the port
itself does not (R294, R350). -/
def Link.moved (l : Link) : List Pkt :=
  ((l.replay ++ l.queue).map fun q => { q with left := q.left + q.due, due := 0 }).filter fun q => !q.ownMarker

/-- The link markers of running cuts that are done: those of a condition on port and channel (R350 step 7). -/
def State.markDone (s : State) (f : Nat → Nat → Bool) : State :=
  let keep (m : CutMark) : Bool := match m with | .link p v => !f p v | _ => true
  { s with ctxs := s.ctxs.map fun e => (e.1, { e.2 with cut := e.2.cut.map fun k => { k with marks := k.marks.filter keep } }) }

/-- A flit has failed 16 times (R294). -/
def Link.failed (l : Link) : Bool := l.tries.any fun e => 16 ≤ e.2

/-- A stack of a checkpoint has no way to its node: its named port is down, and no port of the node's route mask is up (R294, R360). -/
def State.noWay (s : State) (node port : Nat) : Bool :=
  !(s.link port).up && (s.routePort (mkPkt node 2 0 (.ack 0 0))).isNone

/-- LINK_DOWN (R294): after 16 failed tries of one flit. Nodes to which no port remains are reported as unreachable, which fails
a checkpoint that sends to them (R360). A marker that the port had sent is done with it. -/
def execLinkDown (port : Nat) (s : State) : Out :=
  let l := s.link port
  if !l.up || !l.failed then .next s
  else
    let s0 := s.markDone fun p _ => p == port
    let s1 := s0.modLink port fun k =>
      { k with up := false, counts := [], queue := [], replay := [], tries := [], sent := [], back := [], recent := [] }
    let s2 := l.moved.foldl State.sendPkt s1
    let lost := distinct ((l.moved.filter fun q => (s1.routePort q).isNone).map fun q => q.dest)
    let gone (c : Chk) : Option Nat := (List.range 8).find? fun k => s1.noWay (c.nodes.getD k 0) (c.ports.getD k 0)
    let chk (c : Chk) : Chk := match gone c with
      | some k => { c with failed := some (c.failed.getD k) }
      | none => c
    .next { s2 with io := { s2.io with reports := s2.io.reports ++ lost }, chk := s2.chk.map chk }

/-- FREE_SLOT_RETURN (R294): the count of the channel rises, the tries of the flit that has arrived are over, and waiting flits go; a
marker whose channel has all its slots back is done (R350). A flit that has failed 16 times does not arrive. -/
def execFreeSlotReturn (port vc : Nat) (s : State) : Out :=
  let l := s.link port
  let f := (vc, l.backOn vc)
  if l.up && (l.replay ++ l.queue).any (fun q => q.vc == vc && q.due != 0) && l.triesOf f < 16 then
    let inReplay := l.replay.any fun q => q.vc == vc && q.due != 0
    let l1 : Link := { l with
      counts := l.counts.put vc (l.count vc + 1)
      replay := (if inReplay then returnFlit vc l.replay else l.replay).filter fun q => q.due != 0
      queue := if inReplay then l.queue else returnFlit vc l.queue
      tries := l.tries.filter fun e => e.1 != f
      back := l.back.put vc (l.backOn vc + 1) }
    let s1 := if l1.count vc = 64 then s.markDone fun p v => p == port && v == vc else s
    .next (s1.modLink port fun _ => l1.pump)
  else .next s

/-- LINK_TRAINING (R294, R365): the port comes up with 64 slots on every channel, and packets that waited for a port go; not before the
scrub of bring-up has ended. -/
def execLinkTraining (port : Nat) (s : State) : Out :=
  if port ≥ 16 || (s.link port).up || s.mgmt.boot < 3 then .next s
  else
    let counts : Tbl Nat := (List.range 8).map fun v => (v, 64)
    let s1 := s.modLink port fun k => { k with up := true, counts := counts, tries := [], used := [], sent := [], back := [], recent := [] }
    .next (s1.io.held.foldl State.sendPkt { s1 with io := { s1.io with held := [] } })

/-! ### Packets received -/

/-- The launch of an identifier (R296). -/
def State.launch (s : State) (coord num : Nat) : Option Launch := s.launches.find? fun l => l.coord == coord && l.num == num
/-- A launch changed. -/
def State.modLaunch (s : State) (coord num : Nat) (f : Launch → Launch) : State :=
  { s with launches := s.launches.map fun l => if l.coord = coord && l.num = num then f l else l }

/-- A management counter advanced: counts saturate (R366). -/
def bump (w : Word) : Word := if w = 0xFFFFFFFF then w else w + 1

/-- A count of the management registers (R366). -/
def Mgmt.count (m : Mgmt) : Counter → Word
  | .cecnt => m.cecnt
  | .uecnt => m.uecnt
  | .pktdrop => m.pktdrop
  | .thrcnt => m.thrcnt
  | .aperr port => m.aperr.getD port 0

/-- A count set (R366). -/
def Mgmt.setCount (m : Mgmt) (c : Counter) (v : Word) : Mgmt :=
  match c with
  | .cecnt => { m with cecnt := v }
  | .uecnt => { m with uecnt := v }
  | .pktdrop => { m with pktdrop := v }
  | .thrcnt => { m with thrcnt := v }
  | .aperr port => { m with aperr := m.aperr.set port v }

/-- The events of a count in a ck (R366). -/
def Mgmt.eventsAt (m : Mgmt) (c : Counter) (ck : Nat) : Nat :=
  match m.tally.find? fun e => e.1 == c with | some (_, k, n) => if k = ck then n else 0 | none => 0

/-- An event of a count (R366): it saturates, and the events of a ck are kept for a write in that ck, which they are counted after. -/
def State.count (s : State) (c : Counter) : State :=
  let m := s.mgmt.setCount c (bump (s.mgmt.count c))
  { s with mgmt := { m with tally := (c, s.now, s.mgmt.eventsAt c s.now + 1) :: m.tally.filter fun e => e.1 != c } }

/-- A host write of a count (R366): the value written, and after it the events of this ck. -/
def State.writeCount (s : State) (c : Counter) (v : Word) : State :=
  { s with mgmt := s.mgmt.setCount c (BitVec.ofNat 32 (min (v.toNat + s.mgmt.eventsAt c s.now) 0xFFFFFFFF)) }

/-- A packet dropped and counted (R299). -/
def State.dropPkt (s : State) : State := s.count .pktdrop

/-- A packet comes to its own node, with its reserved fields zero (R299). -/
def State.mine (s : State) (dest : Nat) (rsv : Bool) : Bool := dest == s.io.node && dest != 0xFFFFF && !rsv

/-- The launch that a packet of tokens or data names, once it accepts them (R299, R301). -/
def State.acceptingLaunch (s : State) (coord num : Nat) : Option Launch :=
  (s.launch coord num).filter fun l => l.st == .ready || l.st == .running

/-- The I/O die of a link port (R361), by the number that its fault tokens carry (R311). -/
def dieUnit (port : Nat) : Nat := if port < 8 then 192 else 193

/-- A link token comes to its core (R230, R294): it enters the intake queue of its channel, and its slot goes back at once, or it
waits in its receive slot. -/
def State.linkArrive (s : State) (port vc core : Nat) (t : Tok) : State :=
  let q := ((s.core core).intake.find vc).getD []
  if q.length < 32 && !(s.io.lwait.any fun e => e.2.1 == core && e.2.2.1 == vc)
  then s.modCore core fun c => { c with intake := c.intake.put vc (q ++ [(t, s.now)]) }
  else
    let s1 := s.modLink port fun l => { l with used := l.used.put vc ((l.used.find vc).getD 0 + 1) }
    { s1 with io := { s1.io with lwait := s1.io.lwait ++ [(t, core, vc, port)] } }

/-- A link token placed on its own node (R217, R220, R296): it goes on to no other. -/
def State.placeLink (s : State) (x : Ctx) (port vc : Nat) (t : Tok) : State :=
  if t.slot = 0xFFFF then s.toInbox t
  else match s.unitSlot t with
    | .error s1 => s1
    | .ok b =>
      if b.ordered && tagIndex t.tag == closeIndex then s.placeLocal x b t
      else s.linkArrive port vc (s.placeCore x b (tagIndex t.tag)) t

/-- The settle markers of every launch of a context are in, and they agree with what has been received (R352). -/
def State.settled (s : State) (ctx : Nat) : Bool :=
  (s.launches.filter fun l => l.ctx == ctx && l.n > 1 && l.st == .running).all fun l =>
    (l.nodes.filter fun k => k != s.io.node).all fun k =>
      match l.marks.find k with | some m => (l.recv.find k).getD 0 == m | none => false

/-- The slot that a token packet's block number names: the inbox, or through the slot map of the launch's image (R71, R296). -/
def State.packetSlot (s : State) (l : Launch) (block : Nat) : Option Nat :=
  if block = 0xFFFF then some 0xFFFF
  else match s.images.find l.img with | some i => i.slots[block]? | none => none

/-- A token packet in form (R295, R296, R299). -/
def tokPktOk (p : TokPkt) : Bool := !p.hdrRsv && !p.rsv && p.count == 0 && p.length ≤ 8 && p.vc < 8

/-- The token of a token packet (R178, R289, R296): a release that crosses the link covers nothing here. A port of 4 or more is kept, and
the core answers it with the fault token of R220. -/
def tokPktToken (p : TokPkt) (port ctx slot : Nat) : Tok where
  slot := slot
  port := p.port
  tag := p.tag
  pay := (List.range p.length).map fun i => p.payload.getD i 0
  ctx := ctx
  rel := if p.rel then some .sys else none
  handler := false
  src := 3
  bearing := 0
  core := dieUnit port
  cov := []

/-- TOKEN_PACKET_RECEIVE (R217, R220, R230, R294, R296, R299, R301, R352): a packet that is malformed, or of a launch that this node
does not know, is dropped and counted; a token waits in its slot for a place of the inbox writer (R290). -/
def execTokenPacketReceive (port : Nat) (p : TokPkt) (s : State) : Out :=
  if !(s.mine p.dest false) || !(tokPktOk p) then .next s.dropPkt
  else match s.acceptingLaunch p.coord p.number with
    | none => .next s.dropPkt
    | some l => match s.packetSlot l p.block, s.ctx l.ctx with
      | none, _ => .next s.dropPkt
      | some _, none => .next s.dropPkt
      | some slot, some x =>
        let t := tokPktToken p port l.ctx slot
        if (slot == 0xFFFF && ((x.box.places.length ≥ 64 && (s.divert t).isNone) || s.stays t)) || (((s.link port).used.find p.vc).getD 0) ≥ 64
        then .next s
        else
          let s1 := s.modLaunch p.coord p.number fun m => { m with recv := m.recv.put p.source ((m.recv.find p.source).getD 0 + 1) }
          if s1.stays t then .next (s1.placeLink x port p.vc t)
          else match s1.divert t with
          | some s2 => .next s2
          | none => .next (s1.placeLink x port p.vc t)

/-! ### Remote copies -/

/-- One word of a write packet at its node (R193, R211, R297): the kind of its fault, if it fails. -/
def State.nodeWrite (s : State) (x : Ctx) (va : Nat) (w : Word) : State × Option Nat :=
  if !(va + 4 ≤ 2 ^ 64 && x.allowed false 2 va 4) then (s, some 6)
  else match s.translate x.r.asid va .write none with
    | .fault k => (s, some k)
    | .recipe _ _ => (s, some 3)
    | .ok pa at_ =>
      let s1 := s.touch x.r.asid va .write at_
      let bs := leBytes 4 w.toNat
      if (paHost pa).isSome then (s1.physWrite pa bs, none)
      else (s1.homeWrite x.r.asid (va / 64) (lineData (va % 64) bs) (byteMask (va % 64) 4) none, none)

/-- The lines that a write packet has written whole lose their poison: the packet's bytes of a line are one copied write of it (R322; DEDUCED,
log 61). `bad` are the offsets of the words that failed. -/
def State.packetLines (s : State) (asid addr len : Nat) (bad : List Nat) : State :=
  (List.range (len / 64 + 1)).foldl (fun (t : State) i =>
    let va := (addr / 64 + i) * 64
    if addr ≤ va && va + 64 ≤ addr + len && !(bad.any fun o => va ≤ addr + o && addr + o < va + 64) then t.clearPoison asid (va / 64) none else t) s

/-- A write packet in form (R295, R297). -/
def wrPktOk (p : WrPkt) : Bool :=
  !p.hdrRsv && p.count == (p.bytes.length + 63) / 64 && 4 ≤ p.bytes.length && p.bytes.length ≤ 4096 && p.bytes.length % 4 == 0 && p.addr % 4 == 0

/-- WRITE_PACKET_RECEIVE (R297): every word is checked, translated and written at its home slice; a packet whose every word is performed
is answered by a write ack, and each word that fails by a write fault with its offset in the packet and the number of faults to follow (log
29). -/
def execWritePacketReceive (_port : Nat) (p : WrPkt) (s : State) : Out :=
  if !(s.mine p.dest false) || !(wrPktOk p) then .next s.dropPkt
  else match s.acceptingLaunch p.coord p.number with
    | none => .next s.dropPkt
    | some l => match s.ctx l.ctx with
      | none => .next s.dropPkt
      | some x =>
        let one (acc : State × List (Nat × Nat)) (j : Nat) : State × List (Nat × Nat) :=
          match acc.1.nodeWrite x (p.addr + 4 * j) (BitVec.ofNat 32 (leNat ((p.bytes.drop (4 * j)).take 4))) with
          | (t, some k) => (t, acc.2 ++ [(4 * j, k)])
          | (t, none) => (t, acc.2)
        let n := p.bytes.length / 4
        let r0 := (List.range n).foldl one (s, [])
        let r := (r0.1.packetLines x.r.asid p.addr p.bytes.length (r0.2.map Prod.fst), r0.2)
        let answer (t : State) (e : (Nat × Nat) × Nat) : State :=
          t.sendPkt (mkPkt p.source 1 0 (.fault p.copyId e.1.1 e.1.2 (r.2.length - 1 - e.2)))
        .next (if r.2.isEmpty then r.1.sendPkt (mkPkt p.source 1 0 (.ack p.copyId p.bytes.length)) else r.2.zipIdx.foldl answer r.1)

/-- The stack whose checkpoint packets carry a copy identifier (DESIGN CHOICE, log 28). -/
def chkStack (copyId : Nat) : Option Nat := if 0xFFFFFFF8 ≤ copyId && copyId < 2 ^ 32 then some (copyId - 0xFFFFFFF8) else none

/-- The packets of a copy whose every word is done or bad are answered. -/
def Copy.popAnswered (q : Copy) : Copy :=
  { q with pkts := q.pkts.filter fun e => !((List.range e.2).all fun i => q.done.contains (e.1 + i) || q.bad.any fun b => b.1 == e.1 + i) }

/-- The words that a write ack counts in the oldest packet not wholly answered. -/
def Copy.ack (q : Copy) (bytes : Nat) : Copy :=
  match q.pkts with
  | [] => q
  | (j, n) :: _ =>
    let open_ := ((List.range n).map fun i => j + i).filter fun k => !q.done.contains k && !q.bad.any fun b => b.1 == k
    ({ q with done := q.done ++ open_.take (bytes / 4) } : Copy).popAnswered

/-- The word that a write fault names, by its byte offset in the oldest packet not wholly answered; after the last fault of a packet its
other words are performed (DEDUCED, log 29). -/
def Copy.nack (q : Copy) (off kind more : Nat) : Copy :=
  match q.pkts with
  | [] => q
  | (j, n) :: _ =>
    let k := j + off / 4
    if q.done.contains k || q.bad.any (fun b => b.1 == k) then q
    else
      let q1 : Copy := { q with bad := insertBy Prod.fst (k, kind, q.dst + 4 * k) q.bad }
      if more = 0 then q1.ack (4 * n) else q1

/-- The remote copy of an identifier changed, while it waits for its answers. -/
def State.modRemote (s : State) (id : Nat) (f : Copy → Copy) : State :=
  match s.io.remote.find id with
  | none => s
  | some (core, n) =>
    let g (q : Copy) : Copy := if q.uid % 2 ^ 32 = id && (q.st == .sent || q.st == .replaying) then f q else q
    s.modCore core fun c => { c with copies := c.copies.upd n g }

/-! ### Checkpoint packets (R360) -/

/-- Where the owner tables lie in HBM (R360): in the upper half of the chunk that holds the page tables (DESIGN CHOICE, log 27). -/
def ownerBase : Nat := tableBase + 2 ^ 29
/-- Where the context records lie in HBM (R360): after the owner tables, 4,096 bytes each (DESIGN CHOICE, log 27). -/
def recordBase : Nat := ownerBase + 2 ^ 26

/-- The fields of a context record (R31, R274, R313), with its inbox (R289) and its region map (R258); the layout is DESIGN CHOICE, log 27. -/
def State.ctxRecord (s : State) (n : Nat) (x : Ctx) : List Byte :=
  leBytes 4 x.r.asid ++ leBytes 1 x.r.port ++ leBytes 1 x.r.cls ++ leBytes 1 x.r.weight ++ leBytes 1 x.r.priv ++ leBytes 4 x.r.fpctl.toNat ++
  leBytes 4 x.r.trapen.toNat ++ leBytes 4 x.r.flags.toNat ++ leBytes 4 x.r.mxcnt.toNat ++ leBytes 4 (s.faultq n).toNat ++ leBytes 8 x.root ++
  leBytes 8 x.privSize ++ leBytes 24 ((x.cores.map fun c => 2 ^ c).sum) ++ leBytes 4 (x.onTrap.getD 0xFFFF) ++ leBytes 4 (x.onFault.getD 0xFFFF) ++
  leBytes 8 x.box.base ++ leBytes 1 x.box.k ++ leBytes 7 0 ++ leBytes 4 x.box.head ++ leBytes 4 x.box.tail ++ leBytes 4 x.box.seq ++ leBytes 4 0 ++
  leBytes 8 x.box.backBase ++ leBytes 8 x.box.backSize ++ (List.range 64).flatMap fun i => leBytes 8 ((x.regions.find i).getD 0).toNat

/-- 4,096 bytes of HBM as the checkpoint finds them (R360): the owner tables and the context records stand there, though the model keeps them
as records (log 27). -/
def State.hbmPage (s : State) (pa : Nat) : List Byte :=
  if ownerBase ≤ pa && pa < recordBase then (List.range 512).flatMap fun i => leBytes 8 (s.ownerOf (((pa - ownerBase) / 8 + i) * 2 ^ 16))
  else if recordBase ≤ pa && pa < recordBase + 64 * 4096 then
    let bs := match s.ctx ((pa - recordBase) / 4096) with | some x => s.ctxRecord ((pa - recordBase) / 4096) x | none => []
    bs ++ List.replicate (4096 - bs.length) 0
  else Sparse.getRun s.mem.hbm pa 4096

/-- The bytes that a stack's stream holds from an offset: its HBM, then its poison list. -/
def State.chkBytes (s : State) (c : Chk) (k off : Nat) : List Byte :=
  if off < 2 ^ 36 then s.hbmPage (k * 2 ^ 36 + off)
  else (((c.lists.getD k []).flatMap fun a => leBytes 8 a).drop (off - 2 ^ 36)).take 4096

/-- The next write packet of a stack on its named port, where bytes are left: each follows the ack of the one before. Once that port is
down, the packets go as those do that it had not sent: by another port of the route mask (R294). -/
def State.chkSend (s : State) (c : Chk) (k : Nat) : State :=
  let off := c.acks.getD k 0
  match s.chkBytes c k off with
  | [] => s
  | bs =>
    let q := mkPkt (c.nodes.getD k 0) 2 0 (.write (c.dest + k * 2 ^ 36 + off) 0 0 (0xFFFFFFF8 + k) bs)
    if (s.link (c.ports.getD k 0)).up then s.sendVia (c.ports.getD k 0) q else s.sendPkt q

/-- WRITE_ACK_RECEIVE (R297, R299, R360): words performed at the remote node, whichever port the ack came by. -/
def execWriteAckReceive (_port : Nat) (p : AckPkt) (s : State) : Out :=
  if !(s.mine p.dest p.rsv) then .next s.dropPkt
  else match chkStack p.copyId, s.chk with
  | some k, some c =>
    let c1 : Chk := { c with acks := c.acks.set k (c.acks.getD k 0 + p.bytes) }
    .next (({ s with chk := some c1 } : State).chkSend c1 k)
  | _, _ => .next (s.modRemote p.copyId fun q => q.ack p.bytes)

/-- WRITE_FAULT_RECEIVE (R297, R299, R360): a word that failed at the remote node, with how many faults of its packet follow (log 29),
whichever port the fault came by. -/
def execWriteFaultReceive (_port : Nat) (p : FaultPkt) (more : Nat) (s : State) : Out :=
  if !(s.mine p.dest p.rsv) then .next s.dropPkt
  else match chkStack p.copyId, s.chk with
  | some k, some c => .next { s with chk := some { c with failed := some (c.failed.getD k) } }
  | _, _ => .next (s.modRemote p.copyId fun q => q.nack p.off p.kind more)

end Sys2Proof.Machine
end

