-- ==== Sys2Proof/Machine/Mailbox.lean ====
section
/-! DEFINITION. The command mailbox (R291 to R293), and CREATE, REGION, GRANT, MAP and PARTITION (R216, R255, R258 to R260,
R267, R273, R279, R284, R307). -/

namespace Sys2Proof.Machine

/-! ### The mailbox -/

namespace MCode
/-- The status codes of R292. -/
def done : Nat := 0
/-- Busy. -/
def busy : Nat := 1
/-- Not owned. -/
def notOwned : Nat := 2
/-- Format. -/
def format : Nat := 3
/-- No resource. -/
def noResource : Nat := 4
/-- Refused. -/
def refused : Nat := 5
/-- Pool empty. -/
def poolEmpty : Nat := 6
/-- Node refused. -/
def nodeRefused : Nat := 7
/-- Timeout. -/
def timeout : Nat := 8
end MCode

/-- A mailbox. -/
def State.mbox (s : State) (port : Nat) : Mbox := s.io.mbox.getD port Mbox.reset
/-- A mailbox replaced. -/
def State.setMbox (s : State) (port : Nat) (m : Mbox) : State := { s with io := { s.io with mbox := s.io.mbox.set port m } }

/-- A field of ARGS (R293). -/
def argNat (c : Cmd) (off n : Nat) : Nat := leNat (Sparse.getRun c.args off n)

/-- Bytes of ARGS that a command does not list are zero (R293). -/
def argsZero (c : Cmd) (listed : List (Nat × Nat)) : Bool :=
  c.args.all fun e => e.2 == 0 || listed.any fun r => r.1 ≤ e.1 && e.1 < r.1 + r.2

/-- A command ends (R291): results over ARGS, STATUS with busy clear and the tag, and vector 0. -/
def State.mboxEnd (s : State) (port status : Nat) (results : List Byte) : State :=
  let m := s.mbox port
  let s1 := s.setMbox port { m with args := Sparse.setRun 0 results m.args,
                                    status := BitVec.ofNat 32 (m.cmd / 2 ^ 16 * 2 ^ 16 + status) }
  { s1 with io := { s1.io with msix := s1.io.msix ++ [(port, 0)] } }

/-- A command accepted: CMD, CTX and ARGS as written, and busy (R291). -/
def State.mboxStart (s : State) (code : Nat) (c : Cmd) : State :=
  let m := s.mbox c.port
  s.setMbox c.port { m with cmd := code + c.tag % 2 ^ 16 * 2 ^ 16, ctx := c.ctx, args := c.args, status := m.status ||| 0x8000 }

/-- A CMD write (R291): ignored while busy; reserved bytes that are not zero give status 3 (R293). -/
def command (s : State) (code : Nat) (c : Cmd) (listed : List (Nat × Nat)) (f : State → State) : Out :=
  if c.port ≥ 2 || (s.mbox c.port).status.getLsbD 15 then .next s
  else
    let s1 := s.mboxStart code c
    if argsZero c listed then .next (f s1) else .next (s1.mboxEnd c.port MCode.format [])

/-- A CMD write that names a context: one of the other port, or none, gives status 2 (R283, R292). -/
def ctxCommand (s : State) (code : Nat) (c : Cmd) (listed : List (Nat × Nat)) (f : State → Ctx → State) : Out :=
  if c.port ≥ 2 || (s.mbox c.port).status.getLsbD 15 then .next s
  else match s.ctx c.ctx with
    | none => .next ((s.mboxStart code c).mboxEnd c.port MCode.notOwned [])
    | some x =>
      if x.r.port != c.port then .next ((s.mboxStart code c).mboxEnd c.port MCode.notOwned [])
      else command s code c listed fun t => f t x

/-- MAILBOX_UNKNOWN_COMMAND (R292): a CMD write with a code that is none of 0x01 to 0x0E; the writes of those are events of their own. -/
def execMailboxUnknownCommand (code : Nat) (c : Cmd) (s : State) : Out :=
  if 1 ≤ code % 256 && code % 256 ≤ 14 then .next s
  else command s (code % 256) c [(0, 240)] fun t => t.mboxEnd c.port MCode.format []

/-! ### Firmware pages -/

/-- A page of 2 MiB that the firmware maps for a context, with W = 1, EV = 0 and SH = 0 (R273, R307). -/
def State.fwMap (s : State) (root va page : Nat) : State :=
  let q : PageReq := { va, pa := page * 2 ^ 21, attr := 9 }
  ((framesOf q.pa q.size).zipIdx.foldl (fun (t : State) f => t.ownMap true (va + f.2 * 2 ^ 16) f.1) s).writeLeaf root q

/-- The address of a core's trap-area slot (R307). -/
def trapSlot (core : Nat) : Nat := trapArea + core * 0x200000
/-- The first address of the private pool: the private window's (DESIGN CHOICE, log 31). -/
def privBase : Nat := 0xF00000000000

/-! ### CREATE -/

/-- The cores of a core list of 24 bytes, ascending (R293). -/
def coreList (c : Cmd) (off : Nat) : List Nat := bitsOf (argNat c off 24) 192

/-- CREATE's arguments are in form (R293), with the inbox and the backing area in the port's window (R286, R289): the status of one
that is not is DESIGN CHOICE (log 73). -/
def createOk (s : State) (c : Cmd) : Bool :=
  s.inWindow c.port (argNat c 0x28 8) (2 ^ argNat c 0x30 1 * 64) && s.inWindow c.port (argNat c 0x38 8) (argNat c 0x40 8) &&
  argNat c 0 1 < 4 && 1 ≤ argNat c 1 1 && argNat c 1 1 ≤ 15 && argNat c 2 1 < 8 && argNat c 12 4 != 0 && argNat c 16 24 != 0 &&
  argNat c 0x28 8 % 4096 == 0 && 8 ≤ argNat c 0x30 1 && argNat c 0x30 1 ≤ 20 && argNat c 0x38 8 % 65536 == 0 &&
  argNat c 0x40 8 % 65536 == 0

/-- A core belongs to a port's domain (R284). -/
def State.ownCore (s : State) (port core : Nat) : Bool := s.part.cores.getD core 0 == port + 1

/-- A context's record at its creation (R31, R216, R232, R274, R275, R289, R349). -/
def newCtx (c : Cmd) (asid root : Nat) : Ctx where
  r := { asid, port := c.port, cls := argNat c 0 1, weight := argNat c 1 1, priv := argNat c 2 1,
         fpctl := BitVec.ofNat 32 (argNat c 4 4) &&& 7, trapen := BitVec.ofNat 32 (argNat c 8 4) &&& BitVec.ofNat 32 trapClasses,
         flags := 0, mxcnt := 0 }
  cores := coreList c 16
  st := .running
  box := { base := argNat c 0x28 8, k := argNat c 0x30 1, head := 0, tail := 0, seq := 0, places := [], backBase := argNat c 0x38 8,
           backSize := argNat c 0x40 8, backUsed := [] }
  privSize := argNat c 12 4 * 2 ^ 21
  root := root
  regions := []
  onTrap := none
  onFault := none
  pools := []
  returns := []
  recipes := []
  cut := none
  arrivals := []
  save := none
  tear := { packs := 0, trapped := 0, entries := 0, tokens := 0, late := 0, copies := 0, records := 0, releases := 0,
            spawns := 0, written := 0, dropped := 0, recipes := 0 }
  restore := []

/-- CREATE (R255, R273, R292, R293, R307, R328): the lowest free number and ASID (log 30), the private pool, the trap-area slots of its
cores, and a page for its recipe table. -/
def createCtx (s : State) (c : Cmd) : State :=
  let cores := coreList c 16
  let pool := argNat c 12 4
  let mine := (s.ctxs.filter fun e => e.2.r.port == c.port).length
  let limit := match s.part.dom[c.port]? with | some d => if d.enabled then d.limit else 0 | none => 0
  if !createOk s c then s.mboxEnd c.port MCode.format []
  else if !(cores.all fun k => s.ownCore c.port k) then s.mboxEnd c.port MCode.notOwned []
  else
    let asid := (List.range 4096).find? fun a => a != 0 && !(s.ctxs.any fun e => e.2.r.asid == a)
    let pages := s.fwPages (pool + cores.length + 1)
    match s.ctxs.free 64, asid with
    | some n, some a =>
      if mine ≥ limit || pages.length ≤ pool + cores.length then s.mboxEnd c.port MCode.noResource []
      else
        let t := s.takeTable
        let table := pages.drop (pool + cores.length)
        let s1 := ({ t.1 with ctxs := t.1.ctxs.put n { newCtx c a t.2 with recPages := table } } : State).keepPages table
        let vas := ((List.range pool).map fun i => privBase + i * 2 ^ 21) ++ cores.map trapSlot
        let s2 := (vas.zip pages).foldl (fun (u : State) e => u.fwMap t.2 e.1 e.2) s1
        s2.mboxEnd c.port MCode.done (leBytes 4 n ++ leBytes 4 a)
    | _, _ => s.mboxEnd c.port MCode.noResource []

/-- CREATE (R293). -/
def execCreate (c : Cmd) (s : State) : Out :=
  command s 1 c [(0, 3), (4, 12), (0x10, 0x18), (0x28, 9), (0x38, 16)] fun t => createCtx t c

/-! ### REGION and GRANT -/

/-- An entry of the region map that R258 admits: reserved bits zero, BASE a multiple of the size, and no byte at or above the
private window. -/
def regionOk (e : Nat) : Bool :=
  let size := 2 ^ (fld e 9 5 + 16)
  let base := fld e 47 16 * 2 ^ 16
  fld e 63 48 == 0 && fld e 15 10 == 0 && fld e 4 4 == 0 && base % size == 0 && base + size ≤ 0xF00000000000

/-- REGION (R258, R260): the entry is written in the record, which every core's copy holds. The copies change together,
in the step that ends the command, where R260 lets cores differ while it runs: DESIGN CHOICE (log 75). -/
def execRegion (c : Cmd) (s : State) : Out :=
  ctxCommand s 3 c [(0, 1), (8, 8)] fun t _ =>
    let n := argNat c 0 1
    let e := argNat c 8 8
    if n ≥ 64 || !regionOk e then t.mboxEnd c.port MCode.format []
    else (t.modCtx c.ctx fun x => { x with regions := x.regions.put n (BitVec.ofNat 64 e) }).mboxEnd c.port MCode.done []

/-- The status of GRANT for one frame (R293). -/
def State.grantCheck (s : State) (port pa : Nat) : Nat :=
  if s.chunk pa != port + 1 then MCode.notOwned
  else if ownState (s.ownerOf pa) != 0 || ownGrant (s.ownerOf pa) != 0 then MCode.refused else MCode.done

/-- GRANT (R267, R285, R293): all frames of the range, or none. -/
def execGrant (c : Cmd) (s : State) : Out :=
  ctxCommand s 4 c [(0, 12)] fun t x =>
    let pa := argNat c 0 8
    let n := argNat c 8 4
    if pa % 65536 != 0 || n = 0 || pa + n * 65536 > 2 ^ 39 then t.mboxEnd c.port MCode.format []
    else
      let fs := (List.range n).map fun i => pa + i * 65536
      match (fs.map fun f => t.grantCheck c.port f).find? (· != 0) with
      | some e => t.mboxEnd c.port e []
      | none => (fs.foldl (fun (u : State) f => u.setOwner f (mkOwner 0 x.r.asid 0 0)) t).mboxEnd c.port MCode.done []

/-! ### MAP -/

/-- The pages of a command from one on, until one stops it: the status word (R278, R279). -/
def State.mapPages (op : HOp) (o : PageOwner) (b : HBlock) : Nat → Nat → State → State × Nat
  | 0, j, s => (s, hStatus j 0)
  | n + 1, j, s =>
    let q := s.pageOp op o (b.page j)
    if q.2 != 0 then (q.1, hStatus j q.2) else State.mapPages op o b n (j + 1) q.1

/-- The operation of an HCMD code in ARGS (R279, R293). -/
def mapOp : Nat → Option HOp
  | 1 => some .map
  | 2 => some .unmap
  | 3 => some .protect
  | 4 => some .query
  | 5 => some (.tcflush 0)
  | _ => none

/-- MAP (R279, R292, R293): the context runs (R349), and the HCMD code in ARGS says what it does; the status word stands at 0 and a query's leaf
at 8. A code that is none of HCMD's gives status 3 (DEDUCED, log 46). -/
def mapCommand (c : Cmd) (s : State) : Out :=
  ctxCommand s 5 c ([(0, 1), (4, 36)] ++ if argNat c 0 1 = 5 then [(1, 1)] else []) fun t x =>
    let o : PageOwner := { ctx := c.ctx, asid := x.r.asid, root := x.root, fw := true }
    let b := HBlock.ofNat (argNat c 8 32)
    if x.st != .running then t.mboxEnd c.port MCode.refused []
    else match mapOp (argNat c 0 1) with
      | none => t.mboxEnd c.port MCode.format []
      | some (.tcflush _) =>
        if b.clean then (t.tcFlush x.r.asid (argNat c 1 1)).mboxEnd c.port MCode.done (leBytes 4 0)
        else t.mboxEnd c.port MCode.done (leBytes 4 HCode.format)
      | some .query => match t.pageQuery o (b.page 0) with
        | .error e => t.mboxEnd c.port MCode.done (leBytes 4 e)
        | .ok (v, n) => t.mboxEnd c.port MCode.done (leBytes 4 (hStatus n 0) ++ leBytes 4 (argNat c 4 4) ++ leBytes 8 v)
      | some op =>
        let q := State.mapPages op o b (argNat c 4 4) 0 t
        q.1.mboxEnd c.port MCode.done (leBytes 4 q.2)

/-- MAP, with code .map in ARGS (R279, R292). -/
def execMap (c : Cmd) (s : State) : Out := mapCommand c s
/-- MAP, with code .unmap in ARGS (R279, R292). -/
def execMapUnmap (c : Cmd) (s : State) : Out := mapCommand c s
/-- MAP, with code .protect in ARGS (R279, R292). -/
def execMapProtect (c : Cmd) (s : State) : Out := mapCommand c s
/-- MAP, with code .query in ARGS (R279, R292). -/
def execMapQuery (c : Cmd) (s : State) : Out := mapCommand c s
/-- MAP, with code .tcflush in ARGS (R279, R292). -/
def execMapTcflush (c : Cmd) (s : State) : Out := mapCommand c s

/-! ### PARTITION -/

/-- A domain entry of a table image (R284). -/
def domainOf (bs : List Byte) (at_ : Nat) : Domain :=
  let u (o n : Nat) : Nat := leNat ((bs.drop (at_ + o)).take n)
  { enabled := u 0 1 % 2 == 1, limit := u 1 1, base := u 8 8, size := u 16 8 }

/-- A domain entry in form (R284): status 3 for a reserved bit or byte that is not zero, here and in the codes, is DESIGN CHOICE (log
65). -/
def domainOk (bs : List Byte) (at_ : Nat) : Bool :=
  let u (o n : Nat) : Nat := leNat ((bs.drop (at_ + o)).take n)
  u 0 1 < 2 && u 1 1 ≤ 64 && u 2 6 == 0 && u 8 8 % 4096 == 0 && u 16 8 % 4096 == 0 && u 24 8 == 0

/-- The codes of a table image from a place on. -/
def codesOf (bs : List Byte) (at_ n : Nat) : List Nat := ((bs.drop at_).take n).map fun b => b.toNat

/-- A context is resident in a domain. -/
def State.resident (s : State) (port : Nat) : Bool := s.ctxs.any fun e => e.2.r.port == port

/-- The assignment of a domain differs between two tables: its entry, its cores or its chunks. -/
def Part.changes (a b : Part) (port : Nat) : Bool :=
  let sel (l : List Nat) : List Bool := l.map fun v => v == port + 1
  a.dom[port]? != b.dom[port]? || sel a.cores != sel b.cores || sel a.chunks != sel b.chunks

/-- The chunks that hold what the firmware keeps are coded 3 in a table (R284): its tables, and every page that it has given out. -/
def State.keepsFw (s : State) (chunks : List Nat) : Bool :=
  let owned : List Nat := s.mem.owner.map fun e => e.1 / 2 ^ 14
  (448 :: s.part.kept.map (· / 512) ++ s.part.small.map (· / 2 ^ 14) ++ owned).all fun g => s.part.chunks.getD g 0 != 3 || chunks.getD g 0 == 3

/-- PARTITION (R284, R292): port 0 only; refused while a context is resident in a domain whose assignment changes. -/
def partitionCmd (s : State) (c : Cmd) : State :=
  let bs := s.hostRead 0 (argNat c 0 8) 768
  let new : Part := { s.part with dom := [domainOf bs 0, domainOf bs 32], cores := codesOf bs 64 192, chunks := codesOf bs 256 512 }
  if c.port != 0 then s.mboxEnd c.port MCode.notOwned []
  else if argNat c 0 8 + 768 > s.winSize 0 || !(domainOk bs 0 && domainOk bs 32) || (new.dom.map fun d => d.limit).sum > 64 ||
      !(new.cores.all fun v => v < 4) || !(new.chunks.all fun v => v < 4) || !(s.keepsFw new.chunks) then s.mboxEnd c.port MCode.format []
  else if [0, 1].any fun p => s.part.changes new p && s.resident p then s.mboxEnd c.port MCode.refused []
  else ({ s with part := new } : State).mboxEnd c.port MCode.done []

/-- PARTITION (R284). -/
def execPartition (c : Cmd) (s : State) : Out := command s 14 c [(0, 8)] fun t => partitionCmd t c

end Sys2Proof.Machine
end

