-- ==== Sys2Proof/Machine/Loader.lean ====
section
/-! DEFINITION. LOAD and UNLOAD: the form of a graph image, the loader's checks in their order, and binding (R20, R28, R44, R68 to
R72, R234, R240, R241, R259, R293, R311, R333, R348). -/

namespace Sys2Proof.Machine

/-- A number of an image at a byte offset. -/
def imgNat (bs : List Byte) (off n : Nat) : Nat := leNat ((bs.drop off).take n)

/-- A refusal of the loader (R293): the reason, the block and the instruction index or byte offset. -/
structure LoadErr where
  reason : Nat
  block  : Nat
  index  : Nat
deriving DecidableEq, Repr

/-- The value that names no block and no place (R293). -/
def noPlace : Nat := 0xFFFFFFFF

/-- A block of an image (R69, R70): its attributes, its placement, its name and its words. -/
structure ImgBlock where
  ports   : Nat
  ordered : Bool
  frame   : Nat
  priv    : Nat
  tiles   : Nat
  leash   : Nat
  first   : Nat
  count   : Nat
  mask    : Nat
  name    : List Nat
  code    : List Nat
deriving DecidableEq, Repr

/-- A data section (R70). -/
structure ImgData where
  off   : Nat
  va    : Nat
  bytes : List Byte
deriving DecidableEq, Repr

/-! ### The parts of an image -/

namespace Img
/-- Block count (R68). -/
def blocks (b : List Byte) : Nat := imgNat b 8 2
/-- Launch count (R68). -/
def launches (b : List Byte) : Nat := imgNat b 0xA 2
/-- The six widths (R68). -/
def widths (b : List Byte) : List Nat := (List.range 6).map fun i => imgNat b (0xC + i) 1
/-- The purity flag (R68). -/
def pure (b : List Byte) : Bool := imgNat b 6 2 % 2 == 1
/-- Code offset (R68). -/
def codeOff (b : List Byte) : Nat := imgNat b 0x14 4
/-- Code words (R68). -/
def codeWords (b : List Byte) : Nat := imgNat b 0x18 4
/-- Placement offset (R68). -/
def placeOff (b : List Byte) : Nat := imgNat b 0x1C 4
/-- Placement count (R68). -/
def places (b : List Byte) : Nat := imgNat b 0x20 4
/-- Constant offset (R68). -/
def constOff (b : List Byte) : Nat := imgNat b 0x24 4
/-- Constant bytes (R68). -/
def constLen (b : List Byte) : Nat := imgNat b 0x28 4
/-- Data offset (R68). -/
def dataOff (b : List Byte) : Nat := imgNat b 0x2C 4
/-- Data section count (R68). -/
def datas (b : List Byte) : Nat := imgNat b 0x30 4
/-- Launch offset (R68). -/
def launchOff (b : List Byte) : Nat := imgNat b 0x34 4
/-- String offset (R68). -/
def strOff (b : List Byte) : Nat := imgNat b 0x38 4
end Img

/-- A block's name: its bytes up to the zero, without case (R62, R68, R311). A name with no zero byte before the end of the image ends with
the image: DESIGN CHOICE (log 75). -/
def imgName (b : List Byte) (off : Nat) : List Nat :=
  ((b.drop (Img.strOff b + off)).takeWhile fun c => c != 0).map fun c =>
    let n := c.toNat
    if 65 ≤ n && n ≤ 90 then n + 32 else n

/-- The i-th block of an image (R69, R70). -/
def imgBlock (b : List Byte) (i : Nat) : ImgBlock :=
  let e := 0x40 + 32 * i
  let p := Img.placeOff b + 16 * imgNat b (e + 0x10) 2
  let start := imgNat b e 4
  { ports := imgNat b (e + 6) 1, ordered := imgNat b (e + 7) 1 % 2 == 1, frame := imgNat b (e + 8) 2, priv := imgNat b (e + 0xA) 2,
    tiles := imgNat b (e + 0xC) 1, leash := imgNat b (e + 0xE) 2, first := imgNat b p 1, count := imgNat b (p + 1) 1 + 1,
    mask := imgNat b (p + 2) 1, name := imgName b (imgNat b (e + 0x14) 4),
    code := (List.range (imgNat b (e + 4) 2)).map fun j => imgNat b (Img.codeOff b + 4 * (start + j)) 4 }

/-- The data sections (R70). -/
def imgDatas (b : List Byte) : List ImgData :=
  ((List.range (Img.datas b)).foldl (fun (a : Nat × List ImgData) _ =>
    let n := imgNat b (a.1 + 8) 4
    (a.1 + 16 + (n + 3) / 4 * 4, a.2 ++ [{ off := a.1, va := imgNat b a.1 8, bytes := (b.drop (a.1 + 16)).take n }]))
    (Img.dataOff b, [])).2

/-- The launch entries (R70). -/
def imgLaunches (b : List Byte) : List LaunchEnt :=
  (List.range (Img.launches b)).map fun i =>
    let e := Img.launchOff b + 64 * i
    { block := imgNat b e 2, port := imgNat b (e + 2) 1, first := imgNat b (e + 4) 8, count := imgNat b (e + 12) 8,
      pay := (List.range (imgNat b (e + 3) 1)).map fun j => BitVec.ofNat 32 (imgNat b (e + 20 + 4 * j) 4) }

/-! ### Checks 3 and 4: the header and the fields -/

/-- The first failing place of a list of conditions with their byte offsets. -/
def firstBad (block : Nat) (cs : List (Bool × Nat)) : Option (Nat × Nat) := (cs.find? fun c => !c.1).map fun c => (block, c.2)

/-- Check 3 (R72): the magic, the version and the CRC. -/
def headBad (b : List Byte) : Option (Nat × Nat) :=
  firstBad noPlace
    [(b.length ≥ 64 && imgNat b 0 4 == 0x49473445, 0), (imgNat b 4 2 == 1, 4),
     (imgNat b 0x3C 4 == crc32c (b.take 0x3C ++ List.replicate 4 0 ++ b.drop 0x40), 0x3C)]

/-- The limits of the header and of its sections (R68, R70). A number of code words that is not the blocks' total is no failure as long
as it covers each block and lies in the image (DESIGN CHOICE, log 66). -/
def headerLimits (b : List Byte) : List (Bool × Nat) :=
  let w := Img.widths b
  let n := b.length
  [(imgNat b 6 2 < 2, 6), (1 ≤ Img.blocks b && Img.blocks b ≤ 65535 && 0x40 + 32 * Img.blocks b ≤ n, 8), (Img.launches b ≤ 16, 0xA),
   (w.all (· ≤ 48) && w.sum ≤ 48, 0xC), (imgNat b 0x12 2 == 0, 0x12), (Img.codeOff b % 4 == 0, 0x14),
   (Img.codeOff b + 4 * Img.codeWords b ≤ n, 0x18), (Img.placeOff b ≤ n, 0x1C), (Img.placeOff b + 16 * Img.places b ≤ n, 0x20),
   (Img.constOff b % 64 == 0, 0x24), (Img.constLen b ≤ 262144 && Img.constOff b + Img.constLen b ≤ n, 0x28),
   (Img.dataOff b ≤ n, 0x2C), (Img.dataOff b + 16 * Img.datas b ≤ n, 0x30), (Img.launchOff b + 64 * Img.launches b ≤ n, 0x34),
   (Img.strOff b ≤ n, 0x38)]

/-- The limits of a placement entry (R67, R70). -/
def placeLimits (b : List Byte) (p : Nat) : List (Bool × Nat) :=
  let first := imgNat b p 1
  let count := imgNat b (p + 1) 1 + 1
  let mask := imgNat b (p + 2) 1
  [(first ≤ 191, p), (count ≤ 192 && first + count ≤ 192, p + 1), (mask < 64 && (mask != 0 || count == 1), p + 2),
   (imgNat b (p + 3) 13 == 0, p + 3)]

/-- The limits of a block entry (R67, R69), with its placement entry. -/
def blockLimits (b : List Byte) (i : Nat) : List (Bool × Nat) :=
  let e := 0x40 + 32 * i
  let p := Img.placeOff b + 16 * imgNat b (e + 0x10) 2
  let k := imgBlock b i
  let len := imgNat b (e + 4) 2
  let own : List (Bool × Nat) := [(imgNat b e 4 + len ≤ Img.codeWords b, e), (1 ≤ len && len ≤ 256, e + 4), (1 ≤ k.ports && k.ports ≤ 4, e + 6),
     (imgNat b (e + 7) 1 < 2, e + 7), (k.frame % 4 == 0 && 32 * k.ports ≤ k.frame && k.frame ≤ 16384, e + 8), (k.priv ≤ 4096, e + 0xA),
     (k.tiles ≤ 16, e + 0xC), (imgNat b (e + 0xD) 1 == 0, e + 0xD),
     (k.leash == 0 || (!k.ordered && 16 ≤ k.leash), e + 0xE), (imgNat b (e + 0x10) 2 < Img.places b, e + 0x10), (imgNat b (e + 0x12) 2 == 0, e + 0x12),
     (Img.strOff b + imgNat b (e + 0x14) 4 < b.length, e + 0x14), (imgNat b (e + 0x18) 8 == 0, e + 0x18)]
  own ++ placeLimits b p

/-- The limits of every placement entry, whether a block names it or not, of a launch entry and of a data section (R67, R70). -/
def otherLimits (b : List Byte) : List (Bool × Nat) :=
  let total := (Img.widths b).sum
  let la (i : Nat) : List (Bool × Nat) :=
    let e := Img.launchOff b + 64 * i
    [(imgNat b (e + 2) 1 < 4, e + 2), (imgNat b (e + 3) 1 ≤ 8, e + 3),
     (1 ≤ imgNat b (e + 12) 8 && imgNat b (e + 4) 8 + imgNat b (e + 12) 8 ≤ 2 ^ total, e + 12), (imgNat b (e + 52) 12 == 0, e + 52)]
  let da (d : ImgData) : List (Bool × Nat) :=
    [(d.va % 64 == 0, d.off), (d.off + 16 + imgNat b (d.off + 8) 4 ≤ b.length, d.off + 8), (imgNat b (d.off + 12) 4 == 0, d.off + 12)]
  ((List.range (Img.places b)).flatMap fun i => placeLimits b (Img.placeOff b + 16 * i)) ++
  (List.range (Img.launches b)).flatMap la ++ (imgDatas b).flatMap da

/-- Check 4 (R72): the header's fields by offset, the blocks in their order, then placement entries, launch entries and data sections. The
spec orders the blocks only (DESIGN CHOICE, log 66). -/
def limitsBad (b : List Byte) : Option (Nat × Nat) :=
  match firstBad noPlace (headerLimits b) with
  | some e => some e
  | none => match (List.range (Img.blocks b)).findSome? fun i => firstBad i (blockLimits b i) with
    | some e => some e
    | none => firstBad noPlace (otherLimits b)

/-! ### Checks 5 to 8: the instructions -/

/-- The instructions of a block with their indices, as far as words decode (R44); the index of a word that does not. -/
def decodeBlock : Nat → Nat → List Nat → List (Nat × Instr) × Option Nat
  | 0, _, _ => ([], none)
  | _, _, [] => ([], none)
  | n + 1, i, w :: t =>
    match decodeWords w t.head? with
    | .error _ => ([], some i)
    | .ok x =>
      let len := opWords (majorOp w)
      let r := decodeBlock n (i + len) (t.drop (len - 1))
      ((i, x) :: r.1, r.2)

/-- The instructions of a block. -/
def ImgBlock.instrs (k : ImgBlock) : List (Nat × Instr) := (decodeBlock 256 0 k.code).1

/-- Check 5 for a block (R43, R44): the index of its first failing word. -/
def codeBad (k : ImgBlock) : Option Nat :=
  let r := decodeBlock 256 0 k.code
  let bad (e : Nat × Instr) : Bool :=
    (match e.2 with | .unassignedOpcode _ => true | _ => false) || (limited e.2).any (fun m => k.tiles ≤ m) ||
    (e.2 == .endBlock && e.1 + 1 != k.code.length)
  match (r.1.find? bad).map Prod.fst, r.2 with
  | some i, some j => some (min i j)
  | some i, none => some i
  | none, some j => some j
  | none, none => match r.1.getLast? with
    | some e => if e.2 = .endBlock then none else some e.1
    | none => some 0

/-- The lane and uniform registers that an instruction writes. -/
def writes : Instr → List BOp
  | .add _ t d _ _ | .sub _ t d _ _ | .mul _ t d _ _ => vOf t.wide d
  | .addImm d _ _ | .mulImm d _ _ | .andImm d _ _ | .orImm d _ _ | .xorImm d _ _ => [.v d]
  | .mulh t d _ _ | .mad t d _ _ | .min t d _ _ | .max t d _ _ => vOf t.wide d
  | .divi w d _ _ | .divn w d _ _ | .remi w d _ _ | .remn w d _ _ => vOf w d
  | .abs w d _ | .neg w d _ | .not w d _ | .clz w d _ | .popc w d _ | .brev w d _ => vOf w d
  | .and w d _ _ | .or w d _ _ | .xor w d _ _ | .andn w d _ _ => vOf w d
  | .shl w d _ _ | .shr w d _ _ | .shra w d _ _ | .rotl w d _ _ => vOf w d
  | .shlImm w d _ _ | .shrImm w d _ _ | .shraImm w d _ _ | .rotlImm w d _ _ => vOf w d
  | .bfx _ d _ _ _ | .bfi d _ _ _ => [.v d]
  | .mov w d _ => vOf w d
  | .movsLane d _ _ | .movsUniform d _ => [.s d]
  | .moviV d _ | .movhiV d _ | .sel d _ _ _ => [.v d]
  | .moviS d _ | .movhiS d _ => [.s d]
  | .moviImm32 u d _ => [if u then .s d else .v d]
  | .kop op d _ _ => if op = .tos then [.s d] else []
  | .fadd _ d _ _ | .fsub _ d _ _ | .fmul _ d _ _ | .fscale _ d _ _ | .ffma _ d _ _ | .fmin d _ _ | .fmax d _ _ => [.v d]
  | .fabs d _ | .fneg d _ | .fclass d _ | .frnd _ d _ => [.v d]
  | .hadd2 _ _ d _ _ | .hmul2 _ _ d _ _ | .hfma2 _ _ d _ _ => [.v d]
  | .cvt dst _ _ d _ => vOf dst.wide d
  | .frcp d _ | .frsq d _ | .fsqrt d _ | .fexp2 d _ | .flog2 d _ | .fsin d _ | .fcos d _ | .ftanh d _ | .fsigm d _ => [.v d]
  | .lmv _ _ d _ rows _ _ => vRun d rows
  | .reduce _ _ d _ | .vote _ d _ | .nln d => [.s d]
  | .scan _ _ _ d _ | .shfl _ d _ _ | .confl d _ | .lane d => [.v d]
  | .bfence d => [.s d]
  | .ld sz _ d _ _ | .ldc sz _ d _ _ => vOf (sz == .d) d
  | .lds sz _ d _ _ => pairOf (sz == .d) (.s d)
  | .ldf _ _ d _ _ | .ldp _ _ d _ _ | .atomf _ d _ _ => [.v d]
  | .atom _ t _ _ d _ _ => vOf t.wide d
  | .fatom _ _ _ d _ _ => [.v d]
  | .idxF d _ => [.v d]
  | .tagc d | .mktag d _ | .mktagColour d _ _ => vOf true d
  | .clock d => sPair d
  | .movcRead d _ => [.s d]
  | .rebind a _ | .rdrop a | .rfree a | .rpin _ a => [.s a]
  | .rseal _ a _ _ _ => [.s a]
  | .tresume d | .tskip d | .tkill d | .replay d | .faultrd d _ _ | .rstat d _ => [.s d]
  | .hcmdMap d _ _ | .hcmdUnmap d _ _ | .hcmdProtect d _ _ | .hcmdQuery d _ _ | .hcmdTcflush d _ _ _ => [.s d]
  | _ => []

/-- The registers that receive a deferred result (R20, R101, R306). -/
def defers (i : Instr) : List BOp :=
  match i with
  | .ld .. | .lds .. | .ldp .. | .atom .. | .fatom .. | .frcp .. | .frsq .. | .fsqrt .. | .fexp2 .. | .flog2 .. | .fsin ..
  | .fcos .. | .ftanh .. | .fsigm .. => (writes i).filter fun b => b != .s 0
  | _ => []

/-- Check 6 for a block (R20): the index of the first instruction that meets a pending register. -/
def wBad (code : List Nat) : List (Nat × Instr) → List BOp → Option Nat
  | [], _ => none
  | (i, x) :: t, pend =>
    let now := if (code.getD i 0).testBit 31 then [] else pend
    if (reads x ++ writes x).any fun b => now.contains b then some i else wBad code t (now ++ defers x)

/-- The image-local block numbers that an instruction names (R71). -/
def names : Instr → List Nat
  | .send _ _ _ _ _ _ b => [b]
  | .spawn _ _ _ _ _ _ e r => [e, r]
  | .cpy .t _ _ _ _ _ _ _ _ _ => []
  | .cpy _ _ _ _ _ _ _ _ _ b => [b]
  | .rseal _ _ _ e _ => [e]
  | _ => []

/-- Check 8 (R240, R241): a fixed target whose port is too high, an ordered self-send under the own tag, a spawn into the inbox. -/
def targetBad (ks : List ImgBlock) (own : Nat) (i : Instr) : Bool :=
  let high (b port : Nat) : Bool := match ks[b]? with | some k => port ≥ k.ports | none => false
  match i with
  | .send tag _ _ _ _ port b => high b port || (b == own && tag == .self && (match ks[b]? with | some k => k.ordered | none => false))
  | .spawn _ _ _ ep _ rp e r => e == 0xFFFF || high e ep || high r rp
  | _ => false

/-! ### Check 10: purity (R333) -/

/-- The blocks that a recipe block names as a SEND target or a CPY completion target. -/
def ImgBlock.targets (k : ImgBlock) : List Nat :=
  k.instrs.flatMap fun e => match e.2 with
    | .send .. | .cpy .. => names e.2
    | _ => []

/-- The recipe blocks: those that an RSEAL names, closed under targets. -/
def recipeSet (ks : List ImgBlock) : List Nat :=
  let seeds := ks.flatMap fun k => k.instrs.flatMap fun e => match e.2 with | .rseal _ _ _ n _ => [n] | _ => []
  let grow (a : List Nat) : List Nat :=
    (a.flatMap fun b => match ks[b]? with | some k => k.targets | none => []).foldl (fun l b => if b = 0xFFFF then l else addNew b l) a
  (List.range ks.length).foldl (fun a _ => grow a) (distinct (seeds.filter (· != 0xFFFF)))

/-- An instruction that a recipe block may not hold (R333). A MOVC read of FAULTQ needs privilege to execute (R276), but MOVC is not marked P
(R41). -/
def impure (set : List Nat) (i : Instr) : Bool :=
  (needsPriv i && (match i with | .movcRead .. => false | _ => true)) ||
  match i with
  | .atom .. | .fatom .. | .red .. | .atomf .. | .clock _ | .tagc _ | .spawn .. | .ret .. | .sendm .. | .mktagColour .. => true
  | .send _ _ _ _ _ _ b => !set.contains b
  | .cpy md _ _ _ _ _ _ _ _ b => md == .c || md == .remote || (md != .t && !set.contains b)
  | .movcWrite .. | .trap _ | .brk _ | .rseal .. | .rdrop _ | .rfree _ | .rpin .. | .rstat .. => true
  | _ => false

/-- A recipe block breaks a rule on its attributes (R333). -/
def ImgBlock.impureAttr (k : ImgBlock) : Bool :=
  k.ports != 1 || !k.ordered || k.count != 1 || 4 < k.tiles || 1024 < k.frame || k.priv != 0

/-- Check 10 (R72, R333): the block and the index of the first failure. -/
def pureBad (pure : Bool) (ks : List ImgBlock) : Option (Nat × Nat) :=
  let set := recipeSet ks
  let word (n : Nat) (e : Nat × Instr) : Bool :=
    (match e.2 with | .rseal _ _ _ b _ => !pure || b == 0xFFFF | _ => false) || (pure && set.contains n && impure set e.2)
  (ks.zipIdx).findSome? fun k =>
    if pure && set.contains k.2 && k.1.impureAttr then some (k.2, noPlace)
    else (k.1.instrs.find? (word k.2)).map fun e => (k.2, e.1)

/-! ### Checks 9 and 11 to 14 -/

/-- The physical cores of a block's placement set in a context. -/
def Ctx.blockCores (x : Ctx) (k : ImgBlock) : List Nat := distinct ((List.range k.count).map fun i => x.mapCore (k.first + i))

/-- Check 9 (R28): the constants fit in the space left on every placed core. -/
def State.constsFit (s : State) (x : Ctx) (ks : List ImgBlock) (n : Nat) : Bool :=
  n = 0 || (ks.flatMap fun k => x.blockCores k).all fun c =>
    (((s.core c).st.consts.map fun e => match s.images.find e.1 with | some i => i.consts.length | none => 0).sum) + n ≤ 262144

/-- The names of the handler blocks (R311). -/
def nameTrap : List Nat := "on_trap".toList.map fun c => c.toNat
/-- The name of the block that receives fault tokens (R311). -/
def nameFault : List Nat := "on_fault".toList.map fun c => c.toNat

/-- Check 12 (R224): the mask of an ordered block selects a field that holds an index bit of 4:0. -/
def orderedBad (w : List Nat) (k : ImgBlock) : Bool :=
  k.ordered && 1 < k.count && (List.range 6).any fun f =>
    k.mask.testBit f && w.getD f 0 != 0 && w.sum - ((w.take (f + 1)).sum) < 5

/-- Check 14 for one data section (R72): its bytes are writable, and its pages mapped writable and no recipe tile. -/
def State.dataOk (s : State) (x : Ctx) (d : ImgData) : Bool :=
  d.bytes.isEmpty || (x.allowed false 2 d.va d.bytes.length && d.va + d.bytes.length ≤ 2 ^ 48 &&
    (granules d.va d.bytes.length).all fun g =>
      !(x.recipes.any fun e => e.2.tile == g) &&
        match s.walk x.root g with | .leaf _ v _ => fld v 3 3 == 1 | _ => false)

/-- The loader's checks of an image read whole: 3 to 14, in order (R72). -/
def State.imageBad (s : State) (x : Ctx) (b : List Byte) : Option LoadErr :=
  let err (reason : Nat) (e : Option (Nat × Nat)) : Option LoadErr := e.map fun p => { reason, block := p.1, index := p.2 }
  let ks := (List.range (Img.blocks b)).map (imgBlock b)
  let first (f : Nat → ImgBlock → Option Nat) : Option (Nat × Nat) := (ks.zipIdx).findSome? fun k => (f k.2 k.1).map fun i => (k.2, i)
  let whole (c : ImgBlock → Bool) : Option (Nat × Nat) := first fun _ k => if c k then some noPlace else none
  let handler (k : ImgBlock) : Bool := (k.name == nameTrap || k.name == nameFault) && (k.ports != 1 || k.ordered)
  (err 1 (headBad b)).or <| (err 2 (limitsBad b)).or <| (err 3 (first fun _ k => codeBad k)).or <|
  (err 4 (first fun _ k => wBad k.code k.instrs [])).or <|
  (err 5 ((first fun _ k => (k.instrs.find? fun e => (names e.2).any fun n => n ≥ ks.length && n != 0xFFFF).map Prod.fst).or
    ((imgLaunches b).zipIdx.findSome? fun e => if e.1.block ≥ ks.length && e.1.block != 0xFFFF then some (noPlace, Img.launchOff b + 64 * e.2) else none))).or <|
  (err 16 (first fun n k => (k.instrs.find? fun e => targetBad ks n e.2).map Prod.fst)).or <|
  (err 6 (if s.constsFit x ks (Img.constLen b) then none else some (noPlace, noPlace))).or <|
  (err 7 (pureBad (Img.pure b) ks)).or <| (err 8 (whole handler)).or <| (err 11 (whole (orderedBad (Img.widths b)))).or <|
  (err 12 (whole fun k => k.priv * 128 > x.allowance)).or <|
  err 10 (((imgDatas b).find? fun d => !s.dataOk x d).map fun d => (noPlace, d.off))

/-! ### Binding -/

/-- A slot number for an image-local one (R71). -/
def slotOf (slots : List Nat) (n : Nat) : Nat := if n = 0xFFFF then 0xFFFF else slots.getD n 0xFFFF

/-- A second word with its block fields rewritten (R71). -/
def rewriteWord (slots : List Nat) (i : Instr) (x : Nat) : Nat :=
  match i with
  | .send .. | .rseal .. => x / 2 ^ 16 * 2 ^ 16 + slotOf slots (x % 2 ^ 16)
  | .cpy .t _ _ _ _ _ _ _ _ _ => x
  | .cpy .. => x / 2 ^ 16 * 2 ^ 16 + slotOf slots (x % 2 ^ 16)
  | .spawn .. => slotOf slots (x / 2 ^ 16) * 2 ^ 16 + slotOf slots (x % 2 ^ 16)
  | _ => x

/-- A block's words as the loader keeps them (R71). -/
def ImgBlock.bound (k : ImgBlock) (slots : List Nat) : List Nat :=
  k.instrs.foldl (fun c e => if opWords (majorOp (c.getD e.1 0)) = 2 then c.set (e.1 + 1) (rewriteWord slots e.2 (c.getD (e.1 + 1) 0)) else c) k.code

/-- The lowest free block slots (R71; which the loader takes is DESIGN CHOICE, log 30). -/
def State.freeSlots (s : State) (n : Nat) : List Nat :=
  let taken := s.io.loads.flatMap fun e => e.2.slots
  ((List.range 65535).filter fun i => (s.blocks.find i).isNone && !taken.contains i).take n

/-- One byte of a data section written through the harbour units, as host DMA is (R72, R178), and whether it could be. -/
def State.writeByte (s : State) (x : Ctx) (va : Nat) (b : Byte) : State × Bool :=
  match s.translate x.r.asid va .write none with
  | .ok pa at_ =>
    let t1 := s.touch x.r.asid va .write at_
    (if (paHost pa).isSome then t1.physWrite pa [b]
      else t1.homeWrite x.r.asid (va / 64) (lineData (va % 64) [b]) (byteMask (va % 64) 1) none, true)
  | _ => (s, false)

/-- A data section written up to the first byte that cannot be (R72), and whether all of it was. -/
def State.writeData (s : State) (x : Ctx) (d : ImgData) : State × Bool :=
  (d.bytes.zipIdx).foldl (fun (a : State × Bool) e => if a.2 then a.1.writeByte x (d.va + e.2) e.1 else a) (s, true)

/-- The data sections written in their order, up to the first that fails: the state, with the place of that one (R72). -/
def State.writeDatas (s : State) (x : Ctx) (ds : List ImgData) : State × Option Nat :=
  ds.foldl (fun (a : State × Option Nat) d =>
    if a.2.isSome then a
    else match a.1.writeData x d with
      | (t, true) => (t, none)
      | (t, false) => (t, some d.off)) (s, none)

/-- The blocks of an image bound to slots, its constants placed, its handlers designated (R28, R71, R311). -/
def State.bindImage (s : State) (ctx : Nat) (x : Ctx) (b : List Byte) (slots : List Nat) (h : Nat) : State :=
  let ks := (List.range (Img.blocks b)).map (imgBlock b)
  let set := if Img.pure b then recipeSet ks else []
  let consts := (b.drop (Img.constOff b)).take (Img.constLen b)
  let im : Image := { ctx, pure := Img.pure b, slots, widths := Img.widths b, consts, launches := imgLaunches b, crc := imgNat b 0x3C 4 }
  let blk (n : Nat) (k : ImgBlock) : Block :=
    { ctx, img := h, run := h, ports := k.ports, frame := k.frame, priv := k.priv, tiles := k.tiles,
      leash := if k.leash = 0 then 256 else k.leash, ordered := k.ordered, first := k.first, count := k.count, mask := k.mask,
      code := k.bound slots, closing := false, recipe := set.contains n }
  let s1 := { s with images := s.images.put h im,
                     blocks := (ks.zipIdx).foldl (fun t k => t.put (slots.getD k.2 0) (blk k.2 k.1)) s.blocks }
  let cores := if consts.isEmpty then [] else distinct (ks.flatMap fun k => x.blockCores k)
  let s2 := cores.foldl (fun (t : State) c => t.modCore c fun q =>
    { q with st := { q.st with consts := q.st.consts.put h (Sparse.setRun 0 consts []) } }) s1
  let find (n : List Nat) : Option Nat := ((ks.zipIdx).find? fun k => k.1.name == n).map fun k => slots.getD k.2 0
  s2.modCtx ctx fun y => { y with onTrap := (find nameTrap).or y.onTrap, onFault := (find nameFault).or y.onFault }

/-! ### LOAD -/

/-- The bytes of an image read through the harbour units (R72 check 2): or the offset of the first that cannot be read, or the
dropped recipe tile on which the read waits. -/
inductive ImgRead where
  | bytes (bs : List Byte)
  | bad (off : Nat)
  | parked (ctx rix line : Nat)
deriving DecidableEq, Repr

/-- Image bytes read line by line. -/
def State.readImage (s : State) (asid va : Nat) : Nat → Nat → State × ImgRead
  | 0, _ => (s, .bytes [])
  | n + 1, off =>
    match s.homeRead asid (va + off) 64 none .read with
    | (s1, .data bs false) => match s1.readImage asid va n (off + 64) with
      | (s2, .bytes cs) => (s2, .bytes (bs ++ cs))
      | r => r
    | (s1, .data _ true) => (s1, .bad off)
    | (s1, .fault _) => (s1, .bad off)
    | (s1, .recipe c k) => (s1, .parked c k ((va + off) / 64))

/-- The result of a LOAD or an UNLOAD that ends with status 5 (R293). -/
def loadErr (e : LoadErr) : List Byte := leBytes 4 e.reason ++ leBytes 4 e.block ++ leBytes 4 e.index

/-- A port's LOAD ends (R291). -/
def State.endLoad (s : State) (port status : Nat) (res : List Byte) : State :=
  ({ s with io := { s.io with loads := s.io.loads.del port } } : State).mboxEnd port status res

/-- An image that has been read: checked, with a handle and slots, after which the loader is to write and bind it (R72, R293). A slot map
that would end past the window gives status 3 (DESIGN CHOICE, log 73). -/
def loadChecked (s : State) (c : Cmd) (x : Ctx) (b : List Byte) : State :=
  match s.imageBad x b with
  | some e => s.endLoad c.port MCode.refused (loadErr e)
  | none =>
    let n := Img.blocks b
    let slots := s.freeSlots n
    let handles := s.io.loads.map fun e => e.2.handle
    match (List.range 65536).find? fun h => (s.images.find h).isNone && !handles.contains h with
    | none => s.endLoad c.port MCode.noResource []
    | some h =>
      if !s.inWindow c.port (argNat c 0x10 8) (2 * n) then s.endLoad c.port MCode.format []
      else if slots.length < n then s.endLoad c.port MCode.noResource []
      else { s with io := { s.io with loads := s.io.loads.put c.port { cmd := c, image := some b, slots, handle := h } } }

/-- The image read through the harbour units, and checked; one of which a byte stands on a dropped recipe tile is read once the tile is
back (R72 check 2, R332). -/
def loadRead (s : State) (c : Cmd) (x : Ctx) : State :=
  let va := argNat c 0 8
  let len := argNat c 8 4
  match s.readImage x.r.asid va ((len + 63) / 64) 0 with
  | (t, .bytes bs) => loadChecked t c x (bs.take len)
  | (t, .bad off) => t.endLoad c.port MCode.refused (loadErr { reason := 15, block := noPlace, index := off })
  | (t, .parked n k line) =>
    let t1 := t.noteMiss x.r.asid line n k
    { t1 with io := { t1.io with loads := t1.io.loads.put c.port { cmd := c, image := none, slots := [], handle := 65536 } } }

/-- A checked image written and bound (R72): where a page has changed since it was checked, the image is refused, the bytes written stay,
and no slot is bound. All data sections are written in this one move, so a page changes before the first byte or after the last: DESIGN CHOICE
(log 75). -/
def loadBind (s : State) (j : LoadJob) (x : Ctx) (b : List Byte) : State :=
  let c := j.cmd
  match s.writeDatas x (imgDatas b) with
  | (t, some off) => t.endLoad c.port MCode.refused (loadErr { reason := 10, block := noPlace, index := off })
  | (t, none) =>
    ((t.bindImage c.ctx x b j.slots j.handle).hostWrite c.port (argNat c 0x10 8) (j.slots.flatMap fun k => leBytes 2 k)).endLoad
      c.port MCode.done (leBytes 4 j.handle ++ leBytes 4 (Img.blocks b))

/-- The loader goes on with the LOAD of a port (R72). -/
def State.loaderMove (s : State) (port : Nat) : State :=
  match s.io.loads.find port with
  | none => s
  | some j => match s.ctx j.cmd.ctx with
    | none => s
    | some x => match j.image with
      | none => loadRead s j.cmd x
      | some b => loadBind s j x b

/-- The first byte of a range outside every region with X (R72 check 1). -/
def Ctx.notCode (x : Ctx) (va len : Nat) : Option Nat :=
  ((granules va len).find? fun g => inPrivWindow g || x.rights g &&& 4 != 4).map fun g => max g va - va

/-- LOAD (R72, R259, R292, R293): the image is read and checked, and the mailbox is busy while the loader goes on (R291). -/
def execLoad (c : Cmd) (s : State) : Out :=
  ctxCommand s 6 c [(0, 12), (0x10, 8)] fun t x =>
    if x.st != .running then t.mboxEnd c.port MCode.refused []
    else if argNat c 0 8 % 64 != 0 || argNat c 0x10 8 % 4 != 0 then t.mboxEnd c.port MCode.format []
    else match x.notCode (argNat c 0 8) (argNat c 8 4) with
      | some off => t.mboxEnd c.port MCode.refused (loadErr { reason := 9, block := noPlace, index := off })
      | none => loadRead t c x

/-! ### UNLOAD -/

/-- An image's slots unbound, with its constants and designations; the image stays while another slot runs its code (R281). -/
def State.unloadImage (s : State) (ctx h : Nat) (i : Image) : State :=
  let s1 := { s with blocks := s.blocks.filter fun e => !(i.slots.contains e.1) }
  let used := s1.blocks.any fun e => e.2.run == h
  let keep (o : Option Nat) : Option Nat := o.filter fun n => !i.slots.contains n
  let s2 := s1.modCtx ctx fun x => { x with onTrap := keep x.onTrap, onFault := keep x.onFault }
  if used then s2
  else { s2 with
    images := s2.images.del h
    cores := s2.cores.map fun (e : Nat × Core) => (e.1, { e.2 with st := { e.2.st with
      consts := e.2.st.consts.del h, constBad := e.2.st.constBad.filter fun k => k.1 != h } }) }

/-- UNLOAD (R234, R292, R293, R348): refused while a slot of the image is live, or while a record that is not FREE names one. -/
def execUnload (c : Cmd) (s : State) : Out :=
  ctxCommand s 7 c [(0, 4)] fun t x =>
    let h := argNat c 0 4
    match (t.images.find h).filter fun i => i.ctx == c.ctx with
    | none => t.mboxEnd c.port MCode.format []
    | some i =>
      if x.st != .running then t.mboxEnd c.port MCode.refused []
      else match i.slots.findIdx? fun k => t.slotLive k with
        | some n => t.mboxEnd c.port MCode.refused (loadErr { reason := 14, block := n, index := noPlace })
        | none => match i.slots.findIdx? fun k => x.recipes.any fun e => e.2.entry == k with
          | some n => t.mboxEnd c.port MCode.refused (loadErr { reason := 13, block := n, index := noPlace })
          | none => (t.unloadImage c.ctx h i).mboxEnd c.port MCode.done []

end Sys2Proof.Machine
end

