-- ==== Sys2Proof/Machine/Launches.lean ====
section
/-! DEFINITION. Launches: LAUNCH with its handshake, CLOSE and RETIRE (R224, R293, R300 to R302). -/

namespace Sys2Proof.Machine

/-! ### Entry and close tokens -/

/-- A token that the management core makes (R217): it carries no release (R178). -/
def mgmtTok (ctx slot port : Nat) (tag : DWord) (pay : List Word) : Tok where
  slot := slot
  port := port
  tag := tag
  pay := pay
  ctx := ctx
  rel := none
  handler := false
  src := Config.mgmtSource % 256
  bearing := Config.mgmtBearing
  core := 192
  cov := []

/-- The entry tokens of an image under a colour (R70). -/
def entryToks (i : Image) (ctx c : Nat) : List Tok :=
  i.launches.flatMap fun e => (List.range e.count).map fun j =>
    mgmtTok ctx (slotOf i.slots e.block) e.port (mkTag 0 c (e.first + j)) e.pay

/-- The entry tokens of a launch whose device index is this node's own, injected (R301 step 5); for N = 1 all of them (R300). -/
def State.inject (s : State) (l : Launch) : State :=
  match s.images.find l.img with
  | none => s
  | some i =>
    let own (t : Tok) : Bool := l.n == 1 || s.nodeOf l (tagIndex t.tag) == s.io.node
    ((entryToks i l.ctx l.colour).filter own).foldl State.placeTok s

/-- The close tokens of a launch's colour to listed blocks (R224, R302). -/
def State.closeBlocks (s : State) (l : Launch) (bs : List Nat) : State :=
  match s.images.find l.img with
  | none => s
  | some i => bs.foldl (fun (t : State) b => t.placeTok (mgmtTok l.ctx (slotOf i.slots b) 0 (mkTag 0 l.colour closeIndex) [])) s

/-! ### The registry -/

/-- A launch taken off the registry. -/
def State.dropLaunch (s : State) (coord num : Nat) : State :=
  { s with launches := s.launches.filter fun l => !(l.coord == coord && l.num == num) }

/-- A level-0 colour taken for a context: its close marks go (R224, R232). -/
def State.takeColour (s : State) (ctx c : Nat) : State :=
  (s.modCtx ctx fun x => { x with pools := x.pools ++ [(0, c)] }).clearClose ctx c

/-- The kinds of control packet (R301, R302, R352), which the spec names and does not number (DESIGN CHOICE, log 32). -/
inductive CtlKind where
  | prepare | ready | refuse | start | abort | close | retire | settle
deriving DecidableEq, Repr

/-- The number of a kind. -/
def CtlKind.num : CtlKind → Nat
  | .prepare => 1 | .ready => 2 | .refuse => 3 | .start => 4 | .abort => 5 | .close => 6 | .retire => 7 | .settle => 8

/-- A control packet to a node, on VC 0 (R298). -/
def State.control0 (s : State) (node coord num : Nat) (k : CtlKind) (vals : List Nat) : State :=
  s.sendPkt (mkPkt node 0 0 (.control k.num coord num vals))

/-- The other nodes of a launch. -/
def State.peers (s : State) (l : Launch) : List Nat := l.nodes.filter fun k => k != s.io.node

/-- The CRC-32C of a node list (R301). -/
def listCrc (nodes : List Nat) : Nat := crc32c (nodes.flatMap fun k => leBytes 4 k)

/-- The results of a LAUNCH (R293). -/
def launchRes (c : Nat) (why : Option (Nat × Nat)) : List Byte :=
  leBytes 4 c ++ match why with | some (i, r) => leBytes 4 i ++ leBytes 4 r | none => []

/-! ### LAUNCH -/

/-- A launch as its LAUNCH registers it. -/
def launchOfCmd (c : Cmd) (now : Nat) (nodes : List Nat) : Launch where
  coord := argNat c 8 4
  num := argNat c 6 2
  ctx := c.ctx
  img := argNat c 0 4
  role := argNat c 4 1
  st := .waiting
  colour := 0
  n := argNat c 12 4
  field := argNat c 5 1
  nodes := nodes
  index := 0
  since := now
  ready := []
  answers := 0
  why := (0, 0)
  sent := []
  recv := []
  marks := []
  port := c.port

/-- The node list of a LAUNCH; that of a local one is this node (R293, R300). -/
def State.nodeList (s : State) (c : Cmd) : List Nat :=
  if argNat c 4 1 = 0 then [s.io.node]
  else (List.range (argNat c 12 4)).map fun i => leNat (s.hostRead c.port (argNat c 16 8 + 4 * i) 4)

/-- A LAUNCH's arguments are in form (R293). -/
def State.launchOk (s : State) (c : Cmd) : Bool :=
  let role := argNat c 4 1
  let n := argNat c 12 4
  let nodes := s.nodeList c
  role ≤ 2 && argNat c 5 1 ≤ 5 && argNat c 6 2 < 2 ^ 12 && argNat c 8 4 < 2 ^ 20 && 1 ≤ n && n ≤ 786432 && (role != 0 || n == 1) &&
  (match s.images.find (argNat c 0 4) with | some i => i.ctx == c.ctx | none => false) &&
  (s.launch (argNat c 8 4) (argNat c 6 2)).isNone &&
  (role == 0 || (argNat c 16 8 + 4 * n ≤ s.winSize c.port && nodes.all (fun k => k < 0xFFFFF) && nodes.Nodup && nodes.contains s.io.node))

/-- The reason for which a member refuses a PREPARE, if it does (R293, R301 step 3). -/
def State.prepareReason (s : State) (l : Launch) (p : PrepPkt) : Option Nat :=
  match s.ctx l.ctx, s.images.find l.img with
  | some x, some i =>
    if i.crc != p.crc then some 1
    else if i.widths != p.widths then some 2
    else if listCrc l.nodes != p.listCrc || l.nodes[p.index]? != some s.io.node then some 6
    else if x.pools.contains (0, p.colour) then some 3 else none
  | _, _ => some 4

/-- A member answers the PREPARE of its registered launch (R301 step 3): READY, with the colour reserved, or REFUSE, which ends its
LAUNCH with status 7 (R301 step 4). -/
def State.answerPrepare (s : State) (l : Launch) (p : PrepPkt) : State :=
  match s.prepareReason l p with
  | none =>
    let s1 := (s.takeColour l.ctx p.colour).modLaunch l.coord l.num fun m =>
      { m with st := .ready, colour := p.colour, index := p.index, field := p.field, n := p.count }
    s1.control0 p.source l.coord l.num .ready [p.index]
  | some r =>
    ((s.dropLaunch l.coord l.num).control0 p.source l.coord l.num .refuse [p.index, r]).mboxEnd l.port MCode.nodeRefused
      (launchRes p.colour (some (p.index, r)))

/-- The coordinator starts the launch: START to every member, then its own entry tokens, and status 0 (R301 steps 4 and 5). -/
def State.startLaunch (s : State) (l : Launch) : State :=
  let s1 := s.modLaunch l.coord l.num fun m => { m with st := .running }
  let s2 := (s.peers l).foldl (fun (t : State) k => t.control0 k l.coord l.num .start []) s1
  (s2.inject { l with st := .running }).mboxEnd l.port MCode.done (launchRes l.colour none)

/-- PREPARE to every member (R301 step 2). -/
def State.sendPrepares (s : State) (l : Launch) (i : Image) : State :=
  (l.nodes.zipIdx).foldl (fun (t : State) k =>
    if k.1 = s.io.node then t
    else t.control0 k.1 l.coord l.num .prepare ([i.crc] ++ i.widths ++ [l.field, l.colour, l.n, k.2, listCrc l.nodes])) s

/-- LAUNCH in form, by role (R293, R301). -/
def launchCmd (s : State) (c : Cmd) (x : Ctx) : State :=
  let l := launchOfCmd c s.now (s.nodeList c)
  if l.role = 2 then
    let s1 := { s with launches := s.launches ++ [l] }
    match s.prepares.findIdx? fun e => e.1.coord == l.coord && e.1.number == l.num with
    | none => s1
    | some i => match s.prepares[i]? with
      | some e => ({ s1 with prepares := s1.prepares.eraseIdx i } : State).answerPrepare l e.1
      | none => s1
  else match x.freeNumber 0, s.images.find l.img with
    | some k, some i =>
      let l1 : Launch := { l with colour := k, st := if l.role = 0 then .running else .preparing,
                                  index := (l.nodes.findIdx? (· == s.io.node)).getD 0 }
      let s1 := ({ s with launches := s.launches ++ [l1] } : State).takeColour c.ctx k
      if l.role = 0 || l.n = 1 then s1.startLaunch l1 else s1.sendPrepares l1 i
    | _, _ => s.mboxEnd c.port MCode.poolEmpty []

/-- LAUNCH (R293, R301): the context runs (R349). -/
def execLaunch (c : Cmd) (s : State) : Out :=
  ctxCommand s 8 c ([(0, 16)] ++ [(16, 8)]) fun t x =>
    if x.st != .running then t.mboxEnd c.port MCode.refused []
    else if !t.launchOk c then t.mboxEnd c.port MCode.format []
    else launchCmd t c x

/-! ### The handshake's packets -/

/-- A control packet comes to its own node with its reserved fields zero; any other is dropped and counted (R299). -/
def ctlPacket (s : State) (dest : Nat) (rsv : Bool) (f : State → Out) : Out := if s.mine dest rsv then f s else .next s.dropPkt

/-- A control packet of a registered launch. -/
def launchPacket (s : State) (p : CtlPkt) (f : Launch → Out) : Out :=
  ctlPacket s p.dest p.rsv fun t => match t.launch p.coord p.number with
    | none => .next t.dropPkt
    | some l => f l

/-- PREPARE_RECEIVE (R301 step 3): answered where the member LAUNCH is registered, else held. -/
def execPrepareReceive (p : PrepPkt) (s : State) : Out :=
  ctlPacket s p.dest p.rsv fun t => match (t.launch p.coord p.number).filter fun l => l.role == 2 && l.st == .waiting with
    | some l => .next (t.answerPrepare l p)
    | none => .next { t with prepares := t.prepares ++ [(p, t.now)] }

/-- PREPARE_TIMEOUT (R301 step 3): the n-th held PREPARE after 94,000,000 ck. -/
def execPrepareTimeout (n : Nat) (s : State) : Out :=
  match s.prepares[n]? with
  | none => .next s
  | some (p, t0) =>
    if s.now < t0 + 94000000 then .next s
    else .next (({ s with prepares := s.prepares.eraseIdx n } : State).control0 p.source p.coord p.number .refuse [p.index, 5])

/-- The colour of an aborted launch goes back, and the launch is known until every member has answered. -/
def State.endRefused (s : State) (l : Launch) : State :=
  if l.answers + 1 ≥ l.n then s.dropLaunch l.coord l.num else s

/-- READY_RECEIVE (R301 step 4): the launch starts when every member is ready; a member that is ready after another has refused gets
ABORT. -/
def execReadyReceive (p : CtlPkt) (s : State) : Out :=
  launchPacket s p fun l =>
    if l.role != 1 || !(l.nodes.contains p.source) || l.ready.contains p.source then .next s
    else
      let l1 : Launch := { l with ready := l.ready ++ [p.source], answers := l.answers + 1 }
      let s1 := s.modLaunch l.coord l.num fun _ => l1
      match l.st with
      | .preparing => .next (if l1.ready.length + 1 = l.n then s1.startLaunch l1 else s1)
      | .refused => .next ((s1.control0 p.source l.coord l.num .abort [l.why.1, l.why.2]).endRefused l1)
      | _ => .next s

/-- REFUSE_RECEIVE (R301 step 4): the first refusal sends ABORT to the members that are ready, releases the colour and ends the
LAUNCH with status 7. -/
def execRefuseReceive (p : CtlPkt) (s : State) : Out :=
  launchPacket s p fun l =>
    let why := (p.vals.getD 0 0, p.vals.getD 1 0)
    if l.role != 1 then .next s
    else match l.st with
    | .preparing =>
      let l1 : Launch := { l with st := .refused, why, answers := l.answers + 1 }
      let s1 := (s.modLaunch l.coord l.num fun _ => l1).freeColour l.ctx 0 l.colour
      let s2 := l.ready.foldl (fun (t : State) k => t.control0 k l.coord l.num .abort [why.1, why.2]) s1
      .next ((s2.endRefused l1).mboxEnd l.port MCode.nodeRefused (launchRes l.colour (some why)))
    | .refused =>
      let l1 : Launch := { l with answers := l.answers + 1 }
      .next ((s.modLaunch l.coord l.num fun _ => l1).endRefused l1)
    | _ => .next s

/-- START_RECEIVE (R301 step 5): the member injects its own entry tokens, and its LAUNCH ends. -/
def execStartReceive (p : CtlPkt) (s : State) : Out :=
  launchPacket s p fun l =>
    if l.role = 2 && l.st = .ready then
      let l1 : Launch := { l with st := .running }
      .next (((s.modLaunch l.coord l.num fun _ => l1).inject l1).mboxEnd l.port MCode.done (launchRes l.colour none))
    else .next s

/-- ABORT_RECEIVE (R301 step 4). -/
def execAbortReceive (p : CtlPkt) (s : State) : Out :=
  launchPacket s p fun l =>
    if l.role = 2 && l.st = .ready then
      .next (((s.dropLaunch l.coord l.num).freeColour l.ctx 0 l.colour).mboxEnd l.port MCode.nodeRefused
        (launchRes l.colour (some (p.vals.getD 0 0, p.vals.getD 1 0))))
    else .next s

/-- LAUNCH_WAIT_TIMEOUT (R301 step 4): the n-th launch, a member that has found no PREPARE for 94,000,000 ck. -/
def execLaunchWaitTimeout (n : Nat) (s : State) : Out :=
  match s.launches[n]? with
  | none => .next s
  | some l =>
    if l.role = 2 && l.st = .waiting && l.since + 94000000 ≤ s.now
    then .next ((s.dropLaunch l.coord l.num).mboxEnd l.port MCode.timeout []) else .next s

/-! ### CLOSE and RETIRE -/

/-- The launch of a context that a CLOSE or a RETIRE names by its number: the one that this node coordinates, where another coordinator's
has the same number (R302). -/
def State.launchNum (s : State) (ctx num : Nat) : Option Launch :=
  let named (l : Launch) : Bool := l.ctx == ctx && l.num == num
  (s.launches.find? fun l => named l && l.role != 2).or (s.launches.find? named)

/-- A listed block is an ordered one of the launch's image (R293). -/
def State.orderedBlock (s : State) (l : Launch) (b : Nat) : Bool :=
  match s.images.find l.img with
  | none => false
  | some i => match i.slots[b]? with
    | none => false
    | some k => match s.block k with | some x => x.ordered | none => false

/-- A launch command by its role and state: the launch is one that runs, and the command comes from its coordinator (R302). -/
def launchNamed (s : State) (c : Cmd) (f : Launch → State) : State :=
  match s.launchNum c.ctx (argNat c 0 2) with
  | none => s.mboxEnd c.port MCode.format []
  | some l => if l.st != .running || l.role = 2 then s.mboxEnd c.port MCode.refused [] else f l

/-- CLOSE (R293, R302): to every member and on this node. -/
def execClose (c : Cmd) (s : State) : Out :=
  ctxCommand s 9 c [(0, 3), (4, 32)] fun t _ =>
    let n := argNat c 2 1
    let bs := (List.range n).map fun i => argNat c (4 + 2 * i) 2
    if n > 16 then t.mboxEnd c.port MCode.format []
    else launchNamed t c fun l =>
      if !(bs.all fun b => t.orderedBlock l b) then t.mboxEnd c.port MCode.format []
      else
        let t1 := (t.peers l).foldl (fun (u : State) k => u.control0 k l.coord l.num .close bs) t
        (t1.closeBlocks l bs).mboxEnd c.port MCode.done []

/-- RETIRE (R302): to every member, and the colour goes back on this node. -/
def execRetire (c : Cmd) (s : State) : Out :=
  ctxCommand s 10 c [(0, 2)] fun t _ => launchNamed t c fun l =>
    let t1 := (t.peers l).foldl (fun (u : State) k => u.control0 k l.coord l.num .retire []) t
    ((t1.freeColour l.ctx 0 l.colour).dropLaunch l.coord l.num).mboxEnd c.port MCode.done []

/-- CLOSE_CONTROL_RECEIVE (R302): the node's own close tokens to each listed ordered block. -/
def execCloseControlReceive (p : CtlPkt) (s : State) : Out :=
  launchPacket s p fun l =>
    if l.st = .running || l.st = .ready then .next (s.closeBlocks l (p.vals.filter fun b => s.orderedBlock l b)) else .next s.dropPkt

/-- RETIRE_CONTROL_RECEIVE (R302). -/
def execRetireControlReceive (p : CtlPkt) (s : State) : Out :=
  launchPacket s p fun l =>
    if l.role = 2 && l.st = .running then .next ((s.freeColour l.ctx 0 l.colour).dropLaunch l.coord l.num) else .next s

end Sys2Proof.Machine
end

