-- ==== Sys2Proof/Machine/HostPort.lean ====
section
/-! DEFINITION. What a host does through its port: the injection aperture, inbox HEAD, the memory window and the management
registers, with attestation reports (R283, R285, R287, R288, R290, R322, R363, R366, R368). -/

namespace Sys2Proof.Machine

/-- A port's windows are enumerated: accesses before that have no effect, or complete as Unsupported Request (R365). -/
def State.portUp (s : State) (port : Nat) : Bool := s.io.up.getD port false

/-- What came of a host read. -/
def State.hostReply (s : State) (port : Nat) (data : List Byte) (ep ur : Bool) : State :=
  { s with io := { s.io with reads := s.io.reads ++ [{ port, data, ep, ur }] } }

/-! ### The aperture -/

/-- The token that 64 bytes of an aperture write hold (R178, R287), or none where they are malformed (R288). A port byte
of 4 to 255, which R287 does not give and R288 does not list as malformed, is kept, and the core answers it with the fault token of R220:
DESIGN CHOICE (log 75). -/
def apertureTok (ctx off : Nat) (bs : List Byte) : Option Tok :=
  let u (o n : Nat) : Nat := leNat ((bs.drop o).take n)
  let tag : DWord := BitVec.ofNat 64 (u 0 8)
  if bs.length != 64 || off % 64 != 0 || u 0xC 20 != 0 || 8 < u 0xB 1 || tagLevel tag = 7 then none
  else some { slot := u 8 2, port := u 0xA 1, tag, pay := (List.range (u 0xB 1)).map fun i => BitVec.ofNat 32 (u (0x20 + 4 * i) 4),
              ctx, rel := some .sys, handler := false, src := 2, bearing := 0, core := 192, cov := [] }

/-- Accepted tokens of a port that have not been placed (R288): those that wait for the inbox writer, and those that wait for a core whose
spill area is full (R231). -/
def State.portTokens (s : State) (port : Nat) : Nat :=
  ((s.io.wait ++ s.io.hwait).filter fun t => t.src == 2 && (match s.ctx t.ctx with | some x => x.r.port == port | none => false)).length

/-- A malformed aperture write dropped and counted (R288). -/
def State.dropAperture (s : State) (port : Nat) : State := s.count (.aperr port)

/-- APERTURE_WRITE (R283, R287, R288): a write to the aperture of a context of the other port is dropped; a token waits at the port
while its 256 places are in use. -/
def execApertureWrite (port off : Nat) (bytes : List Byte) (s : State) : Out :=
  let ctx := off / 0x10000
  if !s.portUp port then .next s
  else match s.ctx ctx with
    | none => .next s
    | some x =>
      if x.r.port != port then .next s
      else match apertureTok ctx off bytes with
        | none => .next (s.dropAperture port)
        | some t => if s.portTokens port ≥ 256 then .next s else .next (s.placeTok t)

/-- INBOX_HEAD_WRITE (R289, R290): ignored where TAIL − HEAD would be negative or more than the inbox holds. -/
def execInboxHeadWrite (port ctx : Nat) (head : Word) (s : State) : Out :=
  match s.ctx ctx with
  | none => .next s
  | some x =>
    if !s.portUp port || x.r.port != port || (x.box.tail + 2 ^ 32 - head.toNat) % 2 ^ 32 > 2 ^ x.box.k then .next s
    else .next (s.modCtx ctx fun y => { y with box := { y.box with head := head.toNat } })

/-! ### The memory window -/

/-- A range of physical bytes cut at lines: address and length of each piece. -/
def linePieces : Nat → Nat → Nat → List (Nat × Nat)
  | 0, _, _ => []
  | n + 1, pa, len =>
    if len = 0 then [] else
      let k := min len (64 - pa % 64)
      (pa, k) :: linePieces n (pa + k) (len - k)

/-- The virtual address under which the bytes of a WRITABLE frame stand (R267, R285). -/
def State.frameVaOf (s : State) (pa : Nat) : Nat := ownWva (s.ownerOf pa) * 2 ^ 16 + pa % 2 ^ 16

/-- A host access in a chunk of the port's own domain (R285). -/
def State.hostMay (s : State) (port pa len : Nat) : Bool :=
  s.portUp port && pa + len ≤ 2 ^ 39 && 0 < len && (List.range ((pa + len - 1) / 2 ^ 30 - pa / 2 ^ 30 + 1)).all fun i =>
    s.part.chunks.getD (pa / 2 ^ 30 + i) 0 == port + 1

/-- One piece of a host read (R285): through the home slice for a WRITABLE frame, else from HBM. -/
def State.hostReadPiece (s : State) (pa n : Nat) : State × List Byte × Bool :=
  let own := s.ownerOf pa
  let direct : State × List Byte × Bool := (s, s.physRead pa n, s.mem.bad.contains (pa / 64))
  if ownState own = 1 then
    match s.homeRead (ownGrant own) (s.frameVaOf pa) n none .read with
    | (s1, .data bs p) => (s1, bs, p)
    | _ => direct
  else direct

/-- One piece of a host write (R178, R285, R322): at the home slice for a WRITABLE frame, else in HBM; a poisoned TLP poisons the
line, and a write of all its bytes clears it. -/
def State.hostWritePiece (s : State) (pa : Nat) (bs : List Byte) (ep : Bool) : State :=
  let own := s.ownerOf pa
  let s0 := if ep then s.count .uecnt else s
  if ownState own = 1 then
    let va := s.frameVaOf pa
    let s1 := s0.homeWrite (ownGrant own) (va / 64) (lineData (va % 64) bs) (byteMask (va % 64) bs.length) none
    match ep, s1.l2 (ownGrant own) (va / 64) none with
    | true, some l => s1.putL2 { l with poison := true }
    | _, _ => s1
  else
    let s1 := s0.physWrite pa bs
    let bad := if ep then addNew (pa / 64) s1.mem.bad else if bs.length = 64 then s1.mem.bad.filter (· != pa / 64) else s1.mem.bad
    { s1 with mem := { s1.mem with bad } }

/-! ### The mailbox window -/

/-- DEVSTAT (R366): BOOTERR, the hottest die, SECURE and READY; its reserved fields read 0 (R6). -/
def Mgmt.devstat (m : Mgmt) : Nat :=
  m.booterr * 2 ^ 8 + m.thermal.foldl max 0 * 2 ^ 2 + (if m.secure then 2 else 0) + if m.ready then 1 else 0

/-- A management register as a port reads it (R363, R366, R368), by its offset from 0x2000. ATTCTL.GO is write only and reads 0 (R5), as
do the words that hold no register. -/
def State.mgmtWord (s : State) (port off : Nat) : Nat :=
  let m := s.mgmt
  match off with
  | 0x00 => m.devstat
  | 0x04 => m.svn
  | 0x08 => s.now
  | 0x0C => (m.latch.getD port 0).toNat
  | 0x10 => m.cecnt.toNat
  | 0x14 => m.uecnt.toNat
  | 0x18 => (m.aperr.getD port 0).toNat
  | 0x1C => m.pktdrop.toNat
  | 0x20 => m.thrcnt.toNat
  | 0x30 => if m.done.getD port false then 2 else 0
  | _ => if 0x40 ≤ off && off < 0x60 then (Sparse.get ((off - 0x40) / 4) (m.nonce.getD port [])).toNat else 0

/-- An inbox index register as a port reads it (R283, R289): that of a context of the other port reads 0 (DESIGN CHOICE, log 74). -/
def State.inboxWord (s : State) (port ctx off : Nat) : Nat :=
  match s.ctx ctx with
  | none => 0
  | some x =>
    if x.r.port != port then 0
    else match off with | 0 => x.box.head | 4 => x.box.tail | 8 => x.box.seq | _ => 0

/-- A mailbox word (R291). -/
def Mbox.word (m : Mbox) (off : Nat) : Nat :=
  match off with
  | 0 => m.cmd
  | 4 => m.ctx
  | 8 => m.status.toNat
  | 12 => 0
  | _ => leNat (Sparse.getRun m.args (off - 16) 4)

/-- A word of a port's mailbox window (R283): the mailbox, the inbox registers, the management registers, the report; 0 elsewhere. -/
def State.windowWord (s : State) (port off : Nat) : Nat :=
  if off < 0x100 then (s.mbox port).word off
  else if 0x1000 ≤ off && off < 0x1400 then s.inboxWord port ((off - 0x1000) / 16) (off % 16)
  else if 0x2000 ≤ off && off < 0x2060 then s.mgmtWord port (off - 0x2000)
  else if 0x8000 ≤ off && off < 0xF520 then leNat ((((s.mgmt.reports.find port).getD []).drop (off - 0x8000)).take 4)
  else 0

/-- A read of CHRONO_LO latches the high bits for the port (R363). -/
def State.latchChrono (s : State) (port : Nat) : State :=
  { s with mgmt := { s.mgmt with latch := s.mgmt.latch.set port (BitVec.ofNat 32 (s.now / 2 ^ 32)) } }

/-- A host's read of one aligned word of the mailbox window. -/
def State.readWindow (s : State) (port off : Nat) : State :=
  if !s.portUp port || off % 4 != 0 || 0x10000 ≤ off then s.hostReply port [] false true
  else (if off = 0x2008 then s.latchChrono port else s).hostReply port (leBytes 4 (s.windowWord port off)) false false

/-- A host's read of the aperture returns zero (R283, R288). -/
def State.readAperture (s : State) (port off len : Nat) : State :=
  if !s.portUp port || 2 ^ 22 < off + len then s.hostReply port [] false true
  else s.hostReply port (List.replicate len 0) false false

/-- HOST_MEMORY_ACCESS (R283, R285, R322): outside the domain's chunks, and a write to a READONLY frame, it is an Unsupported Request
with no effect. A read may also be one of the aperture window, or of a word of the mailbox window. -/
def execHostMemoryAccess (port pa : Nat) (acc : HostAcc) (s : State) : Out :=
  match acc with
  | .aperture len => .next (s.readAperture port pa len)
  | .mailbox => .next (s.readWindow port pa)
  | .read len =>
    if !s.hostMay port pa len then .next (s.hostReply port [] false true)
    else
      let r := (linePieces len pa len).foldl (fun (a : State × List Byte × Bool) e =>
        let q := a.1.hostReadPiece e.1 e.2
        (q.1, a.2.1 ++ q.2.1, a.2.2 || q.2.2)) (s, [], false)
      .next (r.1.hostReply port r.2.1 r.2.2 false)
  | .write bs ep =>
    let ps := linePieces bs.length pa bs.length
    if !s.hostMay port pa bs.length || ps.any (fun e => ownState (s.ownerOf e.1) == 2) then .next (s.hostReply port [] false true)
    else .next (ps.foldl (fun (t : State) e => t.hostWritePiece e.1 ((bs.drop (e.1 - pa)).take e.2) ep) s)

/-! ### Management registers -/

/-- CHRONO_LO_READ (R363, R366): the low bits, and the high bits latched for the port. -/
def execChronoLoRead (port : Nat) (s : State) : Out :=
  .next (s.readWindow port 0x2008)

/-- REGISTER_WRITE (R366): a count takes the value written, after which the events of the same ck count; a word of the port's nonce likewise; any other register of the window is
read only or reserved, and ignores the write. -/
def execRegisterWrite (port : Nat) (reg : MgmtReg) (val : Word) (s : State) : Out :=
  if !s.portUp port then .next s
  else
    let m := s.mgmt
    match reg with
    | .cecnt => .next (s.writeCount .cecnt val)
    | .uecnt => .next (s.writeCount .uecnt val)
    | .aperr => .next (s.writeCount (.aperr port) val)
    | .pktdrop => .next (s.writeCount .pktdrop val)
    | .thrcnt => .next (s.writeCount .thrcnt val)
    | .attnonce w =>
      if w < 8 then .next { s with mgmt := { m with nonce := m.nonce.set port (Sparse.set w val (m.nonce.getD port [])) } } else .next s
    | .other _ => .next s

/-! ### Attestation -/

/-- ATTESTATION_GO (R368): clears DONE and queues a report; ignored while one for the port is in progress. -/
def execAttestationGo (port : Nat) (s : State) : Out :=
  if !s.portUp port || s.mgmt.queue.contains port then .next s
  else .next { s with mgmt := { s.mgmt with done := s.mgmt.done.set port false, queue := s.mgmt.queue ++ [port] } }

/-- Bytes cut or filled with zeros to a length. -/
def fitBytes (n : Nat) (bs : List Byte) : List Byte := bs.take n ++ List.replicate (n - bs.length) 0

/-- A domain entry's bytes (R284). -/
def Domain.bytes (d : Domain) : List Byte :=
  leBytes 1 (if d.enabled then 1 else 0) ++ leBytes 1 d.limit ++ leBytes 6 0 ++ leBytes 8 d.base ++ leBytes 8 d.size ++ leBytes 8 0

/-- The partition table's bytes, domain entries first (R284, R368). -/
def Part.bytes (p : Part) : List Byte :=
  p.dom.flatMap Domain.bytes ++ p.cores.flatMap (leBytes 1) ++ p.chunks.flatMap (leBytes 1)

/-- The signed part of a port's report (R368). -/
def State.reportBody (s : State) (port : Nat) : List Byte :=
  leBytes 4 0x41543445 ++ leBytes 4 1 ++ leBytes 8 s.now ++
  ((List.range 8).flatMap fun i => leBytes 4 (Sparse.get i (s.mgmt.nonce.getD port [])).toNat) ++ fitBytes 32 s.mgmt.fwHash ++
  leBytes 4 s.mgmt.svn ++ fitBytes 32 (Config.sha256 s.part.bytes) ++ leBytes 12 0 ++ fitBytes 64 Config.identityKey

/-- ATTESTATION_DONE (R368): the first queued report is written, signed and marked complete. -/
def execAttestationDone (s : State) : Out :=
  match s.mgmt.queue with
  | [] => .next s
  | port :: rest =>
    let body := s.reportBody port
    let rep := body ++ fitBytes 29792 (Config.slhSign body)
    .next { s with mgmt := { s.mgmt with queue := rest, done := s.mgmt.done.set port true, reports := s.mgmt.reports.put port rep } }

end Sys2Proof.Machine
end

