-- ==== Sys2Proof/Machine/Platform.lean ====
section
/-! DEFINITION. Errors, heat, resets, bring-up and firmware images (R322, R324, R325, R362 to R367). -/

namespace Sys2Proof.Machine

/-! ### Errors -/

/-- A count of UECNT (R366). -/
def State.countPoison (s : State) : State := s.count .uecnt

/-- A pack's record changed by an error, where the slot holds one. -/
def State.strikePack (s : State) (r : PackRef) (f : Pack → Pack) : State :=
  match s.pack r with
  | some p => (s.setPack r (f p)).countPoison
  | none => s

/-- ECC_ERROR (R322, R324, R325): a correctable error is corrected and counted; an uncorrectable one marks what it strikes. -/
def execEccError (site : EccSite) (s : State) : Out :=
  match site with
  | .corrected => .next (s.count .cecnt)
  | .hbm line =>
    if line < 2 ^ 33 then .next ({ s with mem := { s.mem with bad := addNew line s.mem.bad } } : State).countPoison else .next s
  | .l2 asid line =>
    let hit (l : L2Line) : Bool := l.asid == asid && l.line == line
    if s.mem.l2.any hit then
      .next ({ s with mem := { s.mem with l2 := s.mem.l2.map fun l => if hit l then { l with poison := true } else l } } : State).countPoison
    else .next s
  | .l1 core asid line =>
    let hit (l : L1Line) : Bool := l.asid == asid && l.line == line
    if (s.core core).l1.any hit then
      .next (s.modCore core fun c => { c with l1 := c.l1.map fun l => if hit l then { l with poison := true } else l }).countPoison
    else .next s
  | .frame r word => .next (s.strikePack r fun p => { p with m := { p.m with frameBad := addNew word p.m.frameBad } })
  | .const core img word =>
    if ((s.core core).st.consts.find img).isSome && !((s.core core).st.constBad.contains (img, word)) then
      .next (s.modCore core fun c => { c with st := { c.st with constBad := c.st.constBad ++ [(img, word)] } }).countPoison
    else .next s
  | .tile core pipe t =>
    if core < 192 && t < 16 && pipe < 4 then .next (s.modCore core fun c => c.setTile pipe t { (c.tile pipe t) with poison := true }).countPoison
    else .next s
  | .laneReg r reg lane => .next (s.strikePack r fun p => { p with r := { p.r with vBad := addNew (reg * 32 + lane) p.r.vBad } })
  | .uniReg r reg =>
    if reg = 0 then .next s else .next (s.strikePack r fun p => { p with r := { p.r with sBad := addNew reg p.r.sBad } })
  | .code core slot =>
    if core ≥ 192 then .next s
    else .next (s.modCore core fun c => { c with st := { c.st with codeBad := addNew slot c.st.codeBad } })
  | .priv r line =>
    if line < 2 ^ 13 then .next (s.strikePack r fun p => { p with m := { p.m with privBad := addNew line p.m.privBad } }) else .next s
  | .entry core n word =>
    match (s.core core).entries[n]? with
    | some e =>
      if word < 8 * e.area.2 then
        .next (s.modCore core fun c => { c with entries := c.entries.set n { e with bad := addNew word e.bad } }).countPoison
      else .next s
    | none => .next s

/-! ### Heat -/

/-- The state of a die by its hottest reading (R362): 0 normal, 1 throttled, 2 critical. It comes back at 2 degrees below the threshold
that it crossed, at 98 and at 108. -/
def heatOf (cur temp : Nat) : Nat :=
  if 110 ≤ temp || (cur = 2 && 108 < temp) then 2 else if 100 ≤ temp || (1 ≤ cur && 98 < temp) then 1 else 0

/-- THERMAL_STATE_CHANGE (R362): a change of state is counted and both ports are told. -/
def execThermalStateChange (die temp : Nat) (s : State) : Out :=
  let cur := s.mgmt.thermal.getD die 0
  let new := heatOf cur temp
  if die ≥ 4 || new = cur then .next s
  else
    let s1 := s.count .thrcnt
    .next { s1 with mgmt := { s1.mgmt with thermal := s1.mgmt.thermal.set die new }, io := { s1.io with msix := s1.io.msix ++ [(0, 0), (1, 0)] } }

/-! ### Resets and bring-up -/

/-- DEVICE_RESET (R363, R364): every state of the device at its reset value. Host memory, the fused version and the model's own
schedule lie outside the device. -/
def execDeviceReset (s : State) : Out :=
  let r := State.reset
  .next { r with agenda := s.agenda, freeCount := s.freeCount, mem := { r.mem with host0 := s.mem.host0, host1 := s.mem.host1 },
                 mgmt := { r.mgmt with svnFused := s.mgmt.svnFused } }

/-- The least security version that the ROM accepts (R367). -/
def State.minSvn (s : State) : Nat := max Config.fusedMinSvn s.mgmt.svnFused

/-- What the ROM finds of an image (R366, R367): 0 accepted, 1 bad signature, 2 rollback. -/
def State.bootCheck (s : State) (i : FwImage) : Nat :=
  if Config.sha256 i.pubKey != Config.fusedKeyHash || !Config.slhVerify i.pubKey i.body i.sig then 1
  else if i.svn < s.minSvn then 2 else 0

/-- An image verified (R365 step 2, R367): one that is accepted runs, and raises the fused minimum if it asks for that; one that fails
leaves SECURE = 0 and BOOTERR. An error that another step of bring-up has named stands. -/
def State.takeImage (s : State) (i : FwImage) : State :=
  match s.bootCheck i with
  | 0 => { s with mgmt := { s.mgmt with
      booterr := if s.mgmt.booterr ≤ 2 then 0 else s.mgmt.booterr, secure := true, svn := i.svn, fwHash := Config.sha256 i.body,
      svnFused := if i.raise then max s.mgmt.svnFused i.svn else s.mgmt.svnFused, boot := max s.mgmt.boot 2 } }
  | e => { s with mgmt := { s.mgmt with booterr := if s.mgmt.booterr ≤ 2 then e else s.mgmt.booterr, secure := false } }

/-- FIRMWARE_IMAGE_UPDATE (R367): an image through the management port is verified as at boot, and bring-up goes on where it had stopped. -/
def execFirmwareImageUpdate (i : FwImage) (s : State) : Out := .next (s.takeImage i)

/-- The next step of bring-up ends (R365): the ROM verifies the image in flash; HBM is trained and scrubbed, which writes every line as zero with good
ECC, errors 3 and 4; the Plaoz
ports that have a partner have trained, error 5 (log 72); the host ports train and their windows enumerate, error 6. A step that fails is
named, and bring-up stops. -/
def State.bootMove (s : State) (err : Nat) : State :=
  let m := s.mgmt
  let ended : State := { s with mgmt := { m with boot := m.boot + 1 } }
  let failed : State := { s with mgmt := { m with booterr := err } }
  if m.ready || m.booterr != 0 then s
  else match m.boot with
    | 1 => s.takeImage Config.flashImage
    | 2 => if err = 0 then { ended with mem := { ended.mem with hbm := [], bad := [] } } else if err = 3 || err = 4 then failed else s
    | 3 =>
      if err = 5 then failed
      else if err = 0 && (bitsOf Config.linkedPorts 16).all (fun i => match s.io.links.find i with | some l => l.up | none => false) then ended
      else s
    | 4 => if err = 0 then { ended with io := { s.io with up := [true, true] } } else if err = 6 then failed else s
    | _ => s

/-- DEVICE_READY (R364 to R366): step 6 of bring-up, after every other. -/
def execDeviceReady (s : State) : Out :=
  if s.mgmt.ready || s.mgmt.booterr != 0 || s.mgmt.boot < 5 then .next s
  else .next { s with
      mgmt := { s.mgmt with ready := true }
      io := { s.io with msix := s.io.msix ++ [(0, 0), (1, 0)]
                        mbox := s.io.mbox.map fun b => { b with status := b.status &&& 0xFFFF7FFF } } }

/-- PORT_RESET (R364): the port's link trains again, and its latch (R363) goes; no context is affected. -/
def execPortReset (port : Nat) (s : State) : Out :=
  .next { s with io := { s.io with up := s.io.up.set port (5 ≤ s.mgmt.boot) }, mgmt := { s.mgmt with latch := s.mgmt.latch.set port 0 } }

end Sys2Proof.Machine
end

