-- ==== Sys2Proof/Machine/Teardown.lean ====
section
/-! DEFINITION. Teardown: DESTROY and its end (R255, R264, R270, R299, R348, R358, R359). -/

namespace Sys2Proof.Machine

/-! ### The work of a context -/

/-- A token of a context. -/
def Tok.of (t : Tok) (ctx : Nat) : Bool := t.ctx == ctx

/-- The packs of a context, with their slots. -/
def State.packsOf (s : State) (ctx : Nat) : List (PackRef × Pack) :=
  s.cores.flatMap fun e => (e.2.packs.filter fun q => q.2.id.ctx == ctx).map fun q =>
    ({ core := e.1, pipe := q.1 / 16, slot := q.1 % 16 }, q.2)

/-- Tokens of a context that a core holds outside its matching store. -/
def Core.looseToks (c : Core) (ctx : Nat) : Nat :=
  (c.arriving.filter fun t => t.of ctx).length + (c.spill.filter fun t => t.of ctx).length +
  (c.intake.map fun e => (e.2.filter fun t => t.1.of ctx).length).sum +
  ((c.outbound ++ c.raised).filter fun t => t.tok.of ctx && !c.heldByRecord t).length

/-- The sum of a count over the cores. -/
def State.coreSum (s : State) (f : Core → Nat) : Nat := (s.cores.map fun e => f e.2).sum

/-- A trapped pack, or one that is being resumed (R310). -/
def Pack.isTrapped (p : Pack) : Bool := p.c.st == .trapped

/-- The counts of the teardown record that are known as DESTROY begins (R359). -/
def State.tearCounts (s : State) (ctx : Nat) (x : Ctx) : Teardown :=
  let ps := (s.packsOf ctx).filter fun e => e.2.id.colour.isNone
  let sv {α : Type} (f : Save → List α) : Nat := match x.save with | some v => (f v).length | none => 0
  { x.tear with
    packs := (ps.filter fun e => !e.2.isTrapped).length
    trapped := (ps.filter fun e => e.2.isTrapped).length + sv (fun v => v.packs) + x.restore.length
    entries := s.coreSum (fun c => (c.entries.filter fun e => e.ctx == ctx).length) + sv fun v => v.entries
    tokens := s.coreSum (fun c => c.looseToks ctx) + ((s.io.wait ++ s.io.hwait).filter fun t => t.of ctx).length + (s.io.lwait.filter fun t => t.1.of ctx).length +
      (s.returns.filter fun r => r.ctx == ctx).length + x.box.places.length + x.arrivals.length + sv fun v => v.tokens
    copies := s.coreSum (fun c => (c.copies.filter fun q => q.2.ctx == ctx && !q.2.isOpen).length) +
      sv fun v => v.copies.filter fun q => !q.2.isOpen
    records := s.coreSum (fun c => (c.wake.filter fun w => w.2.ctx == ctx && w.2.isOpen).length + (c.copies.filter fun q => q.2.ctx == ctx && q.2.isOpen).length) +
      sv (fun v => v.wakes.filter fun e => e.2.isOpen) + sv fun v => v.copies.filter fun q => q.2.isOpen
    releases := s.coreSum (fun c => (c.outbound.filter fun t => t.tok.of ctx && c.heldByRecord t).length) + sv fun v => v.outbound
    spawns := s.coreSum (fun c => ((c.alloc ++ c.spawned).filter fun q => q.ctx == ctx).length) + sv fun v => v.spawns
    recipes := x.recipes.length }

/-! ### What DESTROY discards at once -/

/-- The identities of the store records of a context (R314, R315). -/
def Core.recordUids (c : Core) (ctx : Nat) : List Nat :=
  (c.wake.filter fun w => w.2.ctx == ctx && (w.2.st == .faulted || w.2.st == .replaying)).map fun w => w.2.uid

/-- The helm without a context (R226, R228): it keeps no bypass of its packs, and the turn passes on from it. -/
def Helm.without (h : Helm) (ctx : Nat) : Helm :=
  { h with bypass := h.bypass.filter fun e => e.1.1 != ctx, turns := h.turns.map fun e => (e.1, if e.2.1 = ctx then (ctx, 15) else e.2) }

/-- The tokens, instances, bins and requests of a context dropped from a core; its trapped packs freed; its fault records discarded, with
the stores held behind one (R358). A store that waits for an access that is still to be performed stays: it is issued, and waits for its
receipt (R314). -/
def Core.discardCtx (c : Core) (ctx : Nat) : Core :=
  let recs := c.recordUids ctx
  ({ c with
    entries := c.entries.filter fun e => e.ctx != ctx
    bins := c.bins.filter fun b => b.2.ctx != ctx
    closed := c.closed.filter fun k => k.1 != ctx
    arriving := c.arriving.filter fun t => !t.of ctx
    spill := c.spill.filter fun t => !t.of ctx
    intake := c.intake.map fun e => (e.1, e.2.filter fun t => !t.1.of ctx)
    outbound := c.outbound.filter fun t => !t.tok.of ctx
    raised := c.raised.filter fun t => !t.tok.of ctx
    alloc := c.alloc.filter fun q => q.ctx != ctx
    spawned := c.spawned.filter fun q => q.ctx != ctx
    helm := c.helm.without ctx
    wake := c.wake.filter fun w => w.2.ctx != ctx || w.2.st == .pending ||
      (w.2.st == .held && !(w.2.conds.any fun k => k.uids.any fun u => recs.contains u)) } : Core).pumpAlloc

/-- Every core settled after a discard: spill areas that have room again, link tokens for which an intake queue has, and host tokens that
a core accepts (R229 to R231). -/
def State.refillCores (s : State) : State :=
  (s.cores.foldl (fun (t : State) e => (t.signalSpill e.1).refillAll e.1) s).admitHost

/-- The held marks of an ASID's lines cleared (R358). -/
def State.clearHeld (s : State) (asid : Nat) : State :=
  { s with mem := { s.mem with l2 := s.mem.l2.map fun l => if l.asid == asid then { l with held := false } else l } }

/-- Every copy of a context stopped after the word it moves (R358). -/
def State.stopCopies (s : State) (ctx : Nat) : State :=
  (s.cores.flatMap fun e => (e.2.copies.filter fun q => q.2.ctx == ctx).map fun q => (e.1, q.1, q.2)).foldl
    (fun (t : State) e => t.endCopy e.1 e.2.1 e.2.2) s

/-- Accesses of an ASID parked at a Retriever given up. -/
def State.giveUpParked (s : State) (asid : Nat) : State :=
  let core (c : Core) : Core :=
    (c.slots.filter fun e => e.2.parked && e.2.asid == asid).foldl
      (fun (k : Core) e => { (k.resolve e.1 fun _ => .fail 10 0) with slots := k.slots.del e.1 }) c
  { s with cores := s.cores.map fun (e : Nat × Core) => (e.1, core e.2) }

/-- Queued misses of a context, and regenerations that have not entered REGEN, discarded (R348). -/
def State.dropMisses (s : State) (ctx : Nat) (x : Ctx) : State :=
  (x.recipes.filter fun e => e.2.st != .regen).foldl (fun (t : State) e => t.unqueue ctx e.1) s

/-- The pages of 2 MiB that hold a context's save image, or are reserved for one (R354). -/
def Ctx.savedPages (x : Ctx) : List Nat :=
  (match x.save with | some v => v.pages | none => []) ++ (match x.cut with | some k => k.pages | none => [])

/-- DESTROY acts (R349, R358): firing stops, and what can be discarded at once is. -/
def State.destroy (s : State) (ctx : Nat) (x : Ctx) : State :=
  let s1 := s.modCtx ctx fun y =>
    { y with st := .ending, cut := none, save := none, restore := [], arrivals := [], areaPages := [], returns := [], box := { y.box with places := [] },
             tear := s.tearCounts ctx x }
  let s2 := ((s1.packsOf ctx).filter fun e => e.2.isTrapped && e.2.id.colour.isNone).foldl (fun (t : State) e => t.freePack e.1 e.2) s1
  let s3 := (((s2.stopCopies ctx).giveUpParked x.r.asid).dropMisses ctx x).clearHeld x.r.asid
  ({ s3 with
    cores := s3.cores.map fun (e : Nat × Core) => (e.1, e.2.discardCtx ctx)
    returns := s3.returns.filter fun r => r.ctx != ctx
    part := ((s3.dropPages x.savedPages).dropFrames x.areaPages).part
    io := { s3.io with wait := s3.io.wait.filter (fun t => !t.of ctx), hwait := s3.io.hwait.filter (fun t => !t.of ctx)
                       lwait := s3.io.lwait.filter fun t => !t.1.of ctx }
    launches := s3.launches.filter fun l => l.ctx != ctx } : State).refillCores

/-- The receive slots of link tokens that DESTROY discards go back (R294). -/
def State.freeLinkSlots (s : State) (ctx : Nat) : State :=
  (s.io.lwait.filter fun t => t.1.of ctx).foldl (fun (t : State) e => t.giveSlot e.2.2.2 e.2.2.1) s

/-- DESTROY (R358): accepted in any state; STATUS is written when the teardown is complete. -/
def execDestroy (c : Cmd) (s : State) : Out :=
  ctxCommand s 2 c [] fun t x => (t.freeLinkSlots c.ctx).destroy c.ctx x

/-! ### The end of a teardown -/

/-- What is left of a context's work must run out first: recomputes, engine work, deferred results, receipts (R348, R358). -/
def State.tornDown (s : State) (ctx asid : Nat) : Bool :=
  s.cores.all fun e =>
    let c := e.2
    (c.packs.filter fun q => q.2.id.ctx == ctx).all (fun q =>
      q.2.id.colour.isNone && q.2.c.deferred.all Deferred.resolved && !((c.pipe (q.1 / 16)).queue.any fun o => o.serial == q.2.id.serial)) &&
    c.wake.all (fun w => w.2.ctx != ctx) && c.flights.all (fun f => f.asid != asid) && c.slots.all fun k => k.2.asid != asid

/-- A leaf found in the tables: where it stands, its value, its page and its size. -/
structure LeafAt where
  at_ : Nat
  val : Nat
  va  : Nat
  big : Bool
deriving DecidableEq, Repr

/-- The valid entries of a table: index and value. -/
def State.validEntries (s : State) (base n : Nat) : List (Nat × Nat) :=
  ((List.range n).map fun i => (i, s.entry64 (base + 8 * i))).filter fun e => e.2 % 2 == 1

/-- The tables below a root, and the leaves that map a page (R262). -/
def State.tree (s : State) (root : Nat) : List Nat × List LeafAt :=
  let l2 := (s.validEntries root 512).map fun e => (e.1, ptrNext e.2)
  let l3 := l2.flatMap fun t => (s.validEntries t.2 512).map fun e => (t.1 * 512 + e.1, ptrNext e.2)
  let es := l3.flatMap fun t => (s.validEntries t.2 512).map fun e => (t.1 * 512 + e.1, t.2 + 8 * e.1, e.2)
  let big := (es.filter fun e => fld e.2.2 1 1 == 1).map fun e => ({ at_ := e.2.1, val := e.2.2, va := e.1 * 2 ^ 21, big := true } : LeafAt)
  let l4 := (es.filter fun e => fld e.2.2 1 1 == 0).map fun e => (e.1, ptrNext e.2.2)
  let small := l4.flatMap fun t => (s.validEntries t.2 32).map fun e =>
    ({ at_ := t.2 + 8 * e.1, val := e.2, va := t.1 * 2 ^ 21 + e.1 * 2 ^ 16, big := false } : LeafAt)
  ([root] ++ l2.map Prod.snd ++ l3.map Prod.snd ++ l4.map Prod.snd, big ++ small)

/-- The leaf under which a line stands, if one maps it. -/
def State.lineLeaf (s : State) (x : Ctx) (line : Nat) : Option Nat :=
  match s.walk x.root (line * 64) with | .leaf _ v _ => some v | _ => none

/-- The dirty lines of a context on pages with SH = 1 written to HBM, the others discarded; no line of its ASID is left (R255, R264,
R358): the state with the numbers of lines written and discarded. -/
def State.drainLines (s : State) (x : Ctx) : State × Nat × Nat :=
  let ds := s.mem.l2.filter fun l => l.asid == x.r.asid && (l.dirty != 0 || !l.ops.isEmpty)
  let shared (l : L2Line) : Bool := l.colour.isNone && (match s.lineLeaf x l.line with | some v => fld v 4 4 == 1 | none => false)
  let out := ds.filter shared
  let s1 := out.foldl (fun (t : State) l => t.writeBack l) s
  let s2 : State := { s1 with mem := { s1.mem with l2 := s1.mem.l2.filter (fun l => l.asid != x.r.asid),
                                                   tc := s1.mem.tc.filter fun e => e.asid != x.r.asid } }
  (s2.dropL1 fun l => l.asid == x.r.asid, out.length, ds.length - out.length)

/-- Every page of a context unmapped, with its tables given back (R270 step 3; GRANT is kept, log 25). -/
def State.unmapAll (s : State) (x : Ctx) : State :=
  let t := s.tree x.root
  let s1 := t.2.foldl (fun (u : State) e =>
    let pa := leafPa e.val e.big e.va
    let u1 := u.setEntry64 e.at_ 0
    if paHbm pa then (framesOf pa (if e.big then 2 ^ 21 else 2 ^ 16)).foldl (fun (w : State) f => w.ownUnmap f) u1 else u1) s
  t.1.foldl (fun (u : State) a => u.giveTable a) s1

/-- The regeneration frames of a context freed without any write, and its Retrievers' work ended (R348). -/
def State.endRegens (s : State) (ctx : Nat) : State :=
  let mine (g : Regen) : Bool := g.ctx == ctx
  let gs := s.retr.flatMap fun e => e.2.stack.filter mine
  let busy (g : Regen) : Bool := match g.phase with | .sources | .frame => false | _ => true
  let s1 := (gs.filter busy).foldl (fun (t : State) g => t.setOwner g.frame (mkOwner 0 (ownGrant (t.ownerOf g.frame)) 0 0)) s
  let own (q : Retriever) : Bool := match q.stack with | g :: _ => mine g | [] => false
  let gone := s.retr.flatMap fun e => if own e.2 then e.2.colour.toList else []
  { s1 with
    retr := s1.retr.map fun e => (e.1, { e.2 with queue := e.2.queue.filter (fun q => q.1 != ctx), stack := e.2.stack.filter (fun g => !mine g),
                                                  colour := if own e.2 then none else e.2.colour })
    level7 := s1.level7.filter fun c => !gone.contains c
    misses := s1.misses.filter fun m => m.ctx != ctx }

/-- The bytes of a teardown record (R359); a count saturates. -/
def Teardown.bytes (t : Teardown) (ctx asid now : Nat) : List Byte :=
  let w (n : Nat) : List Byte := leBytes 4 (min n 0xFFFFFFFF)
  leBytes 4 (ctx % 64 + asid % 4096 * 2 ^ 16) ++ w t.packs ++ w t.trapped ++ w t.entries ++ w t.tokens ++ w t.late ++ w t.copies ++
  w t.records ++ w t.releases ++ w t.spawns ++ w t.written ++ w t.dropped ++ w t.recipes ++ leBytes 4 0 ++ leBytes 8 now

/-- The slots, images and stores of a context gone from the device. -/
def State.unbindAll (s : State) (ctx asid : Nat) : State :=
  let hs := (s.images.filter fun e => e.2.ctx == ctx).map Prod.fst
  { s with
    blocks := s.blocks.filter fun e => e.2.ctx != ctx
    images := s.images.filter fun e => e.2.ctx != ctx
    cores := s.cores.map fun (e : Nat × Core) => (e.1, { e.2 with
      st := { e.2.st with consts := e.2.st.consts.filter (fun k => !hs.contains k.1), constBad := e.2.st.constBad.filter fun k => !hs.contains k.1 }
      streams := e.2.streams.filter (fun k => k.asid != asid), ghosts := e.2.ghosts.filter fun g => g.ctx != ctx }) }

/-- TEARDOWN_COMPLETE (R255, R348, R358, R359): when nothing of the context runs any more, what the copies of its recompute packs are still
moving stops, its packs are freed, its lines written or
discarded, its pages unmapped, its number and ASID freed, and DESTROY ends with the teardown record. -/
def execTeardownComplete (ctx : Nat) (s : State) : Out :=
  match s.ctx ctx with
  | none => .next s
  | some x =>
    if x.st != .ending || !(s.tornDown ctx x.r.asid) then .next s
    else
      let late := s.coreSum fun c => c.looseToks ctx
      let left (f : Copy → Bool) : Nat := s.coreSum fun c => (c.copies.filter fun q => q.2.ctx == ctx && f q.2).length
      let s1 := (s.packsOf ctx).foldl (fun (t : State) e => t.freePack e.1 e.2) (s.stopCopies ctx)
      let s2 := { s1 with cores := s1.cores.map fun (e : Nat × Core) => (e.1, e.2.discardCtx ctx) }
      let d := s2.drainLines x
      let s3 := ((d.1.endRegens ctx).unmapAll x).unbindAll ctx x.r.asid
      let rec_ := { x.tear with written := d.2.1, dropped := d.2.2, late := x.tear.late + late
                                copies := x.tear.copies + left (fun q => !q.isOpen), records := x.tear.records + left Copy.isOpen }
      let s4 := (({ s3 with ctxs := s3.ctxs.del ctx } : State).dropPages x.recPages).refillCores
      .next (s4.mboxEnd x.r.port MCode.done (rec_.bytes ctx x.r.asid s.now))

end Sys2Proof.Machine
end

