-- ==== Sys2Proof/Machine/SaveImage.lean ====
section
/-! DEFINITION. The save image as bytes in its frames: the header and the sections in the order of R354. Within a section the counts and the
layouts that the spec does not give are the model's (DESIGN CHOICE, log 27). -/

namespace Sys2Proof.Machine

/-- Words as bytes (R4). -/
def wordsLe (ws : List Word) : List Byte := ws.flatMap fun w => leBytes 4 w.toNat

/-- Records after their number. -/
def section_ {α : Type} (xs : List α) (f : α → List Byte) : List Byte := leBytes 4 xs.length ++ xs.flatMap f

/-- A token record of 64 bytes (R229, R354). -/
def Tok.record (t : Tok) : List Byte :=
  leBytes 8 t.tag.toNat ++ wordsLe ((List.range 8).map fun i => t.pay.getD i 0) ++ leBytes 2 t.slot ++ leBytes 1 t.port ++
  leBytes 1 t.pay.length ++ leBytes 1 t.ctx ++ leBytes 1 (acqCode t.rel + if t.handler then 128 else 0) ++ leBytes 1 t.src ++
  leBytes 1 t.core ++ leBytes 8 t.bearing.toNat ++ leBytes 8 0

/-- A matching entry (R218), and the payload of each port it has (R354). -/
def Entry.record (e : Entry) : List Byte :=
  leBytes 16 e.bits.toNat ++ (bitsOf e.pres 4).flatMap fun i => wordsLe (Sparse.getRun e.pay (8 * i) 8)

/-- The handles of the records that hold a token (R188, R316, R354). -/
def State.holders (s : State) (t : OutTok) : List Nat :=
  let in_ (w : Wake) : Bool := w.isOpen && t.conds.any fun k => k.uids.contains w.uid
  s.cores.flatMap fun e => (e.2.wake.filter fun w => in_ w.2).map fun w => recordHandle false e.1 w.1

/-- A queued SPAWN request with its fields (R232, R354). -/
def SpawnReq.record (q : SpawnReq) : List Byte :=
  leBytes 1 q.level ++ leBytes 1 q.port ++ leBytes 1 q.rport ++ leBytes 1 q.pay.length ++ leBytes 2 q.slot ++ leBytes 2 q.rslot ++
  leBytes 8 q.index ++ wordsLe ((List.range 8).map fun i => q.pay.getD i 0) ++ leBytes 8 q.parent.toNat ++ leBytes 8 q.bearing.toNat ++
  leBytes 4 (match q.granted with | some c => c + 2 ^ 16 | none => 0)

/-- The bytes of a line at its home slice, which are its held bytes where it is held (R188). -/
def State.lineBytes (s : State) (asid line : Nat) (colour : Option Nat) : List Byte :=
  match s.l2 asid line (s.lineColour asid (line * 64) colour) with
  | some l => Sparse.getRun l.data 0 64
  | none => List.replicate 64 0

/-- The fault records of a context in handle order, stores before copies, each with the bytes of its held line (R315, R316, R354). -/
def State.recordBytes (s : State) (ctx : Nat) : List Byte :=
  let ws := s.cores.flatMap fun e => (e.2.wake.filter fun w => w.2.ctx == ctx).map fun w => (recordHandle false e.1 w.1, w.2)
  let qs := s.cores.flatMap fun e => (e.2.copies.filter fun q => q.2.ctx == ctx).map fun q => (recordHandle true e.1 q.1, q.2)
  section_ ws (fun e => wordsLe (s.storeRecWords e.1 e.2) ++ s.lineBytes e.2.asid (e.2.va / 64) e.2.colour) ++
    section_ qs fun e => wordsLe (copyRecWords e.1 e.2) ++ List.replicate 64 0

/-- Lane-striped words of a pack by word, of its first n columns, with a mask of the poisoned ones (R26, R322). -/
def columnBytes (m : Sparse 32) (words n : Nat) (bad : List Nat) : List Byte :=
  wordsLe ((List.range words).flatMap fun i => Sparse.getRun m (32 * i) n) ++ leBytes (4 * words) (maskOf bad)

/-- An entry of an engine queue. -/
def EngOp.record (o : EngOp) : List Byte :=
  ((List.range 2).flatMap fun i => leBytes 4 ((encode o.instr).getD i 0)) ++ leBytes 4 o.w0 ++ leBytes 4 o.w1

/-- A saved pack: its frame, its tiles as a dump shows them, its frame columns and its private words, and what its engine queue held
(R308, R354). -/
def State.packBytes (s : State) (q : SavedPack) : List Byte :=
  let dump (e : Nat × Tile) : List Byte := match q.dumps.find e.1 with | some d => Sparse.getRun d 0 16384 | none => Sparse.getRun e.2.data 0 16384
  Sparse.getRun q.frame 0 16384 ++ section_ q.tiles dump ++
    columnBytes q.pack.m.frame (s.frameWords q.pack.id.slot) q.pack.id.n q.pack.m.frameBad ++
    columnBytes q.pack.m.priv (s.privWords q.pack.id.slot) 32 q.pack.m.privBad ++ section_ q.queue EngOp.record

/-- A mask of cores. -/
def coreMask (cs : List Nat) : Nat := (cs.map fun c => 2 ^ c).sum

/-- The 64-byte header (R354). -/
def Save.header (v : Save) (arrivals : Nat) : List Byte :=
  leBytes 4 0x53563445 ++ leBytes 2 1 ++ leBytes 1 (if v.settled then 1 else 0) ++ leBytes 1 0 ++ leBytes 8 v.cut ++ leBytes 24 (coreMask v.cores) ++
  leBytes 4 arrivals ++ leBytes 20 0

/-- The save image of a context (R354), as the state at step 8 gives it; the arrival area lies in pages of its own. -/
def State.imageBytes (s : State) (ctx : Nat) (x : Ctx) (v : Save) : List Byte :=
  v.header x.arrivals.length ++
  section_ v.entries (fun e => e.2.2.record) ++
  section_ v.closed (fun k => leBytes 4 k.1 ++ leBytes 4 k.2) ++
  section_ v.tokens Tok.record ++
  section_ v.outbound (fun e => e.2.tok.record ++ section_ (s.holders e.2) (leBytes 4)) ++
  section_ x.pools (fun e => leBytes 4 (e.1 * 2 ^ 13 + e.2)) ++ section_ v.spawns (fun e => e.2.record) ++
  s.recordBytes ctx ++
  section_ v.packs s.packBytes ++
  section_ v.misses fun e => leBytes 4 e.1 ++ leBytes 8 e.2.1 ++ leBytes 8 e.2.2.toNat

/-- Bytes written to pages of 2 MiB, one after another. -/
def State.writePages (s : State) (pages : List Nat) (bs : List Byte) : State :=
  (pages.zipIdx).foldl (fun (t : State) e => t.physWrite (e.1 * 2 ^ 21) ((bs.drop (e.2 * 2 ^ 21)).take (2 ^ 21))) s

/-- The most bytes that an image of n cores holds for each of them, by what limits each section: the matching store (R218), the spill area and the
intake queues (R229, R230), the outbound queue with every record as a holder (R239, R316), the allocator queue, the records, the packs with
their tiles, their frame columns in the 4 MiB of frame memory and their engine queues (R23, R25, R221), and the parked accesses of 64 packs and 64
copies on every recipe tile (R306, R328). -/
def coreBound (n : Nat) : Nat :=
  16384 * 144 + (262144 + 256) * 64 + 512 * (68 + 4 * (512 + 64) * n) + 64 * 68 + (512 + 64) * 132 +
  64 * (16384 + 16) + 64 * (16384 + 4) + 2 ^ 22 + 2 ^ 17 + 64 * 16 + (64 * 16 * 32 + 64 * 8192) * 20

/-- The upper bound of the image of a context, in pages of 2 MiB (R354): what its cores hold, its private pool (R273), a close mark of every colour
for each ordered block, its colour pools, and requests that wait since an earlier RESUME. -/
def State.imageBound (s : State) (ctx : Nat) (x : Ctx) : Nat :=
  let ordered := (s.blocks.filter fun b => b.2.ctx == ctx && b.2.ordered).length
  let bytes := 4096 + coreBound x.cores.length * x.cores.length + x.privSize * 33 / 32 + ordered * 2 ^ 16 * 8 + 7 * 2 ^ 13 * 4 +
    s.coreSum (fun c => c.spawned.length) * 68
  (bytes + 2 ^ 21 - 1) / 2 ^ 21

/-! ### The parked accesses -/

/-- A Retriever's queue with the misses on their way to it (R337). -/
def State.missQueue (s : State) (ctx : Nat) : List (Nat × Nat) :=
  (s.retr.flatMap fun e => (e.2.queue.filter fun q => q.1 == ctx).map fun q => (e.1, q.2)) ++
    (s.misses.filter fun m => m.ctx == ctx).map fun m => (m.die, m.rix)

/-- The packs with loads, atomics or copies parked on a tile, by the bearing of the instruction (R354). -/
def State.parkedOn (s : State) (ctx tile : Nat) : List DWord :=
  s.cores.flatMap fun e =>
    let on (l : DefLane) : Bool := match l.res with
      | .wait n => (match e.2.slots.find n with | some k => k.parked && k.line / 1024 == tile / 2 ^ 16 | none => false)
      | _ => false
    ((e.2.packs.filter fun q => q.2.id.ctx == ctx).flatMap fun q =>
      (q.2.c.deferred.filter fun d => d.lanes.any on).map fun d => q.2.bearing { core := e.1, pipe := q.1 / 16, slot := q.1 % 16 } d.idx 0) ++
    (e.2.copies.filter fun q => q.2.ctx == ctx && q.2.parked.any fun j => s.readsTile e.1 tile q.2 j).map fun q => q.2.bearing

/-- The parked accesses of a context's queued misses, in the order of their Retrievers' queues, by die, tile and bearing (R348, R354). -/
def State.savedMisses (s : State) (ctx : Nat) (x : Ctx) : List (Nat × Nat × DWord) :=
  (s.missQueue ctx).flatMap fun e => match x.recipes.find e.2 with
    | some t => (s.parkedOn ctx t.tile).map fun b => (e.1, t.tile, b)
    | none => []

end Sys2Proof.Machine
end

