-- ==== Sys2Proof/Machine/Preempt.lean ====
section
/-! DEFINITION. Pre-emption: PREEMPT, the cut, the save image and settling (R349 to R355). -/

namespace Sys2Proof.Machine

/-! ### Step 2: the packs -/

/-- A dropped tile that a parked access waits for is not in REGEN (R351). -/
def State.queuedTile (s : State) (ctx tile : Nat) : Bool :=
  match s.ctx ctx with
  | none => true
  | some x => match x.tileRec (tile / 2 ^ 16 * 2 ^ 16) with | some (_, t) => t.st != .regen | none => true

/-- A lane of a deferred result waits for an access parked at a Retriever on a tile that is not in REGEN. -/
def State.laneParked (s : State) (core ctx : Nat) (l : DefLane) : Bool :=
  match l.res with
  | .wait n => match (s.core core).slots.find n with | some sl => sl.parked && s.queuedTile ctx (sl.line * 64) | none => false
  | _ => true

/-- The words of a copy that are still to be moved. -/
def Copy.todo (q : Copy) : List Nat := (List.range q.words).filter fun j => !q.done.contains j && !q.bad.any fun b => b.1 == j

/-- A word of a copy stands parked at a Retriever, on a tile that is not in REGEN. -/
def State.wordParked (s : State) (core : Nat) (q : Copy) (j : Nat) : Bool :=
  q.parked.contains j && match (s.copySource core q j).2.2 with
    | .parked _ c r => (match s.recOf c r with | some (_, t) => t.st != .regen | none => true)
    | _ => false

/-- A copy stands with every word that is left parked at a Retriever, on tiles that are not in REGEN (R351, R354); a remote copy sends no
word while one is parked. -/
def State.copyParked (s : State) (core : Nat) (q : Copy) : Bool :=
  q.st == .moving && !q.todo.isEmpty && (if q.mode = .remote then !q.parked.isEmpty && q.parked.all (s.wordParked core q)
    else q.todo.all (s.wordParked core q))

/-- The engine entries of a pack stand behind one of them that is held behind a CPY.t, and the engine runs none of them (R148, R150): what it
can still do of the pack is done (R350 step 3). -/
def Core.engineStands (c : Core) (pipe serial : Nat) : Bool :=
  let q := c.pipe pipe
  match q.queue.find? fun o => o.serial == serial with
  | none => true
  | some o => c.engineHeld o && q.run != some o.uid

/-- A pack is parked at a W point, BWAIT or END only because of accesses queued at a Retriever (R351). -/
def State.packParked (s : State) (r : PackRef) (p : Pack) : Bool :=
  let waits := p.c.deferred.filter fun d => !d.resolved
  let cps := ((s.core r.core).copies.filter fun q => q.2.serial == p.id.serial && q.2.mode == .t).map Prod.snd
  let at_ := match p.c.wait with
    | none => s.atPoint p && !waits.isEmpty
    | some w => match w.instr with | .bwait _ | .endBlock => true | _ => false
  p.c.st == .run && at_ && !((s.core r.core).hasLate (pkey r)) && !(waits.isEmpty && cps.isEmpty) && waits.all (fun d => d.lanes.all (s.laneParked r.core p.id.ctx)) &&
    cps.all (fun q => s.copyParked r.core q) && (s.core r.core).engineStands r.pipe p.id.serial

/-- A pack is dealt with at the cut: trapped, or parked as R351 saves it. -/
def State.packCut (s : State) (r : PackRef) (p : Pack) : Bool :=
  (p.c.st == .trapped && p.c.resume.isNone) || s.packParked r p

/-- Step 2 of the cut has ended (R350, R351): recompute packs run to their end in step 5 (R348). -/
def State.drainedCut (s : State) (ctx : Nat) : Bool := (s.packsOf ctx).all fun e => e.2.id.colour.isSome || s.packCut e.1 e.2

/-! ### Steps 3 to 6 -/

/-- A fault or trap token that the cut discards (R353): a trap's, or one of causes 32 and 33. -/
def Tok.dies (t : Tok) : Bool := t.handler && (t.pay.getD 1 0).toNat % 256 ≤ 33
/-- A handler instance whose token the cut discards (R353). -/
def Entry.dies (e : Entry) : Bool := e.handler && (Sparse.get 1 e.pay).toNat % 256 ≤ 33

/-- A token of a context in an outbound queue can leave (R350 step 6). -/
def State.leaves (s : State) (ctx : Nat) (t : OutTok) : Bool := t.tok.of ctx && t.conds.all s.met

/-- Steps 3 to 6 of the cut have ended for a core (R350): engines, copies, receipts, and outbound tokens whose release holds. A store that
waits behind a fault record is saved with it (DESIGN CHOICE, log 27). -/
def State.coreQuiet (s : State) (ctx core : Nat) (c : Core) : Bool :=
  c.packs.all (fun q => q.2.id.ctx != ctx || c.engineStands (q.1 / 16) q.2.id.serial) &&
  c.copies.all (fun q => q.2.ctx != ctx || q.2.st == .faulted || s.copyParked core q.2) &&
  c.wake.all (fun w => w.2.ctx != ctx || w.2.st == .faulted || (w.2.st == .held && !(w.2.conds.all s.met))) &&
  c.outbound.all (fun t => !s.leaves ctx t) && c.raised.all (fun t => !t.tok.of ctx || t.tok.dies) && c.arriving.all fun t => !t.of ctx

/-- Everything before the markers has ended (R348, R350). -/
def State.quietCut (s : State) (ctx : Nat) (x : Ctx) : Bool :=
  s.cores.all (fun e => s.coreQuiet ctx e.1 e.2) && (s.packsOf ctx).all (fun e => e.2.id.colour.isNone) && s.returns.all (fun r => r.ctx != ctx) && x.recipes.all fun e => e.2.st != .regen

/-! ### Step 7: markers -/

/-- The ports that are up. -/
def State.upPorts (s : State) : List Nat := (s.io.links.filter fun e => e.2.up).map Prod.fst

/-- One marker flit on each of VCs 3 to 7 of each link port (R298, R350 step 7). -/
def State.sendMarkers (s : State) (ctx : Nat) : State :=
  s.upPorts.foldl (fun (t : State) port => [3, 4, 5, 6, 7].foldl (fun (u : State) vc =>
    u.sendVia port (mkPkt s.io.node vc 0 (.marker 0 0 [ctx]))) t) s

/-- The markers of a context placed at the tails of its cores' queues and of the device's paths (R350 step 7). -/
def State.newMarks (s : State) (ctx : Nat) : List CutMark :=
  s.cores.flatMap (fun e => [.outbound e.1, .fabric e.1] ++ (e.2.intake.map fun q => CutMark.intake e.1 q.1 s.now) ++
    if e.2.spill.any fun t => t.of ctx then [.spill e.1] else []) ++
  s.upPorts.flatMap fun port => [3, 4, 5, 6, 7].map fun vc => .link port vc

/-- A marker is done (R350 step 7): no token of the context that can leave stands before it in an outbound queue or on the way between
dies; an intake queue has no token that entered it before; those of a spill area are read into the save image, which is written as the last
marker is done (log 27); and a link's count is back at 64. A port that went down is done with its markers as it does (R294). -/
def State.doneMark (s : State) (ctx : Nat) : CutMark → Bool
  | .outbound c => !((s.core c).outbound.any (s.leaves ctx))
  | .fabric c => !((s.core c).arriving.any fun t => t.of ctx)
  | .intake c vc since => match ((s.core c).intake.find vc).getD [] with
    | [] => true
    | e :: _ => since < e.2
  | .spill _ => true
  | .link port vc => (s.link port).count vc == 64

/-! ### Step 8: the save image -/

/-- What a parked pack's deferred results leave (R351): the lanes that have arrived are delivered, and the others are to be issued
again. -/
def State.parkDeferred (s : State) (r : PackRef) : Nat → List Replay → State × List Replay
  | 0, a => (s, a)
  | n + 1, a =>
    match s.pack r with
    | none => (s, a)
    | some p => match p.c.deferred with
      | [] => (s, a)
      | d :: _ =>
        let wait (l : DefLane) : Bool := match l.res with | .wait _ => true | _ => false
        let left := d.lanes.filter wait
        let lanes := if d.uni && !left.isEmpty then List.range p.id.n else left.map fun l => l.lane
        let va := match left with | l :: _ => l.addr | [] => 0
        let at_ (L : Nat) : Nat := ((left.find? fun l => l.lane == L).map fun l => l.addr).getD va
        let rest : Report := { idx := d.idx, w0 := d.w0, w1 := d.w1, replay := true,
                               lanes := lanes.map fun L => { lane := L, cause := 0, detail := 0, addr := at_ L } }
        let s1 := s.deliver r p 0 { d with lanes := d.lanes.filter fun l => !wait l }
        s1.parkDeferred r n (if left.isEmpty then a else a ++ [{ idx := d.idx, lanes, addrs := lanes.map fun L => (L, at_ L), rest }])

/-- The trap-frame image of a parked pack (R308, R309, R351): cause word 0, and the report entries list the parked lanes. -/
def State.parkedFrame (s : State) (r : PackRef) (p : Pack) (rs : List Replay) : Sparse 8 :=
  let p1 := (rs.map fun q => q.rest).foldl (fun q e => q.addReport e) p
  let p2 := { p1 with c := { p1.c with trap := { idx := p.c.pc, resume := p.c.pc, code := 0, entry := none, cause := 0 } } }
  let mask (m : Sparse 32) (e : Report × Nat) : Sparse 32 :=
    Sparse.set (256 + 88 * e.2 + 2) (BitVec.ofNat 32 (maskOf (e.1.lanes.map fun l => l.lane))) m
  wordBytes ((p2.c.reports.zipIdx).foldl mask (s.trapFrame r p2))

/-- A pack of the save image (R351, R354): a trapped one with its frame and dumps as they stand, a parked one with a frame that lists the
accesses to be issued again. -/
def State.savePack (s : State) (r : PackRef) (p : Pack) : State × SavedPack :=
  let c := s.core r.core
  let tiles : Tbl Tile := (p.m.tiles.zipIdx).map fun e => (e.2, c.tile r.pipe e.1)
  let queue := (c.pipe r.pipe).queue.filter fun o => o.serial == p.id.serial
  if p.isTrapped then
    let asid := s.asid p.id.ctx
    let bytes (va : Nat) : Sparse 8 := Sparse.setRun 0 ((List.range 256).flatMap fun i => s.peek asid (va + 64 * i) 64) []
    let marks (va : Nat) : List Nat := (List.range 256).filter fun i => s.peekBad asid (va + 64 * i) 64
    (s, { core := r.core, pack := p, tiles, queue, frame := bytes (frameVa r),
          dumps := (p.m.tiles.zipIdx).map fun e => (e.2, bytes (dumpVa r e.1)), parked := false,
          badFrame := marks (frameVa r), badDumps := (p.m.tiles.zipIdx).map fun e => (e.2, marks (dumpVa r e.1)) })
  else
    let q := s.parkDeferred r 17 []
    let p1 := (q.1.pack r).getD p
    let p2 := { p1 with c := { p1.c with wait := none, replay := q.2 ++ p1.c.replay, resume := some p1.c.pc } }
    (q.1, { core := r.core, pack := p2, tiles, queue, frame := q.1.parkedFrame r p1 q.2, dumps := [], parked := true })

/-- Every pack of a context saved, by old handle (R354). -/
def State.savePacks (s : State) (ctx : Nat) : State × List SavedPack :=
  (s.packsOf ctx).foldl (fun (a : State × List SavedPack) e =>
    let q := a.1.savePack e.1 e.2
    (q.1, a.2 ++ [q.2])) (s, [])

/-- The save image of a context (R353, R354), with its packs, the parked accesses of its queued misses, and its pages. -/
def State.saveImage (s : State) (ctx : Nat) (x : Ctx) (packs : List SavedPack) (misses : List (Nat × Nat × DWord)) (pages : List Nat) : Save where
  settled := false
  cut := s.now
  cores := x.cores
  entries := s.cores.flatMap fun e => (e.2.oldest (e.2.entries.filter fun n => n.ctx == ctx && !n.dies)).map fun n => (e.1, e.2.age n.seq, n)
  closed := (s.cores.flatMap fun e => (e.2.closed.filter fun k => k.1 == ctx).map fun k => k.2).foldl
    (fun a k => if a.contains k then a else a ++ [k]) []
  tokens := (s.cores.flatMap fun e => e.2.spill.filter fun t => t.of ctx && !t.dies) ++
    s.cores.flatMap fun e => e.2.intake.flatMap fun q => (q.2.map Prod.fst).filter fun t => t.of ctx && !t.dies
  outbound := s.cores.flatMap fun e => ((e.2.outbound ++ e.2.raised).filter fun t => t.tok.of ctx && !t.tok.dies).map fun t => (e.1, t)
  spawns := s.cores.flatMap fun e => ((e.2.alloc ++ e.2.spawned).filter fun q => q.ctx == ctx).map fun q => (e.1, q)
  wakes := s.cores.flatMap fun e => (e.2.wake.filter fun w => w.2.ctx == ctx).map fun w => (e.1, w.2)
  copies := s.cores.flatMap fun e => (e.2.copies.filter fun q => q.2.ctx == ctx).map fun q => (e.1, q.2)
  packs := packs
  ghosts := s.cores.flatMap fun e => (e.2.ghosts.filter fun g => g.ctx == ctx).map fun g => (e.1, g)
  misses := misses
  pages := pages

/-- What the cut frees on a core: entries, bins, frames, tiles, pack slots and spill records (R350 step 8). -/
def Core.freeCtx (c : Core) (ctx asid : Nat) : Core :=
  let c1 := c.discardCtx ctx
  let mine := c.packs.filter fun q => q.2.id.ctx == ctx
  let pipe (i : Nat) (q : Pipe) : Pipe :=
    let here := mine.filter fun e => e.1 / 16 == i
    { q with queue := q.queue.filter (fun o => !(here.any fun e => e.2.id.serial == o.serial))
             run := if q.queue.any fun o => q.run == some o.uid && here.any fun e => e.2.id.serial == o.serial then none else q.run
             tiles := q.tiles.filter fun t => !(here.any fun e => e.2.m.tiles.contains t.1) }
  { c1 with wake := c.wake.filter (fun w => w.2.ctx != ctx), copies := c.copies.filter (fun q => q.2.ctx != ctx),
            ghosts := c.ghosts.filter (fun g => g.ctx != ctx), packs := c.packs.filter (fun q => q.2.id.ctx != ctx),
            slots := c.slots.filter (fun k => !(k.2.parked && k.2.asid == asid)),
            pipes := c.pipes.map fun e => (e.1, pipe e.1 e.2) }

/-- Every idle engine starts the entry that it takes next (R148). -/
def State.startEngines (s : State) : State :=
  s.cores.foldl (fun (t : State) e => (List.range 4).foldl (fun (u : State) i => u.engineStart e.1 i) t) s

/-- The results of a cut (R350 step 8): its ck, and the size of the image. -/
def cutRes (v : Save) : List Byte := leBytes 8 v.cut ++ leBytes 8 v.size

/-- A multi-device launch of a context. -/
def State.manyLaunches (s : State) (ctx : Nat) : List Launch := s.launches.filter fun l => l.ctx == ctx && l.n > 1 && l.st == .running

/-- The settle markers sent to every member of every launch, on VC 0, with the tokens sent there (R298, R352). -/
def State.sendSettles (s : State) (ctx : Nat) : State :=
  (s.manyLaunches ctx).foldl (fun (t : State) l => (s.peers l).foldl (fun (u : State) k =>
    u.sendPkt (mkPkt k 0 0 (.marker l.coord l.num [(l.sent.find k).getD 0]))) t) s

/-- PREEMPT ends with the cut settled, or with no settling asked for (R350, R352); the image's header says which (R354). -/
def State.endCut (s : State) (ctx : Nat) (x : Ctx) (v : Save) (settled : Bool) : State :=
  let v1 := { v with settled }
  let s1 := s.modCtx ctx fun y => { y with cut := none, save := some v1 }
  (s1.writePages (v.pages.take 1) (v1.header x.arrivals.length)).mboxEnd x.r.port MCode.done (cutRes v1)

/-- A cut that waits to be settled ends once it is (R352). -/
def State.checkSettled (s : State) (ctx : Nat) : State :=
  match s.ctx ctx with
  | none => s
  | some x => match x.cut, x.save with
    | some k, some v => if k.saved && s.settled ctx then s.endCut ctx x v true else s
    | _, _ => s

/-- Step 8 (R350): the image is written to its pages, and what it holds is freed on the cores. -/
def State.saveCtx (s : State) (ctx : Nat) (x : Ctx) (k : Cut) : State :=
  let ms := s.savedMisses ctx x
  let a := x.recipes.foldl (fun (t : State) e => t.unqueue ctx e.1) s
  let b := a.savePacks ctx
  let v0 := b.1.saveImage ctx x b.2 ms k.pages
  let bs := b.1.imageBytes ctx x v0
  let v := { v0 with size := bs.length }
  let s1 := b.1.writePages k.pages bs
  let s2 := ({ s1 with cores := s1.cores.map fun (e : Nat × Core) => (e.1, e.2.freeCtx ctx x.r.asid) } : State).startEngines.refillCores
  let s3 := s2.modCtx ctx fun y => { y with st := .preempted, save := some v, cut := some { k with saved := true, pages := [] } }
  if k.settle && !(s3.manyLaunches ctx).isEmpty then (s3.sendSettles ctx).checkSettled ctx
  else s3.endCut ctx x v k.settle

/-! ### The commands and events -/

/-- PREEMPT (R349, R350, R354): the cut begins, with the pages of the image's upper bound reserved. -/
def execPreempt (c : Cmd) (s : State) : Out :=
  ctxCommand s 11 c [(0, 9)] fun t x =>
    let need := t.imageBound c.ctx x
    let pages := t.fwPages need
    if argNat c 0 8 < 4096 || argNat c 8 1 > 1 then t.mboxEnd c.port MCode.format []
    else if x.st != .running then t.mboxEnd c.port MCode.refused []
    else if pages.length < need then t.mboxEnd c.port MCode.noResource []
    else (t.keepPages pages).modCtx c.ctx fun y =>
      { y with st := .cutting
               cut := some { start := t.now, timeout := argNat c 0 8, settle := argNat c 8 1 == 1, placed := false, saved := false, pages } }

/-- The cut of a context changed. -/
def State.modCut (s : State) (ctx : Nat) (f : Cut → Cut) : State := s.modCtx ctx fun y => { y with cut := y.cut.map f }

/-- Step 7 with every earlier step ended (R350): the markers are placed; then those that are done go, and once none is left the save image is
written. -/
def State.markStep (s : State) (ctx : Nat) (x : Ctx) (k : Cut) : State :=
  if !k.placed then (s.modCut ctx fun q => { q with placed := true, marks := s.newMarks ctx }).sendMarkers ctx
  else
    let left := k.marks.filter fun m => !s.doneMark ctx m
    let k1 := { k with marks := left }
    if left.isEmpty then s.saveCtx ctx x k1 else s.modCut ctx fun _ => k1

/-- PREEMPT_CUT_COMPLETE (R350): the end of step 2 is noted; once steps 2 to 6 have ended the markers go out, and once every marker is done
the save image is written; a saved cut that the last token has settled ends (R352). -/
def execPreemptCutComplete (ctx : Nat) (s : State) : Out :=
  match s.ctx ctx with
  | none => .next s
  | some x => match x.cut with
    | none => .next s
    | some k =>
      if k.saved then .next (s.checkSettled ctx)
      else if x.st != .cutting || !(s.drainedCut ctx) then .next s
      else if !k.drained then .next (s.modCut ctx fun q => { q with drained := true })
      else if !(s.quietCut ctx x) then .next s
      else .next (s.markStep ctx x k)

/-- The fault tokens of records made since a cut began, which an abandoned cut sends after all. -/
def State.sendHeldFaults (s : State) (ctx start : Nat) : State :=
  let ws := s.cores.flatMap fun e => (e.2.wake.filter fun w => w.2.ctx == ctx && w.2.st == .faulted && start ≤ w.2.chrono).map fun w => (e.1, w)
  let qs := s.cores.flatMap fun e => (e.2.copies.filter fun q => q.2.ctx == ctx && q.2.st == .faulted && start ≤ q.2.chrono).map fun q => (e.1, q)
  let s1 := ws.foldl (fun (t : State) e => t.storeFaultTok e.1 e.2.1 e.2.2) s
  qs.foldl (fun (t : State) e => t.copyFaultTok e.1 e.2.1 e.2.2) s1

/-- PREEMPT_TIMEOUT (R350): step 2 has not ended in time; the cut is abandoned, and its pages go back. -/
def execPreemptTimeout (ctx : Nat) (s : State) : Out :=
  match s.ctx ctx with
  | none => .next s
  | some x => match x.cut with
    | none => .next s
    | some k =>
      if x.st = .cutting && !k.drained && !(s.drainedCut ctx) && k.start + k.timeout ≤ s.now then
        .next ((((s.modCtx ctx fun y => { y with st := .running, cut := none }).dropPages k.pages).sendHeldFaults ctx k.start).refillCores.mboxEnd
          x.r.port MCode.timeout [])
      else .next s

/-- SETTLE_MARKER_RECEIVE (R352): a member's marker is kept with its launch, and a cut that it settles ends. -/
def execSettleMarkerReceive (p : CtlPkt) (s : State) : Out :=
  launchPacket s p fun l =>
    .next ((s.modLaunch l.coord l.num fun m => { m with marks := m.marks.put p.source (p.vals.getD 0 0) }).checkSettled l.ctx)

/-- SETTLE_TIMEOUT (R352): the cut is not settled in time; the context stays PREEMPTED. -/
def execSettleTimeout (ctx : Nat) (s : State) : Out :=
  match s.ctx ctx with
  | none => .next s
  | some x => match x.cut with
    | none => .next s
    | some k =>
      if k.saved && !(s.settled ctx) && k.start + k.timeout ≤ s.now then
        .next ((s.modCtx ctx fun y => { y with cut := none }).mboxEnd x.r.port MCode.timeout [])
      else .next s

end Sys2Proof.Machine
end

