-- ==== Sys2Proof/Machine/Resume.lean ====
section
/-! DEFINITION. Resumption: RESUME and the placing of restored packs (R17, R273, R307, R318, R356, R357). -/

namespace Sys2Proof.Machine

/-! ### Cores and serials -/

/-- The new core that corresponds to an old one (R356 step 1). -/
def newCore (old new : List Nat) (c : Nat) : Nat := new.getD ((old.findIdx? (· == c)).getD 0 % new.length) 0

/-- The core a pack is restored on: the corresponding one, or the next of the list with fewer than 64 of the context's restored
packs (R356 step 6). -/
def packCore (new taken : List Nat) (c : Nat) : Nat :=
  let room (k : Nat) : Bool := (taken.filter (· == k)).length < 64
  let i := (new.findIdx? (· == c)).getD 0
  ((new.drop i ++ new.take i).find? room).getD c

/-- What was restored under a new core and serial: a pack, or the frame of an ended one (R357). -/
structure Ren where
  oc : Nat
  os : Nat
  nc : Nat
  ns : Nat
deriving DecidableEq, Repr

/-- A new firing serial of a core (R16, R357). -/
def State.newSerial (s : State) (core : Nat) : State × Nat :=
  let c := s.core core
  let n := nextSerial (s.serialsUsed core) 4096 c.serial
  (s.setCore core { c with serial := (n + 1) % 2 ^ 24 }, n)

/-- A new serial for what stood under an old core and serial, on a core. -/
def State.rename (a : State × List Ren) (oc os nc : Nat) : State × List Ren :=
  let t := a.1.newSerial nc
  (t.1, a.2 ++ [{ oc, os, nc, ns := t.2 }])

/-- The record of an old core and serial. -/
def renOf (rs : List Ren) (oc os : Nat) : Option Ren := rs.find? fun r => r.oc == oc && r.os == os

/-- The cores and serials of everything that is restored: the packs in the order they were saved, then the frames and the records of
packs that have ended. -/
def State.renames (s : State) (v : Save) (new : List Nat) : State × List Ren :=
  let a := v.packs.foldl (fun (a : State × List Ren) q =>
    State.rename a q.core q.pack.id.serial (packCore new (a.2.map fun r => r.nc) (newCore v.cores new q.core))) (s, [])
  let rest := (v.ghosts.map fun g => (g.1, g.2.serial)) ++ (v.wakes.map fun w => (bearingCore w.2.bearing, bearingSerial w.2.bearing)) ++
    v.copies.map fun q => (q.1, q.2.serial)
  rest.foldl (fun (a : State × List Ren) e =>
    if (renOf a.2 e.1 e.2).isSome then a else State.rename a e.1 e.2 (newCore v.cores new e.1)) a

/-- A bearing with another core, serial, pipeline and pack slot (R21, R357). -/
def moveBearing (b : DWord) (core serial pipe slot : Nat) : DWord := mkBearing serial (b.toNat % 256) (bearingLane b) core pipe slot

/-- A bearing under its new core and serial (R357). -/
def reBear (rs : List Ren) (b : DWord) : DWord :=
  match renOf rs (bearingCore b) (bearingSerial b) with
  | some r => moveBearing b r.nc r.ns (b.toNat / 2 ^ 36 % 4) (b.toNat / 2 ^ 32 % 16)
  | none => b

/-- The serial of what stood on an old core. -/
def reSerial (rs : List Ren) (oc os : Nat) : Nat := match renOf rs oc os with | some r => r.ns | none => os

/-- The serial that a queued token or request carries: of a pack that has ended, one that names none. -/
def outSerial (rs : List Ren) (oc os : Nat) : Nat := match renOf rs oc os with | some r => r.ns | none => 2 ^ 24

/-- The core on which a pack's frame columns and its copies are: its new core. -/
def recCore (v : Save) (new : List Nat) (rs : List Ren) (oc os : Nat) : Nat :=
  match renOf rs oc os with | some r => r.nc | none => newCore v.cores new oc

/-! ### Steps 1 to 5 -/

/-- The trap-area slot of a core unmapped (R307, R356), as R270 unmaps a page. -/
def State.trapUnmap (s : State) (x : Ctx) (core : Nat) : State :=
  match s.walk x.root (trapSlot core) with
  | .leaf at_ v big =>
    let s1 := (s.flushRange x.r.asid (trapSlot core) (2 ^ 21)).setEntry64 at_ 0
    let s2 := (framesOf (leafPa v big (trapSlot core)) (2 ^ 21)).foldl (fun (t : State) f => t.ownUnmap f) s1
    s2.dropTc x.r.asid (trapSlot core) (2 ^ 21)
  | _ => s

/-- The trap-area slots of a new core list mapped, with the pages given, and those of the others unmapped. -/
def State.trapArea (s : State) (x : Ctx) (new pages : List Nat) : State :=
  let s1 := (x.cores.filter fun c => !new.contains c).foldl (fun (t : State) c => t.trapUnmap x c) s
  ((new.filter fun c => !x.cores.contains c).zip pages).foldl (fun (t : State) e => t.fwMap x.root (trapSlot e.1) e.2) s1

/-- The tokens of an entry, port by port, where no entry can be had for them: they are placed as local tokens (R219, R229). -/
def Entry.tokens (e : Entry) (core ports : Nat) : List Tok :=
  let sc : Option Scope := match e.acq with | 0 => none | 1 => some .core | 2 => some .die | 3 => some .dev | _ => some .sys
  ((List.range ports).filter fun i => e.pres.testBit i).map fun i =>
    { slot := e.slot, port := i, tag := e.tag, pay := Sparse.getRun e.pay (8 * i) 8, ctx := e.ctx, rel := sc, handler := e.handler,
      src := 0, bearing := 0, core, cov := e.cov }

/-- A saved entry recreated on its new core through the rows of R219 (R356 step 2), with the tokens of one for which there is no room. -/
def State.recreate (s : State) (x : Ctx) (e : Entry) : State × List Tok :=
  match s.block e.slot with
  | none => (s, [])
  | some b =>
    let core := s.placeCore x b (tagIndex e.tag)
    let pool := s.classOf e.ctx e.slot e.tag
    if s.entryRoom core e.cls pool b.ports then
      let c := s.core core
      let e1 := { e with st := .part, seq := c.seq, entered := 0, area := ((s.portArea core pool b.ports).getD 0, b.ports) }
      ((s.setCore core { c with entries := c.entries ++ [e1] }.nextSeq).settle core b e1, [])
    else (s, e.tokens core b.ports)

/-- The close marks of an ordered colour set on the cores of its block (R224, R356 step 2). -/
def State.recloses (s : State) (ctx : Nat) (x : Ctx) (k : Nat × Nat) : State :=
  match s.block k.1 with
  | none => s
  | some b => (x.placeSet b).foldl (fun (t : State) c => t.modCore c fun q =>
      if q.closed.contains (ctx, k) then q else { q with closed := q.closed ++ [(ctx, k)] }) s

/-- The saved entries in ascending order of their age at the cut, ties by ascending old core (R356 step 2). -/
def Save.inOrder (v : Save) : List Entry := (sortBy (fun e => e.2.1 * 256 + e.1) v.entries).map fun e => e.2.2

/-- A store record installed on a core, with its fresh fault token (R356 step 5); a store that waits behind a record sends none. -/
def State.installWake (s : State) (core : Nat) (w : Wake) : State :=
  let n := ((s.core core).wake.free 512).getD 511
  let s1 := s.modCore core fun c => { c with wake := c.wake.put n w }
  if w.st = .faulted then s1.storeFaultTok core n w else s1

/-- A copy installed in a free entry of a core's queue; where its pack is on another core it is kept there, under a number that no handle
has. One that is a fault record sends its fresh fault token (R356 step 5). -/
def State.installCopy (s : State) (core home : Nat) (q : Copy) : State :=
  let n := (s.copyFree core).getD 63
  let key := if home = core then n else ((s.core home).copies.map Prod.fst).foldl max 511 + 1
  let q1 := { q with at_ := if home = core then none else some (core, n) }
  let s1 := s.modCore home fun c => { c with copies := c.copies.put key q1 }
  if q.st = .faulted then s1.copyFaultTok home key q1 else s1

/-- A copy moves on with its pack, and waits for the pack's placing: no fault record, of a saved pack. -/
def Save.waits (v : Save) (e : Nat × Copy) : Bool :=
  e.2.st != .faulted && v.packs.any fun q => q.core == e.1 && q.pack.id.serial == e.2.serial

/-- The records of a save image under their new cores (R356 step 5): stores with the core that corresponds to the one they stood on, copies with
that core and the core of their pack. -/
def Save.records (v : Save) (new : List Nat) (rs : List Ren) : List (Nat × Wake) × List (Nat × Nat × Copy) :=
  (v.wakes.map fun e => (newCore v.cores new e.1, { e.2 with bearing := reBear rs e.2.bearing }),
   (v.copies.filter fun e => !v.waits e).map fun e =>
      let at_ := match e.2.at_ with | some x => x.1 | none => e.1
      let home := recCore v new rs e.1 e.2.serial
      (if e.2.st = .faulted then newCore v.cores new at_ else home, home,
       { e.2 with serial := reSerial rs e.1 e.2.serial, bearing := reBear rs e.2.bearing }))

/-- Every record finds a free entry on its core (what RESUME does where none is free is DESIGN CHOICE, log 33). -/
def State.recordRoom (s : State) (new : List Nat) (q : List (Nat × Wake) × List (Nat × Nat × Copy)) : Bool :=
  new.all fun c =>
    (q.1.filter fun e => e.1 == c).length + (s.core c).wake.length ≤ 512 &&
    (q.2.filter fun e => e.1 == c).length + s.copyCount c ≤ 64

/-- Areas in the frame memory of a core for n columns of a block's instances, by lane (R26, R221). -/
def State.columnAreas (s : State) (core : Nat) (k : TokClass) (b : Block) (lanes : List Nat) : Option (List (Nat × Nat × Nat)) :=
  let used := (s.core core).areasUsed s.now
  match fitAreas used (s.poolBanks k) b.ports lanes.length with
  | none => none
  | some ps =>
    let works := if b.workUnits = 0 then some (List.replicate lanes.length (0, 0))
      else fitAreas (ps ++ used) (s.poolBanks k).reverse b.workUnits lanes.length
    works.map fun ws => lanes.zip ps ++ lanes.zip ws

/-- The frame columns of an ended pack that its copies still use, on a core (R211, R356); none where they find no room there. -/
def State.addGhost (s : State) (core : Nat) (g : Ghost) : Option State :=
  match s.block g.slot with
  | none => some s
  | some b => (s.columnAreas core (s.classOf g.ctx g.slot 0) b g.cols).map fun a =>
      s.modCore core fun c => { c with ghosts := c.ghosts ++ [{ g with areas := a }] }

/-- The kept frame columns of a save image restored (what RESUME does where they find no room is DESIGN CHOICE, log 33). -/
def State.addGhosts (s : State) (v : Save) (new : List Nat) (rs : List Ren) : Option State :=
  v.ghosts.foldl (fun (o : Option State) g => o.bind fun t =>
    t.addGhost (recCore v new rs g.1 g.2.serial) { g.2 with serial := reSerial rs g.1 g.2.serial }) (some s)

/-! ### Constants -/

/-- The images of a context whose constants a core of a list holds: those of the blocks that it places there (R28). -/
def State.constImages (s : State) (ctx : Nat) (x : Ctx) (core : Nat) : List (Nat × Image) :=
  s.images.filter fun e => e.2.ctx == ctx && !e.2.consts.isEmpty &&
    s.blocks.any fun b => b.2.ctx == ctx && (b.2.img == e.1 || b.2.run == e.1) && (x.placeSet b.2).contains core

/-- The constants of a context fit in the stores of its new cores, beside those of other contexts (R28; DESIGN CHOICE, log 33). -/
def State.constRoom (s : State) (ctx : Nat) (x : Ctx) : Bool :=
  x.cores.all fun c =>
    let others := (s.core c).st.consts.filterMap fun e => (s.images.find e.1).bind fun i => if i.ctx = ctx then none else some i.consts.length
    others.sum + ((s.constImages ctx x c).map fun e => e.2.consts.length).sum ≤ 262144

/-- The constants of an image for a new core (R28): those of the core itself or of an old core that it corresponds to, with their marks, else
the image's own (DESIGN CHOICE, log 33). -/
def State.constFor (s : State) (old new : List Nat) (core h : Nat) (i : Image) : Sparse 8 × List (Nat × Nat) :=
  match (core :: old.filter fun c => newCore old new c == core).find? fun c => ((s.core c).st.consts.find h).isSome with
  | some c => (((s.core c).st.consts.find h).getD [], (s.core c).st.constBad.filter fun e => e.1 == h)
  | none => (Sparse.setRun 0 i.consts [], [])

/-- The constant stores of a context moved to its new cores (R28, R356). -/
def State.moveConsts (s : State) (ctx : Nat) (old : List Nat) (x : Ctx) : State :=
  let mine (h : Nat) : Bool := match s.images.find h with | some i => i.ctx == ctx | none => false
  let clear (q : Stores) : Stores := { q with consts := q.consts.filter (fun e => !mine e.1), constBad := q.constBad.filter fun e => !mine e.1 }
  let fill (c : Nat) (q : Stores) (e : Nat × Image) : Stores :=
    let r := s.constFor old x.cores c e.1 e.2
    { q with consts := q.consts.put e.1 r.1, constBad := q.constBad ++ r.2 }
  let s1 := old.foldl (fun (t : State) c => t.modCore c fun k => { k with st := clear k.st }) s
  x.cores.foldl (fun (t : State) c => t.modCore c fun k => { k with st := (s.constImages ctx x c).foldl (fill c) (clear k.st) }) s1

/-! ### The steps -/

/-- A saved pack under its new core and serial. -/
def SavedPack.renamed (rs : List Ren) (q : SavedPack) : SavedPack :=
  match renOf rs q.core q.pack.id.serial with
  | none => q
  | some r => { q with core := r.nc, pack := { q.pack with id := { q.pack.id with serial := r.ns } },
                       queue := q.queue.map fun o => { o with serial := r.ns } }

/-- Tokens that a save image still holds placed again as local ones, in their order, as far as their cores accept them (R231, R356 step 3);
the others stay in it. -/
def State.placeSaved (s : State) (ctx : Nat) : State :=
  match s.ctx ctx with
  | none => s
  | some x => match x.save with
    | none => s
    | some v =>
      let r := s.placeList (fun t k => t.tryPlace x k) v.tokens
      r.1.modCtx ctx fun y => { y with save := y.save.map fun w => { w with tokens := r.2 } }

/-- Step 7 (R356): the context runs, what has arrived while it was restored is placed, in the order of arrival, and the pages of its image and
its arrival area go back. -/
def State.resumed (s : State) (ctx : Nat) : State :=
  match s.ctx ctx with
  | none => s
  | some x =>
    let s1 := ((s.modCtx ctx fun y => { y with st := .running, arrivals := [], areaPages := [], save := none, restore := [] }).dropPages
      x.savedPages).dropFrames x.areaPages
    ({ s1 with io := { s1.io with hwait := x.arrivals ++ s1.io.hwait } } : State).refillCores.mboxEnd x.r.port MCode.done []

/-- RESUME ends once every saved token and pack of the context is placed (R356 step 7). -/
def State.endRestore (s : State) (ctx : Nat) : State :=
  match s.ctx ctx with
  | none => s
  | some x => if x.restore.isEmpty && (match x.save with | some v => v.tokens.isEmpty | none => true) then s.resumed ctx else s

/-- The state with steps 1 to 5 done: the map, the trap area and the constants, entries and close marks, tokens, requests, and fault
records. -/
def State.restore (s : State) (ctx : Nat) (x : Ctx) (v : Save) (new pages : List Nat) (rs : List Ren) : State :=
  let recs := v.records new rs
  let x1 := { x with cores := new }
  let left := (v.copies.filter v.waits).map fun e =>
    (recCore v new rs e.1 e.2.serial, { e.2 with serial := reSerial rs e.1 e.2.serial, bearing := reBear rs e.2.bearing })
  let s0 := (s.moveConsts ctx x.cores x1).trapArea x new pages
  let s1 := s0.modCtx ctx fun y => { y with
    st := .restoring, cores := new, arrivals := []
    restore := v.packs.map (SavedPack.renamed rs)
    save := some { v with entries := [], closed := [], tokens := [], outbound := [], spawns := [], wakes := [], copies := left,
                          packs := [], ghosts := [], misses := [] } }
  let e := v.inOrder.foldl (fun (a : State × List Tok) e => ((a.1.recreate x1 e).1, a.2 ++ (a.1.recreate x1 e).2)) (s1, [])
  let s2 := e.1.modCtx ctx fun y => { y with save := y.save.map fun w => { w with tokens := e.2 ++ v.tokens ++ x.arrivals } }
  let s3 := v.closed.foldl (fun (t : State) k => t.recloses ctx x1 k) s2
  let s4 := s3.placeSaved ctx
  let s5 := v.outbound.foldl (fun (t : State) e =>
    t.modCore (newCore v.cores new e.1) fun c =>
      ({ c with raised := c.raised ++ [{ e.2 with serial := outSerial rs e.1 e.2.serial }] } : Core).pumpRaised) s4
  let s6 := v.spawns.foldl (fun (t : State) e => t.modCore (newCore v.cores new e.1) fun c =>
    ({ c with spawned := c.spawned ++ [{ e.2 with serial := outSerial rs e.1 e.2.serial }] } : Core).pumpAlloc) s5
  let s7 := recs.1.foldl (fun (t : State) e => t.installWake e.1 e.2) s6
  let s8 := recs.2.foldl (fun (t : State) e => t.installCopy e.1 e.2.1 e.2.2) s7
  let s9 : State := { s8 with launches := s8.launches.map fun l => if l.ctx = ctx then { l with marks := [] } else l }
  s9.endRestore ctx

/-- RESUME on a context that is PREEMPTED: the checks of R356, and the steps that need no room of a core's packs. -/
def resumeCtx (s : State) (c : Cmd) (x : Ctx) (v : Save) : State :=
  let list := coreList c 0
  let new := if list.isEmpty then x.cores else list
  let small (b : Block) : Bool := b.ctx == c.ctx && x.privSize / new.length / 128 * 128 < b.priv * 128
  let fresh := (new.filter fun k => !x.cores.contains k).length
  let pages := s.fwPages fresh
  let a := s.renames v new
  let g := a.1.addGhosts v new a.2
  if !(new.all fun k => s.ownCore c.port k) then s.mboxEnd c.port MCode.notOwned []
  else if s.blocks.any fun e => small e.2 then s.mboxEnd c.port MCode.refused []
  else if v.packs.length > 64 * new.length || pages.length < fresh || !s.recordRoom new (v.records new a.2) ||
    !s.constRoom c.ctx { x with cores := new } then s.mboxEnd c.port MCode.noResource []
  else match g with
    | some t => t.restore c.ctx x v new pages a.2
    | none => s.mboxEnd c.port MCode.noResource []

/-- RESUME (R349, R356). -/
def execResume (c : Cmd) (s : State) : Out :=
  ctxCommand s 12 c [(0, 24)] fun t x =>
    if t.chk.isSome then t.mboxEnd c.port MCode.busy []
    else match x.save with
      | some v => if x.st != .preempted then t.mboxEnd c.port MCode.refused [] else resumeCtx t c x v
      | none => t.mboxEnd c.port MCode.refused []

/-! ### Step 6: the packs -/

/-- The copies of a saved pack that wait for its placing. -/
def State.packCopies (s : State) (q : SavedPack) : List (Nat × Copy) :=
  match s.ctx q.pack.id.ctx with
  | some x => (match x.save with | some v => v.copies.filter fun e => e.1 == q.core && e.2.serial == q.pack.id.serial | none => [])
  | none => []

/-- The frame areas that a restored pack takes on its core (R356 step 6). -/
def State.restoreAreas (s : State) (q : SavedPack) : Option (List (Nat × Nat × Nat)) :=
  let p := q.pack
  match s.block p.id.slot with
  | none => some []
  | some b => s.columnAreas q.core (s.classOf p.id.ctx p.id.slot (p.id.tags.getD 0 0)) b (List.range p.id.n)

/-- The pipeline and slot that a restored pack takes on its core (R356 step 6): the pipeline with the fewest slots in use that has a
slot and the tiles free, with room in its engine queue for what the pack brings (R148), and slot 15 last; its frame columns must have room too,
and its copies places in the queue. -/
def State.restoreFits (s : State) (q : SavedPack) : Option (Nat × Nat) :=
  let hs := (s.core q.core).holders s.now
  let pipes := (List.range 4).filter fun i => (freeSlot hs i 1).isSome && tilesHeld hs i false + q.pack.m.tiles.length ≤ 16 &&
    ((s.core q.core).pipe i).queue.length + q.queue.length ≤ 16
  if (s.restoreAreas q).isSome && s.copyCount q.core + (s.packCopies q).length ≤ 64 then
    match (sortBy (fun i => slotsUsed hs i) pipes).head? with
    | some i => (freeSlot hs i 1).map fun n => (i, n)
    | none => none
  else none

/-- The fault records of a restored pack name its new pipeline and slot (R357). -/
def Core.reslot (c : Core) (r : PackRef) (serial : Nat) : Core :=
  let f (b : DWord) : DWord :=
    if bearingCore b = r.core && bearingSerial b = serial then moveBearing b r.core serial r.pipe r.slot else b
  { c with wake := c.wake.map fun e => (e.1, { e.2 with bearing := f e.2.bearing })
           copies := c.copies.map fun e => (e.1, { e.2 with bearing := f e.2.bearing }) }

/-- The frame image of a trapped pack with its bearings and its tile map rewritten (R308, R309, R357). -/
def SavedPack.frameAt (q : SavedPack) (r : PackRef) (p : Pack) : Sparse 8 :=
  let word (w n v : Nat) (m : Sparse 8) : Sparse 8 := Sparse.setRun (4 * w) (leBytes n v) m
  let map := (List.range 16).foldl (fun (m : Sparse 8) j => Sparse.setRun (800 + j) (leBytes 1 (p.mapByte j)) m) q.frame
  let head := word 2 8 (p.bearing r p.c.trap.idx 0).toNat map
  (p.c.reports.zipIdx).foldl (fun (m : Sparse 8) e => word (256 + 88 * e.2) 8 (p.bearing r e.1.idx 0).toNat m) head

/-- Lines of a range, by number, with the poison mark under which their bytes were saved (R326). -/
def State.markLines (s : State) (asid va : Nat) (ls : List Nat) : State :=
  ls.foldl (fun (t : State) i => t.modL2 asid (va / 64 + i) none fun l => { l with poison := true }) s

/-- A saved pack placed in a slot (R356 step 6): its columns, its tiles, the engine work and copies that go with it, and, of a trapped one, its
frame, its dumps and a fresh trap token. -/
def State.placePack (s : State) (q : SavedPack) (r : PackRef) : State :=
  let p := q.pack
  let tiles := takeTiles ((s.core r.core).holders s.now) r.pipe p.m.tiles.length
  let p1 := { p with id := { p.id with restored := true, areas := (s.restoreAreas q).getD [] }, m := { p.m with tiles := tiles },
                     c := { p.c with start := s.now } }
  let asid := s.asid p.id.ctx
  let s1 := s.modCore r.core fun c =>
    let c1 := q.tiles.foldl (fun (k : Core) e => k.setTile r.pipe (tiles.getD e.1 0) e.2) c
    c1.modPipe r.pipe fun k => { k with queue := k.queue ++ q.queue.map fun o => { o with slot := r.slot } }
  let mine := s.packCopies q
  let tileOf (n : Nat) : Nat := tiles.getD ((p.m.tiles.findIdx? (· == n)).getD 0) 0
  let s2 := mine.foldl (fun (t : State) e =>
    t.installCopy r.core r.core { e.2 with pipe := r.pipe, tile := if e.2.mode = .t then tileOf e.2.tile else e.2.tile }) s1
  let s3 := s2.modCtx p.id.ctx fun y => { y with
    save := y.save.map fun v => { v with copies := v.copies.filter fun e => !mine.contains e }
    restore := y.restore.erase q }
  let s4 := (({ s3 with cores := s3.cores.map fun (e : Nat × Core) => (e.1, e.2.reslot r p.id.serial) } : State).setPack r p1).engineStart
    r.core r.pipe
  if q.parked then s4
  else
    let s5 := (s4.putLines r.core asid (frameVa r) 256 (q.frameAt r p1)).markLines asid (frameVa r) q.badFrame
    let s6 := q.dumps.foldl (fun (t : State) e => (t.putLines r.core asid (dumpVa r (tiles.getD e.1 0)) 256 e.2).markLines asid
      (dumpVa r (tiles.getD e.1 0)) ((q.badDumps.find e.1).getD [])) s5
    s6.raiseAtCore r.core p.id.ctx true (trapPay r p1) (p1.bearing r p1.c.trap.idx 0) p.id.serial

/-- RESTORED_PACK_PLACE (R356 steps 3, 6 and 7): saved tokens whose cores accept them now are placed, and the first saved pack for which its
core has room takes its slot; when nothing is left the context runs again and RESUME ends. -/
def execRestoredPackPlace (ctx : Nat) (s : State) : Out :=
  match s.ctx ctx with
  | none => .next s
  | some x =>
    if x.st != .restoring then .next s
    else
      let s0 := s.placeSaved ctx
      match x.restore.findSome? fun q => (s0.restoreFits q).map fun e => (q, e) with
      | none => .next (s0.endRestore ctx)
      | some (q, pipe, slot) => .next ((s0.placePack q { core := q.core, pipe, slot }).endRestore ctx)

end Sys2Proof.Machine
end

