-- ==== Sys2Proof/Machine/Checkpoint.lean ====
section
/-! DEFINITION. CHECKPOINT and its end (R188, R297, R360). -/

namespace Sys2Proof.Machine

/-- Every dirty line that no fault holds is written to HBM (R360 step 1). -/
def State.cleanAll (s : State) : State :=
  (s.mem.l2.filter fun l => !l.held && l.unsaved).foldl (fun (t : State) l => t.writeBack l) s

/-- The physical addresses of the poisoned lines of an HBM stack, ascending (R360 step 3). -/
def State.poisonList (s : State) (k : Nat) : List Nat :=
  sortBy id ((s.mem.bad.filter fun a => a * 64 / 2 ^ 36 == k).map fun a => a * 64)

/-- A context stands as CHECKPOINT needs it (R360): pre-empted, and settled where it belongs to a launch of several devices. -/
def State.atRest (s : State) (ctx : Nat) (x : Ctx) : Bool :=
  x.st == .preempted && x.cut.isNone &&
    match x.save with | some v => v.settled || (s.manyLaunches ctx).isEmpty | none => false

/-- The arrival area of a context written to its pages, and its count to the header of the save image (R354, R355). -/
def State.writeArea (s : State) (x : Ctx) : State :=
  match x.save with
  | none => s
  | some v =>
    let area (t : State) (e : Nat × Nat) : State :=
      t.physWrite (e.1 * 2 ^ 16) (((x.arrivals.drop (e.2 * areaTokens)).take areaTokens).flatMap Tok.record)
    ((x.areaPages.zipIdx).foldl area s).writePages (v.pages.take 1) (v.header x.arrivals.length)

/-- The copy begins (R360): dirty lines are written, the arrival areas stand in HBM as they are at acceptance, with their counts in the
checkpoint record, and each stack's first packet goes out on its port. -/
def State.checkpoint (s : State) (nodes ports : List Nat) (dest : Nat) : State :=
  let s0 := s.ctxs.foldl (fun (t : State) e => t.writeArea e.2) s.cleanAll
  let arrivals := s.ctxs.map fun e => (e.1, e.2.arrivals.length)
  let s1 : State := { s0 with mgmt := { s0.mgmt with chkRec := arrivals } }
  let c : Chk :=
    { start := s.now, dest, nodes, ports, lists := (List.range 8).map s1.poisonList, acks := List.replicate 8 0,
      failed := (List.range 8).find? fun k => s.noWay (nodes.getD k 0) (ports.getD k 0), arrivals }
  let s2 : State := { s1 with chk := some c }
  if c.failed.isSome then s2 else (List.range 8).foldl (fun (t : State) k => t.chkSend c k) s2

/-- CHECKPOINT (R360): from port 0 only, with every resident context at rest. -/
def execCheckpoint (c : Cmd) (s : State) : Out :=
  command s 13 c [(0, 48)] fun t =>
    let nodes := (List.range 8).map fun k => argNat c (4 * k) 4
    let ports := (List.range 8).map fun k => argNat c (32 + k) 1
    if c.port != 0 || !(t.ctxs.all fun e => t.atRest e.1 e.2) then t.mboxEnd c.port MCode.refused []
    else if (distinct ports).length != 8 || ports.any (fun p => p ≥ 16) then t.mboxEnd c.port MCode.format []
    else t.checkpoint nodes ports (argNat c 40 8)

/-- A stack's data and list have been acknowledged. -/
def Chk.stackDone (c : Chk) (k : Nat) : Bool := c.acks.getD k 0 ≥ 2 ^ 36 + 8 * (c.lists.getD k []).length

/-- CHECKPOINT_COMPLETE (R360): every write ack has returned, and ARGS holds the start and end chronometer values and the count of
poisoned lines; or a stack has failed, and ARGS holds its number. -/
def execCheckpointComplete (s : State) : Out :=
  match s.chk with
  | none => .next s
  | some c =>
    let s1 : State := { s with chk := none }
    match c.failed with
    | some k => .next (s1.mboxEnd 0 MCode.nodeRefused (leBytes 4 k))
    | none =>
      if (List.range 8).all c.stackDone then
        .next (s1.mboxEnd 0 MCode.done (leBytes 8 c.start ++ leBytes 8 s.now ++ leBytes 8 (c.lists.map List.length).sum))
      else .next s

end Sys2Proof.Machine
end

