-- ==== Sys2Proof/Machine/Sfu.lean ====
section
/-! DEFINITION. The special functions and their correctly rounded values (R132, R133, R162), and LMV (R86, R134).
Transcendental values are formed as whole numbers of 2^-512 and rounded once (log 10). -/

namespace Sys2Proof.Machine

/-! ### Fixed point -/

/-- The number of fraction bits of the fixed-point values. -/
def fixBits : Nat := 512
/-- One in fixed point. -/
def one : Nat := 2 ^ fixBits
/-- The product of two fixed-point values. -/
def fmulFix (x y : Nat) : Nat := x * y / one
/-- A finite magnitude in fixed point, for an exponent of at least -512. -/
def toFix (m : Nat) (e : Int) : Nat := m * 2 ^ (e + fixBits).toNat

/-- The terms of a series of alternating or equal signs whose next term is `next i t`, summed while they are not zero. -/
def series (next : Nat → Nat → Nat) (alt : Bool) : Nat → Nat → Bool → Nat → Int → Int
  | 0, _, _, _, acc => acc
  | fuel + 1, i, neg, t, acc =>
    if t = 0 then acc
    else series next alt fuel (i + 1) (if alt then !neg else neg) (next i t) (if neg then acc - t else acc + t)

/-- The arctangent of 1/n in fixed point, by its series. -/
def arctanInv (n : Nat) : Int :=
  let rec go : Nat → Nat → Nat → Bool → Int → Int
    | 0, _, _, _, acc => acc
    | fuel + 1, k, p, neg, acc =>
      if p = 0 then acc else go fuel (k + 2) (p / (n * n)) (!neg) (if neg then acc - (p / k : Nat) else acc + (p / k : Nat))
  go 260 1 (one / n) false 0

/-- Pi in fixed point. -/
def piFix : Nat := (16 * arctanInv 5 - 4 * arctanInv 239).toNat
/-- The natural logarithm of 2 in fixed point: twice the sum of (1/3)^k / k over odd k. -/
def ln2Fix : Nat :=
  let rec go : Nat → Nat → Nat → Nat → Nat
    | 0, _, _, acc => acc
    | fuel + 1, k, p, acc => if p = 0 then acc else go fuel (k + 2) (p / 9) (acc + p / k)
  2 * go 200 1 (one / 3) 0

/-- e^r for r from 0 to 1. -/
def expFix (r : Nat) : Nat := (series (fun i t => fmulFix t r / (i + 1)) false 160 0 false one 0).toNat
/-- sin r for r from 0 to pi/2. -/
def sinFix (r : Nat) : Nat := (series (fun i t => fmulFix (fmulFix t r) r / ((2 * i + 2) * (2 * i + 3))) true 160 0 false r 0).toNat
/-- cos r for r from 0 to pi/2. -/
def cosFix (r : Nat) : Nat := (series (fun i t => fmulFix (fmulFix t r) r / ((2 * i + 1) * (2 * i + 2))) true 160 0 false one 0).toNat
/-- e^-x for x from 0 to 512. -/
def expNegFix (x : Nat) : Nat :=
  let k := x / ln2Fix
  let r := x % ln2Fix
  if r = 0 then one / 2 ^ k else expFix (ln2Fix - r) / 2 ^ (k + 1)
/-- The binary logarithm of a fixed-point number from 1 to 2, by squaring: 128 fraction bits. -/
def log2Fix (m : Nat) : Nat :=
  let rec go : Nat → Nat → Nat → Nat
    | 0, _, acc => acc
    | fuel + 1, y, acc =>
      let z := fmulFix y y
      if z ≥ 2 * one then go fuel (z / 2) (2 * acc + 1) else go fuel z (2 * acc)
  go 128 m 0
/-- erf(x / sqrt 2) for x from 0 to 16: sqrt(2/pi) times the sum of (-1)^i x^(2i+1) / (2^i i! (2i+1)). -/
def erfFix (x : Nat) : Nat :=
  let rec go : Nat → Nat → Nat → Bool → Int → Int
    | 0, _, _, _, acc => acc
    | fuel + 1, i, t, neg, acc =>
      if t = 0 then acc
      else
        let u : Nat := t / (2 * i + 1)
        go fuel (i + 1) (fmulFix (fmulFix t x) x / (2 * (i + 1))) (!neg) (if neg then acc - u else acc + u)
  (go 900 0 x false 0).toNat * Nat.sqrt (2 * one * one * one / piFix) / one

/-! ### The functions on finite, non-zero values -/

/-- The special functions (R132). -/
inductive SfuFn where
  | rcp | rsq | sqrt | exp2 | log2 | sin | cos | tanh | sigm
deriving DecidableEq, Repr

/-- A fixed-point magnitude that stands for a value that is no rational of few bits, rounded into FP32. -/
def roundFix (ftz neg : Bool) (m : Nat) : FR := f32.round .rne ftz neg m (-(fixBits : Int)) true

/-- The greatest magnitude in fixed point that FTANH and FSIGM tell apart: they saturate well below it. -/
def satFix (m : Nat) (e : Int) : Nat := if bitLen m + e > 8 then 256 * one else toFix m e

/-- 1/x, exact before its rounding. -/
def rcpFin (ftz neg : Bool) (m : Nat) (e : Int) : FR := f32.roundQuot .rne ftz neg 1 m (-e)

/-- The square root of m * 2^e, exact before its rounding. -/
def sqrtFin (ftz : Bool) (m : Nat) (e : Int) : FR :=
  let odd := e % 2 != 0
  let x := (if odd then 2 * m else m) * 2 ^ 64
  let r := Nat.sqrt x
  f32.round .rne ftz false r ((if odd then e - 1 else e) / 2 - 32) (r * r != x)

/-- 1 over the square root of m * 2^e, exact before its rounding. -/
def rsqFin (ftz : Bool) (m : Nat) (e : Int) : FR :=
  let odd := e % 2 != 0
  let x := if odd then 2 * m else m
  let r := Nat.sqrt (2 ^ 128 / x)
  f32.round .rne ftz false r (-(if odd then e - 1 else e) / 2 - 64) (r * r * x != 2 ^ 128)

/-- 2^x for x = (-1)^neg * m * 2^e: exact where x is whole. -/
def exp2Fin (ftz neg : Bool) (m : Nat) (e : Int) : FR :=
  let whole := 0 ≤ e || m % 2 ^ (Nat.min (-e).toNat (bitLen m + 1)) == 0
  if whole then
    let k : Int := if 0 ≤ e then m * 2 ^ e.toNat else m / 2 ^ (-e).toNat
    f32.round .rne ftz false 1 (if neg then -k else k) false
  else
    let x := toFix m e
    let k := x / one
    let r := x % one
    let up (y : Nat) : Nat := expFix (fmulFix y ln2Fix)
    if neg then f32.round .rne ftz false (up (one - r)) (-(k : Int) - 1 - fixBits) true
    else f32.round .rne ftz false (up r) (k - fixBits) true

/-- log2 of m * 2^e: exact for a power of 2. -/
def log2Fin (ftz : Bool) (m : Nat) (e : Int) : FR :=
  let k := bitLen m - 1
  let E : Int := e + k
  if m = 2 ^ k then ({ fmt := f32, rm := .rne, ftz } : FCfg).put (ofInt E)
  else
    let l : Int := E * 2 ^ 128 + log2Fix (m * 2 ^ (fixBits - k))
    f32.round .rne ftz (l < 0) l.natAbs (-128) true

/-- The quadrant and the rest of a magnitude by pi/2. -/
def quadrant (m : Nat) (e : Int) : Nat × Nat :=
  let x := toFix m e
  (x / (piFix / 2) % 4, x % (piFix / 2))

/-- sin of (-1)^neg * m * 2^e. -/
def sinFin (ftz neg : Bool) (m : Nat) (e : Int) : FR :=
  let q := quadrant m e
  roundFix ftz (neg != (q.1 ≥ 2)) (if q.1 % 2 = 0 then sinFix q.2 else cosFix q.2)

/-- cos of (-1)^neg * m * 2^e. -/
def cosFin (ftz : Bool) (m : Nat) (e : Int) : FR :=
  let q := quadrant m e
  roundFix ftz (q.1 == 1 || q.1 == 2) (if q.1 % 2 = 0 then cosFix q.2 else sinFix q.2)

/-- tanh of (-1)^neg * m * 2^e. -/
def tanhFin (ftz neg : Bool) (m : Nat) (e : Int) : FR :=
  let t := expNegFix (2 * satFix m e)
  roundFix ftz neg (if t = 0 then one - 1 else (one - t) * one / (one + t))

/-- 1 / (1 + e^-x) for x = (-1)^neg * m * 2^e. -/
def sigmFin (ftz neg : Bool) (m : Nat) (e : Int) : FR :=
  let t := expNegFix (satFix m e)
  roundFix ftz false (if neg then t * one / (one + t) else one * one / (one + t))

/-- gelu of (-1)^neg * m * 2^e (R162). -/
def geluFin (neg : Bool) (m : Nat) (e : Int) : FR :=
  if bitLen m + e > 4 then
    if neg then f32.round .rne false true 1 (-1000) true
    else f32.round .rne false false (m * 2 ^ 64 - 1) (e - 64) true
  else
    let x := toFix m e
    let r := erfFix x
    f32.round .rne false neg (x * (if neg then one - r else one + r)) (-(2 * fixBits + 1 : Int)) true

/-! ### Special inputs -/

/-- A special function of a value (R132, R133), under FTZ of the result. -/
def sfuVal (fn : SfuFn) (ftz : Bool) (v : FVal) : FR :=
  let q (b c : Nat) : FR := { bits := b, cls := c }
  let neg := v.neg
  f32.mark [v] (match v with
    | .nan _ => q f32.nan 0
    | .inf n =>
      match fn with
      | .rcp => q (f32.sign n) 0
      | .rsq => if n then f32.invalid else q 0 0
      | .sqrt | .log2 => if n then f32.invalid else q (f32.inf false) 0
      | .exp2 => if n then q 0 0 else q (f32.inf false) 0
      | .sin | .cos => f32.invalid
      | .tanh => q (f32.sign n + 0x3F800000) 0
      | .sigm => q (if n then 0 else 0x3F800000) 0
    | .fin _ 0 _ =>
      match fn with
      | .rcp | .rsq => q (f32.inf neg) Cls.dz
      | .log2 => q (f32.inf true) Cls.dz
      | .sqrt | .sin | .tanh => q (f32.sign neg) 0
      | .exp2 | .cos => q 0x3F800000 0
      | .sigm => q 0x3F000000 0
    | .fin n m e =>
      match fn with
      | .rcp => rcpFin ftz n m e
      | .rsq => if n then f32.invalid else rsqFin ftz m e
      | .sqrt => if n then f32.invalid else sqrtFin ftz m e
      | .exp2 => exp2Fin ftz n m e
      | .log2 => if n then f32.invalid else log2Fin ftz m e
      | .sin => sinFin ftz n m e
      | .cos => cosFin ftz m e
      | .tanh => tanhFin ftz n m e
      | .sigm => sigmFin ftz n m e)

/-- An SFU instruction (R101, R104, R132): its result is deferred and arrives 6 ck after issue. -/
def sfuOp (s : State) (i : Instr) (fn : SfuFn) (d a : Nat) : Out :=
  issue s i fun p =>
    if !p.deferRoom then s.deferWait p
    else
      let res := p.lanes.map fun L => (L, sfuVal fn p.ftz (p.fv (p.v a L)))
      let w := s.wordsAt p p.idx
      let dfr : Deferred := { uid := s.uid, kind := .sfu, idx := p.idx, w0 := w.1, w1 := w.2, uni := false, d, size := 4, sext := false,
                              lanes := res.map fun e => { lane := e.1, addr := 0, res := .bound e.2.bits },
                              cls := res.map fun e => (e.1, e.2.cls), trapen := p.r.trapen, ready := s.now + 6 }
      (s.fresh 1).retire (p.defer dfr) 1 1

/-- FRCP (R133). -/
def execFrcp (d a : Nat) (s : State) : Out := sfuOp s (.frcp d a) .rcp d a
/-- FRSQ (R133). -/
def execFrsq (d a : Nat) (s : State) : Out := sfuOp s (.frsq d a) .rsq d a
/-- FSQRT (R133). -/
def execFsqrt (d a : Nat) (s : State) : Out := sfuOp s (.fsqrt d a) .sqrt d a
/-- FEXP2 (R133). -/
def execFexp2 (d a : Nat) (s : State) : Out := sfuOp s (.fexp2 d a) .exp2 d a
/-- FLOG2 (R133). -/
def execFlog2 (d a : Nat) (s : State) : Out := sfuOp s (.flog2 d a) .log2 d a
/-- FSIN (R133). -/
def execFsin (d a : Nat) (s : State) : Out := sfuOp s (.fsin d a) .sin d a
/-- FCOS (R133). -/
def execFcos (d a : Nat) (s : State) : Out := sfuOp s (.fcos d a) .cos d a
/-- FTANH (R133). -/
def execFtanh (d a : Nat) (s : State) : Out := sfuOp s (.ftanh d a) .tanh d a
/-- FSIGM (R133). -/
def execFsigm (d a : Nat) (s : State) : Out := sfuOp s (.fsigm d a) .sigm d a

/-! ### LMV -/

/-- One step of an LMV chain (R86): the accumulator and the classes so far. -/
def lmvStep (c : FCfg) (acc : Nat × Nat) (w x : FVal) : Nat × Nat :=
  let r := c.fma w x (f32.val c.ftz acc.1)
  (r.bits, acc.2 ||| r.cls)

/-- The weight (i, j) of a matrix at a constant offset: BF16 widened exactly, or FP32 (R86, R134). -/
def State.weight (s : State) (core img : Nat) (wide : Bool) (off cols i j : Nat) : Nat :=
  if wide then leNat (s.constRead core img (off + (i * cols + j) * 4) 4)
  else leNat (s.constRead core img (off + (i * cols + j) * 2) 2) * 2 ^ 16

/-- LMV (R86, R104, R134, R323). -/
def execLmv (wide : Bool) (bias : Option Nat) (d a rows cols off : Nat) (s : State) : Out :=
  issue s (.lmv wide bias d a rows cols off) fun p =>
    let e := if wide then 4 else 2
    let img := s.runImage p.id.slot
    let core := s.cur.core
    if off + rows * cols * e > s.constBytes p.id.slot then s.trapIssue s.cur p 2 (p.allLanes 7 0 off)
    else if s.constPoison core img off (rows * cols * e) then s.trapIssue s.cur p 2 (p.allLanes 11 0 off)
    else
      let c : FCfg := { fmt := f32, rm := .rne, ftz := p.ftz }
      let row (L i : Nat) : Nat × Nat :=
        let acc := match bias with | some b => (p.v (b + i) L).toNat | none => 0
        (List.range cols).foldl (fun q j => lmvStep c q (f32.val p.ftz (s.weight core img wide off cols i j)) (p.fv (p.v (a + j) L)))
          (acc, 0)
      let lane (L : Nat) : LaneOut :=
        let rs := (List.range rows).map (row L)
        { vals := rs.map fun q => BitVec.ofNat 32 q.1, cls := rs.foldl (fun m q => m ||| q.2) 0 }
      let res := p.lanes.map fun L => (L, lane L)
      let occ := (rows * cols + (if wide then 3 else 7)) / (if wide then 4 else 8)
      s.completeAt (p.writeLanes d res) 2 occ true (fun _ => off) (res.map fun q => (q.1, q.2.cls))

end Sys2Proof.Machine
end

