-- ==== Sys2Proof/Machine/Tile.lean ====
section
/-! DEFINITION. Tile instructions at issue: their checks, the engine queue, and TDESC (R141, R147, R148, R156 to R163). -/

namespace Sys2Proof.Machine

/-- The descriptor in a register of a pack (R144). -/
def Pack.desc (p : Pack) (td : Nat) : Desc := Desc.ofWords (p.tdw td 0).toNat (p.tdw td 1).toNat

/-- The open batch with one member more (R151). -/
def Pack.joinBatch (p : Pack) : Pack :=
  let o := p.c.bopen
  let bs := if p.c.batches.any (fun b => b.num == o)
    then p.c.batches.map fun b => if b.num = o then { b with members := b.members + 1 } else b
    else p.c.batches ++ [{ num := o, members := 1, cls := 0, psc := false, closed := false, done := false }]
  { p with c := { p.c with batches := bs } }

/-- The engine queue has room for a pack of a tier: two entries are kept for tiers 1 and 2 (R148). The instruction that
the engine runs keeps its entry until it ends: DESIGN CHOICE (log 75). -/
def Pipe.engineRoom (q : Pipe) (tier : Nat) : Bool := q.queue.length + (if tier = 3 then 3 else 1) ≤ 16

/-- An engine instruction put in the queue of its pipeline with the descriptor it captures (R148). -/
def State.enqueue (s : State) (p : Pack) (i : Instr) (td : Nat) : State :=
  let op : EngOp := { uid := s.uid, serial := p.id.serial, slot := s.cur.slot, instr := i, w0 := (p.tdw td 0).toNat,
                      w1 := (p.tdw td 1).toNat, batch := p.c.bopen, tier := p.id.tier }
  (((s.fresh 1).modPipe s.cur.core s.cur.pipe fun q => { q with queue := q.queue ++ [op] }).engineStart s.cur.core s.cur.pipe).retire
    p.joinBatch (instrLen i) 1

/-- An engine instruction at issue: its entry's checks give no cause, and the queue has room; else it traps pack-wide, or
it parks before issue (R148). -/
def engineIssue (s : State) (i : Instr) (td : Nat) (cause : Pack → Option Nat) : Out :=
  issue s i fun p =>
    match cause p with
    | some c => s.trapIssue s.cur p (instrLen i) (p.allLanes c 0 0)
    | none =>
      if !((s.core s.cur.core).pipe s.cur.pipe).engineRoom p.id.tier then s
      else s.enqueue p i td

/-- The checks of TLD and TST (R156): the descriptor, then the frame words of its view range. -/
def moveCause (words : Nat) (tr : Bool) (d : Desc) : Option Nat :=
  if !d.wellFormed || (tr && (d.elem.isGrouped || d.ext != d.rows * d.cols * d.elem.bytes)) then some 12
  else if (d.base + d.ext - 1) / 128 < words then none else some 5

/-- The check of MMAQ (R159). -/
def mmaqCause (ta tw : ElemTy) (d : Desc) : Option Nat :=
  if d.wellFormed && d.ty == tw.code && d.rows == (if ta.bytes = 2 then 128 else 256) && d.cols == 64 then none else some 12

/-- The rotation length of QUANT (R84). -/
def rotLen : Rot → Nat | .none => 0 | .r32 => 32 | .r64 => 64 | .r128 => 128

/-- The check of QUANT (R160). -/
def quantCause (t : ElemTy) (rot : Rot) (d : Desc) : Option Nat :=
  if d.wellFormed && d.ty == t.code && d.rows * d.cols ≤ 4096 && (rot == .none || d.kAxis % rotLen rot == 0) then none else some 12

/-- The check of DEQ (R161). -/
def deqCause (t : ElemTy) (d : Desc) : Option Nat :=
  if d.wellFormed && d.ty != t.code && (d.elem != .f32 || t == .bf16 || t == .f16) && d.rows * d.cols * t.bytes ≤ 16384
  then none else some 12

/-- TZERO (R154). -/
def execTzero (md : Nat) (s : State) : Out := engineIssue s (.tzero md) 0 fun _ => none
/-- TLD (R155, R156). -/
def execTld (tr : Bool) (md td : Nat) (s : State) : Out :=
  engineIssue s (.tld tr md td) td fun p => moveCause (s.frameWords p.id.slot) tr (p.desc td)
/-- TST (R155, R156). -/
def execTst (tr : Bool) (ma td : Nat) (s : State) : Out :=
  engineIssue s (.tst tr ma td) td fun p => moveCause (s.frameWords p.id.slot) tr (p.desc td)
/-- MMA (R157). -/
def execMma (ta tb : ElemTy) (md ma mb : Nat) (s : State) : Out := engineIssue s (.mma ta tb md ma mb) 0 fun _ => none
/-- MMAS (R158). -/
def execMmas (p48 : Bool) (ta tb : ElemTy) (md ma mb mm : Nat) (s : State) : Out :=
  engineIssue s (.mmas p48 ta tb md ma mb mm) 0 fun _ => none
/-- MMAQ (R159). -/
def execMmaq (ta tw : ElemTy) (md ma mb td : Nat) (s : State) : Out :=
  engineIssue s (.mmaq ta tw md ma mb td) td fun p => mmaqCause ta tw (p.desc td)
/-- QUANT (R160). -/
def execQuant (t : ElemTy) (rot : Rot) (md ma td : Nat) (s : State) : Out :=
  engineIssue s (.quant t rot md ma td) td fun p => quantCause t rot (p.desc td)
/-- DEQ (R161). -/
def execDeq (t : ElemTy) (md ma td : Nat) (s : State) : Out :=
  engineIssue s (.deq t md ma td) td fun p => deqCause t (p.desc td)
/-- TACT (R162). -/
def execTact (act : Act) (out : ElemTy) (bias : Option Nat) (md ma : Nat) (s : State) : Out :=
  engineIssue s (.tact act out bias md ma) 0 fun _ => none
/-- TRED (R163). -/
def execTred (op : TredOp) (col : Bool) (md ma : Nat) (s : State) : Out := engineIssue s (.tred op col md ma) 0 fun _ => none

/-- TDESC (R147): word 1 is checked at issue; it completes there and joins no batch. -/
def execTdesc (td a w0 : Nat) (s : State) : Out :=
  issue s (.tdesc td a w0) fun p =>
    if (Desc.ofWords w0 (p.s a).toNat).word1Ok then s.retire (p.setTd td (BitVec.ofNat 32 w0) (p.s a)) 2 1
    else (s.occupy s.cur 1).trapIssue s.cur p 2 (p.allLanes 12 0 0)

end Sys2Proof.Machine
end

