-- ==== Sys2Proof/Machine/Engine.lean ====
section
/-! DEFINITION. The matrix engine: what each of its instructions computes (R84, R89 to R92, R142 to R145, R154 to R164)
and the event that ends the one that runs (R148). -/

namespace Sys2Proof.Machine

/-! ### Tile bytes -/

/-- The bytes of a tile. -/
def tileBytes (t : Tile) : Array Byte := t.data.foldr (fun e a => a.setIfInBounds e.1 e.2) (Array.replicate 16384 0)
/-- A tile's data of a list of bytes from byte 0; every other byte is zero. -/
def tileOf (bs : List Byte) : Sparse 8 := (bs.zipIdx.filter fun e => e.1 != 0).map fun e => (e.2, e.1)
/-- n little-endian bytes at an offset. -/
def arrNat (a : Array Byte) (off n : Nat) : Nat := leNat ((List.range n).map fun i => a.getD (off + i) 0)

/-- Element k of a row-major layout of a type (R142, R145): the bits of a code; a nibble for .q4, the even one low. -/
def elemAt (a : Array Byte) (t : ElemTy) (k : Nat) : Nat :=
  if t = .q4 then (a.getD (k / 2) 0).toNat / 2 ^ (4 * (k % 2)) % 16 else arrNat a (k * t.bytes) t.bytes

/-- The value of an element of a floating-point type, subnormals kept (R80). -/
def fltAt (a : Array Byte) (t : ElemTy) (k : Nat) : FVal := ((fmtOf t).getD f32).val false (elemAt a t k)

/-- The bytes of results in a type's layout: words of e bytes in order. -/
def packBytes (e : Nat) (xs : List Nat) : List Byte := xs.flatMap fun x => leBytes e x

/-- The bytes of nibbles in order, the even one low (R77, R145). -/
def packNibbles : List Nat → List Byte
  | a :: b :: t => BitVec.ofNat 8 (a % 16 + 16 * (b % 16)) :: packNibbles t
  | [a] => [BitVec.ofNat 8 (a % 16)]
  | [] => []

/-- The classes that tile instructions count (R97). -/
def tileClasses : Nat := 0x65

/-- The mode of the engines (R79, R80). -/
def engCfg (f : Fmt) : FCfg := { fmt := f, rm := .rne, ftz := false }

/-! ### Products -/

/-- What a chunk or a group sums to: a value that is exact, with the classes of its special cases (R92). -/
structure Term where
  val : FVal
  cls : Nat
deriving DecidableEq, Repr

/-- The exact sum of products, zeros signed as R89 says. -/
def exactSum (ps : List FVal) : FVal :=
  let fin (v : FVal) : Option (Bool × Nat × Int) := match v with | .fin n m e => some (n, m, e) | _ => none
  let fs := ps.filterMap fin
  let e := fs.foldl (fun (a : Int) x => if x.2.1 = 0 then a else min a x.2.2) 0
  let t := fs.foldl (fun (a : Int) x => if x.2.1 = 0 then a else a + scaled x.1 x.2.1 x.2.2 e) 0
  if t = 0 then .fin (!fs.isEmpty && fs.all fun x => x.1 && x.2.1 == 0) 0 0 else .fin (t < 0) t.natAbs e

/-- The exact sum of products of pairs, with R92 for what is not finite. -/
def dot (xs : List (FVal × FVal)) : Term :=
  let prods := xs.map fun e => mulVal e.1 e.2
  let nanIn := xs.any fun e => e.1.isNan || e.2.isNan
  let sig := xs.any fun e => e.1.isSig || e.2.isSig
  let bad := prods.any fun q => q.isNone
  let vs := prods.filterMap id
  let pos := vs.any fun v => v == .inf false
  let neg := vs.any fun v => v == .inf true
  let iv := if sig || bad || (pos && neg) then Cls.iv else 0
  if nanIn || bad || (pos && neg) then { val := .nan false, cls := iv ||| if nanIn then 0 else Cls.np }
  else if pos || neg then { val := .inf neg, cls := iv }
  else { val := exactSum vs, cls := iv }

/-- A term rounded to FP32, then added to the accumulator with a second rounding (R89, R91). -/
def accumulate (acc : Nat × Nat) (t : Term) (srcs : List FVal) : Nat × Nat :=
  let c := engCfg f32
  let r := c.put t.val
  let ip := if (f32.val false r.bits).isInf && !(srcs.any FVal.isInf) then Cls.ip else 0
  let q := c.add (f32.val false acc.1) (f32.val false r.bits)
  (q.bits, acc.2 ||| t.cls ||| r.cls ||| ip ||| q.cls)

/-- An exact integer sum added to an .i32 accumulator that saturates (R89). -/
def accumulateInt (acc : Nat × Nat) (t : Int) : Nat × Nat :=
  let e := (BitVec.ofNat 32 acc.1).toInt + t
  let q := clampTy .i32 e
  ((BitVec.ofInt 32 q).toNat, acc.2 ||| if q = e then 0 else Cls.of)

/-- The K of a type (R142). -/
def kOf (t : ElemTy) : Nat := if t.bytes = 2 then 128 else 256

/-- One element of a product, from its accumulator and the pairs along K, in chunks of 32 (R89). -/
def mmaElem (isInt : Bool) (acc : Nat) (k : Nat) (f : Nat → FVal × FVal) (g : Nat → Int) : Nat × Nat :=
  (List.range ((k + 31) / 32)).foldl (fun q ch =>
    let ks := (List.range 32).filterMap fun x => if ch * 32 + x < k then some (ch * 32 + x) else none
    if isInt then accumulateInt q (ks.foldl (fun a x => a + g x) 0)
    else
      let xs := ks.map f
      accumulate q (dot xs) (xs.flatMap fun e => [e.1, e.2])) (acc, 0)

/-- A 64 x 64 result of 32-bit elements: its bytes and its classes. -/
def grid64 (f : Nat → Nat → Nat × Nat) : List Byte × Nat :=
  let es := (List.range 64).flatMap fun i => (List.range 64).map fun j => f i j
  (packBytes 4 (es.map Prod.fst), es.foldl (fun a e => a ||| e.2) 0)

/-- The product of a dense A, given by its elements' bits, with B, on the accumulator C (R89, R157). A row with malformed metadata is the
FP32 canonical NaN whatever the element type, and counts IV alone (R158; DESIGN CHOICE, log 67). -/
def mmaOn (c b : Array Byte) (ta tb : ElemTy) (a : Nat → Nat → Nat) (bad : Nat → Bool) : List Byte × Nat :=
  let k := kOf ta
  let fa := (fmtOf ta).getD f32
  grid64 fun i j =>
    if bad i then (f32.nan, Cls.iv)
    else mmaElem ta.isInt (arrNat c ((i * 64 + j) * 4) 4) k (fun x => (fa.val false (a i x), fltAt b tb (x * 64 + j)))
      fun x => elemInt ta (a i x) * elemInt tb (elemAt b tb (x * 64 + j))

/-- The positions that the metadata of a row gives, or none where it is not in form (R158). -/
def mmasRow (p48 : Bool) (mm : Array Byte) (k i : Nat) : Option (List Nat) :=
  let n := if p48 then 4 else 2
  let nib (sx : Nat) : Nat := (mm.getD ((i * (k / 2) + sx) / 2) 0).toNat / 2 ^ (4 * ((i * (k / 2) + sx) % 2)) % 16
  let ns := (List.range (k / 2)).map nib
  let rising : List Nat → Bool := fun l => (l.zip (l.drop 1)).all fun e => e.1 < e.2
  let ok := (List.range (k / 2 / n)).all fun g =>
    let gs := (ns.drop (g * n)).take n
    gs.all (fun x => x < 2 * n) && rising gs
  if ok then some ((ns.zipIdx).map fun e => e.2 / n * (2 * n) + e.1) else none

/-- MMAS (R90, R158). A malformed row is the canonical NaN in every column, and counts IV. -/
def mmasOn (p48 : Bool) (c a b mm : Array Byte) (ta tb : ElemTy) : List Byte × Nat :=
  let k := kOf ta
  let rows := ((List.range 64).map fun i => mmasRow p48 mm k i).toArray
  let dense (i x : Nat) : Nat :=
    match rows.getD i none with
    | none => 0
    | some ps => match ps.findIdx? fun y => y == x with
      | some sx => elemAt a ta (i * (k / 2) + sx)
      | none => 0
  mmaOn c b ta tb dense fun i => (rows.getD i none).isNone

/-- The term of a group of MMAQ (R91, R92): the scale times the sum of a * q less the zero point times the sum of a. -/
def mmaqTerm (sc : FVal) (z : Nat) (xs : List (FVal × Nat)) : Term :=
  let d := dot (xs.map fun e => (e.1, .fin false e.2 0))
  let sig := if sc.isSig then Cls.iv else 0
  match d.val with
  | .nan _ => { val := .nan false, cls := (if sc.isNan then d.cls &&& Cls.iv else d.cls) ||| sig }
  | .inf n => if sc.isNan then { val := .nan false, cls := d.cls ||| sig } else { val := .inf n, cls := d.cls }
  | .fin _ _ _ =>
    let diff := exactSum (xs.flatMap fun e => match e.1 with
      | .fin n m x => [.fin n (m * e.2) x, .fin (!n) (m * z) x]
      | v => [v])
    match sc, diff with
    | .nan _, _ => { val := .nan false, cls := sig }
    | .inf n, .fin n2 m _ => if m = 0 then { val := .nan false, cls := Cls.iv ||| Cls.np } else { val := .inf (n != n2), cls := 0 }
    | .fin ns ms es, .fin n2 m e => { val := if m = 0 then .fin ns 0 0 else .fin (ns != n2) (ms * m) (es + e), cls := 0 }
    | _, v => { val := v, cls := 0 }

/-- The scale of a group in a column (R145). -/
def scaleAt (a : Array Byte) (d : Desc) (g j : Nat) : Nat := arrNat a (d.soff + (g * d.cols + j) * 2) 2
/-- The zero point of a group in a column; bits 7:4 of a .q4 one are ignored (R77, R145). -/
def zeroAt (a : Array Byte) (d : Desc) (g j : Nat) : Nat :=
  (a.getD (d.zoff + g * d.cols + j) 0).toNat % (if d.elem = .q4 then 16 else 256)

/-- The value of an activation of MMAQ: an integer or a floating-point one. -/
def actAt (a : Array Byte) (t : ElemTy) (k : Nat) : FVal := if t.isInt then ofInt (elemInt t (elemAt a t k)) else fltAt a t k

/-- MMAQ (R91, R159). -/
def mmaqOn (c a b : Array Byte) (ta tw : ElemTy) (d : Desc) : List Byte × Nat :=
  let k := kOf ta
  let gs := groupSize d.grp
  grid64 fun i j =>
    (List.range (k / gs)).foldl (fun q g =>
      let xs := (List.range gs).map fun x => (actAt a ta (i * k + g * gs + x), elemAt b tw ((g * gs + x) * 64 + j))
      let sc := f16.val false (scaleAt b d g j)
      accumulate q (mmaqTerm sc (zeroAt b d g j) xs) (sc :: xs.map Prod.fst)) (arrNat c ((i * 64 + j) * 4) 4, 0)

/-! ### QUANT and DEQ -/

/-- The parity of the one bits of i and k (R84). -/
def walshNeg (i k : Nat) : Bool := (bitsOf (i &&& k) 7).length % 2 == 1

/-- The Walsh-Hadamard transform of one run with its classes (R84). -/
def rotateRun (xs : List Nat) : List Nat × Nat :=
  let n := xs.length
  let h : Int := if n = 32 then 2 else 3
  let vs := xs.map fun x => f32.val false x
  let nan := vs.any FVal.isNan
  let sig := if vs.any FVal.isSig then Cls.iv else 0
  let out (i : Nat) : FR :=
    if nan then { bits := f32.nan, cls := sig }
    else
      let ts := (vs.zipIdx).map fun e => if walshNeg i e.2 then e.1.negate else e.1
      let pos := ts.any fun v => v == .inf false
      let neg := ts.any fun v => v == .inf true
      let r : FR := if pos && neg then f32.invalid
        else if pos || neg then { bits := f32.inf neg, cls := 0 }
        else (engCfg f32).put (match exactSum ts with | .fin s m e => .fin s m (e - h) | v => v)
      f32.mark vs r
  let rs := (List.range n).map out
  (rs.map FR.bits, rs.foldl (fun a r => a ||| r.cls) 0)

/-- The source of QUANT after its rotation along the K axis (R84, R160), row-major. -/
def rotated (x : Nat → Nat) (d : Desc) (n : Nat) : Array Nat × Nat :=
  if n = 0 then (((List.range (d.rows * d.cols)).map x).toArray, 0)
  else
    let lines := if d.elem.isGrouped then d.cols else d.rows
    let at_ (l k : Nat) : Nat := if d.elem.isGrouped then k * d.cols + l else l * d.cols + k
    let runs := (List.range lines).flatMap fun l => (List.range (d.kAxis / n)).map fun r => (l, r)
    runs.foldl (fun acc e =>
      let q := rotateRun ((List.range n).map fun y => x (at_ e.1 (e.2 * n + y)))
      ((q.1.zipIdx).foldl (fun a v => a.setIfInBounds (at_ e.1 (e.2 * n + v.2)) v.1) acc.1, acc.2 ||| q.2))
      (Array.replicate (d.rows * d.cols) 0, 0)

/-- A quotient of whole numbers rounded to nearest, ties to even. -/
def roundRat (num : Int) (den : Nat) : Int :=
  let q := num.natAbs / den
  let r := num.natAbs % den
  let up := 2 * r > den || (2 * r == den && q % 2 == 1)
  let m : Int := if up then q + 1 else q
  if num < 0 then -m else m

/-- The nearest integer to x / y for finite x and finite y above zero (R160). -/
def quotInt (x y : FVal) : Int :=
  match x, y with
  | .fin nx mx ex, .fin _ my ey =>
    let num := mx * 2 ^ (ex - ey).toNat
    let den := my * 2 ^ (ey - ex).toNat
    roundRat (if nx then -(num : Int) else num) den
  | _, _ => 0

/-- A number cut to a range. -/
def clampInt (lo hi x : Int) : Int := if x < lo then lo else if hi < x then hi else x

/-- The parameters and codes of one group of a column (R160). -/
structure Group where
  scale : Nat
  zero  : Nat
  codes : List Nat
  cls   : Nat
deriving DecidableEq, Repr

/-- One group quantised to b bits (R160); the NaN scale of a group without a NaN is a NaN produced (R92). -/
def quantGroup (b : Nat) (xs : List Nat) : Group :=
  let vs := xs.map fun x => f32.val false x
  let sig := if vs.any FVal.isSig then Cls.iv else 0
  if vs.any fun v => v.isNan || v.isInf then
    { scale := 0x7E00, zero := 0, codes := vs.map fun _ => 0,
      cls := Cls.iv ||| sig ||| if vs.any FVal.isNan then 0 else Cls.np }
  else
    let z : FVal := .fin false 0 0
    let lo := vs.foldl (fun a v => if v.lt a then v else a) z
    let hi := vs.foldl (fun a v => if a.lt v then v else a) z
    if lo.isZero && hi.isZero then { scale := 0, zero := 0, codes := vs.map fun _ => 0, cls := 0 }
    else
      let top : Nat := 2 ^ b - 1
      let r : FR := match exactSum [hi, lo.negate] with
        | .fin _ m e => f16.roundQuot .rne false false m top e
        | _ => { bits := 0, cls := 0 }
      let big := (f16.val false r.bits).isInf
      let scale := if r.bits = 0 then 1 else if big then 0x7BFF else r.bits
      let sv := f16.val false scale
      let zp := clampInt 0 top (quotInt lo.negate sv)
      { scale, zero := zp.toNat, codes := vs.map fun v => (clampInt 0 top (quotInt v sv + zp)).toNat,
        cls := if big then Cls.of else 0 }

/-- QUANT (R160): the bytes of the tile and the classes. -/
def quantOn (a : Array Byte) (t : ElemTy) (rot : Rot) (d : Desc) : List (Nat × List Byte) × Nat :=
  let src := rotated (fun k => arrNat a (k * 4) 4) d (rotLen rot)
  let n := d.rows * d.cols
  if t.isGrouped then
    let gs := groupSize d.grp
    let groups := ((List.range (d.rows / gs)).flatMap fun g => (List.range d.cols).map fun j =>
      quantGroup (if t = .q4 then 4 else 8) ((List.range gs).map fun x => src.1.getD ((g * gs + x) * d.cols + j) 0)).toArray
    let nil : Group := { scale := 0, zero := 0, codes := [], cls := 0 }
    let code (k : Nat) : Nat :=
      let i := k / d.cols
      ((groups.getD (i / gs * d.cols + k % d.cols) nil).codes).getD (i % gs) 0
    let codes := (List.range n).map code
    ([(0, if t = .q4 then packNibbles codes else packBytes 1 codes), (d.soff, packBytes 2 (groups.toList.map Group.scale)),
      (d.zoff, packBytes 1 (groups.toList.map Group.zero))], groups.foldl (fun c g => c ||| g.cls) src.2)
  else
    let rs := src.1.toList.map fun x => convert t .f32 .rne false x
    ([(0, packBytes 1 (rs.map fun r => r.1.toNat % 256))], rs.foldl (fun c r => c ||| r.2) src.2)

/-- The exact value of an element of a DEQ source (R161), with the class of a scale that is infinite against zero. -/
def deqVal (a : Array Byte) (d : Desc) (k : Nat) : FVal × List FVal :=
  let t := d.elem
  if t.isGrouped then
    let g := k / d.cols / groupSize d.grp
    let sc := f16.val false (scaleAt a d g (k % d.cols))
    let q : Int := (elemAt a t k : Int) - zeroAt a d g (k % d.cols)
    (match mulVal sc (ofInt q) with | some v => v | none => .nan true, [sc])
  else if t.isInt then (ofInt (elemInt t (elemAt a t k)), [])
  else (fltAt a t k, [fltAt a t k])

/-- DEQ (R161). -/
def deqOn (a : Array Byte) (t : ElemTy) (d : Desc) : List Byte × Nat :=
  let f := (fmtOf t).getD f32
  let one_ (k : Nat) : FR :=
    let v := deqVal a d k
    let bad := v.1 == .nan true && !(v.2.any FVal.isNan)
    let r := f.mark v.2 ((engCfg f).put v.1)
    if bad then { r with cls := r.cls ||| Cls.iv } else r
  let rs := (List.range (d.rows * d.cols)).map one_
  (packBytes t.bytes (rs.map FR.bits), rs.foldl (fun c r => c ||| r.cls) 0)

/-! ### TACT and TRED -/

/-- An activation of an FP32 value, correctly rounded (R162). -/
def actVal (act : Act) (x : Nat) : FR :=
  let v := f32.val false x
  match act with
  | .copy => f32.mark [v] (if v.isNan then { bits := f32.nan, cls := 0 } else { bits := x, cls := 0 })
  | .relu => f32.mark [v] (if v.isNan then { bits := f32.nan, cls := 0 }
      else { bits := if (FVal.fin false 0 0).lt v then x else 0, cls := 0 })
  | .gelu => f32.mark [v] (match v with
      | .nan _ => { bits := f32.nan, cls := 0 }
      | .inf n => { bits := if n then f32.sign true else f32.inf false, cls := 0 }
      | .fin _ 0 _ => { bits := x, cls := 0 }
      | .fin n m e => geluFin n m e)
  | .sigm => sfuVal .sigm false v
  | .tanh => sfuVal .tanh false v

/-- TACT (R162): the bias, the activation and the conversion, each rounded. -/
def tactOn (a : Array Byte) (bias : Option (Array Byte)) (act : Act) (out : ElemTy) : List Byte × Nat :=
  let f := (fmtOf out).getD f32
  let one_ (k : Nat) : FR :=
    let x := arrNat a (k * 4) 4
    let b : FR := match bias with
      | some m => (engCfg f32).add (f32.val false x) (f32.val false (arrNat m (k % 64 * 4) 4))
      | none => { bits := x, cls := 0 }
    let y := actVal act b.bits
    let yv := f32.val false y.bits
    let z := f.mark [yv] ((engCfg f).put yv)
    { bits := z.bits, cls := b.cls ||| y.cls ||| z.cls }
  let rs := (List.range 4096).map one_
  (packBytes out.bytes (rs.map FR.bits), rs.foldl (fun c r => c ||| r.cls) 0)

/-- One line reduced (R163). -/
def tredLine (op : TredOp) (xs : List Nat) : FR :=
  match op with
  | .sum => xs.foldl (fun q x =>
      let r := (engCfg f32).add (f32.val false q.bits) (f32.val false x)
      { bits := r.bits, cls := q.cls ||| r.cls }) { bits := 0, cls := 0 }
  | .max | .min => xs.tail.foldl (fun q x =>
      let r := minMax f32 false (op == .max) q.bits x
      { bits := r.bits, cls := q.cls ||| r.cls }) { bits := xs.headD 0, cls := 0 }
  | .amax =>
    let vs := xs.map fun x => f32.val false x
    { bits := if vs.any FVal.isNan then f32.nan else xs.foldl (fun m x => max m (x % 2 ^ 31)) 0
      cls := if vs.any FVal.isSig then Cls.iv else 0 }

/-- TRED (R163). -/
def tredOn (a : Array Byte) (op : TredOp) (col : Bool) : List Byte × Nat :=
  let line (l : Nat) : FR := tredLine op ((List.range 64).map fun x => arrNat a ((if col then x * 64 + l else l * 64 + x) * 4) 4)
  let rs := (List.range 64).map line
  (packBytes 4 (rs.map FR.bits), rs.foldl (fun c r => c ||| r.cls) 0)

/-! ### Moves between tiles and the frame -/

/-- The frame bytes of a view range: zero at inactive positions (R26, R155). -/
def viewRange (n : Nat) (m : Sparse 32) (base len : Nat) : Array Byte :=
  ((List.range (len / 4)).flatMap fun i => leBytes 4 (viewWord n m (base / 4 + i)).toNat).toArray

/-- The bytes of the transpose of a rows x cols matrix of elements of e bytes (R155). -/
def transposed (a : Array Byte) (rows cols e : Nat) : List Byte :=
  (List.range cols).flatMap fun j => (List.range rows).flatMap fun i => (List.range e).map fun b => a.getD ((i * cols + j) * e + b) 0

/-- A word of the range is poisoned at an active position. -/
def rangePoison (n : Nat) (bad : List Nat) (base len : Nat) : Bool :=
  bad.any fun k => base / 4 ≤ k && k < (base + len) / 4 && k % 32 < n

/-- TLD (R155, R164): the tile, and whether a poisoned frame word was read. -/
def tldOn (p : Pack) (tr : Bool) (d : Desc) : Tile :=
  let v := viewRange p.id.n p.m.frame d.base d.ext
  { data := tileOf (if tr then transposed v d.rows d.cols d.elem.bytes else v.toList)
    poison := rangePoison p.id.n p.m.frameBad d.base d.ext }

/-- TST (R155, R166): whole words written at active positions, with the tile's mark. -/
def tstOn (p : Pack) (t : Tile) (tr : Bool) (d : Desc) : Pack :=
  let a := tileBytes t
  let bs := (if tr then transposed a d.cols d.rows d.elem.bytes else a.toList.take d.ext).toArray
  let keys := (List.range (d.ext / 4)).filter fun i => (d.base / 4 + i) % 32 < p.id.n
  let fr := keys.foldl (fun m i => Sparse.set (d.base / 4 + i) (BitVec.ofNat 32 (arrNat bs (4 * i) 4)) m) p.m.frame
  let hit (k : Nat) : Bool := d.base / 4 ≤ k && k < (d.base + d.ext) / 4 && k % 32 < p.id.n
  let bad := if t.poison then keys.foldl (fun l i => addNew (d.base / 4 + i) l) p.m.frameBad else p.m.frameBad.filter fun k => !hit k
  { p with m := { p.m with frame := fr, frameBad := bad } }

/-! ### The event -/

/-- The occupancy of the engine (R143). -/
def engineOcc (o : EngOp) : Nat :=
  match o.instr with
  | .mma .. => 128
  | .mmas .. => 64
  | .mmaq ta tw .. => if ta.bytes = 1 && tw == .q4 then 64 else 128
  | .tzero _ => 8
  | .tld .. | .tst .. => 8 + ((Desc.ofWords o.w0 o.w1).ext + 255) / 256
  | .quant _ rot .. => if rot = .none then 64 else 96
  | .deq .. | .tact .. => 64
  | .tred .. => 32
  | _ => 0

/-- What an engine instruction does to its pack's tile with a number, from the tiles it reads (R154 to R164): the register
written, its tile and the classes; the pack where it stores to the frame. -/
def engineRun (c : Core) (pipe : Nat) (p : Pack) (o : EngOp) : Pack × Option (Nat × Tile) × Nat × Bool :=
  let tile (m : Nat) : Tile := c.tile pipe (p.m.tiles.getD m 16)
  let by_ (m : Nat) : Array Byte := tileBytes (tile m)
  let d := Desc.ofWords o.w0 o.w1
  let put (m : Nat) (r : List Byte × Nat) (srcs : List Nat) : Pack × Option (Nat × Tile) × Nat × Bool :=
    let bad := srcs.any fun x => (tile x).poison
    (p, some (m, { data := tileOf r.1, poison := bad }), r.2 &&& tileClasses, bad)
  match o.instr with
  | .tzero m => (p, some (m, { data := [], poison := false }), 0, false)
  | .tld tr m _ => let t := tldOn p tr d; (p, some (m, t), 0, t.poison)
  | .tst tr m _ => (tstOn p (tile m) tr d, none, 0, (tile m).poison)
  | .mma ta tb m a b => put m (mmaOn (by_ m) (by_ b) ta tb (let x := by_ a; fun i k => elemAt x ta (i * kOf ta + k)) fun _ => false) [m, a, b]
  | .mmas p48 ta tb m a b mm => put m (mmasOn p48 (by_ m) (by_ a) (by_ b) (by_ mm) ta tb) [m, a, b, mm]
  | .mmaq ta tw m a b _ => put m (mmaqOn (by_ m) (by_ a) (by_ b) ta tw d) [m, a, b]
  | .quant t rot m a _ =>
    let r := quantOn (by_ a) t rot d
    let bad := (tile a).poison
    (p, some (m, { data := r.1.foldl (fun x e => Sparse.setRun e.1 e.2 x) [], poison := bad }), r.2 &&& tileClasses, bad)
  | .deq t m a _ => put m (deqOn (by_ a) t d) [a]
  | .tact act out bias m a => put m (tactOn (by_ a) (bias.map by_) act out) (a :: bias.toList)
  | .tred op col m a => put m (tredOn (by_ a) op col) [a]
  | _ => (p, none, 0, false)

/-- ENGINE_INSTRUCTION_END (R143, R148, R151, R164): the engine's running instruction has taken its time and writes its results;
its batch's member ends. The frame words that a TLD reads and a TST writes move at this instant, all at once: R149 leaves open when
each one does (DESIGN CHOICE, log 64). Its queue entry is free from this instant on (DESIGN CHOICE, log 75). -/
def execEngineInstructionEnd (core pipe : Nat) (s : State) : Out :=
  let c := s.core core
  let q := c.pipe pipe
  match q.run.bind fun u => (List.range q.queue.length).find? fun i => (q.queue[i]?.map fun o => o.uid) == some u with
  | none => .next s
  | some i =>
    match q.queue[i]? with
    | none => .next s
    | some o =>
      if s.now < q.busy + engineOcc o then .next s
      else
        let s1 := (s.modPipe core pipe fun x => { x with queue := x.queue.eraseIdx i, run := none }).engineStart core pipe
        match s.refOf core o.serial with
        | none => .next s1
        | some r =>
          match s.pack r with
          | none => .next s1
          | some p =>
            let e := engineRun c pipe p o
            let s2 := match e.2.1 with
              | some (m, t) => s1.modCore core fun k => k.setTile pipe (p.m.tiles.getD m 16) t
              | none => s1
            .next ((s2.setPack r (e.1.endMember o.batch e.2.2.1 e.2.2.2)).countBatches r)

end Sys2Proof.Machine
end

