-- ==== Sys2Proof/Machine/Logic.lean ====
section
/-! DEFINITION. Logic, shifts and bit fields of the lanes (R111 to R113). -/

namespace Sys2Proof.Machine

/-- A bitwise operation of two operands (R111). -/
def logicOp (s : State) (i : Instr) (wide : Bool) (d a : Nat) (b : BOp) (f : DWord → DWord → DWord) : Out :=
  laneOp s i d 1 false fun p L =>
    { vals := resWords wide (f (BitVec.ofNat 64 (p.opA wide a L)) (BitVec.ofNat 64 (p.opB wide b L))), cls := 0 }

/-- A bitwise operation with a sign-extended immediate (R111). -/
def logicImm (s : State) (i : Instr) (d a : Nat) (imm : Int) (f : Word → Word → Word) : Out :=
  lane32 s i d 1 fun p L => f (p.v a L) (BitVec.ofInt 32 imm)

/-- AND (R111). -/
def execAnd (wide : Bool) (d a : Nat) (b : BOp) (s : State) : Out := logicOp s (.and wide d a b) wide d a b fun x y => x &&& y
/-- AND with an immediate (R111). -/
def execAndImm (d a : Nat) (imm : Int) (s : State) : Out := logicImm s (.andImm d a imm) d a imm fun x y => x &&& y
/-- OR (R111). -/
def execOr (wide : Bool) (d a : Nat) (b : BOp) (s : State) : Out := logicOp s (.or wide d a b) wide d a b fun x y => x ||| y
/-- OR with an immediate (R111). -/
def execOrImm (d a : Nat) (imm : Int) (s : State) : Out := logicImm s (.orImm d a imm) d a imm fun x y => x ||| y
/-- XOR (R111). -/
def execXor (wide : Bool) (d a : Nat) (b : BOp) (s : State) : Out := logicOp s (.xor wide d a b) wide d a b fun x y => x ^^^ y
/-- XOR with an immediate (R111). -/
def execXorImm (d a : Nat) (imm : Int) (s : State) : Out := logicImm s (.xorImm d a imm) d a imm fun x y => x ^^^ y
/-- ANDN (R111). -/
def execAndn (wide : Bool) (d a : Nat) (b : BOp) (s : State) : Out := logicOp s (.andn wide d a b) wide d a b fun x y => x &&& ~~~y

/-- The kinds of shift (R112). -/
inductive ShKind where
  | shl | shr | shra | rotl
deriving DecidableEq, Repr

/-- A shift of a number of w bits by c below w (R112). -/
def shiftNat (k : ShKind) (w x c : Nat) : Nat :=
  match k with
  | .shl => x * 2 ^ c % 2 ^ w
  | .shr => x / 2 ^ c
  | .shra => (BitVec.ofInt w ((BitVec.ofNat w x).toInt.fdiv (2 ^ c))).toNat
  | .rotl => x * 2 ^ c % 2 ^ w ||| x / 2 ^ (w - c)

/-- A shift by a register, its amount taken modulo the width (R112). -/
def shiftOp (s : State) (i : Instr) (k : ShKind) (wide : Bool) (d a : Nat) (b : BOp) : Out :=
  let w := if wide then 64 else 32
  laneOp s i d 1 false fun p L =>
    { vals := resWords wide (BitVec.ofNat 64 (shiftNat k w (p.opA wide a L) ((p.b b L).toNat % w))), cls := 0 }

/-- A shift by an immediate amount (R112). -/
def shiftImm (s : State) (i : Instr) (k : ShKind) (wide : Bool) (d a amt : Nat) : Out :=
  unOp s i wide d a fun x => BitVec.ofNat 64 (shiftNat k (if wide then 64 else 32) x amt)

/-- SHL (R112). -/
def execShl (wide : Bool) (d a : Nat) (b : BOp) (s : State) : Out := shiftOp s (.shl wide d a b) .shl wide d a b
/-- SHR (R112). -/
def execShr (wide : Bool) (d a : Nat) (b : BOp) (s : State) : Out := shiftOp s (.shr wide d a b) .shr wide d a b
/-- SHRA (R112). -/
def execShra (wide : Bool) (d a : Nat) (b : BOp) (s : State) : Out := shiftOp s (.shra wide d a b) .shra wide d a b
/-- ROTL (R112). -/
def execRotl (wide : Bool) (d a : Nat) (b : BOp) (s : State) : Out := shiftOp s (.rotl wide d a b) .rotl wide d a b
/-- SHL by an immediate (R112). -/
def execShlImm (wide : Bool) (d a amt : Nat) (s : State) : Out := shiftImm s (.shlImm wide d a amt) .shl wide d a amt
/-- SHR by an immediate (R112). -/
def execShrImm (wide : Bool) (d a amt : Nat) (s : State) : Out := shiftImm s (.shrImm wide d a amt) .shr wide d a amt
/-- SHRA by an immediate (R112). -/
def execShraImm (wide : Bool) (d a amt : Nat) (s : State) : Out := shiftImm s (.shraImm wide d a amt) .shra wide d a amt
/-- ROTL by an immediate (R112). -/
def execRotlImm (wide : Bool) (d a amt : Nat) (s : State) : Out := shiftImm s (.rotlImm wide d a amt) .rotl wide d a amt

/-- A bit field extended to 32 bits (R113). -/
def bfx (signed : Bool) (x pos len : Nat) : Word :=
  let f := x / 2 ^ pos % 2 ^ len
  if signed then BitVec.ofInt 32 (BitVec.ofNat len f).toInt else BitVec.ofNat 32 f

/-- BFX (R113). -/
def execBfx (signed : Bool) (d a pos len : Nat) (s : State) : Out :=
  lane32 s (.bfx signed d a pos len) d 1 fun p L => bfx signed (p.v a L).toNat pos len

/-- A bit field put in a word (R113). -/
def bfi (x y : Word) (pos len : Nat) : Word :=
  let m := BitVec.ofNat 32 ((2 ^ len - 1) * 2 ^ pos)
  (x &&& ~~~m) ||| (BitVec.ofNat 32 (y.toNat % 2 ^ len * 2 ^ pos))

/-- BFI (R113). -/
def execBfi (d a pos len : Nat) (s : State) : Out :=
  lane32 s (.bfi d a pos len) d 1 fun p L => bfi (p.v d L) (p.v a L) pos len

end Sys2Proof.Machine
end

