-- ==== Sys2Proof/Machine/PackInstr.lean ====
section
/-! DEFINITION. Pack instructions: REDUCE, SCAN, VOTE, BALLOT, SHFL and CONFL (R87, R88, R135 to R140). -/

namespace Sys2Proof.Machine

/-- The value an empty position contributes (R135). -/
def redIdentity (op : RedOp) (t : RedTy) : Nat :=
  match op, t with
  | .min, .f32 => 0x7F800000 | .min, .i32 => 0x7FFFFFFF | .min, .n32 => 0xFFFFFFFF
  | .max, .f32 => 0xFF800000 | .max, .i32 => 0x80000000
  | .and, _ => 0xFFFFFFFF
  | _, _ => 0

/-- One combination of REDUCE and SCAN with its classes (R135). -/
def combine (op : RedOp) (t : RedTy) (c : FCfg) (x y : Nat) : FR :=
  let ty : IntTy := match t with | .n32 => .n32 | _ => .i32
  match op, t with
  | .add, .f32 => c.add (f32.val c.ftz x) (f32.val c.ftz y)
  | .min, .f32 => minMax f32 c.ftz false x y
  | .max, .f32 => minMax f32 c.ftz true x y
  | .add, _ => { bits := (x + y) % 2 ^ 32, cls := 0 }
  | .min, _ => { bits := if ival ty x ≤ ival ty y then x else y, cls := 0 }
  | .max, _ => { bits := if ival ty x ≤ ival ty y then y else x, cls := 0 }
  | .and, _ => { bits := x &&& y, cls := 0 }
  | .or, _ => { bits := x ||| y, cls := 0 }
  | .xor, _ => { bits := x ^^^ y, cls := 0 }

/-- One level of the tree over neighbours (R87), with the classes gathered. -/
def treeLevel (f : Nat → Nat → FR) : List Nat → List Nat × Nat
  | x :: y :: t =>
    let r := f x y
    let q := treeLevel f t
    (r.bits :: q.1, r.cls ||| q.2)
  | l => (l, 0)

/-- The pairwise tree over 32 positions: five levels (R87). -/
def tree (f : Nat → Nat → FR) : Nat → List Nat → Nat → Nat × Nat
  | 0, l, cls => (l.headD 0, cls)
  | n + 1, l, cls => let q := treeLevel f l; tree f n q.1 (cls ||| q.2)

/-- REDUCE (R87, R135): a trap marks every active lane. -/
def execReduce (op : RedOp) (t : RedTy) (d a : Nat) (s : State) : Out :=
  issue s (.reduce op t d a) fun p =>
    let xs := (List.range 32).map fun L => if L < p.id.n then (p.v a L).toNat else redIdentity op t
    let r := tree (combine op t (p.cfg f32 .dyn)) 5 xs 0
    s.complete (p.setS d (BitVec.ofNat 32 r.1)) 1 2 (t == .f32) (p.lanes.map fun L => (L, r.2))

/-- The inclusive results of a scan in ascending position: each with the classes of the operation that formed it (R88). -/
def scanList (f : Nat → Nat → FR) : List Nat → List FR
  | [] => []
  | x :: t => t.foldl (fun acc y => acc ++ [f ((acc.getLast?.map FR.bits).getD 0) y]) [{ bits := x, cls := 0 }]

/-- SCAN (R88, R136): the exclusive form does not form the last sum. -/
def execScan (op : RedOp) (excl : Bool) (t : RedTy) (d a : Nat) (s : State) : Out :=
  issue s (.scan op excl t d a) fun p =>
    let xs := (List.range p.id.n).map fun L => (p.v a L).toNat
    let ident : FR := { bits := redIdentity op t, cls := 0 }
    let f := combine op t (p.cfg f32 .dyn)
    let rs := if excl then ident :: scanList f xs.dropLast else scanList f xs
    let res := p.lanes.map fun L => (L, (rs.getD L ident).lane)
    s.complete (p.writeLanes d res) 1 2 (t == .f32) (res.map fun e => (e.1, e.2.cls))

/-- VOTE (R137). -/
def execVote (op : VoteOp) (d a : Nat) (s : State) : Out :=
  packOp s (.vote op d a) 1 fun p =>
    let m := p.k a &&& p.active
    p.setS d (match op with
      | .any => if m != 0 then 1 else 0
      | .all => if m = p.active then 1 else 0
      | .none => if m = 0 then 1 else 0
      | .count => BitVec.ofNat 32 (popcNat 32 m.toNat))

/-- BALLOT (R138). -/
def execBallot (d a : Nat) (s : State) : Out :=
  packOp s (.ballot d a) 1 fun p => p.setK d (p.maskWhere fun L => p.v a L != 0)

/-- SHFL (R139): a source that is not an active position gives the lane its own value. -/
def execShfl (m : ShflMode) (d a : Nat) (b : BOp) (s : State) : Out :=
  lane32 s (.shfl m d a b) d 1 fun p L => p.v a (p.shflFrom m b L)

/-- The word that CONFL writes in a lane (R140). -/
def conflWord (xs : List Word) (L : Nat) : Word :=
  let x := xs.getD L 0
  let same := (List.range xs.length).filter fun j => xs.getD j 0 == x
  let next := (same.find? fun j => L < j).getD L
  BitVec.ofNat 32 (next * 2 ^ 16 + same.length * 2 ^ 10 + (same.filter fun j => j < L).length * 2 ^ 5 + same.headD L)

/-- CONFL (R140). -/
def execConfl (d a : Nat) (s : State) : Out :=
  lane32 s (.confl d a) d 2 fun p L => conflWord ((List.range p.id.n).map fun j => p.v a j) L

end Sys2Proof.Machine
end

