-- ==== Sys2Proof/Machine/Dispatch.lean ====
section
/-! DEFINITION. The dispatch: one arm for each constructor of `Instr`, in the order of the opcode table. -/

namespace Sys2Proof.Machine

def exec (i : Instr) (s : State) : Host.Outcome State Fault Refusal :=
  match i with
  | .add sat t d a b => Sys2Proof.Machine.execAdd sat t d a b s
  | .addImm d a imm => Sys2Proof.Machine.execAddImm d a imm s
  | .sub sat t d a b => Sys2Proof.Machine.execSub sat t d a b s
  | .mul sat t d a b => Sys2Proof.Machine.execMul sat t d a b s
  | .mulImm d a imm => Sys2Proof.Machine.execMulImm d a imm s
  | .mulh t d a b => Sys2Proof.Machine.execMulh t d a b s
  | .mad t d a b => Sys2Proof.Machine.execMad t d a b s
  | .divi wide d a b => Sys2Proof.Machine.execDivi wide d a b s
  | .divn wide d a b => Sys2Proof.Machine.execDivn wide d a b s
  | .remi wide d a b => Sys2Proof.Machine.execRemi wide d a b s
  | .remn wide d a b => Sys2Proof.Machine.execRemn wide d a b s
  | .min t d a b => Sys2Proof.Machine.execMin t d a b s
  | .max t d a b => Sys2Proof.Machine.execMax t d a b s
  | .abs wide d a => Sys2Proof.Machine.execAbs wide d a s
  | .neg wide d a => Sys2Proof.Machine.execNeg wide d a s
  | .not wide d a => Sys2Proof.Machine.execNot wide d a s
  | .clz wide d a => Sys2Proof.Machine.execClz wide d a s
  | .popc wide d a => Sys2Proof.Machine.execPopc wide d a s
  | .brev wide d a => Sys2Proof.Machine.execBrev wide d a s
  | .and wide d a b => Sys2Proof.Machine.execAnd wide d a b s
  | .andImm d a imm => Sys2Proof.Machine.execAndImm d a imm s
  | .or wide d a b => Sys2Proof.Machine.execOr wide d a b s
  | .orImm d a imm => Sys2Proof.Machine.execOrImm d a imm s
  | .xor wide d a b => Sys2Proof.Machine.execXor wide d a b s
  | .xorImm d a imm => Sys2Proof.Machine.execXorImm d a imm s
  | .andn wide d a b => Sys2Proof.Machine.execAndn wide d a b s
  | .shl wide d a b => Sys2Proof.Machine.execShl wide d a b s
  | .shr wide d a b => Sys2Proof.Machine.execShr wide d a b s
  | .shra wide d a b => Sys2Proof.Machine.execShra wide d a b s
  | .rotl wide d a b => Sys2Proof.Machine.execRotl wide d a b s
  | .shlImm wide d a amt => Sys2Proof.Machine.execShlImm wide d a amt s
  | .shrImm wide d a amt => Sys2Proof.Machine.execShrImm wide d a amt s
  | .shraImm wide d a amt => Sys2Proof.Machine.execShraImm wide d a amt s
  | .rotlImm wide d a amt => Sys2Proof.Machine.execRotlImm wide d a amt s
  | .bfx signed d a pos len => Sys2Proof.Machine.execBfx signed d a pos len s
  | .bfi d a pos len => Sys2Proof.Machine.execBfi d a pos len s
  | .mov wide d b => Sys2Proof.Machine.execMov wide d b s
  | .movsLane d a lane => Sys2Proof.Machine.execMovsLane d a lane s
  | .movsUniform d a => Sys2Proof.Machine.execMovsUniform d a s
  | .moviV d imm => Sys2Proof.Machine.execMoviV d imm s
  | .moviS d imm => Sys2Proof.Machine.execMoviS d imm s
  | .moviImm32 uni d imm => Sys2Proof.Machine.execMoviImm32 uni d imm s
  | .movhiV d imm => Sys2Proof.Machine.execMovhiV d imm s
  | .movhiS d imm => Sys2Proof.Machine.execMovhiS d imm s
  | .sel d a b k => Sys2Proof.Machine.execSel d a b k s
  | .cmp c t d a b => Sys2Proof.Machine.execCmp c t d a b s
  | .cmpImm c unsigned d a imm => Sys2Proof.Machine.execCmpImm c unsigned d a imm s
  | .kop op d a b => Sys2Proof.Machine.execKop op d a b s
  | .fadd r d a b => Sys2Proof.Machine.execFadd r d a b s
  | .fsub r d a b => Sys2Proof.Machine.execFsub r d a b s
  | .fmul r d a b => Sys2Proof.Machine.execFmul r d a b s
  | .ffma r d a b => Sys2Proof.Machine.execFfma r d a b s
  | .fmin d a b => Sys2Proof.Machine.execFmin d a b s
  | .fmax d a b => Sys2Proof.Machine.execFmax d a b s
  | .fabs d a => Sys2Proof.Machine.execFabs d a s
  | .fneg d a => Sys2Proof.Machine.execFneg d a s
  | .fclass d a => Sys2Proof.Machine.execFclass d a s
  | .frnd r d a => Sys2Proof.Machine.execFrnd r d a s
  | .fcmp c sig d a b => Sys2Proof.Machine.execFcmp c sig d a b s
  | .fscale r d a b => Sys2Proof.Machine.execFscale r d a b s
  | .hadd2 bf r d a b => Sys2Proof.Machine.execHadd2 bf r d a b s
  | .hmul2 bf r d a b => Sys2Proof.Machine.execHmul2 bf r d a b s
  | .hfma2 bf r d a b => Sys2Proof.Machine.execHfma2 bf r d a b s
  | .cvt dst src r d a => Sys2Proof.Machine.execCvt dst src r d a s
  | .frcp d a => Sys2Proof.Machine.execFrcp d a s
  | .frsq d a => Sys2Proof.Machine.execFrsq d a s
  | .fsqrt d a => Sys2Proof.Machine.execFsqrt d a s
  | .fexp2 d a => Sys2Proof.Machine.execFexp2 d a s
  | .flog2 d a => Sys2Proof.Machine.execFlog2 d a s
  | .fsin d a => Sys2Proof.Machine.execFsin d a s
  | .fcos d a => Sys2Proof.Machine.execFcos d a s
  | .ftanh d a => Sys2Proof.Machine.execFtanh d a s
  | .fsigm d a => Sys2Proof.Machine.execFsigm d a s
  | .lmv wide bias d a rows cols off => Sys2Proof.Machine.execLmv wide bias d a rows cols off s
  | .reduce op t d a => Sys2Proof.Machine.execReduce op t d a s
  | .scan op excl t d a => Sys2Proof.Machine.execScan op excl t d a s
  | .vote op d a => Sys2Proof.Machine.execVote op d a s
  | .ballot d a => Sys2Proof.Machine.execBallot d a s
  | .shfl m d a b => Sys2Proof.Machine.execShfl m d a b s
  | .confl d a => Sys2Proof.Machine.execConfl d a s
  | .lane d => Sys2Proof.Machine.execLane d s
  | .nln d => Sys2Proof.Machine.execNln d s
  | .tzero md => Sys2Proof.Machine.execTzero md s
  | .tld tr md td => Sys2Proof.Machine.execTld tr md td s
  | .tst tr ma td => Sys2Proof.Machine.execTst tr ma td s
  | .mma ta tb md ma mb => Sys2Proof.Machine.execMma ta tb md ma mb s
  | .mmas p48 ta tb md ma mb mm => Sys2Proof.Machine.execMmas p48 ta tb md ma mb mm s
  | .mmaq ta tw md ma mb td => Sys2Proof.Machine.execMmaq ta tw md ma mb td s
  | .quant t rot md ma td => Sys2Proof.Machine.execQuant t rot md ma td s
  | .deq t md ma td => Sys2Proof.Machine.execDeq t md ma td s
  | .tact act out bias md ma => Sys2Proof.Machine.execTact act out bias md ma s
  | .tred op col md ma => Sys2Proof.Machine.execTred op col md ma s
  | .tdesc td a w0 => Sys2Proof.Machine.execTdesc td a w0 s
  | .bfence d => Sys2Proof.Machine.execBfence d s
  | .bwait d => Sys2Proof.Machine.execBwait d s
  | .ld sz sext d base off => Sys2Proof.Machine.execLd sz sext d base off s
  | .st sz d base off k => Sys2Proof.Machine.execSt sz d base off k s
  | .lds sz sext d base off => Sys2Proof.Machine.execLds sz sext d base off s
  | .ldf sz sext d base off => Sys2Proof.Machine.execLdf sz sext d base off s
  | .stf sz d base off k => Sys2Proof.Machine.execStf sz d base off k s
  | .ldp sz sext d base off => Sys2Proof.Machine.execLdp sz sext d base off s
  | .stp sz d base off k => Sys2Proof.Machine.execStp sz d base off k s
  | .ldc sz sext d base off => Sys2Proof.Machine.execLdc sz sext d base off s
  | .atomf op d a b => Sys2Proof.Machine.execAtomf op d a b s
  | .fence kind sc => Sys2Proof.Machine.execFence kind sc s
  | .pfx hint sz base off k => Sys2Proof.Machine.execPfx hint sz base off k s
  | .atom op t sc ord d a b => Sys2Proof.Machine.execAtom op t sc ord d a b s
  | .fatom op sc ord d a b => Sys2Proof.Machine.execFatom op sc ord d a b s
  | .red op t sc ord a b => Sys2Proof.Machine.execRed op t sc ord a b s
  | .cpy mode es once sc d a b aux port block => Sys2Proof.Machine.execCpy mode es once sc d a b aux port block s
  | .send tag d n k rl port block => Sys2Proof.Machine.execSend tag d n k rl port block s
  | .sendm tag d n k rl b => Sys2Proof.Machine.execSendm tag d n k rl b s
  | .spawn d a n eport k rport entry ret => Sys2Proof.Machine.execSpawn d a n eport k rport entry ret s
  | .ret d n rl => Sys2Proof.Machine.execRet d n rl s
  | .endBlock => Sys2Proof.Machine.execEndBlock s
  | .idxF d f => Sys2Proof.Machine.execIdxF d f s
  | .tagc d => Sys2Proof.Machine.execTagc d s
  | .mktag d a => Sys2Proof.Machine.execMktag d a s
  | .mktagColour d a b => Sys2Proof.Machine.execMktagColour d a b s
  | .clock d => Sys2Proof.Machine.execClock d s
  | .trap code => Sys2Proof.Machine.execTrap code s
  | .brk code => Sys2Proof.Machine.execBrk code s
  | .nop => Sys2Proof.Machine.execNop s
  | .movcRead d sel => Sys2Proof.Machine.execMovcRead d sel s
  | .movcWrite d sel => Sys2Proof.Machine.execMovcWrite d sel s
  | .cwbi a b => Sys2Proof.Machine.execCwbi a b s
  | .rebind a b => Sys2Proof.Machine.execRebind a b s
  | .tresume d => Sys2Proof.Machine.execTresume d s
  | .tskip d => Sys2Proof.Machine.execTskip d s
  | .tkill d => Sys2Proof.Machine.execTkill d s
  | .replay d => Sys2Proof.Machine.execReplay d s
  | .faultrd d a word => Sys2Proof.Machine.execFaultrd d a word s
  | .rdrop a => Sys2Proof.Machine.execRdrop a s
  | .rfree a => Sys2Proof.Machine.execRfree a s
  | .rpin unpin a => Sys2Proof.Machine.execRpin unpin a s
  | .rstat d a => Sys2Proof.Machine.execRstat d a s
  | .rseal d a b entry count => Sys2Proof.Machine.execRseal d a b entry count s
  | .hcmdMap d a b => Sys2Proof.Machine.execHcmdMap d a b s
  | .hcmdUnmap d a b => Sys2Proof.Machine.execHcmdUnmap d a b s
  | .hcmdProtect d a b => Sys2Proof.Machine.execHcmdProtect d a b s
  | .hcmdQuery d a b => Sys2Proof.Machine.execHcmdQuery d a b s
  | .hcmdTcflush d a b mask => Sys2Proof.Machine.execHcmdTcflush d a b mask s
  | .tokenAccept core n => Sys2Proof.Machine.execTokenAccept core n s
  | .outboundTokenLeave core n => Sys2Proof.Machine.execOutboundTokenLeave core n s
  | .spillTakeBack core => Sys2Proof.Machine.execSpillTakeBack core s
  | .intakeTimeout core vc => Sys2Proof.Machine.execIntakeTimeout core vc s
  | .seqRenumber core => Sys2Proof.Machine.execSeqRenumber core s
  | .binAllot core => Sys2Proof.Machine.execBinAllot core s
  | .leashExpiry core bin => Sys2Proof.Machine.execLeashExpiry core bin s
  | .packFiring core => Sys2Proof.Machine.execPackFiring core s
  | .codeRefetch core ok => Sys2Proof.Machine.execCodeRefetch core ok s
  | .colourGrant n => Sys2Proof.Machine.execColourGrant n s
  | .colourReturn n => Sys2Proof.Machine.execColourReturn n s
  | .loadResult p n => Sys2Proof.Machine.execLoadResult p n s
  | .sfuResult p n => Sys2Proof.Machine.execSfuResult p n s
  | .lineFill core n => Sys2Proof.Machine.execLineFill core n s
  | .storeSlotClose core n => Sys2Proof.Machine.execStoreSlotClose core n s
  | .storeReceipt core n => Sys2Proof.Machine.execStoreReceipt core n s
  | .storeHoldRelease core n => Sys2Proof.Machine.execStoreHoldRelease core n s
  | .engineInstructionEnd core pipe => Sys2Proof.Machine.execEngineInstructionEnd core pipe s
  | .copyStart core n words => Sys2Proof.Machine.execCopyStart core n words s
  | .copyComplete core n => Sys2Proof.Machine.execCopyComplete core n s
  | .copyFault core n => Sys2Proof.Machine.execCopyFault core n s
  | .trapEntry p => Sys2Proof.Machine.execTrapEntry p s
  | .packResumption p => Sys2Proof.Machine.execPackResumption p s
  | .inboxEntryWrite ctx => Sys2Proof.Machine.execInboxEntryWrite ctx s
  | .apertureWrite port off bytes => Sys2Proof.Machine.execApertureWrite port off bytes s
  | .inboxHeadWrite port ctx head => Sys2Proof.Machine.execInboxHeadWrite port ctx head s
  | .hostMemoryAccess port pa acc => Sys2Proof.Machine.execHostMemoryAccess port pa acc s
  | .evictorRun stack => Sys2Proof.Machine.execEvictorRun stack s
  | .recipeMiss die n => Sys2Proof.Machine.execRecipeMiss die n s
  | .missRetry n => Sys2Proof.Machine.execMissRetry n s
  | .regenerationStart die => Sys2Proof.Machine.execRegenerationStart die s
  | .regenFrameTake die => Sys2Proof.Machine.execRegenFrameTake die s
  | .quiescentClose die => Sys2Proof.Machine.execQuiescentClose die s
  | .recomputeComplete die => Sys2Proof.Machine.execRecomputeComplete die s
  | .recomputeCrcCheck die => Sys2Proof.Machine.execRecomputeCrcCheck die s
  | .widthFailure die => Sys2Proof.Machine.execWidthFailure die s
  | .eccError site => Sys2Proof.Machine.execEccError site s
  | .thermalStateChange die temp => Sys2Proof.Machine.execThermalStateChange die temp s
  | .deviceReset => Sys2Proof.Machine.execDeviceReset s
  | .deviceReady => Sys2Proof.Machine.execDeviceReady s
  | .portReset port => Sys2Proof.Machine.execPortReset port s
  | .firmwareImageUpdate img => Sys2Proof.Machine.execFirmwareImageUpdate img s
  | .attestationGo port => Sys2Proof.Machine.execAttestationGo port s
  | .attestationDone => Sys2Proof.Machine.execAttestationDone s
  | .chronoLoRead port => Sys2Proof.Machine.execChronoLoRead port s
  | .registerWrite port reg val => Sys2Proof.Machine.execRegisterWrite port reg val s
  | .create c => Sys2Proof.Machine.execCreate c s
  | .destroy c => Sys2Proof.Machine.execDestroy c s
  | .teardownComplete ctx => Sys2Proof.Machine.execTeardownComplete ctx s
  | .region c => Sys2Proof.Machine.execRegion c s
  | .grant c => Sys2Proof.Machine.execGrant c s
  | .map c => Sys2Proof.Machine.execMap c s
  | .mapUnmap c => Sys2Proof.Machine.execMapUnmap c s
  | .mapProtect c => Sys2Proof.Machine.execMapProtect c s
  | .mapQuery c => Sys2Proof.Machine.execMapQuery c s
  | .mapTcflush c => Sys2Proof.Machine.execMapTcflush c s
  | .load c => Sys2Proof.Machine.execLoad c s
  | .unload c => Sys2Proof.Machine.execUnload c s
  | .launch c => Sys2Proof.Machine.execLaunch c s
  | .close c => Sys2Proof.Machine.execClose c s
  | .retire c => Sys2Proof.Machine.execRetire c s
  | .preempt c => Sys2Proof.Machine.execPreempt c s
  | .preemptCutComplete ctx => Sys2Proof.Machine.execPreemptCutComplete ctx s
  | .preemptTimeout ctx => Sys2Proof.Machine.execPreemptTimeout ctx s
  | .settleMarkerReceive p => Sys2Proof.Machine.execSettleMarkerReceive p s
  | .settleTimeout ctx => Sys2Proof.Machine.execSettleTimeout ctx s
  | .resume c => Sys2Proof.Machine.execResume c s
  | .restoredPackPlace ctx => Sys2Proof.Machine.execRestoredPackPlace ctx s
  | .checkpoint c => Sys2Proof.Machine.execCheckpoint c s
  | .checkpointComplete => Sys2Proof.Machine.execCheckpointComplete s
  | .partition c => Sys2Proof.Machine.execPartition c s
  | .mailboxUnknownCommand code c => Sys2Proof.Machine.execMailboxUnknownCommand code c s
  | .flitCrcError port flit => Sys2Proof.Machine.execFlitCrcError port flit s
  | .linkDown port => Sys2Proof.Machine.execLinkDown port s
  | .freeSlotReturn port vc => Sys2Proof.Machine.execFreeSlotReturn port vc s
  | .tokenPacketReceive port p => Sys2Proof.Machine.execTokenPacketReceive port p s
  | .writePacketReceive port p => Sys2Proof.Machine.execWritePacketReceive port p s
  | .writeAckReceive port p => Sys2Proof.Machine.execWriteAckReceive port p s
  | .writeFaultReceive port p more => Sys2Proof.Machine.execWriteFaultReceive port p more s
  | .prepareReceive p => Sys2Proof.Machine.execPrepareReceive p s
  | .prepareTimeout n => Sys2Proof.Machine.execPrepareTimeout n s
  | .readyReceive p => Sys2Proof.Machine.execReadyReceive p s
  | .refuseReceive p => Sys2Proof.Machine.execRefuseReceive p s
  | .startReceive p => Sys2Proof.Machine.execStartReceive p s
  | .abortReceive p => Sys2Proof.Machine.execAbortReceive p s
  | .launchWaitTimeout n => Sys2Proof.Machine.execLaunchWaitTimeout n s
  | .closeControlReceive p => Sys2Proof.Machine.execCloseControlReceive p s
  | .retireControlReceive p => Sys2Proof.Machine.execRetireControlReceive p s
  | .lineWriteArrival core n => Sys2Proof.Machine.execLineWriteArrival core n s
  | .homeSliceAtomic core n => Sys2Proof.Machine.execHomeSliceAtomic core n s
  | .cacheEviction site => Sys2Proof.Machine.execCacheEviction site s
  | .linkTraining port => Sys2Proof.Machine.execLinkTraining port s
  | .unassignedOpcode op => Sys2Proof.Machine.execUnassignedOpcode op s

end Sys2Proof.Machine
end

