-- ==== Sys2Proof/Machine/Issue.lean ====
section
/-! DEFINITION. How a pipeline issues: the end of parks, the choice of a pack, W points, decoding at issue, and the moves
of the agenda (R20, R36, R43, R104, R303). -/

namespace Sys2Proof.Machine

/-- What a park's instruction does when it is looked at again. -/
def State.resumeWait (s : State) (r : PackRef) (p : Pack) (w : Wait) : State :=
  match w.instr with
  | .fence _ _ => finishFence s r p w
  | .endBlock => finishEnd s r p w
  | .bwait _ => finishBwait s r p w
  | .atom _ _ _ _ _ _ _ | .fatom _ _ _ _ _ _ => finishAtom s r p w
  | .tresume d => finishTresume d s r p w
  | .tskip d => finishTskip d s r p w
  | .tkill d => finishTkill d s r p w
  | .replay d => finishReplay d s r p w
  | .faultrd _ _ _ => finishFaultrd s r p w
  | .hcmdMap d a b => finishHcmd .map d a b s r p w
  | .hcmdUnmap d a b => finishHcmd .unmap d a b s r p w
  | .hcmdProtect d a b => finishHcmd .protect d a b s r p w
  | .hcmdQuery d a b => finishHcmd .query d a b s r p w
  | .hcmdTcflush d a b m => finishHcmd (.tcflush m) d a b s r p w
  | .cwbi a b => finishCwbi a b s r p w
  | .rebind a b => finishRebind a b s r p w
  | .rseal d a b e n => finishRseal d a b e n s r p w
  | .rdrop a => finishRdrop a s r p w
  | .rfree a => finishRfree a s r p w
  | .rpin u a => finishRpin u a s r p w
  | .rstat d a => finishRstat d a s r p w
  | _ => s

/-- The parks of a pipeline's packs looked at, in ascending slot. -/
def State.wakePacks (s : State) (core pipe : Nat) : State :=
  (List.range 16).foldl (fun (t : State) i =>
    let r : PackRef := { core, pipe, slot := i }
    match t.pack r with
    | some p => match p.c.st, p.c.wait with | .run, some w => if t.stopped p then t else t.resumeWait r p w | _, _ => t
    | none => t) s

/-- A pack may issue at a ck. -/
def State.canIssue (s : State) (t : Nat) (p : Pack) : Bool :=
  p.c.st == .run && !s.stopped p && p.c.wait.isNone && p.c.fetch == 0 && p.c.start ≤ t && (!s.atPoint p || p.c.deferred.isEmpty)

/-- The slot that issues next: round-robin after the one that issued last (R20). -/
def State.nextSlot (s : State) (core pipe t : Nat) : Option Nat :=
  let turn := ((s.core core).pipe pipe).turn
  ((List.range 16).map fun i => (turn + 1 + i) % 16).find? fun i =>
    match s.pack { core, pipe, slot := i } with | some p => s.canIssue t p | none => false

/-- The instruction at a pack's index is decoded and executed; a word that is none traps (R42, R43). -/
def State.issueAt (s : State) (r : PackRef) (p : Pack) : Out :=
  let code := match s.block p.id.slot with | some b => b.code | none => []
  let w0 := code.getD p.idx 0
  match decodeWords w0 code[p.idx + 1]? with
  | .ok i => exec i s
  | .error _ => .next (s.trapIllegal r p (opWords (majorOp w0)) 2)

/-- A pipeline's move: parks end where they can, and the pack whose turn it is issues one instruction, or takes the trap
of its pending reports at a W point (R303). A resumed pack frees its trap frame as it issues at its resume index (R310): not while the
instruction there parks before it issues, which changes nothing of the pack and takes no ck of the pipeline. -/
def State.issueMove (s : State) (core pipe : Nat) : Out :=
  let t := max s.now ((s.core core).pipe pipe).next
  let s1 := (s.tick t).wakePacks core pipe
  match s1.nextSlot core pipe t with
  | none => .next s1
  | some i =>
    let r : PackRef := { core, pipe, slot := i }
    let s2 := { (s1.modPipe core pipe fun q => { q with turn := i }) with cur := r }
    match s2.pack r with
    | none => .next s2
    | some p =>
      if s2.atPoint p then
        if !p.c.reports.isEmpty then .next (s2.trapReport r p)
        else
          let p1 := { p with c := { p.c with resume := none } }
          match p.c.resume with
          | none => s2.issueAt r p
          | some _ =>
            match ((s2.setFrameState (s2.asid p.id.ctx) r 0).setPack r p1).issueAt r p1 with
            | .next s3 => if s3.pack r = some p1 && ((s3.core core).pipe pipe).next = ((s2.core core).pipe pipe).next then .next s2 else .next s3
            | o => o
      else s2.issueAt r p

/-- A packet that a link port has received whole, from its flits' bytes (R294, R295, R299): a port that is down receives none, a peer's own
marker in form asks nothing (R350), and one of no type there is, or of a control kind there is not, is dropped and counted. -/
def State.receive (s : State) (port : Nat) (bs : List Byte) : Out :=
  let h := LinkHdr.ofNat (pktNat bs 0 8)
  if !(s.link port).up then .next s
  else if h.peerMarker then .next (if s.mine h.dest (h.rsv || pktNat bs 10 2 != 0) then s else s.dropPkt)
  else match (readPacket bs).event port with
    | some i => exec i s
    | none => .next s.dropPkt

/-- One move of the agenda or of the free schedule (log 1). -/
def State.move (s : State) : Move → Out
  | .pass n => .next (s.tick (s.now + n))
  | .issue core pipe => s.issueMove core pipe
  | .event i => if i.isEvent then exec i s else .next s
  | .packet port bytes => s.receive port bytes
  | .boot err => .next (s.bootMove err)
  | .loader port => .next (s.loaderMove port)

/-- The next move: the head of the agenda, or where it is empty the free one. -/
def State.nextMove (s : State) : Move × State :=
  match s.agenda with
  | m :: t => (m, { s with agenda := t })
  | [] => (Config.freeMove s.freeCount, { s with freeCount := s.freeCount + 1 })

/-! ### The placement of an instruction where the next step fetches -/

/-- A context for a program that is placed from outside (log 22). -/
def placedCtx : Ctx where
  r := { asid := 1, port := 0, cls := 0, weight := 1, priv := 7, fpctl := 0, trapen := 0, flags := 0, mxcnt := 0 }
  cores := [0]
  st := .running
  box := { base := 0, k := 8, head := 0, tail := 0, seq := 0, places := [], backBase := 0, backSize := 0, backUsed := [] }
  privSize := 0
  root := tableBase
  regions := []
  onTrap := none
  onFault := none
  pools := []
  returns := []
  recipes := []
  cut := none
  arrivals := []
  save := none
  tear := { packs := 0, trapped := 0, entries := 0, tokens := 0, late := 0, copies := 0, records := 0, releases := 0,
            spawns := 0, written := 0, dropped := 0, recipes := 0 }
  restore := []

/-- An image of one block for a placed program. -/
def placedImage : Image where
  ctx := 0
  pure := false
  slots := [0]
  widths := [48, 0, 0, 0, 0, 0]
  consts := []
  launches := []
  crc := 0

/-- A block slot bound to placed words. -/
def placedBlock (code : List Nat) : Block where
  ctx := 0
  img := 0
  run := 0
  ports := 1
  frame := 1024
  priv := 0
  tiles := 16
  leash := 256
  ordered := false
  first := 0
  count := 1
  mask := 1
  code := code
  closing := false
  recipe := false

/-- A pack of one instance that has fired on a placed block. -/
def placedPack : Pack where
  id := { ctx := 0, slot := 0, img := 0, serial := 0, n := 1, tier := 3, handler := false, priv := true, colour := none,
          restored := false, tags := [0] }
  r := { v := [], s := [], k := [], td := [], vBad := [], sBad := [], fpctl := 0, trapen := 0, leash := 256 }
  m := { frame := [], frameBad := [], priv := [], privBad := [], tiles := List.range 16 }
  c := { pc := 0, start := 0, fetch := 0, deferred := [], reports := [], batches := [], bopen := 0, wait := none, holds := [],
         hb := [], st := .run, trap := { idx := 0, resume := 0, code := 0, entry := none, cause := 0 }, resume := none,
         replay := [], cls := 0, lastPfx := [] }

/-- Words placed as the code of a block that a pack on pipeline 1 of core 0 is about to issue from, in the next step. -/
def State.placeWords (s : State) (code : List Nat) : State :=
  let s1 := { s with ctxs := s.ctxs.put 0 placedCtx, images := s.images.put 0 placedImage, blocks := s.blocks.put 0 (placedBlock code),
                     agenda := .issue 0 1 :: s.agenda }
  s1.modCore 0 fun c =>
    ({ c with packs := Tbl.put 16 placedPack (c.packs.filter fun e => e.1 / 16 != 1) } : Core).modPipe 1 fun q =>
      { q with turn := 15, next := s.now, queue := [], tiles := [] }

end Sys2Proof.Machine
end

