-- ==== Sys2Proof/Machine/Step.lean ====
section
/-! DEFINITION. The step, and the placement of an instruction where the next step fetches it. -/

namespace Sys2Proof.Machine

/-- One step of the device: the next move, made. -/
def step (s : State) : Host.Outcome State Fault Refusal := s.nextMove.2.move s.nextMove.1

/-- The state with an instruction placed where the next step fetches: its words stand as the code of a block from which a
pack is about to issue, and that pipeline's issue is the next move (log 22). -/
def State.withFetchWord (s : State) (nbits w : Nat) : State :=
  let v := w % 2 ^ nbits
  s.placeWords [v % 2 ^ 32, v / 2 ^ 32 % 2 ^ 32]

end Sys2Proof.Machine
end

