-- ==== Sys2Proof/Certificates/Slice0/Obligations.lean ====
section
/-! DEFINITION. The statements for the provers: what the rules of the spec say of an instruction, an event or the machine. -/

open Sys2Proof Sys2Proof.Machine

namespace Sys2Proof.Claims

/-! ### The shape of a statement about an instruction of a pack -/

/-- The pack `p` issues the instruction with no trap at issue: its tiles are within the block's (R30, R43), it may issue it (R43,
R274), and no register that it reads is poisoned (R324). -/
def Ready (s : State) (i : Instr) (p : Pack) : Prop :=
  s.pack s.cur = some p ∧ (limited i).any (fun m => p.m.tiles.length ≤ m) = false ∧ s.privOk p i = true ∧ p.badLanes i = []

/-- The pack goes past an instruction of `len` words without a trap. -/
def Past (p q : Pack) (len : Nat) : Prop := q.c.st = p.c.st ∧ (p.c.replay = [] → q.c.pc = p.c.pc + len)

/-- The instruction completes: a next state in which the pack has gone past it and `Q` holds. -/
def Runs (s : State) (p : Pack) (i : Instr) (len : Nat) (Q : State → Pack → Prop) : Prop :=
  Ready s i p → ∃ t q, exec i s = .next t ∧ t.pack s.cur = some q ∧ Past p q len ∧ Q t q

/-- The same for an instruction of one word that raises no flag: a statement about each lane's result. -/
def RunsLanes (s : State) (p : Pack) (i : Instr) (len : Nat) (Q : Pack → Nat → Prop) : Prop :=
  Runs s p i len fun t q => t.ctxs = s.ctxs ∧ ∀ L ∈ p.lanes, Q q L

/-- The instruction traps at its own index: the pack stops and drains, with a report for that index that names the lanes `ls`, and no
other lanes where the pack had no report of that index before. -/
def Traps (s : State) (i : Instr) (p : Pack) (ls : List RepLane) (Q : State → Pack → Prop) : Prop :=
  ∃ t q e, exec i s = .next t ∧ t.pack s.cur = some q ∧ q.c.st = .drain ∧ q.c.trap.idx = p.c.pc ∧ q.c.trap.entry = some p.c.pc ∧
    e ∈ q.c.reports ∧ e.idx = p.c.pc ∧ (∀ l ∈ ls, l ∈ e.lanes) ∧ ((∀ r ∈ p.c.reports, r.idx ≠ p.c.pc) → e.lanes = ls) ∧ Q t q

/-- The flags of a class mask reach the context's FLAGS; those of a recompute pack are discarded (R94, R95). -/
def Commits (s t : State) (p : Pack) (cls : Nat) : Prop :=
  match p.id.colour with
  | some _ => t.ctxs = s.ctxs
  | none => ∀ x, s.ctx p.id.ctx = some x →
      ∃ y, t.ctx p.id.ctx = some y ∧ y.r.flags = x.r.flags ||| BitVec.ofNat 32 cls

/-- The classes of the lanes together (R94). -/
def allCls (p : Pack) (f : Nat → Nat) : Nat := p.lanes.foldl (fun m L => m ||| f L) 0

/-- No lane raises a class that TRAPEN enables (R98, R99). -/
def Quiet (p : Pack) (f : Nat → Nat) : Prop := ∀ L ∈ p.lanes, f L &&& (p.r.trapen.toNat &&& 0x67) = 0

/-- The report lanes of an arithmetic trap: the lanes that raised an enabled class, each with those classes (R99, R309). -/
def classLanes (p : Pack) (f : Nat → Nat) (addr : Nat) : List RepLane :=
  (p.lanes.filter fun L => f L &&& (p.r.trapen.toNat &&& 0x67) != 0).map fun L =>
    { lane := L, cause := 3, detail := f L &&& (p.r.trapen.toNat &&& 0x67), addr }

/-- A lane instruction of more than 1 ck that raises a class stands until its last ck, `occ - 1` after its issue, to complete there: its
results are written, its flags are not yet committed and the pack has not gone past it (R99, R104). -/
def Stays (s t : State) (p q : Pack) (len occ cls : Nat) (ls : List RepLane) : Prop :=
  q.c = p.c ∧ t.ctxs = s.ctxs ∧ ((t.core s.cur.core).pipe s.cur.pipe).late =
    some { due := s.now + occ - 1, slot := s.cur.slot, serial := p.id.serial, len, cls, lanes := ls }

/-- A lane instruction of `occ` ck, of classes `f` by lane, is executed: its results are written; it goes past with its classes committed
where it takes 1 ck and no enabled class is raised, or where it raises no class at all, and else stands until its last ck. -/
def RunsLong (s : State) (p : Pack) (i : Instr) (len occ : Nat) (f : Nat → Nat) (addr : Nat) (Q : Pack → Prop) : Prop :=
  Ready s i p → (occ ≤ 1 → Quiet p f) → ∃ t q, exec i s = .next t ∧ t.pack s.cur = some q ∧ Q q ∧
    if occ ≤ 1 ∨ allCls p f = 0 then Past p q len ∧ Commits s t p (allCls p f)
    else Stays s t p q len occ (allCls p f) (classLanes p f addr)

/-- The integer result of a type: saturated to the nearest value in range, or its low bits (R106). -/
def IntResult (sat : Bool) (t : IntTy) (r : Nat) (e : Int) : Prop :=
  let w := if t.wide then 64 else 32
  let lo : Int := if t.signed then -(2 ^ (w - 1)) else 0
  let hi : Int := if t.signed then 2 ^ (w - 1) - 1 else 2 ^ w - 1
  if sat then ival t r = (if e < lo then lo else if hi < e then hi else e) else (r : Int) = e % 2 ^ w

/-- The width of an instruction's operands (R103). -/
def wid (wide : Bool) : Nat := if wide then 64 else 32

/-- A condition of CMP (R119). -/
def Holds (c : Sys2Proof.Cond) (x y : Int) : Prop :=
  match c with | .eq => x = y | .ne => x ≠ y | .lt => x < y | .le => x ≤ y | .gt => x > y | .ge => x ≥ y

/-- The b operand of an instruction word of format A: its register field and the bit S that makes it a uniform register (R37, R40). -/
def bField (b : BOp) : Nat := match b with | .v r => r * 2 ^ 6 | .s r => r * 2 ^ 6 + 1

end Sys2Proof.Claims

open Sys2Proof.Claims
/-! ### Integer arithmetic, logic, moves and compares -/

/-- R106: ADD, SUB and MUL write the exact result clamped or wrapped, and raise no flag. -/
def Sys2Proof.Claims.AddSubMulResults : Prop :=
  ∀ (sat : Bool) (t : IntTy) (d a : Nat) (b : BOp) (s : State) (p : Pack),
    RunsLanes s p (.add sat t d a b) 1 (fun q L =>
      IntResult sat t (q.opA t.wide d L) (ival t (p.opA t.wide a L) + ival t (p.opB t.wide b L))) ∧
    RunsLanes s p (.sub sat t d a b) 1 (fun q L =>
      IntResult sat t (q.opA t.wide d L) (ival t (p.opA t.wide a L) - ival t (p.opB t.wide b L))) ∧
    RunsLanes s p (.mul sat t d a b) 1 (fun q L =>
      IntResult sat t (q.opA t.wide d L) (ival t (p.opA t.wide a L) * ival t (p.opB t.wide b L))) ∧
    (∀ imm : Int, RunsLanes s p (.addImm d a imm) 1 fun q L => ((q.v d L).toNat : Int) = ((p.v a L).toInt + imm) % 2 ^ 32) ∧
    (∀ imm : Int, RunsLanes s p (.mulImm d a imm) 1 fun q L => ((q.v d L).toNat : Int) = ((p.v a L).toInt * imm) % 2 ^ 32)

/-- R107: MULH writes the floor of the product over 2 to the width; MAD adds the product to vD and wraps. -/
def Sys2Proof.Claims.HighAndAddMultiplyResults : Prop :=
  ∀ (t : IntTy) (d a : Nat) (b : BOp) (s : State) (p : Pack),
    RunsLanes s p (.mulh t d a b) 1 (fun q L => ((q.opA t.wide d L : Nat) : Int) =
      (ival t (p.opA t.wide a L) * ival t (p.opB t.wide b L)) / 2 ^ wid t.wide % 2 ^ wid t.wide) ∧
    RunsLanes s p (.mad t d a b) 1 (fun q L => ((q.opA t.wide d L : Nat) : Int) =
      (ival t (p.opA t.wide a L) * ival t (p.opB t.wide b L) + ival t (p.opA t.wide d L)) % 2 ^ wid t.wide)

namespace Sys2Proof.Claims

/-- What a divide gives: quotient or remainder of every lane, in 8 ck or 16, and DZ where a divisor is zero (R104, R108). -/
def Divides (s : State) (p : Pack) (i : Instr) (t : IntTy) (remainder : Bool) (d a : Nat) (b : BOp) : Prop :=
  RunsLong s p i 1 (if t.wide then 16 else 8) (fun L => if p.opB t.wide b L = 0 then 2 else 0) 0 fun q => ∀ L ∈ p.lanes,
    let x := ival t (p.opA t.wide a L)
    let y := ival t (p.opB t.wide b L)
    ((q.opA t.wide d L : Nat) : Int) =
      (if remainder then (if y = 0 then x else x.tmod y) else (if y = 0 then 0 else x.tdiv y)) % 2 ^ wid t.wide

end Sys2Proof.Claims

/-- R104, R108: the divide group, a zero divisor included. -/
def Sys2Proof.Claims.DivideResults : Prop :=
  ∀ (wide : Bool) (d a : Nat) (b : BOp) (s : State) (p : Pack),
    Divides s p (.divi wide d a b) (if wide then .i64 else .i32) false d a b ∧
    Divides s p (.divn wide d a b) (if wide then .n64 else .n32) false d a b ∧
    Divides s p (.remi wide d a b) (if wide then .i64 else .i32) true d a b ∧
    Divides s p (.remn wide d a b) (if wide then .n64 else .n32) true d a b

/-- R109, R110: MIN, MAX and the unary group. -/
def Sys2Proof.Claims.MinMaxAndUnaryResults : Prop :=
  (∀ (t : IntTy) (d a : Nat) (b : BOp) (s : State) (p : Pack),
    RunsLanes s p (.min t d a b) 1 (fun q L => ival t (q.opA t.wide d L) =
      if ival t (p.opB t.wide b L) < ival t (p.opA t.wide a L) then ival t (p.opB t.wide b L) else ival t (p.opA t.wide a L)) ∧
    RunsLanes s p (.max t d a b) 1 (fun q L => ival t (q.opA t.wide d L) =
      if ival t (p.opA t.wide a L) < ival t (p.opB t.wide b L) then ival t (p.opB t.wide b L) else ival t (p.opA t.wide a L))) ∧
  (∀ (wide : Bool) (d a : Nat) (s : State) (p : Pack),
    let t : IntTy := if wide then .i64 else .i32
    let w := wid wide
    RunsLanes s p (.abs wide d a) 1 (fun q L => ((q.opA wide d L : Nat) : Int) =
      (if ival t (p.opA wide a L) < 0 then -ival t (p.opA wide a L) else ival t (p.opA wide a L)) % 2 ^ w) ∧
    RunsLanes s p (.neg wide d a) 1 (fun q L => ((q.opA wide d L : Nat) : Int) = (-ival t (p.opA wide a L)) % 2 ^ w) ∧
    RunsLanes s p (.not wide d a) 1 (fun q L => ∀ j < w, (q.opA wide d L).testBit j = !(p.opA wide a L).testBit j) ∧
    RunsLanes s p (.clz wide d a) 1 (fun q L => q.opA wide d L ≤ w ∧ p.opA wide a L < 2 ^ (w - q.opA wide d L) ∧
      (q.opA wide d L < w → 2 ^ (w - 1 - q.opA wide d L) ≤ p.opA wide a L)) ∧
    RunsLanes s p (.popc wide d a) 1 (fun q L => q.opA wide d L = (List.range w).countP fun j => (p.opA wide a L).testBit j) ∧
    RunsLanes s p (.brev wide d a) 1 (fun q L => ∀ j < w, (q.opA wide d L).testBit j = (p.opA wide a L).testBit (w - 1 - j)))

/-- R111: the logic instructions. -/
def Sys2Proof.Claims.LogicResults : Prop :=
  ∀ (wide : Bool) (d a : Nat) (b : BOp) (imm : Int) (s : State) (p : Pack),
    RunsLanes s p (.and wide d a b) 1 (fun q L => q.opA wide d L = p.opA wide a L &&& p.opB wide b L) ∧
    RunsLanes s p (.or wide d a b) 1 (fun q L => q.opA wide d L = p.opA wide a L ||| p.opB wide b L) ∧
    RunsLanes s p (.xor wide d a b) 1 (fun q L => q.opA wide d L = p.opA wide a L ^^^ p.opB wide b L) ∧
    RunsLanes s p (.andn wide d a b) 1 (fun q L => ∀ j, (q.opA wide d L).testBit j =
      ((p.opA wide a L).testBit j && !(p.opB wide b L).testBit j)) ∧
    RunsLanes s p (.andImm d a imm) 1 (fun q L => q.v d L = p.v a L &&& BitVec.ofInt 32 imm) ∧
    RunsLanes s p (.orImm d a imm) 1 (fun q L => q.v d L = p.v a L ||| BitVec.ofInt 32 imm) ∧
    RunsLanes s p (.xorImm d a imm) 1 (fun q L => q.v d L = p.v a L ^^^ BitVec.ofInt 32 imm)

namespace Sys2Proof.Claims

/-- The four shifts of x by c, as the pseudocode of R112 gives them; ROTL by its bits. -/
def IsShl (w x c r : Nat) : Prop := r = x * 2 ^ c % 2 ^ w
/-- SHR (R112). -/
def IsShr (x c r : Nat) : Prop := r = x / 2 ^ c
/-- SHRA (R112). -/
def IsShra (wide : Bool) (x c r : Nat) : Prop :=
  (r : Int) = ival (if wide then .i64 else .i32) x / 2 ^ c % 2 ^ wid wide
/-- ROTL (R112): bit j goes to bit j + c modulo the width. -/
def IsRotl (w x c r : Nat) : Prop := r < 2 ^ w ∧ ∀ j < w, r.testBit ((j + c) % w) = x.testBit j

end Sys2Proof.Claims

/-- R112: the shift group; a register amount is taken modulo the width. -/
def Sys2Proof.Claims.ShiftResults : Prop :=
  (∀ (wide : Bool) (d a : Nat) (b : BOp) (s : State) (p : Pack),
    RunsLanes s p (.shl wide d a b) 1
      (fun q L => IsShl (wid wide) (p.opA wide a L) ((p.b b L).toNat % wid wide) (q.opA wide d L)) ∧
    RunsLanes s p (.shr wide d a b) 1
      (fun q L => IsShr (p.opA wide a L) ((p.b b L).toNat % wid wide) (q.opA wide d L)) ∧
    RunsLanes s p (.shra wide d a b) 1
      (fun q L => IsShra wide (p.opA wide a L) ((p.b b L).toNat % wid wide) (q.opA wide d L)) ∧
    RunsLanes s p (.rotl wide d a b) 1
      (fun q L => IsRotl (wid wide) (p.opA wide a L) ((p.b b L).toNat % wid wide) (q.opA wide d L))) ∧
  (∀ (wide : Bool) (d a amt : Nat) (s : State) (p : Pack), amt < wid wide →
    RunsLanes s p (.shlImm wide d a amt) 1 (fun q L => IsShl (wid wide) (p.opA wide a L) amt (q.opA wide d L)) ∧
    RunsLanes s p (.shrImm wide d a amt) 1 (fun q L => IsShr (p.opA wide a L) amt (q.opA wide d L)) ∧
    RunsLanes s p (.shraImm wide d a amt) 1 (fun q L => IsShra wide (p.opA wide a L) amt (q.opA wide d L)) ∧
    RunsLanes s p (.rotlImm wide d a amt) 1 (fun q L => IsRotl (wid wide) (p.opA wide a L) amt (q.opA wide d L)))

/-- R113: BFX and BFI, bit by bit. -/
def Sys2Proof.Claims.BitFieldResults : Prop :=
  ∀ (d a pos len : Nat) (s : State) (p : Pack), 1 ≤ len → pos + len ≤ 32 →
    RunsLanes s p (.bfx false d a pos len) 1 (fun q L => ∀ j < 32, (q.v d L).getLsbD j =
      (decide (j < len) && (p.v a L).getLsbD (pos + j))) ∧
    RunsLanes s p (.bfx true d a pos len) 1 (fun q L => ∀ j < 32, (q.v d L).getLsbD j =
      (p.v a L).getLsbD (pos + if j < len then j else len - 1)) ∧
    RunsLanes s p (.bfi d a pos len) 1 (fun q L => ∀ j < 32, (q.v d L).getLsbD j =
      if pos ≤ j ∧ j < pos + len then (p.v a L).getLsbD (j - pos) else (p.v d L).getLsbD j)

/-- R114 to R118, R29: moves, selection and lane identity; a write to s0 is discarded. -/
def Sys2Proof.Claims.MoveResults : Prop :=
  ∀ (d a lane imm k : Nat) (b : BOp) (s : State) (p : Pack), imm < 2 ^ 18 →
    (∀ wide, RunsLanes s p (.mov wide d b) 1 fun q L => q.opA wide d L = p.opB wide b L) ∧
    Runs s p (.movsLane d a lane) 1 (fun _ q => q.s d = if d = 0 then 0 else if lane < p.id.n then p.v a lane else 0) ∧
    Runs s p (.movsUniform d a) 1 (fun _ q => q.s d = if d = 0 then 0 else p.s a) ∧
    (∀ z : Int, RunsLanes s p (.moviV d z) 1 fun q L => q.v d L = BitVec.ofInt 32 z) ∧
    (∀ z : Int, Runs s p (.moviS d z) 1 fun _ q => q.s d = if d = 0 then 0 else BitVec.ofInt 32 z) ∧
    (∀ z < 2 ^ 32, RunsLanes s p (.moviImm32 false d z) 2 fun q L => (q.v d L).toNat = z) ∧
    (∀ z < 2 ^ 32, Runs s p (.moviImm32 true d z) 2 fun _ q => (q.s d).toNat = if d = 0 then 0 else z) ∧
    RunsLanes s p (.movhiV d imm) 1 (fun q L => (q.v d L).toNat / 2 ^ 14 = imm ∧ (q.v d L).toNat % 2 ^ 14 = (p.v d L).toNat % 2 ^ 14) ∧
    Runs s p (.movhiS d imm) 1 (fun _ q => if d = 0 then q.s d = 0
      else (q.s d).toNat / 2 ^ 14 = imm ∧ (q.s d).toNat % 2 ^ 14 = (p.s d).toNat % 2 ^ 14) ∧
    RunsLanes s p (.sel d a b k) 1 (fun q L => q.v d L = if (p.k k).getLsbD L then p.v a L else p.b b L) ∧
    RunsLanes s p (.lane d) 1 (fun q L => (q.v d L).toNat = L) ∧
    Runs s p (.nln d) 1 (fun _ q => q.s d = if d = 0 then 0 else BitVec.ofNat 32 p.id.n)

/-- R105, R119: CMP writes the mask of the active lanes whose comparison holds, and 0 elsewhere. -/
def Sys2Proof.Claims.CompareResults : Prop :=
  ∀ (c : Sys2Proof.Cond) (t : IntTy) (u : Bool) (d a imm : Nat) (b : BOp) (s : State) (p : Pack), d ≠ 0 → imm < 2 ^ 32 →
    Runs s p (.cmp c t d a b) 1 (fun r q => r.ctxs = s.ctxs ∧ ∀ j < 32, (q.k d).getLsbD j = true ↔
      j ∈ p.lanes ∧ Holds c (ival t (p.opA t.wide a j)) (ival t (p.opB t.wide b j))) ∧
    Runs s p (.cmpImm c u d a imm) 2 (fun r q => r.ctxs = s.ctxs ∧ ∀ j < 32, (q.k d).getLsbD j = true ↔
      j ∈ p.lanes ∧ Holds c (ival (if u then .n32 else .i32) (p.v a j).toNat) (ival (if u then .n32 else .i32) imm))

/-- R120: KOP works on all 32 bits. -/
def Sys2Proof.Claims.MaskResults : Prop :=
  ∀ (d a b : Nat) (s : State) (p : Pack),
    (d ≠ 0 →
      Runs s p (.kop .and d a b) 1 (fun _ q => q.k d = p.k a &&& p.k b) ∧
      Runs s p (.kop .or d a b) 1 (fun _ q => q.k d = p.k a ||| p.k b) ∧
      Runs s p (.kop .xor d a b) 1 (fun _ q => q.k d = p.k a ^^^ p.k b) ∧
      Runs s p (.kop .andn d a b) 1 (fun _ q => q.k d = p.k a &&& ~~~(p.k b)) ∧
      Runs s p (.kop .not d a b) 1 (fun _ q => q.k d = ~~~(p.k a)) ∧
      Runs s p (.kop .mov d a b) 1 (fun _ q => q.k d = p.k a) ∧
      Runs s p (.kop .froms d a b) 1 (fun _ q => q.k d = p.s a)) ∧
    Runs s p (.kop .tos d a b) 1 (fun _ q => q.s d = if d = 0 then 0 else p.k a)
/-! ### Floating point -/

namespace Sys2Proof.Claims

/-- An FP32 instruction of lanes completes where no lane raises an enabled class: each lane's result is written and the classes are
committed (R94, R99). -/
def FpRuns (s : State) (p : Pack) (i : Instr) (d : Nat) (f : Nat → FR) : Prop :=
  Quiet p (fun L => (f L).cls) →
  Runs s p i 1 fun u q => Commits s u p (allCls p fun L => (f L).cls) ∧ ∀ L ∈ p.lanes, q.v d L = BitVec.ofNat 32 (f L).bits

/-- An operand as the pack reads it under its FTZ (R80). -/
def fin (p : Pack) (x : Word) : FVal := f32.val (p.r.fpctl.getLsbD 2) x.toNat

/-- The mode of a rounding code: the suffix, or FPCTL.RM (R46, R78, R79). -/
def modeOf (p : Pack) (r : Rnd) : RM :=
  match r with
  | .rne => .rne | .rtz => .rtz | .rup => .rup | .rdn => .rdn
  | .dyn => match p.r.fpctl.toNat % 4 with | 0 => .rne | 1 => .rtz | 2 => .rup | _ => .rdn

/-- How an FP32 or half instruction computes (R78 to R80). -/
def cfgOf (p : Pack) (f : Fmt) (r : Rnd) : FCfg := { fmt := f, rm := modeOf p r, ftz := p.r.fpctl.getLsbD 2 }

/-- Element e of a register of two halves (R129). -/
def half (p : Pack) (bf : Bool) (x : Word) (e : Nat) : FVal :=
  (if bf then bf16 else f16).val (p.r.fpctl.getLsbD 2) (x.toNat / 2 ^ (16 * e) % 2 ^ 16)

/-- A half2 instruction completes where no element raises an enabled class. -/
def HalfRuns (s : State) (p : Pack) (i : Instr) (d : Nat) (g : Nat → Nat → FR) : Prop :=
  Quiet p (fun L => (g L 0).cls ||| (g L 1).cls) →
  Runs s p i 1 fun u q => Commits s u p (allCls p fun L => (g L 0).cls ||| (g L 1).cls) ∧ ∀ L ∈ p.lanes,
    q.v d L = BitVec.ofNat 32 ((g L 0).bits + (g L 1).bits * 2 ^ 16)

/-- What FCMP's condition says of two values (R127). -/
def FHolds (c : FCond) (x y : FVal) : Prop :=
  let un := x.isNan = true ∨ y.isNan = true
  match c with
  | .eq => ¬un ∧ x.eqv y = true
  | .ne => un ∨ x.eqv y = false
  | .lt => ¬un ∧ x.lt y = true
  | .le => ¬un ∧ (x.lt y = true ∨ x.eqv y = true)
  | .gt => ¬un ∧ y.lt x = true
  | .ge => ¬un ∧ (y.lt x = true ∨ x.eqv y = true)
  | .un => un
  | .ord => ¬un

/-- The class bit that FCLASS sets (R125), from the operand's bits; a subnormal under FTZ is a zero of its sign. -/
def classBit (ftz : Bool) (x : Nat) : Nat :=
  let neg := x / 2 ^ 31 = 1
  let e := x / 2 ^ 23 % 256
  let fr := x % 2 ^ 23
  if e = 255 then (if fr = 0 then (if neg then 0 else 7) else if fr < 2 ^ 22 then 8 else 9)
  else if e = 0 then (if fr = 0 ∨ ftz = true then (if neg then 3 else 4) else if neg then 2 else 5)
  else if neg then 1 else 6

/-- The number (-1)^neg * m * 2^e. -/
noncomputable def num (neg : Bool) (m : Nat) (e : Int) : ℚ := (if neg then -1 else 1) * m * (2 : ℚ) ^ e

/-- A finite pattern of a format stands for a number. -/
def IsNum (f : Fmt) (bits : Nat) (y : ℚ) : Prop := ∃ n m e, f.val false bits = .fin n m e ∧ y = num n m e

/-- The pattern `r` is x rounded under a mode among the finite patterns of the format (R79). -/
def Rounded (f : Fmt) (rm : RM) (x : ℚ) (r : Nat) : Prop :=
  ∃ v, IsNum f r v ∧
    match rm with
    | .rdn => v ≤ x ∧ ∀ b y, IsNum f b y → y ≤ x → y ≤ v
    | .rup => x ≤ v ∧ ∀ b y, IsNum f b y → x ≤ y → v ≤ y
    | .rtz => |v| ≤ |x| ∧ 0 ≤ v * x ∧ ∀ b y, IsNum f b y → |y| ≤ |x| → 0 ≤ y * x → |y| ≤ |v|
    | .rne => ∀ b y, IsNum f b y → |x - v| ≤ |x - y| ∧ (|x - v| = |x - y| → y ≠ v → r % 2 = 0)

/-- The formats of R74. -/
def formats : List Fmt := [f32, f16, bf16, e4m3, e5m2]

/-- What an overflow writes, by destination and mode (R82). -/
def overflowBits (f : Fmt) (rm : RM) (neg : Bool) : Nat :=
  let sign := if neg then 2 ^ (f.eb + f.fb) else 0
  let infinity := sign + (2 ^ f.eb - 1) * 2 ^ f.fb
  if f = e4m3 then sign + 0x7E
  else match rm with
    | .rne => infinity
    | .rtz => infinity - 1
    | .rup => if neg then infinity - 1 else infinity
    | .rdn => if neg then infinity else infinity - 1

/-- The integer `z` is x rounded under a mode (R79, R83, R126). -/
def IntRounded (rm : RM) (x : ℚ) (z : ℤ) : Prop :=
  match rm with
  | .rdn => (z : ℚ) ≤ x ∧ x < z + 1
  | .rup => (z : ℚ) - 1 < x ∧ x ≤ z
  | .rtz => if 0 ≤ x then (z : ℚ) ≤ x ∧ x < z + 1 else (z : ℚ) - 1 < x ∧ x ≤ z
  | .rne => |x - z| ≤ 1 / 2 ∧ (|x - z| = 1 / 2 → z % 2 = 0)

/-- An FP32 pattern is a NaN (R74, R75). -/
def nan32 (x : Nat) : Bool := x % 2 ^ 31 > 0x7F800000
/-- An FP32 pattern is a signalling NaN (R75). -/
def sig32 (x : Nat) : Bool := nan32 x && x % 2 ^ 23 < 2 ^ 22
/-- An FP32 pattern as an instruction reads it under FTZ: a subnormal is a zero of its sign (R80). -/
def read32 (ftz : Bool) (x : Nat) : Nat := if ftz = true ∧ x / 2 ^ 23 % 256 = 0 then x / 2 ^ 31 * 2 ^ 31 else x
/-- The order of the FP32 patterns that are no NaN: by value, with -0 before +0 (R123). -/
def order32 (x : Nat) : Int := if x < 2 ^ 31 then x else -((x - 2 ^ 31 : Nat) : Int) - 1
/-- FMIN or FMAX of two FP32 patterns (R123). -/
def least32 (ftz greatest : Bool) (x y : Nat) : Nat :=
  let a := read32 ftz x
  let b := read32 ftz y
  if nan32 x && nan32 y then 0x7FC00000 else if nan32 x then b else if nan32 y then a
  else if decide (order32 a ≤ order32 b) != greatest then a else b

/-- The format of a floating-point element type (R45, R74). -/
def formatOf : ElemTy → Fmt
  | .f16 => f16 | .bf16 => bf16 | .e4m3 => e4m3 | .e5m2 => e5m2 | _ => f32
/-- The bounds of an integer element type (R45, R76). -/
def boundsOf : ElemTy → Int × Int
  | .i8 => (-128, 127) | .n8 => (0, 255) | .i16 => (-32768, 32767) | .n16 => (0, 65535)
  | .i32 => (-(2 ^ 31), 2 ^ 31 - 1) | .n32 => (0, 2 ^ 32 - 1) | .i64 => (-(2 ^ 63), 2 ^ 63 - 1) | _ => (0, 2 ^ 64 - 1)
/-- The integer in the low bits of a source register (R130). -/
def sourceInt : ElemTy → Nat → Int
  | .i8, x => (BitVec.ofNat 8 x).toInt | .n8, x => (x % 2 ^ 8 : Nat) | .i16, x => (BitVec.ofNat 16 x).toInt | .n16, x => (x % 2 ^ 16 : Nat)
  | .i32, x => (BitVec.ofNat 32 x).toInt | .n32, x => (x % 2 ^ 32 : Nat) | .i64, x => (BitVec.ofNat 64 x).toInt
  | _, x => (x % 2 ^ 64 : Nat)
/-- FTZ acts on a type's values (R80). -/
def flushes (t : ElemTy) : Bool := t = .f32 ∨ t = .f16 ∨ t = .bf16

end Sys2Proof.Claims

/-- R121 to R128: the FP32 instructions, each computed exactly and rounded once as `FCfg` does it, where no lane raises an enabled
class. -/
def Sys2Proof.Claims.FloatResults : Prop :=
  ∀ (r : Rnd) (d a : Nat) (b : BOp) (s : State) (p : Pack),
    let x := fun L => fin p (p.v a L)
    let y := fun L => fin p (p.b b L)
    let c := cfgOf p f32 r
    let ftz := p.r.fpctl.getLsbD 2
    FpRuns s p (.fadd r d a b) d (fun L => c.add (x L) (y L)) ∧
    FpRuns s p (.fsub r d a b) d (fun L => c.add (x L) (y L).negate) ∧
    FpRuns s p (.fmul r d a b) d (fun L => c.mul (x L) (y L)) ∧
    FpRuns s p (.ffma r d a b) d (fun L => c.fma (x L) (y L) (fin p (p.b (BOp.next b) L))) ∧
    FpRuns s p (.fmin d a b) d (fun L => minMax f32 ftz false (p.v a L).toNat (p.b b L).toNat) ∧
    FpRuns s p (.fmax d a b) d (fun L => minMax f32 ftz true (p.v a L).toNat (p.b b L).toNat) ∧
    FpRuns s p (.frnd r d a) d (fun L => fround c.rm (x L)) ∧
    FpRuns s p (.fscale r d a b) d (fun L => c.scale (x L) (p.b b L).toInt) ∧
    RunsLanes s p (.fabs d a) 1 (fun q L => q.v d L = p.v a L &&& 0x7FFFFFFF#32) ∧
    RunsLanes s p (.fneg d a) 1 (fun q L => q.v d L = p.v a L ^^^ 0x80000000#32) ∧
    RunsLanes s p (.fclass d a) 1 (fun q L => (q.v d L).toNat = 2 ^ classBit ftz (p.v a L).toNat)

/-- R127, R129, R130: FCMP's mask with IV for a signalling NaN, or for any with .s; the half2 group by elements; CVT. -/
def Sys2Proof.Claims.FloatCompareHalfAndConvertResults : Prop :=
  ∀ (r : Rnd) (d a : Nat) (b : BOp) (s : State) (p : Pack),
    (∀ (c : FCond) (sig : Bool), d ≠ 0 →
      let iv := fun L => (fin p (p.v a L)).isSig || (fin p (p.b b L)).isSig ||
        (sig && ((fin p (p.v a L)).isNan || (fin p (p.b b L)).isNan))
      (p.r.trapen.getLsbD 0 = false ∨ ∀ L ∈ p.lanes, iv L = false) →
      Runs s p (.fcmp c sig d a b) 1 fun u q => Commits s u p (if p.lanes.any iv then 1 else 0) ∧
        ∀ j < 32, (q.k d).getLsbD j = true ↔ j ∈ p.lanes ∧ FHolds c (fin p (p.v a j)) (fin p (p.b b j))) ∧
    (∀ bf : Bool,
      let c := cfgOf p (if bf then bf16 else f16) r
      HalfRuns s p (.hadd2 bf r d a b) d (fun L e => c.add (half p bf (p.v a L) e) (half p bf (p.b b L) e)) ∧
      HalfRuns s p (.hmul2 bf r d a b) d (fun L e => c.mul (half p bf (p.v a L) e) (half p bf (p.b b L) e)) ∧
      HalfRuns s p (.hfma2 bf r d a b) d (fun L e => c.fma (half p bf (p.v a L) e) (half p bf (p.b b L) e)
        (half p bf (p.b (BOp.next b) L) e))) ∧
    (∀ dst src : ElemTy,
      let f := fun L => convert dst src (modeOf p r) (p.r.fpctl.getLsbD 2) (p.opA src.wide a L)
      Quiet p (fun L => (f L).2) →
      Runs s p (.cvt dst src r d a) 1 fun u q => Commits s u p (allCls p fun L => (f L).2) ∧
        ∀ L ∈ p.lanes, q.opA dst.wide d L = if dst.wide then (f L).1.toNat else (f L).1.toNat % 2 ^ 32)

/-- R99, R121 to R131: where TRAPEN enables no class, each FP32, half and conversion instruction completes, whatever its operands. -/
def Sys2Proof.Claims.FloatingPointCompletes : Prop :=
  ∀ (r : Rnd) (c : FCond) (sig bf : Bool) (dst src : ElemTy) (d a : Nat) (b : BOp) (s : State) (p : Pack),
    p.r.trapen.toNat &&& 0x67 = 0 →
    Runs s p (.fadd r d a b) 1 (fun _ q => q.m = p.m) ∧ Runs s p (.fsub r d a b) 1 (fun _ q => q.m = p.m) ∧
    Runs s p (.fmul r d a b) 1 (fun _ q => q.m = p.m) ∧ Runs s p (.ffma r d a b) 1 (fun _ q => q.m = p.m) ∧
    Runs s p (.fmin d a b) 1 (fun t q => Commits s t p (if p.lanes.any (fun L => sig32 (p.v a L).toNat || sig32 (p.b b L).toNat) then 1 else 0) ∧
      ∀ L ∈ p.lanes, (q.v d L).toNat = least32 (p.r.fpctl.getLsbD 2) false (p.v a L).toNat (p.b b L).toNat) ∧
    Runs s p (.fmax d a b) 1 (fun t q => Commits s t p (if p.lanes.any (fun L => sig32 (p.v a L).toNat || sig32 (p.b b L).toNat) then 1 else 0) ∧
      ∀ L ∈ p.lanes, (q.v d L).toNat = least32 (p.r.fpctl.getLsbD 2) true (p.v a L).toNat (p.b b L).toNat) ∧
    Runs s p (.fabs d a) 1 (fun _ q => q.m = p.m) ∧ Runs s p (.fneg d a) 1 (fun _ q => q.m = p.m) ∧
    Runs s p (.fclass d a) 1 (fun _ q => q.m = p.m) ∧ Runs s p (.frnd r d a) 1 (fun _ q => q.m = p.m) ∧
    Runs s p (.fcmp c sig d a b) 1 (fun _ q => q.m = p.m) ∧ Runs s p (.fscale r d a b) 1 (fun _ q => q.m = p.m) ∧
    Runs s p (.hadd2 bf r d a b) 1 (fun _ q => q.m = p.m) ∧ Runs s p (.hmul2 bf r d a b) 1 (fun _ q => q.m = p.m) ∧
    Runs s p (.hfma2 bf r d a b) 1 (fun _ q => q.m = p.m) ∧ Runs s p (.cvt dst src r d a) 1 (fun _ q => q.m = p.m)

/-- R126, R128: what FRND and FSCALE write: a NaN made canonical, with IV for a signalling one and no other class; infinities, and for
FSCALE zeros, as they are; a finite value rounded to an integer under the mode, with its sign and no class; a finite value times a power
of 2, rounded once with the classes of that rounding. -/
def Sys2Proof.Claims.RoundAndScaleValues : Prop :=
  ∀ (rm : RM) (ftz n sig : Bool) (m : Nat) (e k : Int),
    let c : FCfg := { fmt := f32, rm, ftz }
    let infinity : FR := { bits := if n then 0xFF800000 else 0x7F800000, cls := 0 }
    fround rm (.nan sig) = { bits := 0x7FC00000, cls := if sig then 1 else 0 } ∧ fround rm (.inf n) = infinity ∧
    c.scale (.nan sig) k = { bits := 0x7FC00000, cls := if sig then 1 else 0 } ∧ c.scale (.inf n) k = infinity ∧
    c.scale (.fin n 0 e) k = { bits := if n then 0x80000000 else 0, cls := 0 } ∧
    (m < 2 ^ 24 → -149 ≤ e → e ≤ 104 → (fround rm (.fin n m e)).cls = 0 ∧ (fround rm (.fin n m e)).bits / 2 ^ 31 = (if n then 1 else 0) ∧
      ∃ z : ℤ, IsNum f32 (fround rm (.fin n m e)).bits z ∧ IntRounded rm (num n m e) z) ∧
    (∃ j x, num n j x = num n m e * (2 : ℚ) ^ k ∧ (c.scale (.fin n m e) k).bits = (f32.round rm ftz n j x false).bits ∧
      (c.scale (.fin n m e) k).cls &&& 0x3F = (f32.round rm ftz n j x false).cls)

/-- R80, R82, R83, R131: what CVT writes. From a floating-point value: a NaN gives the canonical NaN, with IV for a signalling one, or the
integer 0 with IV; an infinity gives the infinity, to E4M3 0x7F with IV and NP, to an integer the bound with IV; a finite value is rounded
once into the format, or to an integer, one out of range giving the nearest bound with IV alone, and NX where it changed. An integer
rounds into a format; to an integer it goes to the nearest value in range, with no class (an unsigned value past the bounds of a signed
type of its width is the model's choice, log 68). -/
def Sys2Proof.Claims.ConversionValues : Prop :=
  ∀ (dst src : ElemTy) (rm : RM) (ftz : Bool) (x : Nat),
    let fs := formatOf src
    let fd := formatOf dst
    let v := fs.val (ftz && flushes src) (x % 2 ^ (fs.eb + fs.fb + 1))
    let out := fun z : Int => BitVec.ofInt 64 z
    let lo := (boundsOf dst).1
    let hi := (boundsOf dst).2
    (src.isFloat = true → dst.isFloat = true →
      (v.isNan = true → convert dst src rm ftz x = (BitVec.ofNat 64 (if dst = .e4m3 then 0x7F else (2 ^ fd.eb - 1) * 2 ^ fd.fb + 2 ^ (fd.fb - 1)),
        if v.isSig then 1 else 0)) ∧
      (∀ n, v = .inf n → convert dst src rm ftz x =
        if dst = .e4m3 then (0x7F, 0x21) else (BitVec.ofNat 64 ((if n then 2 ^ (fd.eb + fd.fb) else 0) + (2 ^ fd.eb - 1) * 2 ^ fd.fb), 0)) ∧
      ∀ n m e, v = .fin n m e → let r := fd.round rm (ftz && flushes dst) n m e false
        (convert dst src rm ftz x).1 = BitVec.ofNat 64 r.bits ∧ (convert dst src rm ftz x).2 &&& 0x3F = r.cls) ∧
    (src.isFloat = true → dst.isInt = true →
      (v.isNan = true → convert dst src rm ftz x = (0, 1)) ∧
      (∀ n, v = .inf n → convert dst src rm ftz x = (out (if n then lo else hi), 1)) ∧
      ∀ n m e, v = .fin n m e → ∃ z : ℤ, IntRounded rm (num n m e) z ∧
        if z < lo then convert dst src rm ftz x = (out lo, 1) else if hi < z then convert dst src rm ftz x = (out hi, 1)
        else (convert dst src rm ftz x).1 = out z ∧ ((convert dst src rm ftz x).2 = 0 ∧ (z : ℚ) = num n m e ∨
          (convert dst src rm ftz x).2 = 16 ∧ (z : ℚ) ≠ num n m e)) ∧
    (src.isInt = true → (dst = .f32 ∨ dst = .f16 ∨ dst = .bf16) → ∃ n m e,
      num n m e = (sourceInt src x : ℚ) ∧ (m = 0 → n = false) ∧ (convert dst src rm ftz x).1 = BitVec.ofNat 64 (fd.round rm ftz n m e false).bits) ∧
    (src.isInt = true → dst.isInt = true → convert dst src rm ftz x =
      (out (if sourceInt src x < lo then lo else if hi < sourceInt src x then hi else sourceInt src x), 0))

/-- R99, R104: where a lane raises an enabled class the instruction writes its results, commits its flags and traps, with a report
of cause 3 whose lanes are those that raised an enabled class, each with those classes: FADD and FMUL at their issue, and an instruction of
more than 1 ck that stands (the divides, LMV, REDUCE and SCAN, by their own statements) at its last ck. -/
def Obligations.ArithmeticTraps : Prop :=
  (∀ (d a : Nat) (b : BOp) (s : State) (p : Pack), p.c.replay = [] → p.id.colour = none → ∀ r : Rnd, ∀ mul : Bool,
    let i : Instr := if mul then .fmul r d a b else .fadd r d a b
    let f := fun L => let c := cfgOf p f32 r
      if mul then c.mul (fin p (p.v a L)) (fin p (p.b b L)) else c.add (fin p (p.v a L)) (fin p (p.b b L))
    Ready s i p → ¬Quiet p (fun L => (f L).cls) →
    Traps s i p (classLanes p (fun L => (f L).cls) 0) fun u q => Commits s u p (allCls p fun L => (f L).cls) ∧
      ∀ L ∈ p.lanes, q.v d L = BitVec.ofNat 32 (f L).bits) ∧
  (∀ (s : State) (core pipe ck : Nat) (l : Late) (p : Pack),
    let r : PackRef := { core, pipe, slot := l.slot }
    let t := s.completeLate core pipe ck
    ((s.core core).pipe pipe).late = some l → s.pack r = some p → p.id.serial = l.serial → p.c.st = .run → s.stopped p = false →
    (ck < l.due → t = s) ∧
    (l.due ≤ ck → ((t.core core).pipe pipe).late = none ∧ Commits s t p l.cls ∧ ∃ q, t.pack r = some q ∧
      (l.lanes = [] → Past p q l.len) ∧
      (l.lanes ≠ [] → p.c.replay = [] → p.id.colour = none → q.c.st = .drain ∧ q.c.trap.idx = p.c.pc ∧
        ∃ e ∈ q.c.reports, e.idx = p.c.pc ∧ (∀ x ∈ l.lanes, x ∈ e.lanes) ∧ ((∀ r ∈ p.c.reports, r.idx ≠ p.c.pc) → e.lanes = l.lanes))))

/-- R81, R82, R93, R121: the special operands of FADD, FSUB, FMUL and FFMA under every mode: a NaN gives the canonical NaN, IV for a
signalling one; the infinities; the sign of a zero sum and product. -/
def Sys2Proof.Claims.FloatSpecialOperands : Prop :=
  ∀ (rm : RM) (ftz : Bool) (x y z : FVal) (n k : Bool) (m : Nat) (e : Int),
    let c : FCfg := { fmt := f32, rm, ftz }
    (x.isNan = true ∨ y.isNan = true → (c.add x y).bits = 0x7FC00000 ∧ (c.mul x y).bits = 0x7FC00000 ∧
      (c.add x y).cls = (if x.isSig || y.isSig then 1 else 0) ∧ (c.mul x y).cls = if x.isSig || y.isSig then 1 else 0) ∧
    c.add (.inf n) (.inf !n) = { bits := 0x7FC00000, cls := 0x21 } ∧
    c.add (.inf n) (.inf n) = { bits := if n then 0xFF800000 else 0x7F800000, cls := 0 } ∧
    c.add (.inf n) (.fin k m e) = { bits := if n then 0xFF800000 else 0x7F800000, cls := 0 } ∧
    c.mul (.fin k 0 e) (.inf n) = { bits := 0x7FC00000, cls := 0x21 } ∧
    c.mul (.inf n) (.fin k 0 e) = { bits := 0x7FC00000, cls := 0x21 } ∧
    (c.fma (.fin k 0 e) (.inf n) z).bits = 0x7FC00000 ∧
    (c.fma (.fin k 0 e) (.inf n) z).cls = (if z.isNan then 1 else 0x21) ∧
    c.fma (.inf n) (.inf k) (.inf (n == k)) = { bits := 0x7FC00000, cls := 0x21 } ∧
    c.add (.fin n m e) (.fin (!n) m e) = { bits := if rm = .rdn then 0x80000000 else 0, cls := 0 } ∧
    c.mul (.fin n 0 e) (.fin k 0 e) = { bits := if n = k then 0 else 0x80000000, cls := 0 }

/-- R79, R80, R82: a rounded result is the nearest number of the format, with ties to even, or the next one in the mode's direction, in
every format of R74, where there is no overflow; NX is raised where it is not the number itself. An overflow writes what R82 gives, with OF
and NX; a flush writes a subnormal result as a zero of its sign, with UF and NX. -/
def Obligations.RoundingIsCorrect : Prop :=
  ∀ f ∈ formats, ∀ (rm : RM) (neg : Bool) (m : Nat) (e : Int),
    let r := f.round rm false neg m e false
    let flushed := f.round rm true neg m e false
    (r.cls &&& 4 = 0 → Rounded f rm (num neg m e) r.bits ∧ (r.cls &&& 16 ≠ 0 ↔ ¬IsNum f r.bits (num neg m e))) ∧
    (r.cls &&& 4 ≠ 0 → r.bits = overflowBits f rm neg ∧ r.cls = 0x14) ∧
    flushed = if 0 < r.bits % 2 ^ (f.eb + f.fb) ∧ r.bits % 2 ^ (f.eb + f.fb) < 2 ^ f.fb
      then { bits := if neg then 2 ^ (f.eb + f.fb) else 0, cls := 0x18 } else r

/-- R121, R122: FADD, FMUL and FFMA of finite operands round the exact sum, product, or product and sum, once. -/
def Sys2Proof.Claims.SumsAndProductsAreExactBeforeRounding : Prop :=
  ∀ (rm : RM) (n1 n2 n3 : Bool) (m1 m2 m3 : Nat) (e1 e2 e3 : Int),
    let x : FVal := .fin n1 m1 e1
    let y : FVal := .fin n2 m2 e2
    let z : FVal := .fin n3 m3 e3
    ∀ f ∈ formats, ∀ ftz : Bool,
      let c : FCfg := { fmt := f, rm, ftz }
      (∃ n m e, num n m e = num n1 m1 e1 + num n2 m2 e2 ∧ (c.add x y).bits = (f.round rm ftz n m e false).bits) ∧
      (∃ n m e, num n m e = num n1 m1 e1 * num n2 m2 e2 ∧ (c.mul x y).bits = (f.round rm ftz n m e false).bits) ∧
      (∃ n m e, num n m e = num n1 m1 e1 * num n2 m2 e2 + num n3 m3 e3 ∧
        (c.fma x y z).bits = (f.round rm ftz n m e false).bits)

/-- The worked conversions of R83: results and flags. -/
def Sys2Proof.Claims.WorkedConversions : Prop :=
  ∀ rm : RM,
    convert .bf16 .f32 .rne false 0x3F808000 = (0x3F80, 0x10) ∧
    convert .bf16 .f32 .rup false 0x3F808000 = (0x3F81, 0x10) ∧
    convert .e4m3 .f32 .rne false 0x43960000 = (0x79, 0x10) ∧
    convert .e4m3 .f32 rm false 0x43FA0000 = (0x7E, 0x14) ∧
    convert .e4m3 .f32 rm false 0x7F800000 = (0x7F, 0x21) ∧
    convert .e5m2 .f32 .rne false 0x4788B800 = (0x7C, 0x54) ∧
    convert .e5m2 .f32 .rtz false 0x4788B800 = (0x7B, 0x14) ∧
    (convert .i32 .f32 rm false 0xCF5C8985).2 = 1 ∧
    (convert .i32 .f32 rm false 0xCF5C8985).1.setWidth 32 = 0x80000000#32 ∧
    convert .f16 .f32 .rne false 0x7FA00000 = (0x7E00, 1)
/-! ### Special functions, lane matvec and pack instructions -/

namespace Sys2Proof.Claims

/-- The special functions by instruction. -/
def sfuInstr (fn : SfuFn) (d a : Nat) : Instr :=
  match fn with
  | .rcp => .frcp d a | .rsq => .frsq d a | .sqrt => .fsqrt d a | .exp2 => .fexp2 d a | .log2 => .flog2 d a
  | .sin => .fsin d a | .cos => .fcos d a | .tanh => .ftanh d a | .sigm => .fsigm d a

/-- A deferred result joins those of the pack; its registers and views are as before (R20). -/
def Defers (p q : Pack) (Q : Deferred → Prop) : Prop :=
  ∃ d, q.c.deferred = p.c.deferred ++ [d] ∧ q.r = p.r ∧ q.m = p.m ∧ Q d

/-- The pairwise tree of REDUCE over a level and a place (R87). -/
def treeAt (f : Nat → Nat → FR) (x : Nat → Nat) : Nat → Nat → FR
  | 0, i => { bits := x i, cls := 0 }
  | l + 1, i =>
    let a := treeAt f x l (2 * i)
    let b := treeAt f x l (2 * i + 1)
    let r := f a.bits b.bits
    { bits := r.bits, cls := a.cls ||| b.cls ||| r.cls }

/-- The inclusive scan in ascending position: the step at position L (R88). -/
def scanAt (f : Nat → Nat → FR) (x : Nat → Nat) : Nat → FR
  | 0 => { bits := x 0, cls := 0 }
  | L + 1 => f (scanAt f x L).bits (x (L + 1))

/-- The identity of an operation (R135). -/
def identityOf : RedOp → RedTy → Nat
  | .min, .f32 => 0x7F800000 | .max, .f32 => 0xFF800000
  | .min, .i32 => 0x7FFFFFFF | .max, .i32 => 0x80000000
  | .min, .n32 => 0xFFFFFFFF
  | .and, _ => 0xFFFFFFFF
  | _, _ => 0

/-- A combination of REDUCE and SCAN (R123, R135). -/
def combineOf (p : Pack) (op : RedOp) (t : RedTy) (x y : Nat) : FR :=
  let c := cfgOf p f32 .dyn
  let lt := if t = .n32 then x < y else (BitVec.ofNat 32 x).toInt < (BitVec.ofNat 32 y).toInt
  if t = .f32 then
    match op with
    | .min => { bits := least32 c.ftz false x y, cls := if sig32 x || sig32 y then 1 else 0 }
    | .max => { bits := least32 c.ftz true x y, cls := if sig32 x || sig32 y then 1 else 0 }
    | _ => c.add (f32.val c.ftz x) (f32.val c.ftz y)
  else
    { bits := match op with
        | .add => (x + y) % 2 ^ 32
        | .min => if lt then x else y
        | .max => if lt then y else x
        | .and => x &&& y
        | .or => x ||| y
        | .xor => x ^^^ y
      cls := 0 }

end Sys2Proof.Claims

/-- R20, R101, R104, R132: a special function defers its result, where fewer than 16 of the pack's stand deferred or reported (R306, the
count of the reported ones being the model's reading, log 70): the value of each lane as `sfuVal` forms it, due 6 ck after issue, with the
TRAPEN of its issue. That `sfuVal` is the correctly rounded value is stated for FRCP, FRSQ and FSQRT and for the special inputs; for the
other functions it is the model's own series (log 10). -/
def Sys2Proof.Claims.SfuIssue : Prop :=
  ∀ (fn : SfuFn) (d a : Nat) (s : State) (p : Pack), p.c.deferred.length + p.c.reports.length < 16 →
    Runs s p (sfuInstr fn d a) 1 fun _ q => Defers p q fun e =>
      e.kind = .sfu ∧ e.d = d ∧ e.ready = s.now + 6 ∧ e.trapen = p.r.trapen ∧
      e.lanes.map (fun l => (l.lane, l.res)) = p.lanes.map (fun L => (L, .bound (sfuVal fn (p.r.fpctl.getLsbD 2) (fin p (p.v a L))).bits)) ∧
      e.cls = p.lanes.map fun L => (L, (sfuVal fn (p.r.fpctl.getLsbD 2) (fin p (p.v a L))).cls)

/-- R101, R132: the result of a special function arrives when it is due: the lanes' registers are written, the classes are committed,
and no report is made where no class is enabled. -/
def Sys2Proof.Claims.SfuResultArrives : Prop :=
  ∀ (r : PackRef) (n : Nat) (s : State) (p : Pack) (d : Deferred),
    s.pack r = some p → p.c.deferred[n]? = some d → d.kind = .sfu → d.ready ≤ s.now → d.uni = false → d.size = 4 →
    (d.lanes.map fun l => l.lane).Nodup → (∀ l ∈ d.lanes, ∃ v, l.res = .bound v) →
    (∀ e ∈ d.cls, e.2 &&& (d.trapen.toNat &&& 0x67) = 0) →
    ∃ t q, exec (.sfuResult r n) s = .next t ∧ t.pack r = some q ∧ q.c.deferred = p.c.deferred.eraseIdx n ∧
      q.c.reports = p.c.reports ∧ Commits s t p (d.cls.foldl (fun m e => m ||| e.2) 0) ∧
      ∀ l ∈ d.lanes, ∀ v, l.res = .bound v → q.v d.d l.lane = BitVec.ofNat 32 v

/-- R133: the special inputs of the special functions, each with its classes; 2^k for whole k, and log2 of powers of 2, exactly. -/
def Sys2Proof.Claims.SfuSpecialInputs : Prop :=
  ∀ (ftz n : Bool) (e : Int) (m : Nat), m ≠ 0 →
    let zero : FVal := .fin n 0 e
    let less : FVal := .fin true m e
    let inf := fun k : Bool => if k then 0xFF800000 else 0x7F800000
    let sgn := if n then 0x80000000 else 0
    sfuVal .rcp ftz zero = { bits := inf n, cls := 0x42 } ∧ sfuVal .rcp ftz (.inf n) = { bits := sgn, cls := 0 } ∧
    sfuVal .rsq ftz zero = { bits := inf n, cls := 0x42 } ∧ sfuVal .rsq ftz less = { bits := 0x7FC00000, cls := 0x21 } ∧
    sfuVal .rsq ftz (.inf true) = { bits := 0x7FC00000, cls := 0x21 } ∧ sfuVal .rsq ftz (.inf false) = { bits := 0, cls := 0 } ∧
    sfuVal .sqrt ftz zero = { bits := sgn, cls := 0 } ∧ sfuVal .sqrt ftz less = { bits := 0x7FC00000, cls := 0x21 } ∧
    sfuVal .sqrt ftz (.inf true) = { bits := 0x7FC00000, cls := 0x21 } ∧ sfuVal .sqrt ftz (.inf false) = { bits := inf false, cls := 0 } ∧
    sfuVal .exp2 ftz zero = { bits := 0x3F800000, cls := 0 } ∧ sfuVal .exp2 ftz (.inf true) = { bits := 0, cls := 0 } ∧
    sfuVal .exp2 ftz (.inf false) = { bits := inf false, cls := 0 } ∧
    sfuVal .log2 ftz zero = { bits := inf true, cls := 0x42 } ∧ sfuVal .log2 ftz less = { bits := 0x7FC00000, cls := 0x21 } ∧
    sfuVal .log2 ftz (.inf true) = { bits := 0x7FC00000, cls := 0x21 } ∧ sfuVal .log2 ftz (.inf false) = { bits := inf false, cls := 0 } ∧
    sfuVal .sin ftz zero = { bits := sgn, cls := 0 } ∧ sfuVal .sin ftz (.inf n) = { bits := 0x7FC00000, cls := 0x21 } ∧
    sfuVal .cos ftz zero = { bits := 0x3F800000, cls := 0 } ∧ sfuVal .cos ftz (.inf n) = { bits := 0x7FC00000, cls := 0x21 } ∧
    sfuVal .tanh ftz zero = { bits := sgn, cls := 0 } ∧ sfuVal .tanh ftz (.inf n) = { bits := 0x3F800000 + sgn, cls := 0 } ∧
    sfuVal .sigm ftz zero = { bits := 0x3F000000, cls := 0 } ∧ sfuVal .sigm ftz (.inf false) = { bits := 0x3F800000, cls := 0 } ∧
    sfuVal .sigm ftz (.inf true) = { bits := 0, cls := 0 } ∧
    (∀ k : Int, -126 ≤ k → k ≤ 127 → ∀ x < 2 ^ 32, f32.val false x = .fin false (2 ^ 23) (k - 23) →
      sfuVal .exp2 ftz (.fin (k < 0) k.natAbs 0) = { bits := x, cls := 0 } ∧
      (sfuVal .log2 ftz (.fin false (2 ^ 23) (k - 23))).cls = 0 ∧
      IsNum f32 (sfuVal .log2 ftz (.fin false (2 ^ 23) (k - 23))).bits k) ∧
    (∀ k : Nat, 127 ≤ k → k ≤ 149 → sfuVal .exp2 ftz (.fin true k 0) =
      if ftz then { bits := 0, cls := 0x18 } else { bits := 2 ^ (149 - k), cls := 0 }) ∧
    ((128 : ℚ) ≤ num false m e → sfuVal .exp2 ftz (.fin false m e) = { bits := 0x7F800000, cls := 0x54 })

namespace Sys2Proof.Claims

/-- The FP32 pattern stands for the number nearest to the positive root whose square is x (R132): no midpoint to another number lies
between them. -/
def NearestRoot (x : ℚ) (bits : Nat) : Prop :=
  ∃ v, IsNum f32 bits v ∧ 0 < v ∧ ∀ b y, IsNum f32 b y → (v < y → x ≤ ((v + y) / 2) ^ 2) ∧ (0 ≤ y → y < v → ((v + y) / 2) ^ 2 ≤ x)

end Sys2Proof.Claims

/-- R132: FRCP, FSQRT and FRSQ of a finite number other than zero are the exact reciprocal, root and reciprocal root, rounded to nearest-even
into FP32. -/
def Sys2Proof.Claims.ReciprocalsAndRootsAreCorrect : Prop :=
  ∀ (n : Bool) (m : Nat) (e : Int), 0 < m → m < 2 ^ 24 → -149 ≤ e → e ≤ 104 →
    ((sfuVal .rcp false (.fin n m e)).cls &&& 4 = 0 → Rounded f32 .rne (1 / num n m e) (sfuVal .rcp false (.fin n m e)).bits) ∧
    NearestRoot (num false m e) (sfuVal .sqrt false (.fin false m e)).bits ∧
    NearestRoot (1 / num false m e) (sfuVal .rsq false (.fin false m e)).bits

/-- R86, R104, R134, R323: LMV writes for each row the chain of fused steps over the columns, always RNE, from the weights at the constant
offset, in ceil(rows * columns / 8) ck for BF16 weights and / 4 for FP32; past the constants bound to the image every lane takes the
constant-bound fault, and for a poisoned weight the constant-poison fault, and no register is written. One of 1 ck whose chains raise an
enabled class traps at its issue. -/
def Sys2Proof.Claims.LaneMatvec : Prop :=
  ∀ (wide : Bool) (bias : Option Nat) (d a rows cols off : Nat) (s : State) (p : Pack),
    let i : Instr := .lmv wide bias d a rows cols off
    let e := if wide then 4 else 2
    let per := if wide then 4 else 8
    let occ := (rows * cols + per - 1) / per
    let img := s.runImage p.id.slot
    let c : FCfg := { fmt := f32, rm := .rne, ftz := p.r.fpctl.getLsbD 2 }
    let w := fun r j => let at_ := off + (r * cols + j) * e
      if wide then leNat (s.constRead s.cur.core img at_ 4) else leNat (s.constRead s.cur.core img at_ 2) * 2 ^ 16
    let chain := fun L r => (List.range cols).foldl (fun (q : FR) j =>
        let t := c.fma (f32.val c.ftz (w r j)) (fin p (p.v (a + j) L)) (f32.val c.ftz q.bits)
        { bits := t.bits, cls := q.cls ||| t.cls })
      { bits := match bias with | some b => (p.v (b + r) L).toNat | none => 0, cls := 0 }
    let f := fun L => (List.range rows).foldl (fun m r => m ||| (chain L r).cls) 0
    let written := fun q : Pack => ∀ L ∈ p.lanes, ∀ r < rows, q.v (d + r) L = BitVec.ofNat 32 (chain L r).bits
    let inside := off + rows * cols * e ≤ s.constBytes p.id.slot
    let poison := s.constPoison s.cur.core img off (rows * cols * e)
    let every := fun cause => p.lanes.map fun L => ({ lane := L, cause, detail := 0, addr := off } : RepLane)
    (inside → poison = false → RunsLong s p i 2 occ f off written) ∧
    (p.c.replay = [] → p.id.colour = none → Ready s i p →
      (inside → poison = false → occ ≤ 1 → ¬Quiet p f → Traps s i p (classLanes p f off) fun t q => Commits s t p (allCls p f) ∧ written q) ∧
      (¬inside → Traps s i p (every 7) fun _ q => q.r = p.r) ∧
      (inside → poison = true → Traps s i p (every 11) fun _ q => q.r = p.r))

/-- R87, R88, R104, R135, R136: REDUCE combines the active positions by the pairwise tree, SCAN in ascending position, each in 2 ck; every
active lane counts as one that raised the classes of a tree. -/
def Sys2Proof.Claims.ReduceAndScanResults : Prop :=
  ∀ (op : RedOp) (t : RedTy) (d a : Nat) (s : State) (p : Pack), p.id.n ≤ 32 →
    let x := fun L => if L < p.id.n then (p.v a L).toNat else identityOf op t
    let f := combineOf p op t
    let step : Bool → Nat → FR := fun excl L =>
      if excl then (if L = 0 then { bits := identityOf op t, cls := 0 } else scanAt f x (L - 1)) else scanAt f x L
    (t = .f32 → op = .add ∨ op = .min ∨ op = .max) →
    RunsLong s p (.reduce op t d a) 1 2 (fun _ => (treeAt f x 5 0).cls) 0 (fun q => q.s d = if d = 0 then 0 else BitVec.ofNat 32 (treeAt f x 5 0).bits) ∧
    (∀ excl, RunsLong s p (.scan op excl t d a) 1 2 (fun L => (step excl L).cls) 0 fun q =>
      ∀ L ∈ p.lanes, q.v d L = BitVec.ofNat 32 (step excl L).bits)

/-- R137 to R140: the words of VOTE, BALLOT, SHFL and CONFL, and what they write: VOTE one of four counts of kA and k0, BALLOT the lanes
whose vA is not zero, SHFL a lane's vA from a position, CONFL the four fields. None raises a flag. -/
def Obligations.PackInstructionResults : Prop :=
  (∀ (d a : Nat) (b : BOp), d < 64 → a < 64 → (match b with | .v r => r < 64 | .s r => r < 32) →
    let word := fun op fn : Nat => decodeWords (op * 2 ^ 24 + d * 2 ^ 18 + a * 2 ^ 12 + fn * 2) none
    (d < 32 → a < 8 → word 0x2E 0 = .ok (.vote .any d a) ∧ word 0x2E 1 = .ok (.vote .all d a) ∧ word 0x2E 2 = .ok (.vote .none d a) ∧
      word 0x2E 3 = .ok (.vote .count d a)) ∧
    (0 < d → d < 8 → word 0x2F 0 = .ok (.ballot d a)) ∧ word 0x31 0 = .ok (.confl d a) ∧
    ∀ e ∈ [(0, ShflMode.idx), (1, .up), (2, .down), (3, .xor)],
      decodeWords (0x30 * 2 ^ 24 + d * 2 ^ 18 + a * 2 ^ 12 + bField b + e.1 * 2) none = .ok (.shfl e.2 d a b)) ∧
  ∀ (d a : Nat) (b : BOp) (m : ShflMode) (s : State) (p : Pack),
    let on := fun j => (p.k a).getLsbD j && (p.k 0).getLsbD j
    Runs s p (.vote .any d a) 1 (fun t q => t.ctxs = s.ctxs ∧ q.s d = if d ≠ 0 ∧ (List.range 32).any on = true then 1 else 0) ∧
    Runs s p (.vote .all d a) 1 (fun t q => t.ctxs = s.ctxs ∧
      q.s d = if d ≠ 0 ∧ (List.range 32).all (fun j => !(p.k 0).getLsbD j || on j) = true then 1 else 0) ∧
    Runs s p (.vote .none d a) 1 (fun t q => t.ctxs = s.ctxs ∧ q.s d = if d ≠ 0 ∧ (List.range 32).any on = false then 1 else 0) ∧
    Runs s p (.vote .count d a) 1 (fun t q => t.ctxs = s.ctxs ∧ (q.s d).toNat = if d = 0 then 0 else (List.range 32).countP on) ∧
    (d ≠ 0 → Runs s p (.ballot d a) 1 fun t q => t.ctxs = s.ctxs ∧ ∀ j < 32, (q.k d).getLsbD j = true ↔ j ∈ p.lanes ∧ p.v a j ≠ 0) ∧
    RunsLanes s p (.shfl m d a b) 1 (fun q L =>
      let y : Int := (p.b b L).toNat
      let j : Int := match m with | .idx => y | .up => L - y | .down => L + y | .xor => (L ^^^ (p.b b L).toNat : Nat)
      (0 ≤ j → j < p.id.n → q.v d L = p.v a j.toNat) ∧ (j < 0 ∨ j ≥ p.id.n → q.v d L = p.v a L)) ∧
    (p.id.n ≤ 32 → RunsLanes s p (.confl d a) 1 fun q L =>
      let same := fun j => decide (j < p.id.n) && p.v a j == p.v a L
      let w := (q.v d L).toNat
      let next := w / 2 ^ 16
      let leader := w % 32
      w / 2 ^ 5 % 32 = (List.range L).countP same ∧ w / 2 ^ 10 % 64 = (List.range 32).countP same ∧
      same leader = true ∧ (∀ j < leader, same j = false) ∧
      (if (List.range 32).any (fun j => decide (L < j) && same j) then L < next ∧ same next = true ∧ ∀ j, L < j → j < next → same j = false else next = L))

/-! ### Tiles and batches -/

namespace Sys2Proof.Claims

/-- The engine instructions that TD does not enter or whose descriptor passes the checks of its entry (R156 to R163). -/
def engineOk (s : State) (p : Pack) : Instr → Bool
  | .tzero _ | .mma _ _ _ _ _ | .mmas _ _ _ _ _ _ _ | .tact _ _ _ _ _ | .tred _ _ _ _ => true
  | .tld tr _ td | .tst tr _ td =>
    let d := p.desc td
    d.wellFormed && (!tr || (!d.elem.isGrouped && d.ext == d.rows * d.cols * d.elem.bytes)) &&
      (d.base + d.ext - 1) / 128 < s.frameWords p.id.slot
  | .mmaq ta tw _ _ _ td =>
    let d := p.desc td
    d.wellFormed && d.ty == tw.code && d.rows == (if ta.bytes = 2 then 128 else 256) && d.cols == 64
  | .quant t rot _ _ td =>
    let d := p.desc td
    let n := match rot with | .none => 1 | .r32 => 32 | .r64 => 64 | .r128 => 128
    d.wellFormed && d.ty == t.code && d.rows * d.cols ≤ 4096 && d.kAxis % n == 0
  | .deq t _ _ td =>
    let d := p.desc td
    d.wellFormed && d.ty != t.code && (d.elem != .f32 || t == .bf16 || t == .f16) && d.rows * d.cols * t.bytes ≤ 16384
  | _ => false

/-- The descriptor that an engine instruction names; register 0 where it names none. -/
def tdOf : Instr → Nat
  | .tld _ _ td | .tst _ _ td | .mmaq _ _ _ _ _ td | .quant _ _ _ _ td | .deq _ _ _ td => td
  | _ => 0

/-- The engine instructions of two words (R57). -/
def engineLen : Instr → Nat
  | .mmas _ _ _ _ _ _ _ | .mmaq _ _ _ _ _ _ => 2
  | _ => 1

end Sys2Proof.Claims

/-- R148, R154 to R163: an engine instruction whose checks pass, with room in the queue, enters its pipeline's queue with the
descriptor it captures, joins the open batch, and the pack goes on; its registers and frame are as before. -/
def Sys2Proof.Claims.EngineInstructionsQueue : Prop :=
  ∀ (i : Instr) (s : State) (p : Pack), engineOk s p i = true →
    ((s.core s.cur.core).pipe s.cur.pipe).queue.length + (if p.id.tier = 3 then 3 else 1) ≤ 16 →
    Runs s p i (engineLen i) fun t q => q.r = p.r ∧ q.m = p.m ∧
      (∃ b ∈ q.c.batches, b.num = p.c.bopen ∧ 1 ≤ b.members) ∧
      ∃ o, ((t.core s.cur.core).pipe s.cur.pipe).queue = ((s.core s.cur.core).pipe s.cur.pipe).queue ++ [o] ∧
        o.instr = i ∧ o.serial = p.id.serial ∧ o.batch = p.c.bopen ∧ o.w0 = (p.tdw (tdOf i) 0).toNat ∧ o.w1 = (p.tdw (tdOf i) 1).toNat

/-- R156: TLD and TST with a descriptor that is not well formed trap pack-wide with cause 12, with a view range past the frame words
with cause 5, and enter no queue. -/
def Sys2Proof.Claims.TileMovesCheckTheirDescriptor : Prop :=
  ∀ (tr tst : Bool) (m td : Nat) (s : State) (p : Pack), p.c.replay = [] → p.id.colour = none →
    let i : Instr := if tst then .tst tr m td else .tld tr m td
    let d := p.desc td
    let formed := d.wellFormed && (!tr || (!d.elem.isGrouped && d.ext == d.rows * d.cols * d.elem.bytes))
    let kept := fun (t : State) (q : Pack) => q.r = p.r ∧ q.m = p.m ∧
      ((t.core s.cur.core).pipe s.cur.pipe).queue = ((s.core s.cur.core).pipe s.cur.pipe).queue
    Ready s i p →
    (formed = false → Traps s i p (p.lanes.map fun L => { lane := L, cause := 12, detail := 0, addr := 0 }) kept) ∧
    (formed = true → s.frameWords p.id.slot ≤ (d.base + d.ext - 1) / 128 →
      Traps s i p (p.lanes.map fun L => { lane := L, cause := 5, detail := 0, addr := 0 }) kept)

/-- R147, R152, R153: TDESC writes the descriptor where word 1 passes, and else traps with cause 12 and leaves it; BFENCE closes the
open batch and writes its number; BWAIT goes on where every batch it waits for is done and none is left to report. -/
def Sys2Proof.Claims.DescriptorAndBatchInstructions : Prop :=
  ∀ (td a d w0 : Nat) (s : State) (p : Pack),
    ((Desc.ofWords w0 (p.s a).toNat).word1Ok = true →
      Runs s p (.tdesc td a w0) 2 fun _ q => q.tdw td 0 = BitVec.ofNat 32 w0 ∧ q.tdw td 1 = p.s a ∧
        ∀ j, j ≠ td → q.tdw j 0 = p.tdw j 0 ∧ q.tdw j 1 = p.tdw j 1) ∧
    (p.c.replay = [] → p.id.colour = none → Ready s (.tdesc td a w0) p → (Desc.ofWords w0 (p.s a).toNat).word1Ok = false →
      Traps s (.tdesc td a w0) p (p.lanes.map fun L => { lane := L, cause := 12, detail := 0, addr := 0 }) fun _ q => q.r = p.r) ∧
    Runs s p (.bfence d) 1 (fun _ q => q.s d = (if d = 0 then 0 else BitVec.ofNat 32 p.c.bopen) ∧ q.c.bopen = p.c.bopen + 1) ∧
    (p.c.replay = [] → d ≠ 0 → (p.s d).toNat < p.c.bopen → (∀ b ∈ p.c.batches, b.done = true ∧ b.psc = false) →
      Runs s p (.bwait d) 1 fun _ q => q.c.wait = none ∧ q.r = p.r ∧ q.c.bopen = p.c.bopen)
/-! ### Memory -/

namespace Sys2Proof.Claims

/-- The effective address of a global access of a lane (R190). -/
def gea (p : Pack) (base : Nat) (off : Int) (n L : Nat) : Nat := (((p.v2 base L).toNat + off * n) % 2 ^ 64).toNat

/-- The effective address of a frame or private access of a lane, exact and not wrapped (R190). -/
def vea (p : Pack) (base : Nat) (off : Int) (n L : Nat) : Int := (p.v base L).toNat + off * n

/-- The bytes of a size. -/
def size (sz : Sz) : Nat := match sz with | .b => 1 | .h => 2 | .w => 4 | .d => 8

/-- The lanes of a store (R105, R202). -/
def storing (p : Pack) (k : Nat) : List Nat := p.lanes.filter fun L => (p.k k).getLsbD L

/-- A number of n bytes extended to 32 bits (R191). -/
def ext (n : Nat) (sext : Bool) (v : Nat) : Nat := if sext = true ∧ 2 ^ (8 * n - 1) ≤ v then v + 2 ^ 32 - 2 ^ (8 * n) else v

/-- The word of a view at a byte address: zero at an inactive position (R26, R27). -/
def viewAt (p : Pack) (m : Sparse 32) (a : Nat) : Nat := if a / 4 % 32 < p.id.n then (Sparse.get (a / 4) m).toNat else 0

/-- A byte of a view's storage. -/
def byteOf (m : Sparse 32) (a : Nat) : Nat := (Sparse.get (a / 4) m).toNat / 2 ^ (8 * (a % 4)) % 256

/-- A view access is aligned and within the block's words (R192, R193). -/
def InView (words : Nat) (ea : Int) (n : Nat) : Prop := ea % n = 0 ∧ 0 ≤ ea ∧ ea / 128 < words

/-- The lanes' stores reach a view: each stores the low bytes of its register, the highest lane winning a byte; no other byte of the
view changes, and none at an inactive position (R26, R170, R202). -/
def ViewStored (p : Pack) (d base : Nat) (off : Int) (n k : Nat) (m m' : Sparse 32) : Prop :=
  let ea := fun L => (vea p base off n L).toNat
  let covers := fun L a => L ∈ storing p k ∧ ea L ≤ a ∧ a < ea L + n ∧ a / 4 % 32 < p.id.n
  (∀ L a, covers L a → (∀ K, L < K → ¬covers K a) → byteOf m' a = (p.v d L).toNat / 2 ^ (8 * (a - ea L)) % 256) ∧
  (∀ a, (∀ L, ¬covers L a) → byteOf m' a = byteOf m a)

/-- A pack whose accesses fit the collector and the wake buffer with the reserve kept (R199, R201). -/
def Room (s : State) (lanes : Nat) : Prop :=
  (s.core s.cur.core).slots.length + lanes + 32 ≤ 256 ∧ (s.core s.cur.core).wake.length + lanes + 32 ≤ 512

/-- One more result of the pack may be deferred (R306): fewer than 16 stand deferred or reported (the reported ones counting as the model
reads it, log 70). -/
def Defer16 (p : Pack) : Prop := p.c.deferred.length + p.c.reports.length < 16

/-- A global access of a lane passes the checks of R193: it is aligned, and its bytes are granted. -/
def Passes (s : State) (p : Pack) (need va n : Nat) : Prop := va % n = 0 ∧ s.permits p need va n = true

/-- The report lanes of global accesses that fail at issue, each with its address (R193, R194): misaligned, cause 4; not granted, cause 8. -/
def globalFails (s : State) (p : Pack) (need n : Nat) (lanes : List Nat) (ea : Nat → Nat) : List RepLane :=
  lanes.filterMap fun L =>
    if ea L % n ≠ 0 then some { lane := L, cause := 4, detail := 0, addr := ea L }
    else if s.permits p need (ea L) n = false then some { lane := L, cause := 8, detail := 0, addr := ea L } else none

/-- The report lanes of view accesses that fail at issue (R193, R194): misaligned, cause 4; past the block's words, `bound`, which is 5 for
the frame and 6 for private words. The address is the one formed, modulo 2^64. -/
def viewFails (bound words n : Nat) (lanes : List Nat) (ea : Nat → Int) : List RepLane :=
  lanes.filterMap fun L =>
    let addr := (BitVec.ofInt 64 (ea L)).toNat
    if ea L % n ≠ 0 then some { lane := L, cause := 4, detail := 0, addr }
    else if ea L < 0 ∨ (words : Int) ≤ ea L / 128 then some { lane := L, cause := bound, detail := 0, addr } else none

/-- The new word of a frame atomic (R206), with its classes. -/
def atomfOf (op : AtomfOp) (old arg cmp : Nat) : FR :=
  let i := fun x : Nat => (BitVec.ofNat 32 x).toInt
  match op with
  | .addI32 => { bits := (old + arg) % 2 ^ 32, cls := 0 }
  | .minI32 => { bits := if i arg < i old then arg else old, cls := 0 }
  | .maxI32 => { bits := if i old < i arg then arg else old, cls := 0 }
  | .minN32 => { bits := if arg < old then arg else old, cls := 0 }
  | .maxN32 => { bits := if old < arg then arg else old, cls := 0 }
  | .and => { bits := old &&& arg, cls := 0 }
  | .or => { bits := old ||| arg, cls := 0 }
  | .xor => { bits := old ^^^ arg, cls := 0 }
  | .swap => { bits := arg, cls := 0 }
  | .cas => { bits := if old = cmp then arg else old, cls := 0 }
  | .addF32 => ({ fmt := f32, rm := .rne, ftz := false } : FCfg).add (f32.val false old) (f32.val false arg)

/-- The lanes of a frame atomic in ascending position: the frame, and of each lane so far the old word and the classes (R183, R206). -/
def atomfLane (op : AtomfOp) (p : Pack) (d a : Nat) (b : BOp) (q : Sparse 32 × List (Nat × Word × Nat)) (L : Nat) :
    Sparse 32 × List (Nat × Word × Nat) :=
  let key := (p.v a L).toNat / 4
  if p.id.n ≤ key % 32 then (q.1, q.2 ++ [(L, 0, 0)])
  else
    let old := Sparse.get key q.1
    let new := atomfOf op old.toNat (p.b b L).toNat (p.v d L).toNat
    (Sparse.set key (BitVec.ofNat 32 new.bits) q.1, q.2 ++ [(L, old, new.cls)])

end Sys2Proof.Claims

/-- R190, R193, R197, R202: LD and LDS whose lanes all pass defer one result with every lane's address; no register, view or memory
changes at issue. -/
def Sys2Proof.Claims.LoadIssue : Prop :=
  ∀ (sz : Sz) (sext : Bool) (d base : Nat) (off : Int) (s : State) (p : Pack),
    p.c.replay = [] → p.lanes ≠ [] → Room s p.lanes.length → Defer16 p →
    ((∀ L ∈ p.lanes, Passes s p 1 (gea p base off (size sz) L) (size sz)) →
      Runs s p (.ld sz sext d base off) 1 fun t q => t.mem = s.mem ∧ Defers p q fun e =>
        e.kind = .load ∧ e.d = d ∧ e.size = size sz ∧ e.sext = sext ∧ e.uni = false ∧ e.idx = p.c.pc ∧
        (∀ L ∈ p.lanes, ∃ l ∈ e.lanes, l.lane = L ∧ l.addr = gea p base off (size sz) L) ∧
        ∀ l ∈ e.lanes, l.lane ∈ p.lanes ∧ l.addr = gea p base off (size sz) l.lane) ∧
    (let ea := (((p.s2 base).toNat + off * size sz) % 2 ^ 64).toNat;
      Passes s p 1 ea (size sz) →
      Runs s p (.lds sz sext d base off) 1 fun t q => t.mem = s.mem ∧ Defers p q fun e =>
        e.kind = .load ∧ e.d = d ∧ e.size = size sz ∧ e.sext = sext ∧ e.uni = true ∧
        ∃ l, e.lanes = [l] ∧ l.lane = 0 ∧ l.addr = ea)

/-- R195, R191: when every lane of a load has bound its result arrives: the lanes' registers are written, extended as the size says,
a doubleword to a pair; LDS writes a uniform register, or a pair, and a write to s0 is discarded. -/
def Sys2Proof.Claims.LoadResultArrives : Prop :=
  ∀ (r : PackRef) (n : Nat) (s : State) (p : Pack) (d : Deferred),
    s.pack r = some p → p.c.deferred[n]? = some d → (d.kind = .load ∨ d.kind = .priv) → d.ready ≤ s.now →
    (∀ l ∈ d.lanes, l.lane < 32 ∧ ∃ v, l.res = .bound v ∧ v < 2 ^ (8 * d.size)) → d.cls = [] →
    d.size ∈ [1, 2, 4, 8] → (d.lanes.map fun l => l.lane).Nodup →
    ∃ t q, exec (.loadResult r n) s = .next t ∧ t.pack r = some q ∧ q.c.deferred = p.c.deferred.eraseIdx n ∧
      q.c.reports = p.c.reports ∧ t.mem = s.mem ∧
      (d.uni = false → ∀ l ∈ d.lanes, ∀ v, l.res = .bound v →
        if d.size = 8 then (q.v2 d.d l.lane).toNat = v else (q.v d.d l.lane).toNat = ext d.size d.sext v) ∧
      (d.uni = true → ∀ l, d.lanes = [l] → ∀ v, l.res = .bound v → d.d ≠ 0 →
        if d.size = 8 then (q.s2 d.d).toNat = v else (q.s d.d).toNat = ext d.size d.sext v)

/-- R200 to R202: ST whose storing lanes all pass enters each in the wake buffer with its address and the low bytes of its register;
it is held where release fences still hold the pack's stores, or where an earlier store of the pack to its line is held (the model's
reading of R169, log 15); the memories are as before. -/
def Sys2Proof.Claims.StoreIssue : Prop :=
  ∀ (sz : Sz) (d base : Nat) (off : Int) (k : Nat) (s : State) (p : Pack),
    p.c.replay = [] → Room s p.lanes.length →
    (∀ L ∈ storing p k, Passes s p 2 (gea p base off (size sz) L) (size sz)) →
    Runs s p (.st sz d base off k) 1 fun t q => t.mem = s.mem ∧ q.r = p.r ∧ q.m = p.m ∧
      (∀ L ∈ storing p k, ∃ e ∈ (t.core s.cur.core).wake, e.2.va = gea p base off (size sz) L ∧ e.2.size = size sz ∧
        e.2.data = (if sz = .d then (p.v2 d L).toNat else (p.v d L).toNat) % 2 ^ (8 * size sz) ∧ e.2.red = none ∧
        e.2.bearing = p.bearing s.cur p.c.pc L ∧
        let before := fun x : Nat × Wake => x.2.st = .held ∧ x.2.va / 64 = e.2.va / 64 ∧ bearingSerial x.2.bearing = bearingSerial e.2.bearing
        (s.liveHolds p ≠ [] → e.2.st = .held) ∧
        ((∃ x ∈ (s.core s.cur.core).wake, before x ∧ x.2.uid < s.uid) → e.2.st = .held) ∧
        (s.liveHolds p = [] → (∀ x ∈ (s.core s.cur.core).wake, ¬before x) → e.2.st = .pending)) ∧
      ∀ e ∈ (s.core s.cur.core).wake, e ∈ (t.core s.cur.core).wake

/-- R193, R194, R206, R309: the lanes whose access is misaligned, or whose bytes no region grants, trap at issue with cause 4 or 8 and
their addresses, for LD, LDS (pack-wide), ST, ATOM, FATOM and RED; those of a frame access out of bounds with cause 5, of a private one
with cause 6, for LDF, STF, LDP, STP and ATOMF (of .add.f32 FrameAtomicResults says when); LDC pack-wide with cause 4, or 7 past its constants. No register of a failing lane
changes. -/
def Sys2Proof.Claims.AccessChecksTrap : Prop :=
  ∀ (sz : Sz) (sext : Bool) (d base : Nat) (off : Int) (k : Nat) (op : AtomOp) (fop : AtomfOp) (ty : IntTy) (sc : Scope) (ord : AtomOrder)
    (b : BOp) (s : State) (p : Pack),
    p.c.replay = [] → p.id.colour = none →
    let n := size sz
    let w := if ty.wide then 8 else 4
    let traps := fun (i : Instr) (ls : List RepLane) => Ready s i p → ls ≠ [] → Traps s i p ls fun t q => t.mem = s.mem ∧ q.r = p.r
    let part := fun (i : Instr) (ls : List RepLane) => Ready s i p → ls ≠ [] →
      Traps s i p ls fun t q => t.mem = s.mem ∧ ∀ x ∈ ls, q.v d x.lane = p.v d x.lane
    let frame := s.frameWords p.id.slot
    let priv := s.privWords p.id.slot
    let every := fun cause addr => p.lanes.map fun L => ({ lane := L, cause, detail := 0, addr } : RepLane)
    (Room s p.lanes.length → Defer16 p → traps (.ld sz sext d base off) (globalFails s p 1 n p.lanes (gea p base off n))) ∧
    (let ea := (((p.s2 base).toNat + off * n) % 2 ^ 64).toNat;
      (ea % n ≠ 0 → traps (.lds sz sext d base off) (every 4 ea)) ∧
      (ea % n = 0 → s.permits p 1 ea n = false → traps (.lds sz sext d base off) (every 8 ea))) ∧
    (Room s p.lanes.length → traps (.st sz d base off k) (globalFails s p 2 n (storing p k) (gea p base off n))) ∧
    (Room s p.lanes.length → Defer16 p → s.liveHolds p = [] → (ord = .rel ∨ ord = .ar → s.covered s.cur p = []) →
      let ea := fun L => (p.v2 base L).toNat
      traps (.atom op ty sc ord d base b) (globalFails s p 3 w p.lanes ea) ∧ traps (.fatom op sc ord d base b) (globalFails s p 3 4 p.lanes ea)) ∧
    (Room s p.lanes.length → traps (.red op ty sc ord base b) (globalFails s p 2 w p.lanes fun L => (p.v2 base L).toNat)) ∧
    (p.m.frameBad = [] → part (.ldf sz sext d base off) (viewFails 5 frame n p.lanes (vea p base off n))) ∧
    traps (.stf sz d base off k) (viewFails 5 frame n (storing p k) (vea p base off n)) ∧
    (Defer16 p → traps (.ldp sz sext d base off) (viewFails 6 priv n p.lanes (vea p base off n))) ∧
    traps (.stp sz d base off k) (viewFails 6 priv n (storing p k) (vea p base off n)) ∧
    (p.m.frameBad = [] → fop ≠ .addF32 →
      part (.atomf fop d base b) (viewFails 5 frame 4 p.lanes fun L => (p.v base L).toNat)) ∧
    (let ea : Int := (p.s base).toNat + off * n
      let addr := (BitVec.ofInt 64 ea).toNat
      (ea % n ≠ 0 → traps (.ldc sz sext d base off) (every 4 addr)) ∧
      (ea % n = 0 → ea < 0 ∨ s.constBytes p.id.slot < ea + n → traps (.ldc sz sext d base off) (every 7 addr)))

/-- R202, R204: LDF and STF, LDP and STP, and LDC, on lanes that pass: what they load, and every byte of the view after a store; LDF
and LDC act at issue, LDP defers. -/
def Sys2Proof.Claims.ViewAndConstantAccesses : Prop :=
  ∀ (sz : Sz) (sext : Bool) (d base : Nat) (off : Int) (k : Nat) (s : State) (p : Pack), p.c.replay = [] →
    let n := size sz
    let loads := fun (m : Sparse 32) L => let a := (vea p base off n L).toNat
      ext n sext (viewAt p m a / 2 ^ (8 * (a % 4)) % 2 ^ (8 * n))
    (sz ≠ .d → (∀ L ∈ p.lanes, InView (s.frameWords p.id.slot) (vea p base off n L) n) → p.m.frameBad = [] →
      RunsLanes s p (.ldf sz sext d base off) 1 fun q L => (q.v d L).toNat = loads p.m.frame L) ∧
    (sz ≠ .d → (∀ L ∈ storing p k, InView (s.frameWords p.id.slot) (vea p base off n L) n) →
      Runs s p (.stf sz d base off k) 1 fun t q => t.mem = s.mem ∧ q.r = p.r ∧ q.m.priv = p.m.priv ∧
        ViewStored p d base off n k p.m.frame q.m.frame) ∧
    (sz ≠ .d → (∀ L ∈ storing p k, InView (s.privWords p.id.slot) (vea p base off n L) n) →
      Runs s p (.stp sz d base off k) 1 fun t q => t.mem = s.mem ∧ q.r = p.r ∧ q.m.frame = p.m.frame ∧
        ViewStored p d base off n k p.m.priv q.m.priv) ∧
    (sz ≠ .d → p.lanes ≠ [] → Defer16 p → p.m.privBad = [] →
      (∀ L ∈ p.lanes, InView (s.privWords p.id.slot) (vea p base off n L) n) →
      Runs s p (.ldp sz sext d base off) 1 fun t q => t.mem = s.mem ∧ Defers p q fun e =>
        e.kind = .priv ∧ e.d = d ∧ e.size = n ∧ e.sext = sext ∧ e.uni = false ∧
        ∀ L ∈ p.lanes, ∃ l ∈ e.lanes, l.lane = L ∧ ∃ v, l.res = .bound v ∧ ext n sext v = loads p.m.priv L) ∧
    (let ea : Int := (p.s base).toNat + off * n;
      ea % n = 0 → 0 ≤ ea → ea + n ≤ s.constBytes p.id.slot → s.constPoison s.cur.core (s.runImage p.id.slot) ea.toNat n = false →
      RunsLanes s p (.ldc sz sext d base off) 1 fun q L =>
        let v := leNat (s.constRead s.cur.core (s.runImage p.id.slot) ea.toNat n)
        if sz = .d then (q.v2 d L).toNat = v else (q.v d L).toNat = ext n sext v)

/-- R94, R99, R104, R183, R193, R206: a frame atomic acts lane by lane in ascending position on the lanes that pass its checks, and gives
each the word it found; no other lane's register changes. Where no lane raised a class, it goes on at issue, or traps there with its failing
lanes; where one did, it stands until its last ck, to commit the classes and to trap there with the failing lanes and those of an enabled
class. -/
def Sys2Proof.Claims.FrameAtomicResults : Prop :=
  ∀ (op : AtomfOp) (d a : Nat) (b : BOp) (s : State) (p : Pack),
    p.c.replay = [] → p.m.frameBad = [] → p.id.colour = none →
    let good := p.lanes.filter fun L => (p.v a L).toNat % 4 = 0 ∧ (p.v a L).toNat / 128 < s.frameWords p.id.slot
    let fails := viewFails 5 (s.frameWords p.id.slot) 4 p.lanes fun L => (p.v a L).toNat
    let run := good.foldl (atomfLane op p d a b) (p.m.frame, [])
    let cls := run.2.foldl (fun m e => m ||| e.2.2) 0
    let arith := (run.2.filter fun e => e.2.2 &&& (p.r.trapen.toNat &&& 0x67) != 0).map fun e =>
      ({ lane := e.1, cause := 3, detail := e.2.2 &&& (p.r.trapen.toNat &&& 0x67), addr := (p.v a e.1).toNat } : RepLane)
    Ready s (.atomf op d a b) p → ∃ t q, exec (.atomf op d a b) s = .next t ∧ t.pack s.cur = some q ∧ t.mem = s.mem ∧
      q.m.frame = run.1 ∧ q.m.priv = p.m.priv ∧ (∀ e ∈ run.2, q.v d e.1 = e.2.1) ∧ (∀ L < 32, L ∉ good → q.v d L = p.v d L) ∧
      (cls = 0 → t.ctxs = s.ctxs ∧ if fails = [] then Past p q 1 else q.c.st = .drain) ∧
      (cls ≠ 0 → ∃ ls, Stays s t p q 1 2 cls ls ∧ ∀ l, l ∈ ls ↔ l ∈ fails ∨ l ∈ arith)

/-- R180, R207, R213: FENCE.rel goes on and holds the pack's later stores behind what it covers; an acquiring fence with nothing to wait
for goes on, and at .die or wider the core's L1 lines are dropped; PFX goes on and changes no register or view. -/
def Sys2Proof.Claims.FencesAndPrefetch : Prop :=
  ∀ (sc : Scope) (hint : PfxHint) (sz : Sz) (base : Nat) (off : Int) (k : Nat) (s : State) (p : Pack),
    Runs s p (.fence .rel sc) 1 (fun t q => t.mem = s.mem ∧ q.r = p.r ∧ q.m = p.m ∧
      ∃ c ∈ q.c.holds, c.sc = sc ∧ c.uids = s.covered s.cur p) ∧
    (∀ kind ∈ [FenceKind.acq, .ar, .sc], p.unboundUids = [] → s.covered s.cur p = [] →
      Runs s p (.fence kind sc) 1 fun t q => t.mem = s.mem ∧ q.r = p.r ∧ q.m = p.m ∧ q.c.wait = none ∧
        (sc ≠ .core → (t.core s.cur.core).l1 = [])) ∧
    Runs s p (.pfx hint sz base off k) 1 (fun t q => q.r = p.r ∧ q.m = p.m ∧ t.ctxs = s.ctxs)

/-- R181, R182, R205: ATOM and FATOM whose lanes pass send each lane to its home slice as a deferred result, and park where they
acquire; RED enters each lane in the wake buffer and goes on. -/
def Sys2Proof.Claims.GlobalAtomicIssue : Prop :=
  ∀ (op : AtomOp) (t : IntTy) (sc : Scope) (ord : AtomOrder) (d a : Nat) (b : BOp) (s : State) (p : Pack),
    p.c.replay = [] → p.lanes ≠ [] → Room s p.lanes.length → s.liveHolds p = [] →
    let acq := ord == .acq || ord == .ar
    let defers := fun (i : Instr) (n : Nat) => Defer16 p → Ready s i p → (ord = .rel ∨ ord = .ar → s.covered s.cur p = []) →
      (∀ L ∈ p.lanes, Passes s p 3 (p.v2 a L).toNat n) →
      ∃ u q, exec i s = .next u ∧ u.pack s.cur = some q ∧ u.mem = s.mem ∧
        (if acq then q.c.wait.isSome = true ∧ q.c.pc = p.c.pc else Past p q 2) ∧
        Defers p q fun e => e.kind = .atom ∧ e.d = d ∧ e.size = n ∧
          e.lanes.map (fun l => (l.lane, l.addr)) = p.lanes.map fun L => (L, (p.v2 a L).toNat)
    defers (.atom op t sc ord d a b) (if t.wide then 8 else 4) ∧
    defers (.fatom op sc ord d a b) 4 ∧
    ((∀ L ∈ p.lanes, Passes s p 2 (p.v2 a L).toNat (if t.wide then 8 else 4)) →
      Runs s p (.red op t sc ord a b) 2 fun u q => u.mem = s.mem ∧ q.r = p.r ∧
        ∀ L ∈ p.lanes, ∃ e ∈ (u.core s.cur.core).wake, e.2.va = (p.v2 a L).toNat ∧ e.2.red = some (op, t) ∧
          e.2.data = p.opB t.wide b L ∧ e.2.bearing = p.bearing s.cur p.c.pc L)
/-! ### What becomes of loads, stores and atomics -/

namespace Sys2Proof.Claims

/-- A deferred result whose lanes that wait for a slot have been given results. -/
def answered (n : Nat) (f : Deferred → DefLane → LaneRes) (d : Deferred) : Deferred :=
  { d with lanes := d.lanes.map fun l => if l.res = .wait n then { l with res := f d l } else l }

/-- Every pack of a core keeps its registers and views, and its deferred results are answered for a slot, which is freed. -/
def Answers (s t : State) (core n : Nat) (f : Pack → Deferred → DefLane → LaneRes) : Prop :=
  (t.core core).slots = (s.core core).slots.del n ∧
  (t.core core).packs = (s.core core).packs.map fun e =>
    (e.1, { e.2 with c := { e.2.c with deferred := e.2.c.deferred.map (answered n (f e.2)) } })

/-- A lane that waits for a slot comes before a store that it has performed since, to one of its bytes, and that the home slice has not seen
(R169). -/
def Precedes (c : Core) (sl : Slot) (w : Waiter) : Prop :=
  ∃ i < w.size, (c.ownLater sl.asid w.serial w.lane w.uid (w.addr + i) sl.colour).isSome = true

end Sys2Proof.Claims

/-- R169, R174, R195, R197, R200, R204: a fill answers every lane that waits for its slot, once none of them waits for an earlier access:
with the bytes of the L1 copy of the line where there is one and no lane comes before a store of its own that the copy may hold, else of the
home slice, the core's own earlier stores laid over them; with cause 10 where the line is poisoned, unless those stores give all the bytes of
the lane (the model's reading, log 36). A line that comes from the home slice is placed in the L1, unless the slot was closed or only
prefetches into the home slice wait for it. -/
def Sys2Proof.Claims.LineFillBindsItsLanes : Prop :=
  ∀ (core n : Nat) (s u : State) (sl : Slot) (bs : List Byte) (poison : Bool),
    let c := s.core core
    c.slots.find n = some sl → sl.kind = .load → sl.parked = false → (∀ w ∈ c.waiters n, c.fillWaits sl.asid n w = false) →
    let answer := fun (bad : Bool) (line : List Byte) (p : Pack) (d : Deferred) (l : DefLane) =>
      if bad && !c.allForwarded sl.asid core p.id.serial l.lane d.uid l.addr d.size sl.colour then LaneRes.fail 10 0
      else .bound (leNat (c.withForward sl.asid core p.id.serial l.lane d.uid l.addr sl.colour ((line.drop (l.addr % 64)).take d.size)))
    (c.l1line sl.asid sl.line sl.colour = none ∨ (∃ w ∈ c.waiters n, Precedes c sl w) →
      s.homeRead sl.asid (sl.line * 64) 64 sl.colour .read = (u, .data bs poison) → u.core core = c →
      ∃ t, exec (.lineFill core n) s = .next t ∧ t.mem = u.mem ∧ Answers s t core n (answer poison bs) ∧
        (sl.closed = false → sl.l2 = false → (t.core core).l1.any (fun x => x.asid == sl.asid && x.line == sl.line && x.colour == sl.colour) = true)) ∧
    (∀ x : L1Line, c.l1line sl.asid sl.line sl.colour = some x → c.waiters n ≠ [] →
      (∀ w ∈ c.waiters n, w.addr % 64 + w.size ≤ 64 ∧ ¬Precedes c sl w) →
      ∃ t, exec (.lineFill core n) s = .next t ∧ t.mem = s.mem ∧ Answers s t core n (answer x.poison (Sparse.getRun x.data 0 64)))

/-- R188, R197, R200, R172, R180: a store slot of 64 ck closes and sends its write; a line write reaches its home slice and changes
only the bytes of its mask, in that line; a clean receipt frees the entries it covers, a faulting one makes them records and holds the
line; a hold ends when its conditions are met, no earlier store of the pack to the line is held, and no slot holds a later store to its
bytes. -/
def Sys2Proof.Claims.StorePath : Prop :=
  (∀ (core n : Nat) (s : State) (sl : Slot), (s.core core).slots.find n = some sl → sl.kind = .store → sl.opened + 64 ≤ s.now →
    ∃ t f, exec (.storeSlotClose core n) s = .next t ∧ t.mem = s.mem ∧ (t.core core).slots = (s.core core).slots.del n ∧
      (t.core core).flights = (s.core core).flights ++ [f] ∧ f.st = .sent ∧ f.asid = sl.asid ∧ f.line = sl.line ∧
      f.data = sl.data ∧ f.mask = sl.mask ∧ f.entries = sl.entries) ∧
  (∀ (core n : Nat) (s : State) (f : Flight) (l : L2Line), (s.core core).flights[n]? = some f → f.st = .sent → f.colour = none →
    (∀ g ∈ (s.core core).flights.take n, ¬(g.st = .sent ∧ g.asid = f.asid ∧ g.line = f.line)) →
    (∀ i ∈ f.entries, ∀ w, (s.core core).wake.find i = some w →
      (s.core core).loadBefore (bearingSerial w.bearing) (bearingLane w.bearing) w.uid w.va = false ∧
      (s.core core).atomBefore (bearingSerial w.bearing) (bearingLane w.bearing) w.uid w.va = false) →
    s.l2 f.asid f.line none = some l →
    ∃ t m, exec (.lineWriteArrival core n) s = .next t ∧ t.l2 f.asid f.line none = some m ∧
      (∀ i < 64, Sparse.get i m.data = if f.mask.testBit i then Sparse.get i f.data else Sparse.get i l.data) ∧
      m.probes = l.probes + 1 ∧ m.valid = l.valid ||| f.mask ∧ m.dirty = l.dirty ||| f.mask ∧
      m.poison = (if f.mask = fullMask then false else l.poison) ∧ (l.ops = [] → m.ops = []) ∧
      (∀ asid line colour, (asid, line, colour) ≠ (f.asid, f.line, none) → t.l2 asid line colour = s.l2 asid line colour) ∧
      t.mem.hbm = s.mem.hbm ∧ t.mem.host0 = s.mem.host0 ∧ t.mem.host1 = s.mem.host1 ∧
      (t.core core).flights = (s.core core).flights.set n { f with st := .arrived, seq := s.uid }) ∧
  (∀ (core n : Nat) (s : State) (f : Flight), (s.core core).flights[n]? = some f → f.st = .clean →
    ∃ t, exec (.storeReceipt core n) s = .next t ∧ (t.core core).flights = (s.core core).flights.eraseIdx n ∧
      ∀ e, e ∈ (t.core core).wake ↔ e ∈ (s.core core).wake ∧ e.1 ∉ f.entries) ∧
  (∀ (core n i k : Nat) (s : State) (f : Flight) (w : Wake) (x : Ctx), (s.core core).flights[n]? = some f → f.st = .arrived →
    f.entries = [i] → (s.core core).wake.find i = some w → w.red = none → (s.core core).raised = [] → (s.core core).outbound.length < 512 →
    s.ctx w.ctx = some x → x.st = .running → s.translate f.asid (f.line * 64) .write f.colour = .fault k →
    ∃ t v o, exec (.storeReceipt core n) s = .next t ∧ (t.core core).wake.find i = some v ∧ v.st = .faulted ∧ v.kind = k ∧
      v.va = w.va ∧ v.data = w.data ∧ (t.core core).outbound = (s.core core).outbound ++ [o] ∧ o.tok.handler = true ∧
      (∃ l, t.l2 f.asid f.line (s.lineColour f.asid (f.line * 64) f.colour) = some l ∧ l.held = true)) ∧
  (∀ (core n : Nat) (s : State) (w : Wake), (s.core core).wake.find n = some w → w.st = .held → w.red = none →
    w.conds.all s.met = true → (s.core core).heldBefore w = false → (s.core core).slots.length + 33 ≤ 256 →
    (s.core core).laterStore w (s.lineColour w.asid w.va w.colour) = false →
    ∃ t v, exec (.storeHoldRelease core n) s = .next t ∧ t.mem = s.mem ∧ (t.core core).wake.find n = some v ∧ v.st = .pending ∧
      v.va = w.va ∧ v.data = w.data)

/-- R174, R182, R188, R195, R197, R205, R323, R332: an atomic reads, combines and writes at its home slice in one step: its lane is bound to the
old value, and a read of the same bytes then gives the new one; poisoned bytes fail the lane with cause 10 and are left; a translation fault
fails it with cause 9, or on a poisoned line of a FAILED recipe tile with cause 10. A RED whose page is refused acts all the same, as a
store does, and its collector slot stays until its receipt: on the bytes of its line, or, where they are absent, on those that are read
later (that it waits for them in its line is the model's reading, log 18). -/
def Sys2Proof.Claims.AtomicAtHome : Prop :=
  ∀ (core n : Nat) (s u : State) (sl : Slot) (a : AtomReq) (pa old : Nat) (leaf : Option (Nat × Bool)),
    (s.core core).slots.find n = some sl → sl.kind = .atom a → sl.parked = false → sl.colour = none →
    (s.core core).storeBefore sl.asid a.serial a.lane a.uid a.perf a.addr a.size = false →
    (s.core core).loadBefore a.serial a.lane a.uid a.addr = false → (s.core core).atomEarlier a = false →
    sl.line = a.addr / 64 → a.addr % a.size = 0 → (a.size = 4 ∨ a.size = 8 ∧ a.ty ≠ none) →
    (a.wake = none → s.translate sl.asid a.addr .atomic none = .ok pa leaf → s.homeRead sl.asid a.addr a.size none .atomic = (u, .data (leBytes a.size old) false) →
      old < 2 ^ (8 * a.size) → u.core core = s.core core → u.ctxs = s.ctxs → u.retr = s.retr →
      (∃ l, u.l2 sl.asid sl.line none = some l ∧ l.poison = false) →
      ∃ t v, exec (.homeSliceAtomic core n) s = .next t ∧
        t.homeRead sl.asid a.addr a.size none .read = (t, .data (leBytes a.size v) false) ∧
        (∀ ty, a.ty = some ty → a.size = (if ty.wide then 8 else 4) → a.arg < 2 ^ (8 * a.size) → v = match a.op with
          | .add => (old + a.arg) % 2 ^ (8 * a.size) | .swap => a.arg | .cas => if old = a.cmp then a.arg else old
          | .and => old &&& a.arg | .or => old ||| a.arg | .xor => old ^^^ a.arg
          | .min => if ival ty a.arg < ival ty old then a.arg else old
          | .max => if ival ty old < ival ty a.arg then a.arg else old) ∧
        (a.ty = none → old < 2 ^ 32 → a.arg < 2 ^ 32 →
          (a.op = .add → v = (({ fmt := f32, rm := .rne, ftz := false } : FCfg).add (f32.val false old) (f32.val false a.arg)).bits) ∧
          (a.op = .min → v = least32 a.ftz false old a.arg) ∧ (a.op = .max → v = least32 a.ftz true old a.arg)) ∧
        (a.ty ≠ none → Answers s t core n fun _ _ _ => .bound old)) ∧
    (∀ bs, a.wake = none → s.translate sl.asid a.addr .atomic none = .ok pa leaf → s.homeRead sl.asid a.addr a.size none .atomic = (u, .data bs true) →
      u.core core = s.core core → ∃ t, exec (.homeSliceAtomic core n) s = .next t ∧ t.mem = u.mem ∧ Answers s t core n fun _ _ _ => .fail 10 0) ∧
    (∀ k, a.wake = none → s.translate sl.asid a.addr .atomic none = .fault k →
      ∃ t, exec (.homeSliceAtomic core n) s = .next t ∧ t.mem = s.mem ∧
        (s.failedTile sl.asid sl.line = false → Answers s t core n fun _ _ _ => .fail 9 k) ∧
        ∀ bs, s.failedTile sl.asid sl.line = true → (s.homeRead sl.asid a.addr a.size none .read).2 = .data bs true →
          Answers s t core n fun _ _ _ => .fail 10 0) ∧
    (∀ w ty k, a.wake = some w → a.ty = some ty → a.size = (if ty.wide then 8 else 4) → a.arg < 2 ^ (8 * a.size) → a.op ≠ .cas →
      s.translate sl.asid a.addr .atomic none = .fault k →
      ∃ t l f, exec (.homeSliceAtomic core n) s = .next t ∧ t.l2 sl.asid sl.line none = some l ∧
        (t.core core).slots.find n = some { sl with kind := .done } ∧ (t.core core).flights = (s.core core).flights ++ [f] ∧
        f.st = .arrived ∧ f.slot = some n ∧ f.entries = [w] ∧
        (∀ l0, s.l2 sl.asid sl.line none = some l0 → l0.valid &&& byteMask (a.addr % 64) a.size = byteMask (a.addr % 64) a.size →
          old = leNat (Sparse.getRun l0.data (a.addr % 64) a.size) →
          leNat (Sparse.getRun l.data (a.addr % 64) a.size) = atomInt a.op ty old a.arg 0) ∧
        (s.l2 sl.asid sl.line none = none → ∀ mem : Sparse 8, old = leNat (Sparse.getRun mem (a.addr % 64) a.size) →
          leNat (Sparse.getRun (l.over mem) (a.addr % 64) a.size) = atomInt a.op ty old a.arg 0))

/-- R174: an L1 gives up its copies of a line and nothing else changes; a clean line that is not held leaves its home slice, and the
memories are as before; a private line that is given up changes no value. -/
def Sys2Proof.Claims.EvictionsKeepTheMemories : Prop :=
  (∀ (core asid line : Nat) (s : State), ∃ t, exec (.cacheEviction (.l1 core asid line)) s = .next t ∧ t.mem = s.mem ∧
    (∀ l, l ∈ (t.core core).l1 ↔ l ∈ (s.core core).l1 ∧ ¬(l.asid = asid ∧ l.line = line)) ∧ (t.core core).packs = (s.core core).packs) ∧
  (∀ (asid line : Nat) (s : State) (l : L2Line),
    s.mem.l2.find? (fun x => x.asid == asid && x.line == line && !x.held && x.probes == 0) = some l → l.unsaved = false →
    s.l2 asid line l.colour = some l →
    ∃ t, exec (.cacheEviction (.l2 asid line)) s = .next t ∧ t.l2 asid line l.colour = none ∧ t.mem.hbm = s.mem.hbm ∧
      t.mem.host0 = s.mem.host0 ∧ t.mem.host1 = s.mem.host1 ∧ t.cores = s.cores) ∧
  (∀ (p : PackRef) (line : Nat) (s : State), exec (.cacheEviction (.priv p line)) s = .next s)
/-! ### What the matrix engine computes -/

namespace Sys2Proof.Claims

/-- Byte k of the 16,384 of the tile that a tile register of a pack names (R25). -/
def tbyte (s : State) (r : PackRef) (p : Pack) (m k : Nat) : Nat :=
  if k < 16384 then (Sparse.get k ((s.core r.core).tile r.pipe (p.m.tiles.getD m 16)).data).toNat else 0
/-- The poison mark of that tile. -/
def tpoison (s : State) (r : PackRef) (p : Pack) (m : Nat) : Bool := ((s.core r.core).tile r.pipe (p.m.tiles.getD m 16)).poison
/-- n little-endian bytes of a tile from an offset. -/
def lend (f : Nat → Nat) (off n : Nat) : Nat := (List.range n).foldl (fun a i => a + f (off + i) * 256 ^ i) 0
/-- Element k of a layout of a type (R142, R145): a nibble for .q4, the even one low. -/
def elt (f : Nat → Nat) (t : ElemTy) (k : Nat) : Nat := if t = .q4 then f (k / 2) / 16 ^ (k % 2) % 16 else lend f (k * t.bytes) t.bytes
/-- Its value, for a floating-point type; subnormals are kept (R80). -/
def flt (f : Nat → Nat) (t : ElemTy) (k : Nat) : FVal := (formatOf t).val false (elt f t k)
/-- A finite value as a number. -/
noncomputable def rat : FVal → ℚ | .fin n m e => num n m e | _ => 0
/-- The K of an operand type (R142). -/
def kSize (t : ElemTy) : Nat := if t.bytes = 2 then 128 else 256

/-- The FP32 pattern that a term rounds to (R89). -/
def termBits : FVal → Nat
  | .nan _ => 0x7FC00000
  | .inf n => if n then 0xFF800000 else 0x7F800000
  | .fin n m e => (f32.round .rne false n m e false).bits
/-- The FP32 sum of two patterns under RNE (R79, R89). -/
def addRne (x y : Nat) : Nat := (({ fmt := f32, rm := .rne, ftz := false } : FCfg).add (f32.val false x) (f32.val false y)).bits
/-- Terms added to an accumulator in ascending order, each rounded before it is added (R89, R91). -/
def termChain (T : Nat → FVal) (n acc : Nat) : Nat := (List.range n).foldl (fun q g => addRne q (termBits (T g))) acc

/-- The exact sum of a chunk's products (R89, R92): a NaN for a NaN product, infinity times zero, or opposite infinities; an infinity of one
sign; else the exact sum, of which a zero is -0 where every product is -0. -/
def ChunkTerm (xs : List (FVal × FVal)) (v : FVal) : Prop :=
  let bad := xs.any fun e => e.1.isNan || e.2.isNan || (e.1.isInf && e.2.isZero) || (e.1.isZero && e.2.isInf)
  let inf := fun n : Bool => xs.any fun e => (e.1.isInf || e.2.isInf) && ((e.1.neg != e.2.neg) == n)
  (bad = true ∨ (inf true = true ∧ inf false = true) → v.isNan = true) ∧
  (bad = false → ∀ n, inf n = true → inf (!n) = false → v = .inf n) ∧
  (bad = false → inf true = false → inf false = false → ∃ n m e, v = .fin n m e ∧
    num n m e = (xs.map fun x => rat x.1 * rat x.2).sum ∧
    (m = 0 → (n = true ↔ xs ≠ [] ∧ ∀ x ∈ xs, rat x.1 * rat x.2 = 0 ∧ x.1.neg ≠ x.2.neg)))

/-- An integer cut to the range of .i32 (R89). -/
def cut32 (x : Int) : Int := if x < -(2 ^ 31) then -(2 ^ 31) else if 2 ^ 31 - 1 < x then 2 ^ 31 - 1 else x

/-- A row of a product (R89): the elements of A's row against B's columns, in chunks of 32 along K, on the accumulator. -/
def ProductRow (ta tb : ElemTy) (row : Nat → Nat) (b old new : Nat → Nat) (i : Nat) : Prop :=
  ∀ j < 64, let acc := lend old ((i * 64 + j) * 4) 4
    let res := lend new ((i * 64 + j) * 4) 4
    let chunks := kSize ta / 32
    if ta.isInt then
      res = (BitVec.ofInt 32 ((List.range chunks).foldl (fun q ch =>
        cut32 (q + ((List.range 32).map fun x => sourceInt ta (row (ch * 32 + x)) * sourceInt tb (elt b tb ((ch * 32 + x) * 64 + j))).sum))
        (BitVec.ofNat 32 acc).toInt)).toNat
    else ∃ T : Nat → FVal,
      (∀ ch < chunks, ChunkTerm ((List.range 32).map fun x =>
        ((formatOf ta).val false (row (ch * 32 + x)), flt b tb ((ch * 32 + x) * 64 + j))) (T ch)) ∧ res = termChain T chunks acc

/-- MMAS (R90, R158): a row in form is the product of the dense row that its metadata gives; any other is the canonical NaN, of FP32 also
where the accumulator is .i32 (the model's choice, log 67). -/
def SparseRow (p48 : Bool) (ta tb : ElemTy) (a b mm old new : Nat → Nat) (i : Nat) : Prop :=
  let n := if p48 then 4 else 2
  let h := kSize ta / 2
  let nib := fun x => mm ((i * h + x) / 2) / 16 ^ ((i * h + x) % 2) % 16
  let pos := fun x => x / n * (2 * n) + nib x
  let formed := ∀ x < h, nib x < 2 * n ∧ (x % n + 1 < n → nib x < nib (x + 1))
  (formed → ∀ row : Nat → Nat, (∀ x < h, row (pos x) = elt a ta (i * h + x)) → (∀ y, (∀ x < h, pos x ≠ y) → row y = 0) →
    ProductRow ta tb row b old new i) ∧
  (¬formed → ∀ j < 64, lend new ((i * 64 + j) * 4) 4 = 0x7FC00000)

/-- A group term of MMAQ (R91, R92): the scale times the exact sum less the zero point times the sum of the activations. -/
def GroupTerm (sc : FVal) (z : Nat) (xs : List (FVal × Nat)) (v : FVal) : Prop :=
  let diff := (xs.map fun x => rat x.1 * x.2).sum - z * (xs.map fun x => rat x.1).sum
  let finite := xs.all fun x => !x.1.isNan && !x.1.isInf
  (sc.isNan = true ∨ xs.any (fun x => x.1.isNan) = true ∨ (finite = true ∧ sc.isInf = true ∧ diff = 0) → v.isNan = true) ∧
  (finite = true → sc.isNan = false → sc.isInf = false → ∃ n m e, v = .fin n m e ∧ num n m e = rat sc * diff ∧
    (m = 0 → n = if diff < 0 then !sc.neg else sc.neg))

/-- MMAQ (R91, R159). -/
def QuantProduct (ta tw : ElemTy) (d : Desc) (a b old new : Nat → Nat) : Prop :=
  let gs := groupSize d.grp
  let k := kSize ta
  let act := fun x : Nat => if ta.isInt then
      (let y := sourceInt ta (elt a ta x); .fin (decide (y < 0)) y.natAbs 0) else flt a ta x
  ∀ i < 64, ∀ j < 64, ∃ T : Nat → FVal,
    (∀ g < k / gs, GroupTerm (f16.val false (lend b (d.soff + (g * d.cols + j) * 2) 2)) (b (d.zoff + g * d.cols + j) % if d.elem = .q4 then 16 else 256)
      ((List.range gs).map fun x => (act (i * k + g * gs + x), elt b tw ((g * gs + x) * 64 + j))) (T g)) ∧
    lend new ((i * 64 + j) * 4) 4 = termChain T (k / gs) (lend old ((i * 64 + j) * 4) 4)

/-- The source of QUANT after its rotation (R84, R160): as it stands, or each run of n along the K axis transformed, exactly and rounded
once where the run is finite. -/
def Rotates (d : Desc) (n : Nat) (x y : Nat → Nat) : Prop :=
  (n = 0 → ∀ k < d.rows * d.cols, y k = x k) ∧
  (n ≠ 0 → ∀ l < (if d.elem.isGrouped then d.cols else d.rows), ∀ r < d.kAxis / n, ∀ i < n,
    let at_ := fun k => if d.elem.isGrouped then (r * n + k) * d.cols + l else l * d.cols + r * n + k
    let v := fun k => f32.val false (x (at_ k))
    ((List.range n).all (fun k => !(v k).isNan && !(v k).isInf) = true → ∃ s m e,
      num s m e = (2 : ℚ) ^ (if n = 32 then -2 else -3 : Int) * ((List.range n).map fun k =>
        (if (List.range 7).countP (fun j => (i &&& k).testBit j) % 2 = 1 then -1 else 1) * rat (v k)).sum ∧
      y (at_ i) = (f32.round .rne false s m e false).bits) ∧
    ((List.range n).any (fun k => (v k).isNan) = true → y (at_ i) = 0x7FC00000))

/-- A group of QUANT (R160): its scale, zero point and codes, from the values of its elements. -/
def QuantGroup (b : Nat) (xs : List Nat) (scale zp : Nat) (codes : Nat → Nat) : Prop :=
  let vs := xs.map fun x => f32.val false x
  let lo := vs.foldl (fun a v => min a (rat v)) 0
  let hi := vs.foldl (fun a v => max a (rat v)) 0
  let x := (hi - lo) / (2 ^ b - 1)
  let cut := fun z : ℤ => (max 0 (min z (2 ^ b - 1))).toNat
  if vs.any (fun v => v.isNan || v.isInf) then scale = 0x7E00 ∧ zp = 0 ∧ ∀ i < xs.length, codes i = 0
  else if hi = lo then scale = 0 ∧ zp = 0 ∧ ∀ i < xs.length, codes i = 0
  else
    (x ≤ 65504 → ∃ r, Rounded f16 .rne x r ∧ scale = if r % 2 ^ 15 = 0 then 1 else r) ∧ (65520 ≤ x → scale = 0x7BFF) ∧
    (∃ z : ℤ, IntRounded .rne (-lo / rat (f16.val false scale)) z ∧ zp = cut z) ∧
    ∀ i < xs.length, ∃ z : ℤ, IntRounded .rne (rat (f32.val false (xs.getD i 0)) / rat (f16.val false scale)) z ∧ codes i = cut (z + zp)

/-- QUANT (R145, R160): codes of a plain type, or codes, scales and zero points of a grouped one; every other byte is 0. -/
def Quantised (t : ElemTy) (n : Nat) (d : Desc) (a new : Nat → Nat) : Prop :=
  ∃ y : Nat → Nat, Rotates d n (fun k => lend a (4 * k) 4) y ∧
    let gs := groupSize d.grp
    let g := d.rows / gs
    let codes := codeBytes t d.rows d.cols
    if t.isGrouped then
      (∀ i < g, ∀ j < d.cols, QuantGroup (if t = .q4 then 4 else 8) ((List.range gs).map fun x => y ((i * gs + x) * d.cols + j))
        (lend new (d.soff + (i * d.cols + j) * 2) 2) (new (d.zoff + i * d.cols + j)) fun x => elt new t ((i * gs + x) * d.cols + j)) ∧
      ∀ k < 16384, ¬k < codes → ¬(d.soff ≤ k ∧ k < d.soff + g * d.cols * 2) → ¬(d.zoff ≤ k ∧ k < d.zoff + g * d.cols) → new k = 0
    else (∀ k < d.rows * d.cols, new k = (convert t .f32 .rne false (y k)).1.toNat % 256) ∧ ∀ k, d.rows * d.cols ≤ k → new k = 0

/-- DEQ (R161): each element's exact value, rounded once into the destination; every other byte is 0. -/
def Dequantised (t : ElemTy) (d : Desc) (a new : Nat → Nat) : Prop :=
  let f := formatOf t
  let canonical := (2 ^ f.eb - 1) * 2 ^ f.fb + 2 ^ (f.fb - 1)
  (∀ k < d.rows * d.cols,
    let res := lend new (k * t.bytes) t.bytes
    let g := k / d.cols / groupSize d.grp
    let sc := f16.val false (lend a (d.soff + (g * d.cols + k % d.cols) * 2) 2)
    let q : Int := (elt a d.elem k : Int) - (a (d.zoff + g * d.cols + k % d.cols) % if d.elem = .q4 then 16 else 256 : Nat)
    let rounds := fun x : ℚ => ∃ n m e, num n m e = x ∧ res = (f.round .rne false n m e false).bits
    if d.elem.isGrouped then
      (sc.isNan = true ∨ (sc.isInf = true ∧ q = 0) → res = canonical) ∧ (sc.isNan = false → sc.isInf = false → rounds (rat sc * q))
    else if d.elem.isInt then rounds (sourceInt d.elem (elt a d.elem k))
    else let v := flt a d.elem k
      (v.isNan = true → res = canonical) ∧ (∀ n, v = .inf n → res = (if n then 2 ^ (f.eb + f.fb) else 0) + (2 ^ f.eb - 1) * 2 ^ f.fb) ∧
      (v.isNan = false → v.isInf = false → rounds (rat v))) ∧
  ∀ k, d.rows * d.cols * t.bytes ≤ k → new k = 0

/-- An activation of TACT (R162): COPY and RELU, and GELU where it is given; the values of FSIGM and FTANH, and of GELU elsewhere, are the
model's own series (log 10). -/
def Activates (act : Act) (x y : Nat) : Prop :=
  (nan32 x = true → y = 0x7FC00000) ∧
  (nan32 x = false → match act with
    | .copy => y = x
    | .relu => y = if x < 2 ^ 31 then x else 0
    | .gelu => (x = 0x7F800000 → y = x) ∧ (x = 0xFF800000 → y = 0x80000000)
    | .sigm => y = (sfuVal .sigm false (f32.val false x)).bits
    | .tanh => y = (sfuVal .tanh false (f32.val false x)).bits)

/-- TACT (R162): the bias, the activation and the conversion of each element; every other byte is 0. -/
def Epilogue (act : Act) (out : ElemTy) (bias : Option (Nat → Nat)) (a new : Nat → Nat) : Prop :=
  (∀ k < 4096, ∃ y, Activates act (match bias with | some m => addRne (lend a (4 * k) 4) (lend m (k % 64 * 4) 4) | none => lend a (4 * k) 4) y ∧
    lend new (k * out.bytes) out.bytes = if out = .f32 then y else (convert out .f32 .rne false y).1.toNat) ∧
  ∀ k, 4096 * out.bytes ≤ k → new k = 0

/-- One line of TRED (R163). -/
def lineOf (op : TredOp) (x : Nat → Nat) : Nat :=
  match op with
  | .sum => (List.range 64).foldl (fun q i => addRne q (x i)) 0
  | .max => (List.range 63).foldl (fun q i => least32 false true q (x (i + 1))) (x 0)
  | .min => (List.range 63).foldl (fun q i => least32 false false q (x (i + 1))) (x 0)
  | .amax => if (List.range 64).any (fun i => nan32 (x i)) then 0x7FC00000 else (List.range 64).foldl (fun m i => max m (x i % 2 ^ 31)) 0

/-- The ck that an instruction takes the engine (R143). -/
def engineCk (o : EngOp) : Nat :=
  match o.instr with
  | .mma _ _ _ _ _ => 128
  | .mmas _ _ _ _ _ _ _ => 64
  | .mmaq ta tw _ _ _ _ => if ta.bytes = 1 ∧ tw = .q4 then 64 else 128
  | .tzero _ => 8
  | .tld _ _ _ | .tst _ _ _ => 8 + ((Desc.ofWords o.w0 o.w1).ext + 255) / 256
  | .quant _ rot _ _ _ => if rot = .none then 64 else 96
  | .deq _ _ _ _ | .tact _ _ _ _ _ => 64
  | .tred _ _ _ _ => 32
  | _ => 0

/-- The engine of a pipeline runs `o`, of the pack `p` in the slot `r`, and its time has passed. -/
def EngineDue (s : State) (core pipe : Nat) (o : EngOp) (r : PackRef) (p : Pack) : Prop :=
  let q := (s.core core).pipe pipe
  q.run = some o.uid ∧ (∃ i : Nat, q.queue[i]? = some o ∧ ∀ j < i, ∀ x : EngOp, q.queue[j]? = some x → x.uid ≠ o.uid) ∧
  q.busy + engineCk o ≤ s.now ∧ s.refOf core o.serial = some r ∧ s.pack r = some p ∧ r.pipe = pipe

/-- What an engine instruction writes to its tile `m`, `new`, from the tiles it reads, `old` by register, and their marks (R154 to R164). -/
def TileResult (p : Pack) (o : EngOp) (old : Nat → Nat → Nat) (bad : Nat → Bool) (new : Nat → Nat → Nat) (mark : Nat → Bool) : Prop :=
  let d := Desc.ofWords o.w0 o.w1
  let n := p.id.n
  let fb := fun a => viewAt p p.m.frame a / 2 ^ (8 * (a % 4)) % 256
  match o.instr with
  | .tzero m => (∀ k, new m k = 0) ∧ mark m = false
  | .tld tr m _ =>
    (tr = false → ∀ k, new m k = if k < d.ext then fb (d.base + k) else 0) ∧
    (tr = true → d.ext = d.rows * d.cols * d.elem.bytes → (∀ i < d.rows, ∀ j < d.cols, ∀ b < d.elem.bytes,
      new m ((j * d.rows + i) * d.elem.bytes + b) = fb (d.base + (i * d.cols + j) * d.elem.bytes + b)) ∧ ∀ k, d.ext ≤ k → new m k = 0) ∧
    (mark m = true ↔ ∃ key ∈ p.m.frameBad, d.base ≤ key * 4 ∧ key * 4 < d.base + d.ext ∧ key % 32 < n)
  | .mma ta tb m a b => (∀ i < 64, ProductRow ta tb (fun x => elt (old a) ta (i * kSize ta + x)) (old b) (old m) (new m) i) ∧
      mark m = (bad m || bad a || bad b)
  | .mmas p48 ta tb m a b mm => (∀ i < 64, SparseRow p48 ta tb (old a) (old b) (old mm) (old m) (new m) i) ∧
      mark m = (bad m || bad a || bad b || bad mm)
  | .mmaq ta tw m a b _ => QuantProduct ta tw d (old a) (old b) (old m) (new m) ∧ mark m = (bad m || bad a || bad b)
  | .quant t rot m a _ => (d.wellFormed = true → d.ty = t.code → d.rows * d.cols ≤ 4096 →
      Quantised t (match rot with | .none => 0 | .r32 => 32 | .r64 => 64 | .r128 => 128) d (old a) (new m)) ∧ mark m = bad a
  | .deq t m a _ => ((t = .f32 ∨ t = .bf16 ∨ t = .f16) → d.wellFormed = true → d.rows * d.cols * t.bytes ≤ 16384 → Dequantised t d (old a) (new m)) ∧ mark m = bad a
  | .tact act out bias m a => ((out = .f32 ∨ out = .bf16 ∨ out = .f16 ∨ out = .e4m3 ∨ out = .e5m2) →
      Epilogue act out (bias.map old) (old a) (new m)) ∧ mark m = (bad a || match bias with | some b => bad b | none => false)
  | .tred op col m a => (∀ l < 64, lend (new m) (4 * l) 4 =
      lineOf op fun x => lend (old a) ((if col then x * 64 + l else l * 64 + x) * 4) 4) ∧ (∀ k, 256 ≤ k → new m k = 0) ∧ mark m = bad a
  | _ => True

/-- The register that an engine instruction writes; none for TST. -/
def tileOut : Instr → Option Nat
  | .tzero m | .tld _ m _ | .mma _ _ m _ _ | .mmas _ _ _ m _ _ _ | .mmaq _ _ m _ _ _ | .quant _ _ m _ _ | .deq _ m _ _
  | .tact _ _ _ m _ | .tred _ _ m _ => some m
  | _ => none

/-- What TST writes to the frame (R155, R166): the tile's bytes in the view range, at active positions; the poison of those words follows
the tile's mark. -/
def FrameResult (p q : Pack) (tr : Bool) (d : Desc) (old : Nat → Nat) (bad : Bool) : Prop :=
  let inside := fun a => d.base ≤ a ∧ a < d.base + d.ext ∧ a / 4 % 32 < p.id.n
  (tr = false → ∀ a, inside a → byteOf q.m.frame a = old (a - d.base)) ∧
  (tr = true → d.ext = d.rows * d.cols * d.elem.bytes → ∀ i < d.rows, ∀ j < d.cols, ∀ b < d.elem.bytes,
    let a := d.base + (i * d.cols + j) * d.elem.bytes + b
    inside a → byteOf q.m.frame a = old ((j * d.rows + i) * d.elem.bytes + b)) ∧
  (∀ a, ¬inside a → byteOf q.m.frame a = byteOf p.m.frame a) ∧
  ∀ key, key ∈ q.m.frameBad ↔ if inside (4 * key) then bad = true else key ∈ p.m.frameBad

end Sys2Proof.Claims

/-- R84, R89 to R92, R143, R154 to R164, R166: when the running engine instruction has taken its time it ends: the tile it writes holds
what its rule gives, from the tiles as they stand, with the poison of what it read; TST writes the frame; no other tile, no register, no
private word and no memory changes. That TLD reads, and TST writes, its whole extent at once as it ends is the model's choice (DESIGN CHOICE,
log 64). -/
def Sys2Proof.Claims.EngineResults : Prop :=
  ∀ (core pipe : Nat) (s : State) (o : EngOp) (r : PackRef) (p : Pack), EngineDue s core pipe o r p → engineCk o ≠ 0 →
    ∃ t q, exec (.engineInstructionEnd core pipe) s = .next t ∧ t.pack r = some q ∧ t.mem = s.mem ∧ q.r = p.r ∧ q.m.priv = p.m.priv ∧
      q.m.tiles = p.m.tiles ∧ TileResult p o (tbyte s r p) (tpoison s r p) (tbyte t r p) (tpoison t r p) ∧
      (∀ x, (∀ m, tileOut o.instr = some m → x ≠ p.m.tiles.getD m 16) → (t.core core).tile pipe x = (s.core core).tile pipe x) ∧
      match o.instr with
      | .tst tr m _ => FrameResult p q tr (Desc.ofWords o.w0 o.w1) (tbyte s r p m) (tpoison s r p m)
      | _ => q.m.frame = p.m.frame ∧ q.m.frameBad = p.m.frameBad
/-! ### Copies, tokens and control -/

namespace Sys2Proof.Claims

/-- What a token in the outbound queue says: slot, port, tag, payload, context and release. -/
def tokSays (o : OutTok) : Nat × Nat × DWord × List Word × Nat × Option Scope :=
  (o.tok.slot, o.tok.port, o.tok.tag, o.tok.pay, o.tok.ctx, o.tok.rel)

/-- The tag of a lane's own instance (R14). -/
def own (p : Pack) (L : Nat) : DWord := p.id.tags.getD L 0

/-- The tag that a tag operand gives a lane (R237). -/
def tagOfLane (p : Pack) (t : TagSrc) (L : Nat) : DWord := match t with | .lane a => p.v2 a L | .uni a => p.s2 a | .self => own p L

/-- The payload of a lane (R236). -/
def payOf (p : Pack) (d n L : Nat) : List Word := (List.range n).map fun i => p.v (d + i) L

/-- A tag may be sent by a lane: its level is not 7, or the lane's own is (R238). -/
def maySend (p : Pack) (L : Nat) (tag : DWord) : Bool := tag.toNat / 2 ^ 61 != 7 || (own p L).toNat / 2 ^ 61 == 7

/-- The report lanes of lanes that fail with a cause and no address (R309). -/
def failLanes (ls : List Nat) (cause : Nat) : List RepLane := ls.map fun L => { lane := L, cause, detail := 0, addr := 0 }

/-- The operands of a lane's copy (R208): source, destination, length, and the fourth operand. -/
def cpyArgs (mode : CpyMode) (p : Pack) (d a : Nat) (b : BOp) (aux L : Nat) : Nat × Nat × Nat × Nat :=
  let len := (p.b b L).toNat
  let ga := (p.v2 a L).toNat
  match mode with
  | .f | .c => (ga, (p.v d L).toNat, len, 0)
  | .h => ((p.v a L).toNat, (p.v2 d L).toNat, len, 0)
  | .t => (ga, d, len, aux % 16)
  | .m => (ga, (p.v2 d L).toNat, len, 0)
  | .gather => (ga, (p.v d L).toNat, len, (p.s2 aux).toNat)
  | .remote => (ga, (p.v2 d L).toNat, len, (p.s aux).toNat % 2 ^ 20)

/-- The mode that a copy acts in: a .remote whose node is this device acts as .m (R210). -/
def cpyMode (s : State) (mode : CpyMode) (x : Nat × Nat × Nat × Nat) : CpyMode := if mode = .remote ∧ x.2.2.2 = s.io.node then .m else mode

/-- The checks of a copy in their order (R208, R209): the cause of the first that fails. The frame range is empty where its length is 0, and
then passes (the model's choice, log 60). -/
def cpyCause (s : State) (p : Pack) (mode : CpyMode) (es : Nat) (x : Nat × Nat × Nat × Nat) : Option Nat :=
  let src := x.1
  let dst := x.2.1
  let len := x.2.2.1
  let aux := x.2.2.2
  let bytes := if mode = .gather then (len * 2 ^ es + 3) / 4 * 4 else len
  let limit := match mode with | .f | .h => 524288 | .c => 262144 | .m | .remote => 16777216 | .gather => 4096 | .t => 2 ^ 32
  let frame := fun ea => bytes != 0 && decide (s.frameWords p.id.slot ≤ (ea + bytes - 1) / 128)
  let td := Desc.ofWords (p.tdw aux 0).toNat (p.tdw aux 1).toNat
  let misaligned := match mode with
    | .t => src % 4 != 0 || len % 4 != 0
    | .gather => dst % 4 != 0 || src % 2 ^ es != 0 || aux % 4 != 0
    | _ => src % 4 != 0 || dst % 4 != 0 || len % 4 != 0
  let permitted := match mode with
    | .f | .t | .c | .remote => s.permits p 1 src len
    | .h => s.permits p 2 dst len
    | .m => s.permits p 1 src len && s.permits p 2 dst len
    | .gather => s.permits p 1 aux (len * 4)
  if limit < len then some 22 else if misaligned then some 4
  else if (mode = .f ∨ mode = .gather) ∧ frame dst ∨ mode = .h ∧ frame src then some 5
  else if mode = .c ∧ s.constBytes p.id.slot < dst + len then some 7
  else if mode = .t ∧ ¬(td.v = true ∧ len ≤ td.ext) then some 12
  else if permitted then none else some 8

/-- The pack traps with no report entry, and will go on after the instruction (R252, R303). -/
def Stops (s : State) (i : Instr) (p : Pack) (code cause : Nat) : Prop :=
  ∃ t q, exec i s = .next t ∧ t.pack s.cur = some q ∧ q.c.st = .drain ∧ q.r = p.r ∧ q.m = p.m ∧
    q.c.trap.idx = p.c.pc ∧ q.c.trap.resume = p.c.resume.getD (p.c.pc + 1) ∧ q.c.trap.code = code ∧ q.c.trap.entry = none ∧
    q.c.trap.cause = cause ∧ q.c.bopen = p.c.bopen + 1

end Sys2Proof.Claims

/-- R193, R194, R208 to R210, R309: CPY whose lanes pass its checks puts a copy for each in the copy queue with the lane's range, and each
waits for what the pack has issued; no register, view or memory changes at issue. Where lanes fail, they trap with the cause of the first
check that each fails and with its global range's address; for a form that copies once, every active lane does. -/
def Sys2Proof.Claims.CopyIssue : Prop :=
  ∀ (mode : CpyMode) (es : Nat) (once : Bool) (sc : Scope) (d a : Nat) (b : BOp) (aux port block : Nat) (s : State) (p : Pack),
    p.c.replay = [] →
    let i : Instr := .cpy mode es once sc d a b aux port block
    let ls := if once then p.lanes.take 1 else p.lanes
    let x := fun L => cpyArgs mode p d a b aux L
    let cause := fun L => cpyCause s p (cpyMode s mode (x L)) es (x L)
    let bad := ls.flatMap fun L => match cause L with
      | none => []
      | some c => (if once then p.lanes else [L]).map fun l =>
          ({ lane := l, cause := c, detail := 0, addr := if mode = .h then (x L).2.1 else (x L).1 } : RepLane)
    s.copyCount s.cur.core + ls.length + 8 ≤ 64 →
    ((∀ L ∈ ls, cause L = none) →
      Runs s p i 2 fun t q => t.mem = s.mem ∧ q.r = p.r ∧ q.m = p.m ∧
      ∀ L ∈ ls, ∃ e ∈ (t.core s.cur.core).copies, e.2.mode = cpyMode s mode (x L) ∧ e.2.st = .waiting ∧
        e.2.bearing = p.bearing s.cur p.c.pc L ∧ e.2.cond.sc = sc ∧ e.2.cond.uids = s.covered s.cur p ∧ e.2.slot = block ∧
        e.2.port = port ∧ e.2.tag = own p L ∧ (e.2.src, e.2.dst, e.2.len, e.2.aux) = x L) ∧
    (p.id.colour = none → Ready s i p → bad ≠ [] → Traps s i p bad fun t q => t.mem = s.mem ∧ q.r = p.r ∧ q.m = p.m)

/-- R236 to R239: SEND and SENDM put one token for each lane that takes part in the outbound queue, one alone for a uniform tag of SEND;
the lanes that may not send their tag trap with cause 15, and those of SENDM whose block number maps to no slot with cause 14. -/
def Sys2Proof.Claims.SendTokens : Prop :=
  ∀ (tag : TagSrc) (d n k port block b : Nat) (rl : Option Scope) (s : State) (p : Pack),
    p.c.replay = [] → (s.core s.cur.core).outbound.length + p.lanes.length + 32 ≤ 512 →
    let ls := match tag with | .uni _ => (storing p k).take 1 | _ => storing p k
    let target := fun L => s.mapBlock p.id.slot ((p.v b L).toNat % 2 ^ 16)
    let may := fun L => maySend p L (tagOfLane p tag L)
    ((∀ L ∈ ls, may L = true) →
      Runs s p (.send tag d n k rl port block) 2 fun t q => q.r = p.r ∧ q.m = p.m ∧ t.mem = s.mem ∧
        ∃ os, (t.core s.cur.core).outbound = (s.core s.cur.core).outbound ++ os ∧
          os.map tokSays = ls.map fun L => (block, port, tagOfLane p tag L, payOf p d n L, p.id.ctx, rl)) ∧
    ((∀ L ∈ storing p k, may L = true ∧ (target L).isSome = true) →
      Runs s p (.sendm tag d n k rl b) 2 fun t q => q.r = p.r ∧ q.m = p.m ∧ t.mem = s.mem ∧
        ∃ os, (t.core s.cur.core).outbound = (s.core s.cur.core).outbound ++ os ∧
          os.map tokSays = (storing p k).map fun L =>
            ((target L).getD 0, (p.v b L).toNat / 2 ^ 16 % 4, tagOfLane p tag L, payOf p d n L, p.id.ctx, rl)) ∧
    (p.id.colour = none → Ready s (.send tag d n k rl port block) p → (∃ L ∈ ls, may L = false) →
      Traps s (.send tag d n k rl port block) p (failLanes (ls.filter fun L => !may L) 15) fun _ q => q.r = p.r) ∧
    (p.id.colour = none → Ready s (.sendm tag d n k rl b) p → (∃ L ∈ storing p k, may L = false ∨ target L = none) →
      Traps s (.sendm tag d n k rl b) p ((storing p k).flatMap fun L =>
        failLanes [L] 14 |>.filter (fun _ => (target L).isNone) |>.append (failLanes [L] 15 |>.filter fun _ => (target L).isSome && !may L))
        fun _ q => q.r = p.r)

/-- R241 to R244: SPAWN enters a request for each lane in ascending position, RETURN a return for each active lane; lanes of level 6 or
7, and of level 0 or 7, take the spawn-depth and the return-level fault. -/
def Sys2Proof.Claims.SpawnAndReturn : Prop :=
  ∀ (d a n eport k rport entry ret : Nat) (rl : Option Scope) (s : State) (p : Pack), p.c.replay = [] →
    let lv := fun L => (own p L).toNat / 2 ^ 61
    let ls := storing p k
    ((s.core s.cur.core).alloc.length + (s.core s.cur.core).spawned.length + ls.length ≤ 64 → (∀ L ∈ ls, lv L < 6) →
      Runs s p (.spawn d a n eport k rport entry ret) 2 fun t q => q.r = p.r ∧ t.mem = s.mem ∧
        ∃ rs, (t.core s.cur.core).alloc = (s.core s.cur.core).alloc ++ rs ∧
          rs.map (fun r => (r.level, r.index, r.pay, r.slot, r.port, r.parent, r.rslot, r.rport, r.waits)) =
            ls.map fun L => (lv L + 1, (p.v2 a L).toNat % 2 ^ 48, payOf p d n L, entry, eport, own p L, ret, rport, s.covered s.cur p)) ∧
    ((s.core s.cur.core).outbound.length + p.lanes.length + 32 ≤ 512 → (∀ L ∈ p.lanes, lv L ≠ 0 ∧ lv L ≠ 7) →
      Runs s p (.ret d n rl) 1 fun t q => q.r = p.r ∧ t.mem = s.mem ∧
        ∃ rs, t.returns = s.returns ++ rs ∧
          rs.map (fun r => (r.ctx, r.level, r.colour, r.out.tok.pay, r.out.tok.rel)) =
            p.lanes.map fun L => (p.id.ctx, lv L, (own p L).toNat / 2 ^ 48 % 2 ^ 13, payOf p d n L, rl)) ∧
    (p.id.colour = none → (s.core s.cur.core).alloc.length + (s.core s.cur.core).spawned.length + ls.length ≤ 64 → (∃ L ∈ ls, 6 ≤ lv L) →
      Ready s (.spawn d a n eport k rport entry ret) p →
      Traps s (.spawn d a n eport k rport entry ret) p (failLanes (ls.filter fun L => 6 ≤ lv L) 16) fun _ q => q.r = p.r) ∧
    (p.id.colour = none → (s.core s.cur.core).outbound.length + p.lanes.length + 32 ≤ 512 → (∃ L ∈ p.lanes, lv L = 0 ∨ lv L = 7) →
      Ready s (.ret d n rl) p →
      Traps s (.ret d n rl) p (failLanes (p.lanes.filter fun L => lv L == 0 || lv L == 7) 17) fun _ q => q.r = p.r)

/-- R247, R141: END of a pack with nothing outstanding frees its slot, clears and frees its tiles, and leaves the memories; with reports
pending it traps and frees nothing. -/
def Sys2Proof.Claims.EndFreesThePack : Prop :=
  ∀ (s : State) (p : Pack), Ready s .endBlock p → p.c.batches = [] → p.c.deferred = [] →
    (p.c.reports = [] → ∃ t, exec .endBlock s = .next t ∧ t.pack s.cur = none ∧ t.mem = s.mem ∧
      (∀ k ∈ p.m.tiles, ((t.core s.cur.core).pipe s.cur.pipe).tiles.find k = none) ∧
      ∀ r, r ≠ s.cur → r.pipe < 4 → r.slot < 16 → s.cur.pipe < 4 → s.cur.slot < 16 → t.pack r = s.pack r) ∧
    (p.c.reports ≠ [] → p.id.colour = none → ∃ t q, exec .endBlock s = .next t ∧ t.pack s.cur = some q ∧ q.c.st = .drain ∧
      q.m.tiles = p.m.tiles ∧ q.r = p.r)

/-- R248 to R251, R253: IDX.F, TAGC, MKTAG, CLOCK and NOP. -/
def Sys2Proof.Claims.TagAndClockInstructions : Prop :=
  ∀ (d a f : Nat) (b : BOp) (s : State) (p : Pack),
    (∀ w, s.widths p.id.slot = w → f < w.length → w.sum ≤ 48 →
      RunsLanes s p (.idxF d f) 1 fun q L =>
        (q.v d L).toNat = (own p L).toNat % 2 ^ w.sum / 2 ^ (w.drop (f + 1)).sum % 2 ^ w.getD f 0 % 2 ^ 32) ∧
    RunsLanes s p (.tagc d) 1 (fun q L => q.v2 d L = own p L) ∧
    RunsLanes s p (.mktag d a) 1 (fun q L =>
      (q.v2 d L).toNat = (own p L).toNat / 2 ^ 48 * 2 ^ 48 + (p.v2 a L).toNat % 2 ^ 48) ∧
    RunsLanes s p (.mktagColour d a b) 1 (fun q L =>
      (q.v2 d L).toNat = (p.b b L).toNat % 2 ^ 16 * 2 ^ 48 + (p.v2 a L).toNat % 2 ^ 48) ∧
    Runs s p (.clock d) 1 (fun _ q => (q.s d).toNat = (if d = 0 then 0 else s.now % 2 ^ 32) ∧
      (q.s (d + 1)).toNat = s.now / 2 ^ 32 % 2 ^ 32) ∧
    Runs s p .nop 1 (fun t q => q.r = p.r ∧ q.m = p.m ∧ t.mem = s.mem ∧ t.ctxs = s.ctxs)

/-- R252: TRAP and BRK stop the pack with cause 18 and 19 and their code; it resumes after the instruction. -/
def Sys2Proof.Claims.TrapAndBreakpoint : Prop :=
  ∀ (code : Nat) (s : State) (p : Pack), p.c.replay = [] → p.id.colour = none →
    (Ready s (.trap code) p → Stops s (.trap code) p code 18) ∧ (Ready s (.brk code) p → Stops s (.brk code) p code 19)

/-- R94, R96, R98, R275 to R277: MOVC reads each control register, and writes FPCTL, TRAPEN and MXCNT, reserved bits ignored; a write of
FLAGS clears the bits written as 1. -/
def Obligations.ControlRegisters : Prop :=
  ∀ (d : Nat) (s : State) (p : Pack) (x : Ctx), s.ctx p.id.ctx = some x →
    (∀ sel : Ctl, Runs s p (.movcRead d sel) 1 fun t q => t.ctxs = s.ctxs ∧ q.s d = if d = 0 then 0 else
      match sel with
      | .fpctl => p.r.fpctl | .trapen => p.r.trapen | .flags => x.r.flags | .mxcnt => x.r.mxcnt
      | .ctxid => BitVec.ofNat 32 (x.r.weight % 16 * 2 ^ 21 + x.r.cls % 4 * 2 ^ 19 + x.r.port % 2 * 2 ^ 18 + p.id.ctx % 64 * 2 ^ 12 +
          x.r.asid % 2 ^ 12)
      | .priv => BitVec.ofNat 32 x.r.priv | .leash => p.r.leash | .faultq => s.faultq p.id.ctx) ∧
    Runs s p (.movcWrite d .fpctl) 1 (fun t q => t.ctxs = s.ctxs ∧ q.r.fpctl = p.s d &&& 7 ∧ q.r.trapen = p.r.trapen) ∧
    Runs s p (.movcWrite d .trapen) 1 (fun t q => t.ctxs = s.ctxs ∧ q.r.trapen = p.s d &&& 0x67 ∧ q.r.fpctl = p.r.fpctl) ∧
    Runs s p (.movcWrite d .flags) 1 (fun t q => q.r = p.r ∧
      ∃ y, t.ctx p.id.ctx = some y ∧ y.r.flags = x.r.flags &&& ~~~(p.s d) ∧ y.r.mxcnt = x.r.mxcnt) ∧
    Runs s p (.movcWrite d .mxcnt) 1 (fun t q => q.r = p.r ∧
      ∃ y, t.ctx p.id.ctx = some y ∧ y.r.mxcnt = p.s d ∧ y.r.flags = x.r.flags)
/-! ### Traps, resumption and privileged instructions -/

namespace Sys2Proof.Claims

/-- A pack slot that exists (R23). -/
def InRange (r : PackRef) : Prop := r.core < 192 ∧ r.pipe < 4 ∧ r.slot < 16

/-- The instruction ends with a status in a uniform register, and the pack goes on (R317). -/
def Replies (s : State) (p : Pack) (i : Instr) (d len st : Nat) (Q : State → Prop) : Prop :=
  Runs s p i len fun t q => q.c.wait = none ∧ q.s d = (if d = 0 then 0 else BitVec.ofNat 32 st) ∧ Q t

/-- A part of an instruction that its parked pack takes up again ends with a status (R317). -/
def Ends (t : State) (r : PackRef) (p : Pack) (d len st : Nat) : Prop :=
  ∃ q, t.pack r = some q ∧ Past p q len ∧ q.c.wait = none ∧ q.s d = if d = 0 then 0 else BitVec.ofNat 32 st

/-- The instruction issues, and its pack parks on it at a phase (R278, R317). -/
def Parks (s : State) (p : Pack) (i : Instr) (phase info : Nat) (Q : State → Prop) : Prop :=
  Ready s i p → ∃ t q w, exec i s = .next t ∧ t.pack s.cur = some q ∧ q.r = p.r ∧ q.m = p.m ∧ q.c.pc = p.c.pc ∧ q.c.wait = some w ∧
    w.instr = i ∧ w.phase = phase ∧ w.info = info ∧ Q t

/-- Every active lane with a cause. -/
def every (p : Pack) (cause detail addr : Nat) : List RepLane :=
  p.lanes.map fun L => { lane := L, cause := cause, detail := detail, addr := addr }

/-- The pack has nothing outstanding that an instruction of order .dev waits for (R180). -/
def Still (s : State) (p : Pack) : Prop := p.c.replay = [] ∧ s.covered s.cur p = []

/-- The instruction traps at issue for the lanes: its pack drains with their report, with nothing written; a recompute pack ends instead,
and its recompute fails with kind 3 and the cause (R335). -/
def TrapsAt (s : State) (i : Instr) (p : Pack) (ls : List RepLane) : Prop :=
  match p.id.colour with
  | none => Traps s i p ls fun t q => q.r = p.r ∧ q.m = p.m ∧ t.mem = s.mem
  | some c => ∃ t, exec i s = .next t ∧ t.pack s.cur = none ∧ t.mem = s.mem ∧
      ∀ die q g rest, s.retrOf c = some (die, q) → q.stack = g :: rest → g.phase = .running →
        ∃ q1, t.retr.find die = some q1 ∧ q1.stack = { g with phase := .failed 3 ((ls.head?.map fun l => l.cause).getD 0) } :: rest

/-- The privileged instructions, with any operands: those marked P in the opcode map, and MOVC of FAULTQ (R41, R43, R276). -/
def Marked : Instr → Prop
  | .rebind _ _ | .tresume _ | .tskip _ | .tkill _ | .replay _ | .faultrd _ _ _ | .movcRead _ .faultq
  | .hcmdMap _ _ _ | .hcmdUnmap _ _ _ | .hcmdProtect _ _ _ | .hcmdQuery _ _ _ | .hcmdTcflush _ _ _ _ => True
  | _ => False

/-- The harbour commands, with any operands (R274). -/
def Harbour : Instr → Prop
  | .hcmdMap _ _ _ | .hcmdUnmap _ _ _ | .hcmdProtect _ _ _ | .hcmdQuery _ _ _ | .hcmdTcflush _ _ _ _ => True
  | _ => False

/-- The instruction is within the tile count of its pack's block (R30, R43). -/
def Within (p : Pack) (i : Instr) : Prop := (limited i).any (fun m => p.m.tiles.length ≤ m) = false

/-- The lane of a poisoned read in its report: cause 21, with the address of its access (R309, R324). -/
def readLane (p : Pack) (i : Instr) (L : Nat) : RepLane := { lane := L, cause := 21, detail := 0, addr := p.accessAddr i L }

/-- The instruction reads a poisoned uniform register. -/
def UniformBad (p : Pack) (i : Instr) : Prop := ∃ r, BOp.s r ∈ reads i ∧ r ∈ p.r.sBad

/-- The lanes that take part and read a poisoned lane register (R324). -/
def badOf (p : Pack) (i : Instr) : List Nat := (p.taking i).filter fun L => (p.laneReads i L).any fun k => p.r.vBad.contains k

end Sys2Proof.Claims

open Sys2Proof.Claims

/-- R42, R43, R274, R30, R324, R335: what traps at issue, precisely and pack-wide, with no register written: a major opcode that is no
instruction (cause 1, check 1); a word that decodes to none (cause 1, check 2); a tile at or above the block's count (cause 1, check 2); a
privileged instruction of an unprivileged pack, and a harbour command of a context without HCEN (cause 2); a poisoned uniform register
read (cause 21, every lane); a poisoned lane register read (cause 21, the lanes that read it). A recompute pack ends and fails instead. -/
def Obligations.IllegalAndPrivilegedInstructionsTrap : Prop :=
  ∀ (s : State) (p : Pack), s.pack s.cur = some p → p.c.replay = [] →
    (∀ op, Ready s (.unassignedOpcode op) p → TrapsAt s (.unassignedOpcode op) p (every p 1 1 0)) ∧
    (∀ b e, p.id.colour = none → s.block p.id.slot = some b → decodeWords (b.code.getD p.c.pc 0) b.code[p.c.pc + 1]? = .error e →
      ∃ t q, s.issueAt s.cur p = .next t ∧ t.pack s.cur = some q ∧ q.c.st = .drain ∧ q.r = p.r ∧ q.c.trap.entry = some p.c.pc ∧
        ∃ x ∈ q.c.reports, x.idx = p.c.pc ∧ ∀ l ∈ every p 1 2 0, l ∈ x.lanes) ∧
    (∀ i, ¬Within p i → TrapsAt s i p (every p 1 2 0)) ∧
    (∀ i, Marked i → p.id.priv = false → TrapsAt s i p (every p 2 0 0)) ∧
    (∀ i x, Harbour i → s.ctx p.id.ctx = some x → x.r.priv.testBit 2 = false → TrapsAt s i p (every p 2 0 0)) ∧
    (∀ i, Within p i → s.privOk p i = true → UniformBad p i → p.lanes ≠ [] → TrapsAt s i p (p.lanes.map (readLane p i))) ∧
    (∀ i, Within p i → s.privOk p i = true → ¬UniformBad p i → badOf p i ≠ [] → TrapsAt s i p ((badOf p i).map (readLane p i)))

/-- R305, R308, R311: trap entry of a drained pack writes its trap frame: the state, the cause, the bearing, the resume index, the code,
FPCTL, TRAPEN, the uniform registers and the lane registers; the pack is then TRAPPED, and the trap token, with the frame handle,
is the last of its core's outbound queue. The home slices have room for the lines of the frame and of the dumps. -/
def Obligations.TrapEntryWritesTheFrame : Prop :=
  ∀ (r : PackRef) (s : State) (p : Pack) (x : Ctx), InRange r → s.pack r = some p → s.ctx p.id.ctx = some x → x.st = .running →
    p.id.colour = none → p.c.st = .drain → p.c.deferred = [] → p.c.batches = [] → (∀ k ∈ p.m.tiles, k < 16) →
    p.c.reports.length ≤ 17 → s.mem.l2.length + 4352 ≤ 2 ^ 20 → (s.core r.core).raised = [] →
    (∀ o ∈ ((s.core r.core).pipe r.pipe).queue, o.serial ≠ p.id.serial) →
    (∀ e ∈ (s.core r.core).copies, ¬(e.2.serial = p.id.serial ∧ e.2.mode = .t)) → (s.core r.core).outbound.length < 512 →
    ∃ t q o, exec (.trapEntry r) s = .next t ∧ t.pack r = some q ∧ q.c.st = .trapped ∧ q.r = p.r ∧ q.m = p.m ∧
      (t.core r.core).outbound = (s.core r.core).outbound ++ [o] ∧ o.tok.handler = true ∧ o.tok.rel = some .dev ∧
      o.tok.pay.length = 8 ∧ o.tok.pay.getD 0 0 = BitVec.ofNat 32 (r.core * 64 + r.pipe * 16 + r.slot) ∧
      let word := fun w => t.frameWord x.r.asid r w
      let b := (p.bearing r p.c.trap.idx 0).toNat
      word 0 = 1 ∧ word 1 = (p.trapCause.1 + p.trapCause.2 % 256 * 256) % 2 ^ 32 ∧
      word 2 = b % 2 ^ 32 ∧ word 3 = b / 2 ^ 32 % 2 ^ 32 ∧ word 4 = p.c.trap.resume % 2 ^ 32 ∧ word 5 = p.c.trap.code % 2 ^ 32 ∧
      word 12 = p.r.fpctl.toNat ∧ word 13 = p.r.trapen.toNat ∧ (∀ j < 32, word (128 + j) = (p.s j).toNat) ∧
      (∀ i < 64, ∀ L < 32, word (2048 + i * 32 + L) = (p.v i L).toNat)

/-- R304, R309, R310, R318, R325, R326, R144: the trapped pack that TRESUME named reloads its registers from its frame, s0, k0 and the
reserved bits of descriptors not, and its tiles from their dumps, each with the poison marks of the lines it reads; it goes on at its resume
index, after a code fetch that failed with that fetch to make again. Its replay list has, in ascending order, the entries that the handler
left in state 1 with a lane to issue: the lanes left in the entry's mask whose own cause is of the replay kind, at the addresses left in the
frame. That registers and tiles take their marks by whole lines is the model's reading (log 77). -/
def Obligations.PackResumptionReloads : Prop :=
  ∀ (r : PackRef) (s : State) (p : Pack) (x : Ctx) (i : Nat), InRange r → s.pack r = some p → s.ctx p.id.ctx = some x → x.st = .running →
    p.id.colour = none → p.c.st = .trapped → p.c.resume = some i → p.id.n ≤ 32 → (∀ k ∈ p.m.tiles, k < 16) →
    let asid := x.r.asid
    let word := fun w => BitVec.ofNat 32 (s.frameWord asid r w)
    let bad := fun w => s.peekBad asid (frameVa r + 4 * w) 4
    let entry := fun j w => s.frameWord asid r (256 + 88 * j + w)
    let takes := fun j L => L < p.id.n ∧ (entry j 2).testBit L = true ∧
      entry j (8 + L / 2) / 2 ^ (16 * (L % 2)) % 256 ∈ [4, 5, 6, 7, 8, 9, 10, 12, 14, 15, 16, 17, 21, 22]
    let live := fun j => entry j 3 % 256 = 1 ∧ ∃ L < 32, takes j L
    ∃ t q, exec (.packResumption r) s = .next t ∧ t.pack r = some q ∧ q.c.st = .run ∧ q.c.pc = p.c.trap.resume ∧ q.c.wait = p.c.wait ∧
      q.c.resume = some p.c.trap.resume ∧ q.c.reports = [] ∧ t.mem = s.mem ∧
      q.c.fetch = (if p.c.trap.cause = 20 ∧ p.id.slot ∈ (s.core r.core).st.codeBad then 1 else 0) ∧
      (∀ j < 31, q.s (j + 1) = word (129 + j) ∧ (j + 1 ∈ q.r.sBad ↔ bad (129 + j) = true)) ∧
      (∀ j < 7, q.k (j + 1) = word (161 + j)) ∧
      (∀ j < 16, q.tdw j 0 = word (168 + 2 * j) &&& 0xBFFFFFFF ∧ q.tdw j 1 = word (169 + 2 * j) &&& 0x1FFFFFFF) ∧
      q.r.fpctl = word 12 &&& 7 ∧ q.r.trapen = word 13 &&& 0x67 ∧
      (∀ j < 64, ∀ L < p.id.n, q.v j L = word (2048 + j * 32 + L) ∧ (j * 32 + L ∈ q.r.vBad ↔ bad (2048 + j * 32 + L) = true)) ∧
      (∀ k ∈ p.m.tiles,
        (∀ w < 4096, leNat (Sparse.getRun ((t.core r.core).tile r.pipe k).data (4 * w) 4) = leNat (s.peek asid (dumpVa r k + 4 * w) 4)) ∧
        (((t.core r.core).tile r.pipe k).poison = true ↔ ((s.core r.core).tile r.pipe k).poison = true ∨
          ∃ w < 256, s.peekBad asid (dumpVa r k + 64 * w) 64 = true)) ∧
      (∀ k, k ∉ p.m.tiles → (t.core r.core).tile r.pipe k = (s.core r.core).tile r.pipe k) ∧
      q.c.replay.map (fun y => y.idx) = ((p.c.reports.zipIdx).filter fun e => decide (live e.2)).map (fun e => e.1.idx) ∧
      ∀ j e, p.c.reports[j]? = some e → live j → ∃ y ∈ q.c.replay, y.idx = e.idx ∧ (∀ L, L ∈ y.lanes ↔ takes j L) ∧
        ∀ L, takes j L → (L, entry j (24 + 2 * L) + 2 ^ 32 * entry j (25 + 2 * L)) ∈ y.addrs

/-- R307, R310, R316 to R319: TRESUME makes the trapped pack that its handle names resume; TSKIP and TKILL free it, with its tiles
cleared; a handle of no trapped pack gives status 3, one of another context 4, one that is a record handle 5 and one out of form 2, and
changes nothing. -/
def Obligations.TrappedPackInstructions : Prop :=
  (∀ (d : Nat) (r : PackRef) (s : State) (p t : Pack), InRange r → InRange s.cur → r ≠ s.cur → Still s p →
    (p.s d).toNat = r.core * 64 + r.pipe * 16 + r.slot →
    (s.pack r = some t → t.c.st = .trapped → t.c.resume = none →
      (t.id.ctx = p.id.ctx →
        Replies s p (.tresume d) d 1 0 (fun u => ∃ q, u.pack r = some q ∧ q.c.st = .trapped ∧ q.c.resume.isSome = true ∧ q.r = t.r ∧
          q.m = t.m ∧ u.frameWord (s.asid p.id.ctx) r 0 = 2) ∧
        Replies s p (.tskip d) d 1 0 (fun u => u.pack r = none ∧ u.frameWord (s.asid p.id.ctx) r 0 = 0 ∧
          (u.core r.core).outbound = (s.core r.core).outbound ∧
          ∀ k ∈ t.m.tiles, ((u.core r.core).pipe r.pipe).tiles.find k = none) ∧
        Replies s p (.tkill d) d 1 0 (fun u => u.pack r = none ∧ u.frameWord (s.asid p.id.ctx) r 0 = 0 ∧
          (∀ q ∈ (u.core r.core).alloc, q.serial ≠ t.id.serial) ∧
          ∀ o ∈ (u.core r.core).outbound, o.serial = t.id.serial → o.tok.handler = false →
            ∃ k ∈ o.conds, ∃ v ∈ k.uids, ∃ e ∈ (s.core r.core).wake, e.2.uid = v ∧ (e.2.st = .faulted ∨ e.2.st = .replaying))) ∧
      (t.id.ctx ≠ p.id.ctx → ∀ i ∈ [Instr.tresume d, .tskip d, .tkill d],
        Replies s p i d 1 4 fun u => u.pack r = some t ∧ u.mem = s.mem)) ∧
    (s.pack r = none → ∀ i ∈ [Instr.tresume d, .tskip d, .tkill d], Replies s p i d 1 3 fun u => u.mem = s.mem) ∧
    (s.pack r = some t → t.c.st ≠ .trapped → t.c.resume = none → ∀ i ∈ [Instr.tresume d, .tskip d, .tkill d],
      Replies s p i d 1 3 fun u => u.pack r = some t ∧ u.mem = s.mem)) ∧
  (∀ (d : Nat) (s : State) (p : Pack), Still s p → let h := (p.s d).toNat
    (192 * 64 ≤ h → h < 2 ^ 18 → h / 512 % 256 < 192 → ∀ i ∈ [Instr.tresume d, .tskip d], Replies s p i d 1 5 fun t => t.mem = s.mem) ∧
    (192 * 64 ≤ h → h < 2 ^ 17 → h / 512 < 192 → Replies s p (.tkill d) d 1 5 fun t => t.mem = s.mem) ∧
    (2 ^ 18 ≤ h ∨ 192 ≤ h / 512 % 256 → ∀ i ∈ [Instr.tresume d, .tskip d, .tkill d], Replies s p i d 1 2 fun t => t.mem = s.mem))

/-- R314 to R317, R319, R320: REPLAY makes a faulted store record REPLAYING and parks; where its line then translates it ends with status 0
and the line has no open record, and where it does not the record is FAULTED with the new kind, in status 1. Of a copy record it moves the
words that were not written: with none left the completion token leaves and the entry is freed, in status 0; with a word that fails the
record is FAULTED again, in status 1. TKILL of a faulted copy record frees its entry with no token. A record handle out of form gives
status 2, one of no faulted record 3, and one of another context 4. What a copy record holds back is its completion token alone: the model's
reading (DEDUCED, log 19). -/
def Sys2Proof.Claims.FaultRecordInstructions : Prop :=
  (∀ (d : Nat) (s : State) (p : Pack) (w : Wake), Still s p → let h := (p.s d).toNat
    h < 2 ^ 17 → h / 512 < 192 → (s.core (h / 512)).wake.find (h % 512) = some w →
    (w.st = .faulted → w.ctx = p.id.ctx →
      Parks s p (.replay d) 1 w.uid fun t => t.mem = s.mem ∧ (t.core (h / 512)).wake.find (h % 512) = some { w with st := .replaying }) ∧
    (w.st = .faulted ∨ w.st = .replaying → w.ctx ≠ p.id.ctx → Replies s p (.replay d) d 1 4 fun t => t.mem = s.mem) ∧
    (w.st = .replaying → w.ctx = p.id.ctx → Replies s p (.replay d) d 1 3 fun t => t.mem = s.mem)) ∧
  (∀ (d : Nat) (r : PackRef) (s : State) (p : Pack) (a : Wait) (w : Wake), let h := (p.s d).toNat
    a.phase = 1 → h < 2 ^ 17 → h / 512 < 192 → (s.core (h / 512)).wake.find (h % 512) = some w → w.st = .replaying → w.uid = a.info →
    let use := if w.red.isSome then XlUse.atomic else .write
    (∀ pa leaf, s.translate w.asid (w.va / 64 * 64) use w.colour = .ok pa leaf →
      Ends (finishReplay d s r p a) r p d 1 0 ∧
      ∀ c, ∀ e ∈ ((finishReplay d s r p a).core c).wake,
        ¬((e.2.st = .faulted ∨ e.2.st = .replaying) ∧ e.2.asid = w.asid ∧ e.2.va / 64 = w.va / 64 ∧ e.2.colour = w.colour)) ∧
    (∀ k, s.translate w.asid (w.va / 64 * 64) use w.colour = .fault k →
      Ends (finishReplay d s r p a) r p d 1 (1 + k * 256) ∧ (finishReplay d s r p a).mem = s.mem ∧
      ((finishReplay d s r p a).core (h / 512)).wake.find (h % 512) = some { w with st := .faulted, kind := k })) ∧
  (∀ (d : Nat) (s : State) (p : Pack) (c : Copy), Still s p → let h := (p.s d).toNat
    2 ^ 17 ≤ h → h < 2 ^ 18 → h / 512 % 256 < 192 → (s.core (h / 512 % 256)).copies.find (h % 512) = some c → InRange s.cur →
    (c.st = .faulted → c.ctx = p.id.ctx →
      Parks s p (.replay d) 1 c.uid (fun t => (t.core (h / 512 % 256)).copies.find (h % 512) =
        some { c with st := .replaying, bad := [], first := c.bad.headD (0, 0, 0), elems := c.elems.filter fun e => e.val.isSome }) ∧
      Replies s p (.tkill d) d 1 0 (fun t => (t.core (h / 512 % 256)).copies.find (h % 512) = none ∧ t.mem = s.mem) ∧
      (c.mode ≠ .t → Replies s p (.tkill d) d 1 0 fun t => (t.core s.cur.core).outbound = (s.core s.cur.core).outbound)) ∧
    (c.st = .faulted ∨ c.st = .replaying → c.ctx ≠ p.id.ctx → ∀ i ∈ [Instr.replay d, .tkill d],
      Replies s p i d 1 4 fun t => t.mem = s.mem) ∧
    (c.st = .replaying → c.ctx = p.id.ctx → ∀ i ∈ [Instr.replay d, .tkill d], Replies s p i d 1 3 fun t => t.mem = s.mem)) ∧
  (∀ (d : Nat) (r : PackRef) (s : State) (p : Pack) (a : Wait) (c q : Copy), let h := (p.s d).toNat
    let core := h / 512 % 256
    let n := h % 512
    let u := if c.mode = .remote then s else s.moveAll core n
    let t := finishReplay d s r p a
    2 ^ 17 ≤ h → h < 2 ^ 18 → core < 192 → (s.core core).copies.find n = some c → c.st = .replaying → c.uid = a.info → a.phase ≠ 0 →
    (c.mode = .remote → a.phase = 2) → (u.core core).copies.find n = some q → q.done.length + q.bad.length = q.words →
    (q.bad = [] → q.mode ≠ .t → (u.core core).outbound.length < 480 →
      Ends t r p d 1 0 ∧ (t.core core).copies.find n = none ∧ ∃ o, (t.core core).outbound = (u.core core).outbound ++ [o] ∧
        o.tok.slot = q.slot ∧ o.tok.port = q.port ∧ o.tok.tag = q.tag ∧ o.tok.src = 1) ∧
    (∀ j k va rest, q.bad = (j, k, va) :: rest →
      Ends t r p d 1 (1 + k * 256) ∧ (t.core core).copies.find n = some { q with st := .faulted })) ∧
  (∀ (d : Nat) (s : State) (p : Pack), Still s p → let h := (p.s d).toNat
    (h < 2 ^ 17 → h / 512 < 192 → (s.core (h / 512)).wake.find (h % 512) = none → Replies s p (.replay d) d 1 3 fun t => t.mem = s.mem) ∧
    (2 ^ 18 ≤ h ∨ 192 ≤ h / 512 % 256 → Replies s p (.replay d) d 1 2 fun t => t.mem = s.mem))

/-- R306, R315, R316, R321: FAULTRD parks its pack on a deferred result that holds the record's word, or 0 where the handle names no open
record of the context; the word reaches its register as other deferred results do. Word 14 of a copy record being 1, its completion token, is the
model's reading (DEDUCED, log 19). -/
def Sys2Proof.Claims.FaultrdReadsARecord : Prop :=
  ∀ (d a word : Nat) (s : State) (p : Pack), Defer16 p → p.c.replay = [] → let h := (p.s a).toNat
    let reads := fun v : Nat => Ready s (.faultrd d a word) p → ∃ t q e l, exec (.faultrd d a word) s = .next t ∧
      t.pack s.cur = some q ∧ q.c.wait.isSome = true ∧ q.c.deferred = p.c.deferred ++ [e] ∧ q.r = p.r ∧ t.mem = s.mem ∧
      e.kind = .fault ∧ e.uni = true ∧ e.d = d ∧ e.lanes = [l] ∧ l.lane = 0 ∧ l.res = .bound (v % 2 ^ 32)
    let lo := fun i v : Nat => word = i → reads v
    (∀ w, h < 2 ^ 17 → h / 512 < 192 → (s.core (h / 512)).wake.find (h % 512) = some w → w.ctx = p.id.ctx →
      w.st = .faulted ∨ w.st = .replaying →
      lo 0 w.bearing.toNat ∧ lo 1 (w.bearing.toNat / 2 ^ 32) ∧ lo 2 w.va ∧ lo 3 (w.va / 2 ^ 32) ∧ lo 4 w.tag.toNat ∧
      lo 5 (w.tag.toNat / 2 ^ 32) ∧ lo 6 (w.slot % 2 ^ 16 + 32 * 2 ^ 16 + w.kind * 2 ^ 24) ∧
      (∀ k, w.size = 2 ^ k → lo 7 ((if w.st = .replaying then 2 else 1) + k * 2 ^ 8)) ∧ lo 8 h ∧ lo 9 0 ∧ lo 10 1 ∧ lo 11 0 ∧
      lo 12 w.chrono ∧ lo 13 (w.chrono / 2 ^ 32) ∧ lo 14 (s.heldOn w.uid) ∧ lo 15 0) ∧
    (∀ c, 2 ^ 17 ≤ h → h < 2 ^ 18 → h / 512 % 256 < 192 → (s.core (h / 512 % 256)).copies.find (h % 512) = some c → c.ctx = p.id.ctx →
      c.st = .faulted ∨ c.st = .replaying → ∀ j k va, (if c.st = .replaying then c.first else c.bad.headD (0, 0, 0)) = (j, k, va) →
      lo 0 c.bearing.toNat ∧ lo 1 (c.bearing.toNat / 2 ^ 32) ∧ lo 2 va ∧ lo 3 (va / 2 ^ 32) ∧ lo 4 c.tag.toNat ∧
      lo 5 (c.tag.toNat / 2 ^ 32) ∧ lo 6 (c.bslot % 2 ^ 16 + 33 * 2 ^ 16 + k * 2 ^ 24) ∧ lo 7 (if c.st = .replaying then 2 else 1) ∧ lo 8 h ∧
      lo 9 (4 * j) ∧ lo 10 (c.words - c.done.length) ∧ lo 11 0 ∧ lo 12 c.chrono ∧ lo 13 (c.chrono / 2 ^ 32) ∧
      lo 14 (if c.mode = .t then 0 else 1) ∧ lo 15 0) ∧
    ((∀ w, (s.core (h / 512)).wake.find (h % 512) = some w → w.st = .faulted ∨ w.st = .replaying → w.ctx ≠ p.id.ctx) → h < 2 ^ 17 → reads 0) ∧
    (2 ^ 17 ≤ h → h < 2 ^ 18 → (∀ e ∈ s.cores, ∀ c ∈ e.2.copies, c.2.st = .faulted ∨ c.2.st = .replaying → c.2.ctx ≠ p.id.ctx) → reads 0) ∧
    (2 ^ 18 ≤ h → reads 0)

/-- R188, R265, R280, R281, R322, R326, R335, R234: a line's write-back gives memory its dirty bytes and its poison mark, and leaves the line
clean; CWBI writes back every line of its pack's in the range that has something to write, drops the range's lines from L2 and L1, and leaves
the lines that are held or whose probe is unanswered, and those of others, as they stand; a misaligned or ungranted range traps with cause 4 or
8. REBIND refuses with statuses 2, 3 and 4 and otherwise closes its target and parks; with no instance of the target it then binds the donor's
block, and with one it reopens the target with status 1. -/
def Obligations.WriteBackAndRebind : Prop :=
  (∀ (s : State) (l : L2Line) (pa : Nat) (leaf : Option (Nat × Bool)), s.lineHome l = some (pa, leaf) → l.ops = [] → pa % 64 = 0 →
    pa + 64 ≤ 2 ^ 39 → (∀ q, leaf = some q → q.1 + 8 ≤ pa ∨ pa + 64 ≤ q.1) →
    let t := s.writeBack l
    (∀ i < 64, Sparse.get (pa + i) t.mem.hbm = if l.dirty.testBit i then Sparse.get i l.data else Sparse.get (pa + i) s.mem.hbm) ∧
    (l.poison = true → pa / 64 ∈ t.mem.bad) ∧ (l.poison = false → l.valid = fullMask → pa / 64 ∉ t.mem.bad) ∧
    t.l2 l.asid l.line l.colour = some { l with dirty := 0 }) ∧
  (∀ (a b : Nat) (s : State) (p : Pack), Still s p → let va := (p.s2 a).toNat
    let len := (p.s b).toNat
    let own := fun l : L2Line => l.asid = s.asid p.id.ctx ∧ va ≤ l.line * 64 ∧ l.line * 64 < va + len ∧ (l.colour = none ∨ l.colour = p.id.colour)
    let free := fun l : L2Line => own l ∧ l.held = false ∧ l.probes = 0
    let out := s.mem.l2.filter fun l => decide (free l) && l.unsaved
    let at_ := fun l : L2Line => (l.asid, l.line, l.colour)
    let u := out.foldl (fun (u : State) l => u.writeBack l) s
    (va % 64 = 0 → len % 64 = 0 → s.permitsAny p va len = true →
      Runs s p (.cwbi a b) 1 fun t q => q.r = p.r ∧ q.m = p.m ∧ q.c.wait = none ∧ (len = 0 → t.mem = s.mem) ∧
        (len ≠ 0 → (t.core s.cur.core).l1 = [] ∧
          t.mem.hbm = u.mem.hbm ∧ t.mem.host0 = u.mem.host0 ∧ t.mem.host1 = u.mem.host1 ∧ t.mem.bad = u.mem.bad ∧
          (∀ l ∈ t.mem.l2, own l → l.held = true ∨ l.probes ≠ 0 ∨ l.dirty ≠ 0 ∨ l.ops ≠ []) ∧
          (∀ l ∈ s.mem.l2, ¬free l → (∀ y ∈ out, at_ y ≠ at_ l) → l ∈ t.mem.l2) ∧
          (out = [] → ∀ l ∈ t.mem.l2, ¬free l) ∧
          (∀ l, out = [l] → (s.lineHome l).isSome = true → ∀ y ∈ t.mem.l2, at_ y ≠ at_ l))) ∧
    ((va % 64 ≠ 0 ∨ len % 64 ≠ 0) → p.id.colour = none → Ready s (.cwbi a b) p → Traps s (.cwbi a b) p (every p 4 0 0) fun t q => q.r = p.r ∧ t.mem = s.mem) ∧
    (va % 64 = 0 → len % 64 = 0 → s.permitsAny p va len = false → p.id.colour = none → Ready s (.cwbi a b) p →
      Traps s (.cwbi a b) p (every p 8 0 0) fun t q => q.r = p.r ∧ t.mem = s.mem)) ∧
  (∀ (a b : Nat) (s : State) (p : Pack), p.c.replay = [] → let x := (p.s a).toNat % 2 ^ 16
    let y := (p.s b).toNat % 2 ^ 16
    (s.block x = none → Replies s p (.rebind a b) a 1 2 fun t => t.blocks = s.blocks) ∧
    (∀ k, s.block x = some k → k.ctx ≠ p.id.ctx → Replies s p (.rebind a b) a 1 2 fun t => t.blocks = s.blocks) ∧
    (∀ k m, s.block x = some k → k.ctx = p.id.ctx → s.block y = some m → m.ctx ≠ p.id.ctx →
      Replies s p (.rebind a b) a 1 3 fun t => t.blocks = s.blocks) ∧
    (∀ k m z, s.block x = some k → k.ctx = p.id.ctx → s.block y = some m → m.ctx = p.id.ctx → y ≠ x →
      s.images.find k.run = some z ∨ s.images.find m.run = some z → z.pure = true →
      Replies s p (.rebind a b) a 1 4 fun t => t.blocks = s.blocks) ∧
    (∀ k, s.block x = some k → k.ctx = p.id.ctx → y = x ∨ s.block y = none → Replies s p (.rebind a b) a 1 3 fun t => t.blocks = s.blocks) ∧
    (∀ k m, s.block x = some k → k.ctx = p.id.ctx → s.block y = some m → m.ctx = p.id.ctx → y ≠ x →
      (∀ i ∈ [k.img, k.run, m.img, m.run], ∀ z, s.images.find i = some z → z.pure = false) →
      Parks s p (.rebind a b) 1 0 (fun t => ∃ j, t.block x = some j ∧ j.closing = true ∧ j.code = k.code) ∧
      ∀ (r : PackRef) (w : Wait), w.phase = 1 →
        ((∀ e ∈ s.cores, (∀ n ∈ e.2.entries, n.slot ≠ x) ∧ ∀ q ∈ e.2.packs, q.2.id.slot ≠ x) →
          Ends (finishRebind a b s r p w) r p a 1 0 ∧ ∃ j, (finishRebind a b s r p w).block x = some j ∧ j.code = m.code ∧ j.run = m.run ∧
            j.img = k.img ∧ j.ports = m.ports ∧ j.frame = m.frame ∧ j.closing = false) ∧
        ((∃ e ∈ s.cores, ∃ n ∈ e.2.entries, n.slot = x) →
          Ends (finishRebind a b s r p w) r p a 1 1 ∧ ∃ j, (finishRebind a b s r p w).block x = some j ∧ j.code = k.code ∧
            j.closing = false)))
/-! ### Recipe instructions and harbour commands -/

namespace Sys2Proof.Claims

/-- The status word of a recipe instruction (R342). -/
def recCode (ix code : Nat) : Nat := ix * 65536 + code

/-- A tile of a context by its leaf: aligned, below the private window, mapped by a 64 KiB leaf that is not shared (R327). -/
def LeafTile (s : State) (x : Ctx) (va at_ v : Nat) : Prop :=
  va % 65536 = 0 ∧ va < 0xF00000000000 ∧ s.walk x.root va = .leaf at_ v false ∧ v.testBit 4 = false

/-- What a recipe instruction needs to act at once: an aligned tile with the rights, and nothing outstanding (R342). -/
def Acts (s : State) (p : Pack) (x : Ctx) (va need : Nat) : Prop :=
  Still s p ∧ s.ctx p.id.ctx = some x ∧ va % 65536 = 0 ∧ s.permits p need va 65536 = true

/-- The record of a tile: the one with that tile, under a key of its own (R328). -/
def Record (x : Ctx) (va i : Nat) (t : Rec) : Prop :=
  x.recipes.find i = some t ∧ t.tile = va ∧ ∀ e ∈ x.recipes, e.2.tile = va → e = (i, t)
/-- A tile has no record. -/
def Unrecorded (x : Ctx) (va : Nat) : Prop := ∀ e ∈ x.recipes, e.2.tile ≠ va
/-- A source that RSEAL chains, and does not pin (R329). -/
def Chained (t : Rec) : Prop := (t.st = .sealed ∨ t.st = .dropped ∨ t.st = .regen) ∧ t.depth ≤ 3
/-- A source that RSEAL takes (R329, R343): a tile with no record, which gets a PINNED one, or a record that is chained or pinned. -/
def Source (s : State) (x : Ctx) (c : Nat) : Prop :=
  (Unrecorded x c ∧ ∃ at_ v, LeafTile s x c at_ v) ∨
  ∃ j t, Record x c j t ∧ t.deps < 65535 ∧ (Chained t ∨ ((t.st = .pinned ∨ t.st = .sealed) ∧ t.pinners < 65535))

end Sys2Proof.Claims

/-- R327, R330, R331, R342, R344 to R347: RDROP of a sealed tile that nothing holds writes the marker leaf, makes the record DROPPED and
gives status 0, of a held one status 3, of another state 2; RFREE ends the record, clearing the leaf of a dropped tile and making a
sealed or a failed one writable, with a failed one's lines still poisoned; RPIN and RPIN.unpin count pins; RSTAT gives the record's word; what
is no tile gives code 1, wherever it stands: in the private window, on a shared or a 2 MiB page, or on none. -/
def Obligations.RecipeInstructions : Prop :=
  ∀ (a d i : Nat) (s : State) (p : Pack) (x : Ctx) (t : Rec), let va := (p.s2 a).toNat
    (Acts s p x va 1 → Record x va i t → i < 8192 →
      (∀ at_ v, t.st = .sealed → t.pins = 0 → t.pinners = 0 → t.busy = 0 → s.walk x.root va = .leaf at_ v false →
        (∀ l ∈ s.mem.l2, ¬(l.asid = x.r.asid ∧ l.line / 1024 = va / 65536)) →
        Replies s p (.rdrop a) a 1 (recCode i 0) fun u => ∃ y, u.ctx p.id.ctx = some y ∧ y.recipes.find i = some { t with st := .dropped } ∧
          u.entry64 at_ % 2 = 0 ∧ (u.entry64 at_).testBit 8 = true ∧ (u.entry64 at_).testBit 50 = true ∧ u.entry64 at_ / 65536 % 8192 = i) ∧
      (t.st = .sealed → (t.pins ≠ 0 ∨ t.pinners ≠ 0 ∨ t.busy ≠ 0) → Replies s p (.rdrop a) a 1 (recCode i 3) fun u => u.mem = s.mem ∧ u.ctxs = s.ctxs) ∧
      (t.st ≠ .sealed → Replies s p (.rdrop a) a 1 (recCode i 2) fun u => u.mem = s.mem ∧ u.ctxs = s.ctxs) ∧
      (t.deps = 0 → t.busy = 0 → t.st ≠ .regen →
        Replies s p (.rfree a) a 1 (recCode 0xFFFF 0) fun u =>
          (∃ y, u.ctx p.id.ctx = some y ∧ ∀ e ∈ y.recipes, e.2.tile ≠ va) ∧
          (∀ at_ k, t.st = .dropped → s.walk x.root va = .recipe at_ k → u.entry64 at_ = 0) ∧
          (t.st = .failed → u.mem.l2 = s.mem.l2 ∧ u.mem.bad = s.mem.bad) ∧
          (∀ at_ v, t.st = .sealed ∨ t.st = .failed → s.walk x.root va = .leaf at_ v false → paHbm (leafPa v false va) = true →
            s.ownerOf (leafPa v false va) % 4 = 2 → s.ownerOf (leafPa v false va) / 256 % 4096 = 1 →
            (u.entry64 at_).testBit 3 = true ∧ u.ownerOf (leafPa v false va) % 4 = 1 ∧
              u.ownerOf (leafPa v false va) / 2 ^ 32 = va / 65536 % 2 ^ 32)) ∧
      (t.st ≠ .regen → (t.deps ≠ 0 ∨ t.busy ≠ 0) → Replies s p (.rfree a) a 1 (recCode i 3) fun u => u.ctxs = s.ctxs) ∧
      (t.st = .regen → Replies s p (.rfree a) a 1 (recCode i 2) fun u => u.ctxs = s.ctxs) ∧
      (t.st ≠ .dropped → t.pins < 65535 → Replies s p (.rpin false a) a 1 (recCode i 0) fun u =>
        ∃ y, u.ctx p.id.ctx = some y ∧ y.recipes.find i = some { t with pins := t.pins + 1 }) ∧
      (t.st = .dropped → Replies s p (.rpin false a) a 1 (recCode i 2) fun u => u.ctxs = s.ctxs) ∧
      (t.st ≠ .dropped → t.pins = 65535 → Replies s p (.rpin false a) a 1 (recCode i 6) fun u => u.ctxs = s.ctxs) ∧
      (∀ n, t.pins = n + 1 → t.deps ≠ 0 ∨ n ≠ 0 ∨ t.st ≠ .pinned → Replies s p (.rpin true a) a 1 (recCode i 0) fun u =>
        ∃ y, u.ctx p.id.ctx = some y ∧ y.recipes.find i = some { t with pins := n }) ∧
      (t.pins = 0 → Replies s p (.rpin true a) a 1 (recCode i 2) fun u => u.ctxs = s.ctxs)) ∧
    (∀ at_ v, Acts s p x va 1 → (∀ e ∈ x.recipes, e.2.tile ≠ va) → LeafTile s x va at_ v → x.recipes.length < 8192 →
      Ready s (.rpin false a) p → ∃ u q k y w, exec (.rpin false a) s = .next u ∧ u.pack s.cur = some q ∧ Past p q 1 ∧
        q.s a = (if a = 0 then 0 else BitVec.ofNat 32 (recCode k 0)) ∧ u.ctx p.id.ctx = some y ∧ y.recipes.find k = some w ∧ w.tile = va ∧
        w.st = .pinned ∧ w.pins = 1) ∧
    (Acts s p x va 1 → (∀ e ∈ x.recipes, e.2.tile ≠ va) → (∀ at_ v, ¬LeafTile s x va at_ v) →
      ∀ j ∈ [Instr.rdrop a, .rfree a, .rpin false a, .rpin true a], Replies s p j a 1 (recCode 0xFFFF 1) fun u => u.ctxs = s.ctxs) ∧
    (s.ctx p.id.ctx = some x → Record x va i t → i < 8192 → d ≠ 0 → p.c.replay = [] →
      Runs s p (.rstat d a) 1 fun u q => u.mem = s.mem ∧ u.ctxs = s.ctxs ∧ (q.s d).toNat / 65536 = i ∧
        (q.s d).getLsbD 10 = decide (t.busy ≠ 0) ∧ (q.s d).getLsbD 8 = decide (t.deps ≠ 0) ∧ (q.s d).toNat / 16 % 8 = t.depth % 8 ∧
        ((∀ l ∈ s.mem.l2, ¬(l.asid = x.r.asid ∧ l.line / 1024 = va / 65536)) →
          (q.s d).getLsbD 9 = decide (t.pinners ≠ 0 ∨ t.pins ≠ 0)) ∧
        (q.s d).toNat % 16 = match t.st with | .pinned => 1 | .sealed => 2 | .dropped => 3 | .regen => 4 | .failed => 5) ∧
    (s.ctx p.id.ctx = some x → (∀ e ∈ x.recipes, e.2.tile ≠ va) → d ≠ 0 → p.c.replay = [] →
      Runs s p (.rstat d a) 1 fun _ q => (q.s d).toNat = 0xFFFF0000)

/-- R329, R330, R342, R343: RSEAL of a tile with no record or a PINNED one makes it SEALED: its record holds the sources' indexes and which
of them it pins, the parameters, the entry slot, the CRC-32C of the tile's bytes as they then stand, and a depth that is 1 more than the
greatest of its chained sources', or 1; every source's dependants rise by 1 and a pinned one's pinners too, one with no record getting a PINNED
record; the leaf loses W, a WRITABLE frame becomes READONLY with one mapping, and a READONLY one stays as it is (log 21). What is no tile gives
code 1, a recorded one 2, a repeated source or the tile itself 7. A misaligned tile and one without R and W trap with causes 4 and 8. -/
def Obligations.RsealSealsATile : Prop :=
  ∀ (d a b entry n at_ v : Nat) (s : State) (p : Pack) (x : Ctx), let va := (p.s2 a).toNat
    let srcs := (List.range n).map fun i => (p.s2 (d + 2 * i)).toNat
    let i : Instr := .rseal d a b entry n
    (Acts s p x va 3 → LeafTile s x va at_ v → (Unrecorded x va ∨ ∃ k t, Record x va k t ∧ t.st = .pinned) → srcs.Nodup → va ∉ srcs →
      (x.recipes.map Prod.fst).Nodup → x.recipes.length + n < 8192 → (∀ c ∈ srcs, Source s x c) → Ready s i p →
      ∃ u q k y w, exec i s = .next u ∧ u.pack s.cur = some q ∧ Past p q 2 ∧ q.c.wait = none ∧
        q.s a = (if a = 0 then 0 else BitVec.ofNat 32 (recCode k 0)) ∧ u.ctx p.id.ctx = some y ∧ y.recipes.find k = some w ∧
        w.tile = va ∧ w.st = .sealed ∧ w.entry = entry ∧ w.params = [p.s b, p.s (b + 1), p.s (b + 2), p.s (b + 3)] ∧
        w.crc = crc32c (u.physRead (leafPa v false va) 65536) ∧ w.sources.length = n ∧ w.pinsrc.length = n ∧
        (∀ l t, Record x va l t → k = l ∧ w.deps = t.deps ∧ w.pins = t.pins ∧ w.pinners = t.pinners ∧ w.busy = t.busy) ∧
        (Unrecorded x va → w.deps = 0 ∧ w.pins = 0 ∧ w.pinners = 0 ∧ w.busy = 0) ∧
        (∀ c ∈ srcs, ∀ j t, Record x c j t → Chained t → t.depth + 1 ≤ w.depth) ∧
        (w.depth = 1 ∨ ∃ c ∈ srcs, ∃ j t, Record x c j t ∧ Chained t ∧ w.depth = t.depth + 1) ∧
        (∀ m < n, ∃ z, y.recipes.find (w.sources.getD m 0) = some z ∧ z.tile = srcs.getD m 0 ∧
          (∀ j t, Record x z.tile j t → w.sources.getD m 0 = j ∧ z.st = t.st ∧ z.deps = t.deps + 1 ∧
            (Chained t → z.pinners = t.pinners ∧ w.pinsrc.getD m true = false) ∧
            (¬Chained t → z.pinners = t.pinners + 1 ∧ w.pinsrc.getD m false = true)) ∧
          (Unrecorded x z.tile → z.st = .pinned ∧ z.entry = 0xFFFF ∧ z.deps = 1 ∧ z.pinners = 1 ∧ w.pinsrc.getD m false = true)) ∧
        (u.entry64 at_).testBit 3 = false ∧
        (paHbm (leafPa v false va) = true →
          (s.ownerOf (leafPa v false va) % 4 = 1 →
            u.ownerOf (leafPa v false va) % 4 = 2 ∧ u.ownerOf (leafPa v false va) / 256 % 4096 = 1) ∧
          (s.ownerOf (leafPa v false va) % 4 = 2 → u.ownerOf (leafPa v false va) = s.ownerOf (leafPa v false va)))) ∧
    (Acts s p x va 3 → ((∀ e ∈ x.recipes, e.2.tile ≠ va) ∧ (∀ l w, ¬LeafTile s x va l w)) ∨
        (∃ c ∈ srcs, (∀ e ∈ x.recipes, e.2.tile ≠ c) ∧ ∀ l w, ¬LeafTile s x c l w) → (∀ e ∈ x.recipes, e.2.tile ≠ va) →
      Replies s p i a 2 (recCode 0xFFFF 1) fun u => u.mem = s.mem ∧ u.ctxs = s.ctxs) ∧
    (∀ k t, Acts s p x va 3 → Record x va k t → k < 65536 → t.st ≠ .pinned → (∀ c ∈ srcs, ∃ j r, Record x c j r) →
      Replies s p i a 2 (recCode k 2) fun u => u.mem = s.mem ∧ u.ctxs = s.ctxs) ∧
    (Acts s p x va 3 → LeafTile s x va at_ v → (∀ e ∈ x.recipes, e.2.tile ≠ va) → (∀ c ∈ srcs, ∃ l w, LeafTile s x c l w) →
      va ∈ srcs ∨ ¬srcs.Nodup → Replies s p i a 2 (recCode 0xFFFF 7) fun u => u.mem = s.mem ∧ u.ctxs = s.ctxs) ∧
    (p.c.replay = [] → p.id.colour = none → ∀ j ∈ [i, .rdrop a, .rfree a, .rpin false a, .rpin true a], Ready s j p →
      (va % 65536 ≠ 0 → Traps s j p (every p 4 0 0) fun u q => q.r = p.r ∧ u.mem = s.mem) ∧
      (va % 65536 = 0 → s.permits p (if j = i then 3 else 1) va 65536 = false → Traps s j p (every p 8 0 0) fun u q => q.r = p.r ∧ u.mem = s.mem))

/-- R274, R278: HCMD .map, .unmap and .protect read their block once and act on its pages one by one, in ascending order: a count of
0 gives status 0 and reads nothing; the last page done gives the count, and the first that fails its place and code; .tcflush empties the units its mask
selects, where its block's reserved bits are 0, and else gives 3; .query of a page writes its leaf entry, or 0, to
bytes 8 to 15 of the block, with a count of 1 for a page that is mapped and of 0 for one that is not. A misaligned block and one without rights trap with causes 4 and 8. -/
def Sys2Proof.Claims.HarbourCommands : Prop :=
  ∀ (d a b m : Nat) (s : State) (p : Pack) (x : Ctx), let va := (p.s2 a).toNat
    let count := (p.s b).toNat
    let o : PageOwner := { ctx := p.id.ctx, asid := x.r.asid, root := x.root, fw := false }
    let paged : List (Instr × HOp) := [(.hcmdMap d a b, .map), (.hcmdUnmap d a b, .unmap), (.hcmdProtect d a b, .protect)]
    (∀ u bs, Still s p → s.ctx p.id.ctx = some x → va % 8 = 0 → s.permits p 3 va 32 = true →
      (s.occupy s.cur 1).readBlock x.r.asid va = (u, .data bs false) → u.cores = (s.occupy s.cur 1).cores → u.ctxs = s.ctxs → u.cur = s.cur →
      (∀ e ∈ paged, count ≠ 0 → Parks s p e.1 1 (leNat bs) fun t => t.mem = u.mem) ∧
      (leNat bs / 2 ^ 128 < 16 → Replies s p (.hcmdTcflush d a b m) d 2 0 fun t => t.mem.hbm = u.mem.hbm ∧
        ∀ e ∈ t.mem.tc, e.asid = x.r.asid → m ≠ 0 ∧ m.testBit e.unit = false) ∧
      (16 ≤ leNat bs / 2 ^ 128 → Replies s p (.hcmdTcflush d a b m) d 2 3 fun t => t.mem = u.mem) ∧
      (∀ q, (HBlock.ofNat (leNat bs)).page 0 = q → q.attr < 16 → q.va % q.size = 0 → q.va < 0xF00000000000 →
        (∀ e, u.walk x.root q.va = .none e → Replies s p (.hcmdQuery d a b) d 2 0 fun t => (t.core s.cur.core).l1 = [] ∧
          t.mem = (u.putQuery s.cur.core x.r.asid va (match e with | some l => u.entry64 l | none => 0)).mem) ∧
        (∀ l v z, u.walk x.root q.va = .leaf l v z → Replies s p (.hcmdQuery d a b) d 2 256 fun t => (t.core s.cur.core).l1 = [] ∧
          t.mem = (u.putQuery s.cur.core x.r.asid va v).mem))) ∧
    (∀ (u t : State) (core asid at_ v pa pb : Nat) (leaf leafb : Option (Nat × Bool)), u.putQuery core asid at_ v = t → at_ % 8 = 0 → v < 2 ^ 64 →
      u.translate asid (at_ + 8) .write none = .ok pa leaf → paHost pa = none →
      (u.copyWrite core asid (at_ + 8) (BitVec.ofNat 32 v) false none).1.translate asid (at_ + 12) .write none = .ok pb leafb → paHost pb = none →
      ∃ bad, t.homeRead asid (at_ + 8) 8 none .read = (t, .data (leBytes 8 v) bad)) ∧
    (Still s p → s.ctx p.id.ctx = some x → va % 8 = 0 → s.permits p 3 va 32 = true → count = 0 → ∀ e ∈ paged,
      Replies s p e.1 d 2 0 fun t => t.mem = s.mem ∧ (t.core s.cur.core).l1 = []) ∧
    (∀ (r : PackRef) (w : Wait) (u : State) (j code : Nat), s.ctx p.id.ctx = some x → w.phase = j + 1 → ∀ e ∈ paged,
      s.pageOp e.2 o ((HBlock.ofNat w.info).page j) = (u, code) →
      (code ≠ 0 → Ends (finishHcmd e.2 d a b s r p w) r p d 2 (j * 256 + code) ∧ (finishHcmd e.2 d a b s r p w).mem = u.mem) ∧
      (code = 0 → j + 1 = count → Ends (finishHcmd e.2 d a b s r p w) r p d 2 (count * 256) ∧ (finishHcmd e.2 d a b s r p w).mem = u.mem) ∧
      (code = 0 → j + 1 ≠ count → (finishHcmd e.2 d a b s r p w).mem = u.mem ∧ ∃ q z, (finishHcmd e.2 d a b s r p w).pack r = some q ∧
        q.c.wait = some z ∧ z.phase = j + 2 ∧ z.info = w.info ∧ q.r = p.r)) ∧
    (p.c.replay = [] → p.id.colour = none →
      ∀ i ∈ [Instr.hcmdMap d a b, .hcmdUnmap d a b, .hcmdProtect d a b, .hcmdQuery d a b, .hcmdTcflush d a b m], Ready s i p →
      (va % 8 ≠ 0 → Traps s i p (every p 4 0 0) fun t q => q.r = p.r ∧ t.mem = s.mem) ∧
      (va % 8 = 0 → s.permits p 3 va 32 = false → Traps s i p (every p 8 0 0) fun t q => q.r = p.r ∧ t.mem = s.mem))

/-- R264, R268, R270, R271, R278, R279: one 64 KiB page: a map of a free or read-only frame of the ASID writes the leaf and the owner
entry, a second writable use is a synonym, a frame granted elsewhere is refused; an unmap clears the leaf and lowers the owner entry, an
absent page gives 5; protecting against writes clears W; a live tile gives 7, a page out of form 3. -/
def Sys2Proof.Claims.HarbourPageOperations : Prop :=
  ∀ (s : State) (o : PageOwner) (q : PageReq), o.fw = false → q.attr < 8 → q.va % 65536 = 0 → q.va < 0xF00000000000 →
    let w := q.attr % 2
    let owner := fun t : State => (t.ownerOf q.pa % 4, t.ownerOf q.pa / 256 % 4096, t.ownerOf q.pa / 2 ^ 20 % 4096)
    (∀ at_ vs, q.pa < 2 ^ 39 → q.pa % 65536 = 0 → s.leaves4 o.root q.va = some vs → s.walk o.root q.va = .none (some at_) → o.asid ≠ 0 →
      (∀ n, (owner s = (0, n, o.asid) ∨ (owner s = (2, n, o.asid) ∧ w = 0 ∧ n < 4095)) →
        (s.pageMap o q).2 = 0 ∧
        owner (s.pageMap o q).1 = (if w = 1 then (1, 0, o.asid) else (2, (if (owner s).1 = 2 then n else 0) + 1, o.asid)) ∧
        (w = 1 → (s.pageMap o q).1.ownerOf q.pa / 2 ^ 32 = q.va / 65536 % 2 ^ 32) ∧
        (s.pageMap o q).1.entry64 at_ = 3 + q.attr * 8 + q.pa) ∧
      (∀ n g, owner s = (1, n, g) → (s.pageMap o q).1 = s ∧ (s.pageMap o q).2 = if g = o.asid then 1 else 2) ∧
      (∀ n, owner s = (2, n, o.asid) → w = 1 → (s.pageMap o q) = (s, 1)) ∧
      (owner s = (2, 4095, o.asid) → w = 0 → (s.pageMap o q) = (s, 4))) ∧
    (∀ at_ v, s.walk o.root q.va = .leaf at_ v false → (s.leaves4 o.root q.va).isSome = true → (s.pageMap o q).2 ≠ 0) ∧
    (∀ x, s.ctx o.ctx = some x → (∀ e ∈ x.recipes, e.2.tile < q.va ∨ q.va + 65536 ≤ e.2.tile) →
      (∀ at_ v, s.walk o.root q.va = .leaf at_ v false →
        let pa := leafPa v false q.va
        (s.pageUnmap o q).2 = 0 ∧ (s.pageUnmap o q).1.entry64 at_ = 0 ∧
        (paHost pa = none → s.ownerOf pa / 2 ^ 20 % 4096 ≠ 0 → (s.pageUnmap o q).1.ownerOf pa % 4 =
          if s.ownerOf pa % 4 = 2 ∧ 1 < s.ownerOf pa / 256 % 4096 then 2 else 0) ∧
        (∀ e ∈ (s.pageUnmap o q).1.mem.tc, e.asid = o.asid → e.page ≠ q.va / 65536) ∧
        (w = 0 → v.testBit 3 = true → (s.pageProtect o q).2 = 0 ∧ ((s.pageProtect o q).1.entry64 at_).testBit 3 = false ∧
          (paHost pa = none → (s.pageProtect o q).1.ownerOf pa % 4 = 2 ∧ (s.pageProtect o q).1.ownerOf pa / 256 % 4096 = 1))) ∧
      (∀ at_, s.walk o.root q.va = .none at_ → s.pageUnmap o q = (s, 5) ∧ s.pageProtect o q = (s, 5))) ∧
    (∀ x e, s.ctx o.ctx = some x → e ∈ x.recipes → e.2.tile = q.va → (s.pageUnmap o q) = (s, 7) ∧ (s.pageProtect o q) = (s, 7)) ∧
    (∀ z : PageReq, z.va % z.size ≠ 0 → s.pageMap o z = (s, 3) ∧ s.pageUnmap o z = (s, 3) ∧ s.pageProtect o z = (s, 3))

/-- R263, R264, R268, R270, R271, R278, R279: one page of 2 MiB: a map over frames that are free writes its leaf at level 3 and the 32 owner
entries; the first frame that is writable or granted elsewhere gives its code, and nothing changes; a mapped 64 KiB page below it gives 6. An
unmap clears the leaf and lowers the owner entries, and a protect against writes clears W and makes each frame READONLY; where a table of
64 KiB leaves stands in its place both give 3, and a page of the other size gives 3. -/
def Sys2Proof.Claims.HarbourLargePages : Prop :=
  ∀ (s : State) (o : PageOwner) (q : PageReq) (at_ v : Nat), o.fw = false → 8 ≤ q.attr → q.attr < 16 → q.va % 2 ^ 21 = 0 → q.va < 0xF00000000000 →
    let w := q.attr % 2
    let owner := fun (t : State) (pa : Nat) => (t.ownerOf pa % 4, t.ownerOf pa / 256 % 4096, t.ownerOf pa / 2 ^ 20 % 4096)
    let free := fun i => (owner s (q.pa + i * 65536)).1 = 0 ∧ (owner s (q.pa + i * 65536)).2.2 = o.asid
    let mapped := s.pageMap o q
    let unmapped := s.pageUnmap o q
    let shut := s.pageProtect o q
    (q.pa % 2 ^ 21 = 0 → q.pa < 2 ^ 39 → o.asid ≠ 0 →
      (s.leaves4 o.root q.va = none → s.walk o.root q.va = .none (some at_) →
        ((∀ i < 32, free i) → mapped.2 = 0 ∧ mapped.1.entry64 at_ = 3 + q.attr % 8 * 8 + q.pa ∧ ∀ i < 32,
          owner mapped.1 (q.pa + i * 65536) = (if w = 1 then (1, 0, o.asid) else (2, 1, o.asid)) ∧
          (w = 1 → mapped.1.ownerOf (q.pa + i * 65536) / 2 ^ 32 = q.va / 65536 + i)) ∧
        (∀ i < 32, (∀ j < i, free j) → ∀ n g, owner s (q.pa + i * 65536) = (1, n, g) → mapped = (s, if g = o.asid then 1 else 2))) ∧
      (∀ vs, s.leaves4 o.root q.va = some vs → (∃ e ∈ vs, e % 2 = 1) → mapped = (s, 6))) ∧
    (∀ x, s.ctx o.ctx = some x → (∀ e ∈ x.recipes, e.2.tile < q.va ∨ q.va + 2 ^ 21 ≤ e.2.tile) →
      ((s.leaves4 o.root q.va).isSome = true → unmapped = (s, 3) ∧ shut = (s, 3)) ∧
      (s.leaves4 o.root q.va = none → s.walk o.root q.va = .leaf at_ v true →
        let pa := leafPa v true q.va
        (∀ small : PageReq, small.attr < 8 → small.va = q.va → s.pageUnmap o small = (s, 3) ∧ s.pageProtect o small = (s, 3)) ∧
        (pa + 2 ^ 21 ≤ 2 ^ 39 →
          (unmapped.2 = 0 ∧ unmapped.1.entry64 at_ = 0 ∧ (∀ e ∈ unmapped.1.mem.tc, e.asid = o.asid → e.page ≠ q.va / 65536) ∧
            ∀ i < 32, s.ownerOf (pa + i * 65536) / 2 ^ 20 % 4096 ≠ 0 → (owner unmapped.1 (pa + i * 65536)).1 =
              if (owner s (pa + i * 65536)).1 = 2 ∧ 1 < (owner s (pa + i * 65536)).2.1 then 2 else 0) ∧
          (w = 0 → v.testBit 3 = true → shut.2 = 0 ∧ (shut.1.entry64 at_).testBit 3 = false ∧
            ∀ i < 32, (owner shut.1 (pa + i * 65536)).1 = 2 ∧ (owner shut.1 (pa + i * 65536)).2.1 = 1))))
/-! ### The engine, copies, tokens and firings -/

namespace Sys2Proof.Claims

/-- A byte of a tile. -/
def tb (t : Tile) (i : Nat) : Byte := Sparse.get i t.data

/-- A word of a tile. -/
def tw (t : Tile) (i : Nat) : Nat := leNat [tb t (4 * i), tb t (4 * i + 1), tb t (4 * i + 2), tb t (4 * i + 3)]

/-- The entry of a slot and a tag on a core. -/
def entryAt (s : State) (core : Nat) (slot : Nat) (tag : DWord) : Option Entry :=
  (s.core core).entries.find? fun e => e.slot == slot && e.tag == tag

/-- A core whose context runs, and the block that a token names, which takes its port and is not closed to it (R219, R220). -/
def Takes (s : State) (t : Tok) (x : Ctx) (b : Block) : Prop :=
  s.ctx t.ctx = some x ∧ x.st = .running ∧ s.block t.slot = some b ∧ b.ctx = t.ctx ∧ t.port < b.ports ∧ b.ordered = false

/-- A token has joined an entry (R25, R219). -/
def Joined (u : State) (core : Nat) (t : Tok) (b : Block) (pres : Nat) (new : Bool) : Prop :=
  ∃ e, entryAt u core t.slot t.tag = some e ∧ e.pres = pres ||| 2 ^ t.port ∧
    (∀ j < 8, Sparse.get (8 * t.port + j) e.pay = t.pay.getD j 0 ∧ 8 * t.port + j ∉ e.bad) ∧
    (e.pres % 2 ^ b.ports = 2 ^ b.ports - 1 → e.st ≠ .part) ∧
    (new = true → e.pres % 2 ^ b.ports ≠ 2 ^ b.ports - 1 → e.st = .part)

/-- A fault token of a cause, of no record, is the last of a core's outbound queue (R220, R311). -/
def Refuses (u : State) (core cause : Nat) (q : List OutTok) : Prop :=
  ∃ o, (u.core core).outbound = q ++ [o] ∧ o.tok.handler = true ∧ o.tok.pay.length = 8 ∧
    o.tok.pay.getD 0 0 = 0xFFFFFFFF ∧ o.tok.pay.getD 1 0 = BitVec.ofNat 32 cause

end Sys2Proof.Claims

/-- R89, R142, R148, R154, R157, R163: the engine's first instruction ends once it has run for its time, writes its tile alone and leaves
the queue: TZERO zeros it, and MMA of .i8 sources adds each product sum to its accumulator. -/
def Sys2Proof.Claims.EngineEndEvents : Prop :=
  ∀ (core pipe : Nat) (s : State) (r : PackRef) (p : Pack) (o : EngOp) (rest : List EngOp), InRange r →
    ((s.core core).pipe pipe).queue = o :: rest → ((s.core core).pipe pipe).run = some o.uid →
    s.refOf core o.serial = some r → s.pack r = some p →
    let old := fun m => (s.core core).tile pipe (p.m.tiles.getD m 16)
    (∀ m, o.instr = .tzero m → ((s.core core).pipe pipe).busy + 8 ≤ s.now →
      ∃ t q, exec (.engineInstructionEnd core pipe) s = .next t ∧ ((t.core core).pipe pipe).queue = rest ∧ t.mem = s.mem ∧
        t.pack r = some q ∧ q.r = p.r ∧ q.m = p.m ∧ (∀ i, tb ((t.core core).tile pipe (p.m.tiles.getD m 16)) i = 0) ∧
        ∀ k, k ≠ p.m.tiles.getD m 16 → (t.core core).tile pipe k = (s.core core).tile pipe k) ∧
    (∀ m a b, o.instr = .mma .i8 .i8 m a b → ((s.core core).pipe pipe).busy + 128 ≤ s.now →
      ∃ t q, exec (.engineInstructionEnd core pipe) s = .next t ∧ ((t.core core).pipe pipe).queue = rest ∧ t.mem = s.mem ∧
        t.pack r = some q ∧ q.r = p.r ∧ q.m = p.m ∧
        (∀ k, k ≠ p.m.tiles.getD m 16 → (t.core core).tile pipe k = (s.core core).tile pipe k) ∧
        ∀ i < 64, ∀ j < 64, let acc := (BitVec.ofNat 32 (tw (old m) (i * 64 + j))).toInt
          acc ≥ -(2 ^ 30) → acc ≤ 2 ^ 30 →
          (BitVec.ofNat 32 (tw ((t.core core).tile pipe (p.m.tiles.getD m 16)) (i * 64 + j))).toInt =
            (List.range 256).foldl (fun (z : Int) k => z + (tb (old a) (i * 256 + k)).toInt * (tb (old b) (k * 64 + j)).toInt) acc)

/-- R184, R210 to R212, R311: a started CPY.f moves a word into its lane's column and nothing else of the frame; a copy with every word
done gives up its queue entry and sends its completion token with its length, a CPY.t none; one that has left words unwritten keeps its
entry as a FAULTED record and sends a fault token with its handle. -/
def Obligations.CopiesMoveCompleteAndFault : Prop :=
  ∀ (core n : Nat) (s : State) (q : Copy), (s.core core).copies.find n = some q →
    (∀ (j pa : Nat) (leaf : Option (Nat × Bool)) (bs : List Byte) (poison : Bool) (u : State) (r : PackRef) (p : Pack), q.mode = .f →
      q.st = .moving → j < q.words → j ∉ q.done → (∀ e ∈ q.bad, e.1 ≠ j) →
      s.translate (s.asid q.ctx) (q.src + 4 * j) .read q.colour = .ok pa leaf →
      (s.touch (s.asid q.ctx) (q.src + 4 * j) .read leaf).homeRead (s.asid q.ctx) (q.src + 4 * j) 4 q.colour .read = (u, .data bs poison) →
      InRange r → r.core = core → s.pack r = some p → p.id.serial = q.serial →
      ∃ (t : State) (y : Pack) (z : Copy), exec (.copyStart core n [j]) s = .next t ∧ t.mem = u.mem ∧ t.pack r = some y ∧ y.r = p.r ∧ y.c = p.c ∧
        (t.core core).copies.find n = some z ∧ z.done = q.done ++ [j] ∧ z.bad = q.bad ∧ z.st = .moving ∧
        ∀ k, Sparse.get k y.m.frame = if k = (q.dst + 4 * j) / 4 ∧ k % 32 < p.id.n then BitVec.ofNat 32 (leNat bs) else Sparse.get k p.m.frame) ∧
    (q.st = .moving → q.mode ≠ .remote → (∀ j < q.words, j ∈ q.done) → q.done.length = q.words → q.bad = [] →
      (s.core core).outbound.length < 480 →
      ∃ t, exec (.copyComplete core n) s = .next t ∧ (t.core core).copies.find n = none ∧ t.mem = s.mem ∧
        (q.mode = .t → (t.core core).outbound = (s.core core).outbound) ∧
        (q.mode ≠ .t → ∃ o, (t.core core).outbound = (s.core core).outbound ++ [o] ∧ o.tok.slot = q.slot ∧ o.tok.port = q.port ∧
          o.tok.tag = q.tag ∧ o.tok.ctx = q.ctx ∧ o.tok.rel = some q.cond.sc ∧ o.tok.src = 1 ∧
          o.tok.pay = [BitVec.ofNat 32 (if q.mode = .gather then q.len * 2 ^ q.es else q.len)])) ∧
    (∀ (j k va : Nat) (l : List (Nat × Nat × Nat)) (x : Ctx), q.st = .moving → q.bad = (j, k, va) :: l → q.done.length + q.bad.length = q.words → s.ctx q.ctx = some x →
      x.st = .running → q.at_ = none → (s.core core).outbound.length < 512 → (s.core core).raised = [] →
      ∃ t o, exec (.copyFault core n) s = .next t ∧ t.mem = s.mem ∧
        (t.core core).copies.find n = some { q with st := .faulted, chrono := s.now } ∧
        (t.core core).outbound = (s.core core).outbound ++ [o] ∧ o.tok.handler = true ∧ o.tok.rel = some .dev ∧
        o.tok.pay.getD 0 0 = BitVec.ofNat 32 (2 ^ 17 + core * 512 + n) ∧ o.tok.pay.getD 1 0 = BitVec.ofNat 32 (k * 256 + 33) ∧
        o.tok.pay.getD 4 0 = BitVec.ofNat 32 va)

/-- R219, R220, R229, R230: a token on its way joins its entry at a port that the entry lacks, or makes one; a second token for a port, a
port that the block lacks, and an unbound slot give fault tokens of causes 34, 36 and 35; a spilled token is taken back in the same
way; a token that has waited 4,096 ck for an entry is spilled. -/
def Sys2Proof.Claims.TokensReachTheMatchingStore : Prop :=
  ∀ (core vc : Nat) (s : State) (t : Tok) (rest : List Tok) (x : Ctx) (b : Block), (s.core core).mustRenumber = false →
    s.io.hwait = [] → (s.core core).raised = [] → (s.core core).outbound.length < 512 →
    ((s.core core).arriving = t :: rest → (s.core core).spill = [] →
      (Takes s t x b →
        (∀ e, entryAt s core t.slot t.tag = some e → e.pres.testBit t.port = false →
          ∃ u, exec (.tokenAccept core 8) s = .next u ∧ (u.core core).arriving = rest ∧ u.mem = s.mem ∧ Joined u core t b e.pres false) ∧
        (entryAt s core t.slot t.tag = none → b.closing = false → s.entryRoom core t.cls (s.classOf t.ctx t.slot t.tag) b.ports = true →
          ∃ u, exec (.tokenAccept core 8) s = .next u ∧ (u.core core).arriving = rest ∧ u.mem = s.mem ∧ Joined u core t b 0 true) ∧
        (∀ e, entryAt s core t.slot t.tag = some e → e.pres.testBit t.port = true →
          ∃ u, exec (.tokenAccept core 8) s = .next u ∧ (u.core core).arriving = rest ∧ entryAt u core t.slot t.tag = some e ∧
            Refuses u core 34 (s.core core).outbound)) ∧
      (s.ctx t.ctx = some x → x.st = .running → s.block t.slot = none →
        ∃ u, exec (.tokenAccept core 8) s = .next u ∧ (u.core core).arriving = rest ∧ Refuses u core 35 (s.core core).outbound) ∧
      (s.ctx t.ctx = some x → x.st = .running → s.block t.slot = some b → b.ports ≤ t.port →
        ∃ u, exec (.tokenAccept core 8) s = .next u ∧ (u.core core).arriving = rest ∧ Refuses u core 36 (s.core core).outbound)) ∧
    ((s.core core).spill = t :: rest → Takes s t x b → s.entryCount core .program + 64 ≤ 16128 →
      entryAt s core t.slot t.tag = none → b.closing = false → s.entryRoom core t.cls (s.classOf t.ctx t.slot t.tag) b.ports = true →
      ∃ u, exec (.spillTakeBack core) s = .next u ∧ (u.core core).spill = rest ∧ u.mem = s.mem ∧ Joined u core t b 0 true) ∧
    (∀ since more, ((s.core core).intake.find vc) = some ((t, since) :: more) → Takes s t x b → b.closing = true →
      entryAt s core t.slot t.tag = none → since + 4096 ≤ s.now → (s.core core).spill.length + (s.core core).arriving.length < 262144 → s.io.lwait = [] →
      ∃ u, exec (.intakeTimeout core vc) s = .next u ∧ (u.core core).spill = (s.core core).spill ++ [t] ∧
        (u.core core).intake.find vc = some more ∧ u.mem = s.mem)

/-- R11, R176, R215 to R217, R220, R239, R290: the first token of an outbound queue, once its release holds, leaves for the core that its
block's placement gives its tag, or for a place of its context's inbox; one for an unbound slot gives the fault token of cause 35; one
whose release does not hold stays. -/
def Sys2Proof.Claims.OutboundTokensLeave : Prop :=
  ∀ (core : Nat) (s : State) (o : OutTok) (rest : List OutTok) (x : Ctx), (s.core core).outbound = o :: rest →
    s.ctx o.tok.ctx = some x → x.st = .running → o.frees = none → s.launches = [] → (s.core core).raised = [] → rest.length < 512 →
    (o.conds.all s.met = false → exec (.outboundTokenLeave core 0) s = .next s) ∧
    (o.conds.all s.met = true →
      (∀ b, s.block o.tok.slot = some b → b.ctx = o.tok.ctx → b.ordered = false →
        let c := s.placeCore x b (o.tok.tag.toNat % 2 ^ 48)
        (s.core c).spill.length + (s.core c).arriving.length < 262144 →
        ∃ t, exec (.outboundTokenLeave core 0) s = .next t ∧ (t.core core).outbound = rest ∧
          (t.core c).arriving = (s.core c).arriving ++ [o.tok] ∧ t.mem = s.mem) ∧
      (o.tok.slot = 0xFFFF → x.box.places.length < 64 →
        ∃ t y, exec (.outboundTokenLeave core 0) s = .next t ∧ (t.core core).outbound = rest ∧ t.ctx o.tok.ctx = some y ∧
          y.box.places = x.box.places ++ [o.tok] ∧ t.mem = s.mem) ∧
      (o.tok.slot ≠ 0xFFFF → s.block o.tok.slot = none →
        ∃ t, exec (.outboundTokenLeave core 0) s = .next t ∧ Refuses t core 35 rest))

/-- R218, R222, R223: renumbering keeps the entries in their order, with ages from their number down to 1; a waiting instance gets a
bin where one is free; a bin whose oldest instance has waited its leash is eligible. -/
def Sys2Proof.Claims.BinsAndSequenceNumbers : Prop :=
  ∀ (core : Nat) (s : State),
    (∀ e ∈ (s.core core).entries, 2 ^ 30 ≤ (s.core core).age e.seq → (s.core core).entries.length ≤ 16384 →
      ∃ t, exec (.seqRenumber core) s = .next t ∧
        (t.core core).entries.map (fun e => (e.slot, e.tag, e.pres)) =
          ((s.core core).oldest (s.core core).entries).map (fun e => (e.slot, e.tag, e.pres)) ∧
        (t.core core).entries.map (fun e => (t.core core).age e.seq) = (List.range (s.core core).entries.length).reverse.map (· + 1)) ∧
    (∀ e, (s.core core).entries.filter (fun x => x.st == .waitbin) = [e] →
      entryAt s core e.slot e.tag = some e → (s.core core).bins = [] → e.tag.toNat / 2 ^ 61 ≠ 7 →
      ∃ t y b, exec (.binAllot core) s = .next t ∧ entryAt t core e.slot e.tag = some y ∧ y.st = .binned ∧ y.entered = s.now ∧
        y.seq = (s.core core).seq ∧ (t.core core).seq = ((s.core core).seq + 1) % 2 ^ 32 ∧ (t.core core).bins = [(0, b)] ∧
        b.ctx = e.ctx ∧ b.slot = e.slot ∧ b.expired = false) ∧
    (∀ n b k e, (s.core core).bins.find n = some b → s.block b.slot = some k → k.ordered = false → e ∈ (s.core core).entries →
      e.st = .binned → e.ctx = b.ctx → e.slot = b.slot → (b.recovery = true ↔ e.tag.toNat / 2 ^ 61 = 7) → e.entered + k.leash ≤ s.now →
      ∃ t, exec (.leashExpiry core n) s = .next t ∧ (t.core core).bins.find n = some { b with expired := true } ∧
        (t.core core).entries = (s.core core).entries ∧ (t.core core).packs = (s.core core).packs)

/-- R14, R25, R26, R29, R31, R223, R227, R325: the first candidate of the helm that fits fires: its instances leave the matching store and
become the lanes of a pack at index 0, whose registers are zero and whose frame columns hold their port words, one firing of a core in a ck; candidates have at most 32
instances of one block; a refetch of code goes on, or traps before index 0 with cause 20. -/
def Sys2Proof.Claims.FiringsStartPacks : Prop :=
  (∀ (core pipe : Nat) (s : State) (k : Cand) (more : List Cand) (b : Block) (x : Ctx), let u := s.setTurns core
    (s.core core).helm.last ≠ some s.now →
    (u.walkHelm core).filter (fun c => c.tier != 3 || u.tier3Ok core) = k :: more → u.fits core k = some pipe →
    s.block k.key.2.1 = some b → s.ctx k.key.1 = some x → k.entries.length ≤ 32 → pipe < 4 →
    ∃ t q slot, exec (.packFiring core) s = .next t ∧ slot < 16 ∧ s.pack { core := core, pipe := pipe, slot := slot } = none ∧
      t.pack { core := core, pipe := pipe, slot := slot } = some q ∧ q.id.n = k.entries.length ∧ q.id.slot = k.key.2.1 ∧
      q.id.tags = k.entries.map (fun e => e.tag) ∧ q.c.pc = 0 ∧ q.c.st = .run ∧ q.c.wait = none ∧ q.m.tiles.length ≤ b.tiles ∧
      (∀ a L, q.v a L = 0 ∧ q.s a = 0) ∧
      (∀ L e, k.entries[L]? = some e → ∀ w, Sparse.get (w * 32 + L) q.m.frame = Sparse.get w e.pay) ∧
      (b.recipe = false → q.id.colour = none → q.r.fpctl = x.r.fpctl ∧ q.r.trapen = x.r.trapen) ∧
      (∀ e, e ∈ (t.core core).entries ↔ e ∈ (s.core core).entries ∧ e ∉ k.entries) ∧ t.mem = s.mem) ∧
  (∀ (core : Nat) (s : State), ∀ k ∈ s.walkHelm core, (∀ e ∈ k.entries, e ∈ (s.core core).entries ∧ e.st = .binned ∧ e.slot = k.key.2.1 ∧
      e.ctx = k.key.1) ∧
    ∀ b, s.block k.key.2.1 = some b → b.ordered = false → k.entries.length ≤ 32 ∧
      (k.entries.length < 32 → ∃ e ∈ (s.core core).bins, e.1 = k.bin ∧ (e.2.expired = true ∨ ∃ y ∈ k.entries, y.entered + b.leash ≤ s.now))) ∧
  (∀ (core : Nat) (s : State), (s.core core).helm.last = some s.now → exec (.packFiring core) s = .next s) ∧
  (∀ (core key : Nat) (s : State) (p : Pack), (s.core core).packs.find? (fun e => e.2.c.fetch == 1 && e.2.c.st == .run) = some (key, p) →
    let r : PackRef := { core := core, pipe := key / 16, slot := key % 16 }
    (∃ t q, exec (.codeRefetch core true) s = .next t ∧ t.pack r = some q ∧ q.c.fetch = 0 ∧ q.c.st = .run ∧
      p.id.slot ∉ (t.core core).st.codeBad) ∧
    (p.id.colour = none → ∃ t q, exec (.codeRefetch core false) s = .next t ∧ t.pack r = some q ∧ q.c.st = .drain ∧ q.c.trap.idx = 0 ∧
      q.c.trap.resume = p.c.resume.getD 0 ∧ q.c.trap.cause = 20 ∧ q.c.trap.entry = none))

/-- R12, R232, R242, R244: the oldest SPAWN request (between cores the oldest by issue, the model's choice, log 45) takes the lowest free colour of its level, is recorded, and its child token carries
that colour, once the outbound queue has a place for it; a return of a held colour carries the lane's payload to the recorded parent, and one of no held colour gives the fault token of
cause 37. -/
def Obligations.ColoursAreGrantedAndReturned : Prop :=
  ∀ (core : Nat) (s : State) (x : Ctx),
    (∀ (q : SpawnReq) (c : Nat), s.requests[0]? = some (core, q) → s.ctx q.ctx = some x → q.granted = none → (s.core core).spawned = [] → c < 8192 →
      (q.level, c) ∉ x.pools → (∀ d < c, (q.level, d) ∈ x.pools) →
      (512 ≤ (s.core core).outbound.length → q ∈ (s.core core).alloc →
        ∃ (t : State) (y : Ctx) (g : SpawnReq), exec (.colourGrant 0) s = .next t ∧ t.ctx q.ctx = some y ∧ y.pools = x.pools ++ [(q.level, c)] ∧
          (t.core core).outbound = (s.core core).outbound ∧ g ∈ (t.core core).alloc ∧ g.uid = q.uid ∧ g.granted = some c) ∧
      ((s.core core).outbound.length < 480 → ∃ (t : State) (y : Ctx) (o : OutTok), exec (.colourGrant 0) s = .next t ∧ t.ctx q.ctx = some y ∧ y.pools = x.pools ++ [(q.level, c)] ∧
        y.returns = x.returns ++ [((q.level, c), (q.parent, q.rslot, q.rport))] ∧
        (t.core core).outbound = (s.core core).outbound ++ [o] ∧ o.tok.slot = q.slot ∧ o.tok.port = q.port ∧ o.tok.pay = q.pay ∧
        o.tok.tag.toNat = q.level % 8 * 2 ^ 61 + c * 2 ^ 48 + q.index % 2 ^ 48 ∧ o.tok.rel = some .dev ∧
        (∀ r ∈ (t.core core).alloc, r.uid ≠ q.uid) ∧ t.mem = s.mem)) ∧
    (∀ (q : RetReq) (more : List RetReq), s.returns = q :: more → s.ctx q.ctx = some x → q.out.tok.core = core → (s.core core).outbound.length < 480 →
      (s.core core).raised = [] →
      (∀ (parent : DWord) (slot port : Nat), x.returns.find? (fun e => decide (e.1 = (q.level, q.colour))) = some ((q.level, q.colour), (parent, slot, port)) →
        ∃ (t : State) (y : Ctx) (o : OutTok), exec (.colourReturn 0) s = .next t ∧ t.returns = more ∧ t.ctx q.ctx = some y ∧
          (∀ e ∈ y.returns, e.1 ≠ (q.level, q.colour)) ∧ (t.core core).outbound = (s.core core).outbound ++ [o] ∧
          o.tok.tag = parent ∧ o.tok.slot = slot ∧ o.tok.port = port ∧ o.tok.pay = q.out.tok.pay ∧ o.frees = some (q.level, q.colour)) ∧
      ((∀ e ∈ x.returns, e.1 ≠ (q.level, q.colour)) →
        ∃ t, exec (.colourReturn 0) s = .next t ∧ t.returns = more ∧ Refuses t core 37 (s.core core).outbound))
/-! ### The host port, the platform, the evictor and the Retrievers -/

/-- R178, R288, R289, R290: an inbox entry is written at TAIL with its layout and a sequence word that is not 0, TAIL advances, and the vector
fires where the inbox was empty; a HEAD write sets HEAD where the inbox can hold what lies between; a well-formed aperture write
of the context's port sends its token with a release at .sys, and one of another length is dropped and counted. -/
def Obligations.InboxAndAperture : Prop :=
  (∀ (n : Nat) (s : State) (x : Ctx) (t : Tok) (rest : List Tok), s.ctx n = some x → x.box.places = t :: rest → x.st ≠ .ending →
    s.io.wait = [] → t.port < 256 → t.src < 256 → t.pay.length < 256 → let used := (x.box.tail + 2 ^ 32 - x.box.head) % 2 ^ 32
    used < 2 ^ x.box.k →
    ∃ u y, exec (.inboxEntryWrite n) s = .next u ∧ u.ctx n = some y ∧ y.box.places = rest ∧ y.box.tail = (x.box.tail + 1) % 2 ^ 32 ∧
      y.box.head = x.box.head ∧ y.box.seq ≠ 0 ∧ (x.box.seq < 2 ^ 32 - 1 → y.box.seq = x.box.seq + 1) ∧
      u.io.msix = s.io.msix ++ (if used = 0 then [(x.r.port, n + 1)] else []) ∧
      let b := u.hostRead x.r.port (x.box.base + x.box.tail % 2 ^ x.box.k * 64) 64
      let at_ := fun o k => leNat ((b.drop o).take k)
      at_ 0 8 = t.tag.toNat ∧ at_ 8 1 = t.port ∧ at_ 9 1 = t.pay.length ∧ at_ 10 1 = t.src ∧ at_ 12 4 = y.box.seq % 2 ^ 32 ∧
        at_ 16 8 = t.bearing.toNat ∧ ∀ j < 8, at_ (32 + 4 * j) 4 = (t.pay.getD j 0).toNat) ∧
  (∀ (port n : Nat) (h : Word) (s : State) (x : Ctx), s.io.up.getD port false = true → s.ctx n = some x → x.r.port = port →
    (x.box.tail + 2 ^ 32 - h.toNat) % 2 ^ 32 ≤ 2 ^ x.box.k →
    ∃ u y, exec (.inboxHeadWrite port n h) s = .next u ∧ u.ctx n = some y ∧ y.box.head = h.toNat ∧ y.box.tail = x.box.tail ∧ u.mem = s.mem) ∧
  (∀ (port n i slot q k : Nat) (tag : DWord) (ws : List Word) (s : State) (x : Ctx) (b : Block), s.io.up.getD port false = true →
    s.ctx n = some x → x.r.port = port → x.st = .running → i < 1024 → slot < 0xFFFF → q < 4 → k ≤ 8 → ws.length = 8 →
    tag.toNat / 2 ^ 61 ≠ 7 → s.block slot = some b → b.ctx = n → b.ordered = false → s.launches = [] → s.io.wait = [] → s.io.hwait = [] →
    let c := s.placeCore x b (tag.toNat % 2 ^ 48)
    let bytes := leBytes 8 tag.toNat ++ leBytes 2 slot ++ leBytes 1 q ++ leBytes 1 k ++ leBytes 20 0 ++ ws.flatMap fun w => leBytes 4 w.toNat
    (s.core c).spill.length + (s.core c).arriving.length < 262144 →
    ∃ u t, exec (.apertureWrite port (n * 65536 + i * 64) bytes) s = .next u ∧ (u.core c).arriving = (s.core c).arriving ++ [t] ∧
      t.slot = slot ∧ t.port = q ∧ t.tag = tag ∧ t.pay = ws.take k ∧ t.ctx = n ∧ t.rel = some .sys ∧ t.src = 2 ∧ u.mem = s.mem) ∧
  (∀ (port n : Nat) (bytes : List Byte) (s : State) (x : Ctx), s.io.up.getD port false = true → s.ctx n = some x → x.r.port = port →
    port < s.mgmt.aperr.length → bytes.length ≠ 64 → (s.mgmt.aperr.getD port 0).toNat < 2 ^ 32 - 1 →
    ∃ u, exec (.apertureWrite port (n * 65536) bytes) s = .next u ∧ u.mgmt.aperr.getD port 0 = s.mgmt.aperr.getD port 0 + 1 ∧
      u.cores = s.cores ∧ u.io = s.io)

/-- R5, R6, R283, R285, R322, R363, R366: a host access within a line of its own domain's chunks reads and writes the HBM bytes of a frame
that is not WRITABLE, and the home slice of one that is; one outside them, and a write to a READONLY frame, has no effect on any memory;
a read of the aperture returns zero; CHRONO_LO gives the chronometer's low word and latches its high word, which CHRONO_HI then gives;
DEVSTAT holds the boot error, the hottest die, SECURE and READY, and 0 in its reserved bits; a count takes what is written, with the events of
that ck after it; a register write reaches its own register alone. -/
def Obligations.HostAccesses : Prop :=
  (∀ (port pa : Nat) (bs : List Byte) (s : State), s.io.up.getD port false = true → pa + bs.length ≤ 2 ^ 39 → 0 < bs.length →
    pa % 64 + bs.length ≤ 64 →
    (s.part.chunks.getD (pa / 2 ^ 30) 0 = port + 1 →
      (s.ownerOf pa % 4 ≠ 1 → (∃ t, exec (.hostMemoryAccess port pa (.read bs.length)) s = .next t ∧ t.mem = s.mem ∧
        t.io.reads = s.io.reads ++ [{ port := port, data := Sparse.getRun s.mem.hbm pa bs.length, ep := s.mem.bad.contains (pa / 64), ur := false }])) ∧
      (s.ownerOf pa % 4 = 1 → ∀ u b p, s.homeRead (s.ownerOf pa / 2 ^ 20 % 2 ^ 12) (s.ownerOf pa / 2 ^ 32 * 65536 + pa % 65536) bs.length none
          .read = (u, .data b p) → ∃ t, exec (.hostMemoryAccess port pa (.read bs.length)) s = .next t ∧ t.mem = u.mem ∧
        t.io.reads = s.io.reads ++ [{ port := port, data := b, ep := p, ur := false }]) ∧
      (s.ownerOf pa % 4 = 0 → (∃ t, exec (.hostMemoryAccess port pa (.write bs false)) s = .next t ∧
        Sparse.getRun t.mem.hbm pa bs.length = bs ∧ (∀ a, (a < pa ∨ pa + bs.length ≤ a) → Sparse.get a t.mem.hbm = Sparse.get a s.mem.hbm) ∧
        t.mem.host0 = s.mem.host0 ∧ t.mem.host1 = s.mem.host1 ∧ t.mem.l2 = s.mem.l2)) ∧
      (s.ownerOf pa % 4 = 1 → s.mem.l2.length < 2 ^ 20 → let g := s.ownerOf pa / 2 ^ 20 % 2 ^ 12
        let va := s.ownerOf pa / 2 ^ 32 * 65536 + pa % 65536
        ∃ t, exec (.hostMemoryAccess port pa (.write bs false)) s = .next t ∧ t.mem.hbm = s.mem.hbm ∧
          ∃ p, t.homeRead g va bs.length none .read = (t, .data bs p)) ∧
      (s.ownerOf pa % 4 = 2 → ∃ t, exec (.hostMemoryAccess port pa (.write bs false)) s = .next t ∧ t.mem = s.mem ∧
        t.io.reads = s.io.reads ++ [{ port := port, data := [], ep := false, ur := true }])) ∧
    (s.part.chunks.getD (pa / 2 ^ 30) 0 ≠ port + 1 → ∀ a ∈ [HostAcc.read bs.length, .write bs false],
      ∃ t, exec (.hostMemoryAccess port pa a) s = .next t ∧ t.mem = s.mem ∧
        t.io.reads = s.io.reads ++ [{ port := port, data := [], ep := false, ur := true }])) ∧
  (∀ (port : Nat) (s : State), s.io.up.getD port false = true → port < s.mgmt.latch.length →
    ∃ t, exec (.chronoLoRead port) s = .next t ∧ (t.mgmt.latch.getD port 0).toNat = s.now / 2 ^ 32 % 2 ^ 32 ∧
      t.io.reads = s.io.reads ++ [{ port := port, data := leBytes 4 s.now, ep := false, ur := false }] ∧ t.mem = s.mem) ∧
  (∀ (port off len : Nat) (s : State), s.io.up.getD port false = true → off + len ≤ 2 ^ 22 →
    ∃ t, exec (.hostMemoryAccess port off (.aperture len)) s = .next t ∧ t.mem = s.mem ∧
      t.io.reads = s.io.reads ++ [{ port := port, data := List.replicate len 0, ep := false, ur := false }]) ∧
  (∀ (port : Nat) (s : State), s.io.up.getD port false = true →
    let reads := fun (off v : Nat) => ∃ t, exec (.hostMemoryAccess port off .mailbox) s = .next t ∧ t.mem = s.mem ∧ t.ctxs = s.ctxs ∧
      t.io.reads = s.io.reads ++ [{ port := port, data := leBytes 4 v, ep := false, ur := false }]
    reads 0x2000 (s.mgmt.booterr * 256 + s.mgmt.thermal.foldl max 0 * 4 + (if s.mgmt.secure then 2 else 0) + if s.mgmt.ready then 1 else 0) ∧
    reads 0x2004 s.mgmt.svn ∧ reads 0x200C (s.mgmt.latch.getD port 0).toNat ∧ reads 0x2010 s.mgmt.cecnt.toNat ∧
    reads 0x2014 s.mgmt.uecnt.toNat ∧ reads 0x2018 (s.mgmt.aperr.getD port 0).toNat ∧ reads 0x201C s.mgmt.pktdrop.toNat ∧
    reads 0x2020 s.mgmt.thrcnt.toNat ∧ reads 0x2030 (if s.mgmt.done.getD port false then 2 else 0) ∧ reads 0x8 (s.mbox port).status.toNat ∧
    reads 0xC 0 ∧ ∀ n x, s.ctx n = some x → x.r.port = port → n < 64 → reads (0x1000 + 16 * n) x.box.head ∧
      reads (0x1004 + 16 * n) x.box.tail ∧ reads (0x1008 + 16 * n) x.box.seq ∧ reads (0x100C + 16 * n) 0) ∧
  (∀ (port : Nat) (v : Word) (s : State), s.io.up.getD port false = true →
    let val := fun c : Counter => BitVec.ofNat 32 (min (v.toNat + s.mgmt.eventsAt c s.now) (2 ^ 32 - 1))
    exec (.registerWrite port .cecnt v) s = .next { s with mgmt := { s.mgmt with cecnt := val .cecnt } } ∧
    exec (.registerWrite port .uecnt v) s = .next { s with mgmt := { s.mgmt with uecnt := val .uecnt } } ∧
    exec (.registerWrite port .pktdrop v) s = .next { s with mgmt := { s.mgmt with pktdrop := val .pktdrop } } ∧
    exec (.registerWrite port .thrcnt v) s = .next { s with mgmt := { s.mgmt with thrcnt := val .thrcnt } } ∧
    (∀ n, exec (.registerWrite port (.other n) v) s = .next s) ∧
    (port < s.mgmt.aperr.length → ∃ t, exec (.registerWrite port .aperr v) s = .next t ∧ t.mgmt.aperr.getD port 0 = val (.aperr port) ∧
      ∀ k, k ≠ port → t.mgmt.aperr.getD k 0 = s.mgmt.aperr.getD k 0) ∧
    (port < s.mgmt.nonce.length → ∀ w < 8, ∃ t, exec (.registerWrite port (.attnonce w) v) s = .next t ∧
      ∀ k, Sparse.get k (t.mgmt.nonce.getD port []) = if k = w then v else Sparse.get k (s.mgmt.nonce.getD port [])))

/-- R322, R324, R325, R362: a corrected error is counted; an uncorrectable one marks the line, the register, the word or the code copy it
strikes and is counted but for a code copy (the model's reading, log 38); a die at 100 degrees is throttled, at 110 critical, back at 98 and 108, each change counted
and told to both ports. -/
def Obligations.ErrorsAndHeat : Prop :=
  (∀ (s : State),
    (s.mgmt.cecnt.toNat < 2 ^ 32 - 1 → ∃ t, exec (.eccError .corrected) s = .next t ∧ t.mgmt.cecnt = s.mgmt.cecnt + 1 ∧ t.mem = s.mem ∧
      t.cores = s.cores) ∧
    (s.mgmt.uecnt.toNat < 2 ^ 32 - 1 →
      (∀ line < 2 ^ 33, ∃ t, exec (.eccError (.hbm line)) s = .next t ∧ line ∈ t.mem.bad ∧ t.mgmt.uecnt = s.mgmt.uecnt + 1 ∧
        t.mem.hbm = s.mem.hbm) ∧
      (∀ (l : L2Line), l ∈ s.mem.l2 → ∃ t, exec (.eccError (.l2 l.asid l.line)) s = .next t ∧ { l with poison := true } ∈ t.mem.l2 ∧
        t.mgmt.uecnt = s.mgmt.uecnt + 1) ∧
      (∀ (r : PackRef) (p : Pack) (reg lane : Nat), s.pack r = some p → reg ≠ 0 →
        (∃ t q, exec (.eccError (.laneReg r reg lane)) s = .next t ∧ t.pack r = some q ∧ reg * 32 + lane ∈ q.r.vBad ∧ q.r.v = p.r.v ∧
          t.mgmt.uecnt = s.mgmt.uecnt + 1) ∧
        (∃ t q, exec (.eccError (.uniReg r reg)) s = .next t ∧ t.pack r = some q ∧ reg ∈ q.r.sBad ∧ q.r.s = p.r.s) ∧
        (∃ t q, exec (.eccError (.frame r lane)) s = .next t ∧ t.pack r = some q ∧ lane ∈ q.m.frameBad ∧ q.m.frame = p.m.frame))) ∧
    (s.mgmt.uecnt.toNat < 2 ^ 32 - 1 → ∀ core pipe k,
      (core < 192 → pipe < 4 → k < 16 → ∃ t, exec (.eccError (.tile core pipe k)) s = .next t ∧ ((t.core core).tile pipe k).poison = true ∧
        ((t.core core).tile pipe k).data = ((s.core core).tile pipe k).data ∧ t.mgmt.uecnt = s.mgmt.uecnt + 1) ∧
      (192 ≤ core → exec (.eccError (.tile core pipe k)) s = .next s)) ∧
    (∀ core slot, core < 192 → ∃ t, exec (.eccError (.code core slot)) s = .next t ∧ slot ∈ (t.core core).st.codeBad ∧ t.mgmt = s.mgmt)) ∧
  (∀ (die temp : Nat) (s : State), die < 4 → s.mgmt.thermal.length = 4 → let cur := s.mgmt.thermal.getD die 0
    let new := if 110 ≤ temp ∨ cur = 2 ∧ 108 < temp then 2 else if 100 ≤ temp ∨ 1 ≤ cur ∧ 98 < temp then 1 else 0
    (new ≠ cur → s.mgmt.thrcnt.toNat < 2 ^ 32 - 1 → ∃ t, exec (.thermalStateChange die temp) s = .next t ∧ t.mgmt.thermal.getD die 0 = new ∧
      t.mgmt.thrcnt = s.mgmt.thrcnt + 1 ∧ t.io.msix = s.io.msix ++ [(0, 0), (1, 0)]) ∧
    (new = cur → exec (.thermalStateChange die temp) s = .next s))

/-- R363 to R368: device reset leaves the reset state but for host memory, the fused version and the model's schedule; DEVICE_READY, after
the other steps of bring-up, makes the mailboxes accept commands; a port's reset touches no context, and its latch reads 0 after it (the
model's reading of its window state, log 39); a firmware image that fails a check leaves SECURE 0 and its code, one that passes its version,
and neither takes away a boot error of a later step (log 72); an attestation report is queued once for a port, and holds its magic, the nonce and the version. -/
def Sys2Proof.Claims.FirmwareAndAttestation : Prop :=
  (∀ (s : State), ∃ t, exec .deviceReset s = .next t ∧ t.cores = [] ∧ t.ctxs = [] ∧ t.blocks = [] ∧ t.images = [] ∧ t.launches = [] ∧
    t.part = Part.reset ∧ t.now = 0 ∧ t.mem.hbm = [] ∧ t.mem.l2 = [] ∧ t.mem.owner = [] ∧ t.mem.host0 = s.mem.host0 ∧
    t.mem.host1 = s.mem.host1 ∧ t.mgmt.ready = false ∧ t.mgmt.cecnt = 0 ∧ t.mgmt.svnFused = s.mgmt.svnFused) ∧
  (∀ (s : State), s.mgmt.ready = false → s.mgmt.booterr = 0 → 5 ≤ s.mgmt.boot →
    ∃ t, exec .deviceReady s = .next t ∧ t.mgmt.ready = true ∧ t.mgmt.secure = s.mgmt.secure ∧ t.io.up = s.io.up ∧ t.cores = s.cores ∧
      t.ctxs = s.ctxs ∧ t.io.msix = s.io.msix ++ [(0, 0), (1, 0)] ∧ ∀ b ∈ t.io.mbox, b.status.getLsbD 15 = false) ∧
  (∀ (port : Nat) (s : State), ∃ t, exec (.portReset port) s = .next t ∧ t.ctxs = s.ctxs ∧ t.cores = s.cores ∧ t.mem = s.mem ∧
    t.mgmt.latch.getD port 0 = 0) ∧
  (∀ (i : FwImage) (s : State),
    let signed := Config.sha256 i.pubKey = Config.fusedKeyHash ∧ Config.slhVerify i.pubKey i.body i.sig = true
    let low := max Config.fusedMinSvn s.mgmt.svnFused
    (¬signed → ∃ t, exec (.firmwareImageUpdate i) s = .next t ∧ t.mgmt.booterr = (if s.mgmt.booterr ≤ 2 then 1 else s.mgmt.booterr) ∧ t.mgmt.secure = false ∧ t.mgmt.svn = s.mgmt.svn) ∧
    (signed → i.svn < low → ∃ t, exec (.firmwareImageUpdate i) s = .next t ∧ t.mgmt.booterr = (if s.mgmt.booterr ≤ 2 then 2 else s.mgmt.booterr) ∧ t.mgmt.secure = false ∧
      t.mgmt.svn = s.mgmt.svn) ∧
    (signed → low ≤ i.svn → ∃ t, exec (.firmwareImageUpdate i) s = .next t ∧ (s.mgmt.booterr ≤ 2 → t.mgmt.booterr = 0) ∧ t.mgmt.secure = true ∧
      t.mgmt.svn = i.svn ∧ t.mgmt.svnFused = if i.raise then max s.mgmt.svnFused i.svn else s.mgmt.svnFused)) ∧
  (∀ (port : Nat) (rest : List Nat) (s : State), port < s.mgmt.done.length →
    (s.io.up.getD port false = true → port ∉ s.mgmt.queue →
      ∃ t, exec (.attestationGo port) s = .next t ∧ t.mgmt.queue = s.mgmt.queue ++ [port] ∧ t.mgmt.done.getD port true = false) ∧
    (s.io.up.getD port false = true → port ∈ s.mgmt.queue → exec (.attestationGo port) s = .next s) ∧
    (s.mgmt.queue = port :: rest →
      ∃ t rep, exec .attestationDone s = .next t ∧ t.mgmt.queue = rest ∧ t.mgmt.done.getD port false = true ∧
        t.mgmt.reports.find port = some rep ∧ rep.take 8 = leBytes 4 0x41543445 ++ leBytes 4 1 ∧
        (∀ k < 8, leNat ((rep.drop (16 + 4 * k)).take 4) = (Sparse.get k (s.mgmt.nonce.getD port [])).toNat) ∧
        leNat ((rep.drop 80).take 4) = s.mgmt.svn % 2 ^ 32))

/-- R189, R272, R331, R337, R338: a miss on a dropped tile joins its Retriever's queue, or is tried again 64 ck later where that is full; the
Retriever takes the head of its queue, marks each resident source busy, and with a free frame and colour puts the tile in REGEN and injects
the entry token at level 7; an evictor below its low-water mark drops a sealed tile, and at or above it does nothing. -/
def Obligations.EvictionAndRegenerationStart : Prop :=
  (∀ (die : Nat) (s : State) (m : Miss) (more : List Miss) (x : Ctx) (t : Rec), s.misses = m :: more → m.die = die →
    s.ctx m.ctx = some x → x.recipes.find m.rix = some t → t.st = .dropped → s.queued m.ctx m.rix = false →
    let comes := fun i : Instr =>
      ((s.retriever die).queue.length < 256 → ∃ u, exec i s = .next u ∧ u.misses = more ∧
        (u.retriever die).queue = (s.retriever die).queue ++ [(m.ctx, m.rix)] ∧ (u.retriever die).stack = (s.retriever die).stack) ∧
      (256 ≤ (s.retriever die).queue.length → ∃ u, exec i s = .next u ∧ u.misses = { m with retry := some (s.now + 64) } :: more ∧
        u.retr = s.retr)
    (m.retry = none → comes (.recipeMiss die 0)) ∧ (∀ k, m.retry = some k → k ≤ s.now → comes (.missRetry 0))) ∧
  (∀ (die n i : Nat) (s : State) (rest : List (Nat × Nat)) (x : Ctx) (t : Rec), s.ctx n = some x → x.recipes.find i = some t →
    ((s.retriever die).stack = [] → (s.retriever die).queue = (n, i) :: rest → t.st = .dropped → s.retr.all (fun e => e.2.stack.isEmpty) = true →
      ∃ u g, exec (.regenerationStart die) s = .next u ∧ (u.retriever die).queue = rest ∧ (u.retriever die).stack = [g] ∧ g.ctx = n ∧
        g.rix = i ∧ g.done = 0 ∧ g.phase = .sources) ∧
    (∀ g gs, (s.retriever die).stack = g :: gs → g.ctx = n → g.rix = i → g.phase = .sources →
      (∀ j w, t.sources[g.done]? = some j → x.recipes.find j = some w → w.st = .sealed →
        ∃ u y, exec (.regenerationStart die) s = .next u ∧ (u.retriever die).stack = { g with done := g.done + 1 } :: gs ∧
          u.ctx n = some y ∧ y.recipes.find j = some { w with busy := w.busy + 1 }) ∧
      (t.sources.length ≤ g.done → ∃ u, exec (.regenerationStart die) s = .next u ∧
        (u.retriever die).stack = { g with phase := .frame, since := s.now } :: gs)) ∧
    (∀ g gs f c b, (s.retriever die).stack = g :: gs → g.ctx = n → g.rix = i → g.phase = .frame → t.st = .dropped → x.st = .running →
      s.freeFrame x.r.asid = some f → c < 8192 → c ∉ s.level7 → (∀ d < c, d ∈ s.level7) → s.block t.entry = some b → b.ctx = n →
      b.ordered = false →
      let core := s.placeCore x b 0
      ∃ u y w a, exec (.regenFrameTake die) s = .next u ∧ u.ctx n = some y ∧ y.recipes.find i = some w ∧ w.st = .regen ∧
        u.level7 = s.level7 ++ [c] ∧ (u.retriever die).colour = some c ∧
        (u.retriever die).stack = { g with phase := .running, frame := f, since := s.now } :: gs ∧
        u.ownerOf f = t.tile / 65536 % 2 ^ 32 * 2 ^ 32 + x.r.asid % 2 ^ 12 * 2 ^ 20 + 1 ∧
        (u.core core).arriving = (s.core core).arriving ++ [a] ∧ a.slot = t.entry ∧ a.port = 0 ∧
        a.tag.toNat = 7 * 2 ^ 61 + c * 2 ^ 48 ∧ a.pay = two t.tile ++ t.params)) ∧
  (∀ (stack : Nat) (s : State), s.part.low.getD stack 0 ≤ s.freeFrames stack → exec (.evictorRun stack) s = .next s) ∧
  (∀ (stack n i at_ v : Nat) (s : State) (x : Ctx) (t : Rec), Memory.wf s.mem = true → s.freeFrames stack < s.part.low.getD stack 0 →
    s.part.high.getD stack 0 = s.freeFrames stack + 1 → s.ctxs = [(n, x)] → x.recipes = [(i, t)] → t.st = .sealed → t.depth ≤ 4 →
    t.pins = 0 → t.pinners = 0 → t.busy = 0 → s.mem.l2 = [] → s.walk x.root t.tile = .leaf at_ v false → v.testBit 6 = false → v.testBit 5 = true →
    let pa := leafPa v false t.tile
    pa < 2 ^ 39 → pa / 2 ^ 36 % 8 = stack → s.ownerOf pa % 4 ≠ 0 → s.ownerOf pa / 2 ^ 20 % 4096 ≠ 0 → 0 < s.freeFrames stack →
    ∃ u y, exec (.evictorRun stack) s = .next u ∧ u.ctx n = some y ∧ y.recipes = [(i, { t with st := .dropped })] ∧ u.ownerOf pa % 4 = 0 ∧
      (u.entry64 at_).testBit 50 = true ∧ u.entry64 at_ % 2 = 0)

/-- R334 to R336, R339, R340: with nothing of its colour moving, a recompute's binned groups become eligible; with no instance left it is
complete; after 1,024 ck a matching CRC seals the tile again on its frame with a read-only leaf, and one that differs makes it FAILED and
sends the divergence fault of kind 1; a full share with no group that can fire fails with kind 4. -/
def Obligations.RecomputesEnd : Prop :=
  ∀ (die c : Nat) (s : State) (g : Regen) (gs : List Regen), (s.retriever die).colour = some c → (s.retriever die).stack = g :: gs →
    (g.phase = .running → s.liveCount c = 0 →
      (∃ t, exec (.quiescentClose die) s = .next t ∧ t.mem = s.mem ∧ ∀ k, ∀ e ∈ (t.core k).entries, e.st = .binned →
        e.tag.toNat / 2 ^ 61 = 7 → e.tag.toNat / 2 ^ 48 % 2 ^ 13 = c → (c, e.slot, e.tag.toNat % 2 ^ 48 / 32) ∈ (t.core k).quiet) ∧
      ((∀ e ∈ s.cores, ∀ y ∈ e.2.entries, y.tag.toNat / 2 ^ 61 = 7 → y.tag.toNat / 2 ^ 48 % 2 ^ 13 ≠ c) →
        ∃ t, exec (.recomputeComplete die) s = .next t ∧ (t.retriever die).stack = { g with phase := .complete, since := s.now } :: gs)) ∧
    (∀ x r at_ k, g.phase = .complete → g.since + 1024 ≤ s.now → s.ctx g.ctx = some x → x.recipes.find g.rix = some r →
      s.walk x.root r.tile = .recipe at_ k → g.frame % 65536 = 0 → g.frame < 2 ^ 39 →
      (∀ e ∈ s.cores, (∀ q ∈ e.2.slots, q.2.parked = false) ∧ ∀ q ∈ e.2.copies, q.2.parked = []) →
      let crc := crc32c (s.regenBytes x.r.asid r.tile g.frame c)
      let done := fun (t : State) (st : RecSt) => (t.retriever die).stack = gs ∧ (t.retriever die).colour = none ∧ c ∉ t.level7 ∧
        (∃ y w, t.ctx g.ctx = some y ∧ y.recipes.find g.rix = some w ∧ w.st = st) ∧ t.entry64 at_ % 16 = 3 ∧
        t.entry64 at_ / 65536 * 65536 = g.frame ∧ t.ownerOf g.frame % 4 = 2 ∧ t.ownerOf g.frame / 256 % 4096 = 1
      (crc = r.crc → ∃ t, exec (.recomputeCrcCheck die) s = .next t ∧ done t .sealed) ∧
      (crc ≠ r.crc → x.onFault = none → x.box.places.length < 64 →
        ∃ t y o, exec (.recomputeCrcCheck die) s = .next t ∧ done t .failed ∧ t.ctx g.ctx = some y ∧
          y.box.places = x.box.places ++ [o] ∧ o.pay.getD 0 0 = 0xFFFFFFFF ∧ o.pay.getD 1 0 = BitVec.ofNat 32 (38 + 256) ∧
          ∀ i < 1024, g.frame / 64 + i ∈ t.mem.bad)) ∧
    (∀ core k t, g.phase = .running → s.retrOf c = some (die, s.retriever die) → (core, k) ∈ s.cores → s.core core = k →
      (∀ e ∈ s.cores, (∀ p ∈ e.2.packs, p.2.id.colour ≠ some c) ∧ (∀ o ∈ e.2.outbound, o.tok.ofColour c = false) ∧
        (∀ o ∈ e.2.arriving, o.ofColour c = false) ∧ ∀ q ∈ e.2.copies, q.2.colour ≠ some c) →
      k.spill.find? (fun o => o.ofColour c) = some t → 48 ≤ (k.ofColour c).length → (∀ e ∈ k.ofColour c, e.st ≠ .part) →
      (∀ y ∈ s.cands core, y.tier = 2 → y.key.2.2.2.1 % 2 ^ 13 ≠ c) →
      ∃ u, exec (.widthFailure die) s = .next u ∧ (u.retriever die).stack = { g with phase := .failed 4 0 } :: gs ∧ u.mem = s.mem)
/-! ### The mailbox, the loader and launches -/

namespace Sys2Proof.Claims

/-- The port's mailbox takes a command (R291). -/
def Idle (s : State) (c : Cmd) : Prop := c.port < 2 ∧ s.io.mbox.length = 2 ∧ (s.mbox c.port).status.getLsbD 15 = false

/-- Only bytes of the listed ranges of ARGS are not zero (R293). -/
def Only (c : Cmd) (listed : List (Nat × Nat)) : Prop := ∀ e ∈ c.args, e.2 ≠ 0 → ∃ r ∈ listed, r.1 ≤ e.1 ∧ e.1 < r.1 + r.2

/-- The context of a command is the port's (R291). -/
def Mine (s : State) (c : Cmd) (x : Ctx) : Prop := s.ctx c.ctx = some x ∧ x.r.port = c.port

/-- The command ends: STATUS echoes the tag beside a status, with busy clear, and vector 0 fires (R291). -/
def Ended (s : State) (port tag st : Nat) (t : State) : Prop :=
  (t.mbox port).status.toNat = tag % 65536 * 65536 + st ∧ t.io.msix = s.io.msix ++ [(port, 0)]

/-- The command runs to its end at once. -/
def Says (s : State) (c : Cmd) (i : Instr) (st : Nat) (Q : State → Prop) : Prop :=
  ∃ t, exec i s = .next t ∧ Ended s c.port c.tag st t ∧ Q t

/-- The command is accepted and stands: the mailbox is busy with its tag, and no vector fires. -/
def Stands (s : State) (c : Cmd) (i : Instr) (Q : State → Prop) : Prop :=
  ∃ t, exec i s = .next t ∧ (t.mbox c.port).status.getLsbD 15 = true ∧ (t.mbox c.port).cmd / 65536 = c.tag % 65536 ∧ t.io.msix = s.io.msix ∧ Q t

/-- A command that waits in a port's mailbox ends later. -/
def Closes (s : State) (i : Instr) (port st : Nat) (Q : State → Prop) : Prop :=
  ∃ t, exec i s = .next t ∧ Ended s port ((s.mbox port).cmd / 65536) st t ∧ Q t

/-- A number in a mailbox's ARGS. -/
def res (t : State) (port off n : Nat) : Nat := leNat (Sparse.getRun (t.mbox port).args off n)

/-- The five forms of MAP: the HCMD code in ARGS says what each of them does (R279, R293). -/
def maps (c : Cmd) : List Instr := [.map c, .mapUnmap c, .mapProtect c, .mapQuery c, .mapTcflush c]

/-- The ranges of ARGS that MAP lists: the mask stands with code 5 alone (R279, R293). -/
def mapArgs (c : Cmd) : List (Nat × Nat) := if argNat c 0 1 = 5 then [(0, 2), (4, 36)] else [(0, 1), (4, 36)]

/-- The commands that name a context, each with the ranges of ARGS that it lists (R292, R293). -/
def named (c : Cmd) : List (Instr × List (Nat × Nat)) :=
  ((maps c).map fun i => (i, mapArgs c)) ++ [(.destroy c, []), (.region c, [(0, 1), (8, 8)]), (.grant c, [(0, 12)]), (.load c, [(0, 12), (16, 8)]),
   (.unload c, [(0, 4)]), (.launch c, [(0, 24)]), (.close c, [(0, 3), (4, 32)]), (.retire c, [(0, 2)]), (.preempt c, [(0, 9)]),
   (.resume c, [(0, 24)])]

/-- The other commands of R292. -/
def unnamed (c : Cmd) : List (Instr × List (Nat × Nat)) :=
  [(.create c, [(0, 3), (4, 36), (40, 9), (56, 16)]), (.checkpoint c, [(0, 48)]), (.partition c, [(0, 8)])]

/-- The packets that wait for, or stand in, the links. -/
def packets (s : State) : List Pkt := s.io.held ++ s.io.links.flatMap fun e => e.2.queue ++ e.2.replay

/-- A packet of a body goes to the links, for a node on a channel. -/
def Sends (t : State) (dest vc : Nat) (body : PktBody) : Prop := ∃ q ∈ packets t, q.dest = dest ∧ q.vc = vc ∧ q.body = body

/-- A range lies in the port's window of host memory (R284, R286). -/
def Inside (s : State) (port off len : Nat) : Prop := off + len ≤ s.winSize port ∧ off + len ≤ 2 ^ 50

/-- The lowest number of which a condition holds. -/
def Least (n : Nat) (f : Nat → Prop) : Prop := f n ∧ ∀ m < n, ¬f m

end Sys2Proof.Claims

/-- R291 to R293: a command while busy is ignored; one on a context that the port does not own gets status 2, one with a reserved byte
that is not zero status 3, and so does a code that none of the 14 commands has; none of these changes anything but its mailbox. The event of
an unknown command is none where its code is 1 to 14. -/
def Sys2Proof.Claims.MailboxCommands : Prop :=
  ∀ (c : Cmd) (s : State) (code : Nat),
    (c.port < 2 → (s.mbox c.port).status.getLsbD 15 = true → ∀ e ∈ (Instr.mailboxUnknownCommand code c, []) :: named c ++ unnamed c,
      exec e.1 s = .next s) ∧
    (Idle s c →
      let same := fun t : State => t.mem = s.mem ∧ t.cores = s.cores ∧ t.ctxs = s.ctxs ∧ t.part = s.part ∧ t.launches = s.launches ∧
        (t.mbox c.port).args = c.args
      ((∀ x, s.ctx c.ctx = some x → x.r.port ≠ c.port) → ∀ e ∈ named c, Says s c e.1 2 same) ∧
      (∀ x, Mine s c x → ∀ e ∈ named c, ¬Only c e.2 → Says s c e.1 3 same) ∧
      (∀ e ∈ unnamed c, ¬Only c e.2 → Says s c e.1 3 same) ∧
      (¬(1 ≤ code % 256 ∧ code % 256 ≤ 14) → Says s c (.mailboxUnknownCommand code c) 3 same) ∧
      (1 ≤ code % 256 ∧ code % 256 ≤ 14 → exec (.mailboxUnknownCommand code c) s = .next s))

/-- R216, R255, R258, R260, R267, R273 to R275, R284, R289, R292, R293, R307: CREATE makes the lowest free number a running context with the
lowest free ASID and the registers its arguments give; REGION writes one entry, or refuses one out of form; GRANT sets the ASID in every frame
of the range, or in none; PARTITION writes the table from port 0 with no context resident, and is refused where one stands on a
core that changes hands. The model's choices in it: that the number and the ASID are the lowest free ones is log 30, status 3 for an area
outside the port's window log 73, and status 3 for a reserved bit or byte of the table image that is not zero log 65. -/
def Obligations.ContextAndPartitionCommands : Prop :=
  ∀ (c : Cmd) (s : State), Idle s c →
    (let list := bitsOf (argNat c 16 24) 192
     let form := argNat c 0 1 < 4 ∧ 1 ≤ argNat c 1 1 ∧ argNat c 1 1 ≤ 15 ∧ argNat c 2 1 < 8 ∧ argNat c 12 4 ≠ 0 ∧ argNat c 16 24 ≠ 0 ∧
       argNat c 40 8 % 4096 = 0 ∧ 8 ≤ argNat c 48 1 ∧ argNat c 48 1 ≤ 20 ∧ argNat c 56 8 % 65536 = 0 ∧ argNat c 64 8 % 65536 = 0 ∧
       Inside s c.port (argNat c 40 8) (2 ^ argNat c 48 1 * 64) ∧ Inside s c.port (argNat c 56 8) (argNat c 64 8)
     Only c [(0, 3), (4, 36), (40, 9), (56, 16)] →
     (¬form → Says s c (.create c) 3 fun t => t.ctxs = s.ctxs) ∧
     (form → (∃ k ∈ list, s.part.cores.getD k 0 ≠ c.port + 1) → Says s c (.create c) 2 fun t => t.ctxs = s.ctxs) ∧
     (∀ n a d, form → (∀ k ∈ list, s.part.cores.getD k 0 = c.port + 1) → n < 64 → Least n (fun m => s.ctx m = none) → a < 4096 →
       Least a (fun m => m ≠ 0 ∧ ∀ e ∈ s.ctxs, e.2.r.asid ≠ m) → s.part.dom[c.port]? = some d → d.enabled = true →
       (s.ctxs.filter fun e => e.2.r.port == c.port).length < d.limit →
       argNat c 12 4 + list.length < (s.fwPages (argNat c 12 4 + list.length + 1)).length →
       Says s c (.create c) 0 fun t => res t c.port 0 4 = n ∧ res t c.port 4 4 = a ∧ t.cores = s.cores ∧ (∀ m, m ≠ n → t.ctx m = s.ctx m) ∧
         ∃ y, t.ctx n = some y ∧ y.st = .running ∧ y.cores = list ∧ y.r.asid = a ∧ y.r.port = c.port ∧ y.r.cls = argNat c 0 1 ∧
           y.r.weight = argNat c 1 1 ∧ y.r.priv = argNat c 2 1 ∧ y.r.fpctl.toNat = argNat c 4 4 % 8 ∧
           y.r.trapen.toNat = argNat c 8 4 &&& 0x67 ∧ y.r.flags = 0 ∧ y.box.base = argNat c 40 8 ∧ y.box.k = argNat c 48 1 ∧
           y.privSize = argNat c 12 4 * 2 ^ 21 ∧ y.regions = [] ∧ y.pools = [])) ∧
    (∀ x, Mine s c x → Only c [(0, 1), (8, 8)] →
      let n := argNat c 0 1
      let e := argNat c 8 8
      let size := 2 ^ (e / 32 % 32 + 16)
      let ok := n < 64 ∧ e < 2 ^ 48 ∧ e / 1024 % 64 = 0 ∧ e.testBit 4 = false ∧ e / 65536 * 65536 % size = 0 ∧
        e / 65536 * 65536 + size ≤ 0xF00000000000
      (ok → Says s c (.region c) 0 fun t => t.mem = s.mem ∧ ∃ y, t.ctx c.ctx = some y ∧
        ∀ m, y.regions.find m = if m = n then some (BitVec.ofNat 64 e) else x.regions.find m) ∧
      (¬ok → Says s c (.region c) 3 fun t => t.ctxs = s.ctxs)) ∧
    (∀ x, Mine s c x → Only c [(0, 12)] →
      let n := argNat c 8 4
      let frame := fun i : Nat => argNat c 0 8 + i * 65536
      let home := fun i : Nat => s.part.chunks.getD (frame i / 2 ^ 30) 0 = c.port + 1
      let free := fun i : Nat => s.ownerOf (frame i) % 4 = 0 ∧ s.ownerOf (frame i) / 2 ^ 20 % 4096 = 0
      argNat c 0 8 % 65536 = 0 → n ≠ 0 → frame n ≤ 2 ^ 39 →
      ((∀ i < n, home i ∧ free i) → Says s c (.grant c) 0 fun t => (∀ i < n, t.ownerOf (frame i) = x.r.asid % 4096 * 2 ^ 20) ∧
        t.mem.hbm = s.mem.hbm ∧ ∀ k, (∀ i < n, k ≠ frame i / 65536) → Sparse.get k t.mem.owner = Sparse.get k s.mem.owner) ∧
      (∀ i < n, ¬home i → (∀ j < i, home j ∧ free j) → Says s c (.grant c) 2 fun t => t.mem = s.mem) ∧
      (∀ i < n, home i → ¬free i → (∀ j < i, home j ∧ free j) → Says s c (.grant c) 5 fun t => t.mem = s.mem)) ∧
    (Only c [(0, 8)] →
      let b := s.hostRead 0 (argNat c 0 8) 768
      let at_ := fun o n : Nat => leNat ((b.drop o).take n)
      let form := argNat c 0 8 + 768 ≤ s.winSize 0 ∧ at_ 1 1 + at_ 33 1 ≤ 64 ∧ (∀ k < 704, at_ (64 + k) 1 < 4) ∧ ∀ o ∈ [0, 32],
        at_ o 1 < 2 ∧ at_ (o + 2) 6 = 0 ∧ at_ (o + 8) 8 % 4096 = 0 ∧ at_ (o + 16) 8 % 4096 = 0 ∧ at_ (o + 24) 8 = 0
      let fwHeld := fun g : Nat => s.part.chunks.getD g 0 = 3 ∧ (g = 448 ∨ (∃ p ∈ s.part.kept, g = p / 512) ∨ (∃ f ∈ s.part.small, g = f / 2 ^ 14) ∨ ∃ e ∈ s.mem.owner, g = e.1 / 2 ^ 14)
      (c.port = 1 → Says s c (.partition c) 2 fun t => t.part = s.part) ∧
      (c.port = 0 → (¬form ∨ ∃ g, fwHeld g ∧ at_ (256 + g) 1 ≠ 3) → Says s c (.partition c) 3 fun t => t.part = s.part) ∧
      (c.port = 0 → form → (∀ g, fwHeld g → at_ (256 + g) 1 = 3) → s.ctxs = [] → Says s c (.partition c) 0 fun t => t.mem = s.mem ∧ (∀ k < 192, t.part.cores.getD k 0 = at_ (64 + k) 1) ∧
        (∀ g < 512, t.part.chunks.getD g 0 = at_ (256 + g) 1) ∧ ∀ p < 2, ∃ d, t.part.dom[p]? = some d ∧
          d = { enabled := at_ (32 * p) 1 % 2 == 1, limit := at_ (32 * p + 1) 1, base := at_ (32 * p + 8) 8, size := at_ (32 * p + 16) 8 }) ∧
      (∀ n x k, c.port = 0 → form → (∀ g, fwHeld g → at_ (256 + g) 1 = 3) → (n, x) ∈ s.ctxs → x.r.port < 2 → s.part.cores.length = 192 → k < 192 →
        (at_ (64 + k) 1 = x.r.port + 1 ↔ s.part.cores.getD k 0 ≠ x.r.port + 1) → Says s c (.partition c) 5 fun t => t.part = s.part))

/-- R278, R279, R292, R293, R349: MAP acts as the firmware on the pages of its block, as HCMD does, by the HCMD code in its ARGS: the mailbox
status is 0, and the word at 0 counts the pages done in bits above 7 beside the code that stopped it; a query returns the leaf at
8; a context that does not run gives 5. Status 3 for a code that is none of HCMD's is the model's reading (DEDUCED, log 46). -/
def Sys2Proof.Claims.MapCommand : Prop :=
  ∀ (c : Cmd) (s : State) (x : Ctx), Idle s c → Mine s c x →
    let o : PageOwner := { ctx := c.ctx, asid := x.r.asid, root := x.root, fw := true }
    let u := s.mboxStart 5 c
    let page := (HBlock.ofNat (argNat c 8 32)).page
    let n := argNat c 4 4
    Only c (mapArgs c) → ∀ i ∈ maps c,
      (x.st ≠ .running → Says s c i 5 fun t => t.mem = s.mem) ∧
      (x.st = .running → argNat c 0 1 ∉ [1, 2, 3, 4, 5] → Says s c i 3 fun t => t.mem = s.mem) ∧
      (x.st = .running → ∀ e ∈ [(HOp.map, 1), (.unmap, 2), (.protect, 3)], argNat c 0 1 = e.2 →
        (n = 0 → Says s c i 0 fun t => t.mem = s.mem ∧ res t c.port 0 4 = 0) ∧
        (∀ r : Nat → State, r 0 = u → (∀ j < n, (r j).pageOp e.1 o (page j) = (r (j + 1), 0)) → n < 2 ^ 24 →
          Says s c i 0 fun t => t.mem = (r n).mem ∧ t.ctxs = (r n).ctxs ∧ res t c.port 0 4 = n * 256) ∧
        (∀ (r : Nat → State) (k code : Nat), r 0 = u → k < n → (∀ j < k, (r j).pageOp e.1 o (page j) = (r (j + 1), 0)) → code ≠ 0 →
          (r k).pageOp e.1 o (page k) = (r (k + 1), code) → k < 2 ^ 24 → code < 256 →
          Says s c i 0 fun t => t.mem = (r (k + 1)).mem ∧ res t c.port 0 4 = k * 256 + code)) ∧
      (x.st = .running → argNat c 0 1 = 4 → (page 0).attr < 16 → (page 0).va % (page 0).size = 0 → (page 0).va < 0xF00000000000 →
        (∀ (l v : Nat) (z : Bool), u.walk x.root (page 0).va = .leaf l v z → v < 2 ^ 64 →
          Says s c i 0 fun t => t.mem = s.mem ∧ res t c.port 0 4 = 256 ∧ res t c.port 8 8 = v) ∧
        (∀ e, u.walk x.root (page 0).va = .none e →
          Says s c i 0 fun t => t.mem = s.mem ∧ res t c.port 0 4 = 0 ∧ res t c.port 8 8 = 0)) ∧
      (x.st = .running → argNat c 0 1 = 5 → let m := argNat c 1 1
        (2 ^ 132 ≤ argNat c 8 32 → Says s c i 0 fun t => t.mem = s.mem ∧ res t c.port 0 4 = 3) ∧
        (argNat c 8 32 < 2 ^ 132 → Says s c i 0 fun t => t.mem.hbm = s.mem.hbm ∧ t.mem.l2 = s.mem.l2 ∧ t.ctxs = s.ctxs ∧ res t c.port 0 4 = 0 ∧
          ∀ e, e ∈ t.mem.tc ↔ e ∈ s.mem.tc ∧ ¬(e.asid = x.r.asid ∧ (m = 0 ∨ m.testBit e.unit = true))))

/-- R28, R68 to R72, R259, R291 to R293: LOAD of an image that passes every check stands in the busy mailbox with free slots and a handle set
aside; one that fails gets status 5 with the reason, block and place, and binds nothing; a range outside every region with X is refused before
it is read. A slot map outside the window gives 3, and which slots are taken is open (logs 30, 73). -/
def Sys2Proof.Claims.LoadChecks : Prop :=
  ∀ (c : Cmd) (s : State) (x : Ctx), Idle s c → Mine s c x → x.st = .running →
    (Only c [(0, 12), (16, 8)] → argNat c 0 8 % 64 = 0 → argNat c 16 8 % 4 = 0 →
      (∀ off, x.notCode (argNat c 0 8) (argNat c 8 4) = some off → Says s c (.load c) 5 fun t => t.mem = s.mem ∧ t.blocks = s.blocks ∧
        t.images = s.images ∧ res t c.port 0 4 = 9 ∧ res t c.port 4 4 = 0xFFFFFFFF) ∧
      (∀ u v bs, x.notCode (argNat c 0 8) (argNat c 8 4) = none →
        s.readImage x.r.asid (argNat c 0 8) ((argNat c 8 4 + 63) / 64) 0 = (v, .bytes bs) →
        (s.mboxStart 6 c).readImage x.r.asid (argNat c 0 8) ((argNat c 8 4 + 63) / 64) 0 = (u, .bytes bs) →
        u.io = (s.mboxStart 6 c).io → u.blocks = s.blocks → u.images = s.images → u.ctxs = s.ctxs →
        let b := bs.take (argNat c 8 4)
        let at_ := fun o n : Nat => leNat ((b.drop o).take n)
        (64 ≤ b.length → at_ 0 4 ≠ 0x49473445 → Says s c (.load c) 5 fun t => t.blocks = s.blocks ∧ t.images = s.images ∧
          res t c.port 0 4 = 1 ∧ res t c.port 4 4 = 0xFFFFFFFF ∧ res t c.port 8 4 = 0) ∧
        (64 ≤ b.length → at_ 0 4 = 0x49473445 → at_ 4 2 = 1 → at_ 60 4 ≠ crc32c (b.take 60 ++ List.replicate 4 0 ++ b.drop 64) →
          Says s c (.load c) 5 fun t => t.blocks = s.blocks ∧ res t c.port 0 4 = 1 ∧ res t c.port 8 4 = 60) ∧
        (∀ e, u.imageBad x b = some e → e.reason < 2 ^ 32 → e.block < 2 ^ 32 → e.index < 2 ^ 32 → Says s c (.load c) 5 fun t =>
          t.blocks = s.blocks ∧ t.images = s.images ∧ res t c.port 0 4 = e.reason ∧ res t c.port 4 4 = e.block ∧ res t c.port 8 4 = e.index) ∧
        (∀ h, u.imageBad x b = none → u.part = s.part → h < 65536 →
          Least h (fun m => s.images.find m = none ∧ ∀ e ∈ s.io.loads, e.2.handle ≠ m) →
          let n := at_ 8 2
          let slots := s.freeSlots n
          (¬Inside s c.port (argNat c 16 8) (2 * n) → Says s c (.load c) 3 fun t => t.blocks = s.blocks ∧ t.images = s.images) ∧
          (Inside s c.port (argNat c 16 8) (2 * n) → slots.length < n → Says s c (.load c) 4 fun t => t.blocks = s.blocks ∧ t.images = s.images) ∧
          (Inside s c.port (argNat c 16 8) (2 * n) → slots.length = n → Stands s c (.load c) fun t => t.blocks = s.blocks ∧ t.images = s.images ∧
            t.io.loads.find c.port = some { cmd := c, image := some b, slots, handle := h }))))

/-- R28, R68 to R72, R234, R240, R293, R348: the loader writes the data sections of a checked image and binds each block to its slot, returns
the handle and the block count, and writes the slot map; where a page has changed since the check it refuses with reason 10, the bytes written
stay and no slot is bound. UNLOAD unbinds an image with no live slot, and refuses one with a live slot or with a record that names one. A reason
read as 4 bytes, and live slots looked at before records, are the model's reading (DEDUCED, log 46). -/
def Sys2Proof.Claims.LoadAndUnloadCommands : Prop :=
  (∀ (s : State) (port : Nat) (j : LoadJob) (x : Ctx) (b : List Byte), port < 2 → s.io.mbox.length = 2 → s.io.loads.find port = some j →
    j.cmd.port = port → s.ctx j.cmd.ctx = some x → j.image = some b →
    let at_ := fun o n : Nat => leNat ((b.drop o).take n)
    let map := argNat j.cmd 16 8
    let n := at_ 8 2
    let tag := (s.mbox port).cmd / 65536
    (∀ u off, s.writeDatas x (imgDatas b) = (u, some off) → u.io = s.io → off < 2 ^ 32 → ∃ t, State.move s (.loader port) = .next t ∧
      Ended s port tag 5 t ∧ t.mem = u.mem ∧ t.blocks = u.blocks ∧ t.images = u.images ∧ res t port 0 4 = 10 ∧
      res t port 4 4 = 0xFFFFFFFF ∧ res t port 8 4 = off) ∧
    (∀ u, s.writeDatas x (imgDatas b) = (u, none) → u.io = s.io → u.part = s.part → j.slots.length = n → j.slots.Nodup → (∀ k ∈ j.slots, k < 65535) →
      map + 2 * n ≤ 2 ^ 50 → j.handle < 65536 → ∃ t, State.move s (.loader port) = .next t ∧ Ended s port tag 0 t ∧
      res t port 0 4 = j.handle ∧ res t port 4 4 = n ∧ t.io.loads = s.io.loads.del port ∧
      (∃ i, t.images.find j.handle = some i ∧ i.ctx = j.cmd.ctx ∧ i.slots = j.slots ∧ i.widths.length = 6 ∧ i.crc = at_ 60 4 ∧
        i.consts = (b.drop (at_ 36 4)).take (at_ 40 4)) ∧
      (∀ k < n, let slot := j.slots.getD k 0
        leNat (t.hostRead port (map + 2 * k) 2) = slot ∧
        ∃ y, t.blocks.find slot = some y ∧ y.ctx = j.cmd.ctx ∧ y.img = j.handle ∧ y.run = j.handle ∧ y.ports = at_ (70 + 32 * k) 1 ∧
          y.frame = at_ (72 + 32 * k) 2 ∧ y.priv = at_ (74 + 32 * k) 2 ∧ y.tiles = at_ (76 + 32 * k) 1 ∧
          y.leash = (if at_ (78 + 32 * k) 2 = 0 then 256 else at_ (78 + 32 * k) 2) ∧ y.code.length = at_ (68 + 32 * k) 2) ∧
      ∀ m, m ∉ j.slots → t.blocks.find m = u.blocks.find m)) ∧
  (∀ (c : Cmd) (s : State) (x : Ctx), Idle s c → Mine s c x → x.st = .running →
    (∀ i, Only c [(0, 4)] → s.images.find (argNat c 0 4) = some i → i.ctx = c.ctx →
      let live := fun k : Nat => ∃ e ∈ s.cores, (∃ y ∈ e.2.entries, y.slot = k) ∨ ∃ q ∈ e.2.packs, q.2.id.slot = k
      let entered := fun k : Nat => ∃ e ∈ x.recipes, e.2.entry = k
      ((∀ k ∈ i.slots, ¬live k ∧ ¬entered k) → Says s c (.unload c) 0 fun t => t.mem = s.mem ∧ (∀ k ∈ i.slots, t.blocks.find k = none) ∧
        (∀ k, k ∉ i.slots → t.blocks.find k = s.blocks.find k) ∧
        ((∀ e ∈ s.blocks, e.2.run = argNat c 0 4 → e.1 ∈ i.slots) → t.images.find (argNat c 0 4) = none)) ∧
      (∀ j k, i.slots[j]? = some k → live k → (∀ m < j, ∀ k, i.slots[m]? = some k → ¬live k) → j < 2 ^ 32 → Says s c (.unload c) 5 fun t =>
        t.blocks = s.blocks ∧ t.images = s.images ∧ res t c.port 0 4 = 14 ∧ res t c.port 4 4 = j) ∧
      (∀ j k, i.slots[j]? = some k → (∀ m ∈ i.slots, ¬live m) → entered k → (∀ m < j, ∀ k, i.slots[m]? = some k → ¬entered k) → j < 2 ^ 32 →
        Says s c (.unload c) 5 fun t => t.blocks = s.blocks ∧ t.images = s.images ∧ res t c.port 0 4 = 13 ∧ res t c.port 4 4 = j)))
/-! ### Launches of several devices -/

namespace Sys2Proof.Claims

/-- The CRC-32C of a node list (R301). -/
def nodesCrc (nodes : List Nat) : Nat := crc32c (nodes.flatMap fun k => leBytes 4 k)

/-- A launch is known under an identifier (R296). -/
def Known (s : State) (coord num : Nat) (f : Launch → Prop) : Prop := ∃ l, s.launch coord num = some l ∧ f l

/-- No launch has an identifier. -/
def Unknown (s : State) (coord num : Nat) : Prop := s.launch coord num = none

/-- A launch injects the entry token of an image with one, where its device index is this node's own (R70, R300, R301); none waits at the port,
and the core's spill area has room (R231). -/
def Injects (s t : State) (l : Launch) : Prop :=
  ∀ (i : Image) (e : LaunchEnt) (b : Block) (x : Ctx), s.images.find l.img = some i → i.launches = [e] → e.count = 1 → e.first < 2 ^ 48 →
    s.ctx l.ctx = some x → x.st = .running → s.block (slotOf i.slots e.block) = some b → b.ctx = l.ctx → b.ordered = false → l.colour < 8192 →
    slotOf i.slots e.block ≠ 0xFFFF → s.io.hwait = [] → let core := s.placeCore x b e.first
    (s.core core).spill.length + (s.core core).arriving.length < 262144 →
    ∃ a, a.slot = slotOf i.slots e.block ∧ a.port = e.port ∧ a.tag.toNat = l.colour * 2 ^ 48 + e.first ∧ a.pay = e.pay ∧ a.ctx = l.ctx ∧
      (t.core core).arriving = (s.core core).arriving ++ if l.n = 1 ∨ s.nodeOf l e.first = s.io.node then [a] else []

/-- The close token of a colour reaches every core of an ordered block's placement set (R224). -/
def ClosesOn (s t : State) (l : Launch) (x : Ctx) (i : Image) (n : Nat) : Prop :=
  ∀ slot b, n < 65535 → slot ≠ 0xFFFF → i.slots[n]? = some slot → s.block slot = some b → b.ctx = l.ctx → b.ordered = true → ∀ core ∈ x.placeSet b,
    ∃ a ∈ (t.core core).arriving, a.slot = slot ∧ a.port = 0 ∧ a.tag.toNat = l.colour * 2 ^ 48 + (2 ^ 48 - 1)

end Sys2Proof.Claims

/-- R70, R224, R232, R292, R293, R300 to R302, R349: a local LAUNCH takes the lowest free colour of level 0, injects its entry tokens and ends;
a coordinator's takes its colour, sends PREPARE to every other node and stands; a member's stands until a PREPARE comes, and ends with status
8 after 94,000,000 ck without one; an identifier in use gives 3 and an empty pool 6. CLOSE and RETIRE act here and tell the members; a
block that is not ordered gives 3. Status 3 for CLOSE and RETIRE of a launch that is not known, status 5 for a member's and for one that does
not run, and that of two launches of one number the one that this node coordinates is meant, are the model's reading (DEDUCED, log 46). -/
def Obligations.LaunchCommands : Prop :=
  (∀ (c : Cmd) (s : State) (x : Ctx) (i : Image), Idle s c → Mine s c x → Only c [(0, 24)] →
    let role := argNat c 4 1
    let field := argNat c 5 1
    let num := argNat c 6 2
    let coord := argNat c 8 4
    let n := argNat c 12 4
    let given := (List.range n).map fun j => leNat (s.hostRead c.port (argNat c 16 8 + 4 * j) 4)
    let listed := argNat c 16 8 + 4 * n ≤ s.winSize c.port ∧ (∀ k ∈ given, k < 0xFFFFF) ∧ given.Nodup ∧ s.io.node ∈ given
    (x.st ≠ .running → Says s c (.launch c) 5 fun t => t.launches = s.launches ∧ t.ctxs = s.ctxs) ∧
    (x.st = .running → s.images.find (argNat c 0 4) = some i → i.ctx = c.ctx → role ≤ 2 → field ≤ 5 → num < 4096 → coord < 2 ^ 20 →
      (¬Unknown s coord num ∨ n = 0 ∨ 786432 < n ∨ (role = 0 ∧ n ≠ 1) ∨ (role ≠ 0 ∧ ¬listed) →
        Says s c (.launch c) 3 fun t => t.launches = s.launches ∧ t.ctxs = s.ctxs) ∧
      (Unknown s coord num → 1 ≤ n → n ≤ 786432 → (role = 0 → n = 1) → (role ≠ 0 → listed) →
        (role ≠ 2 → (∀ k < 8192, (0, k) ∈ x.pools) → Says s c (.launch c) 6 fun t => t.launches = s.launches ∧ t.ctxs = s.ctxs) ∧
        (∀ k, role ≠ 2 → k < 8192 → Least k (fun m => (0, m) ∉ x.pools) →
          let taken := fun (t : State) => ∃ y, t.ctx c.ctx = some y ∧ y.pools = x.pools ++ [(0, k)]
          (n = 1 → s.launches = [] → Says s c (.launch c) 0 fun t => taken t ∧ res t c.port 0 4 = k ∧ Known t coord num fun l =>
            l.ctx = c.ctx ∧ l.img = argNat c 0 4 ∧ l.role = role ∧ l.st = .running ∧ l.colour = k ∧ l.n = 1 ∧ Injects s t l) ∧
          (1 < n → Stands s c (.launch c) fun t => taken t ∧ (∀ core, (t.core core).arriving = (s.core core).arriving) ∧
            Known t coord num (fun l => l.ctx = c.ctx ∧ l.img = argNat c 0 4 ∧ l.role = 1 ∧ l.st = .preparing ∧ l.colour = k ∧ l.n = n ∧
              l.nodes = given ∧ l.port = c.port) ∧
            ∀ j node, given[j]? = some node → node ≠ s.io.node →
              Sends t node 0 (.control CtlKind.prepare.num coord num ([i.crc] ++ i.widths ++ [field, k, n, j, nodesCrc given])))) ∧
        (role = 2 → (∀ e ∈ s.prepares, ¬(e.1.coord = coord ∧ e.1.number = num)) → Stands s c (.launch c) fun t => t.ctxs = s.ctxs ∧ t.cores = s.cores ∧
          Known t coord num fun l => l.role = 2 ∧ l.st = .waiting ∧ l.nodes = given ∧ l.since = s.now ∧ l.ctx = c.ctx ∧ l.port = c.port) ∧
        (∀ p t0 more, role = 2 → s.prepares = (p, t0) :: more → p.coord = coord → p.number = num → i.crc = p.crc → i.widths = p.widths →
          nodesCrc given = p.listCrc → given[p.index]? = some s.io.node → (0, p.colour) ∉ x.pools → Stands s c (.launch c) fun t =>
          t.prepares = more ∧ Known t coord num (fun l => l.role = 2 ∧ l.st = .ready ∧ l.colour = p.colour) ∧
          Sends t p.source 0 (.control CtlKind.ready.num coord num [p.index]))))) ∧
  (∀ (n : Nat) (s : State) (l : Launch), s.launches[n]? = some l → l.role = 2 → l.st = .waiting → l.port < 2 → s.io.mbox.length = 2 →
    (l.since + 94000000 ≤ s.now → Closes s (.launchWaitTimeout n) l.port 8 fun t => Unknown t l.coord l.num ∧ t.ctxs = s.ctxs) ∧
    (s.now < l.since + 94000000 → exec (.launchWaitTimeout n) s = .next s)) ∧
  (∀ (c : Cmd) (s : State) (x : Ctx) (l : Launch), Idle s c → Mine s c x →
    let bs := (List.range (argNat c 2 1)).map fun j => argNat c (4 + 2 * j) 2
    let ordered := fun (i : Image) (n : Nat) => ∃ slot b, i.slots[n]? = some slot ∧ s.block slot = some b ∧ b.ordered = true
    let named := fun m : Launch => m.ctx == c.ctx && m.num == argNat c 0 2
    (s.launches.find? (fun m => named m && m.role != 2) = some l ∨
      (∀ m ∈ s.launches, named m = true → m.role = 2) ∧ s.launches.find? named = some l) →
    (Only c [(0, 3), (4, 32)] → argNat c 2 1 ≤ 16 →
      (l.st ≠ .running ∨ l.role = 2 → Says s c (.close c) 5 fun t => t.cores = s.cores) ∧
      (∀ i, l.st = .running → l.role ≠ 2 → s.images.find l.img = some i →
        ((∃ n ∈ bs, ¬ordered i n) → Says s c (.close c) 3 fun t => t.cores = s.cores ∧ t.io.held = s.io.held ∧ t.io.links = s.io.links) ∧
        ((∀ n ∈ bs, ordered i n) → x.st = .running → l.colour < 8192 → Says s c (.close c) 0 fun t => (∀ n ∈ bs, ClosesOn s t l x i n) ∧
          (∀ k ∈ l.nodes, k ≠ s.io.node → Sends t k 0 (.control CtlKind.close.num l.coord l.num bs)) ∧ t.launches = s.launches))) ∧
    (Only c [(0, 2)] →
      (l.st ≠ .running ∨ l.role = 2 → Says s c (.retire c) 5 fun t => t.launches = s.launches) ∧
      (l.st = .running → l.role ≠ 2 → Says s c (.retire c) 0 fun t => Unknown t l.coord l.num ∧
        (∃ y, t.ctx c.ctx = some y ∧ y.pools = x.pools.filter fun e => e ≠ (0, l.colour)) ∧
        ∀ k ∈ l.nodes, k ≠ s.io.node → Sends t k 0 (.control CtlKind.retire.num l.coord l.num [])))) ∧
  (∀ (c : Cmd) (s : State) (x : Ctx), Idle s c → Mine s c x → (∀ m ∈ s.launches, ¬(m.ctx = c.ctx ∧ m.num = argNat c 0 2)) →
    (Only c [(0, 3), (4, 32)] → Says s c (.close c) 3 fun t => t.cores = s.cores) ∧
    (Only c [(0, 2)] → Says s c (.retire c) 3 fun t => t.launches = s.launches))

/-- R299 to R302: a PREPARE is answered READY, with its colour reserved, where everything matches, REFUSE with the reason where it does not, and is
held for 94,000,000 ck where no member LAUNCH is registered; the last READY sends START to every member and starts the launch; the first REFUSE
sends ABORT to those that are ready and ends the LAUNCH with status 7, as ABORT does a member's; START injects a member's own entry
tokens; CLOSE and RETIRE act on the member; a packet for another node, with a reserved field not zero, or of an unknown launch, is dropped and
counted. The order in which the reasons of a REFUSE are looked at (4, 1, 2, 6, 3) is the model's reading (DEDUCED, log 46). -/
def Obligations.LaunchPackets : Prop :=
  (∀ (p : PrepPkt) (s : State), p.dest = s.io.node → p.dest ≠ 0xFFFFF → p.rsv = false →
    (Unknown s p.coord p.number → ∃ t, exec (.prepareReceive p) s = .next t ∧ t.prepares = s.prepares ++ [(p, s.now)] ∧ t.launches = s.launches ∧
      t.io = s.io) ∧
    (∀ l, s.launch p.coord p.number = some l → l.role = 2 → l.st = .waiting → l.port < 2 → s.io.mbox.length = 2 →
      let refuse := fun r : Nat => Closes s (.prepareReceive p) l.port 7 fun t => Unknown t l.coord l.num ∧ t.ctxs = s.ctxs ∧
        res t l.port 0 4 = p.colour % 2 ^ 32 ∧ res t l.port 4 4 = p.index % 2 ^ 32 ∧ res t l.port 8 4 = r ∧
        Sends t p.source 0 (.control CtlKind.refuse.num p.coord p.number [p.index, r])
      (s.ctx l.ctx = none → refuse 4) ∧
      (∀ x i, s.ctx l.ctx = some x → s.images.find l.img = some i →
        let list := nodesCrc l.nodes = p.listCrc ∧ l.nodes[p.index]? = some s.io.node
        (i.crc ≠ p.crc → refuse 1) ∧ (i.crc = p.crc → i.widths ≠ p.widths → refuse 2) ∧
        (i.crc = p.crc → i.widths = p.widths → ¬list → refuse 6) ∧
        (i.crc = p.crc → i.widths = p.widths → list → (0, p.colour) ∈ x.pools → refuse 3) ∧
        (i.crc = p.crc → i.widths = p.widths → list → (0, p.colour) ∉ x.pools → ∃ t, exec (.prepareReceive p) s = .next t ∧
          (∃ y, t.ctx l.ctx = some y ∧ y.pools = x.pools ++ [(0, p.colour)]) ∧ t.io.mbox = s.io.mbox ∧
          t.launch p.coord p.number = some { l with st := .ready, colour := p.colour, index := p.index, field := p.field, n := p.count } ∧
          Sends t p.source 0 (.control CtlKind.ready.num p.coord p.number [p.index]))))) ∧
  (∀ (n t0 : Nat) (p : PrepPkt) (s : State), s.prepares[n]? = some (p, t0) →
    (s.now < t0 + 94000000 → exec (.prepareTimeout n) s = .next s) ∧
    (t0 + 94000000 ≤ s.now → ∃ t, exec (.prepareTimeout n) s = .next t ∧ t.prepares = s.prepares.eraseIdx n ∧ t.launches = s.launches ∧
      Sends t p.source 0 (.control CtlKind.refuse.num p.coord p.number [p.index, 5]))) ∧
  (∀ (p : CtlPkt) (s : State) (l : Launch), p.dest = s.io.node → p.dest ≠ 0xFFFFF → p.rsv = false → s.launch p.coord p.number = some l → l.port < 2 →
    s.io.mbox.length = 2 →
    let why := fun (t : State) (a b : Nat) => res t l.port 0 4 = l.colour % 2 ^ 32 ∧ res t l.port 4 4 = a % 2 ^ 32 ∧ res t l.port 8 4 = b % 2 ^ 32
    let back := fun (t : State) (x : Ctx) => ∃ y, t.ctx l.ctx = some y ∧ y.pools = x.pools.filter fun e => e ≠ (0, l.colour)
    (l.role = 1 → l.st = .preparing → p.source ∈ l.nodes → p.source ∉ l.ready →
      (l.ready.length + 2 ≠ l.n → ∃ t, exec (.readyReceive p) s = .next t ∧ t.io = s.io ∧ t.cores = s.cores ∧
        t.launch p.coord p.number = some { l with ready := l.ready ++ [p.source], answers := l.answers + 1 }) ∧
      (l.ready.length + 2 = l.n → s.launches = [l] → Closes s (.readyReceive p) l.port 0 fun t => res t l.port 0 4 = l.colour % 2 ^ 32 ∧
        (∀ k ∈ l.nodes, k ≠ s.io.node → Sends t k 0 (.control CtlKind.start.num p.coord p.number [])) ∧
        Known t p.coord p.number (fun m => m.st = .running) ∧ Injects s t l)) ∧
    (∀ x, l.role = 1 → l.st = .preparing → s.ctx l.ctx = some x → Closes s (.refuseReceive p) l.port 7 fun t =>
      why t (p.vals.getD 0 0) (p.vals.getD 1 0) ∧ back t x ∧ (∀ m, t.launch p.coord p.number = some m → m.st = .refused) ∧
      ∀ k ∈ l.ready, Sends t k 0 (.control CtlKind.abort.num p.coord p.number [p.vals.getD 0 0, p.vals.getD 1 0])) ∧
    (l.role = 1 → l.st = .refused → p.source ∈ l.nodes → p.source ∉ l.ready → ∃ t, exec (.readyReceive p) s = .next t ∧
      t.io.mbox = s.io.mbox ∧ Sends t p.source 0 (.control CtlKind.abort.num p.coord p.number [l.why.1, l.why.2])) ∧
    (l.role = 2 → l.st = .ready → s.launches = [l] → Closes s (.startReceive p) l.port 0 fun t => res t l.port 0 4 = l.colour % 2 ^ 32 ∧
      Known t p.coord p.number (fun m => m.st = .running) ∧ Injects s t l) ∧
    (∀ x, l.role = 2 → l.st = .ready → s.ctx l.ctx = some x → Closes s (.abortReceive p) l.port 7 fun t =>
      why t (p.vals.getD 0 0) (p.vals.getD 1 0) ∧ back t x ∧ Unknown t p.coord p.number) ∧
    (∀ x i, l.st = .running ∨ l.st = .ready → s.ctx l.ctx = some x → x.st = .running → s.images.find l.img = some i → l.colour < 8192 →
      ∃ t, exec (.closeControlReceive p) s = .next t ∧ t.launches = s.launches ∧ ∀ n ∈ p.vals, ClosesOn s t l x i n) ∧
    (∀ x, l.role = 2 → l.st = .running → s.ctx l.ctx = some x →
      ∃ t, exec (.retireControlReceive p) s = .next t ∧ Unknown t p.coord p.number ∧ back t x ∧ t.cores = s.cores)) ∧
  (∀ (p : PrepPkt) (s : State), s.mgmt.pktdrop.toNat < 2 ^ 32 - 1 → p.dest ≠ s.io.node ∨ p.dest = 0xFFFFF ∨ p.rsv = true →
    ∃ t, exec (.prepareReceive p) s = .next t ∧ t.mgmt.pktdrop = s.mgmt.pktdrop + 1 ∧ t.prepares = s.prepares ∧ t.launches = s.launches ∧ t.io = s.io) ∧
  (∀ (p : CtlPkt) (s : State), s.mgmt.pktdrop.toNat < 2 ^ 32 - 1 → p.dest ≠ s.io.node ∨ p.dest = 0xFFFFF ∨ p.rsv = true ∨ Unknown s p.coord p.number →
    ∀ i ∈ [Instr.readyReceive p, .refuseReceive p, .startReceive p, .abortReceive p, .closeControlReceive p, .retireControlReceive p],
      ∃ t, exec i s = .next t ∧ t.mgmt.pktdrop = s.mgmt.pktdrop + 1 ∧ t.cores = s.cores ∧ t.ctxs = s.ctxs ∧ t.launches = s.launches ∧ t.io = s.io)
/-! ### Links and packets -/

namespace Sys2Proof.Claims

/-- A token packet in form, for this node (R295, R296, R299). -/
def TokenForm (s : State) (p : TokPkt) : Prop :=
  p.dest = s.io.node ∧ p.dest ≠ 0xFFFFF ∧ p.hdrRsv = false ∧ p.rsv = false ∧ p.count = 0 ∧ p.length ≤ 8 ∧ p.vc < 8

/-- A packet is dropped and counted, and nothing else happens (R299). -/
def Drops (s : State) (i : Instr) : Prop :=
  s.mgmt.pktdrop.toNat < 2 ^ 32 - 1 → ∃ t, exec i s = .next t ∧ t.mgmt.pktdrop = s.mgmt.pktdrop + 1 ∧ t.mem = s.mem ∧ t.cores = s.cores ∧
    t.ctxs = s.ctxs ∧ t.io = s.io ∧ t.launches = s.launches

/-- What a token of a packet says (R178, R289, R296). -/
def LinkToken (a : Tok) (p : TokPkt) (ctx slot : Nat) : Prop :=
  a.slot = slot ∧ a.port = p.port ∧ a.tag = p.tag ∧ a.ctx = ctx ∧ a.src = 3 ∧ a.rel = (if p.rel then some .sys else none) ∧
  a.pay.length = p.length ∧ ∀ j < p.length, a.pay.getD j 0 = p.payload.getD j 0

end Sys2Proof.Claims

/-- R294, R365: a flit with a bad CRC that the replay buffer holds is tried again and nothing is lost; after 16 tries of one flit the port
goes down and its packets, markers of its own aside, move to another port of the route mask or wait, nodes that no port reaches being
reported; a returned slot raises the channel's count and ends its flit's tries, and a flit that waits takes it; training, after the scrub of
bring-up, sets every count to 64. Tries kept flit by flit, and a flit of 16 tries that no longer arrives, are the model's reading (DEDUCED,
log 48). -/
def Obligations.LinkLayer : Prop :=
  ∀ (port vc : Nat) (s : State), let l := s.link port
    let due := fun q : Pkt => q.vc = vc ∧ q.due ≠ 0
    let first := (vc, l.backOn vc)
    (∀ n, l.up = true → l.backOn vc + n < l.sentOn vc → (vc, l.backOn vc + n) ∈ l.recent → let f := (vc, l.backOn vc + n)
      ∃ t ts, exec (.flitCrcError port { vc := vc, n := n }) s = .next t ∧ t.link port = { l with tries := ts } ∧
        (t.link port).triesOf f = min (l.triesOf f + 1) 16 ∧ (∀ g, g ≠ f → (t.link port).triesOf g = l.triesOf g) ∧ t.mem = s.mem ∧
        t.cores = s.cores ∧ t.io.held = s.io.held ∧ ∀ k, k ≠ port → t.link k = s.link k) ∧
    (∀ n, l.up = false ∨ l.sentOn vc ≤ l.backOn vc + n ∨ (vc, l.backOn vc + n) ∉ l.recent → exec (.flitCrcError port { vc := vc, n := n }) s = .next s) ∧
    ((l.up = false ∨ (∀ q ∈ l.replay ++ l.queue, ¬due q) ∨ 16 ≤ l.triesOf first) → exec (.freeSlotReturn port vc) s = .next s) ∧
    (l.up = true → (∃ e ∈ l.tries, 16 ≤ e.2) → ∃ t, exec (.linkDown port) s = .next t ∧ (t.link port).up = false ∧ (t.link port).queue = [] ∧
      (t.link port).replay = [] ∧ t.mem = s.mem ∧ ∀ q ∈ l.replay ++ l.queue, q.vc = 0 ∨ (∀ a b v, q.body ≠ .marker a b v) →
        Sends t q.dest q.vc q.body ∧
        ((∀ k < 16, k ≠ port → (Sparse.get (q.dest / 4096) s.io.route).toNat.testBit k = true → (s.link k).up = false) → q.dest ∈ t.io.reports)) ∧
    ((l.up = false ∨ ∀ e ∈ l.tries, e.2 < 16) → exec (.linkDown port) s = .next s) ∧
    (∀ q rest, l.up = true → l.replay = q :: rest → due q → (∀ r ∈ rest, r.due ≠ 0) → l.triesOf first < 16 →
      (l.queue = [] → ∃ t, exec (.freeSlotReturn port vc) s = .next t ∧ (t.link port).count vc = l.count vc + 1 ∧
        (t.link port).replay = (if q.due = 1 then rest else { q with due := q.due - 1 } :: rest) ∧ (t.link port).triesOf first = 0 ∧
        (t.link port).backOn vc = l.backOn vc + 1 ∧ t.mem = s.mem) ∧
      (∀ w, l.queue = [w] → w.vc = vc → 0 < w.left → l.count vc = 0 → ∃ t, exec (.freeSlotReturn port vc) s = .next t ∧
        (t.link port).count vc = 0 ∧ (t.link port).sentOn vc = l.sentOn vc + 1 ∧ (vc, l.sentOn vc) ∈ (t.link port).recent ∧
        (t.link port).recent.length ≤ max l.recent.length 256 ∧
        ∃ z ∈ (t.link port).queue ++ (t.link port).replay, z = { w with left := w.left - 1, due := w.due + 1 })) ∧
    (port < 16 → l.up = false → 3 ≤ s.mgmt.boot → ∃ t, exec (.linkTraining port) s = .next t ∧ (t.link port).up = true ∧
      (s.io.held = [] → ∀ v < 8, (t.link port).count v = 64) ∧ (∀ q ∈ s.io.held, Sends t q.dest q.vc q.body) ∧ t.mem = s.mem) ∧
    (l.up = true ∨ s.mgmt.boot < 3 → exec (.linkTraining port) s = .next s)

/-- R4, R178, R295 to R297, R299: the bytes of a token packet and of a write packet stand where the layouts put them, little-endian: the header
with its type, count, channel and nodes, the fields, zeros in every reserved byte; and read by the receiver they are that packet. Only a
release at .sys is flagged. A packet of a reserved type, of another node or with a reserved header bit set is dropped and counted, and so is a
marker of another node's context manager with such a destination or a reserved bit set. That a packet out of form is dropped is the model's
reading where R299 does not name it (DEDUCED, log 48); the field of a fault packet with the faults that follow it is log 29. -/
def Sys2Proof.Claims.PacketBytes : Prop :=
  (∀ (q : Pkt) (node coord number block : Nat) (a : Tok), q.body = .token coord number block a → q.dest < 2 ^ 20 → node < 2 ^ 20 → q.vc < 8 →
    coord < 2 ^ 20 → number < 2 ^ 12 → block < 2 ^ 16 → a.port < 2 ^ 8 → a.pay.length ≤ 8 → let b := q.bytes node
    let at_ := fun o n : Nat => leNat ((b.drop o).take n)
    let flag := a.rel = some .sys
    b.length = 64 ∧ at_ 0 8 = q.dest + node * 2 ^ 20 + 1 * 2 ^ 40 + q.vc * 2 ^ 44 ∧ at_ 8 8 = a.tag.toNat ∧
      at_ 16 4 = coord * 2 ^ 12 + number ∧ at_ 20 2 = block ∧ at_ 22 1 = a.port ∧ at_ 23 1 = a.pay.length ∧
      (∀ i < 8, at_ (24 + 4 * i) 4 = (a.pay.getD i 0).toNat) ∧ at_ 56 1 = (if flag then 1 else 0) ∧ at_ 57 7 = 0 ∧
      readPacket b = .token { dest := q.dest, source := node, vc := q.vc, count := 0, hdrRsv := false, tag := a.tag, coord, number, block,
                              port := a.port, length := a.pay.length, payload := (List.range 8).map fun i => a.pay.getD i 0,
                              rel := if flag then true else false, rsv := false }) ∧
  (∀ (q : Pkt) (node addr coord number id : Nat) (bs : List Byte), q.body = .write addr coord number id bs → q.dest < 2 ^ 20 →
    node < 2 ^ 20 → q.vc < 8 → addr < 2 ^ 64 → coord < 2 ^ 20 → number < 2 ^ 12 → id < 2 ^ 32 → bs.length ≤ 4096 → let b := q.bytes node
    let at_ := fun o n : Nat => leNat ((b.drop o).take n)
    let flits := (bs.length + 63) / 64
    b.length = 64 + 64 * flits ∧ at_ 0 8 = q.dest + node * 2 ^ 20 + 2 * 2 ^ 40 + q.vc * 2 ^ 44 + flits * 2 ^ 48 ∧ at_ 8 8 = addr ∧
      at_ 16 4 = coord * 2 ^ 12 + number ∧ at_ 20 4 = id ∧ at_ 24 4 = bs.length ∧ (b.drop 64).take bs.length = bs ∧
      (∀ k, 64 + bs.length ≤ k → k < b.length → b.getD k 0 = 0) ∧
      readPacket b = .write { dest := q.dest, source := node, count := flits, hdrRsv := false, addr, coord, number, copyId := id, bytes := bs }) ∧
  (∀ (bs : List Byte) (port : Nat) (s : State), (s.link port).up = true → s.mgmt.pktdrop.toNat < 2 ^ 32 - 1 → let h := leNat (bs.take 8)
    let drops := ∃ t, s.receive port bs = .next t ∧ t.mgmt.pktdrop = s.mgmt.pktdrop + 1 ∧ t.mem = s.mem ∧ t.cores = s.cores ∧ t.ctxs = s.ctxs ∧
      t.io = s.io
    (h / 2 ^ 40 % 16 = 0 ∨ 7 ≤ h / 2 ^ 40 % 16 → drops) ∧
    (h / 2 ^ 40 % 16 ∈ [1, 2, 3, 4] → (h % 2 ^ 20 ≠ s.io.node ∨ h % 2 ^ 20 = 0xFFFFF ∨ h.testBit 47 = true ∨ h / 2 ^ 56 % 256 ≠ 0) → drops) ∧
    (h / 2 ^ 40 % 16 = 5 → 3 ≤ h / 2 ^ 44 % 8 →
      (h % 2 ^ 20 ≠ s.io.node ∨ h % 2 ^ 20 = 0xFFFFF ∨ h.testBit 47 = true ∨ h / 2 ^ 56 % 256 ≠ 0 → drops) ∧
      (h % 2 ^ 20 = s.io.node → s.io.node ≠ 0xFFFFF → h.testBit 47 = false → h / 2 ^ 56 % 256 = 0 → leNat ((bs.drop 10).take 2) = 0 →
        s.receive port bs = .next s)))

/-- R178, R193, R211, R217, R230, R290, R294 to R299, R352, R355: a token packet of a known launch is counted and its token enters the intake queue of its
channel on its core, waits in its slot where that is full, goes to the inbox or to the arrival area of a pre-empted context; a word of
a write packet that passes its checks is written at its home slice and acked, one that fails is answered by its offset and kind; a packet
out of form, for another node or of an unknown launch is dropped and counted. Acks and faults reach their copy's words. A port byte of 4 or more
does not drop a token packet. The model's choices in it: the faults to follow and the offset in a fault packet are log 29, the identifiers
0xFFFFFFF8 + k of a checkpoint's packets log 28, the arrival area of 1,024 tokens to a 64 KiB page of the firmware log 27, and what else of a
packet out of form drops it log 48. -/
def Sys2Proof.Claims.LinkPacketEvents : Prop :=
  (∀ (port : Nat) (p : TokPkt) (s : State) (l : Launch) (x : Ctx) (slot : Nat), TokenForm s p → s.launch p.coord p.number = some l →
    (l.st = .ready ∨ l.st = .running) → s.ctx l.ctx = some x → ((s.link port).used.find p.vc).getD 0 < 64 →
    (p.block = 0xFFFF ∧ slot = 0xFFFF ∨ p.block ≠ 0xFFFF ∧ ∃ i, s.images.find l.img = some i ∧ i.slots[p.block]? = some slot) →
    let counted := fun t : State => Known t p.coord p.number fun m => m.recv.find p.source = some ((l.recv.find p.source).getD 0 + 1)
    (∀ b, x.st = .running → slot ≠ 0xFFFF → s.block slot = some b → b.ctx = l.ctx → b.ordered = false → let core := s.placeCore x b (p.tag.toNat % 2 ^ 48)
      let q := ((s.core core).intake.find p.vc).getD []
      (q.length < 32 → (∀ e ∈ s.io.lwait, ¬(e.2.1 = core ∧ e.2.2.1 = p.vc)) → ∃ t a, exec (.tokenPacketReceive port p) s = .next t ∧ counted t ∧
        (t.core core).intake.find p.vc = some (q ++ [(a, s.now)]) ∧ LinkToken a p l.ctx slot ∧ t.mem = s.mem ∧ t.io = s.io) ∧
      (32 ≤ q.length → ∃ t a, exec (.tokenPacketReceive port p) s = .next t ∧ counted t ∧ t.cores = s.cores ∧ LinkToken a p l.ctx slot ∧
        t.io.lwait = s.io.lwait ++ [(a, core, p.vc, port)] ∧ (t.link port).used.find p.vc = some (((s.link port).used.find p.vc).getD 0 + 1))) ∧
    (x.st = .running → slot = 0xFFFF → x.box.places.length < 64 → ∃ t y a, exec (.tokenPacketReceive port p) s = .next t ∧ counted t ∧
      t.ctx l.ctx = some y ∧ y.box.places = x.box.places ++ [a] ∧ LinkToken a p l.ctx slot ∧ t.cores = s.cores) ∧
    (x.st = .preempted ∨ x.st = .restoring →
      (x.arrivals.length < 1024 * x.areaPages.length → ∃ t y a, exec (.tokenPacketReceive port p) s = .next t ∧ counted t ∧
        t.ctx l.ctx = some y ∧ y.arrivals = x.arrivals ++ [a] ∧ y.areaPages = x.areaPages ∧ LinkToken a p l.ctx slot ∧ t.cores = s.cores) ∧
      (∀ g, 1024 * x.areaPages.length ≤ x.arrivals.length → s.smallFrame = some g → ∃ t y a, exec (.tokenPacketReceive port p) s = .next t ∧
        counted t ∧ t.ctx l.ctx = some y ∧ y.arrivals = x.arrivals ++ [a] ∧ y.areaPages = x.areaPages ++ [g] ∧ LinkToken a p l.ctx slot ∧
        t.part.small = s.part.small ++ [g] ∧ t.part.kept = s.part.kept ∧ t.cores = s.cores))) ∧
  (∀ (port : Nat) (p : TokPkt) (w : WrPkt) (s : State),
    (¬TokenForm s p ∨ Unknown s p.coord p.number → Drops s (.tokenPacketReceive port p)) ∧
    (w.dest ≠ s.io.node ∨ w.dest = 0xFFFFF ∨ w.hdrRsv = true ∨ w.bytes.length % 4 ≠ 0 ∨ w.bytes = [] ∨ 4096 < w.bytes.length ∨ w.addr % 4 ≠ 0 ∨
      w.count ≠ (w.bytes.length + 63) / 64 ∨ Unknown s w.coord w.number → Drops s (.writePacketReceive port w))) ∧
  (∀ (port : Nat) (p : WrPkt) (s : State) (l : Launch) (x : Ctx) (n : Nat), p.dest = s.io.node → p.dest ≠ 0xFFFFF → p.hdrRsv = false →
    p.addr % 4 = 0 → p.bytes.length = 4 * n → p.count = (4 * n + 63) / 64 → 0 < n → n ≤ 1024 → s.launch p.coord p.number = some l → (l.st = .ready ∨ l.st = .running) →
    s.ctx l.ctx = some x →
    ((∀ j < n, ¬(p.addr + 4 * j + 4 ≤ 2 ^ 64 ∧ x.allowed false 2 (p.addr + 4 * j) 4 = true)) →
      ∃ t, exec (.writePacketReceive port p) s = .next t ∧ t.mem = s.mem ∧ ∀ j < n, Sends t p.source 1 (.fault p.copyId (4 * j) 6 (n - 1 - j))) ∧
    (n = 1 → p.addr + 4 ≤ 2 ^ 64 → x.allowed false 2 p.addr 4 = true →
      (∀ k, s.translate x.r.asid p.addr .write none = .fault k →
        ∃ t, exec (.writePacketReceive port p) s = .next t ∧ t.mem = s.mem ∧ Sends t p.source 1 (.fault p.copyId 0 k 0)) ∧
      (∀ c r, s.translate x.r.asid p.addr .write none = .recipe c r →
        ∃ t, exec (.writePacketReceive port p) s = .next t ∧ t.mem = s.mem ∧ Sends t p.source 1 (.fault p.copyId 0 3 0)) ∧
      (∀ pa e, s.translate x.r.asid p.addr .write none = .ok pa e → paHost pa = none →
        ∃ t, exec (.writePacketReceive port p) s = .next t ∧ Sends t p.source 1 (.ack p.copyId 4) ∧
          ∃ z, t.homeRead x.r.asid p.addr 4 none .read = (t, .data p.bytes z)))) ∧
  (∀ (port : Nat) (p : AckPkt) (r : FaultPkt) (more : Nat) (s : State),
    (p.dest ≠ s.io.node ∨ p.dest = 0xFFFFF ∨ p.rsv = true → Drops s (.writeAckReceive port p)) ∧
    (r.dest ≠ s.io.node ∨ r.dest = 0xFFFFF ∨ r.rsv = true → Drops s (.writeFaultReceive port r more))) ∧
  (∀ (port : Nat) (p : AckPkt) (r : FaultPkt) (more core n : Nat) (s : State) (q : Copy), (p.dest = s.io.node ∧ p.dest ≠ 0xFFFFF ∧ p.rsv = false) →
    (r.dest = p.dest ∧ r.rsv = false ∧ r.copyId = p.copyId) → s.chk = none → s.io.remote.find p.copyId = some (core, n) →
    (s.core core).copies.find n = some q → q.uid % 2 ^ 32 = p.copyId → (q.st = .sent ∨ q.st = .replaying) →
    ∀ j m, q.pkts = [(j, m)] → 0 < m → (∀ k, j ≤ k → k < j + m → k ∉ q.done ∧ ∀ b ∈ q.bad, b.1 ≠ k) →
    (p.bytes = 4 * m → ∃ t z, exec (.writeAckReceive port p) s = .next t ∧ (t.core core).copies.find n = some z ∧ z.pkts = [] ∧ z.bad = q.bad ∧
      z.done = q.done ++ (List.range m).map (j + ·) ∧ t.mem = s.mem) ∧
    (r.off < 4 * m → let k := j + r.off / 4
      ∃ t z, exec (.writeFaultReceive port r more) s = .next t ∧ (t.core core).copies.find n = some z ∧
        (k, r.kind, q.dst + 4 * k) ∈ z.bad ∧ (∀ b ∈ q.bad, b ∈ z.bad) ∧ t.mem = s.mem ∧
        (more ≠ 0 → z.done = q.done ∧ z.pkts = q.pkts) ∧
        (more = 0 → z.done = q.done ++ ((List.range m).map (j + ·)).filter (· ≠ k) ∧ z.pkts = []))) ∧
  (∀ (port : Nat) (p : AckPkt) (r : FaultPkt) (more k : Nat) (s : State) (c : Chk), (p.dest = s.io.node ∧ p.dest ≠ 0xFFFFF ∧ p.rsv = false) →
    (r.dest = p.dest ∧ r.rsv = false ∧ r.copyId = p.copyId) → s.chk = some c → k < 8 → c.acks.length = 8 → p.copyId = 0xFFFFFFF8 + k →
    (∃ t d, exec (.writeAckReceive port p) s = .next t ∧ t.chk = some d ∧ d.acks.getD k 0 = c.acks.getD k 0 + p.bytes ∧
      d.failed = c.failed ∧ t.mem = s.mem) ∧
    (∃ t d, exec (.writeFaultReceive port r more) s = .next t ∧ t.chk = some d ∧ d.failed = some (c.failed.getD k) ∧ t.mem = s.mem))
/-! ### Teardown, pre-emption, resumption and checkpoints -/

/-- R255, R264, R358, R359: DESTROY is accepted in any state and makes the context ENDING; its trapped packs, tokens, entries, requests and fault
records are gone at once, with the stores held behind one, and those of others stay; when what runs has run out, its slots, lines and translations are gone with it,
the copies that its recompute packs left stop, its number is free, and the record of what was discarded stands in ARGS. -/
def Obligations.Teardown : Prop :=
  (∀ (c : Cmd) (s : State) (x : Ctx), Idle s c → Mine s c x → Only c [] → Stands s c (.destroy c) fun t =>
    (∃ y, t.ctx c.ctx = some y ∧ y.st = .ending ∧ y.save = none ∧ y.arrivals = [] ∧ y.box.places = [] ∧ y.r.asid = x.r.asid ∧
      y.r.port = x.r.port) ∧ t.mem.hbm = s.mem.hbm ∧
    ((∀ a ∈ s.io.hwait, a.ctx = c.ctx) →
      ((∀ e ∈ s.cores, ∀ q ∈ e.2.copies, q.2.ctx = c.ctx → ∀ p ∈ e.2.packs, p.2.id.serial = q.2.serial → p.2.id.ctx = c.ctx) →
        ∀ n, n ≠ c.ctx → t.ctx n = s.ctx n) ∧ (∀ l, l ∈ t.launches ↔ l ∈ s.launches ∧ l.ctx ≠ c.ctx) ∧
      ∀ core e, e ∈ (t.core core).outbound ++ (t.core core).raised ↔ e ∈ (s.core core).outbound ++ (s.core core).raised ∧ e.tok.ctx ≠ c.ctx) ∧
    (∀ r p, s.pack r = some p → p.id.ctx = c.ctx → p.c.st = .trapped → p.id.colour = none → t.pack r = none) ∧
    (∀ core e, e ∈ (t.core core).entries ↔ e ∈ (s.core core).entries ∧ e.ctx ≠ c.ctx) ∧
    (∀ core e, e ∈ (t.core core).alloc ++ (t.core core).spawned ↔ e ∈ (s.core core).alloc ++ (s.core core).spawned ∧ e.ctx ≠ c.ctx) ∧
    (∀ core e, e ∈ (t.core core).spill ↔ e ∈ (s.core core).spill ∧ e.ctx ≠ c.ctx) ∧
    (let record := fun (core u : Nat) => ∃ w ∈ (s.core core).wake, w.2.ctx = c.ctx ∧ (w.2.st = .faulted ∨ w.2.st = .replaying) ∧ w.2.uid = u
      ∀ core e, e ∈ (t.core core).wake ↔ e ∈ (s.core core).wake ∧ (e.2.ctx ≠ c.ctx ∨ e.2.st = .pending ∨
        (e.2.st = .held ∧ ∀ k ∈ e.2.conds, ∀ u ∈ k.uids, ¬record core u)))) ∧
  (∀ (n : Nat) (s : State) (x : Ctx), s.ctx n = some x →
    (x.st ≠ .ending ∨ s.tornDown n x.r.asid = false → exec (.teardownComplete n) s = .next s) ∧
    (x.st = .ending → s.tornDown n x.r.asid = true → x.r.port < 2 → s.io.mbox.length = 2 → Closes s (.teardownComplete n) x.r.port 0 fun t =>
      t.ctx n = none ∧ ((∀ a ∈ s.io.hwait, a.ctx = n) →
        (∀ e ∈ s.cores, ∀ q ∈ e.2.copies, q.2.ctx = n → ∀ p ∈ e.2.packs, p.2.id.serial = q.2.serial → p.2.id.ctx = n) → ∀ m, m ≠ n → t.ctx m = s.ctx m) ∧
      (∀ e ∈ t.cores, ∀ q ∈ e.2.copies, q.2.ctx ≠ n) ∧ (∀ b, b ∈ t.blocks ↔ b ∈ s.blocks ∧ b.2.ctx ≠ n) ∧
      (∀ l ∈ t.mem.l2, l.asid ≠ x.r.asid) ∧ (∀ e ∈ t.mem.tc, e.asid ≠ x.r.asid) ∧ (∀ i ∈ t.images, i.2.ctx ≠ n) ∧
      let count := fun k v : Nat => res t x.r.port k 4 = min v (2 ^ 32 - 1)
      let left := fun f : Copy → Bool => (s.cores.map fun e => (e.2.copies.filter fun q => q.2.ctx == n && f q.2).length).sum
      res t x.r.port 0 4 = n % 64 + x.r.asid % 4096 * 65536 ∧ count 4 x.tear.packs ∧ count 8 x.tear.trapped ∧ count 12 x.tear.entries ∧
        count 16 x.tear.tokens ∧ count 24 (x.tear.copies + left fun q => !q.isOpen) ∧ count 28 (x.tear.records + left Copy.isOpen) ∧ count 32 x.tear.releases ∧ count 36 x.tear.spawns ∧
        count 48 x.tear.recipes ∧ res t x.r.port 52 4 = 0 ∧ res t x.r.port 56 8 = s.now % 2 ^ 64))

/-- R349 to R355: PREEMPT reserves the pages of its save image and makes a running context CUTTING; once its packs and all that is in flight
have ended the markers go out on each port that is up and stand in each queue, each is done on its own (an intake queue's once no older token
heads the queue), and once all are the save image stands in its pages and holds
every entry, the context is PREEMPTED, nothing of it is left on a core, and the command ends unless it is to be settled; a cut whose packs have
not ended in time, and one not settled in time, end with status 8. The image's upper bound is the model's (log 27). -/
def Obligations.Preemption : Prop :=
  (∀ (c : Cmd) (s : State) (x : Ctx), Idle s c → Mine s c x → Only c [(0, 9)] →
    let form := 4096 ≤ argNat c 0 8 ∧ argNat c 8 1 ≤ 1
    let need := s.imageBound c.ctx x
    (¬form → Says s c (.preempt c) 3 fun t => t.ctxs = s.ctxs) ∧
    (form → x.st ≠ .running → Says s c (.preempt c) 5 fun t => t.ctxs = s.ctxs) ∧
    (form → x.st = .running → (s.fwPages need).length < need → Says s c (.preempt c) 4 fun t => t.ctxs = s.ctxs ∧ t.part = s.part) ∧
    (form → x.st = .running → need ≤ (s.fwPages need).length → Stands s c (.preempt c) fun t => t.cores = s.cores ∧ t.mem = s.mem ∧
      t.part.kept = s.part.kept ++ s.fwPages need ∧ ∃ y, t.ctx c.ctx = some y ∧
      y.st = .cutting ∧ ∃ k, y.cut = some k ∧ k.start = s.now ∧ k.timeout = argNat c 0 8 ∧ (k.settle = true ↔ argNat c 8 1 = 1) ∧
        k.placed = false ∧ k.saved = false ∧ k.drained = false ∧ k.pages = s.fwPages need)) ∧
  (∀ (n : Nat) (s : State) (x : Ctx) (k : Cut), s.ctx n = some x → x.cut = some k → x.r.port < 2 → s.io.mbox.length = 2 →
    (k.saved = false → x.st = .cutting → s.drainedCut n = true → k.drained = false → ∃ t, exec (.preemptCutComplete n) s = .next t ∧
      t.ctx n = some { x with cut := some { k with drained := true } } ∧ t.cores = s.cores ∧ t.io = s.io ∧ t.mem = s.mem) ∧
    (k.saved = false → x.st = .cutting → k.drained = true → s.drainedCut n = true → s.quietCut n x = true →
      (k.placed = false → ∃ t marks, exec (.preemptCutComplete n) s = .next t ∧
        t.ctx n = some { x with cut := some { k with placed := true, marks } } ∧ t.cores = s.cores ∧
        (∀ e ∈ s.cores, CutMark.outbound e.1 ∈ marks ∧ .fabric e.1 ∈ marks ∧ ∀ q ∈ e.2.intake, .intake e.1 q.1 s.now ∈ marks) ∧
        ∀ port, (port, s.link port) ∈ s.io.links → (s.link port).up = true → ∀ vc ∈ [3, 4, 5, 6, 7],
          .link port vc ∈ marks ∧ Sends t s.io.node vc (.marker 0 0 [n])) ∧
      (∀ port vc, k.placed = true → k.marks = [.link port vc] → (s.link port).count vc ≠ 64 → ∃ t, exec (.preemptCutComplete n) s = .next t ∧
        t.ctx n = some x ∧ t.cores = s.cores ∧ t.mem = s.mem ∧ t.io = s.io) ∧
      (∀ core vc since e rest, k.placed = true → k.marks = [.intake core vc since] → (s.core core).intake.find vc = some (e :: rest) → e.2 ≤ since →
        ∃ t, exec (.preemptCutComplete n) s = .next t ∧ t.ctx n = some x ∧ t.cores = s.cores ∧ t.mem = s.mem ∧ t.io = s.io) ∧
      (k.placed = true → (∀ m ∈ k.marks, s.doneMark n m = true) →
        k.settle = false ∨ (∀ l ∈ s.launches, l.ctx ≠ n) → Closes s (.preemptCutComplete n) x.r.port 0 fun t =>
          res t x.r.port 0 8 = s.now % 2 ^ 64 ∧
          (∃ y v, t.ctx n = some y ∧ y.st = .preempted ∧ y.cut = none ∧ y.save = some v ∧ v.cut = s.now ∧ v.cores = x.cores ∧
            v.settled = k.settle ∧ v.pages = k.pages ∧ res t x.r.port 8 8 = v.size % 2 ^ 64 ∧
            ∀ core q, (core, q) ∈ s.cores → ∀ e ∈ q.entries, e.ctx = n → e.handler = false → ∃ age, (core, age, e) ∈ v.entries) ∧
          (∀ p rest, k.pages = p :: rest → p < 2 ^ 18 → Sparse.getRun t.mem.hbm (p * 2 ^ 21) 16 =
            leBytes 4 0x53563445 ++ leBytes 2 1 ++ leBytes 1 (if k.settle then 1 else 0) ++ leBytes 1 0 ++ leBytes 8 s.now) ∧
          ∀ e ∈ t.cores, (∀ a ∈ e.2.entries, a.ctx ≠ n) ∧ (∀ a ∈ e.2.packs, a.2.id.ctx ≠ n) ∧ (∀ a ∈ e.2.copies, a.2.ctx ≠ n) ∧
            (∀ a ∈ e.2.outbound, a.tok.ctx ≠ n) ∧ ∀ a ∈ e.2.wake, a.2.ctx ≠ n)) ∧
    (k.saved = false → (x.st ≠ .cutting ∨ s.drainedCut n = false ∨ (k.drained = true ∧ s.quietCut n x = false)) →
      exec (.preemptCutComplete n) s = .next s) ∧
    (x.st = .cutting → k.drained = false → s.drainedCut n = false →
      (k.start + k.timeout ≤ s.now → Closes s (.preemptTimeout n) x.r.port 8 fun t => t.mem = s.mem ∧
        t.part.kept = s.part.kept.filter (fun p => !k.pages.contains p) ∧ ∃ y, t.ctx n = some y ∧ y.st = .running ∧ y.cut = none) ∧
      (s.now < k.start + k.timeout → exec (.preemptTimeout n) s = .next s)) ∧
    (k.drained = true → exec (.preemptTimeout n) s = .next s) ∧
    (k.saved = true → s.settled n = false →
      (k.start + k.timeout ≤ s.now → Closes s (.settleTimeout n) x.r.port 8 fun t => ∃ y, t.ctx n = some y ∧ y.st = x.st ∧ y.cut = none ∧
        y.save = x.save) ∧
      (s.now < k.start + k.timeout → exec (.settleTimeout n) s = .next s))) ∧
  (∀ (p : CtlPkt) (s : State) (l : Launch), p.dest = s.io.node → p.dest ≠ 0xFFFFF → p.rsv = false → s.launch p.coord p.number = some l →
    let v := p.vals.getD 0 0
    ((∀ x, s.ctx l.ctx = some x → x.cut = none) → ∃ t, exec (.settleMarkerReceive p) s = .next t ∧ t.io = s.io ∧ t.ctxs = s.ctxs ∧
      Known t p.coord p.number fun m => m.marks.find p.source = some v) ∧
    (∀ x k w, s.launches = [l] → 1 < l.n → l.st = .running → l.nodes = [s.io.node, p.source] → (l.recv.find p.source).getD 0 = v →
      s.ctx l.ctx = some x → x.cut = some k → k.saved = true → x.save = some w → x.r.port < 2 → s.io.mbox.length = 2 →
      Closes s (.settleMarkerReceive p) x.r.port 0 fun t => ∃ y, t.ctx l.ctx = some y ∧ y.cut = none ∧ y.st = x.st ∧
        y.save = some { w with settled := true }))

/-- R28, R307, R349, R356, R357: RESUME of what is not PREEMPTED gets status 5, during a CHECKPOINT 1, with a core of the other domain 2, with too small
a private allowance 5, with too many packs 4 (where records, constants or kept columns find no room, 4 is the model's choice, log 33); else the new map holds at once, saved entries stand on their new cores, and with nothing left to place the context runs
and the command ends. A saved token waits in the image until its core accepts it (log 27), and a saved pack until its core has room; a restored
pack takes a free slot as a recovery pack with its registers; what is placed last ends the command. -/
def Obligations.Resumption : Prop :=
  (∀ (c : Cmd) (s : State) (x : Ctx), Idle s c → Mine s c x → Only c [(0, 24)] →
    let list := bitsOf (argNat c 0 24) 192
    let new := if list = [] then x.cores else list
    let home := ∀ k ∈ new, s.part.cores.getD k 0 = c.port + 1
    let roomy := ∀ e ∈ s.blocks, e.2.ctx = c.ctx → e.2.priv * 128 ≤ x.privSize / new.length / 128 * 128
    (s.chk ≠ none → Says s c (.resume c) 1 fun t => t.ctxs = s.ctxs ∧ t.cores = s.cores) ∧
    (s.chk = none → x.save = none ∨ x.st ≠ .preempted → Says s c (.resume c) 5 fun t => t.ctxs = s.ctxs ∧ t.cores = s.cores) ∧
    (∀ v, s.chk = none → x.st = .preempted → x.save = some v →
      (¬home → Says s c (.resume c) 2 fun t => t.ctxs = s.ctxs ∧ t.cores = s.cores) ∧
      (home → ¬roomy → Says s c (.resume c) 5 fun t => t.ctxs = s.ctxs ∧ t.cores = s.cores) ∧
      (home → roomy → 64 * new.length < v.packs.length ∨ s.recordRoom new (v.records new (s.renames v new).2) = false ∨
        s.constRoom c.ctx { x with cores := new } = false ∨ ((s.renames v new).1.addGhosts v new (s.renames v new).2).isSome = false → Says s c (.resume c) 4 fun t => t.ctxs = s.ctxs ∧ t.cores = s.cores) ∧
      (home → roomy → v.packs.length ≤ 64 * new.length → (∀ k ∈ new, k ∈ x.cores) → s.recordRoom new (v.records new (s.renames v new).2) = true →
        s.constRoom c.ctx { x with cores := new } = true → ((s.renames v new).1.addGhosts v new (s.renames v new).2).isSome = true →
        (v.packs = [] → v.entries = [] → v.tokens = [] → x.arrivals = [] → Says s c (.resume c) 0 fun t => ∃ y, t.ctx c.ctx = some y ∧
          y.st = .running ∧ y.cores = new ∧ y.arrivals = [] ∧ y.save = none) ∧
        (v.packs = [] → ∃ t y, exec (.resume c) s = .next t ∧ t.ctx c.ctx = some y ∧ y.cores = new ∧
          (y.st = .running ∧ y.save = none ∧ Ended s c.port c.tag 0 t ∨
            y.st = .restoring ∧ (t.mbox c.port).status.getLsbD 15 = true ∧ ∃ w, y.save = some w ∧ w.tokens ≠ [])) ∧
        (v.packs ≠ [] → Stands s c (.resume c) fun t => ∃ y, t.ctx c.ctx = some y ∧ y.st = .restoring ∧ y.cores = new ∧
          y.restore.length = v.packs.length)) ∧
      (∀ oc age e b, home → roomy → new = x.cores → v.packs = [] → v.wakes = [] → v.copies = [] → v.ghosts = [] → v.entries = [(oc, age, e)] → v.closed = [] →
        s.block e.slot = some b → b.ports ≤ 4 → e.tag.toNat / 2 ^ 61 ≠ 7 → s.recordRoom new ([], []) = true →
        s.constRoom c.ctx { x with cores := new } = true →
        let core := s.placeCore x b (e.tag.toNat % 2 ^ 48)
        s.core core = Core.reset →
        ∃ t, exec (.resume c) s = .next t ∧ ∃ a ∈ (t.core core).entries, a.slot = e.slot ∧ a.tag = e.tag ∧ a.pres = e.pres ∧ a.pay = e.pay ∧ a.acq = e.acq)))
  ∧
  (∀ (n : Nat) (s : State) (x : Ctx), s.ctx n = some x →
    let u := s.placeSaved n
    let left := ∃ y w, u.ctx n = some y ∧ y.save = some w ∧ w.tokens ≠ []
    let same := ∃ t, exec (.restoredPackPlace n) s = .next t ∧ t.ctx n = some x ∧ t.cores = s.cores ∧ t.mem = s.mem ∧ t.io = s.io
    (x.st ≠ .restoring → exec (.restoredPackPlace n) s = .next s) ∧
    (x.st = .restoring → x.restore ≠ [] → (∀ w, x.save = some w → w.tokens = []) → (∀ q ∈ x.restore, s.restoreFits q = none) → same) ∧
    (∀ q, x.st = .restoring → x.restore = [q] → (∀ w, x.save = some w → w.tokens = []) →
      (∀ pipe < 4, 16 < ((s.core q.core).pipe pipe).queue.length + q.queue.length) → same) ∧
    (∀ w k b, x.st = .restoring → x.restore = [] → x.save = some w → w.tokens = [k] → k.ctx = n → k.slot ≠ 0xFFFF → s.block k.slot = some b → b.ctx = n →
      b.ordered = false → s.launches = [] → x.r.port < 2 → s.io.mbox.length = 2 → let core := s.placeCore x b (k.tag.toNat % 2 ^ 48)
      (s.accepts core k = false → same) ∧
      (s.accepts core k = true → s.io.hwait = [] → x.arrivals = [] → Closes s (.restoredPackPlace n) x.r.port 0 fun t =>
        (t.core core).arriving = (s.core core).arriving ++ [k] ∧ ∃ y, t.ctx n = some y ∧ y.st = .running ∧ y.save = none)) ∧
    (∀ q rest pipe slot, x.st = .restoring → x.restore = q :: rest → q.pack.id.ctx = n → u.restoreFits q = some (pipe, slot) → x.r.port < 2 →
      s.io.mbox.length = 2 →
      let r : PackRef := { core := q.core, pipe := pipe, slot := slot }
      let back := fun t : State => ∃ p, t.pack r = some p ∧ p.r = q.pack.r ∧ p.id.restored = true ∧ p.id.tags = q.pack.id.tags ∧
        p.c.st = q.pack.c.st ∧ p.c.pc = q.pack.c.pc ∧ p.m.frame = q.pack.m.frame
      s.pack r = none ∧
      (rest = [] → ¬left → Closes s (.restoredPackPlace n) x.r.port 0 fun t => back t ∧ ∃ y, t.ctx n = some y ∧ y.st = .running ∧ y.save = none) ∧
      (rest ≠ [] ∨ left → ∃ t y, exec (.restoredPackPlace n) s = .next t ∧ back t ∧ t.ctx n = some y ∧ y.st = .restoring ∧ y.restore = rest)))

/-- R188, R294, R297, R360: CHECKPOINT is refused from port 1 and while a context is not at rest, and out of form where ports repeat; else it
records nodes, ports and the time, writes a dirty line of the home slices, and sends each stack's first 4,096 bytes; a stack whose port is
down and whose node no port reaches fails. It ends with its times and the count of poisoned lines once all is acknowledged, or with a stack
that failed. The copy identifiers 0xFFFFFFF8 + j, one packet of 4,096 bytes a stack at a time, the places of the results in ARGS and the record
that is kept of it are the model's choice (DESIGN CHOICE, log 28). -/
def Obligations.Checkpoint : Prop :=
  (∀ (c : Cmd) (s : State), Idle s c → Only c [(0, 48)] →
    let node := fun k : Nat => argNat c (4 * k) 4
    let port := fun k : Nat => argNat c (32 + k) 1
    let dest := argNat c 40 8
    let rest := ∀ e ∈ s.ctxs, e.2.st = .preempted ∧ e.2.cut = none ∧ ∃ v, e.2.save = some v ∧
      (v.settled = true ∨ ∀ l ∈ s.launches, ¬(l.ctx = e.1 ∧ 1 < l.n ∧ l.st = .running))
    let form := (∀ k < 8, port k < 16) ∧ ∀ j < 8, ∀ k < 8, port j = port k → j = k
    (c.port = 1 ∨ ¬rest → Says s c (.checkpoint c) 5 fun t => t.chk = s.chk ∧ t.mem = s.mem) ∧
    (c.port = 0 → rest → ¬form → Says s c (.checkpoint c) 3 fun t => t.chk = s.chk ∧ t.mem = s.mem) ∧
    (c.port = 0 → rest → form → Stands s c (.checkpoint c) fun t => t.ctxs = s.ctxs ∧ ∃ k, t.chk = some k ∧ k.start = s.now ∧ k.dest = dest ∧
      (∀ j < 8, k.nodes.getD j 0 = node j ∧ k.ports.getD j 0 = port j ∧ k.acks.getD j 0 = 0) ∧
      (∀ e ∈ s.ctxs, (e.1, e.2.arrivals.length) ∈ k.arrivals ∧ (e.1, e.2.arrivals.length) ∈ t.mgmt.chkRec) ∧
      (let lost := fun j => (s.link (port j)).up = false ∧
          ∀ q < 16, (Sparse.get (node j / 4096) s.io.route).toNat.testBit q = true → (s.link q).up = false;
        ((∀ j < 8, ¬lost j) → k.failed = none ∧ ∀ j < 8, Sends t (node j) 2
          (.write (dest + j * 2 ^ 36) 0 0 (0xFFFFFFF8 + j) (Sparse.getRun t.mem.hbm (j * 2 ^ 36) 4096))) ∧
        ∀ j < 8, lost j → (∀ m < j, ¬lost m) → k.failed = some j) ∧
      (∀ l g x at_ v big, s.mem.l2 = [l] → l.held = false → l.poison = false → l.dirty ≠ 0 → l.ops = [] → l.colour = none → s.ctxs = [(g, x)] →
        x.r.asid = l.asid → s.walk x.root (l.line * 64) = .leaf at_ v big → paHost (leafPa v big (l.line * 64)) = none →
        (at_ + 8 ≤ leafPa v big (l.line * 64) ∨ leafPa v big (l.line * 64) + 64 ≤ at_) →
        (∀ g ∈ x.areaPages, g ≠ leafPa v big (l.line * 64) / 2 ^ 16) →
        (∀ w g, x.save = some w → g ∈ w.pages → g ≠ leafPa v big (l.line * 64) / 2 ^ 21) → ∀ i < 64, l.dirty.testBit i = true → Sparse.get (leafPa v big (l.line * 64) + i) t.mem.hbm = Sparse.get i l.data))) ∧
  (∀ (s : State) (k : Chk), s.chk = some k → s.io.mbox.length = 2 →
    (∀ j, k.failed = some j → Closes s .checkpointComplete 0 7 fun t => res t 0 0 4 = j % 2 ^ 32 ∧ t.chk = none ∧ t.mem = s.mem) ∧
    (k.failed = none → (∀ j < 8, 2 ^ 36 + 8 * (k.lists.getD j []).length ≤ k.acks.getD j 0) →
      Closes s .checkpointComplete 0 0 fun t => res t 0 0 8 = k.start % 2 ^ 64 ∧ res t 0 8 8 = s.now % 2 ^ 64 ∧
        res t 0 16 8 = (k.lists.map List.length).sum % 2 ^ 64 ∧ t.chk = none ∧ t.mem = s.mem) ∧
    (∀ j, j < 8 → k.failed = none → k.acks.getD j 0 < 2 ^ 36 + 8 * (k.lists.getD j []).length → exec .checkpointComplete s = .next s))
/-! ### The step, the encoding, reset, and what holds throughout -/

namespace Sys2Proof.Claims

/-- The lane, uniform and mask registers that an instruction of registers alone writes as it issues: of an SFU instruction none, since its
result arrives later (R20); `none` for an instruction of another shape. -/
def dests : Instr → Option (List Nat × List Nat × List Nat)
  | .add _ t d _ _ | .sub _ t d _ _ | .mul _ t d _ _ | .mulh t d _ _ | .mad t d _ _ | .min t d _ _ | .max t d _ _ =>
    some (if t.wide then [d, d + 1] else [d], [], [])
  | .addImm d _ _ | .mulImm d _ _ | .andImm d _ _ | .orImm d _ _ | .xorImm d _ _ | .bfx _ d _ _ _ | .bfi d _ _ _ | .moviV d _ | .movhiV d _
  | .sel d _ _ _ => some ([d], [], [])
  | .divi w d _ _ | .divn w d _ _ | .remi w d _ _ | .remn w d _ _ | .abs w d _ | .neg w d _ | .not w d _ | .clz w d _ | .popc w d _
  | .brev w d _ | .and w d _ _ | .or w d _ _ | .xor w d _ _ | .andn w d _ _ | .shl w d _ _ | .shr w d _ _ | .shra w d _ _ | .rotl w d _ _
  | .shlImm w d _ _ | .shrImm w d _ _ | .shraImm w d _ _ | .rotlImm w d _ _ | .mov w d _ => some (if w then [d, d + 1] else [d], [], [])
  | .movsLane d _ _ | .movsUniform d _ | .moviS d _ | .movhiS d _ | .reduce _ _ d _ | .vote _ d _ | .nln d | .movcRead d _ => some ([], [d], [])
  | .moviImm32 u d _ => some (if u then ([], [d], []) else ([d], [], []))
  | .cmp _ _ d _ _ | .cmpImm _ _ d _ _ | .fcmp _ _ d _ _ | .ballot d _ => some ([], [], [d])
  | .kop op d _ _ => some (if op = .tos then ([], [d], []) else ([], [], [d]))
  | .fadd _ d _ _ | .fsub _ d _ _ | .fmul _ d _ _ | .ffma _ d _ _ | .fscale _ d _ _ | .fmin d _ _ | .fmax d _ _ | .fabs d _ | .fneg d _
  | .fclass d _ | .frnd _ d _ | .hadd2 _ _ d _ _ | .hmul2 _ _ d _ _ | .hfma2 _ _ d _ _ => some ([d], [], [])
  | .cvt dst _ _ d _ => some (if dst.wide then [d, d + 1] else [d], [], [])
  | .frcp _ _ | .frsq _ _ | .fsqrt _ _ | .fexp2 _ _ | .flog2 _ _ | .fsin _ _ | .fcos _ _ | .ftanh _ _ | .fsigm _ _ | .nop => some ([], [], [])
  | .lmv _ _ d _ rows _ _ => some ((List.range rows).map (d + ·), [], [])
  | .scan _ _ _ d _ | .shfl _ d _ _ | .confl d _ | .lane d | .idxF d _ => some ([d], [], [])
  | .tagc d | .mktag d _ | .mktagColour d _ _ => some ([d, d + 1], [], [])
  | .clock d => some ([], [d, d + 1], [])
  | _ => none

/-- The instructions of registers that may raise a class of FLAGS as they issue (R94, R108, R121 to R131). -/
def raising : Instr → Bool
  | .divi .. | .divn .. | .remi .. | .remn .. | .fadd .. | .fsub .. | .fmul .. | .ffma .. | .fmin .. | .fmax .. | .frnd .. | .fcmp ..
  | .fscale .. | .hadd2 .. | .hmul2 .. | .hfma2 .. | .cvt .. | .lmv .. | .reduce .. | .scan .. => true
  | _ => false

end Sys2Proof.Claims

/-- R29 to R31, R94, R106 to R140, R248 to R253, R275: an instruction of registers alone changes no lane register but its destinations in its active
lanes, no uniform or mask register but its destination, no descriptor, control register, view, private word or tile of its pack, no other
pack and no memory; the context's FLAGS change only for those that can raise a class, and nothing else of a context does. -/
def Obligations.RegisterInstructionFrame : Prop :=
  ∀ (i : Instr) (vs ss ks : List Nat) (s t : State) (p : Pack), dests i = some (vs, ss, ks) → s.pack s.cur = some p → exec i s = .next t →
    p.id.colour = none →
    t.mem = s.mem ∧ t.now = s.now ∧ t.blocks = s.blocks ∧ t.io = s.io ∧
    (raising i = false → t.ctxs = s.ctxs) ∧
    (∀ n y, t.ctx n = some y → ∃ x, s.ctx n = some x ∧ y = { x with r := { x.r with flags := y.r.flags } } ∧ (n ≠ p.id.ctx → y = x)) ∧
    (∀ r, r ≠ s.cur → r.pipe < 4 → r.slot < 16 → s.cur.pipe < 4 → s.cur.slot < 16 → t.pack r = s.pack r) ∧
    ∃ q, t.pack s.cur = some q ∧ q.m = p.m ∧ q.id = { p.id with restored := q.id.restored } ∧ q.r.td = p.r.td ∧ q.r.fpctl = p.r.fpctl ∧
      q.r.trapen = p.r.trapen ∧ q.r.leash = p.r.leash ∧ (∀ r L, L < 32 → (r ∉ vs ∨ L ∉ p.lanes) → q.v r L = p.v r L) ∧
      (∀ r, r ∉ ss → q.s r = p.s r) ∧ ∀ r, r ∉ ks → q.k r = p.k r

/-- R10, R20, R43, R104, R303, R310: the head of the agenda is the move that a step makes: a pipeline's issue first completes what is due by
its ck and looks at the parks, then runs the instruction that the words at the pack's index decode to, on the pack whose turn it is, or nothing
where no pack may issue; a resumed pack gives up its frame as it issues, not while the instruction parks before it issues, which leaves the pack
and the pipeline as they are; words that are no instruction trap as illegal; an event runs as itself, a packet as what it holds; with no agenda left the move is the free schedule's. -/
def Obligations.StepRunsTheDecodedInstruction : Prop :=
  ∀ (s : State) (rest : List Move), let next : State := { s with agenda := rest }
    (∀ core pipe, s.agenda = .issue core pipe :: rest →
      let now := max s.now ((s.core core).pipe pipe).next
      let u := (next.tick now).wakePacks core pipe
      (u.nextSlot core pipe now = none → step s = .next u) ∧
      (∀ slot p b, let r : PackRef := { core := core, pipe := pipe, slot := slot }
        let v : State := { (u.modPipe core pipe fun k => { k with turn := slot }) with cur := r }
        u.nextSlot core pipe now = some slot → v.pack r = some p → v.block p.id.slot = some b →
        let words := decodeWords (b.code.getD p.idx 0) b.code[p.idx + 1]?
        let whole : Pack := { p with c := { p.c with resume := none } }
        let w := (v.setFrameState (v.asid p.id.ctx) r 0).setPack r whole
        (∀ i, words = .ok i → v.atPoint p = false → step s = exec i v) ∧
        (∀ i, words = .ok i → v.atPoint p = true → p.c.reports = [] → p.c.resume = none → step s = exec i v) ∧
        (∀ i k t, words = .ok i → v.atPoint p = true → p.c.reports = [] → p.c.resume = some k → exec i w = .next t →
          let parks := t.pack r = some whole ∧ ((t.core core).pipe pipe).next = ((v.core core).pipe pipe).next
          (¬parks → step s = .next t) ∧ (parks → step s = .next v)) ∧
        (v.atPoint p = true → p.c.reports ≠ [] → step s = .next (v.trapReport r p)) ∧
        (∀ e, words = .error e → v.atPoint p = false → step s = .next (v.trapIllegal r p (opWords (majorOp (b.code.getD p.idx 0))) 2)))) ∧
    (∀ i, s.agenda = .event i :: rest → i.isEvent = true → step s = exec i next) ∧
    (∀ n, s.agenda = .pass n :: rest → step s = .next (next.tick (s.now + n))) ∧
    (∀ port bytes i, s.agenda = .packet port bytes :: rest → (s.link port).up = true → (LinkHdr.ofNat (pktNat bytes 0 8)).peerMarker = false →
      (readPacket bytes).event port = some i → step s = exec i next) ∧
    (∀ e, s.agenda = .boot e :: rest → step s = .next (next.bootMove e)) ∧
    (∀ port, s.agenda = .loader port :: rest → step s = .next (next.loaderMove port)) ∧
    (s.agenda = [] → step s = ({ s with freeCount := s.freeCount + 1 } : State).move (Config.freeMove s.freeCount))

/-- R34 to R61: words that the spec's encodings and examples give decode to the instructions they stand for. -/
def Obligations.WordsDecode : Prop :=
  decodeTableWord 32 0x01082100 = some (.add false .i32 2 2 (.v 4)) ∧ decodeTableWord 32 0x4A000000 = some .endBlock ∧
  decodeTableWord 32 0x9E046021 = some (.cmp .gt .i32 1 6 (.s 0)) ∧ decodeTableWord 32 0x3E182100 = some (.ld .w false 6 2 0) ∧
  decodeTableWord 64 0x000006107B202240 = some (.atom .add .n32 .dev .relaxed 8 2 (.v 9)) ∧
  decodeTableWord 64 0x000100037A408601 = some (.rseal 16 8 24 3 1) ∧ decodeTableWord 32 0x55100000 = some (.tresume 4)

/-- R34 to R61: the decoder reads every well-formed instruction from its words, with W set or clear, whatever stands after them. -/
def Obligations.EveryInstructionDecodes : Prop :=
  ∀ (i : Instr) (w : Bool) (after : List Nat), i.wellFormed = true → i.isEvent = false →
    decode (encodeW w i ++ after) = some (.ok { w := w, instr := i, len := (encode i).length }, after) ∧ (encode i).length ≤ 2 ∧
    ∀ x ∈ encodeW w i, x < 2 ^ 32

namespace Sys2Proof.Claims

/-- What programs and hosts see after device reset, row by row of R364's table, with the registers of R366. -/
def AfterReset (s : State) : Prop :=
  (∀ n, s.ctx n = none ∧ s.block n = none ∧ s.images.find n = none) ∧
  (∀ core, let c := s.core core
    c.entries = [] ∧ c.bins = [] ∧ c.closed = [] ∧ c.quiet = [] ∧ c.spill = [] ∧ c.arriving = [] ∧ c.intake = [] ∧ c.outbound = [] ∧
    c.alloc = [] ∧ c.slots = [] ∧ c.flights = [] ∧ c.wake = [] ∧ c.copies = [] ∧ c.packs = [] ∧ c.ghosts = [] ∧ c.raised = [] ∧ c.spawned = [] ∧
    (∀ pipe, (c.pipe pipe).queue = []) ∧ c.l1 = [] ∧ c.streams = [] ∧ c.serial = 0 ∧ c.seq = 0 ∧ c.hseq = 0) ∧
  s.returns = [] ∧ s.misses = [] ∧ (∀ die, (s.retriever die).queue = [] ∧ (s.retriever die).stack = []) ∧ s.launches = [] ∧ s.prepares = [] ∧
  s.io.wait = [] ∧ s.io.hwait = [] ∧ s.io.loads = [] ∧ s.io.lwait = [] ∧ s.io.held = [] ∧ (∀ port, (s.link port).queue = [] ∧ (s.link port).replay = [] ∧ (s.link port).up = false) ∧
  (∀ k, s.io.hseq.find k = none) ∧ s.mem.l2 = [] ∧ s.mem.tc = [] ∧ s.level7 = [] ∧
  (∀ pa, s.part.chunks.getD (pa / 2 ^ 30) 0 ≠ 3 → s.ownerOf pa = 0) ∧ (∀ line, line ∉ s.mem.bad) ∧
  (∃ a b, s.part.dom = [a, b] ∧ a.enabled = true ∧ b.enabled = false) ∧ (∀ core < 192, s.part.cores.getD core 0 = 1) ∧
  (∀ g < 512, s.part.chunks.getD g 0 = 1 ∨ s.part.chunks.getD g 0 = 3) ∧
  s.mgmt.booterr = 0 ∧ (∀ die < 4, s.mgmt.thermal.getD die 0 = 0) ∧ s.mgmt.secure = false ∧ s.mgmt.ready = false ∧ s.mgmt.svn = 0 ∧
  s.now = 0 ∧ s.mgmt.cecnt = 0 ∧ s.mgmt.uecnt = 0 ∧ s.mgmt.pktdrop = 0 ∧ s.mgmt.thrcnt = 0 ∧
  (∀ port < 2, (s.mbox port).status.getLsbD 15 = true ∧ s.mgmt.latch.getD port 0 = 0 ∧ s.mgmt.aperr.getD port 0 = 0 ∧
    s.mgmt.done.getD port false = false ∧ ∀ w, Sparse.get w (s.mgmt.nonce.getD port []) = 0)

end Sys2Proof.Claims

/-- R364: in every state DEVICE_RESET leaves what the table of R364 gives (with the management registers of R366), and so is the state from
which the machine starts; firmware frames are excepted, and which they are, with HBM's contents, is open (log 5); PERST# on a host port resets
that port's link and window state alone: that of its registers the CHRONO_HI latch is the one that goes is the model's reading (DEDUCED, log 39). -/
def Obligations.DeviceResetState : Prop :=
  AfterReset State.reset ∧
  (∀ s : State, ∃ t, exec .deviceReset s = .next t ∧ AfterReset t ∧ t.mem.host0 = s.mem.host0 ∧ t.mem.host1 = s.mem.host1) ∧
  (∀ (port : Nat) (s : State), ∃ t, exec (.portReset port) s = .next t ∧
    t = { s with io := { s.io with up := t.io.up }, mgmt := { s.mgmt with latch := t.mgmt.latch } } ∧
    (port < 2 → s.mgmt.latch.length = 2 → t.mgmt.latch.getD port 0 = 0) ∧
    ∀ k, k ≠ port → t.io.up.getD k false = s.io.up.getD k false ∧ t.mgmt.latch.getD k 0 = s.mgmt.latch.getD k 0)

/-- R361, R365 to R367: bring-up goes step by step: the image in flash is verified; HBM trains, error 3, and is scrubbed, error 4, which
leaves every line zero and none poisoned; the Plaoz ports
with a partner train, error 5; the host ports train and enumerate, error 6; and only then the device is ready, its mailboxes not busy, and both
ports are told. A step that fails is named in BOOTERR, and no later one is made. Which ports have a partner is open (log 72). -/
def Sys2Proof.Claims.BringUp : Prop :=
  ∀ (s : State), s.mgmt.ready = false → s.mgmt.booterr = 0 →
    let at_ := fun e : Nat => State.move s (.boot e)
    let fails := fun e : Nat => at_ e = .next { s with mgmt := { s.mgmt with booterr := e } }
    let goes := fun (f : State → Prop) => ∃ t, at_ 0 = .next t ∧ t.mgmt = { s.mgmt with boot := s.mgmt.boot + 1 } ∧ f t
    let i := Config.flashImage
    let signed := Config.sha256 i.pubKey = Config.fusedKeyHash ∧ Config.slhVerify i.pubKey i.body i.sig = true
    let low := max Config.fusedMinSvn s.mgmt.svnFused
    (s.mgmt.boot = 1 → ∀ e,
      (¬signed → ∃ t, at_ e = .next t ∧ t.mgmt.booterr = 1 ∧ t.mgmt.secure = false ∧ t.mgmt.boot = 1) ∧
      (signed → i.svn < low → ∃ t, at_ e = .next t ∧ t.mgmt.booterr = 2 ∧ t.mgmt.secure = false ∧ t.mgmt.boot = 1) ∧
      (signed → low ≤ i.svn → ∃ t, at_ e = .next t ∧ t.mgmt.booterr = 0 ∧ t.mgmt.secure = true ∧ t.mgmt.svn = i.svn ∧ t.mgmt.boot = 2 ∧
        t.mgmt.svnFused = if i.raise then max s.mgmt.svnFused i.svn else s.mgmt.svnFused)) ∧
    (s.mgmt.boot = 2 → fails 3 ∧ fails 4 ∧ goes fun t => t.io = s.io ∧ t.mem = { s.mem with hbm := [], bad := [] }) ∧
    (s.mgmt.boot = 3 → fails 5 ∧
      ((∀ port < 16, Config.linkedPorts.testBit port = true → (s.link port).up = true) → goes fun t => t.io = s.io) ∧
      ((∃ port < 16, Config.linkedPorts.testBit port = true ∧ (s.link port).up = false) → at_ 0 = .next s)) ∧
    (s.mgmt.boot = 4 → fails 6 ∧ goes fun t => t.io.up = [true, true]) ∧
    (s.mgmt.boot < 5 → exec .deviceReady s = .next s) ∧
    (5 ≤ s.mgmt.boot → ∃ t, exec .deviceReady s = .next t ∧ t.mgmt.ready = true ∧ (∀ port < 2, (t.mbox port).status.getLsbD 15 = false) ∧
      t.io.msix = s.io.msix ++ [(0, 0), (1, 0)]) ∧
    ∀ e ∈ [1, 2, 3, 4, 5, 6], let z : State := { s with mgmt := { s.mgmt with booterr := e } }
      exec .deviceReady z = .next z ∧ ∀ k, State.move z (.boot k) = .next z

/-- R117, R253: SEL and NOP, whole: their words, what they write in each active lane, and that they raise no flag and change nothing
else; k0 as the mask of SEL selects vA in every active lane; NOP takes its pipeline for 1 ck, and a pack whose next instruction has W
set does not issue while a deferred result is outstanding. -/
def Obligations.SelectAndNop : Prop :=
  (∀ (d a k : Nat) (b : BOp), d < 64 → a < 64 → k < 8 → (match b with | .v r => r < 64 | .s r => r < 32) →
    decodeWords (0x1D * 2 ^ 24 + d * 2 ^ 18 + a * 2 ^ 12 + bField b + k * 2) none = .ok (.sel d a b k)) ∧
  (∀ (d a k : Nat) (b : BOp) (s : State) (p : Pack), d < 64 →
    Runs s p (.sel d a b k) 1 fun t q => t.ctxs = s.ctxs ∧ t.mem = s.mem ∧
      (∀ L ∈ p.lanes, q.v d L = if (p.k k).getLsbD L then p.v a L else p.b b L) ∧
      (k = 0 → ∀ L ∈ p.lanes, q.v d L = p.v a L) ∧
      ∀ r L, L < 32 → r ≠ d ∨ L ∉ p.lanes → q.v r L = p.v r L) ∧
  decodeWords 0x51000000 none = .ok .nop ∧
  (∀ (s : State) (p : Pack), p.c.replay = [] → Runs s p .nop 1 fun t q =>
    t = (s.setPack s.cur q).modPipe s.cur.core s.cur.pipe (fun z => { z with next := s.now + 1 }) ∧
    q = { p with c := { p.c with pc := p.c.pc + 1 } }) ∧
  (∀ (s : State) (now : Nat) (p : Pack), s.atPoint p = true → p.c.deferred ≠ [] → s.canIssue now p = false)

/-- The memories of the state after reset are in their canonical form. -/
def Obligations.ResetMemoryIsCanonical : Prop := Memory.wf State.reset.mem = true

/-- Every step keeps the memories in their canonical form: keys strictly rising, and no entry that equals what an unlisted key reads as. -/
def Obligations.StepKeepsMemoryCanonical : Prop :=
  ∀ s t : State, Memory.wf s.mem = true → step s = .next t → Memory.wf t.mem = true
/-! ### Statements of several parts -/

/-- R106 to R108: the integer arithmetic instructions, the divides with a zero divisor included. -/
def Obligations.IntegerArithmeticResults : Prop := AddSubMulResults ∧ HighAndAddMultiplyResults ∧ DivideResults

/-- R109 to R113: MIN and MAX, the unary group, the logic instructions, the shifts, and the bit fields. -/
def Obligations.BitwiseResults : Prop := MinMaxAndUnaryResults ∧ LogicResults ∧ ShiftResults ∧ BitFieldResults

/-- R114 to R120, R29, R105: moves, selection, lane identity, compares and mask logic. -/
def Obligations.MoveCompareAndMaskResults : Prop := MoveResults ∧ CompareResults ∧ MaskResults

/-- R81, R82, R93, R121 to R131: the FP32 and half instructions, compares and conversions: their results and where they complete, the special operands, and the values of FRND and FSCALE. -/
def Obligations.FloatingPointResults : Prop := FloatResults ∧ FloatCompareHalfAndConvertResults ∧ FloatSpecialOperands ∧ FloatingPointCompletes ∧ RoundAndScaleValues

/-- R83, R121, R122, R131: sums and products are exact before they are rounded; the worked conversions of R83, and the values of CVT. -/
def Obligations.ExactBeforeRounding : Prop := SumsAndProductsAreExactBeforeRounding ∧ WorkedConversions ∧ ConversionValues

/-- R20, R101, R104, R132, R133: the special functions, at issue, as their results arrive, on their special inputs, and the correctly rounded ones. -/
def Obligations.SpecialFunctions : Prop := SfuIssue ∧ SfuResultArrives ∧ SfuSpecialInputs ∧ ReciprocalsAndRootsAreCorrect

/-- R86 to R88, R134 to R136: LMV, REDUCE and SCAN, each in the order its rule fixes. -/
def Obligations.MatvecReduceAndScan : Prop := LaneMatvec ∧ ReduceAndScanResults

/-- R147, R148, R152 to R163: the engine instructions at issue, the checks of TLD and TST, and TDESC, BFENCE and BWAIT. -/
def Obligations.TileInstructions : Prop := EngineInstructionsQueue ∧ TileMovesCheckTheirDescriptor ∧ DescriptorAndBatchInstructions

/-- R190, R191, R193, R195, R197, R202: LD and LDS, at issue and as their results arrive. -/
def Obligations.Loads : Prop := LoadIssue ∧ LoadResultArrives

/-- R193, R194, R200 to R202: ST at issue, and the accesses that trap. -/
def Obligations.StoresAndAccessChecks : Prop := StoreIssue ∧ AccessChecksTrap

/-- R183, R202, R204, R206: the frame, private and constant accesses, and the frame atomics. -/
def Obligations.ViewsAndFrameAtomics : Prop := ViewAndConstantAccesses ∧ FrameAtomicResults

/-- R180 to R182, R205, R207, R213: the global atomics at issue, the fences, and PFX. -/
def Obligations.AtomicsFencesAndPrefetch : Prop := GlobalAtomicIssue ∧ FencesAndPrefetch

/-- R172, R174, R180, R188, R195, R197, R200: what becomes of loads and stores. -/
def Obligations.FillsAndStorePath : Prop := LineFillBindsItsLanes ∧ StorePath

/-- R174, R182, R205: an atomic at its home slice; evictions from the caches. -/
def Obligations.AtomicsAndEvictions : Prop := AtomicAtHome ∧ EvictionsKeepTheMemories

/-- R208, R209, R236 to R239: CPY, SEND and SENDM at issue. -/
def Obligations.CopiesAndSends : Prop := CopyIssue ∧ SendTokens

/-- R141, R241 to R244, R247: SPAWN, RETURN and END. -/
def Obligations.SpawnReturnAndEnd : Prop := SpawnAndReturn ∧ EndFreesThePack

/-- R248 to R253, R303: IDX.F, TAGC, MKTAG, CLOCK, TRAP and BRK. -/
def Obligations.TagsClockAndSoftwareTraps : Prop := TagAndClockInstructions ∧ TrapAndBreakpoint

/-- R314 to R317, R320, R321: REPLAY, TKILL and FAULTRD on fault records. Held word 14 of a copy record, its completion token, being 1 is the model's reading
(DEDUCED, log 19). -/
def Obligations.FaultRecords : Prop := FaultRecordInstructions ∧ FaultrdReadsARecord

/-- R263, R264, R268, R270, R271, R274, R278, R279: HCMD, and what it does to one page of either size. -/
def Obligations.PageCommands : Prop := HarbourCommands ∧ HarbourPageOperations ∧ HarbourLargePages

/-- R11, R176, R215 to R220, R229, R230, R239, R290: tokens as they leave and as they arrive. -/
def Obligations.TokensInAndOut : Prop := TokensReachTheMatchingStore ∧ OutboundTokensLeave

/-- R14, R25, R26, R218, R222, R223, R225, R227, R325: bins, sequence numbers and firings. -/
def Obligations.BinsAndFirings : Prop := BinsAndSequenceNumbers ∧ FiringsStartPacks

/-- R278, R279, R291 to R293, R349: what every mailbox command is checked for, and MAP. Status 3 for a code of MAP that is none of HCMD's is the
model's reading (DEDUCED, log 46). -/
def Obligations.MailboxAndMapCommands : Prop := MailboxCommands ∧ MapCommand

/-- R92, R142, R143, R148 to R163: an engine instruction ends, with the batches it counts and the results its rule gives. That
a TLD reads, and a TST writes, its whole extent at once as it ends is the model's choice (DESIGN CHOICE, log 64). -/
def Obligations.EngineInstructionEnds : Prop := EngineEndEvents ∧ EngineResults

/-- R67 to R72, R291 to R293: LOAD, check by check, and UNLOAD. A reason read as 4 bytes, and live slots looked at before records, are the model's
reading (DEDUCED, log 46). -/
def Obligations.LoadAndUnload : Prop := LoadChecks ∧ LoadAndUnloadCommands

/-- R4, R210, R294 to R302, R352: packets as bytes of flits, and what a node does with those it receives. The model's choices
in it are logs 27, 28, 29 and 48. -/
def Obligations.LinkPackets : Prop := PacketBytes ∧ LinkPacketEvents

/-- R361, R364 to R370: bring-up step by step, firmware images, and attestation. The model's choices in it: which ports have a partner is log 72, and
what of a host port's state a reset of that port clears is log 39. -/
def Obligations.ResetsFirmwareAndAttestation : Prop := BringUp ∧ FirmwareAndAttestation
end

