-- ==== Sys2Proof/Laws/Lines.lean ====
section
/-! SUPPORT. The lines of the home slices: what a write, a RED that waits and a settled line keep of a line, and what a poisoned TLP and
the pages of the arrival areas leave alone. -/

namespace Sys2Proof.Machine

/-! ### One line -/

@[simp] theorem L2Line.write_asid (l : L2Line) (data : Sparse 8) (mask : Nat) : (l.write data mask).asid = l.asid := rfl
@[simp] theorem L2Line.write_line (l : L2Line) (data : Sparse 8) (mask : Nat) : (l.write data mask).line = l.line := rfl
@[simp] theorem L2Line.write_colour (l : L2Line) (data : Sparse 8) (mask : Nat) : (l.write data mask).colour = l.colour := rfl
@[simp] theorem L2Line.write_held (l : L2Line) (data : Sparse 8) (mask : Nat) : (l.write data mask).held = l.held := rfl
@[simp] theorem L2Line.write_probes (l : L2Line) (data : Sparse 8) (mask : Nat) : (l.write data mask).probes = l.probes := rfl
@[simp] theorem L2Line.write_posted (l : L2Line) (data : Sparse 8) (mask : Nat) : (l.write data mask).posted = l.posted := rfl

@[simp] theorem L2Line.await_asid (l : L2Line) (op : AtomOp) (t : IntTy) (off arg : Nat) : (l.await op t off arg).asid = l.asid := rfl
@[simp] theorem L2Line.await_line (l : L2Line) (op : AtomOp) (t : IntTy) (off arg : Nat) : (l.await op t off arg).line = l.line := rfl
@[simp] theorem L2Line.await_colour (l : L2Line) (op : AtomOp) (t : IntTy) (off arg : Nat) : (l.await op t off arg).colour = l.colour := rfl
@[simp] theorem L2Line.await_held (l : L2Line) (op : AtomOp) (t : IntTy) (off arg : Nat) : (l.await op t off arg).held = l.held := rfl
@[simp] theorem L2Line.await_probes (l : L2Line) (op : AtomOp) (t : IntTy) (off arg : Nat) : (l.await op t off arg).probes = l.probes := rfl
@[simp] theorem L2Line.await_posted (l : L2Line) (op : AtomOp) (t : IntTy) (off arg : Nat) : (l.await op t off arg).posted = l.posted := rfl

@[simp] theorem L2Line.whole_asid (l : L2Line) (mem : Sparse 8) (bad : Bool) : (l.whole mem bad).asid = l.asid := rfl
@[simp] theorem L2Line.whole_line (l : L2Line) (mem : Sparse 8) (bad : Bool) : (l.whole mem bad).line = l.line := rfl
@[simp] theorem L2Line.whole_colour (l : L2Line) (mem : Sparse 8) (bad : Bool) : (l.whole mem bad).colour = l.colour := rfl
@[simp] theorem L2Line.whole_held (l : L2Line) (mem : Sparse 8) (bad : Bool) : (l.whole mem bad).held = l.held := rfl
@[simp] theorem L2Line.whole_probes (l : L2Line) (mem : Sparse 8) (bad : Bool) : (l.whole mem bad).probes = l.probes := rfl
@[simp] theorem L2Line.whole_posted (l : L2Line) (mem : Sparse 8) (bad : Bool) : (l.whole mem bad).posted = l.posted := rfl

/-- With nothing that waits, a line's own bytes lie over those of memory. -/
@[simp] theorem L2Line.over_of_no_ops (l : L2Line) (mem : Sparse 8) (h : l.ops = []) : l.over mem = overlay mem l.data l.valid := by
  simp [L2Line.over, h]

/-- A write to a line on which nothing waits leaves nothing that waits. -/
theorem L2Line.write_ops_of_no_ops (l : L2Line) (data : Sparse 8) (mask : Nat) (h : l.ops = []) : (l.write data mask).ops = [] := by
  simp [L2Line.write, h]

/-- A write of all 64 bytes leaves nothing that waits, and no poison (R322). -/
theorem L2Line.write_full (l : L2Line) (data : Sparse 8) :
    (l.write data fullMask).ops = [] ∧ (l.write data fullMask).poison = false := by
  simp [L2Line.write]

/-- A RED that waits has something for memory to take. -/
theorem L2Line.await_unsaved (l : L2Line) (op : AtomOp) (t : IntTy) (off arg : Nat) : (l.await op t off arg).unsaved = true := by
  simp [L2Line.unsaved, L2Line.await]

@[simp] theorem L2Line.whole_ops (l : L2Line) (mem : Sparse 8) (bad : Bool) : (l.whole mem bad).ops = [] := rfl
@[simp] theorem L2Line.whole_valid (l : L2Line) (mem : Sparse 8) (bad : Bool) : (l.whole mem bad).valid = fullMask := rfl

/-- A line on which nothing waits is settled as it stands. -/
@[simp] theorem State.settleLine_of_no_ops (s : State) (l : L2Line) (pa : Nat) (h : l.ops = []) : s.settleLine l pa = l := by
  simp [State.settleLine, h]

/-- A settled line has nothing that waits. -/
@[simp] theorem State.settleLine_ops (s : State) (l : L2Line) (pa : Nat) : (s.settleLine l pa).ops = [] := by
  unfold State.settleLine
  split
  · next h => simpa using h
  · rfl

@[simp] theorem State.settleLine_asid (s : State) (l : L2Line) (pa : Nat) : (s.settleLine l pa).asid = l.asid := by
  unfold State.settleLine; split <;> rfl
@[simp] theorem State.settleLine_line (s : State) (l : L2Line) (pa : Nat) : (s.settleLine l pa).line = l.line := by
  unfold State.settleLine; split <;> rfl
@[simp] theorem State.settleLine_colour (s : State) (l : L2Line) (pa : Nat) : (s.settleLine l pa).colour = l.colour := by
  unfold State.settleLine; split <;> rfl
@[simp] theorem State.settleLine_held (s : State) (l : L2Line) (pa : Nat) : (s.settleLine l pa).held = l.held := by
  unfold State.settleLine; split <;> rfl
@[simp] theorem State.settleLine_probes (s : State) (l : L2Line) (pa : Nat) : (s.settleLine l pa).probes = l.probes := by
  unfold State.settleLine; split <;> rfl

/-! ### A poisoned TLP, and the pages of the arrival areas -/

@[simp] theorem State.sendEp_agenda (s : State) (pa n : Nat) : (s.sendEp pa n).agenda = s.agenda := by unfold State.sendEp; split <;> rfl
@[simp] theorem State.sendEp_freeCount (s : State) (pa n : Nat) : (s.sendEp pa n).freeCount = s.freeCount := by unfold State.sendEp; split <;> rfl
@[simp] theorem State.sendEp_cur (s : State) (pa n : Nat) : (s.sendEp pa n).cur = s.cur := by unfold State.sendEp; split <;> rfl
@[simp] theorem State.sendEp_uid (s : State) (pa n : Nat) : (s.sendEp pa n).uid = s.uid := by unfold State.sendEp; split <;> rfl
@[simp] theorem State.sendEp_now (s : State) (pa n : Nat) : (s.sendEp pa n).now = s.now := by unfold State.sendEp; split <;> rfl
@[simp] theorem State.sendEp_part (s : State) (pa n : Nat) : (s.sendEp pa n).part = s.part := by unfold State.sendEp; split <;> rfl
@[simp] theorem State.sendEp_blocks (s : State) (pa n : Nat) : (s.sendEp pa n).blocks = s.blocks := by unfold State.sendEp; split <;> rfl
@[simp] theorem State.sendEp_images (s : State) (pa n : Nat) : (s.sendEp pa n).images = s.images := by unfold State.sendEp; split <;> rfl
@[simp] theorem State.sendEp_ctxs (s : State) (pa n : Nat) : (s.sendEp pa n).ctxs = s.ctxs := by unfold State.sendEp; split <;> rfl
@[simp] theorem State.sendEp_level7 (s : State) (pa n : Nat) : (s.sendEp pa n).level7 = s.level7 := by unfold State.sendEp; split <;> rfl
@[simp] theorem State.sendEp_returns (s : State) (pa n : Nat) : (s.sendEp pa n).returns = s.returns := by unfold State.sendEp; split <;> rfl
@[simp] theorem State.sendEp_retr (s : State) (pa n : Nat) : (s.sendEp pa n).retr = s.retr := by unfold State.sendEp; split <;> rfl
@[simp] theorem State.sendEp_misses (s : State) (pa n : Nat) : (s.sendEp pa n).misses = s.misses := by unfold State.sendEp; split <;> rfl
@[simp] theorem State.sendEp_launches (s : State) (pa n : Nat) : (s.sendEp pa n).launches = s.launches := by unfold State.sendEp; split <;> rfl
@[simp] theorem State.sendEp_prepares (s : State) (pa n : Nat) : (s.sendEp pa n).prepares = s.prepares := by unfold State.sendEp; split <;> rfl
@[simp] theorem State.sendEp_mgmt (s : State) (pa n : Nat) : (s.sendEp pa n).mgmt = s.mgmt := by unfold State.sendEp; split <;> rfl
@[simp] theorem State.sendEp_chk (s : State) (pa n : Nat) : (s.sendEp pa n).chk = s.chk := by unfold State.sendEp; split <;> rfl
@[simp] theorem State.sendEp_cores (s : State) (pa n : Nat) : (s.sendEp pa n).cores = s.cores := by unfold State.sendEp; split <;> rfl

@[simp] theorem State.dropFrames_agenda (s : State) (fs : List Nat) : (s.dropFrames fs).agenda = s.agenda := rfl
@[simp] theorem State.dropFrames_freeCount (s : State) (fs : List Nat) : (s.dropFrames fs).freeCount = s.freeCount := rfl
@[simp] theorem State.dropFrames_cur (s : State) (fs : List Nat) : (s.dropFrames fs).cur = s.cur := rfl
@[simp] theorem State.dropFrames_uid (s : State) (fs : List Nat) : (s.dropFrames fs).uid = s.uid := rfl
@[simp] theorem State.dropFrames_now (s : State) (fs : List Nat) : (s.dropFrames fs).now = s.now := rfl
@[simp] theorem State.dropFrames_blocks (s : State) (fs : List Nat) : (s.dropFrames fs).blocks = s.blocks := rfl
@[simp] theorem State.dropFrames_images (s : State) (fs : List Nat) : (s.dropFrames fs).images = s.images := rfl
@[simp] theorem State.dropFrames_ctxs (s : State) (fs : List Nat) : (s.dropFrames fs).ctxs = s.ctxs := rfl
@[simp] theorem State.dropFrames_level7 (s : State) (fs : List Nat) : (s.dropFrames fs).level7 = s.level7 := rfl
@[simp] theorem State.dropFrames_returns (s : State) (fs : List Nat) : (s.dropFrames fs).returns = s.returns := rfl
@[simp] theorem State.dropFrames_retr (s : State) (fs : List Nat) : (s.dropFrames fs).retr = s.retr := rfl
@[simp] theorem State.dropFrames_misses (s : State) (fs : List Nat) : (s.dropFrames fs).misses = s.misses := rfl
@[simp] theorem State.dropFrames_launches (s : State) (fs : List Nat) : (s.dropFrames fs).launches = s.launches := rfl
@[simp] theorem State.dropFrames_prepares (s : State) (fs : List Nat) : (s.dropFrames fs).prepares = s.prepares := rfl
@[simp] theorem State.dropFrames_mgmt (s : State) (fs : List Nat) : (s.dropFrames fs).mgmt = s.mgmt := rfl
@[simp] theorem State.dropFrames_chk (s : State) (fs : List Nat) : (s.dropFrames fs).chk = s.chk := rfl
@[simp] theorem State.dropFrames_cores (s : State) (fs : List Nat) : (s.dropFrames fs).cores = s.cores := rfl
@[simp] theorem State.dropFrames_mem (s : State) (fs : List Nat) : (s.dropFrames fs).mem = s.mem := rfl
@[simp] theorem State.dropFrames_io (s : State) (fs : List Nat) : (s.dropFrames fs).io = s.io := rfl
@[simp] theorem State.dropFrames_kept (s : State) (fs : List Nat) : (s.dropFrames fs).part.kept = s.part.kept := rfl

end Sys2Proof.Machine
end

