-- ==== Sys2Proof/Laws/Sparse.lean ====
section
/-! SUPPORT. The laws of the two list shapes: read after write, and that a write keeps the canonical form. -/

namespace Sys2Proof

namespace Tbl

variable {α : Type}

@[simp] theorem find_nil (k : Nat) : find k ([] : Tbl α) = none := rfl

theorem find_put_same (k : Nat) (v : α) (t : Tbl α) : (t.put k v).find k = some v := by
  induction t with
  | nil => simp [put, find]
  | cons e t ih =>
    obtain ⟨i, x⟩ := e
    by_cases h : i = k
    · simp [put, find, h]
    · by_cases h2 : k < i
      · simp [put, find, h, h2]
      · simp [put, find, h, h2, ih]

theorem find_put_other (k j : Nat) (v : α) (t : Tbl α) (h : j ≠ k) : (t.put k v).find j = t.find j := by
  induction t with
  | nil => simp [put, find, Ne.symm h]
  | cons e t ih =>
    obtain ⟨i, x⟩ := e
    by_cases hi : i = k
    · subst hi; simp [put, find, Ne.symm h]
    · by_cases h2 : k < i
      · simp [put, find, hi, h2, Ne.symm h]
      · simp [put, find, hi, h2, ih]

/-- Read after a put. -/
@[simp] theorem find_put (k j : Nat) (v : α) (t : Tbl α) : (t.put k v).find j = if j = k then some v else t.find j := by
  by_cases h : j = k
  · subst h; simp [find_put_same]
  · simp [h, find_put_other]

/-- Read after an update. -/
@[simp] theorem find_upd (k j : Nat) (f : α → α) (t : Tbl α) :
    (t.upd k f).find j = if j = k then (t.find k).map f else t.find j := by
  induction t with
  | nil => simp [upd, find]
  | cons e t ih =>
    obtain ⟨i, x⟩ := e
    simp only [upd, List.map_cons] at ih ⊢
    by_cases hi : i = k
    · subst hi
      by_cases hj : j = i
      · subst hj; simp [find]
      · simp [find, hj, Ne.symm hj] at ih ⊢; simpa using ih
    · by_cases hj : j = k
      · subst hj; simp [find, hi] at ih ⊢; simpa using ih
      · by_cases hij : i = j
        · subst hij; simp [find, hi]
        · simp [find, hi, hij, hj] at ih ⊢; simpa using ih

/-- Read after a removal. -/
@[simp] theorem find_del (k j : Nat) (t : Tbl α) : (t.del k).find j = if j = k then none else t.find j := by
  induction t with
  | nil => simp [del, find]
  | cons e t ih =>
    obtain ⟨i, x⟩ := e
    simp only [del] at ih ⊢
    by_cases hi : i = k
    · subst hi
      by_cases hj : j = i
      · subst hj; simpa using ih
      · simp [find, hj, Ne.symm hj] at ih ⊢; exact ih
    · by_cases hj : j = k
      · subst hj; simp [find, hi] at ih ⊢; exact ih
      · by_cases hij : i = j
        · subst hij; simp [find, hi]
        · simp [find, hi, hij, hj] at ih ⊢; exact ih

end Tbl

namespace Sparse

variable {w : Nat}

@[simp] theorem get_nil (k : Nat) : get k ([] : Sparse w) = 0 := rfl

theorem get_filter (k j : Nat) (m : Sparse w) : get j (m.filter fun e => e.1 != k) = if j = k then 0 else get j m := by
  induction m with
  | nil => simp
  | cons e t ih =>
    obtain ⟨i, x⟩ := e
    by_cases hi : i = k
    · subst hi
      by_cases hj : j = i
      · subst hj; simpa using ih
      · simp [get, hj, Ne.symm hj] at ih ⊢; exact ih
    · by_cases hj : j = k
      · subst hj; simp [get, hi] at ih ⊢; exact ih
      · by_cases hij : i = j
        · subst hij; simp [get, hi]
        · simp [get, hi, hij, hj] at ih ⊢; exact ih

theorem get_ins (k j : Nat) (v : BitVec w) (m : Sparse w) : get j (ins k v m) = if j = k then v else get j m := by
  induction m with
  | nil =>
    by_cases h : j = k
    · simp [ins, get, h]
    · simp [ins, get, h, Ne.symm h]
  | cons e t ih =>
    obtain ⟨i, x⟩ := e
    by_cases hi : i = k
    · subst hi
      by_cases hj : j = i
      · simp [ins, get, hj]
      · simp [ins, get, hj, Ne.symm hj]
    · by_cases h2 : k < i
      · by_cases hj : j = k
        · simp [ins, get, hi, h2, hj]
        · simp [ins, get, hi, h2, hj, Ne.symm hj]
      · by_cases hij : i = j
        · subst hij; simp [ins, get, hi, h2]
        · simp [ins, get, hi, h2, hij, ih]

/-- Read after a write: the value written at its key, and every other key as before. -/
@[simp] theorem get_set (k j : Nat) (v : BitVec w) (m : Sparse w) : get j (set k v m) = if j = k then v else get j m := by
  unfold set
  by_cases hv : v = 0
  · subst hv; simp [get_filter]
  · rw [if_neg hv, get_ins]

/-- Read after a run of writes. -/
theorem get_setRun (k j : Nat) (vs : List (BitVec w)) (m : Sparse w) :
    get j (setRun k vs m) = if k ≤ j ∧ j < k + vs.length then vs.getD (j - k) 0 else get j m := by
  induction vs generalizing k m with
  | nil =>
    have : ¬(k ≤ j ∧ j < k + 0) := by omega
    simp [setRun]
  | cons v vs ih =>
    simp only [setRun, ih, get_set, List.length_cons]
    by_cases hk : j = k
    · subst hk
      have h1 : ¬(j + 1 ≤ j ∧ j < j + 1 + vs.length) := by omega
      simp
    · by_cases hr : k + 1 ≤ j ∧ j < k + 1 + vs.length
      · have h2 : k ≤ j ∧ j < k + (vs.length + 1) := by omega
        have h3 : j - k = (j - (k + 1)) + 1 := by omega
        rw [if_pos hr, if_pos h2, h3]; simp
      · have h2 : ¬(k ≤ j ∧ j < k + (vs.length + 1)) := by omega
        rw [if_neg hr, if_neg h2, if_neg hk]

/-- Every key of a list is above a bound. -/
def above (k : Nat) (m : Sparse w) : Prop := ∀ e ∈ m, k < e.1

theorem rising_cons (e : Nat × BitVec w) (m : Sparse w) : rising (e :: m) = true ↔ above e.1 m ∧ rising m = true := by
  induction m generalizing e with
  | nil => simp [rising, above]
  | cons f t ih =>
    obtain ⟨i, x⟩ := e
    obtain ⟨j, y⟩ := f
    simp only [rising, Bool.and_eq_true, decide_eq_true_eq, ih]
    constructor
    · rintro ⟨h, hf, ht⟩
      refine ⟨?_, hf, ht⟩
      intro g hg
      rcases List.mem_cons.mp hg with rfl | hg
      · exact h
      · exact Nat.lt_trans h (hf g hg)
    · rintro ⟨h, hf, ht⟩
      exact ⟨h (j, y) (by simp), hf, ht⟩

theorem above_filter (k : Nat) (p : Nat × BitVec w → Bool) (m : Sparse w) (h : above k m) : above k (m.filter p) :=
  fun e he => h e (List.mem_of_mem_filter he)

theorem rising_filter (p : Nat × BitVec w → Bool) (m : Sparse w) (h : rising m = true) : rising (m.filter p) = true := by
  induction m with
  | nil => simpa using h
  | cons e t ih =>
    have ht := (rising_cons e t).mp h
    by_cases hp : p e = true
    · rw [List.filter_cons_of_pos hp]
      exact (rising_cons e _).mpr ⟨above_filter _ _ _ ht.1, ih ht.2⟩
    · rw [List.filter_cons_of_neg hp]
      exact ih ht.2

theorem mem_ins (e : Nat × BitVec w) (k : Nat) (v : BitVec w) (m : Sparse w) (h : e ∈ ins k v m) : e = (k, v) ∨ e ∈ m := by
  induction m with
  | nil => left; simpa [ins] using h
  | cons f t ih =>
    obtain ⟨i, x⟩ := f
    by_cases hi : i = k
    · subst hi
      simp only [ins, if_true, List.mem_cons] at h
      rcases h with h | h
      · exact .inl h
      · exact .inr (List.mem_cons_of_mem _ h)
    · by_cases h2 : k < i
      · simp only [ins, hi, h2, if_true, if_false, List.mem_cons] at h
        rcases h with h | h
        · exact .inl h
        · exact .inr (by simpa using h)
      · simp only [ins, hi, h2, if_false, List.mem_cons] at h
        rcases h with h | h
        · exact .inr (by simp [h])
        · rcases ih h with h | h
          · exact .inl h
          · exact .inr (List.mem_cons_of_mem _ h)

theorem rising_ins (k : Nat) (v : BitVec w) (m : Sparse w) (h : rising m = true) : rising (ins k v m) = true := by
  induction m with
  | nil => simp [ins, rising]
  | cons f t ih =>
    obtain ⟨i, x⟩ := f
    have ht := (rising_cons (i, x) t).mp h
    by_cases hi : i = k
    · subst hi
      simp only [ins, if_true]
      exact (rising_cons _ _).mpr ht
    · by_cases h2 : k < i
      · simp only [ins, hi, h2, if_true, if_false]
        refine (rising_cons _ _).mpr ⟨?_, h⟩
        intro e he
        rcases List.mem_cons.mp he with rfl | he
        · exact h2
        · exact Nat.lt_trans h2 (ht.1 e he)
      · simp only [ins, hi, h2, if_false]
        refine (rising_cons _ _).mpr ⟨?_, ih ht.2⟩
        intro e he
        rcases mem_ins e k v t he with rfl | he
        · exact Nat.lt_of_le_of_ne (Nat.le_of_not_lt h2) hi
        · exact ht.1 e he

theorem wf_iff (m : Sparse w) : wf m = true ↔ rising m = true ∧ ∀ e ∈ m, e.2 ≠ 0 := by
  simp [wf, List.all_eq_true]

theorem wf_nil : wf ([] : Sparse w) = true := rfl

/-- A part of a store in canonical form stands in it. -/
theorem wf_filter (p : Nat × BitVec w → Bool) (m : Sparse w) (h : wf m = true) : wf (m.filter p) = true := by
  rw [wf_iff] at h ⊢
  exact ⟨rising_filter p m h.1, fun e he => h.2 e (List.mem_of_mem_filter he)⟩

/-- A write keeps the canonical form. -/
theorem wf_set (k : Nat) (v : BitVec w) (m : Sparse w) (h : wf m = true) : wf (set k v m) = true := by
  unfold set
  by_cases hv : v = 0
  · simpa [hv] using wf_filter _ m h
  · rw [if_neg hv]
    rw [wf_iff] at h ⊢
    refine ⟨rising_ins k v m h.1, fun e he => ?_⟩
    rcases mem_ins e k v m he with rfl | he
    · exact hv
    · exact h.2 e he

/-- A run of writes keeps the canonical form. -/
theorem wf_setRun (k : Nat) (vs : List (BitVec w)) (m : Sparse w) (h : wf m = true) : wf (setRun k vs m) = true := by
  induction vs generalizing k m with
  | nil => simpa [setRun] using h
  | cons v vs ih => exact ih (k + 1) (set k v m) (wf_set k v m h)

/-- Two stores in canonical form that read alike are one. -/
theorem eq_of_get (a b : Sparse w) (ha : wf a = true) (hb : wf b = true) (h : ∀ k, get k a = get k b) : a = b := by
  have get_above : ∀ (k : Nat) (m : Sparse w), above k m → get k m = 0 := by
    intro k m
    induction m with
    | nil => simp
    | cons e t ih =>
      intro hk
      have h1 : k < e.1 := hk e (by simp)
      obtain ⟨i, x⟩ := e
      simp only [get]
      rw [if_neg (by simp at h1; omega)]
      exact ih fun e he => hk e (List.mem_cons_of_mem _ he)
  induction a generalizing b with
  | nil =>
    cases b with
    | nil => rfl
    | cons f u =>
      have := h f.1
      rw [wf_iff] at hb
      exact absurd (by simpa [get] using this.symm) (hb.2 f (by simp))
  | cons e t ih =>
    cases b with
    | nil =>
      have := h e.1
      rw [wf_iff] at ha
      exact absurd (by simpa [get] using this) (ha.2 e (by simp))
    | cons f u =>
      rw [wf_iff] at ha hb
      have hra := (rising_cons e t).mp ha.1
      have hrb := (rising_cons f u).mp hb.1
      obtain ⟨i, x⟩ := e
      obtain ⟨j, y⟩ := f
      have hx := ha.2 (i, x) (by simp)
      have hy := hb.2 (j, y) (by simp)
      have hij : i = j := by
        rcases Nat.lt_trichotomy i j with hlt | heq | hlt
        · have h1 := h i
          have h2 : get i ((j, y) :: u) = 0 := get_above i _ (by
            intro g hg
            rcases List.mem_cons.mp hg with rfl | hg
            · exact hlt
            · exact Nat.lt_trans hlt (hrb.1 g hg))
          rw [h2] at h1
          exact absurd (by simpa [get] using h1) hx
        · exact heq
        · have h1 := h j
          have h2 : get j ((i, x) :: t) = 0 := get_above j _ (by
            intro g hg
            rcases List.mem_cons.mp hg with rfl | hg
            · exact hlt
            · exact Nat.lt_trans hlt (hra.1 g hg))
          rw [h2] at h1
          exact absurd (by simpa [get] using h1.symm) hy
      subst hij
      have hxy : x = y := by simpa [get] using h i
      subst hxy
      have htu : t = u := ih u ((wf_iff t).mpr ⟨hra.2, fun e he => ha.2 e (List.mem_cons_of_mem _ he)⟩)
        ((wf_iff u).mpr ⟨hrb.2, fun e he => hb.2 e (List.mem_cons_of_mem _ he)⟩) (by
          intro k
          by_cases hk : i = k
          · subst hk
            rw [get_above i t hra.1, get_above i u hrb.1]
          · simpa [get, hk] using h k)
      rw [htu]

end Sparse

end Sys2Proof
end

