-- ==== Sys2Proof/Laws/State.lean ====
section
/-! SUPPORT. What each update of the state leaves alone: one lemma for each field and update, and reading a core, a pack or
a context after each. -/

namespace Sys2Proof.Machine

@[simp] theorem State.setCore_agenda (s : State) (c : Nat) (k : Core) : (s.setCore c k).agenda = s.agenda := rfl
@[simp] theorem State.setCore_freeCount (s : State) (c : Nat) (k : Core) : (s.setCore c k).freeCount = s.freeCount := rfl
@[simp] theorem State.setCore_cur (s : State) (c : Nat) (k : Core) : (s.setCore c k).cur = s.cur := rfl
@[simp] theorem State.setCore_uid (s : State) (c : Nat) (k : Core) : (s.setCore c k).uid = s.uid := rfl
@[simp] theorem State.setCore_now (s : State) (c : Nat) (k : Core) : (s.setCore c k).now = s.now := rfl
@[simp] theorem State.setCore_mem (s : State) (c : Nat) (k : Core) : (s.setCore c k).mem = s.mem := rfl
@[simp] theorem State.setCore_part (s : State) (c : Nat) (k : Core) : (s.setCore c k).part = s.part := rfl
@[simp] theorem State.setCore_blocks (s : State) (c : Nat) (k : Core) : (s.setCore c k).blocks = s.blocks := rfl
@[simp] theorem State.setCore_images (s : State) (c : Nat) (k : Core) : (s.setCore c k).images = s.images := rfl
@[simp] theorem State.setCore_ctxs (s : State) (c : Nat) (k : Core) : (s.setCore c k).ctxs = s.ctxs := rfl
@[simp] theorem State.setCore_level7 (s : State) (c : Nat) (k : Core) : (s.setCore c k).level7 = s.level7 := rfl
@[simp] theorem State.setCore_returns (s : State) (c : Nat) (k : Core) : (s.setCore c k).returns = s.returns := rfl
@[simp] theorem State.setCore_retr (s : State) (c : Nat) (k : Core) : (s.setCore c k).retr = s.retr := rfl
@[simp] theorem State.setCore_misses (s : State) (c : Nat) (k : Core) : (s.setCore c k).misses = s.misses := rfl
@[simp] theorem State.setCore_launches (s : State) (c : Nat) (k : Core) : (s.setCore c k).launches = s.launches := rfl
@[simp] theorem State.setCore_prepares (s : State) (c : Nat) (k : Core) : (s.setCore c k).prepares = s.prepares := rfl
@[simp] theorem State.setCore_io (s : State) (c : Nat) (k : Core) : (s.setCore c k).io = s.io := rfl
@[simp] theorem State.setCore_mgmt (s : State) (c : Nat) (k : Core) : (s.setCore c k).mgmt = s.mgmt := rfl
@[simp] theorem State.setCore_chk (s : State) (c : Nat) (k : Core) : (s.setCore c k).chk = s.chk := rfl

@[simp] theorem State.modCore_agenda (s : State) (c : Nat) (f : Core → Core) : (s.modCore c f).agenda = s.agenda := rfl
@[simp] theorem State.modCore_freeCount (s : State) (c : Nat) (f : Core → Core) : (s.modCore c f).freeCount = s.freeCount := rfl
@[simp] theorem State.modCore_cur (s : State) (c : Nat) (f : Core → Core) : (s.modCore c f).cur = s.cur := rfl
@[simp] theorem State.modCore_uid (s : State) (c : Nat) (f : Core → Core) : (s.modCore c f).uid = s.uid := rfl
@[simp] theorem State.modCore_now (s : State) (c : Nat) (f : Core → Core) : (s.modCore c f).now = s.now := rfl
@[simp] theorem State.modCore_mem (s : State) (c : Nat) (f : Core → Core) : (s.modCore c f).mem = s.mem := rfl
@[simp] theorem State.modCore_part (s : State) (c : Nat) (f : Core → Core) : (s.modCore c f).part = s.part := rfl
@[simp] theorem State.modCore_blocks (s : State) (c : Nat) (f : Core → Core) : (s.modCore c f).blocks = s.blocks := rfl
@[simp] theorem State.modCore_images (s : State) (c : Nat) (f : Core → Core) : (s.modCore c f).images = s.images := rfl
@[simp] theorem State.modCore_ctxs (s : State) (c : Nat) (f : Core → Core) : (s.modCore c f).ctxs = s.ctxs := rfl
@[simp] theorem State.modCore_level7 (s : State) (c : Nat) (f : Core → Core) : (s.modCore c f).level7 = s.level7 := rfl
@[simp] theorem State.modCore_returns (s : State) (c : Nat) (f : Core → Core) : (s.modCore c f).returns = s.returns := rfl
@[simp] theorem State.modCore_retr (s : State) (c : Nat) (f : Core → Core) : (s.modCore c f).retr = s.retr := rfl
@[simp] theorem State.modCore_misses (s : State) (c : Nat) (f : Core → Core) : (s.modCore c f).misses = s.misses := rfl
@[simp] theorem State.modCore_launches (s : State) (c : Nat) (f : Core → Core) : (s.modCore c f).launches = s.launches := rfl
@[simp] theorem State.modCore_prepares (s : State) (c : Nat) (f : Core → Core) : (s.modCore c f).prepares = s.prepares := rfl
@[simp] theorem State.modCore_io (s : State) (c : Nat) (f : Core → Core) : (s.modCore c f).io = s.io := rfl
@[simp] theorem State.modCore_mgmt (s : State) (c : Nat) (f : Core → Core) : (s.modCore c f).mgmt = s.mgmt := rfl
@[simp] theorem State.modCore_chk (s : State) (c : Nat) (f : Core → Core) : (s.modCore c f).chk = s.chk := rfl

@[simp] theorem State.setPack_agenda (s : State) (r : PackRef) (p : Pack) : (s.setPack r p).agenda = s.agenda := rfl
@[simp] theorem State.setPack_freeCount (s : State) (r : PackRef) (p : Pack) : (s.setPack r p).freeCount = s.freeCount := rfl
@[simp] theorem State.setPack_cur (s : State) (r : PackRef) (p : Pack) : (s.setPack r p).cur = s.cur := rfl
@[simp] theorem State.setPack_uid (s : State) (r : PackRef) (p : Pack) : (s.setPack r p).uid = s.uid := rfl
@[simp] theorem State.setPack_now (s : State) (r : PackRef) (p : Pack) : (s.setPack r p).now = s.now := rfl
@[simp] theorem State.setPack_mem (s : State) (r : PackRef) (p : Pack) : (s.setPack r p).mem = s.mem := rfl
@[simp] theorem State.setPack_part (s : State) (r : PackRef) (p : Pack) : (s.setPack r p).part = s.part := rfl
@[simp] theorem State.setPack_blocks (s : State) (r : PackRef) (p : Pack) : (s.setPack r p).blocks = s.blocks := rfl
@[simp] theorem State.setPack_images (s : State) (r : PackRef) (p : Pack) : (s.setPack r p).images = s.images := rfl
@[simp] theorem State.setPack_ctxs (s : State) (r : PackRef) (p : Pack) : (s.setPack r p).ctxs = s.ctxs := rfl
@[simp] theorem State.setPack_level7 (s : State) (r : PackRef) (p : Pack) : (s.setPack r p).level7 = s.level7 := rfl
@[simp] theorem State.setPack_returns (s : State) (r : PackRef) (p : Pack) : (s.setPack r p).returns = s.returns := rfl
@[simp] theorem State.setPack_retr (s : State) (r : PackRef) (p : Pack) : (s.setPack r p).retr = s.retr := rfl
@[simp] theorem State.setPack_misses (s : State) (r : PackRef) (p : Pack) : (s.setPack r p).misses = s.misses := rfl
@[simp] theorem State.setPack_launches (s : State) (r : PackRef) (p : Pack) : (s.setPack r p).launches = s.launches := rfl
@[simp] theorem State.setPack_prepares (s : State) (r : PackRef) (p : Pack) : (s.setPack r p).prepares = s.prepares := rfl
@[simp] theorem State.setPack_io (s : State) (r : PackRef) (p : Pack) : (s.setPack r p).io = s.io := rfl
@[simp] theorem State.setPack_mgmt (s : State) (r : PackRef) (p : Pack) : (s.setPack r p).mgmt = s.mgmt := rfl
@[simp] theorem State.setPack_chk (s : State) (r : PackRef) (p : Pack) : (s.setPack r p).chk = s.chk := rfl

@[simp] theorem State.modPipe_agenda (s : State) (c i : Nat) (f : Pipe → Pipe) : (s.modPipe c i f).agenda = s.agenda := rfl
@[simp] theorem State.modPipe_freeCount (s : State) (c i : Nat) (f : Pipe → Pipe) : (s.modPipe c i f).freeCount = s.freeCount := rfl
@[simp] theorem State.modPipe_cur (s : State) (c i : Nat) (f : Pipe → Pipe) : (s.modPipe c i f).cur = s.cur := rfl
@[simp] theorem State.modPipe_uid (s : State) (c i : Nat) (f : Pipe → Pipe) : (s.modPipe c i f).uid = s.uid := rfl
@[simp] theorem State.modPipe_now (s : State) (c i : Nat) (f : Pipe → Pipe) : (s.modPipe c i f).now = s.now := rfl
@[simp] theorem State.modPipe_mem (s : State) (c i : Nat) (f : Pipe → Pipe) : (s.modPipe c i f).mem = s.mem := rfl
@[simp] theorem State.modPipe_part (s : State) (c i : Nat) (f : Pipe → Pipe) : (s.modPipe c i f).part = s.part := rfl
@[simp] theorem State.modPipe_blocks (s : State) (c i : Nat) (f : Pipe → Pipe) : (s.modPipe c i f).blocks = s.blocks := rfl
@[simp] theorem State.modPipe_images (s : State) (c i : Nat) (f : Pipe → Pipe) : (s.modPipe c i f).images = s.images := rfl
@[simp] theorem State.modPipe_ctxs (s : State) (c i : Nat) (f : Pipe → Pipe) : (s.modPipe c i f).ctxs = s.ctxs := rfl
@[simp] theorem State.modPipe_level7 (s : State) (c i : Nat) (f : Pipe → Pipe) : (s.modPipe c i f).level7 = s.level7 := rfl
@[simp] theorem State.modPipe_returns (s : State) (c i : Nat) (f : Pipe → Pipe) : (s.modPipe c i f).returns = s.returns := rfl
@[simp] theorem State.modPipe_retr (s : State) (c i : Nat) (f : Pipe → Pipe) : (s.modPipe c i f).retr = s.retr := rfl
@[simp] theorem State.modPipe_misses (s : State) (c i : Nat) (f : Pipe → Pipe) : (s.modPipe c i f).misses = s.misses := rfl
@[simp] theorem State.modPipe_launches (s : State) (c i : Nat) (f : Pipe → Pipe) : (s.modPipe c i f).launches = s.launches := rfl
@[simp] theorem State.modPipe_prepares (s : State) (c i : Nat) (f : Pipe → Pipe) : (s.modPipe c i f).prepares = s.prepares := rfl
@[simp] theorem State.modPipe_io (s : State) (c i : Nat) (f : Pipe → Pipe) : (s.modPipe c i f).io = s.io := rfl
@[simp] theorem State.modPipe_mgmt (s : State) (c i : Nat) (f : Pipe → Pipe) : (s.modPipe c i f).mgmt = s.mgmt := rfl
@[simp] theorem State.modPipe_chk (s : State) (c i : Nat) (f : Pipe → Pipe) : (s.modPipe c i f).chk = s.chk := rfl

@[simp] theorem State.modCtx_agenda (s : State) (n : Nat) (f : Ctx → Ctx) : (s.modCtx n f).agenda = s.agenda := rfl
@[simp] theorem State.modCtx_freeCount (s : State) (n : Nat) (f : Ctx → Ctx) : (s.modCtx n f).freeCount = s.freeCount := rfl
@[simp] theorem State.modCtx_cur (s : State) (n : Nat) (f : Ctx → Ctx) : (s.modCtx n f).cur = s.cur := rfl
@[simp] theorem State.modCtx_uid (s : State) (n : Nat) (f : Ctx → Ctx) : (s.modCtx n f).uid = s.uid := rfl
@[simp] theorem State.modCtx_now (s : State) (n : Nat) (f : Ctx → Ctx) : (s.modCtx n f).now = s.now := rfl
@[simp] theorem State.modCtx_mem (s : State) (n : Nat) (f : Ctx → Ctx) : (s.modCtx n f).mem = s.mem := rfl
@[simp] theorem State.modCtx_part (s : State) (n : Nat) (f : Ctx → Ctx) : (s.modCtx n f).part = s.part := rfl
@[simp] theorem State.modCtx_blocks (s : State) (n : Nat) (f : Ctx → Ctx) : (s.modCtx n f).blocks = s.blocks := rfl
@[simp] theorem State.modCtx_images (s : State) (n : Nat) (f : Ctx → Ctx) : (s.modCtx n f).images = s.images := rfl
@[simp] theorem State.modCtx_level7 (s : State) (n : Nat) (f : Ctx → Ctx) : (s.modCtx n f).level7 = s.level7 := rfl
@[simp] theorem State.modCtx_returns (s : State) (n : Nat) (f : Ctx → Ctx) : (s.modCtx n f).returns = s.returns := rfl
@[simp] theorem State.modCtx_retr (s : State) (n : Nat) (f : Ctx → Ctx) : (s.modCtx n f).retr = s.retr := rfl
@[simp] theorem State.modCtx_misses (s : State) (n : Nat) (f : Ctx → Ctx) : (s.modCtx n f).misses = s.misses := rfl
@[simp] theorem State.modCtx_launches (s : State) (n : Nat) (f : Ctx → Ctx) : (s.modCtx n f).launches = s.launches := rfl
@[simp] theorem State.modCtx_prepares (s : State) (n : Nat) (f : Ctx → Ctx) : (s.modCtx n f).prepares = s.prepares := rfl
@[simp] theorem State.modCtx_io (s : State) (n : Nat) (f : Ctx → Ctx) : (s.modCtx n f).io = s.io := rfl
@[simp] theorem State.modCtx_mgmt (s : State) (n : Nat) (f : Ctx → Ctx) : (s.modCtx n f).mgmt = s.mgmt := rfl
@[simp] theorem State.modCtx_chk (s : State) (n : Nat) (f : Ctx → Ctx) : (s.modCtx n f).chk = s.chk := rfl
@[simp] theorem State.modCtx_cores (s : State) (n : Nat) (f : Ctx → Ctx) : (s.modCtx n f).cores = s.cores := rfl

@[simp] theorem State.fresh_agenda (s : State) (n : Nat) : (s.fresh n).agenda = s.agenda := rfl
@[simp] theorem State.fresh_freeCount (s : State) (n : Nat) : (s.fresh n).freeCount = s.freeCount := rfl
@[simp] theorem State.fresh_cur (s : State) (n : Nat) : (s.fresh n).cur = s.cur := rfl
@[simp] theorem State.fresh_now (s : State) (n : Nat) : (s.fresh n).now = s.now := rfl
@[simp] theorem State.fresh_mem (s : State) (n : Nat) : (s.fresh n).mem = s.mem := rfl
@[simp] theorem State.fresh_part (s : State) (n : Nat) : (s.fresh n).part = s.part := rfl
@[simp] theorem State.fresh_blocks (s : State) (n : Nat) : (s.fresh n).blocks = s.blocks := rfl
@[simp] theorem State.fresh_images (s : State) (n : Nat) : (s.fresh n).images = s.images := rfl
@[simp] theorem State.fresh_ctxs (s : State) (n : Nat) : (s.fresh n).ctxs = s.ctxs := rfl
@[simp] theorem State.fresh_level7 (s : State) (n : Nat) : (s.fresh n).level7 = s.level7 := rfl
@[simp] theorem State.fresh_returns (s : State) (n : Nat) : (s.fresh n).returns = s.returns := rfl
@[simp] theorem State.fresh_retr (s : State) (n : Nat) : (s.fresh n).retr = s.retr := rfl
@[simp] theorem State.fresh_misses (s : State) (n : Nat) : (s.fresh n).misses = s.misses := rfl
@[simp] theorem State.fresh_launches (s : State) (n : Nat) : (s.fresh n).launches = s.launches := rfl
@[simp] theorem State.fresh_prepares (s : State) (n : Nat) : (s.fresh n).prepares = s.prepares := rfl
@[simp] theorem State.fresh_io (s : State) (n : Nat) : (s.fresh n).io = s.io := rfl
@[simp] theorem State.fresh_mgmt (s : State) (n : Nat) : (s.fresh n).mgmt = s.mgmt := rfl
@[simp] theorem State.fresh_chk (s : State) (n : Nat) : (s.fresh n).chk = s.chk := rfl
@[simp] theorem State.fresh_cores (s : State) (n : Nat) : (s.fresh n).cores = s.cores := rfl

@[simp] theorem State.occupy_agenda (s : State) (r : PackRef) (ck : Nat) : (s.occupy r ck).agenda = s.agenda := rfl
@[simp] theorem State.occupy_freeCount (s : State) (r : PackRef) (ck : Nat) : (s.occupy r ck).freeCount = s.freeCount := rfl
@[simp] theorem State.occupy_cur (s : State) (r : PackRef) (ck : Nat) : (s.occupy r ck).cur = s.cur := rfl
@[simp] theorem State.occupy_uid (s : State) (r : PackRef) (ck : Nat) : (s.occupy r ck).uid = s.uid := rfl
@[simp] theorem State.occupy_now (s : State) (r : PackRef) (ck : Nat) : (s.occupy r ck).now = s.now := rfl
@[simp] theorem State.occupy_mem (s : State) (r : PackRef) (ck : Nat) : (s.occupy r ck).mem = s.mem := rfl
@[simp] theorem State.occupy_part (s : State) (r : PackRef) (ck : Nat) : (s.occupy r ck).part = s.part := rfl
@[simp] theorem State.occupy_blocks (s : State) (r : PackRef) (ck : Nat) : (s.occupy r ck).blocks = s.blocks := rfl
@[simp] theorem State.occupy_images (s : State) (r : PackRef) (ck : Nat) : (s.occupy r ck).images = s.images := rfl
@[simp] theorem State.occupy_ctxs (s : State) (r : PackRef) (ck : Nat) : (s.occupy r ck).ctxs = s.ctxs := rfl
@[simp] theorem State.occupy_level7 (s : State) (r : PackRef) (ck : Nat) : (s.occupy r ck).level7 = s.level7 := rfl
@[simp] theorem State.occupy_returns (s : State) (r : PackRef) (ck : Nat) : (s.occupy r ck).returns = s.returns := rfl
@[simp] theorem State.occupy_retr (s : State) (r : PackRef) (ck : Nat) : (s.occupy r ck).retr = s.retr := rfl
@[simp] theorem State.occupy_misses (s : State) (r : PackRef) (ck : Nat) : (s.occupy r ck).misses = s.misses := rfl
@[simp] theorem State.occupy_launches (s : State) (r : PackRef) (ck : Nat) : (s.occupy r ck).launches = s.launches := rfl
@[simp] theorem State.occupy_prepares (s : State) (r : PackRef) (ck : Nat) : (s.occupy r ck).prepares = s.prepares := rfl
@[simp] theorem State.occupy_io (s : State) (r : PackRef) (ck : Nat) : (s.occupy r ck).io = s.io := rfl
@[simp] theorem State.occupy_mgmt (s : State) (r : PackRef) (ck : Nat) : (s.occupy r ck).mgmt = s.mgmt := rfl
@[simp] theorem State.occupy_chk (s : State) (r : PackRef) (ck : Nat) : (s.occupy r ck).chk = s.chk := rfl

@[simp] theorem State.pushOut_agenda (s : State) (core : Nat) (t : OutTok) : (s.pushOut core t).agenda = s.agenda := rfl
@[simp] theorem State.pushOut_freeCount (s : State) (core : Nat) (t : OutTok) : (s.pushOut core t).freeCount = s.freeCount := rfl
@[simp] theorem State.pushOut_cur (s : State) (core : Nat) (t : OutTok) : (s.pushOut core t).cur = s.cur := rfl
@[simp] theorem State.pushOut_uid (s : State) (core : Nat) (t : OutTok) : (s.pushOut core t).uid = s.uid := rfl
@[simp] theorem State.pushOut_now (s : State) (core : Nat) (t : OutTok) : (s.pushOut core t).now = s.now := rfl
@[simp] theorem State.pushOut_mem (s : State) (core : Nat) (t : OutTok) : (s.pushOut core t).mem = s.mem := rfl
@[simp] theorem State.pushOut_part (s : State) (core : Nat) (t : OutTok) : (s.pushOut core t).part = s.part := rfl
@[simp] theorem State.pushOut_blocks (s : State) (core : Nat) (t : OutTok) : (s.pushOut core t).blocks = s.blocks := rfl
@[simp] theorem State.pushOut_images (s : State) (core : Nat) (t : OutTok) : (s.pushOut core t).images = s.images := rfl
@[simp] theorem State.pushOut_ctxs (s : State) (core : Nat) (t : OutTok) : (s.pushOut core t).ctxs = s.ctxs := rfl
@[simp] theorem State.pushOut_level7 (s : State) (core : Nat) (t : OutTok) : (s.pushOut core t).level7 = s.level7 := rfl
@[simp] theorem State.pushOut_returns (s : State) (core : Nat) (t : OutTok) : (s.pushOut core t).returns = s.returns := rfl
@[simp] theorem State.pushOut_retr (s : State) (core : Nat) (t : OutTok) : (s.pushOut core t).retr = s.retr := rfl
@[simp] theorem State.pushOut_misses (s : State) (core : Nat) (t : OutTok) : (s.pushOut core t).misses = s.misses := rfl
@[simp] theorem State.pushOut_launches (s : State) (core : Nat) (t : OutTok) : (s.pushOut core t).launches = s.launches := rfl
@[simp] theorem State.pushOut_prepares (s : State) (core : Nat) (t : OutTok) : (s.pushOut core t).prepares = s.prepares := rfl
@[simp] theorem State.pushOut_io (s : State) (core : Nat) (t : OutTok) : (s.pushOut core t).io = s.io := rfl
@[simp] theorem State.pushOut_mgmt (s : State) (core : Nat) (t : OutTok) : (s.pushOut core t).mgmt = s.mgmt := rfl
@[simp] theorem State.pushOut_chk (s : State) (core : Nat) (t : OutTok) : (s.pushOut core t).chk = s.chk := rfl

@[simp] theorem State.freeColour_agenda (s : State) (ctx level number : Nat) : (s.freeColour ctx level number).agenda = s.agenda := rfl
@[simp] theorem State.freeColour_freeCount (s : State) (ctx level number : Nat) : (s.freeColour ctx level number).freeCount = s.freeCount := rfl
@[simp] theorem State.freeColour_cur (s : State) (ctx level number : Nat) : (s.freeColour ctx level number).cur = s.cur := rfl
@[simp] theorem State.freeColour_uid (s : State) (ctx level number : Nat) : (s.freeColour ctx level number).uid = s.uid := rfl
@[simp] theorem State.freeColour_now (s : State) (ctx level number : Nat) : (s.freeColour ctx level number).now = s.now := rfl
@[simp] theorem State.freeColour_mem (s : State) (ctx level number : Nat) : (s.freeColour ctx level number).mem = s.mem := rfl
@[simp] theorem State.freeColour_part (s : State) (ctx level number : Nat) : (s.freeColour ctx level number).part = s.part := rfl
@[simp] theorem State.freeColour_blocks (s : State) (ctx level number : Nat) : (s.freeColour ctx level number).blocks = s.blocks := rfl
@[simp] theorem State.freeColour_images (s : State) (ctx level number : Nat) : (s.freeColour ctx level number).images = s.images := rfl
@[simp] theorem State.freeColour_level7 (s : State) (ctx level number : Nat) : (s.freeColour ctx level number).level7 = s.level7 := rfl
@[simp] theorem State.freeColour_returns (s : State) (ctx level number : Nat) : (s.freeColour ctx level number).returns = s.returns := rfl
@[simp] theorem State.freeColour_retr (s : State) (ctx level number : Nat) : (s.freeColour ctx level number).retr = s.retr := rfl
@[simp] theorem State.freeColour_misses (s : State) (ctx level number : Nat) : (s.freeColour ctx level number).misses = s.misses := rfl
@[simp] theorem State.freeColour_launches (s : State) (ctx level number : Nat) : (s.freeColour ctx level number).launches = s.launches := rfl
@[simp] theorem State.freeColour_prepares (s : State) (ctx level number : Nat) : (s.freeColour ctx level number).prepares = s.prepares := rfl
@[simp] theorem State.freeColour_io (s : State) (ctx level number : Nat) : (s.freeColour ctx level number).io = s.io := rfl
@[simp] theorem State.freeColour_mgmt (s : State) (ctx level number : Nat) : (s.freeColour ctx level number).mgmt = s.mgmt := rfl
@[simp] theorem State.freeColour_chk (s : State) (ctx level number : Nat) : (s.freeColour ctx level number).chk = s.chk := rfl
@[simp] theorem State.freeColour_cores (s : State) (ctx level number : Nat) : (s.freeColour ctx level number).cores = s.cores := rfl

@[simp] theorem State.acquireDrop_agenda (s : State) (core : Nat) : (s.acquireDrop core).agenda = s.agenda := rfl
@[simp] theorem State.acquireDrop_freeCount (s : State) (core : Nat) : (s.acquireDrop core).freeCount = s.freeCount := rfl
@[simp] theorem State.acquireDrop_cur (s : State) (core : Nat) : (s.acquireDrop core).cur = s.cur := rfl
@[simp] theorem State.acquireDrop_uid (s : State) (core : Nat) : (s.acquireDrop core).uid = s.uid := rfl
@[simp] theorem State.acquireDrop_now (s : State) (core : Nat) : (s.acquireDrop core).now = s.now := rfl
@[simp] theorem State.acquireDrop_mem (s : State) (core : Nat) : (s.acquireDrop core).mem = s.mem := rfl
@[simp] theorem State.acquireDrop_part (s : State) (core : Nat) : (s.acquireDrop core).part = s.part := rfl
@[simp] theorem State.acquireDrop_blocks (s : State) (core : Nat) : (s.acquireDrop core).blocks = s.blocks := rfl
@[simp] theorem State.acquireDrop_images (s : State) (core : Nat) : (s.acquireDrop core).images = s.images := rfl
@[simp] theorem State.acquireDrop_ctxs (s : State) (core : Nat) : (s.acquireDrop core).ctxs = s.ctxs := rfl
@[simp] theorem State.acquireDrop_level7 (s : State) (core : Nat) : (s.acquireDrop core).level7 = s.level7 := rfl
@[simp] theorem State.acquireDrop_returns (s : State) (core : Nat) : (s.acquireDrop core).returns = s.returns := rfl
@[simp] theorem State.acquireDrop_retr (s : State) (core : Nat) : (s.acquireDrop core).retr = s.retr := rfl
@[simp] theorem State.acquireDrop_misses (s : State) (core : Nat) : (s.acquireDrop core).misses = s.misses := rfl
@[simp] theorem State.acquireDrop_launches (s : State) (core : Nat) : (s.acquireDrop core).launches = s.launches := rfl
@[simp] theorem State.acquireDrop_prepares (s : State) (core : Nat) : (s.acquireDrop core).prepares = s.prepares := rfl
@[simp] theorem State.acquireDrop_io (s : State) (core : Nat) : (s.acquireDrop core).io = s.io := rfl
@[simp] theorem State.acquireDrop_mgmt (s : State) (core : Nat) : (s.acquireDrop core).mgmt = s.mgmt := rfl
@[simp] theorem State.acquireDrop_chk (s : State) (core : Nat) : (s.acquireDrop core).chk = s.chk := rfl

/-! ### Reading after an update -/

@[simp] theorem State.core_setCore (s : State) (c d : Nat) (k : Core) :
    (s.setCore c k).core d = if d = c then k else s.core d := by
  unfold State.setCore State.core
  simp only [Tbl.find_put]
  split <;> simp

@[simp] theorem State.core_modCore (s : State) (c d : Nat) (f : Core → Core) :
    (s.modCore c f).core d = if d = c then f (s.core c) else s.core d := by simp [State.modCore]

theorem pkey_inj (q r : PackRef) (hq : q.slot < 16) (hr : r.slot < 16) (hc : q.core = r.core) (h : pkey q = pkey r) : q = r := by
  cases q; cases r
  simp only [pkey] at *
  simp only [PackRef.mk.injEq]
  omega

@[simp] theorem State.pack_setPack (s : State) (r : PackRef) (p : Pack) : (s.setPack r p).pack r = some p := by
  simp [State.setPack, State.pack]

theorem State.pack_setPack_other (s : State) (q r : PackRef) (p : Pack) (h : ¬(q.core = r.core ∧ pkey q = pkey r)) :
    (s.setPack r p).pack q = s.pack q := by
  unfold State.setPack State.pack
  rw [State.core_modCore]
  by_cases hc : q.core = r.core
  · have hk : pkey q ≠ pkey r := fun e => h ⟨hc, e⟩
    simp [hc, hk]
  · simp [hc]

@[simp] theorem Core.modPipe_packs (c : Core) (i : Nat) (f : Pipe → Pipe) : (c.modPipe i f).packs = c.packs := rfl

@[simp] theorem State.pack_modPipe (s : State) (c i : Nat) (f : Pipe → Pipe) (r : PackRef) : (s.modPipe c i f).pack r = s.pack r := by
  unfold State.modPipe State.pack
  rw [State.core_modCore]
  by_cases h : r.core = c <;> simp [h]

@[simp] theorem State.pack_occupy (s : State) (q r : PackRef) (ck : Nat) : (s.occupy r ck).pack q = s.pack q := by simp [State.occupy]

@[simp] theorem State.pack_modCtx (s : State) (n : Nat) (f : Ctx → Ctx) (r : PackRef) : (s.modCtx n f).pack r = s.pack r := rfl

@[simp] theorem State.pack_fresh (s : State) (n : Nat) (r : PackRef) : (s.fresh n).pack r = s.pack r := rfl

@[simp] theorem State.pack_pushOut (s : State) (core : Nat) (t : OutTok) (r : PackRef) : (s.pushOut core t).pack r = s.pack r := by
  unfold State.pushOut State.pack
  rw [State.core_modCore]
  by_cases h : r.core = core <;> simp [h]

@[simp] theorem State.ctx_modCtx (s : State) (n m : Nat) (f : Ctx → Ctx) :
    (s.modCtx n f).ctx m = if m = n then (s.ctx n).map f else s.ctx m := by simp [State.modCtx, State.ctx]

/-! ### Registers -/

@[simp] theorem Pack.v_setV (p : Pack) (r q L M : Nat) (x : Word) :
    (p.setV r L x).v q M = if q * 32 + M = r * 32 + L then x else p.v q M := by simp [Pack.setV, Pack.v]

@[simp] theorem Pack.s_setV (p : Pack) (r q L : Nat) (x : Word) : (p.setV r L x).s q = p.s q := rfl
@[simp] theorem Pack.k_setV (p : Pack) (r q L : Nat) (x : Word) : (p.setV r L x).k q = p.k q := rfl
@[simp] theorem Pack.tdw_setV (p : Pack) (r j w L : Nat) (x : Word) : (p.setV r L x).tdw j w = p.tdw j w := rfl
@[simp] theorem Pack.id_setV (p : Pack) (r L : Nat) (x : Word) : (p.setV r L x).id = p.id := rfl
@[simp] theorem Pack.m_setV (p : Pack) (r L : Nat) (x : Word) : (p.setV r L x).m = p.m := rfl
@[simp] theorem Pack.c_setV (p : Pack) (r L : Nat) (x : Word) : (p.setV r L x).c = p.c := rfl

@[simp] theorem Pack.s_setS (p : Pack) (r q : Nat) (x : Word) : (p.setS r x).s q = if q = r ∧ r ≠ 0 then x else p.s q := by
  unfold Pack.setS
  by_cases hr : r = 0
  · simp [hr]
  · by_cases hq : q = 0
    · subst hq; simp [Pack.s, hr, Ne.symm hr]
    · by_cases h : q = r <;> simp [Pack.s, hr, hq, h]

/-- A write to s0 is discarded. -/
@[simp] theorem Pack.setS_zero (p : Pack) (x : Word) : p.setS 0 x = p := rfl
/-- s0 reads zero. -/
@[simp] theorem Pack.s_zero (p : Pack) : p.s 0 = 0 := rfl

@[simp] theorem Pack.v_setS (p : Pack) (r q L : Nat) (x : Word) : (p.setS r x).v q L = p.v q L := by
  unfold Pack.setS; split <;> rfl
@[simp] theorem Pack.k_setS (p : Pack) (r q : Nat) (x : Word) : (p.setS r x).k q = p.k q := by
  unfold Pack.setS; split <;> rfl
@[simp] theorem Pack.tdw_setS (p : Pack) (r j w : Nat) (x : Word) : (p.setS r x).tdw j w = p.tdw j w := by
  unfold Pack.setS; split <;> rfl
@[simp] theorem Pack.id_setS (p : Pack) (r : Nat) (x : Word) : (p.setS r x).id = p.id := by
  unfold Pack.setS; split <;> rfl
@[simp] theorem Pack.m_setS (p : Pack) (r : Nat) (x : Word) : (p.setS r x).m = p.m := by
  unfold Pack.setS; split <;> rfl
@[simp] theorem Pack.c_setS (p : Pack) (r : Nat) (x : Word) : (p.setS r x).c = p.c := by
  unfold Pack.setS; split <;> rfl

@[simp] theorem Pack.k_setK (p : Pack) (r q : Nat) (x : Word) : (p.setK r x).k q = if q = r ∧ r ≠ 0 then x else p.k q := by
  unfold Pack.setK
  by_cases hr : r = 0
  · simp [hr]
  · by_cases hq : q = 0
    · subst hq; simp [Pack.k, hr, Ne.symm hr, Pack.active]
    · by_cases h : q = r <;> simp [Pack.k, hr, hq, h]

@[simp] theorem Pack.v_setK (p : Pack) (r q L : Nat) (x : Word) : (p.setK r x).v q L = p.v q L := by
  unfold Pack.setK; split <;> rfl
@[simp] theorem Pack.s_setK (p : Pack) (r q : Nat) (x : Word) : (p.setK r x).s q = p.s q := by
  unfold Pack.setK; split <;> rfl
@[simp] theorem Pack.tdw_setK (p : Pack) (r j w : Nat) (x : Word) : (p.setK r x).tdw j w = p.tdw j w := by
  unfold Pack.setK; split <;> rfl
@[simp] theorem Pack.id_setK (p : Pack) (r : Nat) (x : Word) : (p.setK r x).id = p.id := by
  unfold Pack.setK; split <;> rfl
@[simp] theorem Pack.m_setK (p : Pack) (r : Nat) (x : Word) : (p.setK r x).m = p.m := by
  unfold Pack.setK; split <;> rfl
@[simp] theorem Pack.c_setK (p : Pack) (r : Nat) (x : Word) : (p.setK r x).c = p.c := by
  unfold Pack.setK; split <;> rfl

@[simp] theorem Pack.id_setTd (p : Pack) (j : Nat) (a b : Word) : (p.setTd j a b).id = p.id := rfl
@[simp] theorem Pack.m_setTd (p : Pack) (j : Nat) (a b : Word) : (p.setTd j a b).m = p.m := rfl
@[simp] theorem Pack.c_setTd (p : Pack) (j : Nat) (a b : Word) : (p.setTd j a b).c = p.c := rfl
@[simp] theorem Pack.v_setTd (p : Pack) (j : Nat) (a b : Word) (r L : Nat) : (p.setTd j a b).v r L = p.v r L := rfl
@[simp] theorem Pack.s_setTd (p : Pack) (j : Nat) (a b : Word) (r : Nat) : (p.setTd j a b).s r = p.s r := rfl
@[simp] theorem Pack.k_setTd (p : Pack) (j : Nat) (a b : Word) (r : Nat) : (p.setTd j a b).k r = p.k r := rfl
theorem Pack.tdw_setTd (p : Pack) (j i w : Nat) (a b : Word) (hw : w < 2) :
    (p.setTd j a b).tdw i w = if i = j then (if w = 0 then a else b) else p.tdw i w := by
  unfold Pack.setTd Pack.tdw
  simp only [Sparse.get_set]
  by_cases hij : i = j
  · subst hij
    rcases Nat.lt_or_ge w 1 with h | h
    · have : w = 0 := by omega
      subst this; simp
    · have : w = 1 := by omega
      subst this; simp
  · rw [if_neg (by omega), if_neg (by omega), if_neg hij]

/-! ### The pack after an instruction -/

@[simp] theorem Pack.r_advance (p : Pack) (len : Nat) : (p.advance len).r = p.r := by
  unfold Pack.advance; split <;> rfl
@[simp] theorem Pack.m_advance (p : Pack) (len : Nat) : (p.advance len).m = p.m := by
  unfold Pack.advance; split <;> rfl
@[simp] theorem Pack.v_advance (p : Pack) (len r L : Nat) : (p.advance len).v r L = p.v r L := by simp [Pack.v]
@[simp] theorem Pack.s_advance (p : Pack) (len r : Nat) : (p.advance len).s r = p.s r := by simp [Pack.s]
@[simp] theorem Pack.tdw_advance (p : Pack) (len j w : Nat) : (p.advance len).tdw j w = p.tdw j w := by simp [Pack.tdw]
@[simp] theorem Pack.n_advance (p : Pack) (len : Nat) : (p.advance len).id.n = p.id.n := by
  unfold Pack.advance; split <;> rfl
@[simp] theorem Pack.k_advance (p : Pack) (len r : Nat) : (p.advance len).k r = p.k r := by simp [Pack.k, Pack.active]
/-- Where no replay list stands, the pc goes on by the length. -/
theorem Pack.pc_advance (p : Pack) (len : Nat) (h : p.c.replay = []) : (p.advance len).c.pc = p.c.pc + len := by
  simp [Pack.advance, h]

end Sys2Proof.Machine
end

