-- ==== Sys2Proof/Laws/MemBase.lean ====
section
/-! SUPPORT. The base of the laws of the memories: the outcome forms, folds, and the operations that write a memory keep its
canonical form. -/

namespace Sys2Proof.Machine

/-- A next state of an outcome has these memories. -/
def outMem (o : Out) (m : Mem) : Prop := ∀ t, o = .next t → t.mem = m
/-- A next state of an outcome has its memories in canonical form. -/
def outWf (o : Out) : Prop := ∀ t, o = .next t → Memory.wf t.mem = true

@[simp] theorem outMem_next (t : State) (m : Mem) : outMem (.next t) m ↔ t.mem = m := by simp [outMem]
@[simp] theorem outMem_fault (f : Fault) (m : Mem) : outMem (.fault f) m := by simp [outMem]
@[simp] theorem outMem_refused (f : Refusal) (m : Mem) : outMem (.refused f) m := by simp [outMem]
@[simp] theorem outWf_next (t : State) : outWf (.next t) ↔ Memory.wf t.mem = true := by simp [outWf]
@[simp] theorem outWf_fault (f : Fault) : outWf (.fault f) := by simp [outWf]
@[simp] theorem outWf_refused (f : Refusal) : outWf (.refused f) := by simp [outWf]

/-- An outcome that leaves canonical memories alone has canonical memories. -/
theorem outWf_of_mem (o : Out) (m : Mem) (h : Memory.wf m = true) (e : outMem o m) : outWf o := fun t ht => by rw [e t ht]; exact h

@[simp] theorem mem_ite (c : Prop) [Decidable c] (a b : State) : (if c then a else b).mem = if c then a.mem else b.mem := by
  split <;> rfl
@[simp] theorem fst_ite {α : Type} (c : Prop) [Decidable c] (a b : State × α) : (if c then a else b).1 = if c then a.1 else b.1 := by
  split <;> rfl

/-- An update by a value leaves the memories alone. -/
def Keeps {α : Type} (f : State → α → State) : Prop := ∀ t a, (f t a).mem = t.mem
/-- An update by a value keeps the canonical form. -/
def KeepsWf {α : Type} (f : State → α → State) : Prop := ∀ t a, Memory.wf t.mem = true → Memory.wf (f t a).mem = true
/-- An update by a value, beside another, leaves the memories alone. -/
def KeepsFst {α β : Type} (f : State × β → α → State × β) : Prop := ∀ t a, (f t a).1.mem = t.1.mem
/-- An update by a value, beside another, keeps the canonical form. -/
def KeepsWfFst {α β : Type} (f : State × β → α → State × β) : Prop :=
  ∀ t a, Memory.wf t.1.mem = true → Memory.wf (f t a).1.mem = true

@[simp] theorem keeps_iff {α : Type} (f : State → α → State) : Keeps f ↔ ∀ t a, (f t a).mem = t.mem := Iff.rfl
@[simp] theorem keepsWf_iff {α : Type} (f : State → α → State) :
    KeepsWf f ↔ ∀ t a, Memory.wf t.mem = true → Memory.wf (f t a).mem = true := Iff.rfl
@[simp] theorem keepsFst_iff {α β : Type} (f : State × β → α → State × β) : KeepsFst f ↔ ∀ t a, (f t a).1.mem = t.1.mem := Iff.rfl
@[simp] theorem keepsWfFst_iff {α β : Type} (f : State × β → α → State × β) :
    KeepsWfFst f ↔ ∀ t a, Memory.wf t.1.mem = true → Memory.wf (f t a).1.mem = true := Iff.rfl

/-- A fold of updates that leave the memories alone. -/
@[simp] theorem foldl_mem {α : Type} (f : State → α → State) (l : List α) (s : State) (hf : Keeps f) :
    (l.foldl f s).mem = s.mem := by
  induction l generalizing s with
  | nil => rfl
  | cons a l ih => rw [List.foldl_cons, ih, hf]

/-- A fold of updates beside a value that leave the memories alone. -/
@[simp] theorem foldl_fst_mem {α β : Type} (f : State × β → α → State × β) (l : List α) (s : State × β) (hf : KeepsFst f) :
    (l.foldl f s).1.mem = s.1.mem := by
  induction l generalizing s with
  | nil => rfl
  | cons a l ih => rw [List.foldl_cons, ih, hf]

/-- A fold of updates that keep the canonical form. -/
@[simp] theorem foldl_wf {α : Type} (f : State → α → State) (l : List α) (s : State) (h : Memory.wf s.mem = true)
    (hf : KeepsWf f) : Memory.wf (l.foldl f s).mem = true := by
  induction l generalizing s with
  | nil => exact h
  | cons a l ih => exact ih _ (hf s a h)

/-- A fold of updates beside a value that keep the canonical form. -/
@[simp] theorem foldl_fst_wf {α β : Type} (f : State × β → α → State × β) (l : List α) (s : State × β)
    (h : Memory.wf s.1.mem = true) (hf : KeepsWfFst f) : Memory.wf (l.foldl f s).1.mem = true := by
  induction l generalizing s with
  | nil => exact h
  | cons a l ih => exact ih _ (hf s a h)

/-! ### Writes to the memories -/

theorem Memory.wf_iff (m : Mem) : Memory.wf m = true ↔
    Sparse.wf m.hbm = true ∧ Sparse.wf m.host0 = true ∧ Sparse.wf m.host1 = true ∧ Sparse.wf m.owner = true := by
  simp [Memory.wf, and_assoc]

/-- Reset memory stands in canonical form. -/
theorem Memory.wf_reset : Memory.wf State.reset.mem = true := rfl

@[simp] theorem Memory.wf_ite (c : Prop) [Decidable c] (a b : Mem) :
    Memory.wf (if c then a else b) = true ↔ (c → Memory.wf a = true) ∧ (¬c → Memory.wf b = true) := by
  split <;> simp_all

/-- Lists beside the memories do not matter to their form. -/
@[simp] theorem Memory.wf_lists (m : Mem) (l2 : List L2Line) (bad : List Nat) (tc : List TcEntry) :
    Memory.wf { m with l2 := l2, bad := bad, tc := tc } = Memory.wf m := rfl

/-- A physical write keeps the canonical form. -/
@[simp] theorem State.physWrite_wf (s : State) (pa : Nat) (bs : List Byte) (h : Memory.wf s.mem = true) :
    Memory.wf (s.physWrite pa bs).mem = true := by
  rw [Memory.wf_iff] at h ⊢
  unfold State.physWrite
  split <;> simp [Sparse.wf_setRun, h]

@[simp] theorem State.hostWrite_wf (s : State) (port off : Nat) (bs : List Byte) (h : Memory.wf s.mem = true) :
    Memory.wf (s.hostWrite port off bs).mem = true := by
  rw [Memory.wf_iff] at h ⊢
  unfold State.hostWrite
  split <;> simp [Sparse.wf_setRun, h]

/-- A table entry written keeps the canonical form. -/
@[simp] theorem State.setEntry64_wf (s : State) (pa v : Nat) (h : Memory.wf s.mem = true) : Memory.wf (s.setEntry64 pa v).mem = true := by
  rw [Memory.wf_iff] at h ⊢
  simp [State.setEntry64, Sparse.wf_setRun, h]

/-- An owner entry written keeps the canonical form. -/
@[simp] theorem State.setOwner_wf (s : State) (pa v : Nat) (h : Memory.wf s.mem = true) : Memory.wf (s.setOwner pa v).mem = true := by
  rw [Memory.wf_iff] at h ⊢
  simp [State.setOwner, Sparse.wf_set, h]

@[simp] theorem State.touch_wf (s : State) (asid va : Nat) (use : XlUse) (at_ : Option (Nat × Bool)) (h : Memory.wf s.mem = true) :
    Memory.wf (s.touch asid va use at_).mem = true := by
  unfold State.touch
  split
  · exact h
  · exact State.setEntry64_wf _ _ _ h

end Sys2Proof.Machine
end

