-- ==== Sys2Proof/Laws/MemOps.lean ====
section
/-! SUPPORT. What the definitions of Machine/Ops.lean do to the memories: which leave them alone, and that the others keep
the canonical form. -/

namespace Sys2Proof.Machine

@[simp] theorem State.raiseAtCore_mem (s : State) (core ctx : Nat) (trap : Bool) (pay : List Word) (bearing : DWord) (serial : Nat) :
    (State.raiseAtCore s core ctx trap pay bearing serial).mem = s.mem := by
  unfold State.raiseAtCore; split <;> simp_all

@[simp] theorem State.engineStart_mem (s : State) (core pipe : Nat) :
    (State.engineStart s core pipe).mem = s.mem := by
  unfold State.engineStart; dsimp only; (repeat' split) <;> simp_all (maxDischargeDepth := 20)

@[simp] theorem State.ghost_mem (s : State) (r : PackRef) (p : Pack) :
    (State.ghost s r p).mem = s.mem := by
  unfold State.ghost; split <;> simp_all (maxDischargeDepth := 20)

@[simp] theorem State.freePack_mem (s : State) (r : PackRef) (p : Pack) :
    (State.freePack s r p).mem = s.mem := by
  unfold State.freePack; (repeat' split) <;> simp_all (maxDischargeDepth := 20)

@[simp] theorem State.killPack_mem (s : State) (r : PackRef) (p : Pack) :
    (State.killPack s r p).mem = s.mem := by
  unfold State.killPack; dsimp only; (repeat' split) <;> simp_all (maxDischargeDepth := 20)

@[simp] theorem State.failRegen_mem (s : State) (c kind arg : Nat) :
    (State.failRegen s c kind arg).mem = s.mem := by
  unfold State.failRegen; (repeat' split) <;> simp_all

@[simp] theorem State.raise_mem (s : State) (r : PackRef) (p : Pack) (idx resume code : Nat) (entry : Option Report) (cause : Nat) :
    (State.raise s r p idx resume code entry cause).mem = s.mem := by
  unfold State.raise; dsimp only; (repeat' split) <;> simp_all (maxDischargeDepth := 20)

@[simp] theorem State.trapIssue_mem (s : State) (r : PackRef) (p : Pack) (len : Nat) (lanes : List RepLane) :
    (State.trapIssue s r p len lanes).mem = s.mem := by
  unfold State.trapIssue; simp

@[simp] theorem State.trapIllegal_mem (s : State) (r : PackRef) (p : Pack) (len check : Nat) :
    (State.trapIllegal s r p len check).mem = s.mem := by
  unfold State.trapIllegal; simp

@[simp] theorem State.trapReport_mem (s : State) (r : PackRef) (p : Pack) :
    (State.trapReport s r p).mem = s.mem := by
  unfold State.trapReport; dsimp only; (repeat' split) <;> simp_all (maxDischargeDepth := 20)

@[simp] theorem State.deferWait_mem (s : State) (p : Pack) :
    (State.deferWait s p).mem = s.mem := by
  unfold State.deferWait; simp

end Sys2Proof.Machine
end

