-- ==== Sys2Proof/Laws/MemOperands.lean ====
section
/-! SUPPORT. What the definitions of Machine/Operands.lean do to the memories: which leave them alone, and that the others keep
the canonical form. -/

namespace Sys2Proof.Machine

/-- What an issue gives for a pack has these memories. -/
def FromPack (f : Pack → State) (m : Mem) : Prop := ∀ p, (f p).mem = m
/-- What an issue gives for a pack has its memories in canonical form. -/
def FromPackWf (f : Pack → State) : Prop := ∀ p, Memory.wf (f p).mem = true

@[simp] theorem fromPack_iff (f : Pack → State) (m : Mem) : FromPack f m ↔ ∀ p, (f p).mem = m := Iff.rfl
@[simp] theorem fromPackWf_iff (f : Pack → State) : FromPackWf f ↔ ∀ p, Memory.wf (f p).mem = true := Iff.rfl

@[simp] theorem issue_mem (s : State) (i : Instr) (f : Pack → State) (hf : FromPack f s.mem) : outMem (issue s i f) s.mem := by
  unfold issue
  (repeat' split) <;> simp_all

@[simp] theorem issue_wf (s : State) (i : Instr) (f : Pack → State) (h : Memory.wf s.mem = true) (hf : FromPackWf f) :
    outWf (issue s i f) := by
  unfold issue
  (repeat' split) <;> simp_all

@[simp] theorem State.retire_mem (s : State) (p : Pack) (len occ : Nat) :
    (State.retire s p len occ).mem = s.mem := by
  unfold State.retire; simp

end Sys2Proof.Machine
end

