-- ==== Sys2Proof/Laws/MemFlags.lean ====
section
/-! SUPPORT. What the definitions of Machine/Flags.lean do to the memories: which leave them alone, and that the others keep
the canonical form. -/

namespace Sys2Proof.Machine

@[simp] theorem State.commit_mem (s : State) (ctx cls : Nat) :
    (State.commit s ctx cls).mem = s.mem := by
  unfold State.commit; simp

@[simp] theorem State.commitFor_mem (s : State) (p : Pack) (cls : Nat) :
    (State.commitFor s p cls).1.mem = s.mem := by
  unfold State.commitFor; split <;> simp_all

@[simp] theorem State.finishLane_mem (s : State) (r : PackRef) (p : Pack) (len cls : Nat) (ls : List RepLane) :
    (State.finishLane s r p len cls ls).mem = s.mem := by
  unfold State.finishLane; split <;> simp_all (maxDischargeDepth := 20)

@[simp] theorem State.completeWith_mem (s : State) (p : Pack) (len occ : Nat) (fp : Bool) (cls : Nat) (ls : List RepLane) :
    (State.completeWith s p len occ fp cls ls).mem = s.mem := by
  unfold State.completeWith; dsimp only; split <;> simp

@[simp] theorem State.completeAt_mem (s : State) (p : Pack) (len occ : Nat) (fp : Bool) (at_ : Nat → Nat) (cs : List (Nat × Nat)) :
    (State.completeAt s p len occ fp at_ cs).mem = s.mem := by
  unfold State.completeAt; simp

@[simp] theorem State.completeLate_mem (s : State) (core pipe t : Nat) :
    (State.completeLate s core pipe t).mem = s.mem := by
  unfold State.completeLate; dsimp only; (repeat' split) <;> simp_all (maxDischargeDepth := 20)

@[simp] theorem State.tick_mem (s : State) (t : Nat) :
    (State.tick s t).mem = s.mem := by
  unfold State.tick; dsimp only; (repeat' split) <;> simp_all (maxDischargeDepth := 20)

@[simp] theorem State.complete_mem (s : State) (p : Pack) (len occ : Nat) (fp : Bool) (cs : List (Nat × Nat)) :
    (State.complete s p len occ fp cs).mem = s.mem := by
  unfold State.complete; (repeat' split) <;> simp_all (maxDischargeDepth := 20)

@[simp] theorem laneOp_mem (s : State) (i : Instr) (d occ : Nat) (fp : Bool) (f : Pack → Nat → LaneOut) :
    outMem (laneOp s i d occ fp f) s.mem := by
  unfold laneOp; (repeat' split) <;> simp_all (maxDischargeDepth := 20)

@[simp] theorem lane32_mem (s : State) (i : Instr) (d occ : Nat) (f : Pack → Nat → Word) :
    outMem (lane32 s i d occ f) s.mem := by
  unfold lane32; (repeat' split) <;> simp_all (maxDischargeDepth := 20)

@[simp] theorem lane64_mem (s : State) (i : Instr) (d occ : Nat) (f : Pack → Nat → DWord) :
    outMem (lane64 s i d occ f) s.mem := by
  unfold lane64; (repeat' split) <;> simp_all (maxDischargeDepth := 20)

@[simp] theorem packOp_mem (s : State) (i : Instr) (occ : Nat) (f : Pack → Pack) :
    outMem (packOp s i occ f) s.mem := by
  unfold packOp; simp

end Sys2Proof.Machine
end

