-- ==== Sys2Proof/Laws/MemHome.lean ====
section
/-! SUPPORT. What the definitions of Machine/Home.lean do to the memories: which leave them alone, and that the others keep
the canonical form. -/

namespace Sys2Proof.Machine

@[simp] theorem State.putL2_wf (s : State) (l : L2Line) (h : Memory.wf s.mem = true) :
    Memory.wf (State.putL2 s l).mem = true := by
  unfold State.putL2; simp +contextual [*]

@[simp] theorem bits_fold_wf (s : State) (pa : Nat) (d : Sparse 8) (l : List Nat) (h : Memory.wf s.mem = true) :
    Memory.wf (l.foldl (fun t i => t.physWrite (pa + i) [Sparse.get i d]) s).mem = true :=
  foldl_wf _ _ _ h fun _ _ ht => State.physWrite_wf _ _ _ ht

/-- The list of bad lines does not matter to the form. -/
theorem Memory.wf_bad (m : Mem) (bad : List Nat) : Memory.wf { m with bad := bad } = Memory.wf m := rfl

@[simp] theorem State.sendEp_mem (s : State) (pa n : Nat) : (s.sendEp pa n).mem = s.mem := by
  unfold State.sendEp; split <;> rfl

@[simp] theorem State.writeBack_wf (s : State) (l : L2Line) (use : XlUse) (h : Memory.wf s.mem = true) :
    Memory.wf (State.writeBack s l use).mem = true := by
  unfold State.writeBack
  split
  · exact h
  · refine State.touch_wf _ _ _ _ _ ?_
    exact bits_fold_wf _ _ _ _ (by split <;> simp [h])

@[simp] theorem State.giveUp_wf (s : State) (l : L2Line) (h : Memory.wf s.mem = true) : Memory.wf (State.giveUp s l).mem = true := by
  have hb : Memory.wf (if l.unsaved then s.writeBack l else s).mem = true := by
    split
    · exact State.writeBack_wf _ _ _ h
    · exact h
  unfold State.giveUp
  dsimp only
  split
  · split
    · exact hb
    · exact h
  · exact hb

@[simp] theorem State.roomL2_wf (s : State) (asid line : Nat) (h : Memory.wf s.mem = true) :
    Memory.wf (State.roomL2 s asid line).mem = true := by
  unfold State.roomL2
  dsimp only
  split
  · exact h
  · split
    · exact State.giveUp_wf _ _ h
    · exact h

/-- A line placed at its home slice does not matter to the form. -/
theorem State.putL2_wfEq (s : State) (l : L2Line) : Memory.wf (State.putL2 s l).mem = Memory.wf s.mem := rfl

@[simp] theorem State.fill_wf (s : State) (asid va : Nat) (colour : Option Nat) (use : XlUse) (h : Memory.wf s.mem = true) :
    Memory.wf (State.fill s asid va colour use).1.mem = true := by
  unfold State.fill
  dsimp only
  split
  · exact h
  · exact h
  · split <;> split <;> simp [State.putL2_wfEq, h]

@[simp] theorem State.homeRead_wf (s : State) (asid va n : Nat) (colour : Option Nat) (use : XlUse) (h : Memory.wf s.mem = true) :
    Memory.wf (State.homeRead s asid va n colour use).1.mem = true := by
  have hf := State.fill_wf s asid va colour use h
  unfold State.homeRead
  dsimp only
  split
  · split
    · exact h
    · split <;> simp_all
  · split <;> simp_all

@[simp] theorem State.modL2_wf (s : State) (asid line : Nat) (colour : Option Nat) (f : L2Line → L2Line) (h : Memory.wf s.mem = true) :
    Memory.wf (State.modL2 s asid line colour f).mem = true := by
  unfold State.modL2
  dsimp only
  split <;> simp [h]

@[simp] theorem State.clearPoison_wf (s : State) (asid line : Nat) (colour : Option Nat) (h : Memory.wf s.mem = true) :
    Memory.wf (State.clearPoison s asid line colour).mem = true := by
  unfold State.clearPoison
  split <;> simp [h]

@[simp] theorem State.homeWrite_wf (s : State) (asid line : Nat) (data : Sparse 8) (mask : Nat) (colour : Option Nat)
    (h : Memory.wf s.mem = true) : Memory.wf (State.homeWrite s asid line data mask colour).mem = true := by
  unfold State.homeWrite; simp [h]

@[simp] theorem State.dropL1_mem (s : State) (f : L1Line → Bool) :
    (State.dropL1 s f).mem = s.mem := by
  unfold State.dropL1; simp

@[simp] theorem State.flushRange_wf (s : State) (asid va len : Nat) (h : Memory.wf s.mem = true) :
    Memory.wf (State.flushRange s asid va len).mem = true := by
  unfold State.flushRange
  exact foldl_wf _ _ _ h fun _ _ ht => State.writeBack_wf _ _ _ ht

end Sys2Proof.Machine
end

