-- ==== Sys2Proof/Laws/MemLoadStore.lean ====
section
/-! SUPPORT. What the definitions of Machine/LoadStore.lean do to the memories: which leave them alone, and that the others keep
the canonical form. -/

namespace Sys2Proof.Machine

@[simp] theorem State.openSlot_mem (s : State) (core : Nat) (sl : Slot) :
    (State.openSlot s core sl).1.mem = s.mem := by
  unfold State.openSlot; simp

@[simp] theorem State.closeStore_mem (s : State) (core n : Nat) (sl : Slot) :
    (State.closeStore s core n sl).mem = s.mem := by
  unfold State.closeStore; simp

@[simp] theorem State.openLoad_mem (s : State) (core asid line : Nat) (colour : Option Nat) (l2 : Bool) :
    (State.openLoad s core asid line colour l2).1.mem = s.mem := by
  unfold State.openLoad; simp

@[simp] theorem State.joinL1_mem (s : State) (core n : Nat) : (State.joinL1 s core n).mem = s.mem := rfl

@[simp] theorem State.loadLine_mem (s : State) (p : Pack) (uid size line : Nat) (accs : List (Nat × Nat)) :
    (State.loadLine s p uid size line accs).1.mem = s.mem := by
  unfold State.loadLine; dsimp only; (repeat' split) <;> simp_all (maxDischargeDepth := 20)

@[simp] theorem State.trainStream_mem (s : State) (p : Pack) (eas : List (Nat × Nat)) :
    (State.trainStream s p eas).1.mem = s.mem := by
  unfold State.trainStream; split <;> simp_all

@[simp] theorem State.loadGlobal_mem (s : State) (p : Pack) (len size : Nat) (sext uni : Bool) (d : Nat) (good : List (Nat × Nat)) (bad : List RepLane) :
    (State.loadGlobal s p len size sext uni d good bad).mem = s.mem := by
  unfold State.loadGlobal; dsimp only; (repeat' split) <;> simp_all (maxDischargeDepth := 20)

@[simp] theorem execLd_mem (sz : Sz) (sext : Bool) (d base : Nat) (off : Int) (s : State) :
    outMem (execLd sz sext d base off s) s.mem := by
  unfold execLd; dsimp only; (repeat' split) <;> simp_all (maxDischargeDepth := 20)

@[simp] theorem execLds_mem (sz : Sz) (sext : Bool) (d base : Nat) (off : Int) (s : State) :
    outMem (execLds sz sext d base off s) s.mem := by
  unfold execLds
  exact issue_mem _ _ _ fun p => by (try dsimp only); (repeat' split) <;> simp_all (maxDischargeDepth := 20)

@[simp] theorem State.performStore_mem (s : State) (core entry : Nat) (w : Wake) :
    (State.performStore s core entry w).mem = s.mem := by
  unfold State.performStore; dsimp only; (repeat' split) <;> simp_all (maxDischargeDepth := 20)

@[simp] theorem State.storeLane_mem (s : State) (p : Pack) (size : Nat) (holds : List Cond) (e : Nat × Nat) (data : Nat) :
    (State.storeLane s p size holds e data).mem = s.mem := by
  unfold State.storeLane; dsimp only; (repeat' split) <;> simp_all (maxDischargeDepth := 20)

@[simp] theorem execSt_mem (sz : Sz) (d base : Nat) (off : Int) (k : Nat) (s : State) :
    outMem (execSt sz d base off k s) s.mem := by
  unfold execSt
  exact issue_mem _ _ _ fun p => by (try dsimp only); (repeat' split) <;> simp_all (maxDischargeDepth := 20)

@[simp] theorem State.finishIssue_mem (s : State) (p : Pack) (len occ : Nat) (bad : List RepLane) :
    (State.finishIssue s p len occ bad).mem = s.mem := by
  unfold State.finishIssue; split <;> simp_all

@[simp] theorem execLdf_mem (sz : Sz) (sext : Bool) (d base : Nat) (off : Int) (s : State) :
    outMem (execLdf sz sext d base off s) s.mem := by
  unfold execLdf; (repeat' split) <;> simp_all

@[simp] theorem execStf_mem (sz : Sz) (d base : Nat) (off : Int) (k : Nat) (s : State) :
    outMem (execStf sz d base off k s) s.mem := by
  unfold execStf; (repeat' split) <;> simp_all

@[simp] theorem execLdp_mem (sz : Sz) (sext : Bool) (d base : Nat) (off : Int) (s : State) :
    outMem (execLdp sz sext d base off s) s.mem := by
  unfold execLdp; (repeat' split) <;> simp_all

@[simp] theorem execStp_mem (sz : Sz) (d base : Nat) (off : Int) (k : Nat) (s : State) :
    outMem (execStp sz d base off k s) s.mem := by
  unfold execStp; (repeat' split) <;> simp_all

@[simp] theorem execLdc_mem (sz : Sz) (sext : Bool) (d base : Nat) (off : Int) (s : State) :
    outMem (execLdc sz sext d base off s) s.mem := by
  unfold execLdc; (repeat' split) <;> simp_all

@[simp] theorem State.prefetch_mem (s : State) (p : Pack) (va : Nat) (toL1 : Bool) :
    (State.prefetch s p va toL1).mem = s.mem := by
  unfold State.prefetch; dsimp only; (repeat' split) <;> simp

@[simp] theorem execPfx_wf (hint : PfxHint) (sz : Sz) (base : Nat) (off : Int) (k : Nat) (s : State) (h : Memory.wf s.mem = true) :
    outWf (execPfx hint sz base off k s) := by
  unfold execPfx
  refine issue_wf _ _ _ h fun p => ?_
  dsimp only
  (repeat' split) <;> simp +contextual [h]

end Sys2Proof.Machine
end

