-- ==== Sys2Proof/Laws/MemFence.lean ====
section
/-! SUPPORT. What the definitions of Machine/Fence.lean do to the memories: which leave them alone, and that the others keep
the canonical form. -/

namespace Sys2Proof.Machine

@[simp] theorem finishFence_mem (s : State) (r : PackRef) (p : Pack) (w : Wait) :
    (finishFence s r p w).mem = s.mem := by
  unfold finishFence; simp

@[simp] theorem State.share_mem (s : State) (r : PackRef) (p : Pack) (sc : Scope) :
    (State.share s r p sc).mem = s.mem := by
  unfold State.share; simp

@[simp] theorem execFence_mem (kind : FenceKind) (sc : Scope) (s : State) :
    outMem (execFence kind sc s) s.mem := by
  unfold execFence; (repeat' split) <;> simp_all (maxDischargeDepth := 20)

end Sys2Proof.Machine
end

