-- ==== Sys2Proof/Laws/MemInteger.lean ====
section
/-! SUPPORT. What the definitions of Machine/Integer.lean do to the memories: which leave them alone, and that the others keep
the canonical form. -/

namespace Sys2Proof.Machine

@[simp] theorem intOp_mem (s : State) (i : Instr) (t : IntTy) (d a : Nat) (b : BOp) (occ : Nat) (f : Int → Int → Int) :
    outMem (intOp s i t d a b occ f) s.mem := by
  unfold intOp; simp

@[simp] theorem execAdd_mem (sat : Bool) (t : IntTy) (d a : Nat) (b : BOp) (s : State) :
    outMem (execAdd sat t d a b s) s.mem := by
  unfold execAdd; simp

@[simp] theorem execAddImm_mem (d a : Nat) (imm : Int) (s : State) :
    outMem (execAddImm d a imm s) s.mem := by
  unfold execAddImm; simp

@[simp] theorem execSub_mem (sat : Bool) (t : IntTy) (d a : Nat) (b : BOp) (s : State) :
    outMem (execSub sat t d a b s) s.mem := by
  unfold execSub; simp

@[simp] theorem execMul_mem (sat : Bool) (t : IntTy) (d a : Nat) (b : BOp) (s : State) :
    outMem (execMul sat t d a b s) s.mem := by
  unfold execMul; simp

@[simp] theorem execMulImm_mem (d a : Nat) (imm : Int) (s : State) :
    outMem (execMulImm d a imm s) s.mem := by
  unfold execMulImm; simp

@[simp] theorem execMulh_mem (t : IntTy) (d a : Nat) (b : BOp) (s : State) :
    outMem (execMulh t d a b s) s.mem := by
  unfold execMulh; simp

@[simp] theorem execMad_mem (t : IntTy) (d a : Nat) (b : BOp) (s : State) :
    outMem (execMad t d a b s) s.mem := by
  unfold execMad; simp

@[simp] theorem divOp_mem (s : State) (i : Instr) (t : IntTy) (remainder : Bool) (d a : Nat) (b : BOp) :
    outMem (divOp s i t remainder d a b) s.mem := by
  unfold divOp; simp

@[simp] theorem execDivi_mem (wide : Bool) (d a : Nat) (b : BOp) (s : State) :
    outMem (execDivi wide d a b s) s.mem := by
  unfold execDivi; simp

@[simp] theorem execDivn_mem (wide : Bool) (d a : Nat) (b : BOp) (s : State) :
    outMem (execDivn wide d a b s) s.mem := by
  unfold execDivn; simp

@[simp] theorem execRemi_mem (wide : Bool) (d a : Nat) (b : BOp) (s : State) :
    outMem (execRemi wide d a b s) s.mem := by
  unfold execRemi; simp

@[simp] theorem execRemn_mem (wide : Bool) (d a : Nat) (b : BOp) (s : State) :
    outMem (execRemn wide d a b s) s.mem := by
  unfold execRemn; simp

@[simp] theorem execMin_mem (t : IntTy) (d a : Nat) (b : BOp) (s : State) :
    outMem (execMin t d a b s) s.mem := by
  unfold execMin; simp

@[simp] theorem execMax_mem (t : IntTy) (d a : Nat) (b : BOp) (s : State) :
    outMem (execMax t d a b s) s.mem := by
  unfold execMax; simp

@[simp] theorem unOp_mem (s : State) (i : Instr) (wide : Bool) (d a : Nat) (f : Nat → DWord) :
    outMem (unOp s i wide d a f) s.mem := by
  unfold unOp; simp

@[simp] theorem execAbs_mem (wide : Bool) (d a : Nat) (s : State) :
    outMem (execAbs wide d a s) s.mem := by
  unfold execAbs; simp

@[simp] theorem execNeg_mem (wide : Bool) (d a : Nat) (s : State) :
    outMem (execNeg wide d a s) s.mem := by
  unfold execNeg; simp

@[simp] theorem execNot_mem (wide : Bool) (d a : Nat) (s : State) :
    outMem (execNot wide d a s) s.mem := by
  unfold execNot; simp

@[simp] theorem execClz_mem (wide : Bool) (d a : Nat) (s : State) :
    outMem (execClz wide d a s) s.mem := by
  unfold execClz; simp

@[simp] theorem execPopc_mem (wide : Bool) (d a : Nat) (s : State) :
    outMem (execPopc wide d a s) s.mem := by
  unfold execPopc; simp

@[simp] theorem execBrev_mem (wide : Bool) (d a : Nat) (s : State) :
    outMem (execBrev wide d a s) s.mem := by
  unfold execBrev; simp

end Sys2Proof.Machine
end

