-- ==== Sys2Proof/Laws/MemMoves.lean ====
section
/-! SUPPORT. What the definitions of Machine/Moves.lean do to the memories: which leave them alone, and that the others keep
the canonical form. -/

namespace Sys2Proof.Machine

@[simp] theorem execMov_mem (wide : Bool) (d : Nat) (b : BOp) (s : State) :
    outMem (execMov wide d b s) s.mem := by
  unfold execMov; simp

@[simp] theorem execMovsLane_mem (d a lane : Nat) (s : State) :
    outMem (execMovsLane d a lane s) s.mem := by
  unfold execMovsLane; simp

@[simp] theorem execMovsUniform_mem (d a : Nat) (s : State) :
    outMem (execMovsUniform d a s) s.mem := by
  unfold execMovsUniform; simp

@[simp] theorem execMoviV_mem (d : Nat) (imm : Int) (s : State) :
    outMem (execMoviV d imm s) s.mem := by
  unfold execMoviV; simp

@[simp] theorem execMoviS_mem (d : Nat) (imm : Int) (s : State) :
    outMem (execMoviS d imm s) s.mem := by
  unfold execMoviS; simp

@[simp] theorem execMoviImm32_mem (uni : Bool) (d imm : Nat) (s : State) :
    outMem (execMoviImm32 uni d imm s) s.mem := by
  unfold execMoviImm32; split <;> simp_all

@[simp] theorem execMovhiV_mem (d imm : Nat) (s : State) :
    outMem (execMovhiV d imm s) s.mem := by
  unfold execMovhiV; simp

@[simp] theorem execMovhiS_mem (d imm : Nat) (s : State) :
    outMem (execMovhiS d imm s) s.mem := by
  unfold execMovhiS; simp

@[simp] theorem execSel_mem (d a : Nat) (b : BOp) (k : Nat) (s : State) :
    outMem (execSel d a b k s) s.mem := by
  unfold execSel; simp

@[simp] theorem execLane_mem (d : Nat) (s : State) :
    outMem (execLane d s) s.mem := by
  unfold execLane; simp

@[simp] theorem execNln_mem (d : Nat) (s : State) :
    outMem (execNln d s) s.mem := by
  unfold execNln; simp

@[simp] theorem execCmp_mem (c : Sys2Proof.Cond) (t : IntTy) (d a : Nat) (b : BOp) (s : State) :
    outMem (execCmp c t d a b s) s.mem := by
  unfold execCmp; simp

@[simp] theorem execCmpImm_mem (c : Sys2Proof.Cond) (unsigned : Bool) (d a imm : Nat) (s : State) :
    outMem (execCmpImm c unsigned d a imm s) s.mem := by
  unfold execCmpImm; simp

@[simp] theorem execKop_mem (op : KOp) (d a b : Nat) (s : State) :
    outMem (execKop op d a b s) s.mem := by
  unfold execKop; simp

end Sys2Proof.Machine
end

