-- ==== Sys2Proof/Laws/MemFloatInstr.lean ====
section
/-! SUPPORT. What the definitions of Machine/FloatInstr.lean do to the memories: which leave them alone, and that the others keep
the canonical form. -/

namespace Sys2Proof.Machine

@[simp] theorem fpOp_mem (s : State) (i : Instr) (r : Rnd) (d a : Nat) (b : BOp) (f : FCfg → FVal → FVal → FR) :
    outMem (fpOp s i r d a b f) s.mem := by
  unfold fpOp; simp

@[simp] theorem execFadd_mem (r : Rnd) (d a : Nat) (b : BOp) (s : State) :
    outMem (execFadd r d a b s) s.mem := by
  unfold execFadd; simp

@[simp] theorem execFsub_mem (r : Rnd) (d a : Nat) (b : BOp) (s : State) :
    outMem (execFsub r d a b s) s.mem := by
  unfold execFsub; simp

@[simp] theorem execFmul_mem (r : Rnd) (d a : Nat) (b : BOp) (s : State) :
    outMem (execFmul r d a b s) s.mem := by
  unfold execFmul; simp

@[simp] theorem execFfma_mem (r : Rnd) (d a : Nat) (b : BOp) (s : State) :
    outMem (execFfma r d a b s) s.mem := by
  unfold execFfma; simp

@[simp] theorem execFmin_mem (d a : Nat) (b : BOp) (s : State) :
    outMem (execFmin d a b s) s.mem := by
  unfold execFmin; simp

@[simp] theorem execFmax_mem (d a : Nat) (b : BOp) (s : State) :
    outMem (execFmax d a b s) s.mem := by
  unfold execFmax; simp

@[simp] theorem execFabs_mem (d a : Nat) (s : State) :
    outMem (execFabs d a s) s.mem := by
  unfold execFabs; simp

@[simp] theorem execFneg_mem (d a : Nat) (s : State) :
    outMem (execFneg d a s) s.mem := by
  unfold execFneg; simp

@[simp] theorem execFclass_mem (d a : Nat) (s : State) :
    outMem (execFclass d a s) s.mem := by
  unfold execFclass; simp

@[simp] theorem execFrnd_mem (r : Rnd) (d a : Nat) (s : State) :
    outMem (execFrnd r d a s) s.mem := by
  unfold execFrnd; simp

@[simp] theorem execFcmp_mem (c : FCond) (sig : Bool) (d a : Nat) (b : BOp) (s : State) :
    outMem (execFcmp c sig d a b s) s.mem := by
  unfold execFcmp; simp

@[simp] theorem execFscale_mem (r : Rnd) (d a : Nat) (b : BOp) (s : State) :
    outMem (execFscale r d a b s) s.mem := by
  unfold execFscale; simp

@[simp] theorem execHadd2_mem (bf : Bool) (r : Rnd) (d a : Nat) (b : BOp) (s : State) :
    outMem (execHadd2 bf r d a b s) s.mem := by
  unfold execHadd2; simp

@[simp] theorem execHmul2_mem (bf : Bool) (r : Rnd) (d a : Nat) (b : BOp) (s : State) :
    outMem (execHmul2 bf r d a b s) s.mem := by
  unfold execHmul2; simp

@[simp] theorem execHfma2_mem (bf : Bool) (r : Rnd) (d a : Nat) (b : BOp) (s : State) :
    outMem (execHfma2 bf r d a b s) s.mem := by
  unfold execHfma2; simp

@[simp] theorem execCvt_mem (dst src : ElemTy) (r : Rnd) (d a : Nat) (s : State) :
    outMem (execCvt dst src r d a s) s.mem := by
  unfold execCvt; simp

end Sys2Proof.Machine
end

