-- ==== Sys2Proof/Laws/MemResults.lean ====
section
/-! SUPPORT. What the definitions of Machine/Results.lean do to the memories: which leave them alone, and that the others keep
the canonical form. -/

namespace Sys2Proof.Machine

@[simp] theorem State.noteMiss_mem (s : State) (asid line ctx rix : Nat) :
    (State.noteMiss s asid line ctx rix).mem = s.mem := by
  unfold State.noteMiss; simp

@[simp] theorem State.killReaders_mem (s : State) (core : Nat) (ws : List Waiter) : (State.killReaders s core ws).mem = s.mem := by
  unfold State.killReaders
  refine foldl_mem _ _ _ fun t a => ?_
  dsimp only; (repeat' split) <;> simp_all

@[simp] theorem State.fillSlot_wf (s : State) (core n : Nat) (sl : Slot) (h : Memory.wf s.mem = true) :
    Memory.wf (State.fillSlot s core n sl).mem = true := by
  have hr := State.homeRead_wf s sl.asid (sl.line * 64) 64 sl.colour .read h
  unfold State.fillSlot
  dsimp only
  split
  · simpa using h
  · split
    · rename_i e; rw [e] at hr; simpa using hr
    · rename_i e; rw [e] at hr; simpa using hr
    · rename_i e; rw [e] at hr
      split <;> simpa using hr

@[simp] theorem execLineFill_wf (core n : Nat) (s : State) (h : Memory.wf s.mem = true) : outWf (execLineFill core n s) := by
  unfold execLineFill
  dsimp only
  split
  · simpa using h
  · split
    · simpa using h
    · simpa using State.fillSlot_wf s core n _ h

@[simp] theorem State.deliver_mem (s : State) (r : PackRef) (p : Pack) (n : Nat) (d : Deferred) :
    (State.deliver s r p n d).mem = s.mem := by
  unfold State.deliver; (repeat' split) <;> simp_all (maxDischargeDepth := 20)

@[simp] theorem execLoadResult_mem (r : PackRef) (n : Nat) (s : State) :
    outMem (execLoadResult r n s) s.mem := by
  unfold execLoadResult; (repeat' split) <;> simp_all

@[simp] theorem execSfuResult_mem (r : PackRef) (n : Nat) (s : State) :
    outMem (execSfuResult r n s) s.mem := by
  unfold execSfuResult; (repeat' split) <;> simp_all

@[simp] theorem execStoreSlotClose_mem (core n : Nat) (s : State) :
    outMem (execStoreSlotClose core n s) s.mem := by
  unfold execStoreSlotClose; dsimp only; (repeat' split) <;> simp_all

@[simp] theorem State.probe_wf (s : State) (asid line : Nat) (colour : Option Nat) (h : Memory.wf s.mem = true) :
    Memory.wf (State.probe s asid line colour).mem = true := by
  unfold State.probe; split <;> simp_all (maxDischargeDepth := 20)

@[simp] theorem execLineWriteArrival_wf (core n : Nat) (s : State) (h : Memory.wf s.mem = true) :
    outWf (execLineWriteArrival core n s) := by
  unfold execLineWriteArrival; dsimp only; (repeat' split) <;> simp_all (maxDischargeDepth := 20)

@[simp] theorem State.answerProbe_wf (s : State) (asid line : Nat) (colour : Option Nat) (counted held : Bool) (h : Memory.wf s.mem = true) :
    Memory.wf (State.answerProbe s asid line colour counted held).mem = true := by
  unfold State.answerProbe; split <;> simp_all (maxDischargeDepth := 20)

@[simp] theorem State.storeFaultTok_mem (s : State) (core entry : Nat) (w : Wake) :
    (State.storeFaultTok s core entry w).mem = s.mem := by
  unfold State.storeFaultTok; simp

@[simp] theorem State.faultEntry_mem (s : State) (core entry kind : Nat) :
    (State.faultEntry s core entry kind).mem = s.mem := by
  unfold State.faultEntry; (repeat' split) <;> simp_all

@[simp] theorem State.hostBytes_wf (s : State) (asid line : Nat) (colour : Option Nat) (pa : Nat) (data : Sparse 8) (mask seq : Nat)
    (h : Memory.wf s.mem = true) : Memory.wf (State.hostBytes s asid line colour pa data mask seq).mem = true := by
  unfold State.hostBytes
  dsimp only
  split
  · exact bits_fold_wf _ _ _ _ h
  · have hb (m : Nat) : Memory.wf ((bitsOf m 64).foldl (fun (t : State) i => t.physWrite (pa + i) [Sparse.get i data]) s).mem = true :=
      bits_fold_wf _ _ _ _ h
    (repeat' split) <;> simp [State.putL2_wfEq, hb]

@[simp] theorem State.settledHost_wf (s : State) (asid line : Nat) (colour : Option Nat) (pa : Nat) (h : Memory.wf s.mem = true) :
    Memory.wf (State.settledHost s asid line colour pa).1.mem = true := by
  unfold State.settledHost
  split <;> simp [h]

@[simp] theorem State.postHost_wf (s : State) (core : Nat) (f : Flight) (pa : Nat) (uids : List (Nat × Nat)) (h : Memory.wf s.mem = true) :
    Memory.wf (State.postHost s core f pa uids).mem = true := by
  unfold State.postHost
  dsimp only
  split
  · rw [State.modCore_mem]
    refine State.hostBytes_wf _ _ _ _ _ _ _ _ ?_
    split <;> simp [h]
  · exact h

@[simp] theorem execStoreReceipt_wf (core n : Nat) (s : State) (h : Memory.wf s.mem = true) : outWf (execStoreReceipt core n s) := by
  have ha (t : State) (c : Bool) (x y : Nat) (k : Option Nat) (u v : Bool) (ht : Memory.wf t.mem = true) :
      Memory.wf (if c = true then t.answerProbe x y k u v else t).mem = true := by
    split
    · exact State.answerProbe_wf _ _ _ _ _ _ ht
    · exact ht
  have hf (t : State) (l : List Nat) (k : Nat) (ht : Memory.wf t.mem = true) :
      Memory.wf (l.foldl (fun t i => t.faultEntry core i k) t).mem = true := by
    rw [foldl_mem]
    · exact ht
    · intro t i; simp
  unfold execStoreReceipt
  dsimp only
  split
  · simpa using h
  · split
    · simpa using h
    · split
      · simpa using h
      · split
        · rw [outWf_next, State.modCore_mem]; exact ha _ _ _ _ _ _ _ (by simpa using h)
        · split
          · rw [outWf_next, State.modCore_mem]
            refine State.postHost_wf _ _ _ _ _ (State.touch_wf _ _ _ _ _ (ha _ _ _ _ _ _ _ (by simpa using h)))
          · rw [outWf_next]; exact hf _ _ _ (ha _ _ _ _ _ _ _ (by simpa using h))
          · rw [outWf_next]; exact hf _ _ _ (ha _ _ _ _ _ _ _ (by simpa using h))

@[simp] theorem execStoreHoldRelease_mem (core n : Nat) (s : State) :
    outMem (execStoreHoldRelease core n s) s.mem := by
  unfold execStoreHoldRelease; dsimp only; (repeat' split) <;> simp_all

@[simp] theorem execCacheEviction_wf (site : EvictSite) (s : State) (h : Memory.wf s.mem = true) :
    outWf (execCacheEviction site s) := by
  unfold execCacheEviction; (repeat' split) <;> simp_all (maxDischargeDepth := 20)

end Sys2Proof.Machine
end

