-- ==== Sys2Proof/Laws/MemAtomics.lean ====
section
/-! SUPPORT. What the definitions of Machine/Atomics.lean do to the memories: which leave them alone, and that the others keep
the canonical form. -/

namespace Sys2Proof.Machine

@[simp] theorem State.sendAtom_mem (s : State) (p : Pack) (a : AtomReq) :
    (State.sendAtom s p a).1.mem = s.mem := by
  unfold State.sendAtom; simp

@[simp] theorem finishAtom_mem (s : State) (r : PackRef) (p : Pack) (w : Wait) :
    (finishAtom s r p w).mem = s.mem := by
  unfold finishAtom; (repeat' split) <;> simp_all

@[simp] theorem atomIssue_mem (s : State) (i : Instr) (op : AtomOp) (ty : Option IntTy) (sc : Scope) (ord : AtomOrder) (d a : Nat) (b : BOp) :
    outMem (atomIssue s i op ty sc ord d a b) s.mem := by
  unfold atomIssue
  exact issue_mem _ _ _ fun p => by (try dsimp only); (repeat' split) <;> simp_all

@[simp] theorem execAtom_mem (op : AtomOp) (t : IntTy) (sc : Scope) (ord : AtomOrder) (d a : Nat) (b : BOp) (s : State) :
    outMem (execAtom op t sc ord d a b s) s.mem := by
  unfold execAtom
  exact issue_mem _ _ _ fun p => by (try dsimp only); (repeat' split) <;> simp_all

@[simp] theorem execFatom_mem (op : AtomOp) (sc : Scope) (ord : AtomOrder) (d a : Nat) (b : BOp) (s : State) :
    outMem (execFatom op sc ord d a b s) s.mem := by
  unfold execFatom
  exact issue_mem _ _ _ fun p => by (try dsimp only); (repeat' split) <;> simp_all

@[simp] theorem State.redLane_mem (s : State) (p : Pack) (op : AtomOp) (t : IntTy) (holds : List Cond) (e : Nat × Nat) (arg : Nat) :
    (State.redLane s p op t holds e arg).mem = s.mem := by
  unfold State.redLane; simp

@[simp] theorem execRed_mem (op : AtomOp) (t : IntTy) (sc : Scope) (ord : AtomOrder) (a : Nat) (b : BOp) (s : State) :
    outMem (execRed op t sc ord a b s) s.mem := by
  unfold execRed
  exact issue_mem _ _ _ fun p => by (try dsimp only); (repeat' split) <;> simp_all

@[simp] theorem State.redHome_wf (s : State) (asid line : Nat) (a : AtomReq) (t : IntTy) (colour : Option Nat) (h : Memory.wf s.mem = true) :
    Memory.wf (State.redHome s asid line a t colour).mem = true := by
  have hr := State.homeRead_wf s asid a.addr a.size colour .atomic h
  have hm := State.modL2_wf s asid line colour (fun l => l.await a.op t (a.addr % 64) a.arg) h
  have hw (u : State) (o : Nat) (hu : Memory.wf u.mem = true) := State.homeWrite_wf u asid line
    (lineData (a.addr % 64) (leBytes a.size (atomInt a.op t o a.arg a.cmp))) (byteMask (a.addr % 64) a.size) colour hu
  unfold State.redHome
  extract_lets off write here
  have hh : Memory.wf here.mem = true := by
    dsimp only [here]
    split
    · split
      · exact hw _ _ h
      · exact h
    · exact hm
  clear_value here
  split
  · split
    · rename_i e; rw [e] at hr; exact hw _ _ (State.touch_wf _ _ _ _ _ hr)
    · exact hh
  · exact hh

@[simp] theorem State.redArrive_wf (s : State) (core n : Nat) (sl : Slot) (a : AtomReq) (w : Nat) (t : IntTy) (h : Memory.wf s.mem = true) :
    Memory.wf (State.redArrive s core n sl a w t).mem = true := by
  unfold State.redArrive; simp [h]

@[simp] theorem execHomeSliceAtomic_wf (core n : Nat) (s : State) (h : Memory.wf s.mem = true) :
    outWf (execHomeSliceAtomic core n s) := by
  unfold execHomeSliceAtomic
  dsimp only
  split
  · simpa using h
  · rename_i sl _
    split
    · rename_i a _
      have hr := State.homeRead_wf s sl.asid a.addr a.size sl.colour .atomic h
      split
      · simpa using h
      · split
        · simp [h]
        · split
          · simpa using h
          · split <;> simpa using h
          · rename_i at_ _
            split
            · rename_i bs _ e; rw [e] at hr
              split
              · simpa using hr
              · simp [hr]
            · rename_i e; rw [e] at hr; simpa using hr
            · rename_i e; rw [e] at hr; simpa using hr
    · simpa using h

@[simp] theorem execAtomf_mem (op : AtomfOp) (d a : Nat) (b : BOp) (s : State) :
    outMem (execAtomf op d a b s) s.mem := by
  unfold execAtomf
  exact issue_mem _ _ _ fun p => by (try dsimp only); (repeat' split) <;> simp_all

end Sys2Proof.Machine
end

