-- ==== Sys2Proof/Laws/MemCopyEngine.lean ====
section
/-! SUPPORT. What the definitions of Machine/CopyEngine.lean do to the memories: which leave them alone, and that the others keep
the canonical form. -/

namespace Sys2Proof.Machine

@[simp] theorem State.startCopy_mem (s : State) (p : Pack) (mode : CpyMode) (es : Nat) (sc : Scope) (L : Nat) (c : CopyArgs) (port block : Nat) :
    (State.startCopy s p mode es sc L c port block).1.mem = s.mem := by
  unfold State.startCopy; simp

@[simp] theorem execCpy_mem (mode : CpyMode) (es : Nat) (once : Bool) (sc : Scope) (d a : Nat) (b : BOp) (aux port block : Nat) (s : State) :
    outMem (execCpy mode es once sc d a b aux port block s) s.mem := by
  unfold execCpy; simp

@[simp] theorem State.copyFrame_mem (s : State) (core serial ea : Nat) (w : Word) (poison : Bool) :
    (State.copyFrame s core serial ea w poison).mem = s.mem := by
  unfold State.copyFrame; simp

theorem wf_of_fst {α : Type} {q : State × α} {t : State} {x : α} (e : q = (t, x)) (h : Memory.wf q.1.mem = true) :
    Memory.wf t.mem = true := by subst e; exact h

@[simp] theorem State.copyRead_wf (s : State) (asid va n : Nat) (colour : Option Nat) (h : Memory.wf s.mem = true) :
    Memory.wf (State.copyRead s asid va n colour).1.mem = true := by
  unfold State.copyRead
  split
  · exact h
  · exact h
  · rename_i at_ _
    have hr := State.homeRead_wf (s.touch asid va .read at_) asid va n colour .read (State.touch_wf _ _ _ _ _ h)
    split <;> rename_i e <;> exact wf_of_fst e hr

@[simp] theorem State.copyWrite_wf (s : State) (core asid va : Nat) (w : Word) (poison : Bool) (colour : Option Nat) (h : Memory.wf s.mem = true) :
    Memory.wf (State.copyWrite s core asid va w poison colour).1.mem = true := by
  unfold State.copyWrite; dsimp only; (repeat' split) <;> simp_all (maxDischargeDepth := 20)

@[simp] theorem State.gatherStage_wf (s : State) (q : Copy) (i : Nat) (h : Memory.wf s.mem = true) :
    Memory.wf (State.gatherStage s q i).1.mem = true := by
  unfold State.gatherStage
  dsimp only
  split
  · split <;> rename_i e <;> exact wf_of_fst e (State.copyRead_wf _ _ _ _ _ h)
  · split
    · exact h
    · split
      · exact h
      · split <;> rename_i e <;> exact wf_of_fst e (State.copyRead_wf _ _ _ _ _ h)

@[simp] theorem State.gatherElem_wf (s : State) (q : Copy) (i : Nat) (h : Memory.wf s.mem = true) :
    Memory.wf (State.gatherElem s q i).1.mem = true := by
  unfold State.gatherElem
  split
  · rename_i e; exact wf_of_fst e (State.gatherStage_wf _ _ _ h)
  · rename_i e
    have h1 := wf_of_fst e (State.gatherStage_wf _ _ _ h)
    split
    · rename_i e2; exact wf_of_fst e2 (State.gatherStage_wf _ _ _ h1)
    · rename_i e2
      have h2 := wf_of_fst e2 (State.gatherStage_wf _ _ _ h1)
      split <;> exact h2

@[simp] theorem State.gatherWord_wf (s : State) (q : Copy) (j : Nat) (h : Memory.wf s.mem = true) :
    Memory.wf (State.gatherWord s q j).1.mem = true := by
  unfold State.gatherWord
  dsimp only
  split
  · split
    · exact h
    · split
      · rename_i e; exact wf_of_fst e (State.gatherElem_wf _ _ _ h)
      · exact State.gatherElem_wf _ _ _ h
  · refine foldl_fst_wf _ _ (s, q, Got.word 0 false) h fun t a ht => ?_
    split
    · split
      · exact ht
      · split
        · rename_i e; exact wf_of_fst e (State.gatherElem_wf _ _ _ ht)
        · exact State.gatherElem_wf _ _ _ ht
    · exact ht

@[simp] theorem State.copySource_wf (s : State) (core : Nat) (q : Copy) (j : Nat) (h : Memory.wf s.mem = true) :
    Memory.wf (State.copySource s core q j).1.mem = true := by
  unfold State.copySource
  dsimp only
  split
  · split <;> exact h
  · exact State.gatherWord_wf _ _ _ h
  · exact State.copyRead_wf _ _ _ _ _ h

@[simp] theorem State.copyDest_wf (s : State) (core : Nat) (q : Copy) (j : Nat) (w : Word) (poison : Bool) (h : Memory.wf s.mem = true) :
    Memory.wf (State.copyDest s core q j w poison).1.mem = true := by
  unfold State.copyDest; dsimp only; (repeat' split) <;> simp_all (maxDischargeDepth := 20)

@[simp] theorem State.undeclared_mem (s : State) (core n j serial c : Nat) :
    (State.undeclared s core n j serial c).mem = s.mem := by
  unfold State.undeclared; dsimp only; (repeat' split) <;> simp_all

@[simp] theorem State.wholeLine_wf (s : State) (core : Nat) (q : Copy) (j : Nat) (h : Memory.wf s.mem = true) :
    Memory.wf (State.wholeLine s core q j).mem = true := by
  unfold State.wholeLine; dsimp only; (repeat' split) <;> simp_all (maxDischargeDepth := 20)

@[simp] theorem State.moveWord_wf (s : State) (core n j : Nat) (h : Memory.wf s.mem = true) :
    Memory.wf (State.moveWord s core n j).mem = true := by
  unfold State.moveWord
  dsimp only
  split
  · exact h
  · split
    · exact h
    · rename_i q _ _
      have h1 := State.copySource_wf s core q j h
      split
      · simpa using h1
      · split <;> simp [h1]
      · split
        · rename_i e2; simpa using wf_of_fst e2 (State.copyDest_wf _ _ _ _ _ _ h1)
        · rename_i e2
          have h2 := wf_of_fst e2 (State.copyDest_wf _ _ _ _ _ _ h1)
          split
          · exact State.wholeLine_wf _ _ _ _ (by simpa using h2)
          · simpa using h2

@[simp] theorem State.stageElem_wf (s : State) (core n i : Nat) (h : Memory.wf s.mem = true) :
    Memory.wf (State.stageElem s core n i).mem = true := by
  unfold State.stageElem
  split
  · exact h
  · split
    · exact h
    · split
      · rename_i e; simpa using wf_of_fst e (State.gatherStage_wf _ _ _ h)
      · exact h

@[simp] theorem State.moveAll_wf (s : State) (core n : Nat) (h : Memory.wf s.mem = true) :
    Memory.wf (State.moveAll s core n).mem = true := by
  unfold State.moveAll
  split
  · exact h
  · exact foldl_wf _ _ _ h fun _ _ ht => State.moveWord_wf _ _ _ _ ht

@[simp] theorem execCopyStart_wf (core n : Nat) (words : List Nat) (s : State) (h : Memory.wf s.mem = true) :
    outWf (execCopyStart core n words s) := by
  unfold execCopyStart
  dsimp only
  split
  · simpa using h
  · split
    · simpa using h
    · rw [outWf_next]
      refine foldl_wf _ _ _ (by simpa using h) fun t a ht => ?_
      split
      · exact State.moveWord_wf _ _ _ _ ht
      · exact State.stageElem_wf _ _ _ _ ht

@[simp] theorem State.countBatches_mem (s : State) (r : PackRef) :
    (State.countBatches s r).mem = s.mem := by
  unfold State.countBatches; split <;> simp_all

@[simp] theorem State.endCopy_mem (s : State) (core n : Nat) (q : Copy) :
    (State.endCopy s core n q).mem = s.mem := by
  unfold State.endCopy; dsimp only; (repeat' split) <;> simp_all

@[simp] theorem State.bindWord_wf (s : State) (core n j : Nat) (h : Memory.wf s.mem = true) :
    Memory.wf (State.bindWord s core n j).mem = true := by
  unfold State.bindWord
  dsimp only
  split
  · exact h
  · split
    · exact h
    · rename_i e
      have h1 := wf_of_fst e (State.copySource_wf _ _ _ _ h)
      split
      · exact State.moveWord_wf _ _ _ _ h
      · split <;> simpa using h1

@[simp] theorem State.copyDone_mem (s : State) (core n : Nat) (q : Copy) :
    (State.copyDone s core n q).mem = s.mem := by
  unfold State.copyDone; dsimp only; (repeat' split) <;> simp_all

@[simp] theorem State.remoteWord_wf (s : State) (asid : Nat) (q : Copy) (j : Nat) (h : Memory.wf s.mem = true) :
    Memory.wf (State.remoteWord s asid q j).1.mem = true := by
  unfold State.remoteWord; split <;> simp_all (maxDischargeDepth := 20)

@[simp] theorem State.sendVia_mem (s : State) (port : Nat) (q : Pkt) :
    (State.sendVia s port q).mem = s.mem := by
  unfold State.sendVia; simp

@[simp] theorem State.sendPkt_mem (s : State) (q : Pkt) :
    (State.sendPkt s q).mem = s.mem := by
  unfold State.sendPkt; split <;> simp_all

@[simp] theorem RemoteRead.step_wf (asid : Nat) (q : Copy) (x : RemoteRead) (j : Nat) (h : Memory.wf x.s.mem = true) :
    Memory.wf (RemoteRead.step asid q x j).s.mem = true := by
  have hr := State.remoteWord_wf x.s asid q j h
  unfold RemoteRead.step
  split <;> rename_i e <;> simpa using wf_of_fst e hr

theorem RemoteRead.fold_wf (asid : Nat) (q : Copy) (l : List Nat) (x : RemoteRead) (h : Memory.wf x.s.mem = true) :
    Memory.wf (l.foldl (RemoteRead.step asid q) x).s.mem = true := by
  induction l generalizing x with
  | nil => exact h
  | cons a l ih => exact ih _ (RemoteRead.step_wf asid q x a h)

@[simp] theorem State.sendRemote_wf (s : State) (core n : Nat) (q : Copy) (h : Memory.wf s.mem = true) :
    Memory.wf (State.sendRemote s core n q).1.mem = true := by
  have hx (l : List Nat) : Memory.wf (l.foldl (RemoteRead.step (s.asid q.ctx) q) { s, words := [], bad := [], parked := [] }).s.mem = true :=
    RemoteRead.fold_wf _ _ _ _ h
  unfold State.sendRemote
  dsimp only
  split
  · simpa using h
  · split
    · rw [State.modCore_mem]; exact hx _
    · rw [State.modCore_mem]
      exact foldl_wf _ _ _ (hx _) fun t a ht => by rw [State.sendPkt_mem]; exact ht

@[simp] theorem execCopyComplete_wf (core n : Nat) (s : State) (h : Memory.wf s.mem = true) : outWf (execCopyComplete core n s) := by
  unfold execCopyComplete; dsimp only; (repeat' split) <;> simp_all (maxDischargeDepth := 20)

@[simp] theorem State.copyFaultTok_mem (s : State) (core n : Nat) (q : Copy) :
    (State.copyFaultTok s core n q).mem = s.mem := by
  unfold State.copyFaultTok; split <;> simp_all

@[simp] theorem execCopyFault_mem (core n : Nat) (s : State) :
    outMem (execCopyFault core n s) s.mem := by
  unfold execCopyFault; (repeat' split) <;> simp_all

end Sys2Proof.Machine
end

