-- ==== Sys2Proof/Laws/MemControl.lean ====
section
/-! SUPPORT. What the definitions of Machine/Control.lean do to the memories: which leave them alone, and that the others keep
the canonical form. -/

namespace Sys2Proof.Machine

@[simp] theorem State.sendAll_mem (s : State) (p : Pack) (toks : List (Nat × Option Nat × Nat × DWord × List Word)) (rel : Option Scope) :
    (State.sendAll s p toks rel).mem = s.mem := by
  unfold State.sendAll; simp

@[simp] theorem execSend_mem (tag : TagSrc) (d n k : Nat) (rl : Option Scope) (port block : Nat) (s : State) :
    outMem (execSend tag d n k rl port block s) s.mem := by
  unfold execSend; simp

@[simp] theorem execSendm_mem (tag : TagSrc) (d n k : Nat) (rl : Option Scope) (b : Nat) (s : State) :
    outMem (execSendm tag d n k rl b s) s.mem := by
  unfold execSendm; simp

@[simp] theorem execSpawn_mem (d a n eport k rport entry ret : Nat) (s : State) :
    outMem (execSpawn d a n eport k rport entry ret s) s.mem := by
  unfold execSpawn; simp

@[simp] theorem execRet_mem (d n : Nat) (rl : Option Scope) (s : State) :
    outMem (execRet d n rl s) s.mem := by
  unfold execRet; simp

@[simp] theorem State.trapTile_mem (s : State) (r : PackRef) (p : Pack) (resume : Nat) (upto : Option Nat) :
    (State.trapTile s r p resume upto).mem = s.mem := by
  unfold State.trapTile; simp

@[simp] theorem finishEnd_mem (s : State) (r : PackRef) (p : Pack) (_w : Wait) :
    (finishEnd s r p _w).mem = s.mem := by
  unfold finishEnd; dsimp only; (repeat' split) <;> simp_all

@[simp] theorem execEndBlock_mem (s : State) :
    outMem (execEndBlock s) s.mem := by
  unfold execEndBlock; dsimp only; (repeat' split) <;> simp_all

@[simp] theorem execIdxF_mem (d f : Nat) (s : State) :
    outMem (execIdxF d f s) s.mem := by
  unfold execIdxF; simp

@[simp] theorem execTagc_mem (d : Nat) (s : State) :
    outMem (execTagc d s) s.mem := by
  unfold execTagc; simp

@[simp] theorem execMktag_mem (d a : Nat) (s : State) :
    outMem (execMktag d a s) s.mem := by
  unfold execMktag; simp

@[simp] theorem execMktagColour_mem (d a : Nat) (b : BOp) (s : State) :
    outMem (execMktagColour d a b s) s.mem := by
  unfold execMktagColour; simp

@[simp] theorem execClock_mem (d : Nat) (s : State) :
    outMem (execClock d s) s.mem := by
  unfold execClock; simp

@[simp] theorem execTrap_mem (code : Nat) (s : State) :
    outMem (execTrap code s) s.mem := by
  unfold execTrap; simp

@[simp] theorem execBrk_mem (code : Nat) (s : State) :
    outMem (execBrk code s) s.mem := by
  unfold execBrk; simp

@[simp] theorem execNop_mem (s : State) :
    outMem (execNop s) s.mem := by
  unfold execNop; simp

@[simp] theorem execBfence_mem (d : Nat) (s : State) :
    outMem (execBfence d s) s.mem := by
  unfold execBfence; simp

@[simp] theorem finishBwait_mem (s : State) (r : PackRef) (p : Pack) (w : Wait) :
    (finishBwait s r p w).mem = s.mem := by
  unfold finishBwait; dsimp only; (repeat' split) <;> simp_all

@[simp] theorem execBwait_mem (d : Nat) (s : State) :
    outMem (execBwait d s) s.mem := by
  unfold execBwait; dsimp only; (repeat' split) <;> simp_all

end Sys2Proof.Machine
end

