-- ==== Sys2Proof/Laws/MemColours.lean ====
section
/-! SUPPORT. What the definitions of Machine/Colours.lean do to the memories: which leave them alone, and that the others keep
the canonical form. -/

namespace Sys2Proof.Machine

@[simp] theorem State.clearClose_mem (s : State) (ctx colour : Nat) :
    (State.clearClose s ctx colour).mem = s.mem := by
  unfold State.clearClose; simp

@[simp] theorem State.grantColour_mem (s : State) (core : Nat) (q : SpawnReq) (c : Nat) :
    (State.grantColour s core q c).mem = s.mem := by
  unfold State.grantColour; simp

@[simp] theorem State.childToken_mem (s : State) (core : Nat) (q : SpawnReq) (c : Nat) :
    (State.childToken s core q c).mem = s.mem := by
  unfold State.childToken; simp

@[simp] theorem execColourGrant_mem (n : Nat) (s : State) :
    outMem (execColourGrant n s) s.mem := by
  unfold execColourGrant; dsimp only; (repeat' split) <;> simp_all (maxDischargeDepth := 20)

@[simp] theorem execColourReturn_mem (n : Nat) (s : State) :
    outMem (execColourReturn n s) s.mem := by
  unfold execColourReturn; dsimp only; (repeat' split) <;> simp_all

end Sys2Proof.Machine
end

