-- ==== Sys2Proof/Laws/MemSfu.lean ====
section
/-! SUPPORT. What the definitions of Machine/Sfu.lean do to the memories: which leave them alone, and that the others keep
the canonical form. -/

namespace Sys2Proof.Machine

@[simp] theorem sfuOp_mem (s : State) (i : Instr) (fn : SfuFn) (d a : Nat) :
    outMem (sfuOp s i fn d a) s.mem := by
  unfold sfuOp; simp

@[simp] theorem execFrcp_mem (d a : Nat) (s : State) :
    outMem (execFrcp d a s) s.mem := by
  unfold execFrcp; simp

@[simp] theorem execFrsq_mem (d a : Nat) (s : State) :
    outMem (execFrsq d a s) s.mem := by
  unfold execFrsq; simp

@[simp] theorem execFsqrt_mem (d a : Nat) (s : State) :
    outMem (execFsqrt d a s) s.mem := by
  unfold execFsqrt; simp

@[simp] theorem execFexp2_mem (d a : Nat) (s : State) :
    outMem (execFexp2 d a s) s.mem := by
  unfold execFexp2; simp

@[simp] theorem execFlog2_mem (d a : Nat) (s : State) :
    outMem (execFlog2 d a s) s.mem := by
  unfold execFlog2; simp

@[simp] theorem execFsin_mem (d a : Nat) (s : State) :
    outMem (execFsin d a s) s.mem := by
  unfold execFsin; simp

@[simp] theorem execFcos_mem (d a : Nat) (s : State) :
    outMem (execFcos d a s) s.mem := by
  unfold execFcos; simp

@[simp] theorem execFtanh_mem (d a : Nat) (s : State) :
    outMem (execFtanh d a s) s.mem := by
  unfold execFtanh; simp

@[simp] theorem execFsigm_mem (d a : Nat) (s : State) :
    outMem (execFsigm d a s) s.mem := by
  unfold execFsigm; simp

@[simp] theorem execLmv_mem (wide : Bool) (bias : Option Nat) (d a rows cols off : Nat) (s : State) :
    outMem (execLmv wide bias d a rows cols off s) s.mem := by
  unfold execLmv; simp

end Sys2Proof.Machine
end

