-- ==== Sys2Proof/Laws/MemTile.lean ====
section
/-! SUPPORT. What the definitions of Machine/Tile.lean do to the memories: which leave them alone, and that the others keep
the canonical form. -/

namespace Sys2Proof.Machine

@[simp] theorem State.enqueue_mem (s : State) (p : Pack) (i : Instr) (td : Nat) :
    (State.enqueue s p i td).mem = s.mem := by
  unfold State.enqueue; simp

@[simp] theorem engineIssue_mem (s : State) (i : Instr) (td : Nat) (cause : Pack → Option Nat) :
    outMem (engineIssue s i td cause) s.mem := by
  unfold engineIssue
  exact issue_mem _ _ _ fun p => by (try dsimp only); (repeat' split) <;> simp_all (maxDischargeDepth := 20)

@[simp] theorem execTzero_mem (md : Nat) (s : State) :
    outMem (execTzero md s) s.mem := by
  unfold execTzero
  exact issue_mem _ _ _ fun p => by (try dsimp only); (repeat' split) <;> simp_all (maxDischargeDepth := 20)

@[simp] theorem execTld_mem (tr : Bool) (md td : Nat) (s : State) :
    outMem (execTld tr md td s) s.mem := by
  unfold execTld
  exact issue_mem _ _ _ fun p => by (try dsimp only); (repeat' split) <;> simp_all (maxDischargeDepth := 20)

@[simp] theorem execTst_mem (tr : Bool) (ma td : Nat) (s : State) :
    outMem (execTst tr ma td s) s.mem := by
  unfold execTst
  exact issue_mem _ _ _ fun p => by (try dsimp only); (repeat' split) <;> simp_all (maxDischargeDepth := 20)

@[simp] theorem execMma_mem (ta tb : ElemTy) (md ma mb : Nat) (s : State) :
    outMem (execMma ta tb md ma mb s) s.mem := by
  unfold execMma
  exact issue_mem _ _ _ fun p => by (try dsimp only); (repeat' split) <;> simp_all (maxDischargeDepth := 20)

@[simp] theorem execMmas_mem (p48 : Bool) (ta tb : ElemTy) (md ma mb mm : Nat) (s : State) :
    outMem (execMmas p48 ta tb md ma mb mm s) s.mem := by
  unfold execMmas
  exact issue_mem _ _ _ fun p => by (try dsimp only); (repeat' split) <;> simp_all (maxDischargeDepth := 20)

@[simp] theorem execMmaq_mem (ta tw : ElemTy) (md ma mb td : Nat) (s : State) :
    outMem (execMmaq ta tw md ma mb td s) s.mem := by
  unfold execMmaq
  exact issue_mem _ _ _ fun p => by (try dsimp only); (repeat' split) <;> simp_all (maxDischargeDepth := 20)

@[simp] theorem execQuant_mem (t : ElemTy) (rot : Rot) (md ma td : Nat) (s : State) :
    outMem (execQuant t rot md ma td s) s.mem := by
  unfold execQuant
  exact issue_mem _ _ _ fun p => by (try dsimp only); (repeat' split) <;> simp_all (maxDischargeDepth := 20)

@[simp] theorem execDeq_mem (t : ElemTy) (md ma td : Nat) (s : State) :
    outMem (execDeq t md ma td s) s.mem := by
  unfold execDeq
  exact issue_mem _ _ _ fun p => by (try dsimp only); (repeat' split) <;> simp_all (maxDischargeDepth := 20)

@[simp] theorem execTact_mem (act : Act) (out : ElemTy) (bias : Option Nat) (md ma : Nat) (s : State) :
    outMem (execTact act out bias md ma s) s.mem := by
  unfold execTact
  exact issue_mem _ _ _ fun p => by (try dsimp only); (repeat' split) <;> simp_all (maxDischargeDepth := 20)

@[simp] theorem execTred_mem (op : TredOp) (col : Bool) (md ma : Nat) (s : State) :
    outMem (execTred op col md ma s) s.mem := by
  unfold execTred
  exact issue_mem _ _ _ fun p => by (try dsimp only); (repeat' split) <;> simp_all (maxDischargeDepth := 20)

@[simp] theorem execTdesc_mem (td a w0 : Nat) (s : State) :
    outMem (execTdesc td a w0 s) s.mem := by
  unfold execTdesc; simp

end Sys2Proof.Machine
end

