-- ==== Sys2Proof/Laws/MemEngine.lean ====
section
/-! SUPPORT. What the definitions of Machine/Engine.lean do to the memories: which leave them alone, and that the others keep
the canonical form. -/

namespace Sys2Proof.Machine

@[simp] theorem execEngineInstructionEnd_mem (core pipe : Nat) (s : State) :
    outMem (execEngineInstructionEnd core pipe s) s.mem := by
  unfold execEngineInstructionEnd; dsimp only; (repeat' split) <;> simp_all (maxDischargeDepth := 20)

end Sys2Proof.Machine
end

