-- ==== Sys2Proof/Laws/MemTraps.lean ====
section
/-! SUPPORT. What the definitions of Machine/Traps.lean do to the memories: which leave them alone, and that the others keep
the canonical form. -/

namespace Sys2Proof.Machine

@[simp] theorem State.putLines_wf (s : State) (core asid va n : Nat) (d : Sparse 8) (h : Memory.wf s.mem = true) :
    Memory.wf (State.putLines s core asid va n d).mem = true := by
  unfold State.putLines; simp +contextual [*]

@[simp] theorem State.setFrameState_wf (s : State) (asid : Nat) (r : PackRef) (v : Nat) (h : Memory.wf s.mem = true) :
    Memory.wf (State.setFrameState s asid r v).mem = true := by
  unfold State.setFrameState; simp (maxDischargeDepth := 20) +contextual [*]

@[simp] theorem execTrapEntry_wf (r : PackRef) (s : State) (h : Memory.wf s.mem = true) :
    outWf (execTrapEntry r s) := by
  unfold execTrapEntry; dsimp only; (repeat' split) <;> simp_all

@[simp] theorem execPackResumption_mem (r : PackRef) (s : State) :
    outMem (execPackResumption r s) s.mem := by
  unfold execPackResumption; (repeat' split) <;> simp_all

@[simp] theorem State.reply_mem (s : State) (r : PackRef) (p : Pack) (d st len : Nat) :
    (State.reply s r p d st len).mem = s.mem := by
  unfold State.reply; simp

@[simp] theorem finishTresume_wf (d : Nat) (s : State) (r : PackRef) (p : Pack) (w : Wait) (h : Memory.wf s.mem = true) :
    Memory.wf (finishTresume d s r p w).mem = true := by
  unfold finishTresume; (repeat' split) <;> simp_all (maxDischargeDepth := 20)

@[simp] theorem finishTskip_wf (d : Nat) (s : State) (r : PackRef) (p : Pack) (w : Wait) (h : Memory.wf s.mem = true) :
    Memory.wf (finishTskip d s r p w).mem = true := by
  unfold finishTskip; (repeat' split) <;> simp_all (maxDischargeDepth := 20)

@[simp] theorem finishTkill_wf (d : Nat) (s : State) (r : PackRef) (p : Pack) (w : Wait) (h : Memory.wf s.mem = true) :
    Memory.wf (finishTkill d s r p w).mem = true := by
  unfold finishTkill; dsimp only; (repeat' split) <;> simp_all (maxDischargeDepth := 20)

@[simp] theorem State.replayEnd_mem (s : State) (r : PackRef) (p : Pack) (d core n : Nat) (q : Copy) :
    (State.replayEnd s r p d core n q).mem = s.mem := by
  unfold State.replayEnd; dsimp only; (repeat' split) <;> simp_all

@[simp] theorem State.replayMove_wf (s : State) (core n phase : Nat) (q : Copy) (h : Memory.wf s.mem = true) :
    Memory.wf (State.replayMove s core n phase q).1.mem = true := by
  unfold State.replayMove; simp (maxDischargeDepth := 20) +contextual [*]

@[simp] theorem execUnassignedOpcode_mem (op : Nat) (s : State) :
    outMem (execUnassignedOpcode op s) s.mem := by
  unfold execUnassignedOpcode; simp

@[simp] theorem finishFaultrd_mem (s : State) (r : PackRef) (p : Pack) (w : Wait) :
    (finishFaultrd s r p w).mem = s.mem := by
  unfold finishFaultrd; simp

@[simp] theorem execFaultrd_mem (d a word : Nat) (s : State) :
    outMem (execFaultrd d a word s) s.mem := by
  unfold execFaultrd; simp

end Sys2Proof.Machine
end

