-- ==== Sys2Proof/Laws/MemHarbour.lean ====
section
/-! SUPPORT. What the definitions of Machine/Harbour.lean do to the memories: which leave them alone, and that the others keep
the canonical form. -/

namespace Sys2Proof.Machine

@[simp] theorem State.giveTable_mem (s : State) (pa : Nat) :
    (State.giveTable s pa).mem = s.mem := by
  unfold State.giveTable; simp

@[simp] theorem State.freeBack_mem (s : State) (ctx : Nat) (ps : List Nat) :
    (State.freeBack s ctx ps).mem = s.mem := by
  unfold State.freeBack; simp

@[simp] theorem State.keepBack_mem (s : State) (ctx va size : Nat) (ps : List Nat) :
    (State.keepBack s ctx va size ps).mem = s.mem := by
  unfold State.keepBack; simp

@[simp] theorem State.ownMap_wf (s : State) (w : Bool) (va pa : Nat) (h : Memory.wf s.mem = true) :
    Memory.wf (State.ownMap s w va pa).mem = true := by
  unfold State.ownMap; simp +contextual [*]

@[simp] theorem State.ownUnmap_wf (s : State) (pa : Nat) (h : Memory.wf s.mem = true) :
    Memory.wf (State.ownUnmap s pa).mem = true := by
  unfold State.ownUnmap; simp +contextual [*]

@[simp] theorem State.dropTc_wf (s : State) (asid va size : Nat) (h : Memory.wf s.mem = true) :
    Memory.wf (State.dropTc s asid va size).mem = true := by
  unfold State.dropTc; simp +contextual [*]

@[simp] theorem State.pageUnmap_wf (s : State) (o : PageOwner) (q : PageReq) (h : Memory.wf s.mem = true) :
    Memory.wf (State.pageUnmap s o q).1.mem = true := by
  unfold State.pageUnmap; split <;> simp_all (maxDischargeDepth := 20)

@[simp] theorem State.pageProtect_wf (s : State) (o : PageOwner) (q : PageReq) (h : Memory.wf s.mem = true) :
    Memory.wf (State.pageProtect s o q).1.mem = true := by
  unfold State.pageProtect; split <;> simp_all (maxDischargeDepth := 20)

@[simp] theorem State.tcFlush_wf (s : State) (asid mask : Nat) (h : Memory.wf s.mem = true) :
    Memory.wf (State.tcFlush s asid mask).mem = true := by
  unfold State.tcFlush; simp +contextual [*]

@[simp] theorem State.hReply_mem (s : State) (r : PackRef) (p : Pack) (d st : Nat) :
    (State.hReply s r p d st).mem = s.mem := by
  unfold State.hReply; simp

@[simp] theorem State.putQuery_wf (s : State) (core asid va v : Nat) (h : Memory.wf s.mem = true) :
    Memory.wf (State.putQuery s core asid va v).mem = true := by
  unfold State.putQuery; simp (maxDischargeDepth := 20) +contextual [*]

end Sys2Proof.Machine
end

