-- ==== Sys2Proof/Laws/MemPrivileged.lean ====
section
/-! SUPPORT. What the definitions of Machine/Privileged.lean do to the memories: which leave them alone, and that the others keep
the canonical form. -/

namespace Sys2Proof.Machine

@[simp] theorem State.setControl_mem (s : State) (p : Pack) (sel : Ctl) (x : Word) :
    (State.setControl s p sel x).1.mem = s.mem := by
  unfold State.setControl; split <;> simp_all

@[simp] theorem execMovcRead_mem (d : Nat) (sel : Ctl) (s : State) :
    outMem (execMovcRead d sel s) s.mem := by
  unfold execMovcRead; simp

@[simp] theorem execMovcWrite_mem (d : Nat) (sel : Ctl) (s : State) :
    outMem (execMovcWrite d sel s) s.mem := by
  unfold execMovcWrite; (repeat' split) <;> simp_all

@[simp] theorem State.cwbiRange_wf (s : State) (asid va len : Nat) (colour : Option Nat) (h : Memory.wf s.mem = true) :
    Memory.wf (State.cwbiRange s asid va len colour).mem = true := by
  unfold State.cwbiRange; simp (maxDischargeDepth := 20) +contextual [*]

@[simp] theorem finishCwbi_wf (a b : Nat) (s : State) (r : PackRef) (p : Pack) (w : Wait) (h : Memory.wf s.mem = true) :
    Memory.wf (finishCwbi a b s r p w).mem = true := by
  unfold finishCwbi; simp (maxDischargeDepth := 20) +contextual [*]

@[simp] theorem execCwbi_wf (a b : Nat) (s : State) (h : Memory.wf s.mem = true) :
    outWf (execCwbi a b s) := by
  unfold execCwbi; simp (maxDischargeDepth := 20) +contextual [*]

@[simp] theorem State.bindTo_mem (s : State) (target donor : Nat) :
    (State.bindTo s target donor).mem = s.mem := by
  unfold State.bindTo; split <;> simp_all

@[simp] theorem finishRebind_mem (a b : Nat) (s : State) (r : PackRef) (p : Pack) (w : Wait) :
    (finishRebind a b s r p w).mem = s.mem := by
  unfold finishRebind; split <;> simp_all

@[simp] theorem execRebind_mem (a b : Nat) (s : State) :
    outMem (execRebind a b s) s.mem := by
  unfold execRebind; (repeat' split) <;> simp_all

end Sys2Proof.Machine
end

