-- ==== Sys2Proof/Laws/MemRecipes.lean ====
section
/-! SUPPORT. What the definitions of Machine/Recipes.lean do to the memories: which leave them alone, and that the others keep
the canonical form. -/

namespace Sys2Proof.Machine

@[simp] theorem State.modRec_mem (s : State) (ctx rix : Nat) (f : Rec → Rec) :
    (State.modRec s ctx rix f).mem = s.mem := by
  unfold State.modRec; simp

@[simp] theorem State.discardTile_wf (s : State) (asid tile : Nat) (h : Memory.wf s.mem = true) :
    Memory.wf (State.discardTile s asid tile).mem = true := by
  unfold State.discardTile; simp +contextual [*]

@[simp] theorem State.dropTile_wf (s : State) (ctx rix : Nat) (h : Memory.wf s.mem = true) :
    Memory.wf (State.dropTile s ctx rix).mem = true := by
  unfold State.dropTile; (repeat' split) <;> simp_all (maxDischargeDepth := 20)

@[simp] theorem State.sealTile_wf (s : State) (ctx va : Nat) (srcs : List Nat) (params : List Word) (entry : Nat) (h : Memory.wf s.mem = true) :
    Memory.wf (State.sealTile s ctx va srcs params entry).mem = true := by
  unfold State.sealTile; dsimp only; (repeat' split) <;> simp_all (maxDischargeDepth := 20)

@[simp] theorem State.unbusy_mem (s : State) (ctx : Nat) (rs : List Nat) :
    (State.unbusy s ctx rs).mem = s.mem := by
  unfold State.unbusy; simp

@[simp] theorem State.unpark_mem (s : State) (asid tile : Nat) :
    (State.unpark s asid tile).mem = s.mem := by
  unfold State.unpark; simp

@[simp] theorem State.unqueue_mem (s : State) (ctx rix : Nat) :
    (State.unqueue s ctx rix).mem = s.mem := by
  unfold State.unqueue; simp

@[simp] theorem State.unsealPage_wf (s : State) (asid at_ v tile : Nat) (h : Memory.wf s.mem = true) :
    Memory.wf (State.unsealPage s asid at_ v tile).mem = true := by
  unfold State.unsealPage; simp (maxDischargeDepth := 20) +contextual [*]

@[simp] theorem State.freeTile_wf (s : State) (ctx rix : Nat) (t : Rec) (h : Memory.wf s.mem = true) :
    Memory.wf (State.freeTile s ctx rix t).mem = true := by
  unfold State.freeTile; dsimp only; (repeat' split) <;> simp_all (maxDischargeDepth := 20)

@[simp] theorem finishRstat_mem (d a : Nat) (s : State) (r : PackRef) (p : Pack) (_w : Wait) :
    (finishRstat d a s r p _w).mem = s.mem := by
  unfold finishRstat; simp

@[simp] theorem execRstat_mem (d a : Nat) (s : State) :
    outMem (execRstat d a s) s.mem := by
  unfold execRstat; simp

end Sys2Proof.Machine
end

