-- ==== Sys2Proof/Laws/MemEvictor.lean ====
section
/-! SUPPORT. What the definitions of Machine/Evictor.lean do to the memories: which leave them alone, and that the others keep
the canonical form. -/

namespace Sys2Proof.Machine

@[simp] theorem State.leavePage_wf (s : State) (v : Victim) (asid b : Nat) (h : Memory.wf s.mem = true) :
    Memory.wf (State.leavePage s v asid b).mem = true := by
  unfold State.leavePage; simp (maxDischargeDepth := 20) +contextual [*]

@[simp] theorem State.evictPage_wf (s : State) (v : Victim) (h : Memory.wf s.mem = true) :
    Memory.wf (State.evictPage s v).mem = true := by
  unfold State.evictPage; (repeat' split) <;> simp_all (maxDischargeDepth := 20)

end Sys2Proof.Machine
end

