-- ==== Sys2Proof/Laws/MemMatching.lean ====
section
/-! SUPPORT. What the definitions of Machine/Matching.lean do to the memories: which leave them alone, and that the others keep
the canonical form. -/

namespace Sys2Proof.Machine

@[simp] theorem State.sendToken_mem (s : State) (l : Launch) (node : Nat) (t : Tok) :
    (State.sendToken s l node t).mem = s.mem := by
  unfold State.sendToken; simp

@[simp] theorem State.arrive_mem (s : State) (core : Nat) (t : Tok) :
    (State.arrive s core t).mem = s.mem := by
  unfold State.arrive; simp

@[simp] theorem State.toInbox_mem (s : State) (t : Tok) :
    (State.toInbox s t).mem = s.mem := by
  unfold State.toInbox; split <;> simp_all

@[simp] theorem State.unitTok_mem (s : State) (x : Ctx) (unit ctx : Nat) (pay : List Word) :
    (State.unitTok s x unit ctx pay).1.mem = s.mem := by
  unfold State.unitTok; simp

@[simp] theorem State.placeLocal_mem (s : State) (x : Ctx) (b : Block) (t : Tok) :
    (State.placeLocal s x b t).mem = s.mem := by
  unfold State.placeLocal; simp

@[simp] theorem State.raiseAtUnit_mem (s : State) (unit ctx : Nat) (pay : List Word) :
    (State.raiseAtUnit s unit ctx pay).mem = s.mem := by
  unfold State.raiseAtUnit; dsimp only; (repeat' split) <;> simp_all

@[simp] theorem State.keepPages_mem (s : State) (ps : List Nat) :
    (State.keepPages s ps).mem = s.mem := by
  unfold State.keepPages; simp

@[simp] theorem State.dropPages_mem (s : State) (ps : List Nat) :
    (State.dropPages s ps).mem = s.mem := by
  unfold State.dropPages; simp

@[simp] theorem State.growArea_mem (s : State) (ctx : Nat) (x : Ctx) :
    (State.growArea s ctx x).mem = s.mem := by
  unfold State.growArea; simp

@[simp] theorem State.joinBin_mem (s : State) (core : Nat) (e : Entry) :
    (State.joinBin s core e).mem = s.mem := by
  unfold State.joinBin; dsimp only; (repeat' split) <;> simp_all (maxDischargeDepth := 20)

@[simp] theorem State.toBin_mem (s : State) (core : Nat) (e : Entry) :
    (State.toBin s core e).mem = s.mem := by
  unfold State.toBin; dsimp only; (repeat' split) <;> simp_all (maxDischargeDepth := 20)

@[simp] theorem State.settle_mem (s : State) (core : Nat) (b : Block) (e : Entry) :
    (State.settle s core b e).mem = s.mem := by
  unfold State.settle; simp

@[simp] theorem State.giveSlot_mem (s : State) (port vc : Nat) :
    (State.giveSlot s port vc).mem = s.mem := by
  unfold State.giveSlot; simp

@[simp] theorem State.refill_mem (s : State) (core vc : Nat) :
    (State.refill s core vc).mem = s.mem := by
  unfold State.refill; split <;> simp_all

@[simp] theorem State.refillAll_mem (s : State) (core : Nat) :
    (State.refillAll s core).mem = s.mem := by
  unfold State.refillAll; simp

@[simp] theorem State.signalSpill_mem (s : State) (core : Nat) :
    (State.signalSpill s core).mem = s.mem := by
  unfold State.signalSpill; simp

@[simp] theorem State.spillTok_mem (s : State) (core : Nat) (t : Tok) :
    (State.spillTok s core t).mem = s.mem := by
  unfold State.spillTok; simp

@[simp] theorem execIntakeTimeout_mem (core vc : Nat) (s : State) :
    outMem (execIntakeTimeout core vc s) s.mem := by
  unfold execIntakeTimeout; dsimp only; (repeat' split) <;> simp_all

@[simp] theorem execSeqRenumber_mem (core : Nat) (s : State) :
    outMem (execSeqRenumber core s) s.mem := by
  unfold execSeqRenumber; dsimp only; (repeat' split) <;> simp_all

@[simp] theorem execBinAllot_mem (core : Nat) (s : State) :
    outMem (execBinAllot core s) s.mem := by
  unfold execBinAllot; dsimp only; (repeat' split) <;> simp_all (maxDischargeDepth := 20)

end Sys2Proof.Machine
end

