-- ==== Sys2Proof/Laws/MemHelm.lean ====
section
/-! SUPPORT. What the definitions of Machine/Helm.lean do to the memories: which leave them alone, and that the others keep
the canonical form. -/

namespace Sys2Proof.Machine

@[simp] theorem State.fire_mem (s : State) (core pipe : Nat) (k : Cand) :
    (State.fire s core pipe k).mem = s.mem := by
  unfold State.fire; split <;> simp_all

@[simp] theorem State.modHelm_mem (s : State) (core : Nat) (f : Helm → Helm) :
    (State.modHelm s core f).mem = s.mem := by
  unfold State.modHelm; simp

@[simp] theorem State.setTurns_mem (s : State) (core : Nat) :
    (State.setTurns s core).mem = s.mem := by
  unfold State.setTurns; simp

@[simp] theorem State.useTurn_mem (s : State) (core : Nat) (k : Cand) :
    (State.useTurn s core k).mem = s.mem := by
  unfold State.useTurn; split <;> simp_all (maxDischargeDepth := 20)

@[simp] theorem State.noteFiring_mem (s : State) (core : Nat) (k : Cand) :
    (State.noteFiring s core k).mem = s.mem := by
  unfold State.noteFiring; simp

@[simp] theorem execPackFiring_mem (core : Nat) (s0 : State) :
    outMem (execPackFiring core s0) s0.mem := by
  unfold execPackFiring; dsimp only; (repeat' split) <;> simp_all (maxDischargeDepth := 20)

@[simp] theorem execLeashExpiry_mem (core bin : Nat) (s : State) :
    outMem (execLeashExpiry core bin s) s.mem := by
  unfold execLeashExpiry; dsimp only; (repeat' split) <;> simp_all

@[simp] theorem execCodeRefetch_mem (core : Nat) (ok : Bool) (s : State) :
    outMem (execCodeRefetch core ok s) s.mem := by
  unfold execCodeRefetch; dsimp only; (repeat' split) <;> simp_all

end Sys2Proof.Machine
end

