-- ==== Sys2Proof/Laws/MemRetriever.lean ====
section
/-! SUPPORT. What the definitions of Machine/Retriever.lean do to the memories: which leave them alone, and that the others keep
the canonical form. -/

namespace Sys2Proof.Machine

@[simp] theorem State.setRetr_mem (s : State) (die : Nat) (q : Retriever) :
    (State.setRetr s die q).mem = s.mem := by
  unfold State.setRetr; simp

@[simp] theorem State.takeMiss_mem (s : State) (n : Nat) (m : Miss) :
    (State.takeMiss s n m).mem = s.mem := by
  unfold State.takeMiss; split <;> simp_all

@[simp] theorem execRecipeMiss_mem (die n : Nat) (s : State) :
    outMem (execRecipeMiss die n s) s.mem := by
  unfold execRecipeMiss; (repeat' split) <;> simp_all

@[simp] theorem execMissRetry_mem (n : Nat) (s : State) :
    outMem (execMissRetry n s) s.mem := by
  unfold execMissRetry; (repeat' split) <;> simp_all

@[simp] theorem State.poisonParked_mem (s : State) (asid tile : Nat) :
    (State.poisonParked s asid tile).mem = s.mem := by
  unfold State.poisonParked; simp

@[simp] theorem State.setTop_mem (s : State) (die : Nat) (g : Regen) :
    (State.setTop s die g).mem = s.mem := by
  unfold State.setTop; simp

@[simp] theorem execQuiescentClose_mem (die : Nat) (s : State) :
    outMem (execQuiescentClose die s) s.mem := by
  unfold execQuiescentClose; dsimp only; (repeat' split) <;> simp_all

@[simp] theorem execRecomputeComplete_mem (die : Nat) (s : State) :
    outMem (execRecomputeComplete die s) s.mem := by
  unfold execRecomputeComplete; dsimp only; (repeat' split) <;> simp_all

@[simp] theorem State.installLeaf_wf (s : State) (x : Ctx) (r : Rec) (frame : Nat) (h : Memory.wf s.mem = true) :
    Memory.wf (State.installLeaf s x r frame).mem = true := by
  unfold State.installLeaf; split <;> simp_all

@[simp] theorem State.clearMarks_wf (s : State) (asid tile c : Nat) (h : Memory.wf s.mem = true) :
    Memory.wf (State.clearMarks s asid tile c).mem = true := by
  unfold State.clearMarks; simp +contextual [*]

@[simp] theorem State.discardColour_mem (s : State) (c : Nat) :
    (State.discardColour s c).mem = s.mem := by
  unfold State.discardColour; simp

@[simp] theorem execWidthFailure_mem (die : Nat) (s : State) :
    outMem (execWidthFailure die s) s.mem := by
  unfold execWidthFailure; dsimp only; (repeat' split) <;> simp_all

end Sys2Proof.Machine
end

