-- ==== Sys2Proof/Laws/MemLinks.lean ====
section
/-! SUPPORT. What the definitions of Machine/Links.lean do to the memories: which leave them alone, and that the others keep
the canonical form. -/

namespace Sys2Proof.Machine

@[simp] theorem State.modLink_mem (s : State) (port : Nat) (f : Link → Link) :
    (State.modLink s port f).mem = s.mem := by
  unfold State.modLink; simp

@[simp] theorem execFlitCrcError_mem (port : Nat) (flit : FlitId) (s : State) :
    outMem (execFlitCrcError port flit s) s.mem := by
  unfold execFlitCrcError; dsimp only; (repeat' split) <;> simp_all (maxDischargeDepth := 20)

@[simp] theorem State.markDone_mem (s : State) (f : Nat → Nat → Bool) :
    (State.markDone s f).mem = s.mem := by
  unfold State.markDone; simp

@[simp] theorem execLinkDown_mem (port : Nat) (s : State) :
    outMem (execLinkDown port s) s.mem := by
  unfold execLinkDown; dsimp only; (repeat' split) <;> simp_all (maxDischargeDepth := 20)

@[simp] theorem execFreeSlotReturn_mem (port vc : Nat) (s : State) :
    outMem (execFreeSlotReturn port vc s) s.mem := by
  unfold execFreeSlotReturn; dsimp only; (repeat' split) <;> simp_all (maxDischargeDepth := 20)

@[simp] theorem execLinkTraining_mem (port : Nat) (s : State) :
    outMem (execLinkTraining port s) s.mem := by
  unfold execLinkTraining; split <;> simp_all

@[simp] theorem State.modLaunch_mem (s : State) (coord num : Nat) (f : Launch → Launch) :
    (State.modLaunch s coord num f).mem = s.mem := by
  unfold State.modLaunch; simp

@[simp] theorem State.count_mem (s : State) (c : Counter) :
    (State.count s c).mem = s.mem := by
  unfold State.count; simp

@[simp] theorem State.writeCount_mem (s : State) (c : Counter) (v : Word) :
    (State.writeCount s c v).mem = s.mem := by
  unfold State.writeCount; simp

@[simp] theorem State.dropPkt_mem (s : State) :
    (State.dropPkt s).mem = s.mem := by
  unfold State.dropPkt; simp

@[simp] theorem State.linkArrive_mem (s : State) (port vc core : Nat) (t : Tok) :
    (State.linkArrive s port vc core t).mem = s.mem := by
  unfold State.linkArrive; simp

@[simp] theorem State.nodeWrite_wf (s : State) (x : Ctx) (va : Nat) (w : Word) (h : Memory.wf s.mem = true) :
    Memory.wf (State.nodeWrite s x va w).1.mem = true := by
  unfold State.nodeWrite; (repeat' split) <;> simp_all

@[simp] theorem State.modRemote_mem (s : State) (id : Nat) (f : Copy → Copy) :
    (State.modRemote s id f).mem = s.mem := by
  unfold State.modRemote; split <;> simp_all

@[simp] theorem State.chkSend_mem (s : State) (c : Chk) (k : Nat) :
    (State.chkSend s c k).mem = s.mem := by
  unfold State.chkSend; dsimp only; (repeat' split) <;> simp_all

@[simp] theorem execWriteAckReceive_mem (port : Nat) (p : AckPkt) (s : State) :
    outMem (execWriteAckReceive port p s) s.mem := by
  unfold execWriteAckReceive; (repeat' split) <;> simp_all (maxDischargeDepth := 20)

@[simp] theorem execWriteFaultReceive_mem (port : Nat) (p : FaultPkt) (more : Nat) (s : State) :
    outMem (execWriteFaultReceive port p more s) s.mem := by
  unfold execWriteFaultReceive; (repeat' split) <;> simp_all (maxDischargeDepth := 20)

end Sys2Proof.Machine
end

