-- ==== Sys2Proof/Laws/MemLaunches.lean ====
section
/-! SUPPORT. What the definitions of Machine/Launches.lean do to the memories: which leave them alone, and that the others keep
the canonical form. -/

namespace Sys2Proof.Machine

@[simp] theorem State.dropLaunch_mem (s : State) (coord num : Nat) :
    (State.dropLaunch s coord num).mem = s.mem := by
  unfold State.dropLaunch; simp

@[simp] theorem State.takeColour_mem (s : State) (ctx c : Nat) :
    (State.takeColour s ctx c).mem = s.mem := by
  unfold State.takeColour; simp

@[simp] theorem State.control0_mem (s : State) (node coord num : Nat) (k : CtlKind) (vals : List Nat) :
    (State.control0 s node coord num k vals).mem = s.mem := by
  unfold State.control0; simp

@[simp] theorem State.sendPrepares_mem (s : State) (l : Launch) (i : Image) :
    (State.sendPrepares s l i).mem = s.mem := by
  unfold State.sendPrepares; simp

@[simp] theorem execPrepareTimeout_mem (n : Nat) (s : State) :
    outMem (execPrepareTimeout n s) s.mem := by
  unfold execPrepareTimeout; (repeat' split) <;> simp_all (maxDischargeDepth := 20)

@[simp] theorem State.endRefused_mem (s : State) (l : Launch) :
    (State.endRefused s l).mem = s.mem := by
  unfold State.endRefused; simp

end Sys2Proof.Machine
end

