-- ==== Sys2Proof/Laws/MemHostPort.lean ====
section
/-! SUPPORT. What the definitions of Machine/HostPort.lean do to the memories: which leave them alone, and that the others keep
the canonical form. -/

namespace Sys2Proof.Machine

@[simp] theorem State.hostReply_mem (s : State) (port : Nat) (data : List Byte) (ep ur : Bool) :
    (State.hostReply s port data ep ur).mem = s.mem := by
  unfold State.hostReply; simp

@[simp] theorem State.dropAperture_mem (s : State) (port : Nat) :
    (State.dropAperture s port).mem = s.mem := by
  unfold State.dropAperture; simp

@[simp] theorem execInboxHeadWrite_mem (port ctx : Nat) (head : Word) (s : State) :
    outMem (execInboxHeadWrite port ctx head s) s.mem := by
  unfold execInboxHeadWrite; (repeat' split) <;> simp_all (maxDischargeDepth := 20)

@[simp] theorem State.hostWritePiece_wf (s : State) (pa : Nat) (bs : List Byte) (ep : Bool) (h : Memory.wf s.mem = true) :
    Memory.wf (State.hostWritePiece s pa bs ep).mem = true := by
  unfold State.hostWritePiece; dsimp only; (repeat' split) <;> simp_all (maxDischargeDepth := 20)

@[simp] theorem State.latchChrono_mem (s : State) (port : Nat) :
    (State.latchChrono s port).mem = s.mem := by
  unfold State.latchChrono; simp

@[simp] theorem State.readWindow_mem (s : State) (port off : Nat) :
    (State.readWindow s port off).mem = s.mem := by
  unfold State.readWindow; simp

@[simp] theorem State.readAperture_mem (s : State) (port off len : Nat) :
    (State.readAperture s port off len).mem = s.mem := by
  unfold State.readAperture; simp

@[simp] theorem execChronoLoRead_mem (port : Nat) (s : State) :
    outMem (execChronoLoRead port s) s.mem := by
  unfold execChronoLoRead; simp

@[simp] theorem execRegisterWrite_mem (port : Nat) (reg : MgmtReg) (val : Word) (s : State) :
    outMem (execRegisterWrite port reg val s) s.mem := by
  unfold execRegisterWrite; (repeat' split) <;> simp_all (maxDischargeDepth := 20)

@[simp] theorem execAttestationGo_mem (port : Nat) (s : State) :
    outMem (execAttestationGo port s) s.mem := by
  unfold execAttestationGo; split <;> simp_all (maxDischargeDepth := 20)

@[simp] theorem execAttestationDone_mem (s : State) :
    outMem (execAttestationDone s) s.mem := by
  unfold execAttestationDone; split <;> simp_all (maxDischargeDepth := 20)

end Sys2Proof.Machine
end

