-- ==== Sys2Proof/Laws/MemMailbox.lean ====
section
/-! SUPPORT. What the definitions of Machine/Mailbox.lean do to the memories: which leave them alone, and that the others keep
the canonical form. -/

namespace Sys2Proof.Machine

@[simp] theorem State.setMbox_mem (s : State) (port : Nat) (m : Mbox) :
    (State.setMbox s port m).mem = s.mem := by
  unfold State.setMbox; simp

@[simp] theorem State.mboxEnd_mem (s : State) (port status : Nat) (results : List Byte) :
    (State.mboxEnd s port status results).mem = s.mem := by
  unfold State.mboxEnd; simp

@[simp] theorem State.mboxStart_mem (s : State) (code : Nat) (c : Cmd) :
    (State.mboxStart s code c).mem = s.mem := by
  unfold State.mboxStart; simp

@[simp] theorem partitionCmd_mem (s : State) (c : Cmd) :
    (partitionCmd s c).mem = s.mem := by
  unfold partitionCmd; simp

end Sys2Proof.Machine
end

