-- ==== Sys2Proof/Laws/MemLoader.lean ====
section
/-! SUPPORT. What the definitions of Machine/Loader.lean do to the memories: which leave them alone, and that the others keep
the canonical form. -/

namespace Sys2Proof.Machine

@[simp] theorem State.writeByte_wf (s : State) (x : Ctx) (va : Nat) (b : Byte) (h : Memory.wf s.mem = true) :
    Memory.wf (State.writeByte s x va b).1.mem = true := by
  unfold State.writeByte; split <;> simp_all (maxDischargeDepth := 20)

@[simp] theorem State.writeData_wf (s : State) (x : Ctx) (d : ImgData) (h : Memory.wf s.mem = true) :
    Memory.wf (State.writeData s x d).1.mem = true := by
  unfold State.writeData; simp (maxDischargeDepth := 20) +contextual [*]

@[simp] theorem State.bindImage_mem (s : State) (ctx : Nat) (x : Ctx) (b : List Byte) (slots : List Nat) (h : Nat) :
    (State.bindImage s ctx x b slots h).mem = s.mem := by
  unfold State.bindImage; simp

@[simp] theorem State.endLoad_mem (s : State) (port status : Nat) (res : List Byte) :
    (State.endLoad s port status res).mem = s.mem := by
  unfold State.endLoad; simp

@[simp] theorem loadChecked_mem (s : State) (c : Cmd) (x : Ctx) (b : List Byte) :
    (loadChecked s c x b).mem = s.mem := by
  unfold loadChecked; dsimp only; (repeat' split) <;> simp_all (maxDischargeDepth := 20)

@[simp] theorem State.unloadImage_mem (s : State) (ctx h : Nat) (i : Image) :
    (State.unloadImage s ctx h i).mem = s.mem := by
  unfold State.unloadImage; simp

end Sys2Proof.Machine
end

