-- ==== Sys2Proof/Laws/MemLogic.lean ====
section
/-! SUPPORT. What the definitions of Machine/Logic.lean do to the memories: which leave them alone, and that the others keep
the canonical form. -/

namespace Sys2Proof.Machine

@[simp] theorem logicOp_mem (s : State) (i : Instr) (wide : Bool) (d a : Nat) (b : BOp) (f : DWord → DWord → DWord) :
    outMem (logicOp s i wide d a b f) s.mem := by
  unfold logicOp; simp

@[simp] theorem logicImm_mem (s : State) (i : Instr) (d a : Nat) (imm : Int) (f : Word → Word → Word) :
    outMem (logicImm s i d a imm f) s.mem := by
  unfold logicImm; simp

@[simp] theorem execAnd_mem (wide : Bool) (d a : Nat) (b : BOp) (s : State) :
    outMem (execAnd wide d a b s) s.mem := by
  unfold execAnd; simp

@[simp] theorem execAndImm_mem (d a : Nat) (imm : Int) (s : State) :
    outMem (execAndImm d a imm s) s.mem := by
  unfold execAndImm; simp

@[simp] theorem execOr_mem (wide : Bool) (d a : Nat) (b : BOp) (s : State) :
    outMem (execOr wide d a b s) s.mem := by
  unfold execOr; simp

@[simp] theorem execOrImm_mem (d a : Nat) (imm : Int) (s : State) :
    outMem (execOrImm d a imm s) s.mem := by
  unfold execOrImm; simp

@[simp] theorem execXor_mem (wide : Bool) (d a : Nat) (b : BOp) (s : State) :
    outMem (execXor wide d a b s) s.mem := by
  unfold execXor; simp

@[simp] theorem execXorImm_mem (d a : Nat) (imm : Int) (s : State) :
    outMem (execXorImm d a imm s) s.mem := by
  unfold execXorImm; simp

@[simp] theorem execAndn_mem (wide : Bool) (d a : Nat) (b : BOp) (s : State) :
    outMem (execAndn wide d a b s) s.mem := by
  unfold execAndn; simp

@[simp] theorem shiftOp_mem (s : State) (i : Instr) (k : ShKind) (wide : Bool) (d a : Nat) (b : BOp) :
    outMem (shiftOp s i k wide d a b) s.mem := by
  unfold shiftOp; simp

@[simp] theorem shiftImm_mem (s : State) (i : Instr) (k : ShKind) (wide : Bool) (d a amt : Nat) :
    outMem (shiftImm s i k wide d a amt) s.mem := by
  unfold shiftImm; simp

@[simp] theorem execShl_mem (wide : Bool) (d a : Nat) (b : BOp) (s : State) :
    outMem (execShl wide d a b s) s.mem := by
  unfold execShl; simp

@[simp] theorem execShr_mem (wide : Bool) (d a : Nat) (b : BOp) (s : State) :
    outMem (execShr wide d a b s) s.mem := by
  unfold execShr; simp

@[simp] theorem execShra_mem (wide : Bool) (d a : Nat) (b : BOp) (s : State) :
    outMem (execShra wide d a b s) s.mem := by
  unfold execShra; simp

@[simp] theorem execRotl_mem (wide : Bool) (d a : Nat) (b : BOp) (s : State) :
    outMem (execRotl wide d a b s) s.mem := by
  unfold execRotl; simp

@[simp] theorem execShlImm_mem (wide : Bool) (d a amt : Nat) (s : State) :
    outMem (execShlImm wide d a amt s) s.mem := by
  unfold execShlImm; simp

@[simp] theorem execShrImm_mem (wide : Bool) (d a amt : Nat) (s : State) :
    outMem (execShrImm wide d a amt s) s.mem := by
  unfold execShrImm; simp

@[simp] theorem execShraImm_mem (wide : Bool) (d a amt : Nat) (s : State) :
    outMem (execShraImm wide d a amt s) s.mem := by
  unfold execShraImm; simp

@[simp] theorem execRotlImm_mem (wide : Bool) (d a amt : Nat) (s : State) :
    outMem (execRotlImm wide d a amt s) s.mem := by
  unfold execRotlImm; simp

@[simp] theorem execBfx_mem (signed : Bool) (d a pos len : Nat) (s : State) :
    outMem (execBfx signed d a pos len s) s.mem := by
  unfold execBfx; simp

@[simp] theorem execBfi_mem (d a pos len : Nat) (s : State) :
    outMem (execBfi d a pos len s) s.mem := by
  unfold execBfi; simp

end Sys2Proof.Machine
end

