-- ==== Sys2Proof/Laws/MemPackInstr.lean ====
section
/-! SUPPORT. What the definitions of Machine/PackInstr.lean do to the memories: which leave them alone, and that the others keep
the canonical form. -/

namespace Sys2Proof.Machine

@[simp] theorem execReduce_mem (op : RedOp) (t : RedTy) (d a : Nat) (s : State) :
    outMem (execReduce op t d a s) s.mem := by
  unfold execReduce; simp

@[simp] theorem execScan_mem (op : RedOp) (excl : Bool) (t : RedTy) (d a : Nat) (s : State) :
    outMem (execScan op excl t d a s) s.mem := by
  unfold execScan; simp

@[simp] theorem execVote_mem (op : VoteOp) (d a : Nat) (s : State) :
    outMem (execVote op d a s) s.mem := by
  unfold execVote; simp

@[simp] theorem execBallot_mem (d a : Nat) (s : State) :
    outMem (execBallot d a s) s.mem := by
  unfold execBallot; simp

@[simp] theorem execShfl_mem (m : ShflMode) (d a : Nat) (b : BOp) (s : State) :
    outMem (execShfl m d a b s) s.mem := by
  unfold execShfl; simp

@[simp] theorem execConfl_mem (d a : Nat) (s : State) :
    outMem (execConfl d a s) s.mem := by
  unfold execConfl; simp

end Sys2Proof.Machine
end

