-- ==== Sys2Proof/Laws/Updates.lean ====
section
/-! SUPPORT. What the updates of helms, Retrievers, recipes, cuts, owner entries, ports, launches and mailboxes leave alone: one lemma
for each field and update; those about the memories stand in the Mem files. -/

namespace Sys2Proof.Machine

@[simp] theorem State.modHelm_agenda (s : State) (c : Nat) (f : Helm → Helm) : (s.modHelm c f).agenda = s.agenda := rfl
@[simp] theorem State.modHelm_freeCount (s : State) (c : Nat) (f : Helm → Helm) : (s.modHelm c f).freeCount = s.freeCount := rfl
@[simp] theorem State.modHelm_cur (s : State) (c : Nat) (f : Helm → Helm) : (s.modHelm c f).cur = s.cur := rfl
@[simp] theorem State.modHelm_uid (s : State) (c : Nat) (f : Helm → Helm) : (s.modHelm c f).uid = s.uid := rfl
@[simp] theorem State.modHelm_now (s : State) (c : Nat) (f : Helm → Helm) : (s.modHelm c f).now = s.now := rfl
@[simp] theorem State.modHelm_part (s : State) (c : Nat) (f : Helm → Helm) : (s.modHelm c f).part = s.part := rfl
@[simp] theorem State.modHelm_blocks (s : State) (c : Nat) (f : Helm → Helm) : (s.modHelm c f).blocks = s.blocks := rfl
@[simp] theorem State.modHelm_images (s : State) (c : Nat) (f : Helm → Helm) : (s.modHelm c f).images = s.images := rfl
@[simp] theorem State.modHelm_ctxs (s : State) (c : Nat) (f : Helm → Helm) : (s.modHelm c f).ctxs = s.ctxs := rfl
@[simp] theorem State.modHelm_level7 (s : State) (c : Nat) (f : Helm → Helm) : (s.modHelm c f).level7 = s.level7 := rfl
@[simp] theorem State.modHelm_returns (s : State) (c : Nat) (f : Helm → Helm) : (s.modHelm c f).returns = s.returns := rfl
@[simp] theorem State.modHelm_retr (s : State) (c : Nat) (f : Helm → Helm) : (s.modHelm c f).retr = s.retr := rfl
@[simp] theorem State.modHelm_misses (s : State) (c : Nat) (f : Helm → Helm) : (s.modHelm c f).misses = s.misses := rfl
@[simp] theorem State.modHelm_launches (s : State) (c : Nat) (f : Helm → Helm) : (s.modHelm c f).launches = s.launches := rfl
@[simp] theorem State.modHelm_prepares (s : State) (c : Nat) (f : Helm → Helm) : (s.modHelm c f).prepares = s.prepares := rfl
@[simp] theorem State.modHelm_io (s : State) (c : Nat) (f : Helm → Helm) : (s.modHelm c f).io = s.io := rfl
@[simp] theorem State.modHelm_mgmt (s : State) (c : Nat) (f : Helm → Helm) : (s.modHelm c f).mgmt = s.mgmt := rfl
@[simp] theorem State.modHelm_chk (s : State) (c : Nat) (f : Helm → Helm) : (s.modHelm c f).chk = s.chk := rfl

@[simp] theorem State.setRetr_agenda (s : State) (d : Nat) (q : Retriever) : (s.setRetr d q).agenda = s.agenda := rfl
@[simp] theorem State.setRetr_freeCount (s : State) (d : Nat) (q : Retriever) : (s.setRetr d q).freeCount = s.freeCount := rfl
@[simp] theorem State.setRetr_cur (s : State) (d : Nat) (q : Retriever) : (s.setRetr d q).cur = s.cur := rfl
@[simp] theorem State.setRetr_uid (s : State) (d : Nat) (q : Retriever) : (s.setRetr d q).uid = s.uid := rfl
@[simp] theorem State.setRetr_now (s : State) (d : Nat) (q : Retriever) : (s.setRetr d q).now = s.now := rfl
@[simp] theorem State.setRetr_part (s : State) (d : Nat) (q : Retriever) : (s.setRetr d q).part = s.part := rfl
@[simp] theorem State.setRetr_blocks (s : State) (d : Nat) (q : Retriever) : (s.setRetr d q).blocks = s.blocks := rfl
@[simp] theorem State.setRetr_images (s : State) (d : Nat) (q : Retriever) : (s.setRetr d q).images = s.images := rfl
@[simp] theorem State.setRetr_ctxs (s : State) (d : Nat) (q : Retriever) : (s.setRetr d q).ctxs = s.ctxs := rfl
@[simp] theorem State.setRetr_level7 (s : State) (d : Nat) (q : Retriever) : (s.setRetr d q).level7 = s.level7 := rfl
@[simp] theorem State.setRetr_returns (s : State) (d : Nat) (q : Retriever) : (s.setRetr d q).returns = s.returns := rfl
@[simp] theorem State.setRetr_misses (s : State) (d : Nat) (q : Retriever) : (s.setRetr d q).misses = s.misses := rfl
@[simp] theorem State.setRetr_launches (s : State) (d : Nat) (q : Retriever) : (s.setRetr d q).launches = s.launches := rfl
@[simp] theorem State.setRetr_prepares (s : State) (d : Nat) (q : Retriever) : (s.setRetr d q).prepares = s.prepares := rfl
@[simp] theorem State.setRetr_io (s : State) (d : Nat) (q : Retriever) : (s.setRetr d q).io = s.io := rfl
@[simp] theorem State.setRetr_mgmt (s : State) (d : Nat) (q : Retriever) : (s.setRetr d q).mgmt = s.mgmt := rfl
@[simp] theorem State.setRetr_chk (s : State) (d : Nat) (q : Retriever) : (s.setRetr d q).chk = s.chk := rfl
@[simp] theorem State.setRetr_cores (s : State) (d : Nat) (q : Retriever) : (s.setRetr d q).cores = s.cores := rfl

@[simp] theorem State.setTop_agenda (s : State) (d : Nat) (g : Regen) : (s.setTop d g).agenda = s.agenda := rfl
@[simp] theorem State.setTop_freeCount (s : State) (d : Nat) (g : Regen) : (s.setTop d g).freeCount = s.freeCount := rfl
@[simp] theorem State.setTop_cur (s : State) (d : Nat) (g : Regen) : (s.setTop d g).cur = s.cur := rfl
@[simp] theorem State.setTop_uid (s : State) (d : Nat) (g : Regen) : (s.setTop d g).uid = s.uid := rfl
@[simp] theorem State.setTop_now (s : State) (d : Nat) (g : Regen) : (s.setTop d g).now = s.now := rfl
@[simp] theorem State.setTop_part (s : State) (d : Nat) (g : Regen) : (s.setTop d g).part = s.part := rfl
@[simp] theorem State.setTop_blocks (s : State) (d : Nat) (g : Regen) : (s.setTop d g).blocks = s.blocks := rfl
@[simp] theorem State.setTop_images (s : State) (d : Nat) (g : Regen) : (s.setTop d g).images = s.images := rfl
@[simp] theorem State.setTop_ctxs (s : State) (d : Nat) (g : Regen) : (s.setTop d g).ctxs = s.ctxs := rfl
@[simp] theorem State.setTop_level7 (s : State) (d : Nat) (g : Regen) : (s.setTop d g).level7 = s.level7 := rfl
@[simp] theorem State.setTop_returns (s : State) (d : Nat) (g : Regen) : (s.setTop d g).returns = s.returns := rfl
@[simp] theorem State.setTop_misses (s : State) (d : Nat) (g : Regen) : (s.setTop d g).misses = s.misses := rfl
@[simp] theorem State.setTop_launches (s : State) (d : Nat) (g : Regen) : (s.setTop d g).launches = s.launches := rfl
@[simp] theorem State.setTop_prepares (s : State) (d : Nat) (g : Regen) : (s.setTop d g).prepares = s.prepares := rfl
@[simp] theorem State.setTop_io (s : State) (d : Nat) (g : Regen) : (s.setTop d g).io = s.io := rfl
@[simp] theorem State.setTop_mgmt (s : State) (d : Nat) (g : Regen) : (s.setTop d g).mgmt = s.mgmt := rfl
@[simp] theorem State.setTop_chk (s : State) (d : Nat) (g : Regen) : (s.setTop d g).chk = s.chk := rfl
@[simp] theorem State.setTop_cores (s : State) (d : Nat) (g : Regen) : (s.setTop d g).cores = s.cores := rfl

@[simp] theorem State.modLink_agenda (s : State) (p : Nat) (f : Link → Link) : (s.modLink p f).agenda = s.agenda := rfl
@[simp] theorem State.modLink_freeCount (s : State) (p : Nat) (f : Link → Link) : (s.modLink p f).freeCount = s.freeCount := rfl
@[simp] theorem State.modLink_cur (s : State) (p : Nat) (f : Link → Link) : (s.modLink p f).cur = s.cur := rfl
@[simp] theorem State.modLink_uid (s : State) (p : Nat) (f : Link → Link) : (s.modLink p f).uid = s.uid := rfl
@[simp] theorem State.modLink_now (s : State) (p : Nat) (f : Link → Link) : (s.modLink p f).now = s.now := rfl
@[simp] theorem State.modLink_part (s : State) (p : Nat) (f : Link → Link) : (s.modLink p f).part = s.part := rfl
@[simp] theorem State.modLink_blocks (s : State) (p : Nat) (f : Link → Link) : (s.modLink p f).blocks = s.blocks := rfl
@[simp] theorem State.modLink_images (s : State) (p : Nat) (f : Link → Link) : (s.modLink p f).images = s.images := rfl
@[simp] theorem State.modLink_ctxs (s : State) (p : Nat) (f : Link → Link) : (s.modLink p f).ctxs = s.ctxs := rfl
@[simp] theorem State.modLink_level7 (s : State) (p : Nat) (f : Link → Link) : (s.modLink p f).level7 = s.level7 := rfl
@[simp] theorem State.modLink_returns (s : State) (p : Nat) (f : Link → Link) : (s.modLink p f).returns = s.returns := rfl
@[simp] theorem State.modLink_retr (s : State) (p : Nat) (f : Link → Link) : (s.modLink p f).retr = s.retr := rfl
@[simp] theorem State.modLink_misses (s : State) (p : Nat) (f : Link → Link) : (s.modLink p f).misses = s.misses := rfl
@[simp] theorem State.modLink_launches (s : State) (p : Nat) (f : Link → Link) : (s.modLink p f).launches = s.launches := rfl
@[simp] theorem State.modLink_prepares (s : State) (p : Nat) (f : Link → Link) : (s.modLink p f).prepares = s.prepares := rfl
@[simp] theorem State.modLink_mgmt (s : State) (p : Nat) (f : Link → Link) : (s.modLink p f).mgmt = s.mgmt := rfl
@[simp] theorem State.modLink_chk (s : State) (p : Nat) (f : Link → Link) : (s.modLink p f).chk = s.chk := rfl
@[simp] theorem State.modLink_cores (s : State) (p : Nat) (f : Link → Link) : (s.modLink p f).cores = s.cores := rfl

@[simp] theorem State.modLaunch_agenda (s : State) (c n : Nat) (f : Launch → Launch) : (s.modLaunch c n f).agenda = s.agenda := rfl
@[simp] theorem State.modLaunch_freeCount (s : State) (c n : Nat) (f : Launch → Launch) : (s.modLaunch c n f).freeCount = s.freeCount := rfl
@[simp] theorem State.modLaunch_cur (s : State) (c n : Nat) (f : Launch → Launch) : (s.modLaunch c n f).cur = s.cur := rfl
@[simp] theorem State.modLaunch_uid (s : State) (c n : Nat) (f : Launch → Launch) : (s.modLaunch c n f).uid = s.uid := rfl
@[simp] theorem State.modLaunch_now (s : State) (c n : Nat) (f : Launch → Launch) : (s.modLaunch c n f).now = s.now := rfl
@[simp] theorem State.modLaunch_part (s : State) (c n : Nat) (f : Launch → Launch) : (s.modLaunch c n f).part = s.part := rfl
@[simp] theorem State.modLaunch_blocks (s : State) (c n : Nat) (f : Launch → Launch) : (s.modLaunch c n f).blocks = s.blocks := rfl
@[simp] theorem State.modLaunch_images (s : State) (c n : Nat) (f : Launch → Launch) : (s.modLaunch c n f).images = s.images := rfl
@[simp] theorem State.modLaunch_ctxs (s : State) (c n : Nat) (f : Launch → Launch) : (s.modLaunch c n f).ctxs = s.ctxs := rfl
@[simp] theorem State.modLaunch_level7 (s : State) (c n : Nat) (f : Launch → Launch) : (s.modLaunch c n f).level7 = s.level7 := rfl
@[simp] theorem State.modLaunch_returns (s : State) (c n : Nat) (f : Launch → Launch) : (s.modLaunch c n f).returns = s.returns := rfl
@[simp] theorem State.modLaunch_retr (s : State) (c n : Nat) (f : Launch → Launch) : (s.modLaunch c n f).retr = s.retr := rfl
@[simp] theorem State.modLaunch_misses (s : State) (c n : Nat) (f : Launch → Launch) : (s.modLaunch c n f).misses = s.misses := rfl
@[simp] theorem State.modLaunch_prepares (s : State) (c n : Nat) (f : Launch → Launch) : (s.modLaunch c n f).prepares = s.prepares := rfl
@[simp] theorem State.modLaunch_io (s : State) (c n : Nat) (f : Launch → Launch) : (s.modLaunch c n f).io = s.io := rfl
@[simp] theorem State.modLaunch_mgmt (s : State) (c n : Nat) (f : Launch → Launch) : (s.modLaunch c n f).mgmt = s.mgmt := rfl
@[simp] theorem State.modLaunch_chk (s : State) (c n : Nat) (f : Launch → Launch) : (s.modLaunch c n f).chk = s.chk := rfl
@[simp] theorem State.modLaunch_cores (s : State) (c n : Nat) (f : Launch → Launch) : (s.modLaunch c n f).cores = s.cores := rfl

@[simp] theorem State.setMbox_agenda (s : State) (p : Nat) (m : Mbox) : (s.setMbox p m).agenda = s.agenda := rfl
@[simp] theorem State.setMbox_freeCount (s : State) (p : Nat) (m : Mbox) : (s.setMbox p m).freeCount = s.freeCount := rfl
@[simp] theorem State.setMbox_cur (s : State) (p : Nat) (m : Mbox) : (s.setMbox p m).cur = s.cur := rfl
@[simp] theorem State.setMbox_uid (s : State) (p : Nat) (m : Mbox) : (s.setMbox p m).uid = s.uid := rfl
@[simp] theorem State.setMbox_now (s : State) (p : Nat) (m : Mbox) : (s.setMbox p m).now = s.now := rfl
@[simp] theorem State.setMbox_part (s : State) (p : Nat) (m : Mbox) : (s.setMbox p m).part = s.part := rfl
@[simp] theorem State.setMbox_blocks (s : State) (p : Nat) (m : Mbox) : (s.setMbox p m).blocks = s.blocks := rfl
@[simp] theorem State.setMbox_images (s : State) (p : Nat) (m : Mbox) : (s.setMbox p m).images = s.images := rfl
@[simp] theorem State.setMbox_ctxs (s : State) (p : Nat) (m : Mbox) : (s.setMbox p m).ctxs = s.ctxs := rfl
@[simp] theorem State.setMbox_level7 (s : State) (p : Nat) (m : Mbox) : (s.setMbox p m).level7 = s.level7 := rfl
@[simp] theorem State.setMbox_returns (s : State) (p : Nat) (m : Mbox) : (s.setMbox p m).returns = s.returns := rfl
@[simp] theorem State.setMbox_retr (s : State) (p : Nat) (m : Mbox) : (s.setMbox p m).retr = s.retr := rfl
@[simp] theorem State.setMbox_misses (s : State) (p : Nat) (m : Mbox) : (s.setMbox p m).misses = s.misses := rfl
@[simp] theorem State.setMbox_launches (s : State) (p : Nat) (m : Mbox) : (s.setMbox p m).launches = s.launches := rfl
@[simp] theorem State.setMbox_prepares (s : State) (p : Nat) (m : Mbox) : (s.setMbox p m).prepares = s.prepares := rfl
@[simp] theorem State.setMbox_mgmt (s : State) (p : Nat) (m : Mbox) : (s.setMbox p m).mgmt = s.mgmt := rfl
@[simp] theorem State.setMbox_chk (s : State) (p : Nat) (m : Mbox) : (s.setMbox p m).chk = s.chk := rfl
@[simp] theorem State.setMbox_cores (s : State) (p : Nat) (m : Mbox) : (s.setMbox p m).cores = s.cores := rfl

@[simp] theorem State.mboxEnd_agenda (s : State) (p n : Nat) (r : List Byte) : (s.mboxEnd p n r).agenda = s.agenda := rfl
@[simp] theorem State.mboxEnd_freeCount (s : State) (p n : Nat) (r : List Byte) : (s.mboxEnd p n r).freeCount = s.freeCount := rfl
@[simp] theorem State.mboxEnd_cur (s : State) (p n : Nat) (r : List Byte) : (s.mboxEnd p n r).cur = s.cur := rfl
@[simp] theorem State.mboxEnd_uid (s : State) (p n : Nat) (r : List Byte) : (s.mboxEnd p n r).uid = s.uid := rfl
@[simp] theorem State.mboxEnd_now (s : State) (p n : Nat) (r : List Byte) : (s.mboxEnd p n r).now = s.now := rfl
@[simp] theorem State.mboxEnd_part (s : State) (p n : Nat) (r : List Byte) : (s.mboxEnd p n r).part = s.part := rfl
@[simp] theorem State.mboxEnd_blocks (s : State) (p n : Nat) (r : List Byte) : (s.mboxEnd p n r).blocks = s.blocks := rfl
@[simp] theorem State.mboxEnd_images (s : State) (p n : Nat) (r : List Byte) : (s.mboxEnd p n r).images = s.images := rfl
@[simp] theorem State.mboxEnd_ctxs (s : State) (p n : Nat) (r : List Byte) : (s.mboxEnd p n r).ctxs = s.ctxs := rfl
@[simp] theorem State.mboxEnd_level7 (s : State) (p n : Nat) (r : List Byte) : (s.mboxEnd p n r).level7 = s.level7 := rfl
@[simp] theorem State.mboxEnd_returns (s : State) (p n : Nat) (r : List Byte) : (s.mboxEnd p n r).returns = s.returns := rfl
@[simp] theorem State.mboxEnd_retr (s : State) (p n : Nat) (r : List Byte) : (s.mboxEnd p n r).retr = s.retr := rfl
@[simp] theorem State.mboxEnd_misses (s : State) (p n : Nat) (r : List Byte) : (s.mboxEnd p n r).misses = s.misses := rfl
@[simp] theorem State.mboxEnd_launches (s : State) (p n : Nat) (r : List Byte) : (s.mboxEnd p n r).launches = s.launches := rfl
@[simp] theorem State.mboxEnd_prepares (s : State) (p n : Nat) (r : List Byte) : (s.mboxEnd p n r).prepares = s.prepares := rfl
@[simp] theorem State.mboxEnd_mgmt (s : State) (p n : Nat) (r : List Byte) : (s.mboxEnd p n r).mgmt = s.mgmt := rfl
@[simp] theorem State.mboxEnd_chk (s : State) (p n : Nat) (r : List Byte) : (s.mboxEnd p n r).chk = s.chk := rfl
@[simp] theorem State.mboxEnd_cores (s : State) (p n : Nat) (r : List Byte) : (s.mboxEnd p n r).cores = s.cores := rfl

@[simp] theorem State.modRec_agenda (s : State) (x r : Nat) (f : Rec → Rec) : (s.modRec x r f).agenda = s.agenda := rfl
@[simp] theorem State.modRec_freeCount (s : State) (x r : Nat) (f : Rec → Rec) : (s.modRec x r f).freeCount = s.freeCount := rfl
@[simp] theorem State.modRec_cur (s : State) (x r : Nat) (f : Rec → Rec) : (s.modRec x r f).cur = s.cur := rfl
@[simp] theorem State.modRec_uid (s : State) (x r : Nat) (f : Rec → Rec) : (s.modRec x r f).uid = s.uid := rfl
@[simp] theorem State.modRec_now (s : State) (x r : Nat) (f : Rec → Rec) : (s.modRec x r f).now = s.now := rfl
@[simp] theorem State.modRec_part (s : State) (x r : Nat) (f : Rec → Rec) : (s.modRec x r f).part = s.part := rfl
@[simp] theorem State.modRec_blocks (s : State) (x r : Nat) (f : Rec → Rec) : (s.modRec x r f).blocks = s.blocks := rfl
@[simp] theorem State.modRec_images (s : State) (x r : Nat) (f : Rec → Rec) : (s.modRec x r f).images = s.images := rfl
@[simp] theorem State.modRec_level7 (s : State) (x r : Nat) (f : Rec → Rec) : (s.modRec x r f).level7 = s.level7 := rfl
@[simp] theorem State.modRec_returns (s : State) (x r : Nat) (f : Rec → Rec) : (s.modRec x r f).returns = s.returns := rfl
@[simp] theorem State.modRec_retr (s : State) (x r : Nat) (f : Rec → Rec) : (s.modRec x r f).retr = s.retr := rfl
@[simp] theorem State.modRec_misses (s : State) (x r : Nat) (f : Rec → Rec) : (s.modRec x r f).misses = s.misses := rfl
@[simp] theorem State.modRec_launches (s : State) (x r : Nat) (f : Rec → Rec) : (s.modRec x r f).launches = s.launches := rfl
@[simp] theorem State.modRec_prepares (s : State) (x r : Nat) (f : Rec → Rec) : (s.modRec x r f).prepares = s.prepares := rfl
@[simp] theorem State.modRec_io (s : State) (x r : Nat) (f : Rec → Rec) : (s.modRec x r f).io = s.io := rfl
@[simp] theorem State.modRec_mgmt (s : State) (x r : Nat) (f : Rec → Rec) : (s.modRec x r f).mgmt = s.mgmt := rfl
@[simp] theorem State.modRec_chk (s : State) (x r : Nat) (f : Rec → Rec) : (s.modRec x r f).chk = s.chk := rfl
@[simp] theorem State.modRec_cores (s : State) (x r : Nat) (f : Rec → Rec) : (s.modRec x r f).cores = s.cores := rfl

@[simp] theorem State.modCut_agenda (s : State) (x : Nat) (f : Cut → Cut) : (s.modCut x f).agenda = s.agenda := rfl
@[simp] theorem State.modCut_freeCount (s : State) (x : Nat) (f : Cut → Cut) : (s.modCut x f).freeCount = s.freeCount := rfl
@[simp] theorem State.modCut_cur (s : State) (x : Nat) (f : Cut → Cut) : (s.modCut x f).cur = s.cur := rfl
@[simp] theorem State.modCut_uid (s : State) (x : Nat) (f : Cut → Cut) : (s.modCut x f).uid = s.uid := rfl
@[simp] theorem State.modCut_now (s : State) (x : Nat) (f : Cut → Cut) : (s.modCut x f).now = s.now := rfl
@[simp] theorem State.modCut_mem (s : State) (x : Nat) (f : Cut → Cut) : (s.modCut x f).mem = s.mem := rfl
@[simp] theorem State.modCut_part (s : State) (x : Nat) (f : Cut → Cut) : (s.modCut x f).part = s.part := rfl
@[simp] theorem State.modCut_blocks (s : State) (x : Nat) (f : Cut → Cut) : (s.modCut x f).blocks = s.blocks := rfl
@[simp] theorem State.modCut_images (s : State) (x : Nat) (f : Cut → Cut) : (s.modCut x f).images = s.images := rfl
@[simp] theorem State.modCut_level7 (s : State) (x : Nat) (f : Cut → Cut) : (s.modCut x f).level7 = s.level7 := rfl
@[simp] theorem State.modCut_returns (s : State) (x : Nat) (f : Cut → Cut) : (s.modCut x f).returns = s.returns := rfl
@[simp] theorem State.modCut_retr (s : State) (x : Nat) (f : Cut → Cut) : (s.modCut x f).retr = s.retr := rfl
@[simp] theorem State.modCut_misses (s : State) (x : Nat) (f : Cut → Cut) : (s.modCut x f).misses = s.misses := rfl
@[simp] theorem State.modCut_launches (s : State) (x : Nat) (f : Cut → Cut) : (s.modCut x f).launches = s.launches := rfl
@[simp] theorem State.modCut_prepares (s : State) (x : Nat) (f : Cut → Cut) : (s.modCut x f).prepares = s.prepares := rfl
@[simp] theorem State.modCut_io (s : State) (x : Nat) (f : Cut → Cut) : (s.modCut x f).io = s.io := rfl
@[simp] theorem State.modCut_mgmt (s : State) (x : Nat) (f : Cut → Cut) : (s.modCut x f).mgmt = s.mgmt := rfl
@[simp] theorem State.modCut_chk (s : State) (x : Nat) (f : Cut → Cut) : (s.modCut x f).chk = s.chk := rfl
@[simp] theorem State.modCut_cores (s : State) (x : Nat) (f : Cut → Cut) : (s.modCut x f).cores = s.cores := rfl

@[simp] theorem State.setOwner_agenda (s : State) (pa v : Nat) : (s.setOwner pa v).agenda = s.agenda := rfl
@[simp] theorem State.setOwner_freeCount (s : State) (pa v : Nat) : (s.setOwner pa v).freeCount = s.freeCount := rfl
@[simp] theorem State.setOwner_cur (s : State) (pa v : Nat) : (s.setOwner pa v).cur = s.cur := rfl
@[simp] theorem State.setOwner_uid (s : State) (pa v : Nat) : (s.setOwner pa v).uid = s.uid := rfl
@[simp] theorem State.setOwner_now (s : State) (pa v : Nat) : (s.setOwner pa v).now = s.now := rfl
@[simp] theorem State.setOwner_part (s : State) (pa v : Nat) : (s.setOwner pa v).part = s.part := rfl
@[simp] theorem State.setOwner_blocks (s : State) (pa v : Nat) : (s.setOwner pa v).blocks = s.blocks := rfl
@[simp] theorem State.setOwner_images (s : State) (pa v : Nat) : (s.setOwner pa v).images = s.images := rfl
@[simp] theorem State.setOwner_ctxs (s : State) (pa v : Nat) : (s.setOwner pa v).ctxs = s.ctxs := rfl
@[simp] theorem State.setOwner_level7 (s : State) (pa v : Nat) : (s.setOwner pa v).level7 = s.level7 := rfl
@[simp] theorem State.setOwner_returns (s : State) (pa v : Nat) : (s.setOwner pa v).returns = s.returns := rfl
@[simp] theorem State.setOwner_retr (s : State) (pa v : Nat) : (s.setOwner pa v).retr = s.retr := rfl
@[simp] theorem State.setOwner_misses (s : State) (pa v : Nat) : (s.setOwner pa v).misses = s.misses := rfl
@[simp] theorem State.setOwner_launches (s : State) (pa v : Nat) : (s.setOwner pa v).launches = s.launches := rfl
@[simp] theorem State.setOwner_prepares (s : State) (pa v : Nat) : (s.setOwner pa v).prepares = s.prepares := rfl
@[simp] theorem State.setOwner_io (s : State) (pa v : Nat) : (s.setOwner pa v).io = s.io := rfl
@[simp] theorem State.setOwner_mgmt (s : State) (pa v : Nat) : (s.setOwner pa v).mgmt = s.mgmt := rfl
@[simp] theorem State.setOwner_chk (s : State) (pa v : Nat) : (s.setOwner pa v).chk = s.chk := rfl
@[simp] theorem State.setOwner_cores (s : State) (pa v : Nat) : (s.setOwner pa v).cores = s.cores := rfl

end Sys2Proof.Machine
end

