-- ==== Sys2Proof/Safety.lean ====
section
/-! DEFINITION. What a safe run is: every step of it answers a next state. -/

namespace Sys2Proof

/-- A step from the state answers a next state: neither the model's fault nor a refusal. -/
def Goes (s : Machine.State) : Prop := ∃ t, Machine.step s = .next t

/-- Every state that k steps reach goes on. -/
def SafeFor (k : Nat) (s : Machine.State) : Prop := ∀ j ≤ k, ∃ t, core.run j s = .next t

end Sys2Proof
end

