-- ==== Sys2Proof/Tests/Slice0.lean ====
section
/-! SUPPORT. The model's own tests: ill-formed terms, words written out from the spec, single steps, and for each statement a state
and operands that meet its hypotheses together. -/

set_option maxRecDepth 100000

namespace Sys2Proof.Tests

open Sys2Proof Sys2Proof.Machine Sys2Proof.Claims

/-! ### Ill-formed terms: one or more for each check of `WF` -/

theorem test_wf_vreg : (Instr.fabs 64 0).wellFormed = false ∧ (Instr.fabs 63 63).wellFormed = true := by decide
theorem test_wf_pair : (Instr.abs true 3 2).wellFormed = false ∧ (Instr.abs true 62 2).wellFormed = true := by decide
theorem test_wf_sreg : (Instr.nln 32).wellFormed = false ∧ (Instr.clock 3).wellFormed = false := by decide
theorem test_wf_bop : (Instr.add false .i64 2 4 (.v 5)).wellFormed = false ∧ (Instr.add false .i32 2 4 (.s 32)).wellFormed = false := by decide
theorem test_wf_bop_next : (Instr.ffma .dyn 1 2 (.v 63)).wellFormed = false ∧ (Instr.ffma .dyn 1 2 (.s 31)).wellFormed = false := by decide
theorem test_wf_kreg : (Instr.sel 1 2 (.v 3) 8).wellFormed = false ∧ (Instr.sel 1 2 (.v 3) 0).wellFormed = true := by decide
theorem test_wf_kdst : (Instr.ballot 0 1).wellFormed = false ∧ (Instr.cmp .eq .i32 8 1 (.v 2)).wellFormed = false := by decide
theorem test_wf_mreg : (Instr.tzero 16).wellFormed = false := by decide
theorem test_wf_simm : (Instr.addImm 1 2 2048).wellFormed = false ∧ (Instr.addImm 1 2 (-2048)).wellFormed = true := by decide
theorem test_wf_run : (Instr.lmv true none 50 2 15 1 0).wellFormed = false := by decide
theorem test_wf_amount : (Instr.shlImm false 1 2 32).wellFormed = false ∧ (Instr.shlImm true 2 4 63).wellFormed = true := by decide
theorem test_wf_field : (Instr.bfx true 1 2 31 2).wellFormed = false ∧ (Instr.bfi 1 2 0 0).wellFormed = false := by decide
theorem test_wf_mma : (Instr.mma .bf16 .f16 1 2 3).wellFormed = false := by decide
theorem test_wf_mmaq : (Instr.mmaq .f32 .q4 1 2 3 4).wellFormed = false ∧ (Instr.mmaq .i8 .i8 1 2 3 4).wellFormed = false := by decide
theorem test_wf_cvt : (Instr.cvt .f32 .f32 .dyn 1 2).wellFormed = false ∧ (Instr.cvt .n32 .i32 .rne 1 2).wellFormed = false := by decide
theorem test_wf_load_size : (Instr.ld .w true 1 2 0).wellFormed = false ∧ (Instr.ldf .d false 2 2 0).wellFormed = false := by decide
theorem test_wf_data_register : (Instr.ld .d false 3 2 0).wellFormed = false := by decide
theorem test_wf_tag : (Instr.send (.lane 3) 1 1 0 none 0 1).wellFormed = false ∧ (Instr.send .self 60 5 0 none 0 1).wellFormed = false := by
  decide
theorem test_wf_cpy : (Instr.cpy .remote 0 false .dev 2 4 (.s 1) 1 0 1).wellFormed = false ∧
    (Instr.cpy .t 0 false .dev 2 4 (.s 1) 1 0 0).wellFormed = false := by decide
theorem test_wf_rounding : (Instr.hadd2 true .rup 1 2 (.v 3)).wellFormed = false := by decide
theorem test_wf_reduce : (Instr.reduce .and .f32 1 2).wellFormed = false := by decide
theorem test_wf_quant : (Instr.quant .f32 .none 1 2 3).wellFormed = false ∧ (Instr.deq .i8 1 2 3).wellFormed = false := by decide
theorem test_wf_tact : (Instr.tact .relu .i8 none 1 2).wellFormed = false := by decide
theorem test_wf_descriptor : (Instr.tdesc 1 4 0xFFFFFFFF).wellFormed = false := by decide
theorem test_wf_atomic : (Instr.fatom .and .dev .relaxed 1 2 (.v 3)).wellFormed = false ∧
    (Instr.red .swap .i32 .dev .relaxed 2 (.v 3)).wellFormed = false ∧ (Instr.red .add .i32 .dev .acq 2 (.v 3)).wellFormed = false := by
  decide
theorem test_wf_control : (Instr.movcWrite 4 .priv).wellFormed = false ∧ (Instr.trap (2 ^ 18)).wellFormed = false ∧
    (Instr.idxF 2 6).wellFormed = false := by decide
theorem test_wf_recipe : (Instr.rseal 4 8 24 3 1).wellFormed = false ∧ (Instr.rseal 16 8 29 3 1).wellFormed = false ∧
    (Instr.rseal 16 8 24 3 5).wellFormed = false := by decide
theorem test_wf_opcode : (Instr.unassignedOpcode 1).wellFormed = false ∧ (Instr.unassignedOpcode 0x5E).wellFormed = true := by decide
theorem test_wf_prefetch : (Instr.pfx .ind .b 2 0 0).wellFormed = false := by decide
theorem test_wf_word_pair : (Instr.kop .not 1 2 3).wellFormed = false ∧ (Instr.kop .tos 1 8 0).wellFormed = false := by decide

/-! ### Words written out from the encodings and the examples of the spec -/

/-- Integer words: ADD (R47, R106), CMP.gt with W (R36, R119), SHL by an immediate (R49). -/
theorem test_decode_integer : decodeTableWord 32 0x01082100 = some (.add false .i32 2 2 (.v 4)) ∧
    decodeTableWord 32 0x9E046021 = some (.cmp .gt .i32 1 6 (.s 0)) ∧ decodeTableWord 32 0x14082002 = some (.shlImm false 2 2 2) := by decide
/-- Moves: MOVHI v4, 1024; MOVI v3, 0; LANE v0; NOP. -/
theorem test_decode_moves : decodeTableWord 32 0x1B100400 = some (.movhiV 4 1024) ∧ decodeTableWord 32 0x190C0000 = some (.moviV 3 0) ∧
    decodeTableWord 32 0x32000000 = some (.lane 0) ∧ decodeTableWord 32 0x51000000 = some .nop := by decide
/-- Special function and matvec: FTANH v14, v12; LMV.f32! v12, v10, w1, 2, 2 and v16, v14, w2, 1, 2. -/
theorem test_decode_fp : decodeTableWord 32 0x2B38C00E = some (.ftanh 14 12) ∧
    decodeTableWord 64 (0xF730A000 + 0x04440000 * 2 ^ 32) = some (.lmv true none 12 10 2 2 0) ∧
    decodeTableWord 64 (0xF740E000 + 0x04400040 * 2 ^ 32) = some (.lmv true none 16 14 1 2 64) := by decide
/-- Tiles: MMA of .bf16, TLD, TACT, TRED and TDESC, and MMAQ. -/
theorem test_decode_tiles : decodeTableWord 32 0x372010AA = some (.mma .bf16 .bf16 2 0 1) ∧ decodeTableWord 32 0x35100100 = some (.tld false 1 1) ∧
    decodeTableWord 32 0x3A300001 = some (.tact .relu .f32 none 3 0) ∧ decodeTableWord 32 0x3B100004 = some (.tred .sum true 1 0) ∧
    decodeTableWord 64 (0x78044000 + 0xA01E3FFF * 2 ^ 32) = some (.tdesc 1 4 0xA01E3FFF) ∧
    decodeTableWord 64 (0x76080040 + 0xE61 * 2 ^ 32) = some (.mmaq .i8 .q4 2 0 1 1) := by decide
/-- Memory: LD.w, ST.w, LDF, LDP, FENCE.rel.dev, ATOM.add.n32.dev. -/
theorem test_decode_memory : decodeTableWord 32 0x3E182100 = some (.ld .w false 6 2 0) ∧ decodeTableWord 32 0x3F102300 = some (.st .w 4 2 0 1) ∧
    decodeTableWord 32 0x41040100 = some (.ldf .w false 1 0 0) ∧ decodeTableWord 32 0x43144100 = some (.ldp .w false 5 4 0) ∧
    decodeTableWord 32 0x47000008 = some (.fence .rel .dev) ∧
    decodeTableWord 64 (0x7B202240 + 0x610 * 2 ^ 32) = some (.atom .add .n32 .dev .relaxed 8 2 (.v 9)) := by decide
/-- Copies and tokens: CPY.f.once, CPY.h.dev, SEND, SPAWN, RETURN, MKTAG, IDX.F, END. -/
theorem test_decode_tokens : decodeTableWord 64 (0x7450C0C1 + 0x00C00001 * 2 ^ 32) = some (.cpy .f 0 true .dev 20 12 (.s 3) 0 0 1) ∧
    decodeTableWord 64 (0x7440C340 + 0x00440003 * 2 ^ 32) = some (.cpy .h 0 false .dev 16 12 (.v 13) 0 0 3) ∧
    decodeTableWord 64 (0x71180002 + 0x04040001 * 2 ^ 32) = some (.send .self 6 1 1 none 0 1) ∧
    decodeTableWord 64 (0x73086100 + 0x00050001 * 2 ^ 32) = some (.spawn 2 6 1 0 0 0 1 5) ∧
    decodeTableWord 32 0x49040001 = some (.ret 1 1 none) ∧ decodeTableWord 32 0x4D514000 = some (.mktag 20 20) ∧
    decodeTableWord 32 0x4B080000 = some (.idxF 2 0) ∧ decodeTableWord 32 0x4A000000 = some .endBlock := by decide
/-- Control and privileged: MOVC both ways, CWBI, REBIND, TRESUME, TSKIP, TKILL, REPLAY, FAULTRD, HCMD.map. -/
theorem test_decode_privileged : decodeTableWord 32 0x520C0002 = some (.movcRead 3 .flags) ∧
    decodeTableWord 32 0x52100801 = some (.movcWrite 4 .trapen) ∧ decodeTableWord 32 0x53006281 = some (.cwbi 6 10) ∧
    decodeTableWord 32 0x540020C1 = some (.rebind 2 3) ∧ decodeTableWord 32 0x55100000 = some (.tresume 4) ∧
    decodeTableWord 32 0x56100000 = some (.tskip 4) ∧ decodeTableWord 32 0x57100000 = some (.tkill 4) ∧
    decodeTableWord 32 0x58100000 = some (.replay 4) ∧ decodeTableWord 32 0x59185007 = some (.faultrd 6 5 7) ∧
    decodeTableWord 64 (0x79148241 + 1 * 2 ^ 32) = some (.hcmdMap 5 8 9) := by decide
/-- Recipes: RDROP, RPIN.unpin, RSTAT, and RSEAL with one source and with two. -/
theorem test_decode_recipes : decodeTableWord 32 0x5A008000 = some (.rdrop 8) ∧ decodeTableWord 32 0x5C008002 = some (.rpin true 8) ∧
    decodeTableWord 32 0x5D148000 = some (.rstat 5 8) ∧
    decodeTableWord 64 (0x7A408601 + 0x00010003 * 2 ^ 32) = some (.rseal 16 8 24 3 1) ∧
    decodeTableWord 64 (0x7A408601 + 0x00020001 * 2 ^ 32) = some (.rseal 16 8 24 1 2) := by decide
/-- Words that are no instruction: a reserved field of NOP, k0 as a destination, an odd pair, an unassigned major opcode (R43). -/
theorem test_decode_refuses : decodeTableWord 32 0x51000001 = none ∧ decodeTableWord 32 0x1E006021 = none ∧
    decodeTableWord 32 0x01083104 = none ∧ decodeTableWord 32 0x5E000000 = some (.unassignedOpcode 0x5E) := by decide

/-! ### Small states -/

/-- The slot of the test pack. -/
def me : PackRef := { core := 0, pipe := 1, slot := 0 }

/-- A privileged pack of n lanes, level 0, with given lane registers (by register and lane), uniform and mask registers. -/
def pk (n : Nat) (v : List (Nat × Nat × Nat)) (u k : List (Nat × Nat)) : Pack :=
  let p := { placedPack with id := { placedPack.id with n := n, priv := true, tags := (List.range n).map fun i => BitVec.ofNat 64 i } }
  { p with r := { p.r with
      v := v.foldl (fun m e => Sparse.set (e.1 * 32 + e.2.1) (BitVec.ofNat 32 e.2.2) m) []
      s := u.foldl (fun m e => Sparse.set e.1 (BitVec.ofNat 32 e.2) m) []
      k := k.foldl (fun m e => Sparse.set e.1 (BitVec.ofNat 32 e.2) m) [] } }

/-- The device with the pack about to issue from a block of words, in context 0. -/
def on (code : List Nat) (p : Pack) : State := { (State.reset.placeWords code).setPack me p with cur := me }

/-- The same with nothing but NOPs as code. -/
def st (p : Pack) : State := on [0x51000000, 0x51000000, 0x51000000] p

/-- The pack after an instruction. -/
def after (i : Instr) (p : Pack) : Option Pack := match exec i (st p) with | .next t => t.pack me | _ => none

/-- A lane register after an instruction. -/
def lane (i : Instr) (p : Pack) (r L : Nat) : Option Nat := (after i p).map fun q => (q.v r L).toNat

/-- A uniform register after an instruction. -/
def uni (i : Instr) (p : Pack) (r : Nat) : Option Nat := (after i p).map fun q => (q.s r).toNat

/-- Constants bound to the image of the test block, on every core that matters. -/
def withConsts (bs : List Byte) (s : State) : State :=
  ({ s with images := s.images.put 0 { placedImage with consts := bs } } : State).modCore 0 fun c =>
    { c with st := { c.st with consts := [(0, Sparse.setRun 0 bs [])] } }

/-- Context 0 changed. -/
def ctx0 (f : Ctx → Ctx) (s : State) : State := { s with ctxs := s.ctxs.map fun e => if e.1 = 0 then (0, f e.2) else e }

/-- Context 0 with every right below 2^47 (R258, R259). -/
def region (s : State) : State := ctx0 (fun x => { x with regions := [(0, 0x3EF)] }) s

/-- The 64 KiB page at 0 mapped for writing to the frame at 0x20000 (R262 to R264), with a WRITABLE owner entry (R267). -/
def mapped (s : State) : State :=
  (((s.setEntry64 tableBase (tableBase + 4096 + 1)).setEntry64 (tableBase + 4096) (tableBase + 8192 + 1)).setEntry64 (tableBase + 8192)
    (tableBase + 12288 + 1)).setEntry64 (tableBase + 12288) 0x2000B

/-- Core 0 changed. -/
def core0 (f : Core → Core) (s : State) : State := s.modCore 0 f

/-- The state lies within some bounds, as a test of a result. -/
def isData (q : State × HRes) (f : State → List Byte → Bool → Bool) : Bool := match q with | (u, .data bs p) => f u bs p | _ => false

/-! ### Single steps -/

/-- R107: MULH .n32 of 0xFFFF_FFFF by itself, and .i32 of -1 by 1. -/
theorem test_mulh : lane (.mulh .n32 1 2 (.v 3)) (pk 1 [(2, 0, 0xFFFFFFFF), (3, 0, 0xFFFFFFFF)] [] []) 1 0 = some 0xFFFFFFFE ∧
    lane (.mulh .i32 1 2 (.v 3)) (pk 1 [(2, 0, 0xFFFFFFFF), (3, 0, 1)] [] []) 1 0 = some 0xFFFFFFFF := by decide
/-- R106: ADD wraps, and ADD.sat clamps at the type's bounds. -/
theorem test_add : lane (.add false .i32 1 2 (.v 3)) (pk 1 [(2, 0, 0x7FFFFFFF), (3, 0, 1)] [] []) 1 0 = some 0x80000000 ∧
    lane (.add true .i32 1 2 (.v 3)) (pk 1 [(2, 0, 0x7FFFFFFF), (3, 0, 1)] [] []) 1 0 = some 0x7FFFFFFF := by decide
/-- R108: the most negative dividend by -1 wraps; a remainder takes the dividend's sign. -/
theorem test_divide : lane (.divi false 1 2 (.v 3)) (pk 1 [(2, 0, 0x80000000), (3, 0, 0xFFFFFFFF)] [] []) 1 0 = some 0x80000000 ∧
    lane (.remi false 1 2 (.v 3)) (pk 1 [(2, 0, 0xFFFFFFF9), (3, 0, 2)] [] []) 1 0 = some 0xFFFFFFFF := by decide
/-- R112: a register amount of 33 shifts a 32-bit value by 1. -/
theorem test_shift_amount : lane (.shl false 1 2 (.v 3)) (pk 1 [(2, 0, 3), (3, 0, 33)] [] []) 1 0 = some 6 := by decide
/-- R113: BFX.i32 of bits 7:4 sign-extends; BFI replaces the field alone. -/
theorem test_bit_field : lane (.bfx true 1 2 4 4) (pk 1 [(2, 0, 0x90)] [] []) 1 0 = some 0xFFFFFFF9 ∧
    lane (.bfi 1 2 8 8) (pk 1 [(1, 0, 0x11223344), (2, 0, 0xAB)] [] []) 1 0 = some 0x1122AB44 := by decide
/-- R110: BREV, and CLZ of 1 in 64 bits. -/
theorem test_unary : lane (.brev false 1 2) (pk 1 [(2, 0, 6)] [] []) 1 0 = some 0x60000000 ∧
    lane (.clz true 4 2) (pk 1 [(2, 0, 1)] [] []) 4 0 = some 63 := by decide
/-- R115: MOVHI keeps bits 13:0. -/
theorem test_movhi : lane (.movhiV 4 1024) (pk 1 [(4, 0, 0xFFFFFFFF)] [] []) 4 0 = some 0x01003FFF := by decide
/-- R116: MOVS of an inactive position writes 0; a write to s0 is discarded (R29). -/
theorem test_movs : uni (.movsLane 3 2 1) (pk 1 [(2, 1, 7)] [(3, 9)] []) 3 = some 0 ∧ uni (.movsLane 0 2 0) (pk 1 [(2, 0, 7)] [] []) 0 = some 0 := by
  decide
/-- R119: CMP clears the mask at inactive positions, and compares as its type says. -/
theorem test_cmp : (after (.cmp .gt .i32 1 2 (.v 3)) (pk 2 [(2, 0, 1), (3, 0, 0xFFFFFFFF), (2, 1, 0)] [] [(1, 0xFFFFFFFF)])).map (fun q => q.k 1) =
    some 1 := by decide
/-- R120: KOP.not of k0 sets the inactive positions. -/
theorem test_kop : (after (.kop .not 2 0 0) (pk 4 [] [] [])).map (fun q => q.k 2) = some 0xFFFFFFF0 := by decide
/-- R121, R79: 1.0 + 2^-24 is a tie and rounds to even. -/
theorem test_fadd : lane (.fadd .rne 1 2 (.v 3)) (pk 1 [(2, 0, 0x3F800000), (3, 0, 0x33800000)] [] []) 1 0 = some 0x3F800000 ∧
    lane (.fadd .rup 1 2 (.v 3)) (pk 1 [(2, 0, 0x3F800000), (3, 0, 0x33800000)] [] []) 1 0 = some 0x3F800001 := by decide
/-- R122: FFMA takes its addend from the register after b. -/
theorem test_ffma : lane (.ffma .rne 1 2 (.v 3)) (pk 1 [(2, 0, 0x40000000), (3, 0, 0x40400000), (4, 0, 0x3F800000)] [] []) 1 0 =
    some 0x40E00000 := by decide
/-- R83: .f32 to .bf16 of 0x3F80_8000, a tie; -3.7e9 to .i32 is out of range. -/
theorem test_cvt : lane (.cvt .bf16 .f32 .rne 1 2) (pk 1 [(2, 0, 0x3F808000)] [] []) 1 0 = some 0x3F80 ∧
    lane (.cvt .i32 .f32 .rne 1 2) (pk 1 [(2, 0, 0xCF5C8985)] [] []) 1 0 = some 0x80000000 := by decide
/-- R140: the table of CONFL. -/
theorem test_confl : (after (.confl 1 2) (pk 8 [(2, 0, 5), (2, 1, 9), (2, 2, 5), (2, 3, 2), (2, 4, 9), (2, 5, 5), (2, 6, 7), (2, 7, 2)] [] [])).map
    (fun q => (List.range 8).map fun L => (q.v 1 L).toNat) =
    some [0x00020C00, 0x00040801, 0x00050C20, 0x00070803, 0x00040821, 0x00050C40, 0x00060406, 0x00070823] := by decide
/-- R139: SHFL.up of 1 gives lane 0 its own value and lane 1 that of lane 0. -/
theorem test_shfl : (after (.shfl .up 1 2 (.s 3)) (pk 2 [(2, 0, 11), (2, 1, 22)] [(3, 1)] [])).map
    (fun q => [(q.v 1 0).toNat, (q.v 1 1).toNat]) = some [11, 11] := by decide
/-- R135: SCAN.add exclusive, and REDUCE.max of .n32. -/
theorem test_scan_reduce : (after (.scan .add true .i32 1 2) (pk 3 [(2, 0, 1), (2, 1, 2), (2, 2, 4)] [] [])).map
    (fun q => (List.range 3).map fun L => (q.v 1 L).toNat) = some [0, 1, 3] ∧
    uni (.reduce .max .n32 5 2) (pk 3 [(2, 0, 1), (2, 1, 0xFFFFFFFF), (2, 2, 4)] [] []) 5 = some 0xFFFFFFFF := by decide
/-- The material law: the first LMV on points 0 and 2, as its trace gives v12 and v13. -/
theorem test_lmv :
    let w := [0x3F000000, 0, 0x3E800000, 0x3F800000].flatMap fun x => leBytes 4 x
    let p := pk 2 [(10, 0, 0x3F800000), (11, 0, 0x40000000), (10, 1, 0xBF800000), (11, 1, 0x7F800000)] [] []
    (match exec (.lmv true none 12 10 2 2 0) (withConsts w (st p)) with
      | .next t => (t.pack me).map fun q => [(q.v 12 0).toNat, (q.v 13 0).toNat, (q.v 12 1).toNat, (q.v 13 1).toNat]
      | _ => none) = some [0x3F000000, 0x40100000, 0x7FC00000, 0x7F800000] := by decide
/-- R206: ATOMF.add.i32 of two lanes on one word acts in ascending position. -/
theorem test_atomf : (after (.atomf .addI32 1 2 (.v 3)) (pk 2 [(3, 0, 5), (3, 1, 7)] [] [])).map
    (fun q => [(q.v 1 0).toNat, (q.v 1 1).toNat, (Sparse.get 0 q.m.frame).toNat]) = some [0, 5, 12] := by decide
/-- R252: TRAP stops the pack, with its code, to go on after it. -/
theorem test_trap : (after (.trap 5) (pk 1 [] [] [])).map (fun q => (q.c.st, q.c.trap.code, q.c.trap.resume, q.c.trap.cause)) =
    some (.drain, 5, 1, 18) := by decide
/-- R275, R276: MOVC writes TRAPEN's defined bits alone. -/
theorem test_movc : (after (.movcWrite 4 .trapen) (pk 1 [] [(4, 0xFFFFFFFF)] [])).map (fun q => q.r.trapen) = some 0x67 := by decide
/-- A step issues the instruction that stands at the pack's index (R10, R20): ADD v1, v1, v1 placed as the table numbers its bits. -/
theorem test_step : (match step (State.reset.withFetchWord 32 0x190C0005) with
    | .next t => (t.pack me).map fun q => ((q.v 3 0).toNat, q.c.pc) | _ => none) = some (5, 1) := by decide
/-- R43: an unassigned major opcode traps before it writes anything. -/
theorem test_step_illegal : (match step (State.reset.withFetchWord 32 0x5E000000) with
    | .next t => (t.pack me).map fun q => (q.c.st, q.c.reports.map fun e => e.lanes.map fun l => (l.cause, l.detail)) | _ => none) =
    some (.drain, [[(1, 1)]]) := by decide

/-! ### For each statement, states and operands that meet its hypotheses together -/

/-- Four lanes with small numbers in v2, v3 and v4. -/
def p4 : Pack := pk 4 [(2, 0, 7), (3, 0, 2), (2, 1, 0x3F800000), (3, 1, 0x40000000), (2, 2, 1), (3, 2, 1), (2, 3, 9), (3, 3, 3)] [(3, 5)] [(1, 0xF)]

/-- The same with every class of TRAPEN enabled. -/
def p4t : Pack := { p4 with r := { p4.r with trapen := 0x67 } }

theorem witness_IntegerArithmeticResults :
    (∀ i ∈ [Instr.add true .i32 1 2 (.v 3), .sub false .n64 0 62 (.v 4), .mul false .i64 62 2 (.v 4), .addImm 1 2 (-2048), .mulImm 63 2 2047,
      .mulh .n32 1 2 (.s 31), .mad .i64 4 2 (.s 30)], Ready (st p4) i p4) ∧
    (∀ i ∈ [Instr.divi false 1 2 (.v 3), .divn false 1 2 (.v 3), .remi true 4 2 (.v 6), .remn true 4 2 (.v 6)], Ready (st p4) i p4) ∧
    p4.r.trapen.getLsbD 1 = false ∧ (∀ i ∈ [Instr.divi false 1 2 (.v 3), .remn false 1 2 (.s 3)], Ready (st p4t) i p4t) ∧
    p4t.r.trapen.getLsbD 1 = true ∧ (p4t.lanes.any fun L => p4t.opB false (.v 3) L == 0) = false := by
  unfold Ready; decide

theorem witness_BitwiseResults :
    (∀ i ∈ [Instr.min .i32 1 2 (.v 3), .max .n64 0 2 (.v 4), .abs false 1 2, .neg true 4 2, .not true 62 62, .clz true 4 2, .popc false 1 2,
      .brev true 4 2, .and false 1 2 (.s 0), .or true 4 2 (.v 6), .xor false 1 1 (.v 1), .andn false 1 2 (.v 3), .andImm 1 2 (-1), .orImm 1 2 2047,
      .xorImm 1 2 (-2048), .shl false 1 2 (.v 3), .shr true 4 2 (.s 3), .shra true 4 2 (.v 3), .rotl false 1 2 (.v 3), .shlImm false 1 2 0,
      .shrImm false 1 2 31, .shraImm true 4 2 63, .rotlImm true 4 2 0, .bfx false 1 2 0 32, .bfx true 1 2 31 1, .bfi 1 2 31 1, .bfi 1 2 0 32],
      Ready (st p4) i p4) ∧ 31 < wid false ∧ 63 < wid true ∧ 1 ≤ 32 ∧ 0 + 32 ≤ 32 ∧ 31 + 1 ≤ 32 := by
  unfold Ready; decide

theorem witness_MoveCompareAndMaskResults :
    (∀ i ∈ [Instr.mov true 4 (.v 2), .movsLane 0 2 31, .movsLane 31 2 0, .movsUniform 0 3, .movsUniform 4 3, .moviV 1 (-131072), .moviS 0 131071,
      .moviImm32 false 1 0xFFFFFFFF, .moviImm32 true 0 0, .moviImm32 true 31 0xFFFFFFFF, .movhiV 1 262143, .movhiS 0 0, .movhiS 3 262143,
      .sel 1 2 (.v 3) 0, .lane 63, .nln 0, .nln 31, .cmp .lt .i64 1 2 (.v 4), .cmp .ge .n32 7 2 (.s 0), .cmpImm .eq true 1 2 0xFFFFFFFF,
      .kop .and 1 2 3, .kop .not 7 0 0, .kop .froms 1 31 0, .kop .tos 0 1 0, .kop .tos 31 7 0], Ready (st p4) i p4) ∧
    262143 < 2 ^ 18 ∧ 0xFFFFFFFF < 2 ^ 32 ∧ (1 : Nat) ≠ 0 := by
  unfold Ready; decide

theorem witness_FloatingPointResults :
    (∀ i ∈ [Instr.fadd .dyn 1 2 (.v 3), .fsub .rne 1 2 (.v 3), .fmul .rup 1 2 (.s 3), .ffma .rtz 1 2 (.v 62), .fmin 1 2 (.v 3), .fmax 1 2 (.v 3),
      .frnd .rdn 1 2, .fscale .rne 1 2 (.v 3), .fabs 1 2, .fneg 1 2, .fclass 1 2, .fcmp .lt true 1 2 (.v 3), .hadd2 true .rne 1 2 (.v 3),
      .hmul2 false .rtz 1 2 (.v 3), .hfma2 true .dyn 1 2 (.v 3), .cvt .bf16 .f32 .rne 1 2, .cvt .i64 .f32 .rtz 4 2], Ready (st p4t) i p4t) ∧
    Quiet p4t (fun L => ((cfgOf p4t f32 .rne).add (fin p4t (p4t.v 2 L)) (fin p4t (p4t.v 3 L))).cls) ∧
    Quiet p4t (fun L => ((cfgOf p4t f32 .rne).mul (fin p4t (p4t.v 2 L)) (fin p4t (p4t.v 3 L))).cls) ∧
    Quiet p4t (fun L => ((cfgOf p4t f16 .rne).add (half p4t false (p4t.v 2 L) 0) (half p4t false (p4t.v 3 L) 0)).cls |||
      ((cfgOf p4t f16 .rne).add (half p4t false (p4t.v 2 L) 1) (half p4t false (p4t.v 3 L) 1)).cls) ∧
    Quiet p4t (fun L => (convert .bf16 .f32 .rne false (p4t.opA false 2 L)).2) ∧
    p4.r.trapen.getLsbD 0 = false ∧ p4t.r.trapen.getLsbD 0 = true ∧
    (∀ L ∈ p4t.lanes, ((fin p4t (p4t.v 2 L)).isSig || (fin p4t (p4t.v 3 L)).isSig ||
      (true && ((fin p4t (p4t.v 2 L)).isNan || (fin p4t (p4t.v 3 L)).isNan))) = false) ∧
    (f32.val false 0x7FC00000).isNan = true ∧ (f32.val false 0x7FA00000).isSig = true := by
  unfold Ready Quiet; decide

/-- Lane 0 holds +infinity and -infinity, and a zero divisor in v4. -/
def pinf : Pack := { pk 2 [(2, 0, 0x7F800000), (3, 0, 0xFF800000), (2, 1, 0x3F800000), (3, 1, 0x3F800000)] [] [] with
  r := { (pk 2 [(2, 0, 0x7F800000), (3, 0, 0xFF800000), (2, 1, 0x3F800000), (3, 1, 0x3F800000)] [] []).r with trapen := 0x67 } }

theorem witness_ArithmeticTraps :
    pinf.c.replay = [] ∧ pinf.id.colour = none ∧
    Ready (st pinf) (.fadd .rne 1 2 (.v 3)) pinf ∧
    ¬(∀ L ∈ pinf.lanes, ((cfgOf pinf f32 .rne).add (fin pinf (pinf.v 2 L)) (fin pinf (pinf.v 3 L))).cls &&& (pinf.r.trapen.toNat &&& 0x67) = 0) ∧
    Ready (st pinf) (.fmul .rne 1 2 (.v 4)) pinf ∧
    ¬(∀ L ∈ pinf.lanes, ((cfgOf pinf f32 .rne).mul (fin pinf (pinf.v 2 L)) (fin pinf (pinf.v 4 L))).cls &&& (pinf.r.trapen.toNat &&& 0x67) = 0) ∧
    (∀ i ∈ [Instr.divi false 1 2 (.v 4), .divn false 1 2 (.v 4), .remi false 1 2 (.v 4), .remn true 6 2 (.v 4)], Ready (st pinf) i pinf) ∧
    ¬(∀ L ∈ pinf.lanes, (if pinf.opB false (.v 4) L = 0 then 2 else 0) &&& (pinf.r.trapen.toNat &&& 0x67) = 0) := by
  unfold Ready; decide

/-- An inexact sum of 25 bits in .f32, and 1 exactly in every format. -/
theorem witness_RoundingIsCorrect :
    f32 ∈ formats ∧ (f32.round .rup false true 0x1000001 0 false).cls &&& 4 = 0 ∧ (f32.round .rup false true 0x1000001 0 false).cls &&& 16 ≠ 0 ∧
    ∀ f ∈ formats, (f.round .rne false false 1 0 false).cls &&& 4 = 0 ∧ (f.round .rne false false 1 0 false).cls &&& 16 = 0 := by decide

theorem witness_ExactBeforeRounding : f16 ∈ formats ∧ e5m2 ∈ formats := by decide

/-- A pack whose FTANH result has arrived. -/
def psfu : Pack := { p4 with c := { p4.c with deferred := [{
  uid := 0, kind := .sfu, idx := 0, w0 := 0, w1 := 0, uni := false, d := 5, size := 4, sext := false,
  lanes := [{ lane := 0, addr := 0, res := .bound 0x3F000000 }, { lane := 3, addr := 0, res := .bound 0 }], cls := [(0, 16)], trapen := 0x67, ready := 0 }] } }

theorem witness_SpecialFunctions :
    (∀ fn ∈ [SfuFn.rcp, .rsq, .sqrt, .exp2, .log2, .sin, .cos, .tanh, .sigm], Ready (st p4) (sfuInstr fn 1 2) p4) ∧ p4.c.deferred.length + p4.c.reports.length < 16 ∧ (0 < 1 ∧ 1 < 2 ^ 24) ∧
    (∃ d, (st psfu).pack me = some psfu ∧ psfu.c.deferred[0]? = some d ∧ d.kind = .sfu ∧ d.ready ≤ (st psfu).now ∧ d.uni = false ∧ d.size = 4 ∧
      (d.lanes.map fun l => l.lane).Nodup ∧ (∀ l ∈ d.lanes, ∃ v, l.res = .bound v) ∧
      ∀ e ∈ d.cls, e.2 &&& (d.trapen.toNat &&& 0x67) = 0) ∧
    f32.val false 0x00800000 = .fin false (2 ^ 23) (-126 - 23) ∧ f32.val false 0x7F000000 = .fin false (2 ^ 23) (127 - 23) := by
  refine ⟨by unfold Ready; decide, by decide, by decide, ⟨_, rfl, rfl, rfl, by decide, rfl, rfl, by decide, ?_, by decide⟩, by decide, by decide⟩
  intro l hl
  have h : l = { lane := 0, addr := 0, res := .bound 0x3F000000 } ∨ l = { lane := 3, addr := 0, res := .bound 0 } := by
    simpa using hl
  rcases h with rfl | rfl <;> exact ⟨_, rfl⟩

/-- The constants of the material law, bound to the test block. -/
def law (p : Pack) : State := withConsts ([0x3F000000, 0, 0x3E800000, 0x3F800000].flatMap fun x => leBytes 4 x) (st p)

/-- The same with a poisoned word of the constants. -/
def lawBad (p : Pack) : State := core0 (fun c => { c with st := { c.st with constBad := [(0, 1)] } }) (law p)

/-- The classes of an LMV of two rows and two columns by lane. -/
def lawCls (p : Pack) (L : Nat) : Nat :=
  (List.range 2).foldl (fun m r => m ||| ((List.range 2).foldl (fun (q : FR) j =>
    let t := ({ fmt := f32, rm := .rne, ftz := false } : FCfg).fma
      (f32.val false (leNat ((law p).constRead 0 0 (0 + (r * 2 + j) * 4) 4))) (fin p (p.v (2 + j) L)) (f32.val false q.bits);
    { bits := t.bits, cls := q.cls ||| t.cls }) { bits := 0, cls := 0 }).cls) 0

theorem witness_MatvecReduceAndScan :
    (Ready (law p4) (.lmv true none 12 2 2 2 0) p4 ∧ 0 + 2 * 2 * 4 ≤ (law p4).constBytes p4.id.slot ∧
      (law p4).constPoison (law p4).cur.core ((law p4).runImage p4.id.slot) 0 (2 * 2 * 4) = false ∧ Quiet p4 (lawCls p4)) ∧
    (pinf.c.replay = [] ∧ pinf.id.colour = none ∧ Ready (law pinf) (.lmv true none 12 2 2 2 0) pinf ∧
      0 + 2 * 2 * 4 ≤ (law pinf).constBytes pinf.id.slot ∧ (2 * 2 + 4 - 1) / 4 ≤ 1 ∧ ¬Quiet pinf (lawCls pinf)) ∧
    (Ready (lawBad p4) (.lmv false (some 12) 12 2 1 2 2) p4 ∧ 2 + 1 * 2 * 2 ≤ (lawBad p4).constBytes p4.id.slot ∧
      (lawBad p4).constPoison (lawBad p4).cur.core ((lawBad p4).runImage p4.id.slot) 2 (1 * 2 * 2) = true) ∧
    (p4.c.replay = [] ∧ p4.id.colour = none ∧ Ready (law p4) (.lmv false (some 12) 12 2 1 16 0) p4 ∧
      (law p4).constBytes p4.id.slot < 0 + 1 * 16 * 2) ∧
    (∀ i ∈ [Instr.reduce .add .f32 5 2, .reduce .xor .n32 0 2, .scan .max true .f32 5 2, .scan .or false .i32 5 2], Ready (st p4) i p4) ∧
    p4.id.n ≤ 32 := by
  unfold Ready Quiet; and_intros <;> decide

theorem witness_PackInstructionResults :
    (∀ i ∈ [Instr.vote .any 1 1, .vote .count 0 7, .ballot 7 2, .shfl .xor 1 2 (.s 3), .confl 1 2], Ready (st p4) i p4) ∧ (7 : Nat) ≠ 0 ∧
    p4.id.n ≤ 32 := by
  unfold Ready; decide

theorem witness_SelectAndNop :
    Ready (st p4) (.sel 63 2 (.v 3) 7) p4 ∧ Ready (st p4) .nop p4 ∧ p4.c.replay = [] ∧
    (on [0xD1000000, 0] psfu).atPoint psfu = true ∧ psfu.c.deferred ≠ [] := by
  unfold Ready; decide

/-- What FADD gives an infinity and its opposite, and the numbers of the rounding and conversion statements. -/
theorem witness_FloatingPointCompletes :
    (∀ i ∈ [Instr.fadd .dyn 1 2 (.v 3), .fsub .rne 1 2 (.v 3), .fmul .rup 1 2 (.s 3), .ffma .rtz 1 2 (.v 62), .fmin 1 2 (.v 3), .fmax 1 2 (.v 3),
      .frnd .rdn 1 2, .fscale .rne 1 2 (.v 3), .fabs 1 2, .fneg 63 62, .fclass 1 2, .fcmp .un true 7 2 (.s 3), .hadd2 true .rne 1 2 (.v 3),
      .hmul2 false .rtz 1 2 (.v 3), .hfma2 true .dyn 1 2 (.v 3), .cvt .e4m3 .f32 .rne 1 2, .cvt .f32 .n64 .rtz 4 2], Ready (st p4) i p4) ∧
    p4.r.trapen.toNat &&& 0x67 = 0 ∧
    (1 < 2 ^ 24 ∧ (-149 : Int) ≤ 0 ∧ (0 : Int) ≤ 104) ∧
    (ElemTy.f32.isFloat = true ∧ ElemTy.e4m3.isFloat = true ∧ ElemTy.i8.isInt = true ∧ ElemTy.n64.isInt = true) ∧
    f32.val false 0xFF800000 = .inf true ∧ f32.val false 0x3F800000 = .fin false (2 ^ 23) (-23) := by
  unfold Ready; decide

/-- A divide of v2 by v4 that has still to complete, with the lanes that it names. -/
def standing (ls : List RepLane) : State :=
  (st pinf).modPipe 0 1 fun q => { q with late := some { due := 8, slot := 0, serial := 0, len := 1, cls := 2, lanes := ls } }

theorem witness_InstructionsOfManyCk :
    (∀ ls ∈ [[], [{ lane := 0, cause := 3, detail := 2, addr := 0 }]], ∃ l, (((standing ls).core 0).pipe 1).late = some l ∧ l.lanes = ls ∧
      l.due = 8 ∧ (standing ls).pack { core := 0, pipe := 1, slot := l.slot } = some pinf ∧ pinf.id.serial = l.serial) ∧
    pinf.c.st = .run ∧ (standing []).stopped pinf = false ∧ pinf.c.replay = [] ∧ pinf.id.colour = none ∧ pinf.c.reports = [] ∧
    (7 < 8 ∧ 8 ≤ 8) := by
  refine ⟨?_, by decide⟩
  intro ls h
  have : ls = [] ∨ ls = [{ lane := 0, cause := 3, detail := 2, addr := 0 }] := by simpa using h
  rcases this with rfl | rfl <;> exact ⟨_, rfl, rfl, rfl, by decide, rfl⟩

/-- Descriptors: td1 32 by 32 of .f32, td2 256 by 64 of .q4 in groups of 32, td3 64 by 64 of .i8, td4 as td1 but past the frame. -/
def ptd : Pack := { p4 with
  r := { p4.r with td := Sparse.set 9 0x7FFFF (Sparse.set 8 0x80081F1F (Sparse.set 6 0x80063F3F (Sparse.set 5 0x12000000
    (Sparse.set 4 0xA01E3FFF (Sparse.set 3 0x7E000 (Sparse.set 2 0x80081F1F [])))))) }
  c := { p4.c with bopen := 1, batches := [{ num := 0, members := 0, cls := 0, psc := false, closed := true, done := true }] } }

theorem witness_TileInstructions :
    (∀ i ∈ [Instr.tzero 15, .mma .i8 .i8 0 1 2, .mmas true .bf16 .bf16 0 1 2 3, .tact .relu .f32 none 1 2, .tred .sum true 1 2, .tld false 1 1,
      .tld true 1 1, .tst false 1 3, .mmaq .i8 .q4 0 1 2 2, .quant .i8 .r64 1 2 3, .deq .bf16 1 2 3],
      engineOk (st ptd) ptd i = true ∧ Ready (st ptd) i ptd) ∧
    (((st ptd).core (st ptd).cur.core).pipe (st ptd).cur.pipe).queue.length + (if ptd.id.tier = 3 then 3 else 1) ≤ 16 ∧
    (ptd.c.replay = [] ∧ ptd.id.colour = none ∧ Ready (st ptd) (.tld false 1 0) ptd ∧ (ptd.desc 0).wellFormed = false ∧
      Ready (st ptd) (.tst true 1 4) ptd ∧ (ptd.desc 4).wellFormed = true ∧ (!(ptd.desc 4).elem.isGrouped) = true ∧
      (ptd.desc 4).ext = (ptd.desc 4).rows * (ptd.desc 4).cols * (ptd.desc 4).elem.bytes ∧
      (st ptd).frameWords ptd.id.slot ≤ ((ptd.desc 4).base + (ptd.desc 4).ext - 1) / 128) ∧
    (Ready (st ptd) (.tdesc 1 4 0x80081F1F) ptd ∧ (Desc.ofWords 0x80081F1F (ptd.s 4).toNat).word1Ok = true) ∧
    (Desc.ofWords 0x80081F1F ((pk 1 [] [(5, 0x20000000)] []).s 5).toNat).word1Ok = false ∧
    Ready (st (pk 1 [] [(5, 0x20000000)] [])) (.tdesc 1 5 0x80081F1F) (pk 1 [] [(5, 0x20000000)] []) ∧
    Ready (st ptd) (.bfence 0) ptd ∧
    (Ready (st ptd) (.bwait 4) ptd ∧ (4 : Nat) ≠ 0 ∧ (ptd.s 4).toNat < ptd.c.bopen ∧
      ∀ b ∈ ptd.c.batches, b.done = true ∧ b.psc = false) := by
  unfold Ready; decide

/-- The mapped test state, and with a pack. -/
def mm (p : Pack) : State := mapped (region (st p))

/-- A pack with addresses 0, 4, 64 and 0xFFFC (v2 and v3), data in v6, 4 as a uniform address in s4. -/
def pm : Pack := pk 4 [(2, 1, 4), (2, 2, 64), (2, 3, 0xFFFC), (6, 0, 1), (6, 1, 2), (6, 2, 3), (6, 3, 4)] [(4, 4)] [(1, 0xF), (2, 1)]

/-- A pack with loads and stores that have bound. -/
def pl : Pack := { pm with c := { pm.c with deferred := [
  { uid := 0, kind := .load, idx := 0, w0 := 0, w1 := 0, uni := false, d := 8, size := 8, sext := false,
    lanes := [{ lane := 0, addr := 0, res := .bound (2 ^ 64 - 1) }, { lane := 31, addr := 8, res := .bound 0 }], cls := [], trapen := 0, ready := 0 },
  { uid := 1, kind := .load, idx := 0, w0 := 0, w1 := 0, uni := true, d := 8, size := 1, sext := true,
    lanes := [{ lane := 0, addr := 0, res := .bound 255 }], cls := [], trapen := 0, ready := 0 }] } }

theorem witness_Loads :
    (pm.c.replay = [] ∧ pm.lanes ≠ [] ∧ Defer16 pm ∧ Room (mm pm) pm.lanes.length) ∧
    (Ready (mm pm) (.ld .w false 8 2 0) pm ∧ ∀ L ∈ pm.lanes, Passes (mm pm) pm 1 (gea pm 2 0 (size .w) L) (size .w)) ∧
    (Ready (mm pm) (.lds .w false 8 4 (-1)) pm ∧
      Passes (mm pm) pm 1 (((pm.s2 4).toNat + (-1) * (size .w : Int)) % 2 ^ 64).toNat (size .w)) := by
  unfold Ready Room Passes Defer16; and_intros <;> decide

theorem witness_LoadResultArrives : ∀ n < 2, ∃ d, (st pl).pack me = some pl ∧ pl.c.deferred[n]? = some d ∧ (d.kind = .load ∨ d.kind = .priv) ∧
    d.ready ≤ (st pl).now ∧ (∀ l ∈ d.lanes, l.lane < 32 ∧ ∃ v, l.res = .bound v ∧ v < 2 ^ (8 * d.size)) ∧ d.cls = [] ∧ d.size ∈ [1, 2, 4, 8] ∧
    (d.lanes.map fun l => l.lane).Nodup ∧ (d.uni = true → ∃ l, d.lanes = [l] ∧ d.d ≠ 0) := by
  intro n hn
  have h : n = 0 ∨ n = 1 := by omega
  rcases h with rfl | rfl
  · refine ⟨_, rfl, rfl, .inl rfl, by decide, ?_, rfl, by decide, by decide, fun h => absurd h (by decide)⟩
    intro l hl
    have : l = { lane := 0, addr := 0, res := .bound (2 ^ 64 - 1) } ∨ l = { lane := 31, addr := 8, res := .bound 0 } := by simpa using hl
    rcases this with rfl | rfl <;> exact ⟨by decide, _, rfl, by decide⟩
  · refine ⟨_, rfl, rfl, .inl rfl, by decide, ?_, rfl, by decide, by decide, fun _ => ⟨_, rfl, by decide⟩⟩
    intro l hl
    have : l = { lane := 0, addr := 0, res := .bound 255 } := by simpa using hl
    obtain rfl := this
    exact ⟨by decide, _, rfl, by decide⟩

/-- Addresses out of line, past every region (v4 and s6) and past the views. -/
def pbad : Pack := pk 1 [(2, 0, 2), (4, 0, 0), (5, 0, 0x8000), (8, 0, 32768)] [(4, 62), (7, 0x8000)] [(1, 1)]

/-- A pack whose earlier store to the line is held. -/
def heldStore : State := core0 (fun c => { c with wake := [(0, { uid := 0, ctx := 0, asid := 1, va := 0, size := 4, data := 5, red := none, tag := 0, slot := 0, bearing := 0, conds := [], st := .held, kind := 0, chrono := 0, colour := none, applied := false, shared := false })] }) { mm pm with uid := 1 }

theorem witness_StoresAndAccessChecks :
    (pm.c.replay = [] ∧ Room (mm pm) pm.lanes.length ∧ Ready (mm pm) (.st .w 6 2 0 1) pm ∧
      ∀ L ∈ storing pm 1, Passes (mm pm) pm 2 (gea pm 2 0 (size .w) L) (size .w)) ∧
    (Ready heldStore (.st .w 6 2 0 1) pm ∧ Room heldStore pm.lanes.length ∧
      ∃ x ∈ (heldStore.core 0).wake, x.2.st = .held ∧ x.2.va / 64 = gea pm 2 0 4 0 / 64 ∧ x.2.uid < heldStore.uid) ∧
    (pbad.c.replay = [] ∧ pbad.id.colour = none ∧ Room (mm pbad) pbad.lanes.length ∧ Defer16 pbad ∧ (mm pbad).liveHolds pbad = [] ∧
      (mm pbad).covered (mm pbad).cur pbad = [] ∧ pbad.m.frameBad = [] ∧ pbad.r.trapen.toNat &&& 0x67 = 0) ∧
    (∀ b ∈ [2, 4], (∀ i ∈ [Instr.ld .w false 6 b 0, .st .w 6 b 0 1, .atom .add .i32 .dev .relaxed 6 b (.v 6), .fatom .add .dev .ar 6 b (.v 6),
        .red .add .i32 .dev .relaxed b (.v 6)], Ready (mm pbad) i pbad) ∧
      globalFails (mm pbad) pbad 1 4 pbad.lanes (gea pbad b 0 4) ≠ [] ∧ globalFails (mm pbad) pbad 2 4 (storing pbad 1) (gea pbad b 0 4) ≠ [] ∧
      globalFails (mm pbad) pbad 3 4 pbad.lanes (fun L => (pbad.v2 b L).toNat) ≠ [] ∧
      globalFails (mm pbad) pbad 2 4 pbad.lanes (fun L => (pbad.v2 b L).toNat) ≠ []) ∧
    (Ready (mm pbad) (.lds .w false 6 4 0) pbad ∧ (pbad.s2 4).toNat % 4 ≠ 0 ∧ Ready (mm pbad) (.lds .w false 6 6 0) pbad ∧
      (pbad.s2 6).toNat % 4 = 0 ∧ (mm pbad).permits pbad 1 (pbad.s2 6).toNat 4 = false) ∧
    ((∀ i ∈ [Instr.ldf .w false 6 8 0, .stf .w 6 8 0 1, .ldp .w false 6 8 0, .stp .w 6 8 0 1, .atomf .addI32 6 8 (.v 6)], Ready (mm pbad) i pbad) ∧
      viewFails 5 ((mm pbad).frameWords 0) 4 pbad.lanes (vea pbad 8 0 4) ≠ [] ∧ viewFails 6 ((mm pbad).privWords 0) 4 (storing pbad 1) (vea pbad 8 0 4) ≠ [] ∧
      viewFails 5 ((mm pbad).frameWords 0) 4 (storing pbad 1) (vea pbad 4 (-1) 4) ≠ [] ∧ viewFails 6 ((mm pbad).privWords 0) 4 pbad.lanes (vea pbad 4 (-1) 4) ≠ [] ∧
      viewFails 5 ((mm pbad).frameWords 0) 4 pbad.lanes (fun L => (pbad.v 8 L).toNat) ≠ []) ∧
    (Ready (withConsts (List.replicate 64 1) (st pbad)) (.ldc .h false 6 4 1) pbad ∧ ((pbad.s 4).toNat + 1 * 2 : Int) % 2 = 0 ∧
      (withConsts (List.replicate 64 1) (st pbad)).constBytes pbad.id.slot < ((pbad.s 4).toNat + 1 * 2 : Int) + 2 ∧
      ((pbad.s 4).toNat + 1 * 4 : Int) % 4 ≠ 0) := by
  unfold Ready Room Passes Defer16; and_intros <;> decide

/-- A signaling NaN to be added to a word of the frame. -/
def psnan : Pack := pk 1 [(6, 0, 0x7F800001)] [] []

/-- A block with private words. -/
def priv (s : State) : State := { s with blocks := [(0, { placedBlock [0x51000000] with priv := 8 })] }

theorem witness_ViewsAndFrameAtomics :
    (pm.c.replay = [] ∧ pm.m.frameBad = [] ∧ pm.m.privBad = [] ∧ pm.lanes ≠ [] ∧ Defer16 pm) ∧
    (Ready (st (pk 2 [(2, 1, 32764)] [(4, 60)] [])) (.ldf .w false 6 2 0) (pk 2 [(2, 1, 32764)] [(4, 60)] []) ∧
      ∀ L ∈ (pk 2 [(2, 1, 32764)] [(4, 60)] []).lanes, InView ((st pm).frameWords 0) (vea (pk 2 [(2, 1, 32764)] [(4, 60)] []) 2 0 4 L) 4) ∧
    (Ready (st pm) (.stf .b 6 4 0 2) pm ∧ ∀ L ∈ storing pm 2, InView ((st pm).frameWords 0) (vea pm 4 0 1 L) 1) ∧
    (Ready (priv (st pm)) (.ldp .h true 6 4 0) pm ∧ Ready (priv (st pm)) (.stp .h 6 4 0 2) pm ∧
      (∀ L ∈ pm.lanes, InView ((priv (st pm)).privWords 0) (vea pm 4 0 2 L) 2)) ∧
    (Ready (withConsts (List.replicate 64 1) (st (pk 2 [] [(4, 56)] []))) (.ldc .d false 6 4 0) (pk 2 [] [(4, 56)] []) ∧
      (((pk 2 [] [(4, 56)] []).s 4).toNat + 0 * 8 : Int) % 8 = 0 ∧
      (((pk 2 [] [(4, 56)] []).s 4).toNat + 0 * 8 : Int) + 8 ≤ (withConsts (List.replicate 64 1) (st pm)).constBytes 0 ∧
      (withConsts (List.replicate 64 1) (st pm)).constPoison 0 0 56 8 = false) ∧
    (Ready (st pm) (.atomf .addF32 6 4 (.v 6)) pm ∧ pm.id.colour = none ∧ ([0].foldl (atomfLane .addF32 pm 6 4 (.v 6)) (pm.m.frame, [])).2.map (fun e => e.2.2) = [0]) ∧
    (Ready (st psnan) (.atomf .addF32 6 4 (.v 6)) psnan ∧ psnan.c.replay = [] ∧ psnan.m.frameBad = [] ∧ psnan.id.colour = none ∧
      ([0].foldl (atomfLane .addF32 psnan 6 4 (.v 6)) (psnan.m.frame, [])).2.map (fun e => e.2.2) ≠ [0]) := by
  unfold Ready InView Defer16; and_intros <;> decide

theorem witness_AtomicsFencesAndPrefetch :
    (pm.c.replay = [] ∧ pm.lanes ≠ [] ∧ Defer16 pm ∧ Room (mm pm) pm.lanes.length ∧ (mm pm).liveHolds pm = [] ∧ (mm pm).covered (mm pm).cur pm = []) ∧
    (∀ i ∈ [Instr.atom .cas .n32 .dev .ar 6 2 (.v 6), .atom .add .i32 .core .relaxed 6 2 (.s 4), .fatom .add .die .acq 6 2 (.v 6),
      .red .min .i32 .sys .rel 2 (.v 6)], Ready (mm pm) i pm) ∧
    (∀ L ∈ pm.lanes, Passes (mm pm) pm 3 (pm.v2 2 L).toNat 4 ∧ Passes (mm pm) pm 2 (pm.v2 2 L).toNat 4) ∧
    (∀ i ∈ [Instr.fence .rel .core, .fence .acq .sys, .fence .ar .dev, .fence .sc .die, .pfx .l2 .w 2 0 0], Ready (mm pm) i pm) ∧
    pm.unboundUids = [] := by
  unfold Ready Room Passes Defer16; and_intros <;> decide

/-- A load slot of a line, and a pack that waits for it. -/
def loadSlot : Slot := { kind := .load, asid := 1, line := 0, opened := 0, closed := false, parked := false, data := [], mask := 0, entries := [], colour := none }

def pw : Pack := { p4 with c := { p4.c with deferred := [{
  uid := 3, kind := .load, idx := 0, w0 := 0, w1 := 0, uni := false, d := 5, size := 4, sext := false, lanes := [{ lane := 0, addr := 60, res := .wait 7 }],
  cls := [], trapen := 0, ready := 0 }] } }

def filling : State := core0 (fun c => { c with slots := [(7, loadSlot)] }) (mm pw)

/-- A wake-buffer entry. -/
def wk (uid : Nat) (st : WakeSt) : Wake := {
  uid := uid, ctx := 0, asid := 1, va := 0, size := 4, data := 5, red := none, tag := 0, slot := 0, bearing := 0, conds := [], st := st, kind := 0, chrono := 0, colour := none, applied := false, shared := false }

/-- A line write of bytes 3:0. -/
def fl (st : FlightSt) : Flight := { asid := 1, line := 0, data := [(0, 5)], mask := 15, entries := [0], colour := none, st := st }

/-- A valid line at its home slice. -/
def l2line : L2Line := { asid := 1, line := 0, data := [], valid := 2 ^ 64 - 1, dirty := 0, held := false, probes := 0, poison := false, colour := none }

def storing0 : State := core0 (fun c => { c with
  slots := [(0, { loadSlot with kind := .store, entries := [0] })], flights := [fl .sent, { fl .clean with line := 1 }], wake := [(0, wk 0 .pending), (1, wk 1 .held)] })
  { (mm p4).putL2 l2line with now := 64 }

/-- A store whose page is not mapped. -/
def failing : State := core0 (fun c => { c with flights := [{ fl .arrived with line := 1024 }], wake := [(0, { wk 0 .pending with va := 65536 })] })
  ((mm p4).putL2 { l2line with line := 1024, probes := 1 })

/-- The fill that the L1 answers. -/
def fillingL1 : State := core0 (fun c => { c with l1 := [{ asid := 1, line := 0, data := [], poison := false, colour := none }] }) filling

/-- The same with a later store of the waiting lane to the same bytes. -/
def fillingPast : State := core0 (fun c => { c with wake := [(0, { wk 5 .pending with va := 60 })] }) fillingL1

theorem witness_FillsAndStorePath :
    ((∀ w ∈ (fillingL1.core 0).waiters 7, ¬Precedes (fillingL1.core 0) loadSlot w) ∧
      (∃ w ∈ (fillingPast.core 0).waiters 7, Precedes (fillingPast.core 0) loadSlot w) ∧
      isData (fillingPast.homeRead 1 0 64 none .read) (fun u _ _ => decide (u.core 0 = fillingPast.core 0)) = true) ∧
    (∀ s ∈ [filling, fillingL1, fillingPast], (s.core 0).slots.find 7 = some loadSlot ∧ loadSlot.kind = .load ∧ loadSlot.parked = false ∧ (s.core 0).waiters 7 ≠ [] ∧
      ∀ w ∈ (s.core 0).waiters 7, (s.core 0).fillWaits 1 7 w = false ∧ w.addr % 64 + w.size ≤ 64) ∧
    ((filling.core 0).l1line 1 0 none = none ∧
      isData (filling.homeRead 1 0 64 none .read) (fun u _ _ => decide (u.core 0 = filling.core 0)) = true ∧
      ((fillingL1.core 0).l1line 1 0 none).isSome = true) ∧
    (∃ sl, (storing0.core 0).slots.find 0 = some sl ∧ sl.kind = .store ∧ sl.opened + 64 ≤ storing0.now) ∧
    ((storing0.core 0).flights[0]? = some (fl .sent) ∧ (fl .sent).st = .sent ∧ (fl .sent).colour = none ∧ (storing0.core 0).flights.take 0 = [] ∧
      (∀ i ∈ (fl .sent).entries, ∀ w ∈ (storing0.core 0).wake.find i,
        (storing0.core 0).loadBefore (bearingSerial w.bearing) (bearingLane w.bearing) w.uid w.va = false ∧
        (storing0.core 0).atomBefore (bearingSerial w.bearing) (bearingLane w.bearing) w.uid w.va = false) ∧
      storing0.l2 1 0 none = some l2line) ∧
    ((storing0.core 0).flights[1]? = some { fl .clean with line := 1 }) ∧
    (∃ f x, (failing.core 0).flights[0]? = some f ∧ f.st = .arrived ∧ f.entries = [0] ∧
      (failing.core 0).wake.find 0 = some { wk 0 .pending with va := 65536 } ∧ failing.ctx 0 = some x ∧ x.st = .running ∧
      ((failing.core 0).raised = [] ∧ (failing.core 0).outbound.length < 512) ∧
      (match failing.translate f.asid (f.line * 64) .write f.colour with | .fault _ => true | _ => false) = true) ∧
    ((storing0.core 0).wake.find 1 = some (wk 1 .held) ∧ (wk 1 .held).red = none ∧ (wk 1 .held).conds.all storing0.met = true ∧
      (storing0.core 0).heldBefore (wk 1 .held) = false ∧ (storing0.core 0).slots.length + 33 ≤ 256 ∧
      (storing0.core 0).laterStore (wk 1 .held) (storing0.lineColour 1 0 none) = false) := by
  refine ⟨by unfold Precedes; and_intros <;> decide, by decide, by and_intros <;> decide, ⟨_, rfl, rfl, by decide⟩, by and_intros <;> decide, by decide, ⟨_, _, rfl, rfl, rfl, by decide, rfl, rfl, by decide, by decide⟩,
    by and_intros <;> decide⟩

/-- An atomic at its slot, with its line at the home slice. -/
def atomSlot (ty : Option IntTy) : Slot := { loadSlot with kind := .atom { uid := 3, serial := 0, lane := 0, addr := 60, size := 4, op := .cas, ty := ty, arg := 9, cmp := 0, wake := none } }

def atoming : State := core0 (fun c => { c with slots := [(7, atomSlot (some .i32))] }) ((mm p4).putL2 l2line)

/-- The same with its page not mapped. -/
def atomFault : State := core0 (fun c => { c with slots := [(7, { atomSlot (some .i32) with line := 1024, kind := .atom { uid := 3, serial := 0, lane := 0, addr := 65536, size := 4, op := .add, ty := some .i32, arg := 9, cmp := 0, wake := none } })] }) (mm p4)

/-- The same with its line poisoned. -/
def poisoned : State := atoming.putL2 { l2line with poison := true }

/-- A RED of wake entry 0 on a page that is not mapped. -/
def redReq : AtomReq := { uid := 3, serial := 0, lane := 0, addr := 65536, size := 4, op := .add, ty := some .i32, arg := 9, cmp := 0, wake := some 0 }
def redSlot : Slot := { loadSlot with kind := .atom redReq, line := 1024 }
def redFault : State := core0 (fun c => { c with slots := [(7, redSlot)], wake := [(0, { wk 3 .pending with va := 65536, red := some (.add, .i32) })] }) (mm p4)

theorem witness_AtomicsAndEvictions :
    ((atoming.core 0).slots.find 7 = some (atomSlot (some .i32)) ∧ (atomSlot (some .i32)).parked = false ∧ (atomSlot (some .i32)).colour = none ∧
      (atoming.core 0).storeBefore 1 0 0 3 0 60 4 = false ∧ (atoming.core 0).loadBefore 0 0 3 60 = false ∧
      (∀ a, (atomSlot (some .i32)).kind = .atom a → (atoming.core 0).atomEarlier a = false ∧ a.wake = none ∧ a.addr % a.size = 0 ∧ a.addr / 64 = 0 ∧
        a.arg < 2 ^ (8 * a.size)) ∧
      (match atoming.translate 1 60 .atomic none with | .ok _ _ => true | _ => false) = true ∧
      isData (atoming.homeRead 1 60 4 none .atomic) (fun u bs p => decide (bs = leBytes 4 0 ∧ p = false ∧ u.core 0 = atoming.core 0 ∧ u.ctxs = atoming.ctxs ∧
        u.retr = atoming.retr ∧ (u.l2 1 0 none).any (fun l => !l.poison) = true)) = true) ∧
    (∃ sl, (atomFault.core 0).slots.find 7 = some sl ∧ sl.parked = false ∧ sl.line = 65536 / 64 ∧
      (match atomFault.translate sl.asid 65536 .atomic none with | .fault _ => true | _ => false) = true) ∧
    (isData (poisoned.homeRead 1 60 4 none .atomic) (fun u _ p => decide (p = true ∧ u.core 0 = poisoned.core 0)) = true ∧
      (match poisoned.translate 1 60 .atomic none with | .ok _ _ => true | _ => false) = true) ∧
    (∀ s ∈ [redFault, redFault.putL2 { l2line with line := 1024 }], (s.core 0).slots.find 7 = some redSlot ∧ redSlot.kind = .atom redReq ∧
      redReq.wake = some 0 ∧ redReq.ty = some .i32 ∧ redReq.op ≠ .cas ∧ redSlot.line = redReq.addr / 64 ∧ redReq.addr % redReq.size = 0 ∧
      (s.core 0).storeBefore 1 0 0 3 0 65536 4 = false ∧ (s.core 0).loadBefore 0 0 3 65536 = false ∧ (s.core 0).atomEarlier redReq = false ∧
      (match s.translate 1 65536 .atomic none with | .fault _ => true | _ => false) = true) ∧
    (redFault.l2 1 1024 none = none ∧ (redFault.putL2 { l2line with line := 1024 }).l2 1 1024 none = some { l2line with line := 1024 } ∧
      l2line.valid &&& byteMask 0 4 = byteMask 0 4) ∧
    (atoming.mem.l2.find? (fun x => x.asid == 1 && x.line == 0 && !x.held && x.probes == 0) = some l2line ∧ l2line.unsaved = false ∧
      atoming.l2 1 0 l2line.colour = some l2line) := by
  refine ⟨⟨by decide, by decide, by decide, by decide, by decide, ?_, by decide, by decide⟩, ⟨_, rfl, rfl, by decide, by decide⟩, by decide, by decide, by decide, by and_intros <;> decide⟩
  intro a h
  have h : a = { uid := 3, serial := 0, lane := 0, addr := 60, size := 4, op := .cas, ty := some .i32, arg := 9, cmp := 0, wake := none } := by
    simpa [atomSlot] using h.symm
  subst h
  decide

/-- A lane whose tag in v2 and v3 is of level 7, with no block for its number in v4. -/
def p7 : Pack := pk 1 [(3, 0, 0xE0000000), (4, 0, 5)] [] []

theorem witness_CopiesAndSends :
    (pm.c.replay = [] ∧ (mm pm).copyCount (mm pm).cur.core + pm.lanes.length + 8 ≤ 64 ∧
      Ready (mm pm) (.cpy .f 0 false .dev 4 2 (.s 4) 0 0 0) pm ∧
      ∀ L ∈ pm.lanes, cpyCause (mm pm) pm .f 0 (cpyArgs .f pm 4 2 (.s 4) 0 L) = none) ∧
    (Ready (mm pm) (.cpy .m 0 true .sys 2 8 (.s 4) 0 3 65535) pm ∧
      ∀ L ∈ pm.lanes.take 1, cpyCause (mm pm) pm .m 0 (cpyArgs .m pm 2 8 (.s 4) 0 L) = none) ∧
    (pbad.c.replay = [] ∧ pbad.id.colour = none ∧ (mm pbad).copyCount 0 + 1 + 8 ≤ 64 ∧
      (∀ i ∈ [Instr.cpy .f 0 false .dev 4 2 (.s 7) 0 0 0, .cpy .h 0 true .dev 4 8 (.s 7) 0 0 0, .cpy .t 0 false .dev 4 6 (.s 7) 1 0 0], Ready (mm pbad) i pbad) ∧
      cpyCause (mm pbad) pbad .f 0 (cpyArgs .f pbad 4 2 (.s 7) 0 0) = some 4 ∧
      cpyCause (mm pbad) pbad .h 0 (cpyArgs .h pbad 4 8 (.s 7) 0 0) = some 5 ∧
      cpyCause (mm pbad) pbad .t 0 (cpyArgs .t pbad 4 6 (.s 7) 1 0) = some 12) ∧
    ((∀ i ∈ [Instr.send (.lane 2) 6 8 1 (some .dev) 3 0xFFFF, .send (.uni 4) 6 0 0 none 0 0, .send .self 6 1 2 none 0 0, .sendm .self 6 1 1 none 4],
        Ready (mm pm) i pm) ∧ ((mm pm).core (mm pm).cur.core).outbound.length + pm.lanes.length + 32 ≤ 512 ∧
      (∀ L ∈ storing pm 1, maySend pm L (tagOfLane pm (.lane 2) L) = true ∧ maySend pm L (tagOfLane pm .self L) = true) ∧
      ∀ L ∈ storing pm 1, ((mm pm).mapBlock pm.id.slot ((pm.v 4 L).toNat % 2 ^ 16)).isSome = true) ∧
    (0 ∈ storing p7 0 ∧ p7.id.colour = none ∧ p7.c.replay = [] ∧ Ready (st p7) (.send (.lane 2) 6 1 0 none 0 0) p7 ∧
      Ready (st p7) (.sendm (.lane 2) 6 1 0 none 4) p7 ∧ maySend p7 0 (tagOfLane p7 (.lane 2) 0) = false ∧
      (st p7).mapBlock p7.id.slot ((p7.v 4 0).toNat % 2 ^ 16) = none) := by
  unfold Ready; and_intros <;> decide

/-- A pack of one lane of a level. -/
def plev (l : Nat) : Pack := { pk 1 [] [] [] with id := { (pk 1 [] [] []).id with tags := [BitVec.ofNat 64 (l * 2 ^ 61 + 9)] } }

/-- A pack with a report pending. -/
def prep : Pack := { p4 with c := { p4.c with reports := [{ idx := 0, w0 := 0, w1 := 0, replay := false, lanes := [{ lane := 0, cause := 9, detail := 0, addr := 0 }] }] } }

theorem witness_SpawnReturnAndEnd :
    (∀ l ∈ [0, 5], (plev l).c.replay = [] ∧ Ready (st (plev l)) (.spawn 2 6 8 3 0 3 0 65535) (plev l) ∧
      ∀ L ∈ storing (plev l) 0, (own (plev l) L).toNat / 2 ^ 61 < 6) ∧
    (∀ l ∈ [1, 6], Ready (st (plev l)) (.ret 2 8 (some .sys)) (plev l) ∧
      ∀ L ∈ (plev l).lanes, (own (plev l) L).toNat / 2 ^ 61 ≠ 0 ∧ (own (plev l) L).toNat / 2 ^ 61 ≠ 7) ∧
    ((st (plev 0)).core 0).alloc.length + ((st (plev 0)).core 0).spawned.length + 1 ≤ 64 ∧ ((st (plev 0)).core 0).outbound.length + 1 + 32 ≤ 512 ∧
    (∀ l ∈ [6, 7], 0 ∈ storing (plev l) 0 ∧ (plev l).id.colour = none ∧ 6 ≤ (own (plev l) 0).toNat / 2 ^ 61 ∧
      Ready (st (plev l)) (.spawn 2 6 8 3 0 3 0 65535) (plev l)) ∧
    (∀ l ∈ [0, 7], 0 ∈ (plev l).lanes ∧ ((own (plev l) 0).toNat / 2 ^ 61 = 0 ∨ (own (plev l) 0).toNat / 2 ^ 61 = 7) ∧
      Ready (st (plev l)) (.ret 2 8 (some .sys)) (plev l)) ∧
    (Ready (st p4) .endBlock p4 ∧ p4.c.batches = [] ∧ p4.c.deferred = [] ∧ p4.c.reports = []) ∧
    (Ready (st prep) .endBlock prep ∧ prep.c.batches = [] ∧ prep.c.deferred = [] ∧ prep.c.reports ≠ [] ∧ prep.id.colour = none) := by
  unfold Ready; and_intros <;> decide

theorem witness_TagsClockAndSoftwareTraps :
    (∀ i ∈ [Instr.idxF 5 0, .tagc 62, .mktag 4 2, .mktagColour 4 2 (.s 3), .clock 0, .clock 30, .trap 0, .brk 262143], Ready (st p4) i p4) ∧
    (st p4).widths p4.id.slot = [48, 0, 0, 0, 0, 0] ∧ [48, 0, 0, 0, 0, 0].sum ≤ 48 ∧ p4.c.replay = [] ∧ p4.id.colour = none := by
  unfold Ready; decide

theorem witness_ControlRegisters :
    (∀ sel ∈ [Ctl.fpctl, .trapen, .flags, .mxcnt, .ctxid, .priv, .leash, .faultq], Ready (st p4) (.movcRead 31 sel) p4) ∧
    (∀ sel ∈ [Ctl.fpctl, .trapen, .flags, .mxcnt], Ready (st p4) (.movcWrite 3 sel) p4) ∧ (st p4).ctx p4.id.ctx = some placedCtx := by
  unfold Ready; decide

/-- A pack with no privilege and with a poisoned uniform register. -/
def pun : Pack := { p4 with id := { p4.id with priv := false }, r := { p4.r with sBad := [5] }, m := { p4.m with tiles := [0] } }

/-- A pack with a poisoned register of lane 2. -/
def pvb : Pack := { p4 with r := { p4.r with vBad := [2 * 32 + 2] } }

/-- The test context with no harbour commands. -/
def noHcen : State := ctx0 (fun x => { x with r := { x.r with priv := 3 } }) (st p4)

/-- A recompute pack of tile 0 at the Retriever of its die. -/
def prun : Pack := { pun with id := { pun.id with colour := some 1 } }
def recomputing : State := { st prun with retr := [(0, { queue := [], stack := [{ ctx := 0, rix := 0, done := 0, phase := .running, frame := 0, since := 0 }], colour := some 1 })] }

theorem witness_IllegalAndPrivilegedInstructionsTrap :
    (st pun).pack (st pun).cur = some pun ∧ pun.c.replay = [] ∧ pun.id.colour = none ∧ Ready (st pun) (.unassignedOpcode 0) pun ∧
    (∃ b, (on [0x51000001, 0] pun).block pun.id.slot = some b ∧ decodeWords (b.code.getD pun.c.pc 0) b.code[pun.c.pc + 1]? = .error .reservedField) ∧
    ¬Within pun (.tzero 1) ∧ Marked (.rebind 4 6) ∧ pun.id.priv = false ∧
    (Harbour (.hcmdQuery 8 9 10) ∧ (noHcen.ctx 0).any (fun x => !x.r.priv.testBit 2) = true) ∧
    (Within pun (.movsUniform 4 5) ∧ (st pun).privOk pun (.movsUniform 4 5) = true ∧ UniformBad pun (.movsUniform 4 5) ∧ pun.lanes ≠ []) ∧
    (Within pvb (.shfl .up 1 2 (.s 3)) ∧ (st pvb).privOk pvb (.shfl .up 1 2 (.s 3)) = true ∧ badOf pvb (.shfl .up 1 2 (.s 3)) ≠ [] ∧
      badOf pvb (.add false .i32 1 2 (.v 3)) = [2]) := by
  refine ⟨by decide, rfl, rfl, by unfold Ready; decide, ⟨_, rfl, by rfl⟩, by unfold Within; decide, trivial, rfl, ⟨trivial, by decide⟩,
    ⟨by unfold Within; decide, by decide, ⟨5, by decide, by decide⟩, by decide⟩, by unfold Within; decide, by decide, by decide, by decide⟩

theorem witness_NoPoisonedUniform : ¬UniformBad pvb (.shfl .up 1 2 (.s 3)) ∧ ¬UniformBad pvb (.add false .i32 1 2 (.v 3)) := by
  constructor <;> (rintro ⟨r, -, h⟩; exact absurd h (by simp [pvb, p4, pk, placedPack]))

theorem witness_RecomputePackEnds : recomputing.pack recomputing.cur = some prun ∧ prun.c.replay = [] ∧ prun.id.colour = some 1 ∧
    ∃ q g rest, recomputing.retrOf 1 = some (0, q) ∧ q.stack = g :: rest ∧ g.phase = .running := ⟨by decide, rfl, rfl, _, _, _, rfl, rfl, rfl⟩

/-- A pack that has stopped and has drained, with one report. -/
def pdrain : Pack := { p4 with c := { prep.c with st := .drain, trap := { idx := 0, resume := 1, code := 0, entry := some 0, cause := 0 } } }

theorem witness_TrapEntryWritesTheFrame :
    InRange me ∧ (st pdrain).pack me = some pdrain ∧ (st pdrain).ctx pdrain.id.ctx = some placedCtx ∧ placedCtx.st = .running ∧
    pdrain.id.colour = none ∧ pdrain.c.st = .drain ∧ pdrain.c.deferred = [] ∧ pdrain.c.batches = [] ∧ (∀ k ∈ pdrain.m.tiles, k < 16) ∧
    pdrain.c.reports.length ≤ 17 ∧ (st pdrain).mem.l2.length + 4352 ≤ 2 ^ 20 ∧ ((st pdrain).core 0).raised = [] ∧ (∀ o ∈ (((st pdrain).core 0).pipe 1).queue, o.serial ≠ pdrain.id.serial) ∧
    (∀ e ∈ ((st pdrain).core 0).copies, ¬(e.2.serial = pdrain.id.serial ∧ e.2.mode = .t)) ∧ ((st pdrain).core 0).outbound.length < 512 := by
  unfold InRange; and_intros <;> decide

/-- A trapped pack that TRESUME has named. -/
def presume : Pack := { p4 with c := { pdrain.c with st := .trapped, resume := some 0 } }

theorem witness_PackResumptionReloads :
    InRange me ∧ (st presume).pack me = some presume ∧ (st presume).ctx presume.id.ctx = some placedCtx ∧ placedCtx.st = .running ∧
    presume.id.colour = none ∧ presume.c.st = .trapped ∧ presume.c.resume = some 0 ∧ presume.id.n ≤ 32 ∧ (∀ k ∈ presume.m.tiles, k < 16) ∧
    (∀ j < presume.c.reports.length, (st presume).frameWord placedCtx.r.asid me (256 + 88 * j + 3) % 256 ≠ 1) := by
  unfold InRange; and_intros <;> decide

/-- The same after a code fetch that failed, with the code still bad, and with a line of its frame poisoned. -/
def pfetch : Pack := { presume with c := { presume.c with trap := { presume.c.trap with cause := 20 } } }
def refetch : State := core0 (fun c => { c with st := { c.st with codeBad := [0] } })
  ((st pfetch).putL2 { l2line with line := frameVa me / 64 + 32, poison := true })

theorem witness_PackResumptionRefetches :
    refetch.pack me = some pfetch ∧ pfetch.c.trap.cause = 20 ∧ pfetch.id.slot ∈ (refetch.core me.core).st.codeBad ∧ pfetch.c.st = .trapped ∧
    refetch.peekBad placedCtx.r.asid (frameVa me + 4 * 512) 4 = true := by
  and_intros <;> decide

/-- The frame of the same with its entry in state 1, for lane 1, of cause 8. -/
def replaying : State :=
  let at_ := fun (s : State) (w v : Nat) =>
    let a := frameVa me + 4 * w
    s.homeWrite 1 (a / 64) (lineData (a % 64) (leBytes 4 v)) (byteMask (a % 64) 4) none
  at_ (at_ (at_ (st presume) 259 1) 258 2) 264 (8 * 65536)

theorem witness_PackResumptionReplays :
    replaying.pack me = some presume ∧ (∃ e, presume.c.reports = [e]) ∧ replaying.frameWord placedCtx.r.asid me 259 % 256 = 1 ∧ 1 < presume.id.n ∧
    (replaying.frameWord placedCtx.r.asid me 258).testBit 1 = true ∧
    replaying.frameWord placedCtx.r.asid me 264 / 2 ^ 16 % 256 = 8 := by
  refine ⟨by decide, ⟨_, rfl⟩, by and_intros <;> decide⟩

/-- The slot of a second pack, handle 17, and a pack that names it in s4. -/
def them : PackRef := { core := 0, pipe := 1, slot := 1 }
def p17 : Pack := pk 1 [] [(4, 17)] []
def ptrap : Pack := { presume with c := { presume.c with resume := none } }
def twoPacks (t : Pack) : State := (st p17).setPack them t

theorem witness_TrappedPackInstructions :
    InRange them ∧ InRange me ∧ them ≠ me ∧ (twoPacks ptrap).cur = me ∧ Still (twoPacks ptrap) p17 ∧ (p17.s 4).toNat = 0 * 64 + 1 * 16 + 1 ∧
    (∀ i ∈ [Instr.tresume 4, .tskip 4, .tkill 4], Ready (twoPacks ptrap) i p17 ∧ Ready (st p17) i p17) ∧
    (twoPacks ptrap).pack them = some ptrap ∧ ptrap.c.st = .trapped ∧ ptrap.c.resume = none ∧ ptrap.id.ctx = p17.id.ctx ∧
    (twoPacks { ptrap with id := { ptrap.id with ctx := 1 } }).pack them = some { ptrap with id := { ptrap.id with ctx := 1 } } ∧
    (st p17).pack them = none ∧ (twoPacks p17).pack them = some p17 ∧ p17.c.st ≠ .trapped ∧ p17.c.resume = none := by
  unfold InRange Still Ready; and_intros <;> decide

/-- A pack with handles of a store record, a copy record, and out of form. -/
def pform : Pack := pk 1 [] [(4, 192 * 64), (5, 2 ^ 17 + 511), (6, 2 ^ 18), (7, 2 ^ 17 + 192 * 512)] []

theorem witness_HandlesOutOfForm :
    Still (st pform) pform ∧ (∀ d ∈ [4, 5], 192 * 64 ≤ (pform.s d).toNat ∧ (pform.s d).toNat < 2 ^ 18 ∧ (pform.s d).toNat / 512 % 256 < 192) ∧
    ((pform.s 4).toNat < 2 ^ 17 ∧ (pform.s 4).toNat / 512 < 192) ∧ 2 ^ 18 ≤ (pform.s 6).toNat ∧ 192 ≤ (pform.s 7).toNat / 512 % 256 ∧
    ∀ d ∈ [4, 5, 6, 7], ∀ i ∈ [Instr.tresume d, .tskip d, .tkill d], Ready (st pform) i pform := by
  unfold Still Ready; and_intros <;> decide

/-- A pack that names the wake-buffer entry 511 in s4, the copy-queue entry 511 in s5, and no record in s6. -/
def ph : Pack := let p := pk 1 [] [(4, 511), (5, 2 ^ 17 + 511), (6, 2 ^ 18), (7, 512)] [];
  { p with id := { p.id with serial := 1 } }

/-- A copy record. -/
def cp (st : CopySt) : Copy := {
  uid := 9, ctx := 0, mode := .m, serial := 0, pipe := 1, tile := 0, batch := 0, src := 0, dst := 0, len := 8, es := 0, aux := 0, img := 0, slot := 0, port := 0,
  tag := 0, bslot := 0, bearing := 0, cond := { sc := .dev, uids := [] }, st := st, done := [0], bad := [(1, 2, 65540)], poison := false, handler := false,
  colour := none, chrono := 0, pkts := [] }

/-- The records; the store's page is mapped at 0 and not at 65536. -/
def recordsOf (p : Pack) (st : WakeSt) (va : Nat) : State :=
  core0 (fun c => { c with wake := [(511, { wk 5 st with va := va })], copies := [(511, cp (if st = .faulted then .faulted else .replaying))] }) (mm p)
def records : WakeSt → Nat → State := recordsOf ph

theorem witness_FaultRecords :
    (Still (records .faulted 0) ph ∧ Still (records .replaying 0) ph ∧
      (∀ i ∈ [Instr.replay 4, .replay 5, .tkill 5], Ready (records .replaying 0) i ph) ∧ (ph.s 4).toNat < 2 ^ 17 ∧ (ph.s 4).toNat / 512 < 192 ∧
      ((records .faulted 0).core 0).wake.find ((ph.s 4).toNat % 512) = some { wk 5 .faulted with va := 0 } ∧ (wk 5 .faulted).ctx = ph.id.ctx) ∧
    (((records .replaying 0).core 0).wake.find 511 = some { wk 5 .replaying with va := 0 } ∧ (wk 5 .replaying).uid = 5 ∧ (wk 5 .replaying).ctx = ph.id.ctx ∧
      (match (records .replaying 0).translate 1 0 .write none with | .ok _ _ => true | _ => false) = true ∧
      (match (records .replaying 65536).translate 1 65536 .write none with | .fault _ => true | _ => false) = true) ∧
    (2 ^ 17 ≤ (ph.s 5).toNat ∧ (ph.s 5).toNat < 2 ^ 18 ∧ (ph.s 5).toNat / 512 % 256 < 192 ∧
      ((records .faulted 0).core ((ph.s 5).toNat / 512 % 256)).copies.find ((ph.s 5).toNat % 512) = some (cp .faulted) ∧ (cp .faulted).mode ≠ .t ∧
      (cp .faulted).ctx = ph.id.ctx ∧ (cp .replaying).ctx = ph.id.ctx) ∧
    ((ph.s 7).toNat < 2 ^ 17 ∧ ((records .faulted 0).core ((ph.s 7).toNat / 512)).wake.find ((ph.s 7).toNat % 512) = none ∧ 2 ^ 18 ≤ (ph.s 6).toNat) ∧
    (∀ i ∈ [Instr.replay 4, .replay 5, .replay 6, .replay 7, .tkill 5, .faultrd 8 4 0, .faultrd 8 5 15, .faultrd 8 6 3], Ready (records .faulted 0) i ph) ∧
    Defer16 ph ∧ ph.c.replay = [] ∧ InRange (records .faulted 0).cur := by
  unfold Still Ready Defer16 InRange; and_intros <;> decide

/-- A pack of another context, the records standing to context 0. -/
def pother : Pack := { ph with id := { ph.id with ctx := 1 } }

theorem witness_RecordsOfAnotherContext : ∀ st ∈ [WakeSt.faulted, .replaying],
    Still (recordsOf pother st 0) pother ∧ (wk 5 st).ctx ≠ pother.id.ctx ∧ (cp .faulted).ctx ≠ pother.id.ctx ∧ Defer16 pother ∧
    (∀ i ∈ [Instr.replay 4, .replay 5, .tkill 5, .faultrd 8 4 0, .faultrd 8 5 15], Ready (recordsOf pother st 0) i pother) ∧
    (∀ w ∈ ((recordsOf pother st 0).core ((ph.s 4).toNat / 512)).wake.find ((ph.s 4).toNat % 512), w.ctx ≠ pother.id.ctx) ∧
    (∀ e ∈ (recordsOf pother st 0).cores, ∀ c ∈ e.2.copies, c.2.ctx ≠ pother.id.ctx) := by
  unfold Still Ready Defer16; decide

/-- A copy of two words, the first moved, under REPLAY: its second word goes to the mapped page, or to one that is not mapped. -/
def recopy (mode : CpyMode) (dst : Nat) (q : Copy → Copy) : State :=
  core0 (fun c => { c with copies := [(511, q { cp .replaying with mode := mode, dst := dst, bad := [] })] }) (mm ph)

theorem witness_CopyReplays :
    (∀ s ∈ [recopy .m 8 id, recopy .m 65536 id], ((s.core 0).copies.find 511).any (fun c => c.st == .replaying && c.uid == 9) = true) ∧
    (((recopy .m 8 id).moveAll 0 511).core 0).copies.find 511 = some { cp .replaying with dst := 8, bad := [], done := [0, 1] } ∧
    ((((recopy .m 65536 id).moveAll 0 511).core 0).copies.find 511).any (fun q => q.done.length + q.bad.length == q.words && q.bad != []) = true ∧
    (((recopy .m 8 id).moveAll 0 511).core 0).outbound.length < 480 ∧
    (∃ q, ((recopy .remote 8 fun c => { c with done := [0, 1] }).core 0).copies.find 511 = some q ∧ q.mode = .remote ∧ q.bad = [] ∧
      q.done.length + q.bad.length = q.words) := by
  refine ⟨by decide, by decide, by decide, by decide, ⟨_, rfl, rfl, rfl, by decide⟩⟩

/-- A pack with an address in s4 and s5, lengths in s6, s7 and s8, and block slots in s9 and s10. -/
def pwb : Pack := pk 1 [] [(4, 64), (6, 128), (7, 32), (8, 0xFFFFFFC0), (9, 0), (10, 1), (11, 2), (12, 3)] []

/-- A range with a dirty line, and with a held one, one whose probe is unanswered, and a poisoned one of another colour. -/
def wbLine : L2Line := { l2line with line := 1, dirty := 15, data := lineData 0 (leBytes 4 77) }
def cleaning (p : Pack) : State := (mm p).putL2 wbLine
def heldLines (p : Pack) : State :=
  (((mm p).putL2 { wbLine with held := true }).putL2 { wbLine with line := 2, probes := 1 }).putL2 { wbLine with line := 2, colour := some 9, poison := true }

/-- Two bound slots of context 0, and one of context 1. -/
def blocks2 (s : State) : State :=
  { s with blocks := [(0, placedBlock [0x51000000]), (1, placedBlock [0x51000000]), (3, { placedBlock [] with ctx := 1 })] }

theorem witness_WriteBackAndRebind :
    (Still ((mm pwb).putL2 l2line) pwb ∧ pwb.id.colour = none ∧ (pwb.s2 4).toNat % 64 = 0 ∧ (pwb.s 6).toNat % 64 = 0 ∧
      ((mm pwb).putL2 l2line).permitsAny pwb (pwb.s2 4).toNat (pwb.s 6).toNat = true ∧
      (pwb.s 7).toNat % 64 ≠ 0 ∧ (st pwb).permitsAny pwb (pwb.s2 4).toNat (pwb.s 6).toNat = false) ∧
    (∀ i ∈ [Instr.cwbi 4 6, .cwbi 4 7], Ready ((mm pwb).putL2 l2line) i pwb ∧ Ready (st pwb) i pwb) ∧
    (∀ s ∈ [cleaning pwb, heldLines pwb], Ready s (.cwbi 4 6) pwb ∧ Still s pwb ∧ s.permitsAny pwb (pwb.s2 4).toNat (pwb.s 6).toNat = true) ∧
    ((cleaning pwb).lineHome wbLine = some (0x20040, some (tableBase + 12288, false)) ∧ wbLine.ops = [] ∧ wbLine.unsaved = true ∧
      (cleaning pwb).mem.l2 = [wbLine] ∧ (cleaning pwb).asid pwb.id.ctx = wbLine.asid ∧ wbLine.held = false ∧ wbLine.probes = 0 ∧
      0x20040 + 64 ≤ tableBase + 12288) ∧
    ((heldLines pwb).mem.l2.filter (fun l => l.held || l.probes != 0 || l.colour.isSome)).length = 3 ∧
    (pwb.c.replay = [] ∧ (∀ i ∈ [Instr.rebind 9 10, .rebind 11 9, .rebind 12 9, .rebind 9 9, .rebind 9 11, .rebind 9 12], Ready (blocks2 (st pwb)) i pwb) ∧
      (blocks2 (st pwb)).block 2 = none ∧ (blocks2 (st pwb)).block 0 = some (placedBlock [0x51000000]) ∧
      (blocks2 (st pwb)).block 1 = some (placedBlock [0x51000000]) ∧ (placedBlock []).ctx = pwb.id.ctx ∧
      ((blocks2 (st pwb)).block 3).any (fun k => k.ctx != pwb.id.ctx) = true ∧ (pwb.s 12).toNat % 2 ^ 16 = 3 ∧
      (∀ z ∈ (blocks2 (st pwb)).images.find 0, z.pure = false) ∧
      ((({ blocks2 (st pwb) with images := [(0, { placedImage with pure := true })] } : State).images.find 0).any fun z => z.pure) = true ∧
      (∀ e ∈ ({ blocks2 (st pwb) with cores := [] } : State).cores, (∀ n ∈ e.2.entries, n.slot ≠ 0) ∧ ∀ q ∈ e.2.packs, q.2.id.slot ≠ 0) ∧
      ∃ e ∈ (core0 (fun c => { c with entries := [{ tag := 9, slot := 0, ctx := 0, pres := 1, st := .part, acq := 0, seq := 0, pay := [], entered := 0, handler := false, cov := [] }] })
        (blocks2 (st pwb))).cores, ∃ n ∈ e.2.entries, n.slot = 0) := by
  unfold Still Ready; and_intros <;> decide

/-- A record of the tile at 0. -/
def rec0 (st : RecSt) : Rec := {
  tile := 0, sources := [], pinsrc := [], params := [0, 0, 0, 0], crc := 0, entry := 3, depth := 0, st := st, busy := 0, deps := 0, pinners := 0, pins := 0,
  chrono := 0, misses := 0 }

/-- The tile at 0 mapped and recorded. -/
def recs (p : Pack) (t : Rec) : State := ctx0 (fun x => { x with recipes := [(8191, t)] }) (mm p)

/-- The context of the test states with a list of records. -/
def ctxOf (s : State) : Ctx := (s.ctx 0).getD placedCtx

theorem witness_RecipeInstructions :
    (∀ t ∈ [rec0 .sealed, { rec0 .sealed with pins := 1 }, rec0 .dropped, { rec0 .sealed with deps := 1 }, rec0 .regen, rec0 .pinned, rec0 .failed,
        { rec0 .pinned with pins := 65535 }, { rec0 .pinned with pins := 2 }],
      Acts (recs p4 t) p4 (ctxOf (recs p4 t)) (p4.s2 8).toNat 1 ∧ (ctxOf (recs p4 t)).recipes.find 8191 = some t ∧ t.tile = (p4.s2 8).toNat ∧
      (∀ e ∈ (ctxOf (recs p4 t)).recipes, e.2.tile = (p4.s2 8).toNat → e = (8191, t)) ∧
      ∀ i ∈ [Instr.rdrop 8, .rfree 8, .rpin false 8, .rpin true 8, .rstat 5 8], Ready (recs p4 t) i p4) ∧
    (recs p4 (rec0 .sealed)).walk tableBase 0 = .leaf (tableBase + 12288) 0x2000B false ∧ (recs p4 (rec0 .sealed)).mem.l2 = [] ∧
    (Acts (mm p4) p4 (ctxOf (mm p4)) (p4.s2 8).toNat 1 ∧ (∀ e ∈ (ctxOf (mm p4)).recipes, e.2.tile ≠ (p4.s2 8).toNat) ∧
      LeafTile (mm p4) (ctxOf (mm p4)) (p4.s2 8).toNat (tableBase + 12288) 0x2000B ∧ (ctxOf (mm p4)).recipes.length < 8192) ∧
    (8191 < 8192 ∧ (5 : Nat) ≠ 0 ∧ p4.c.replay = []) := by
  unfold Acts Still LeafTile Ready; and_intros <;> decide

/-- The tile at 0 dropped, and its frame READONLY with one mapping, as after a seal. -/
def dropped0 : State := (recs p4 (rec0 .dropped)).setEntry64 (tableBase + 12288) (2 ^ 50 + 2 ^ 8 + 8191 * 65536)
def sealed0 : State := (recs p4 (rec0 .sealed)).setOwner 0x20000 (2 + 256 + 2 ^ 20)

theorem witness_RecipesFreed :
    Acts dropped0 p4 (ctxOf dropped0) (p4.s2 8).toNat 1 ∧ dropped0.walk tableBase 0 = .recipe (tableBase + 12288) 8191 ∧
    Acts sealed0 p4 (ctxOf sealed0) (p4.s2 8).toNat 1 ∧ paHbm (leafPa 0x2000B false 0) = true ∧
    sealed0.ownerOf (leafPa 0x2000B false 0) % 4 = 2 ∧ sealed0.ownerOf (leafPa 0x2000B false 0) / 256 % 4096 = 1 := by
  unfold Acts Still; and_intros <;> decide

/-- A handler that names an address of the private window, and the tile at 0 on a shared page and on none. -/
def phand : Pack := { pk 1 [] [(8, 0), (9, 0xFFFF)] [] with id := { (pk 1 [] [] []).id with handler := true, priv := true } }
def shared0 : State := (mm p4).setEntry64 (tableBase + 12288) 0x2001B
def big0 : State := (mm p4).setEntry64 (tableBase + 8192) 0x20000B

theorem witness_RecipeOfNoTile :
    (Acts (st phand) phand placedCtx (phand.s2 8).toNat 1 ∧ 0xF00000000000 ≤ (phand.s2 8).toNat ∧ placedCtx.recipes = [] ∧
      ∀ i ∈ [Instr.rdrop 8, .rfree 8, .rpin false 8, .rpin true 8], Ready (st phand) i phand) ∧
    (∀ s ∈ [region (st p4), shared0, big0], Acts s p4 (ctxOf s) (p4.s2 8).toNat 1 ∧ (ctxOf s).recipes = [] ∧
      (match s.walk (ctxOf s).root (p4.s2 8).toNat with | .leaf _ v false => v.testBit 4 | _ => true) = true) := by
  unfold Acts Still Ready; and_intros <;> decide

theorem witness_NoTile : (∀ at_ v, ¬LeafTile (st phand) placedCtx (phand.s2 8).toNat at_ v) ∧ ∀ at_ v, ¬LeafTile shared0 (ctxOf shared0) 0 at_ v := by
  constructor
  · rintro at_ v ⟨-, h, -⟩
    exact absurd h (by decide)
  · rintro at_ v ⟨-, -, h, k⟩
    have e : shared0.walk (ctxOf shared0).root 0 = .leaf (tableBase + 12288) 0x2001B false := by decide
    rw [e] at h
    injection h with _ h
    subst h
    exact absurd k (by decide)

/-- The tile at 0 to be sealed, with the sealed tile at 65536, depth 3, as its source (s16), and parameters in s24 to s27. -/
def pseal : Pack := pk 1 [] [(16, 65536), (24, 1), (10, 4), (12, 0), (13, 0x10000), (19, 1)] []
def recSrc : Rec := { rec0 .sealed with tile := 65536, depth := 3 }
def sealing : State := ctx0 (fun x => { x with recipes := [(0, recSrc)] }) (mm pseal)

theorem witness_RsealSealsATile :
    Acts sealing pseal (ctxOf sealing) (pseal.s2 8).toNat 3 ∧ LeafTile sealing (ctxOf sealing) (pseal.s2 8).toNat (tableBase + 12288) 0x2000B ∧
    Unrecorded (ctxOf sealing) (pseal.s2 8).toNat ∧ [(pseal.s2 16).toNat].Nodup ∧ (pseal.s2 8).toNat ∉ [(pseal.s2 16).toNat] ∧
    ((ctxOf sealing).recipes.map Prod.fst).Nodup ∧ (ctxOf sealing).recipes.length + 1 < 8192 ∧ (pseal.s2 16).toNat = 65536 ∧
    Record (ctxOf sealing) 65536 0 recSrc ∧ Chained recSrc ∧ recSrc.deps < 65535 ∧
    Ready sealing (.rseal 16 8 24 65535 1) pseal ∧ Ready sealing (.rseal 0 8 28 0 0) pseal ∧
    (∀ j ∈ [Instr.rseal 16 10 24 3 1, .rdrop 10, .rfree 10, .rpin false 10, .rpin true 10], Ready sealing j pseal) ∧
    (pseal.s2 10).toNat % 65536 ≠ 0 ∧ (pseal.s2 12).toNat % 65536 = 0 ∧  (st pseal).permits pseal 3 (pseal.s2 12).toNat 65536 = false ∧ (st pseal).permits pseal 1 (pseal.s2 12).toNat 65536 = false ∧
    Ready (st pseal) (.rseal 16 12 24 3 1) pseal ∧ pseal.c.replay = [] ∧ pseal.id.colour = none := by
  unfold Acts Still LeafTile Record Unrecorded Chained Ready; and_intros <;> decide

/-- The tile at 0 with a PINNED record, on a READONLY frame of two mappings, and the source with no record, with a deep one, and a PINNED one. -/
def recPin : Rec := { rec0 .pinned with deps := 2 }
def sourced (rs : List (Nat × Rec)) : State :=
  let s := (ctx0 (fun x => { x with recipes := (5, recPin) :: rs }) (mm pseal)).setEntry64 (tableBase + 12296) 0x30003
  { s with mem := { s.mem with owner := Sparse.set 2 0x100202 [] } }

theorem witness_RsealSources :
    (∀ rs ∈ [[], [(0, { recSrc with depth := 4 })], [(0, { recSrc with st := .pinned })]],
      Acts (sourced rs) pseal (ctxOf (sourced rs)) (pseal.s2 8).toNat 3 ∧ Record (ctxOf (sourced rs)) (pseal.s2 8).toNat 5 recPin ∧ recPin.st = .pinned ∧
      LeafTile (sourced rs) (ctxOf (sourced rs)) (pseal.s2 8).toNat (tableBase + 12288) 0x2000B ∧ Ready (sourced rs) (.rseal 16 8 24 3 1) pseal ∧
      (sourced rs).ownerOf 0x20000 % 4 = 2) ∧
    (Unrecorded (ctxOf (sourced [])) 65536 ∧ LeafTile (sourced []) (ctxOf (sourced [])) 65536 (tableBase + 12296) 0x30003) ∧
    (∀ r ∈ [{ recSrc with depth := 4 }, { recSrc with st := .pinned }], Record (ctxOf (sourced [(0, r)])) 65536 0 r ∧ ¬Chained r ∧
      (r.st = .pinned ∨ r.st = .sealed) ∧ r.deps < 65535 ∧ r.pinners < 65535) := by
  unfold Acts Still LeafTile Record Unrecorded Chained Ready; and_intros <;> decide

theorem witness_RsealRefuses :
    (Acts sealing pseal (ctxOf sealing) (pseal.s2 16).toNat 3 ∧ (ctxOf sealing).recipes.find 0 = some recSrc ∧ recSrc.tile = (pseal.s2 16).toNat ∧
      recSrc.st ≠ .pinned ∧ Ready sealing (.rseal 20 16 24 3 0) pseal) ∧
    (Acts sealing pseal (ctxOf sealing) (pseal.s2 18).toNat 3 ∧ (∀ e ∈ (ctxOf sealing).recipes, e.2.tile ≠ (pseal.s2 18).toNat) ∧
      sealing.walk (ctxOf sealing).root (pseal.s2 18).toNat = .none none ∧ Ready sealing (.rseal 16 18 24 3 1) pseal ∧
      Ready sealing (.rseal 18 8 24 3 1) pseal) ∧
    (LeafTile sealing (ctxOf sealing) (pseal.s2 8).toNat (tableBase + 12288) 0x2000B ∧ (pseal.s2 8).toNat ∈ [(pseal.s2 8).toNat] ∧
      Ready sealing (.rseal 8 8 24 3 1) pseal) := by
  unfold Acts Still LeafTile Ready; and_intros <;> decide

/-- A command block at 256 (s4) and counts in s6 (0) and s7 (2); the block's VA is 0, or 2^40. -/
def phc : Pack := pk 1 [] [(4, 256), (7, 2), (8, 252)] []
/-- The context with every privilege. -/
def mp : State := ctx0 (fun x => { x with r := { x.r with priv := 7 } }) (mm phc)
def hblock (va : Nat) : State := mp.putL2 { l2line with line := 4, data := lineData 0 (leBytes 8 va) }

theorem witness_HarbourCommands : ∀ va ∈ [0, 2 ^ 40],
    Still (hblock va) phc ∧ (hblock va).ctx phc.id.ctx = some (ctxOf (hblock va)) ∧ (phc.s2 4).toNat % 8 = 0 ∧
    (hblock va).permits phc 3 (phc.s2 4).toNat 32 = true ∧
    isData (((hblock va).occupy me 1).readBlock 1 256) (fun u bs p => decide (p = false ∧ u.cores = ((hblock va).occupy me 1).cores ∧
      u.ctxs = (hblock va).ctxs ∧ u.cur = me ∧ ((HBlock.ofNat (leNat bs)).page 0).va = va ∧ ((HBlock.ofNat (leNat bs)).page 0).attr < 16 ∧
      (if va = 0 then u.walk tableBase 0 = .leaf (tableBase + 12288) 0x2000B false else u.walk tableBase va = .none none))) = true ∧
    (∀ i ∈ [Instr.hcmdMap 10 4 6, .hcmdUnmap 10 4 7, .hcmdProtect 0 4 7, .hcmdQuery 10 4 6, .hcmdTcflush 10 4 6 255], Ready (hblock va) i phc) ∧
    (phc.s 6).toNat = 0 ∧ (phc.s 7).toNat ≠ 0 := by
  unfold Still Ready; decide

/-- Blocks of HCMD.tcflush with the low and with a high bit of their ATTR byte. -/
theorem witness_HarbourFlushes : ∀ v ∈ [1, 16],
    let s := mp.putL2 { l2line with line := 4, data := lineData 16 (leBytes 1 v) };
    Still s phc ∧ Ready s (.hcmdTcflush 10 4 6 255) phc ∧ s.permits phc 3 (phc.s2 4).toNat 32 = true ∧
    isData ((s.occupy me 1).readBlock 1 256) (fun u bs p => decide (p = false ∧ u.cores = (s.occupy me 1).cores ∧ u.ctxs = s.ctxs ∧ u.cur = me ∧
      (if v = 1 then leNat bs / 2 ^ 128 < 16 else 16 ≤ leNat bs / 2 ^ 128))) = true := by
  unfold Still Ready; decide

theorem witness_HarbourCommandParts :
    ((mm phc).pageOp .protect { ctx := 0, asid := 1, root := tableBase, fw := false } ((HBlock.ofNat 0).page 0)).2 = 0 ∧
    ((mm phc).pageOp .unmap { ctx := 0, asid := 1, root := tableBase, fw := false } ((HBlock.ofNat 0).page 1)).2 = 5 ∧ 0 + 1 ≠ (phc.s 7).toNat ∧
    1 + 1 = (phc.s 7).toNat ∧ (∀ i ∈ [Instr.hcmdMap 10 8 6, .hcmdQuery 10 8 6, .hcmdTcflush 10 8 6 0], Ready mp i phc) ∧
    (phc.s2 8).toNat % 8 ≠ 0 ∧ (ctx0 (fun x => { x with regions := [] }) mp).permits phc 3 (phc.s2 4).toNat 32 = false ∧
    Ready (ctx0 (fun x => { x with regions := [] }) mp) (.hcmdUnmap 10 4 6) phc := by
  unfold Ready; and_intros <;> decide

/-- What HCMD.query writes into its block, at 8 to 15 of it. -/
theorem witness_HarbourQuery :
    (match (hblock 0).translate 1 (256 + 8) .write none with | .ok pa _ => decide (paHost pa = none) | _ => false) = true ∧
    (match ((hblock 0).copyWrite 0 1 (256 + 8) (BitVec.ofNat 32 0x2000B) false none).1.translate 1 (256 + 12) .write none with
      | .ok pa _ => decide (paHost pa = none) | _ => false) = true ∧ 256 % 8 = 0 := by
  and_intros <;> decide

/-- The owner entry of the frame at 0x30000. -/
def owned (e : Nat) : State := { mm phc with mem := { (mm phc).mem with owner := Sparse.set 3 (BitVec.ofNat 64 e) [] } }
def ow : PageOwner := { ctx := 0, asid := 1, root := tableBase, fw := false }

theorem witness_HarbourPageOperations :
    ow.fw = false ∧ (7 : Nat) < 8 ∧ ow.asid ≠ 0 ∧
    (∀ e ∈ [0x100000, 0x100000 + 2 + 4094 * 256, 0x100000 + 2 + 4095 * 256, 0x100000 + 1, 0x200000 + 1],
      (owned e).walk tableBase 65536 = .none (some (tableBase + 12296)) ∧ ((owned e).leaves4 tableBase 65536).isSome = true) ∧
    ((owned 0x100000).ownerOf 0x30000 % 4 = 0 ∧ (owned 0x100000).ownerOf 0x30000 / 2 ^ 20 % 4096 = 1) ∧
    ((owned (0x100000 + 2 + 4095 * 256)).ownerOf 0x30000 / 256 % 4096 = 4095) ∧
    ((mm phc).walk tableBase 0 = .leaf (tableBase + 12288) 0x2000B false ∧ ((mm phc).leaves4 tableBase 0).isSome = true ∧ (0x2000B : Nat).testBit 3 = true ∧
      (ctxOf (mm phc)).recipes = [] ∧ (mm phc).ctx ow.ctx = some (ctxOf (mm phc))) ∧
    ((mm phc).walk tableBase 65536 = .none (some (tableBase + 12296))) ∧
    ((recs p4 (rec0 .sealed)).ctx ow.ctx = some (ctxOf (recs p4 (rec0 .sealed))) ∧ (8191, rec0 .sealed) ∈ (ctxOf (recs p4 (rec0 .sealed))).recipes) ∧
    ({ va := 4096, pa := 0, attr := 0 } : PageReq).va % ({ va := 4096, pa := 0, attr := 0 } : PageReq).size ≠ 0 := by
  and_intros <;> decide

/-- 32 frames from 4 MiB granted to ASID 1, all free, or one of them WRITABLE; and the page of 2 MiB at 0 mapped to the frames from 2 MiB. -/
def bigFree (k : Nat) : State :=
  { mm phc with mem := { (mm phc).mem with owner := (List.range 32).foldl (fun m i => Sparse.set (64 + i) (if i = k then 0x100001 else 0x100000) m) [] } }
def bigLeaf : State := (mm phc).setEntry64 (tableBase + 8192) 0x20000B

theorem witness_HarbourLargePages :
    ((8 : Nat) ≤ 9 ∧ (2 ^ 21) % 2 ^ 21 = 0 ∧ (2 ^ 22) % 2 ^ 21 = 0 ∧ 2 ^ 22 < 2 ^ 39 ∧ ow.asid ≠ 0 ∧ ow.fw = false) ∧
    (∀ k ∈ [32, 3], (bigFree k).leaves4 tableBase (2 ^ 21) = none ∧ (bigFree k).walk tableBase (2 ^ 21) = .none (some (tableBase + 8200)) ∧
      ∀ i < 32, (bigFree k).ownerOf (2 ^ 22 + i * 65536) % 4 = (if i = k then 1 else 0) ∧ (bigFree k).ownerOf (2 ^ 22 + i * 65536) / 2 ^ 20 % 4096 = 1) ∧
    (((mm phc).leaves4 tableBase 0).any (fun vs => vs.any fun e => e % 2 == 1) = true ∧ (mm phc).ctx ow.ctx = some (ctxOf (mm phc)) ∧
      (ctxOf (mm phc)).recipes = []) ∧
    (bigLeaf.leaves4 tableBase 0 = none ∧ bigLeaf.walk tableBase 0 = .leaf (tableBase + 8192) 0x20000B true ∧ (0x20000B : Nat).testBit 3 = true ∧
      leafPa 0x20000B true 0 + 2 ^ 21 ≤ 2 ^ 39 ∧ bigLeaf.ctx ow.ctx = some (ctxOf bigLeaf) ∧ (ctxOf bigLeaf).recipes = []) := by
  and_intros <;> decide

/-! ### The engine, copies, tokens and firings -/

/-- The engine with one instruction that has run. -/
def op0 (i : Instr) : EngOp := { uid := 0, serial := 0, slot := 0, instr := i, w0 := 0x80081F1F, w1 := 0x7E000, batch := 0, tier := 3 }
def engine (i : Instr) : State :=
  { core0 (fun c => c.modPipe 1 fun q => { q with queue := [op0 i], run := some 0 }) (st ptd) with now := 128 }

theorem witness_EngineInstructionEnds : ∀ i ∈ [Instr.tzero 3, .mma .i8 .i8 3 4 5, .tst true 1 1, .tld false 2 1, .quant .i8 .r64 1 2 3],
    EngineDue (engine i) 0 1 (op0 i) me ptd ∧ engineCk (op0 i) ≠ 0 ∧ (((engine i).core 0).pipe 1).queue = op0 i :: [] ∧
    (BitVec.ofNat 32 (tw ({ data := [], poison := false } : Tile) 4095)).toInt ≥ -(2 ^ 30) := by
  intro i hi
  refine ⟨⟨?_, ⟨0, ?_, fun j h => absurd h (Nat.not_lt_zero j)⟩, ?_⟩, ?_, rfl, by decide⟩
  · revert i; decide
  · rfl
  · revert i; decide
  · revert i; decide

/-- A copy of two words from 0, and its states. -/
def cpf : Copy := { cp .moving with mode := .f, done := [], bad := [], len := 8, dst := 128 }
def copying (q : Copy) : State := core0 (fun c => { c with copies := [(511, q)] }) (mm pm)

theorem witness_CopiesMoveCompleteAndFault :
    (((copying cpf).core 0).copies.find 511 = some cpf ∧ cpf.mode = .f ∧ cpf.st = .moving ∧ 1 < cpf.words ∧ 1 ∉ cpf.done ∧ (∀ e ∈ cpf.bad, e.1 ≠ 1) ∧
      (match (copying cpf).translate 1 4 .read none with
        | .ok _ leaf => isData (((copying cpf).touch 1 4 .read leaf).homeRead 1 4 4 none .read) fun _ _ _ => true
        | _ => false) = true ∧ (copying cpf).asid cpf.ctx = 1 ∧ cpf.src + 4 * 1 = 4 ∧ cpf.colour = none ∧
      InRange me ∧ (copying cpf).pack me = some pm ∧ pm.id.serial = cpf.serial) ∧
    ((∀ j < cpf.words, j ∈ { cpf with done := [1, 0] }.done) ∧ { cpf with done := [1, 0] }.done.length = cpf.words ∧ cpf.bad = [] ∧
      ((copying { cpf with done := [1, 0] }).core 0).outbound.length < 480) ∧
    ((cp .moving).bad = [(1, 2, 65540)] ∧ (cp .moving).done.length + (cp .moving).bad.length = (cp .moving).words ∧ (cp .moving).at_ = none ∧
      ((copying (cp .moving)).core 0).outbound.length < 512 ∧ ((copying (cp .moving)).core 0).raised = [] ∧
      (copying (cp .moving)).ctx 0 = some (ctxOf (copying (cp .moving))) ∧ (ctxOf (copying (cp .moving))).st = .running) := by
  unfold InRange; and_intros <;> decide

/-- A token for port 1 of slot 0, and an entry for its tag. -/
def tk (slot port : Nat) : Tok := {
  slot := slot, port := port, tag := 9, pay := [1, 2], ctx := 0, rel := none, handler := false, src := 0, bearing := 0, core := 0, cov := [] }
def en (pres : Nat) (est : EntrySt) : Entry := {
  tag := 9, slot := 0, ctx := 0, pres := pres, st := est, acq := 0, seq := 0, pay := [], entered := 0, handler := false, cov := [] }

/-- Core 0 without packs, with two ports on the block. -/
def store0 (closing : Bool) (f : Core → Core) : State :=
  { core0 (fun c => f { c with packs := [] }) (st p4) with blocks := [(0, { placedBlock [0x51000000] with ports := 2, closing := closing })], now := 4096 }

/-- The core may take a token (R218, R220, R239). -/
def Open (s : State) : Prop :=
  (s.core 0).mustRenumber = false ∧ s.io.hwait = [] ∧ (s.core 0).raised = [] ∧ (s.core 0).outbound.length < 512 ∧ s.io.lwait = []

theorem witness_TokensReachTheMatchingStore :
    (∀ e ∈ [en 1 .part, en 2 .binned], let s := store0 false fun c => { c with arriving := [tk 0 1], entries := [e] };
      Open s ∧ (s.core 0).arriving = [tk 0 1] ∧ (s.core 0).spill = [] ∧ Takes s (tk 0 1) placedCtx { placedBlock [0x51000000] with ports := 2 } ∧
      entryAt s 0 0 9 = some e) ∧ (en 1 .part).pres.testBit 1 = false ∧ (en 2 .binned).pres.testBit 1 = true ∧
    (let s := store0 false fun c => { c with arriving := [tk 0 0] };
      Open s ∧ (s.core 0).spill = [] ∧ Takes s (tk 0 0) placedCtx { placedBlock [0x51000000] with ports := 2 } ∧ entryAt s 0 0 9 = none ∧
      s.entryRoom 0 (tk 0 0).cls (s.classOf 0 0 9) 2 = true) ∧
    (let s := store0 false fun c => { c with arriving := [tk 7 0] };
      Open s ∧ s.ctx 0 = some placedCtx ∧ placedCtx.st = .running ∧ s.block 7 = none ∧ (s.core 0).arriving = [tk 7 0]) ∧
    (let s := store0 false fun c => { c with arriving := [tk 0 2] };
      Open s ∧ s.block 0 = some { placedBlock [0x51000000] with ports := 2 } ∧ 2 ≤ (tk 0 2).port ∧ (s.core 0).arriving = [tk 0 2]) ∧
    (let s := store0 false fun c => { c with spill := [tk 0 1] };
      Open s ∧ (s.core 0).spill = [tk 0 1] ∧ Takes s (tk 0 1) placedCtx { placedBlock [0x51000000] with ports := 2 } ∧ s.entryCount 0 .program + 64 ≤ 16128 ∧
      entryAt s 0 0 9 = none ∧ s.entryRoom 0 (tk 0 0).cls (s.classOf 0 0 9) 2 = true) ∧
    (let s := store0 true fun c => { c with intake := [(3, [(tk 0 1, 0)])] };
      Open s ∧ (s.core 0).intake.find 3 = some [(tk 0 1, 0)] ∧ Takes s (tk 0 1) placedCtx { placedBlock [0x51000000] with ports := 2, closing := true } ∧
      entryAt s 0 0 9 = none ∧ 0 + 4096 ≤ s.now ∧ (s.core 0).spill.length + (s.core 0).arriving.length < 262144) := by
  unfold Takes Open; and_intros <;> decide

/-- A token in an outbound queue. -/
def ot (t : Tok) (conds : List Machine.Cond) : OutTok := { tok := t, serial := 0, conds := conds, frees := none, grants := none }
def sending (o : OutTok) : State := store0 false fun c => { c with outbound := [o], wake := [(0, wk 5 .pending)] }

theorem witness_OutboundTokensLeave :
    (∀ o ∈ [ot (tk 0 1) [], ot (tk 0 1) [{ sc := .dev, uids := [5] }], ot (tk 0xFFFF 0) [], ot (tk 7 0) [{ sc := .dev, uids := [6] }]],
      ((sending o).core 0).outbound = [o] ∧ (sending o).ctx o.tok.ctx = some placedCtx ∧ o.frees = none ∧ (sending o).launches = [] ∧
      ((sending o).core 0).raised = [] ∧ ([] : List OutTok).length < 512 ∧ ((sending o).core 0).spill.length + ((sending o).core 0).arriving.length < 262144) ∧
    placedCtx.st = .running ∧ (sending (ot (tk 0 1) [])).placeCore placedCtx (placedBlock []) 9 = 0 ∧
    (ot (tk 0 1) [{ sc := .dev, uids := [5] }]).conds.all (sending (ot (tk 0 1) [])).met = false ∧
    (ot (tk 7 0) [{ sc := .dev, uids := [6] }]).conds.all (sending (ot (tk 0 1) [])).met = true ∧
    ((sending (ot (tk 0 1) [])).block 0).any (fun b => b.ctx == 0 && !b.ordered) = true ∧ placedCtx.box.places.length < 64 ∧
    (sending (ot (tk 0 1) [])).block 7 = none := by
  and_intros <;> decide

/-- A bin of the test block. -/
def bn (exp : Bool) : Bin := { ctx := 0, slot := 0, recovery := false, expired := exp }

theorem witness_BinsAndFirings :
    (let s := store0 false fun c => { c with entries := [en 1 .part], seq := 2 ^ 30 };
      2 ^ 30 ≤ (s.core 0).age (en 1 .part).seq ∧ (s.core 0).entries.length ≤ 16384) ∧
    (let s := store0 false fun c => { c with entries := [en 3 .waitbin] };
      (s.core 0).entries.filter (fun x => x.st == .waitbin) = [en 3 .waitbin] ∧ entryAt s 0 0 9 = some (en 3 .waitbin) ∧ (s.core 0).bins = [] ∧
      (en 3 .waitbin).tag.toNat / 2 ^ 61 ≠ 7) ∧
    (let s := store0 false fun c => { c with entries := [en 3 .binned], bins := [(0, bn false)] };
      (s.core 0).bins.find 0 = some (bn false) ∧ en 3 .binned ∈ (s.core 0).entries ∧ ((bn false).recovery = true ↔ (en 3 .binned).tag.toNat / 2 ^ 61 = 7) ∧
      (en 3 .binned).entered + (placedBlock []).leash ≤ s.now ∧ (s.block 0).any (fun b => !b.ordered) = true) ∧
    (let s := store0 false fun c => { c with helm := { c.helm with last := some 4096 } }; (s.core 0).helm.last = some s.now) ∧
    (let s := store0 false fun c => { c with entries := [en 3 .binned], bins := [(0, bn true)] };
      let u := s.setTurns 0;
      (s.core 0).helm.last ≠ some s.now ∧ (s.walkHelm 0).length = 1 ∧ (((u.walkHelm 0).filter (fun c => c.tier != 3 || u.tier3Ok 0)).head?.any fun k =>
        decide (u.fits 0 k = some 1 ∧ k.entries = [en 3 .binned] ∧ k.key.1 = 0 ∧ k.key.2.1 = 0)) = true) ∧
    (let q := { p4 with c := { p4.c with fetch := 1 } };
      ((st q).core 0).packs.find? (fun e => e.2.c.fetch == 1 && e.2.c.st == .run) = some (16, q) ∧ q.id.colour = none) := by
  and_intros <;> decide

/-- A SPAWN request with colour 0 of its level in use, and a return of it. -/
def sq : SpawnReq := {
  uid := 4, ctx := 0, serial := 0, level := 6, index := 2 ^ 48 - 1, pay := [7], slot := 0, port := 1, parent := 9, rslot := 3, rport := 2, bearing := 0, waits := [] }
def rq (colour : Nat) : RetReq := { ctx := 0, level := 6, colour := colour, out := ot (tk 0 0) [] }
def colouring : State :=
  ctx0 (fun x => { x with pools := [(6, 0)], returns := [((6, 0), (9, 3, 2))] }) (core0 (fun c => { c with alloc := [sq] }) (st p4))

/-- The same with a full outbound queue. -/
def colourFull : State := core0 (fun c => { c with outbound := List.replicate 512 (ot (tk 0 1) []) }) colouring

theorem witness_ColoursAreGrantedAndReturned :
    (colouring.requests[0]? = some (0, sq) ∧ sq.granted = none ∧ (colouring.core 0).spawned = [] ∧ (colouring.core 0).outbound.length < 480 ∧
      (1 : Nat) < 8192 ∧ (sq.level, 1) ∉ (ctxOf colouring).pools ∧ ∀ d < 1, (sq.level, d) ∈ (ctxOf colouring).pools) ∧
    (colourFull.requests[0]? = some (0, sq) ∧ (colourFull.core 0).spawned = [] ∧ sq ∈ (colourFull.core 0).alloc ∧ (colourFull.core 0).outbound.length = 512 ∧
      ctxOf colourFull = ctxOf colouring) ∧
    (({ colouring with returns := [rq 0] } : State).returns = [rq 0] ∧ (rq 0).out.tok.core = 0 ∧ (colouring.core 0).raised = [] ∧
      (ctxOf colouring).returns.find? (fun e => decide (e.1 = ((rq 0).level, (rq 0).colour))) = some ((6, 0), (9, 3, 2))) ∧
    ∀ e ∈ (ctxOf colouring).returns, e.1 ≠ ((rq 8191).level, (rq 8191).colour) := by
  refine ⟨by decide, ⟨by rfl, by rfl, by decide, List.length_replicate, by decide⟩, by decide, by decide⟩

/-! ### The host port, the platform, the evictor and the Retrievers -/

/-- The ports up, and context 0 with an inbox of 2^k entries whose place list holds a token. -/
def upState (head tail : Nat) : State :=
  let s := ctx0 (fun x => { x with box := { x.box with k := 8, head := head, tail := tail, places := [tk 0xFFFF 2] } }) (store0 false id)
  { s with io := { s.io with up := [true, true] } }

theorem witness_InboxAndAperture :
    (∀ e ∈ [(0, 0), (2 ^ 32 - 1, 254)], let x := ctxOf (upState e.1 e.2)
      (upState e.1 e.2).ctx 0 = some x ∧ x.box.places = [tk 0xFFFF 2] ∧ x.st ≠ .ending ∧ (upState e.1 e.2).io.wait = [] ∧ (tk 0xFFFF 2).port < 256 ∧ (tk 0xFFFF 2).src < 256 ∧ (tk 0xFFFF 2).pay.length < 256 ∧
      (x.box.tail + 2 ^ 32 - x.box.head) % 2 ^ 32 < 2 ^ x.box.k) ∧
    ((upState 0 256).io.up.getD 1 false = true ∧ (ctxOf (upState 0 256)).r.port = 0 ∧ (256 + 2 ^ 32 - 0) % 2 ^ 32 ≤ 2 ^ 8) ∧
    ((upState 0 0).block 0 = some { placedBlock [0x51000000] with ports := 2 } ∧ (1023 : Nat) < 1024 ∧ (0x1FFF000000000000 : Nat) / 2 ^ 61 ≠ 7 ∧
      (upState 0 0).launches = [] ∧ (List.replicate 8 (0 : Word)).length = 8 ∧ (upState 0 0).io.wait = [] ∧ (upState 0 0).io.hwait = [] ∧
      ((upState 0 0).core 0).spill.length + ((upState 0 0).core 0).arriving.length < 262144 ∧ (ctxOf (upState 0 0)).st = .running) ∧
    (0 < (upState 0 0).mgmt.aperr.length ∧ ([0] : List Byte).length ≠ 64 ∧ ((upState 0 0).mgmt.aperr.getD 0 0).toNat < 2 ^ 32 - 1) := by
  and_intros <;> decide

/-- HBM owner states 0 to 2 of the frame at 0x30000, and the registers of a port that is up. -/
def ported (s : State) : State := { s with io := { s.io with up := [true, true] } }

theorem witness_HostAccesses :
    (∀ e ∈ [0, 1 + 0x100000, 2 + 0x100100], (ported (owned e)).io.up.getD 0 false = true ∧ (ported (owned e)).ownerOf 0x30000 % 4 = e % 4 ∧
      (ported (owned e)).part.chunks.getD (0x3003C / 2 ^ 30) 0 = 0 + 1 ∧ (ported (owned e)).mem.l2.length < 2 ^ 20) ∧
    isData ((ported (owned (1 + 0x100000))).homeRead 1 0x3C 4 none .read) (fun _ _ _ => true) = true ∧
    (0x3003C + 4 ≤ 2 ^ 39 ∧ 0x3003C % 64 + 4 ≤ 64 ∧ 0 < 4 ∧ (2 ^ 39 - 64) + 64 ≤ 2 ^ 39 ∧ (2 ^ 22 - 4) + 4 ≤ 2 ^ 22) ∧
    State.reset.part.chunks.getD (448 * 2 ^ 30 / 2 ^ 30) 0 ≠ 0 + 1 ∧ 1 < State.reset.mgmt.latch.length ∧ 1 < State.reset.mgmt.aperr.length ∧
    1 < State.reset.mgmt.nonce.length ∧ ((ported (st p4)).ctx 0).any (fun x => x.r.port == 0) = true := by
  and_intros <;> decide

/-- A die in a thermal state. -/
def heated (st : Nat) : State := { mm p4 with mgmt := { (mm p4).mgmt with thermal := [st, 0, 0, 0] } }

/-- Where the thermal state of a die goes at a temperature (R362). -/
def heat (cur temp : Nat) : Nat := if 110 ≤ temp ∨ cur = 2 ∧ 108 < temp then 2 else if 100 ≤ temp ∨ 1 ≤ cur ∧ 98 < temp then 1 else 0

theorem witness_ErrorsAndHeat :
    ((mm p4).mgmt.cecnt.toNat < 2 ^ 32 - 1 ∧ (mm p4).mgmt.uecnt.toNat < 2 ^ 32 - 1 ∧ l2line ∈ ((mm p4).putL2 l2line).mem.l2 ∧ (mm p4).pack me = some p4 ∧
      (63 : Nat) ≠ 0 ∧ 2 ^ 33 - 1 < 2 ^ 33 ∧ 191 < 192 ∧ 192 ≤ 192) ∧
    (3 < 4 ∧ (heated 1).mgmt.thermal.length = 4 ∧ (mm p4).mgmt.thrcnt.toNat < 2 ^ 32 - 1) ∧
    (heat 0 100 ≠ 0 ∧ heat 0 99 = 0 ∧ heat 1 99 = 1 ∧ heat 1 98 ≠ 1 ∧ heat 1 110 ≠ 1 ∧ heat 2 109 = 2 ∧ heat 2 108 = 1) := by
  and_intros <;> decide

/-- The device after the steps of bring-up that precede DEVICE_READY, and a queue of attestation. -/
theorem witness_ResetsFirmwareAndAttestation :
    (({ State.reset.mgmt with boot := 5 } : Mgmt).ready = false ∧ ({ State.reset.mgmt with boot := 5 } : Mgmt).booterr = 0 ∧
      5 ≤ ({ State.reset.mgmt with boot := 5 } : Mgmt).boot) ∧ (1 < State.reset.mgmt.done.length) ∧
    ((ported State.reset).io.up.getD 1 false = true ∧ 1 ∉ (ported State.reset).mgmt.queue) ∧
    (let s := { ported State.reset with mgmt := { State.reset.mgmt with queue := [1] } };
      s.io.up.getD 1 false = true ∧ 1 ∈ s.mgmt.queue ∧ s.mgmt.queue = 1 :: [] ∧ 1 < s.mgmt.done.length) := by
  decide

/-- A regeneration of record 0 of context 0 on die 0. -/
def rg (ph : RegenPhase) (done : Nat) : Regen := { ctx := 0, rix := 0, done := done, phase := ph, frame := 0x30000, since := 3072 }

/-- Context 0 with dropped record 0, with sealed record 1 as its source, and a Retriever. -/
def regen (q : Retriever) : State :=
  let s := ctx0 (fun x => { x with recipes := [(0, { rec0 .dropped with sources := [1], entry := 0 }), (1, { rec0 .sealed with tile := 65536 })] }) (store0 false id)
  { s with retr := [(0, q)], misses := [{ die := 0, ctx := 0, rix := 0, retry := none }], mem := { s.mem with owner := Sparse.set 3 0x100000 [] } }

/-- A Retriever that waits, and one that is full. -/
def idleQ : Retriever := { queue := [], stack := [], colour := none }
def fullQ : Retriever := { queue := List.replicate 256 (0, 1), stack := [], colour := none }

theorem witness_RetrieverMisses :
    (∀ q ∈ [idleQ, fullQ], (regen q).misses = [{ die := 0, ctx := 0, rix := 0, retry := none }] ∧ (regen q).ctx 0 = some (ctxOf (regen q)) ∧
      (ctxOf (regen q)).recipes.find 0 = some { rec0 .dropped with sources := [1], entry := 0 } ∧ (regen q).queued 0 0 = false) ∧
    (regen idleQ).retriever 0 = idleQ ∧ idleQ.queue.length < 256 ∧ (regen fullQ).retriever 0 = fullQ ∧ 256 ≤ fullQ.queue.length ∧
    (let s := { regen idleQ with misses := [{ die := 0, ctx := 0, rix := 0, retry := some 4096 }] };
      s.misses.map (fun m => m.retry) = [some 4096] ∧ 4096 ≤ s.now ∧ s.queued 0 0 = false) := by
  and_intros <;> decide

theorem witness_RegenerationStart :
    (let s := regen { idleQ with queue := [(0, 0)] }; (s.retriever 0).stack = [] ∧ (s.retriever 0).queue = [(0, 0)] ∧
      s.retr.all (fun e => e.2.stack.isEmpty) = true) ∧
    (let s := regen { idleQ with stack := [rg .sources 0] }; (s.retriever 0).stack = [rg .sources 0] ∧
      (ctxOf s).recipes.find 1 = some { rec0 .sealed with tile := 65536 }) ∧
    (let s := regen { idleQ with stack := [rg .sources 1] }; (s.retriever 0).stack = [rg .sources 1] ∧ [1].length ≤ (rg .sources 1).done) ∧
    (let s := regen { idleQ with stack := [rg .frame 1] }; (s.retriever 0).stack = [rg .frame 1] ∧ (ctxOf s).st = .running ∧
      s.freeFrame (ctxOf s).r.asid = some 0x30000 ∧ (0 : Nat) ∉ s.level7 ∧ s.block 0 = some { placedBlock [0x51000000] with ports := 2 } ∧
      (rec0 .dropped).st = .dropped) := by
  and_intros <;> decide

/-- Record 0 of the tile at 0, whose frame's stack is one frame short of its mark. -/
def evicting : State :=
  let s := (recs p4 (rec0 .sealed)).setEntry64 (tableBase + 12288) 0x2002B
  { s with mem := { s.mem with owner := Sparse.set 2 0x100001 [] },
           part := { s.part with low := List.replicate 8 (2 ^ 20), high := List.replicate 8 (2 ^ 20) } }

theorem witness_EvictorRun :
    (evicting.part.low.getD 1 0 ≤ evicting.freeFrames 1) ∧ Memory.wf evicting.mem = true ∧ evicting.freeFrames 0 < evicting.part.low.getD 0 0 ∧
    evicting.part.high.getD 0 0 = evicting.freeFrames 0 + 1 ∧ evicting.ctxs = [(0, ctxOf evicting)] ∧ (ctxOf evicting).recipes = [(8191, rec0 .sealed)] ∧
    evicting.mem.l2 = [] ∧ evicting.walk (ctxOf evicting).root 0 = .leaf (tableBase + 12288) 0x2002B false ∧ (0x2002B : Nat).testBit 6 = false ∧ (0x2002B : Nat).testBit 5 = true ∧
    leafPa 0x2002B false 0 < 2 ^ 39 ∧ leafPa 0x2002B false 0 / 2 ^ 36 % 8 = 0 ∧ evicting.ownerOf (leafPa 0x2002B false 0) % 4 ≠ 0 ∧
    evicting.ownerOf (leafPa 0x2002B false 0) / 2 ^ 20 % 4096 ≠ 0 ∧
    0 < evicting.freeFrames 0 := by
  and_intros <;> decide

/-- The regeneration of the tile at 0, whose leaf is the marker of record 0. -/
def regenBase (ph : RegenPhase) : State :=
  let s := (mm p4).setEntry64 (tableBase + 12288) (2 ^ 50 + 256)
  { core0 (fun c => { c with packs := [] }) s with retr := [(0, { idleQ with stack := [rg ph 0], colour := some 5 })], now := 4096 }

/-- The same with its record, whose CRC is that of the frame, or differs by one. -/
def regenDone (add : Nat) : State :=
  ctx0 (fun x => { x with recipes := [(0, { rec0 .regen with crc := crc32c ((regenBase .complete).regenBytes 1 0 0x30000 5) + add })] }) (regenBase .complete)

theorem witness_RecomputesEnd :
    (((regenBase .running).retriever 0).colour = some 5 ∧ ((regenBase .running).retriever 0).stack = [rg .running 0] ∧
      (regenBase .running).liveCount 5 = 0 ∧
      (∀ e ∈ (regenBase .running).cores, ∀ y ∈ e.2.entries, y.tag.toNat / 2 ^ 61 = 7 → y.tag.toNat / 2 ^ 48 % 2 ^ 13 ≠ 5)) ∧
    ((rg .complete 0).phase = .complete ∧ (rg .complete 0).since + 1024 ≤ (regenBase .complete).now ∧
      (regenBase .complete).walk tableBase 0 = .recipe (tableBase + 12288) 0 ∧ (rg .complete 0).frame % 65536 = 0 ∧ (rg .complete 0).frame < 2 ^ 39 ∧
      (∀ e ∈ (regenBase .complete).cores, (∀ q ∈ e.2.slots, q.2.parked = false) ∧ ∀ q ∈ e.2.copies, q.2.parked = []) ∧
      (ctxOf (regenBase .complete)).onFault = none ∧ (ctxOf (regenBase .complete)).box.places.length < 64) := by
  and_intros <;> decide

/-- The CRC of the record is that of the frame, as the check asks, or one more. -/
theorem witness_RecomputeCrc (add : Nat) : ∃ x r, (regenDone add).ctx 0 = some x ∧ x.recipes.find 0 = some r ∧
    crc32c ((regenDone add).regenBytes x.r.asid r.tile 0x30000 5) + add = r.crc := ⟨_, _, rfl, rfl, rfl⟩

/-- A full share of a colour: 48 entries in place, none that can fire, and a token that has spilled. -/
def en7 (i : Nat) : Entry := { en 3 .binned with tag := BitVec.ofNat 64 (7 * 2 ^ 61 + 5 * 2 ^ 48 + i) }
def wide : State :=
  core0 (fun c => { c with entries := (List.range 48).map en7, spill := [{ tk 0 1 with tag := (en7 99).tag }] }) (regenBase .running)

theorem witness_WidthFailure :
    wide.retrOf 5 = some (0, wide.retriever 0) ∧ (0, wide.core 0) ∈ wide.cores ∧
    (∀ e ∈ wide.cores, (∀ p ∈ e.2.packs, p.2.id.colour ≠ some 5) ∧ (∀ o ∈ e.2.outbound, o.tok.ofColour 5 = false) ∧
      (∀ o ∈ e.2.arriving, o.ofColour 5 = false) ∧ ∀ q ∈ e.2.copies, q.2.colour ≠ some 5) ∧
    ((wide.core 0).spill.find? (fun o => o.ofColour 5)).isSome = true ∧ 48 ≤ ((wide.core 0).ofColour 5).length ∧
    (∀ e ∈ (wide.core 0).ofColour 5, e.st = .binned) ∧ (∀ y ∈ wide.cands 0, y.tier = 2 → y.key.2.2.2.1 % 2 ^ 13 ≠ 5) := by
  and_intros <;> decide

/-! ### The mailbox and the loader -/

/-- Numbers in ARGS: offset, bytes, value. -/
def args (l : List (Nat × Nat × Nat)) : Sparse 8 := l.foldl (fun m e => Sparse.setRun e.1 (leBytes e.2.1 e.2.2) m) []

/-- A command of port 0 on context 0. -/
def cmd (l : List (Nat × Nat × Nat)) : Cmd := { port := 0, tag := 0xFFFF, ctx := 0, args := args l }

/-- The device ready: mailboxes that take commands, a window of host memory. -/
def ready (s : State) : State :=
  { s with io := { s.io with mbox := [{ Mbox.reset with status := 0 }, { Mbox.reset with status := 0 }], up := [true, true] },
           part := { s.part with dom := [{ enabled := true, limit := 64, base := 0, size := 2 ^ 20 }, { enabled := true, limit := 64, base := 0, size := 2 ^ 20 }] } }

theorem witness_MailboxAndMapCommands :
    ((State.reset.mbox 1).status.getLsbD 15 = true) ∧ Idle (ready (st p4)) (cmd []) ∧
    (∀ x ∈ (ready (st p4)).ctx 0, x.r.port ≠ ({ cmd [] with port := 1 } : Cmd).port) ∧ Idle (ready (st p4)) { cmd [] with port := 1 } ∧
    Mine (ready (st p4)) (cmd []) placedCtx ∧
    (∀ e ∈ named (cmd [(239, 1, 1)]) ++ unnamed (cmd [(239, 1, 1)]), ¬∀ y ∈ (cmd [(239, 1, 1)]).args, y.2 ≠ 0 → ∃ r ∈ e.2, r.1 ≤ y.1 ∧ y.1 < r.1 + r.2) := by
  unfold Idle Mine; and_intros <;> decide

/-- MAP commands: a code that none of HCMD's is, no page, one page that is done, one that is not, queries, and a flush of every unit. -/
theorem witness_MapCommand :
    (∀ c ∈ [cmd [(0, 1, 9)], cmd [(0, 1, 2)], cmd [(0, 1, 2), (4, 4, 1)], cmd [(0, 1, 2), (4, 4, 2)], cmd [(0, 1, 4)], cmd [(0, 1, 4), (8, 8, 2 ^ 40)],
        cmd [(0, 1, 5), (1, 1, 255)]],
      Idle (ready (mm p4)) c ∧ Mine (ready (mm p4)) c (ctxOf (ready (mm p4))) ∧ ∀ y ∈ c.args, y.2 ≠ 0 → ∃ r ∈ mapArgs c, r.1 ≤ y.1 ∧ y.1 < r.1 + r.2) ∧
    (ctxOf (ready (mm p4))).st = .running ∧ argNat (cmd [(0, 1, 9)]) 0 1 ∉ [1, 2, 3, 4, 5] ∧ argNat (cmd [(0, 1, 2)]) 4 4 = 0 ∧
    (((ready (mm p4)).mboxStart 5 (cmd [(0, 1, 2), (4, 4, 1)])).pageOp .unmap { ctx := 0, asid := 1, root := tableBase, fw := true }
      ((HBlock.ofNat 0).page 0)).2 = 0 ∧
    (((ready (mm p4)).mboxStart 5 (cmd [(0, 1, 2), (4, 4, 2)])).pageOp .unmap { ctx := 0, asid := 1, root := tableBase, fw := true }
      ((HBlock.ofNat 0).page 1)).2 = 5 ∧
    ((ready (mm p4)).mboxStart 5 (cmd [(0, 1, 4)])).walk tableBase 0 = .leaf (tableBase + 12288) 0x2000B false ∧
    ((ready (mm p4)).mboxStart 5 (cmd [(0, 1, 4)])).walk tableBase (2 ^ 40) = .none none ∧
    argNat (cmd [(0, 1, 5), (1, 1, 255)]) 0 1 = 5 ∧ argNat (cmd [(0, 1, 5), (1, 1, 255)]) 8 32 < 2 ^ 132 := by
  unfold Idle Mine; and_intros <;> decide

/-- CREATE with weight 1, one private chunk and a list of cores; the lowest free context number is 1 and the lowest free ASID 2. -/
def create (cores : Nat) : Cmd := cmd [(1, 1, 1), (12, 4, 1), (16, 24, cores), (48, 1, 8)]

/-- One chunk of the firmware's. -/
def fw (s : State) : State := { s with part := { s.part with chunks := List.replicate 448 1 ++ [2, 3] } }

theorem witness_Create :
    (∀ k ∈ [1, 2 ^ 191], let c := create k
      Idle (fw (ready (st p4))) c ∧ (∀ y ∈ c.args, y.2 ≠ 0 → ∃ r ∈ [(0, 3), (4, 36), (40, 9), (56, 16)], r.1 ≤ y.1 ∧ y.1 < r.1 + r.2) ∧
      argNat c 0 1 < 4 ∧ 1 ≤ argNat c 1 1 ∧ argNat c 1 1 ≤ 15 ∧ argNat c 2 1 < 8 ∧ argNat c 12 4 ≠ 0 ∧ argNat c 16 24 ≠ 0 ∧ argNat c 40 8 % 4096 = 0 ∧
      8 ≤ argNat c 48 1 ∧ argNat c 48 1 ≤ 20 ∧ argNat c 56 8 % 65536 = 0 ∧ argNat c 64 8 % 65536 = 0 ∧
      Inside (fw (ready (st p4))) c.port (argNat c 40 8) (2 ^ argNat c 48 1 * 64) ∧ Inside (fw (ready (st p4))) c.port (argNat c 56 8) (argNat c 64 8) ∧
      (∀ n ∈ bitsOf (argNat c 16 24) 192, (fw (ready (st p4))).part.cores.getD n 0 = c.port + 1)) ∧
    ((fw (ready (st p4))).ctx 1 = none ∧ (∀ m < 1, ¬(fw (ready (st p4))).ctx m = none) ∧ (∀ e ∈ (fw (ready (st p4))).ctxs, e.2.r.asid ≠ 2) ∧
      (∀ m < 2, ¬(m ≠ 0 ∧ ∀ e ∈ (fw (ready (st p4))).ctxs, e.2.r.asid ≠ m))) ∧
    (((fw (ready (st p4))).part.dom[0]?).any (fun d => d.enabled && ((fw (ready (st p4))).ctxs.filter fun e => e.2.r.port == 0).length < d.limit) = true) ∧
    argNat (create 1) 12 4 + (bitsOf (argNat (create 1) 16 24) 192).length <
      ((fw (ready (st p4))).fwPages (argNat (create 1) 12 4 + (bitsOf (argNat (create 1) 16 24) 192).length + 1)).length ∧
    ¬(8 ≤ argNat (cmd []) 48 1) ∧ (ready (st p4)).part.cores.getD 5 0 ≠ ({ create 32 with port := 1 } : Cmd).port + 1 := by
  unfold Idle Inside; and_intros <;> decide

theorem witness_RegionAndGrant :
    (∀ c ∈ [cmd [(0, 1, 63), (8, 8, 0x3EF)], cmd [(0, 1, 64)]], Idle (ready (st p4)) c ∧ Mine (ready (st p4)) c placedCtx ∧
      ∀ y ∈ c.args, y.2 ≠ 0 → ∃ r ∈ [(0, 1), (8, 8)], r.1 ≤ y.1 ∧ y.1 < r.1 + r.2) ∧
    (argNat (cmd [(0, 1, 63), (8, 8, 0x20F)]) 8 8 / 65536 * 65536 + 2 ^ (0x20F / 32 % 32 + 16) ≤ 0xF00000000000 ∧ ¬argNat (cmd [(0, 1, 64)]) 0 1 < 64) ∧
    (∀ c ∈ [cmd [(0, 8, 0x50000), (8, 4, 2)], cmd [(0, 8, 448 * 2 ^ 30), (8, 4, 1)], cmd [(0, 8, 0x20000), (8, 4, 2)]],
      Idle (ready (owned 0x100001)) c ∧ (∀ y ∈ c.args, y.2 ≠ 0 → ∃ r ∈ [(0, 12)], r.1 ≤ y.1 ∧ y.1 < r.1 + r.2) ∧ argNat c 0 8 % 65536 = 0 ∧
      argNat c 8 4 ≠ 0 ∧ argNat c 0 8 + argNat c 8 4 * 65536 ≤ 2 ^ 39) ∧
    (∀ i < 2, (ready (owned 0x100001)).part.chunks.getD ((0x50000 + i * 65536) / 2 ^ 30) 0 = 1 ∧ (ready (owned 0x100001)).ownerOf (0x50000 + i * 65536) = 0) ∧
    (ready (owned 0x100001)).part.chunks.getD (448 * 2 ^ 30 / 2 ^ 30) 0 ≠ 1 ∧ (ready (owned 0x100001)).ownerOf 0x20000 = 0 ∧
    ¬(ready (owned 0x100001)).ownerOf 0x30000 % 4 = 0 := by
  unfold Idle Mine; and_intros <;> decide

/-- A table of zeros but for the chunk of the page tables, which stays the firmware's: no domain enabled, every core and chunk unlisted. -/
def tab (k : Nat) : Byte := if k = 704 then 3 else 0
def table : List Byte := (List.range 768).map tab
def tabled (s : State) : State := { s with mem := { s.mem with host0 := [(704, 3)] } }

theorem table_read (s : State) (h : s.hostBus 0 0 = 0) : (tabled s).hostRead 0 0 768 = table := by
  unfold State.hostRead tabled
  rw [show ({ s with mem := { s.mem with host0 := [(704, 3)] } } : State).hostBus (0 % 2) 0 = 0 from h]
  simp only [table, Sparse.getRun]
  refine List.map_congr_left fun k _ => ?_
  by_cases e : k = 704
  · subst e; rfl
  · simp [tab, e, Sparse.get, Ne.symm e]

theorem table_at (o : Nat) (h : o < 768) : leNat ((table.drop o).take 1) = (tab o).toNat := by
  have e : (table.drop o).take 1 = [tab o] := by
    simp only [table, ← List.map_drop, ← List.map_take]
    rw [List.range_eq_range', List.drop_range', show 768 - o = (767 - o) + 1 by omega, List.range'_succ]
    simp
  rw [e]
  simp [leNat]

theorem witness_Partition :
    (∀ s ∈ [ready (st p4), ready State.reset], (tabled s).hostRead 0 0 768 = table ∧ Idle (tabled s) (cmd []) ∧ Idle (tabled s) { cmd [] with port := 1 } ∧
      0 + 768 ≤ (tabled s).winSize 0 ∧ (tabled s).part.kept = [] ∧ (tabled s).mem.owner = []) ∧
    (let at_ := fun o n : Nat => leNat ((table.drop o).take n);
      at_ 1 1 + at_ 33 1 ≤ 64 ∧ (∀ k < 704, at_ (64 + k) 1 < 4) ∧ at_ (256 + 448) 1 = 3 ∧
      (∀ o ∈ [0, 32], at_ o 1 < 2 ∧ at_ (o + 2) 6 = 0 ∧ at_ (o + 8) 8 % 4096 = 0 ∧ at_ (o + 16) 8 % 4096 = 0 ∧ at_ (o + 24) 8 = 0) ∧
      (at_ (64 + 191) 1 = placedCtx.r.port + 1 ↔ (ready (st p4)).part.cores.getD 191 0 ≠ placedCtx.r.port + 1)) ∧
    ((tabled (ready State.reset)).part.chunks.getD 448 0 = 3 ∧ leNat (((List.replicate 768 (0 : Byte)).drop (256 + 448)).take 1) ≠ 3) ∧
    (ready State.reset).ctxs = [] ∧ (0, placedCtx) ∈ (tabled (ready (st p4))).ctxs ∧ (ready (st p4)).part.cores.length = 192 ∧
    ¬(2 ^ 20 - 767 + 768 ≤ (ready State.reset).winSize 0) := by
  refine ⟨?_, ?_, by decide, by decide, by decide, by decide, by decide⟩
  · intro s hs
    have h : s = ready (st p4) ∨ s = ready State.reset := by simpa using hs
    rcases h with rfl | rfl <;> exact ⟨table_read _ rfl, by unfold Idle; decide, by unfold Idle; decide, by decide, by rfl, by rfl⟩
  · refine ⟨by decide, ?_, by decide, by decide, by decide⟩
    intro k h
    show leNat ((table.drop (64 + k)).take 1) < 4
    rw [table_at (64 + k) (by omega)]
    unfold tab
    split <;> decide

/-- An image of one block, END: its header but for the CRC, and whole (R68 to R70). -/
def imgHead : List Byte := leBytes 4 0x49473445 ++ leBytes 2 1 ++ leBytes 2 0 ++ leBytes 2 1 ++ leBytes 10 0 ++ leBytes 4 96 ++ leBytes 4 1 ++
  leBytes 4 100 ++ leBytes 4 1 ++ leBytes 4 0 ++ leBytes 4 0 ++ leBytes 4 116 ++ leBytes 4 0 ++ leBytes 4 116 ++ leBytes 4 116
def imgTail : List Byte := leBytes 4 0 ++ leBytes 2 1 ++ leBytes 1 1 ++ leBytes 1 0 ++ leBytes 2 32 ++ leBytes 22 0 ++ leBytes 4 0x4A000000 ++ leBytes 16 0 ++ leBytes 2 97
def img : List Byte := imgHead ++ leBytes 4 (crc32c (imgHead ++ leBytes 4 0 ++ imgTail)) ++ imgTail

/-- The image in memory at 0, and LOAD of it. -/
def imaged : State := let s := ready (mm p4); { s with mem := { s.mem with hbm := Sparse.setRun 0x20000 img s.mem.hbm } }
def loadCmd : Cmd := cmd [(8, 4, 118), (16, 8, 64)]

theorem witness_Load :
    (Idle imaged loadCmd ∧ Mine imaged loadCmd (ctxOf imaged) ∧ Inside imaged 0 (argNat loadCmd 16 8) (2 * 1) ∧ ¬Inside imaged 0 (2 ^ 20) (2 * 1) ∧ (ctxOf imaged).st = .running ∧
      (∀ y ∈ loadCmd.args, y.2 ≠ 0 → ∃ r ∈ [(0, 12), (16, 8)], r.1 ≤ y.1 ∧ y.1 < r.1 + r.2) ∧ argNat loadCmd 0 8 % 64 = 0 ∧ argNat loadCmd 16 8 % 4 = 0) ∧
    ((ctxOf imaged).notCode 0 118 = none ∧ placedCtx.notCode 0 118 = some 0) ∧
    ((match (imaged.mboxStart 6 loadCmd).readImage 1 0 ((118 + 63) / 64) 0 with
      | (u, .bytes bs) => decide (bs.take 118 = img ∧ u.io = (imaged.mboxStart 6 loadCmd).io ∧ u.blocks = imaged.blocks ∧ u.images = imaged.images ∧
          u.ctxs = imaged.ctxs ∧ u.part = imaged.part ∧ u.imageBad (ctxOf imaged) img = none)
      | _ => false) = true) ∧
    ((match imaged.readImage 1 0 ((118 + 63) / 64) 0 with | (_, .bytes bs) => decide (bs.take 118 = img) | _ => false) = true) ∧
    ((imaged.images.find 1 = none ∧ imaged.io.loads = [] ∧ ∀ m < 1, ¬imaged.images.find m = none) ∧ 64 ≤ img.length ∧ leNat ((img.drop 0).take 4) = 0x49473445 ∧
      leNat ((img.drop 4).take 2) = 1 ∧ leNat ((img.drop 8).take 2) = 1 ∧ 64 + 2 * 1 ≤ 2 ^ 50) ∧
    (imaged.imageBad (ctxOf imaged) (img.set 0 0)).isSome = true ∧ leNat (((img.set 0 0).drop 0).take 4) ≠ 0x49473445 ∧
    crc32c ((img.set 116 98).take 60 ++ List.replicate 4 0 ++ (img.set 116 98).drop 64) ≠ leNat (((img.set 116 98).drop 60).take 4) := by
  unfold Idle Mine Inside; and_intros <;> decide

/-- Every slot bound. -/
def bound : State := { imaged with blocks := (List.range 65535).map fun i => (i, placedBlock []) }

theorem witness_LoadSlots : (imaged.freeSlots 1).length = 1 ∧ (bound.freeSlots 1).length < 1 := by
  constructor
  · have e : imaged.freeSlots 1 = ((List.range 65535).filter fun i => (imaged.blocks.find i).isNone && !([] : List Nat).contains i).take 1 := rfl
    have h : ((List.range 65535).filter fun i => (imaged.blocks.find i).isNone && !([] : List Nat).contains i) ≠ [] := by
      intro h
      have := List.filter_eq_nil_iff.mp h 1 (by simp)
      exact this (by decide)
    have : 0 < ((List.range 65535).filter fun i => (imaged.blocks.find i).isNone && !([] : List Nat).contains i).length :=
      List.length_pos_iff.mpr h
    rw [e, List.length_take]
    omega
  · have key : ∀ (l : List Nat), ∀ i ∈ l, (Tbl.find i (l.map fun j => (j, placedBlock []))).isNone = false := by
      intro l
      induction l with
      | nil => simp
      | cons a t ih =>
        intro i h
        simp only [List.map_cons, Tbl.find]
        split
        · rfl
        · rename_i hne
          exact ih i (by simpa [Ne.symm hne] using h)
    have h : ((List.range 65535).filter fun i => (bound.blocks.find i).isNone && !(bound.io.loads.flatMap fun e => e.2.slots).contains i) = [] := by
      rw [List.filter_eq_nil_iff]
      intro i hi
      have e : (bound.blocks.find i).isNone = false := key _ i hi
      rw [e]
      simp
    show (List.take 1 ((List.range 65535).filter fun i => (bound.blocks.find i).isNone && !(bound.io.loads.flatMap fun e => e.2.slots).contains i)).length < 1
    rw [h]
    decide

/-- The loader with the checked image, and with one data section of a byte for an address that no region grants. -/
def datum : List Byte := (img.set 48 1).take 116 ++ (leBytes 8 (2 ^ 47) ++ leBytes 4 1 ++ leBytes 4 0 ++ [7, 0, 0, 0])
def loading (b : List Byte) : State :=
  let s : State := { imaged with io := { imaged.io with loads := [(0, { cmd := loadCmd, image := some b, slots := [1], handle := 1 })] } };
  s

theorem witness_Loading :
    (∀ b ∈ [img, datum], (loading b).io.mbox.length = 2 ∧ (loading b).io.loads.find 0 = some { cmd := loadCmd, image := some b, slots := [1], handle := 1 } ∧
      loadCmd.port = 0 ∧ (loading b).ctx loadCmd.ctx = some (ctxOf (loading b))) ∧
    (imgDatas img = [] ∧ leNat ((img.drop 8).take 2) = 1 ∧ [1].Nodup ∧ (∀ k ∈ [1], k < 65535) ∧ argNat loadCmd 16 8 + 2 * 1 ≤ 2 ^ 50) ∧
    ((loading datum).writeDatas (ctxOf (loading datum)) (imgDatas datum)).2 = some 116 ∧
    ((loading datum).writeDatas (ctxOf (loading datum)) (imgDatas datum)).1.io = (loading datum).io := by
  and_intros <;> decide

/-- UNLOAD of image 0: with nothing live, with an entry, and with a record that names its slot. -/
theorem witness_Unload :
    (∀ s ∈ [ready (store0 false id), ready (store0 false fun c => { c with entries := [en 1 .part] }),
        ready (ctx0 (fun x => { x with recipes := [(0, { rec0 .sealed with entry := 0 })] }) (store0 false id))],
      Idle s (cmd []) ∧ Mine s (cmd []) (ctxOf s) ∧ (ctxOf s).st = .running ∧ s.images.find 0 = some placedImage ∧ placedImage.ctx = 0) ∧
    (∀ e ∈ (ready (store0 false id)).cores, (∀ y ∈ e.2.entries, y.slot ≠ 0) ∧ ∀ q ∈ e.2.packs, q.2.id.slot ≠ 0) ∧
    (∃ e ∈ (ready (store0 false fun c => { c with entries := [en 1 .part] })).cores, ∃ y ∈ e.2.entries, y.slot = 0) ∧ placedImage.slots[0]? = some 0 := by
  unfold Idle Mine; and_intros <;> decide

/-! ### Launches -/

/-- The device with an image of one entry, a list of two nodes at 64 and one of one node at 128 of the host's memory. -/
def launching : State :=
  let s := ready (st p4)
  { s with images := [(0, { placedImage with launches := [{ block := 0, port := 0, first := 5, count := 1, pay := [] }] })],
           mem := { s.mem with host0 := Sparse.setRun 64 (leBytes 4 0 ++ leBytes 4 9) [] } }

/-- LAUNCH 1 in a role, with so many nodes. -/
def launchCmd (role n : Nat) : Cmd := cmd [(4, 1, role), (6, 2, 1), (12, 4, n), (16, 8, 64)]

/-- A PREPARE for launch 1 from node 9, and launch 1 in a role and a state. -/
def prep1 : PrepPkt := {
  dest := 0, source := 9, coord := 0, number := 1, crc := 0, widths := [48, 0, 0, 0, 0, 0], field := 0, colour := 3, count := 2, index := 0,
  listCrc := nodesCrc [0, 9], rsv := false }
def lau (role : Nat) (ls : LaunchSt) : Launch := {
  coord := 0, num := 1, ctx := 0, img := 0, role := role, st := ls, colour := 3, n := 2, field := 0, nodes := [0, 9], index := 0, since := 0,
  ready := [], answers := 0, why := (0, 0), sent := [], recv := [], marks := [], port := 0 }

/-- The state with a launch in that role and state. -/
def launched (role : Nat) (ls : LaunchSt) : State := { launching with launches := [lau role ls] }

/-- The one block ordered. -/
def ordering (s : State) : State := { s with blocks := [(0, { placedBlock [0x51000000] with ordered := true })] }

theorem witness_LaunchCommands :
    (∀ c ∈ [launchCmd 0 1, launchCmd 1 2, launchCmd 2 2, launchCmd 0 2],
      Idle launching c ∧ Mine launching c placedCtx ∧ (∀ y ∈ c.args, y.2 ≠ 0 → ∃ r ∈ [(0, 24)], r.1 ≤ y.1 ∧ y.1 < r.1 + r.2) ∧
      placedCtx.st = .running ∧ (launching.images.find (argNat c 0 4)).any (fun i => i.ctx == c.ctx) = true ∧ argNat c 4 1 ≤ 2 ∧ argNat c 5 1 ≤ 5 ∧
      argNat c 6 2 = 1 ∧ argNat c 8 4 = 0 ∧ launching.launch 0 1 = none) ∧
    (argNat (launchCmd 0 2) 4 1 = 0 ∧ argNat (launchCmd 0 2) 12 4 ≠ 1) ∧
    (argNat (launchCmd 1 2) 16 8 + 4 * 2 ≤ launching.winSize 0 ∧ (List.range 2).map (fun j => leNat (launching.hostRead 0 (64 + 4 * j) 4)) = [0, 9] ∧
      launching.io.node = 0 ∧ (0, 0) ∉ placedCtx.pools ∧ launching.launches = [] ∧ launching.prepares = [] ∧ (∀ k ∈ [0, 9], k < 0xFFFFF) ∧ [0, 9].Nodup ∧ 0 ∈ [0, 9] ∧
      (launching.io.hwait = [] ∧ slotOf placedImage.slots 0 = 0 ∧ (launching.core 0).spill.length + (launching.core 0).arriving.length < 262144) ∧ argNat (launchCmd 2 2) 12 4 = 2) ∧
    (let s := { launching with prepares := [(prep1, 0)] };
      prep1.coord = 0 ∧ prep1.number = 1 ∧ nodesCrc [0, 9] = prep1.listCrc ∧ [0, 9][prep1.index]? = some s.io.node ∧
      (s.images.find 0).any (fun i => i.crc == prep1.crc && i.widths == prep1.widths) = true ∧ (0, prep1.colour) ∉ placedCtx.pools) ∧
    (let s := { launched 2 .waiting with now := 94000000 };
      s.launches[0]? = some (lau 2 .waiting) ∧ (lau 2 .waiting).since + 94000000 ≤ s.now ∧ (launched 2 .waiting).now < (lau 2 .waiting).since + 94000000 ∧
      s.io.mbox.length = 2) ∧
    (∀ c ∈ [cmd [(0, 2, 1), (2, 1, 1)], cmd [(0, 2, 1)]],
      Idle (launched 1 .running) c ∧ Mine (launched 1 .running) c placedCtx ∧ Idle launching c ∧ Mine launching c placedCtx ∧
      (∀ y ∈ c.args, y.2 ≠ 0 → ∃ r ∈ [(0, 2), (2, 1)], r.1 ≤ y.1 ∧ y.1 < r.1 + r.2) ∧
      (launched 1 .running).launches.find? (fun m => (m.ctx == c.ctx && m.num == argNat c 0 2) && m.role != 2) = some (lau 1 .running) ∧
      ((∀ m ∈ (launched 2 .running).launches, (m.ctx == c.ctx && m.num == argNat c 0 2) = true → m.role = 2) ∧
        (launched 2 .running).launches.find? (fun m => m.ctx == c.ctx && m.num == argNat c 0 2) = some (lau 2 .running)) ∧
      (∀ m ∈ launching.launches, ¬(m.ctx = c.ctx ∧ m.num = argNat c 0 2))) ∧
    ((launched 1 .running).blocks.find 0).any (fun b => b.ordered) = false ∧ (∀ e ∈ (cmd [(0, 2, 1)]).args, e.2 ≠ 0 → e.1 < 2) ∧
    ((ordering (launched 1 .running)).block 0).any (fun b => b.ordered) = true ∧ Idle (ordering (launched 1 .running)) (cmd [(0, 2, 1), (2, 1, 1)]) := by
  unfold Idle Mine; and_intros <;> decide

/-- Every colour of level 0 taken: no number is free for a launch of one node. -/
theorem witness_LaunchPool :
    (∀ k < 8192, (0, k) ∈ (List.range 8192).map fun k => ((0, k) : Nat × Nat)) ∧ (0, 0) ∉ ([] : List (Nat × Nat)) :=
  ⟨fun k h => List.mem_map.mpr ⟨k, List.mem_range.mpr h, rfl⟩, by decide⟩

/-- A control packet of launch 1 from node 9. -/
def ctl (vals : List Nat) : CtlPkt := { dest := 0, source := 9, coord := 0, number := 1, vals := vals, rsv := false }

theorem witness_LaunchPackets :
    (prep1.dest = launching.io.node ∧ prep1.dest ≠ 0xFFFFF ∧ launching.launch prep1.coord prep1.number = none) ∧
    ((launched 2 .waiting).launch prep1.coord prep1.number = some (lau 2 .waiting) ∧ (launched 2 .waiting).io.mbox.length = 2 ∧
      ({ launched 2 .waiting with ctxs := [] } : State).ctx 0 = none ∧ (launched 2 .waiting).ctx 0 = some placedCtx ∧
      (launched 2 .waiting).images.find 0 = launching.images.find 0 ∧ (launching.images.find 0).any (fun i => i.crc == 0 && i.widths == prep1.widths) = true) ∧
    ({ prep1 with crc := 1 } : PrepPkt).crc ≠ 0 ∧ ({ prep1 with widths := [] } : PrepPkt).widths ≠ prep1.widths ∧
    (nodesCrc [0, 9] = prep1.listCrc ∧ (lau 2 .waiting).nodes[prep1.index]? = some launching.io.node ∧
      (lau 2 .waiting).nodes[({ prep1 with index := 2 } : PrepPkt).index]? ≠ some launching.io.node) ∧
    ((0, prep1.colour) ∉ placedCtx.pools ∧ (0, prep1.colour) ∈ ({ placedCtx with pools := [(0, 3)] } : Ctx).pools) ∧
    (let s := { launching with prepares := [(prep1, 0)] }; s.prepares[0]? = some (prep1, 0) ∧ s.now < 0 + 94000000 ∧
      0 + 94000000 ≤ ({ s with now := 94000000 } : State).now) ∧
    ((ctl []).dest = 0 ∧ (ctl []).dest ≠ 0xFFFFF ∧ (launched 1 .preparing).launch 0 1 = some (lau 1 .preparing) ∧
      (launched 1 .preparing).io.mbox.length = 2 ∧ (ctl []).source ∈ (lau 1 .preparing).nodes ∧ (ctl []).source ∉ (lau 1 .preparing).ready ∧
      (lau 1 .preparing).ready.length + 2 = (lau 1 .preparing).n ∧ (lau 1 .preparing).ready.length + 2 ≠ ({ lau 1 .preparing with n := 3 } : Launch).n ∧
      (launched 1 .preparing).launches = [lau 1 .preparing]) ∧
    ((launched 1 .preparing).ctx 0 = some placedCtx ∧ (launched 1 .refused).launch 0 1 = some (lau 1 .refused) ∧
      (launched 2 .ready).launches = [lau 2 .ready] ∧ (launched 2 .ready).ctx 0 = some placedCtx ∧ (launched 2 .running).ctx 0 = some placedCtx ∧
      placedCtx.st = .running ∧ (launched 2 .running).images.find 0 = launching.images.find 0 ∧ (lau 2 .running).colour < 8192) ∧
    (launching.mgmt.pktdrop.toNat < 2 ^ 32 - 1 ∧ ({ ctl [] with dest := 5 } : CtlPkt).dest ≠ launching.io.node ∧ ({ ctl [] with rsv := true } : CtlPkt).rsv = true ∧ (ctl []).rsv = false ∧ prep1.rsv = false ∧ launching.launch 0 1 = none) ∧
    ((ordering (launched 2 .running)).block 0).any (fun b => b.ordered && b.ctx == 0) = true ∧
    (launching.block 0).any (fun b => !b.ordered && b.ctx == 0) = true := by
  and_intros <;> decide

/-! ### Links and packets -/

/-- A packet with flits, and a link of port 0 with packets, with so many failed tries of the first flit of channel 3, free slots and flits
sent. -/
def pkt (left due : Nat) : Pkt := { dest := 9, vc := 3, core := 0, body := .ack 0 4, left := left, due := due }
def lk (up : Bool) (queue replay : List Pkt) (tries n sent : Nat) : State :=
  let s := ready (st p4);
  let l : Link := Link.mk up [(3, n)] queue replay [((3, 0), tries)] [] [(3, sent)] [] ((List.range sent).map fun i => (3, i));
  { s with mgmt := { s.mgmt with boot := 3 }, io := { s.io with links := [(0, l)] } }

theorem witness_LinkLayer :
    (((lk true [] [pkt 0 1] 15 63 1).link 0).up = true ∧ ((lk true [] [pkt 0 1] 15 63 1).link 0).backOn 3 + 0 < ((lk true [] [pkt 0 1] 15 63 1).link 0).sentOn 3 ∧
      (3, 0) ∈ ((lk true [] [pkt 0 1] 15 63 1).link 0).recent ∧ ((lk true [] [pkt 0 1] 15 63 1).link 0).sentOn 3 ≤ 0 + 1) ∧
    (((lk false [] [] 0 64 0).link 0).up = false ∧ ((lk false [] [] 0 64 0).link 1).up = false ∧ 3 ≤ (lk false [] [] 0 64 0).mgmt.boot ∧
      (ready (st p4)).mgmt.boot < 3) ∧
    (∀ q ∈ ((lk true [pkt 1 0] [] 0 64 0).link 0).replay ++ ((lk true [pkt 1 0] [] 0 64 0).link 0).queue, ¬(q.vc = 3 ∧ q.due ≠ 0)) ∧
    (((lk true [pkt 1 1] [pkt 0 2] 16 64 3).link 0).up = true ∧ (∃ e ∈ ((lk true [pkt 1 1] [pkt 0 2] 16 64 3).link 0).tries, 16 ≤ e.2) ∧
      16 ≤ ((lk true [pkt 1 1] [pkt 0 2] 16 64 3).link 0).triesOf (3, 0) ∧
      (∀ k < 16, k ≠ 0 → (Sparse.get (9 / 4096) (lk true [] [] 0 0 0).io.route).toNat.testBit k = true → ((lk true [] [] 0 0 0).link k).up = false)) ∧
    (∀ e ∈ ((lk true [] [pkt 0 1] 15 64 1).link 0).tries, e.2 < 16) ∧
    (((lk true [] [pkt 0 2, pkt 0 1] 15 61 3).link 0).replay = pkt 0 2 :: [pkt 0 1] ∧ ((lk true [] [pkt 0 2, pkt 0 1] 15 61 3).link 0).queue = [] ∧
      (pkt 0 2).vc = 3 ∧ (pkt 0 2).due ≠ 0 ∧ (∀ r ∈ [pkt 0 1], r.due ≠ 0) ∧ ((lk true [] [pkt 0 2, pkt 0 1] 15 61 3).link 0).triesOf (3, 0) < 16) ∧
    (((lk true [pkt 1 0] [pkt 0 1] 0 0 1).link 0).queue = [pkt 1 0] ∧ ((lk true [pkt 1 0] [pkt 0 1] 0 0 1).link 0).count 3 = 0 ∧ 0 < (pkt 1 0).left ∧
      ((lk true [pkt 1 0] [pkt 0 1] 0 0 1).link 0).replay = pkt 0 1 :: []) ∧
    ((lk false [] [] 0 64 0).io.held = [] ∧ 0 < 16) := by
  and_intros <;> decide

/-- Packets to be sent, and bytes of a reserved type and with a reserved header bit. -/
theorem witness_PacketBytes :
    (∀ t ∈ [tk 0 3, { tk 0xFFFF 0 with rel := some .sys }, { tk 7 1 with rel := some .dev }], ∃ q : Pkt, q.body = .token (2 ^ 20 - 1) 4095 65535 t ∧
      q.dest < 2 ^ 20 ∧ q.vc < 8 ∧ t.port < 2 ^ 8 ∧ t.pay.length ≤ 8) ∧
    (∃ q : Pkt, q.body = .write (2 ^ 64 - 4) 0 1 (2 ^ 32 - 1) (List.replicate 68 7) ∧ q.dest < 2 ^ 20 ∧ q.vc < 8 ∧ (List.replicate 68 (7 : Byte)).length ≤ 4096) ∧
    ((lk true [] [] 0 64 0).link 0).up = true ∧ (lk true [] [] 0 64 0).mgmt.pktdrop.toNat < 2 ^ 32 - 1 ∧
    (∀ y ∈ [0, 7, 15], let h := leNat ((leBytes 8 (y * 2 ^ 40)).take 8); h / 2 ^ 40 % 16 = 0 ∨ 7 ≤ h / 2 ^ 40 % 16) ∧
    (∀ y ∈ [5 + 2 ^ 40, 0xFFFFF + 2 * 2 ^ 40, 3 * 2 ^ 40 + 2 ^ 47, 4 * 2 ^ 40 + 2 ^ 56], let h := leNat ((leBytes 8 y).take 8)
      h / 2 ^ 40 % 16 ∈ [1, 2, 3, 4] ∧ (h % 2 ^ 20 ≠ (lk true [] [] 0 64 0).io.node ∨ h % 2 ^ 20 = 0xFFFFF ∨ h.testBit 47 = true ∨ h / 2 ^ 56 % 256 ≠ 0)) ∧
    (∀ y ∈ [0, 9], let h := leNat ((leBytes 8 (y + 5 * 2 ^ 40 + 3 * 2 ^ 44)).take 8)
      h / 2 ^ 40 % 16 = 5 ∧ 3 ≤ h / 2 ^ 44 % 8 ∧ (h % 2 ^ 20 = (lk true [] [] 0 64 0).io.node ↔ y = 0) ∧ h.testBit 47 = false ∧ h / 2 ^ 56 % 256 = 0) := by
  refine ⟨?_, ⟨{ pkt 2 0 with body := .write (2 ^ 64 - 4) 0 1 (2 ^ 32 - 1) (List.replicate 68 7) }, rfl, by decide, by decide, by decide⟩, by decide,
    by decide, by decide, by decide, by decide⟩
  intro t ht
  refine ⟨{ pkt 1 0 with body := .token (2 ^ 20 - 1) 4095 65535 t }, rfl, (by decide : 9 < 2 ^ 20), (by decide : 3 < 8), ?_⟩
  revert t
  decide

/-- A token packet of launch 1 and a write packet to 0, for this node. -/
def tp (block : Nat) : TokPkt := {
  dest := 0, source := 9, vc := 7, count := 0, hdrRsv := false, tag := 9, coord := 0, number := 1, block := block, port := 0, length := 8,
  payload := [1, 2, 3, 4, 5, 6, 7, 8], rel := true, rsv := false }
def wp (addr n : Nat) : WrPkt := {
  dest := 0, source := 9, count := (4 * n + 63) / 64, hdrRsv := false, addr := addr, coord := 0, number := 1, copyId := 5, bytes := List.replicate (4 * n) 7 }

/-- Launch 1 running in memory that is mapped. -/
def linked : State := { ready (mm p4) with launches := [lau 2 .running], images := launching.images }

/-- The copy that waits for two words' answers. -/
def sent : Copy := { cp .sent with uid := 5, done := [], bad := [], pkts := [(0, 2)] }
def answering : State :=
  let s := core0 (fun c => { c with copies := [(511, sent)] }) linked
  { s with io := { s.io with remote := [(5, 0, 511)] } }

/-- The answers to copy 5. -/
def ack0 : AckPkt := { dest := 0, source := 9, rsv := false, copyId := 5, bytes := 8 }
def fault0 : FaultPkt := { dest := 0, source := 9, rsv := false, copyId := 5, off := 4, kind := 2 }

/-- A checkpoint under way. -/
def chk0 : Chk := {
  start := 0, dest := 0, nodes := List.range 8, ports := List.range 8, lists := List.replicate 8 [], acks := List.replicate 8 0, failed := none,
  arrivals := [] }

theorem witness_LinkPackets :
    (TokenForm linked (tp 0) ∧ TokenForm linked (tp 0xFFFF) ∧ linked.launch 0 1 = some (lau 2 .running) ∧ (lau 2 .running).st = .running ∧
      linked.ctx 0 = some (ctxOf linked) ∧ (ctxOf linked).st = .running ∧ (((linked.link 0).used.find 7).getD 0 < 64) ∧
      (linked.images.find 0).any (fun i => i.slots[0]? == some 0) = true ∧ (linked.block 0).any (fun b => !b.ordered && b.ctx == 0) = true ∧
      ((linked.core (linked.placeCore (ctxOf linked) (placedBlock []) 9)).intake.find 7).getD [] = [] ∧ linked.io.lwait = [] ∧
      (ctxOf linked).box.places.length < 64) ∧
    (let s := core0 (fun c => { c with intake := [(7, List.replicate 32 (tk 0 0, 0))] }) linked;
      32 ≤ (((s.core (s.placeCore (ctxOf s) (placedBlock []) 9)).intake.find 7).getD []).length) ∧
    ((ctxOf (ctx0 (fun x => { x with st := .preempted, areaPages := [7] }) linked)).st = .preempted ∧ (0 : Nat) < 1024 * [7].length ∧
      (ctxOf (ctx0 (fun x => { x with st := .preempted }) linked)).areaPages = [] ∧ (ctxOf (ctx0 (fun x => { x with st := .restoring }) linked)).arrivals = [] ∧
      (ctx0 (fun x => { x with st := .restoring }) linked).smallFrame = some (449 * 2 ^ 14)) ∧
    (¬({ tp 0 with length := 9 } : TokPkt).length ≤ 8 ∧ ({ tp 0 with vc := 8 } : TokPkt).vc = 8) ∧ ((wp 2 1).addr % 4 ≠ 0 ∧ (wp 0 0).bytes = []) ∧
    ((wp 65536 2).dest = linked.io.node ∧ (wp 65536 2).bytes.length = 4 * 2 ∧
      ∀ j < 2, ¬((wp (2 ^ 63) 2).addr + 4 * j + 4 ≤ 2 ^ 64 ∧ (ctxOf linked).allowed false 2 ((wp (2 ^ 63) 2).addr + 4 * j) 4 = true)) ∧
    ((∀ p ∈ [wp 0 1, wp 65536 1], p.bytes.length = 4 * 1 ∧ p.addr + 4 ≤ 2 ^ 64 ∧ (ctxOf linked).allowed false 2 p.addr 4 = true) ∧
      (match linked.translate 1 65536 .write none with | .fault _ => true | _ => false) = true ∧
      (match linked.translate 1 0 .write none with | .ok pa _ => (paHost pa).isNone | _ => false) = true) ∧
    (answering.chk = none ∧ answering.io.remote.find 5 = some (0, 511) ∧ (answering.core 0).copies.find 511 = some sent ∧ sent.uid % 2 ^ 32 = 5 ∧
      sent.st = .sent ∧ sent.pkts = [(0, 2)] ∧ (∀ k, 0 ≤ k → k < 0 + 2 → k ∉ sent.done ∧ ∀ b ∈ sent.bad, b.1 ≠ k) ∧ 4 < 4 * 2 ∧
      (ack0.dest = answering.io.node ∧ ack0.dest ≠ 0xFFFFF ∧ ack0.rsv = false ∧ ack0.copyId = 5 ∧ ack0.bytes = 4 * 2) ∧
      (fault0.dest = ack0.dest ∧ fault0.rsv = false ∧ fault0.copyId = ack0.copyId ∧ fault0.off < 4 * 2) ∧
      ({ ack0 with rsv := true } : AckPkt).rsv = true ∧ ({ fault0 with dest := 5 } : FaultPkt).dest ≠ answering.io.node) ∧
    (({ linked with chk := some chk0 } : State).chk = some chk0 ∧ chk0.acks.length = 8 ∧ ({ ack0 with copyId := 0xFFFFFFFF } : AckPkt).copyId = 0xFFFFFFF8 + 7) := by
  unfold TokenForm; and_intros <;> decide

/-! ### Teardown, pre-emption, resumption and checkpoints -/

/-- Context 0 in a state, with no pack. -/
def idle (f : Ctx → Ctx) : State := ready (ctx0 f (store0 false id))
def ctxSt (x : CtxSt) : State := idle fun c => { c with st := x }

theorem witness_Teardown :
    (Idle (ready (st p4)) (cmd []) ∧ Mine (ready (st p4)) (cmd []) placedCtx ∧ (∀ y ∈ (cmd []).args, y.2 = 0)) ∧
    (∀ e ∈ (ready (st p4)).cores, ∀ q ∈ e.2.copies, q.2.ctx = 0 → ∀ p ∈ e.2.packs, p.2.id.serial = q.2.serial → p.2.id.ctx = 0) ∧
    ((ready (st ptrap)).pack me = some ptrap ∧ ptrap.id.ctx = 0 ∧ ptrap.c.st = .trapped ∧ ptrap.id.colour = none) ∧
    ((ready (st p4)).ctx 0 = some placedCtx ∧ placedCtx.st ≠ .ending) ∧
    (ctxSt .ending).ctx 0 = some (ctxOf (ctxSt .ending)) ∧ (ctxOf (ctxSt .ending)).st = .ending ∧ (ctxSt .ending).tornDown 0 1 = true ∧
    (ctxOf (ctxSt .ending)).r.asid = 1 ∧ (ctxOf (ctxSt .ending)).r.port < 2 ∧ (ctxSt .ending).io.mbox.length = 2 := by
  unfold Idle Mine; and_intros <;> decide

/-- A cut of context 0, with no pack left and with one. -/
def cut (placed saved settle : Bool) : Cut := { start := 0, timeout := 4096, settle := settle, placed := placed, saved := saved }
def cutting (k : Cut) : State := idle fun c => { c with st := .cutting, cut := some k }
def cutRun (k : Cut) : State := ready (ctx0 (fun c => { c with st := .cutting, cut := some k }) (st p4))

/-- A saved cut of a context with a launch of two nodes that waits for the other's marker. -/
def settling : State := { cutting (cut true true true) with launches := [lau 2 .running] }

/-- PREEMPT with its least time and settling, with no page of the firmware's free, and with enough. -/
def preemptCmd : Cmd := cmd [(0, 8, 4096), (8, 1, 1)]
def noPages (s : State) : State := { s with part := { s.part with chunks := List.replicate 512 1 } }

theorem witness_PreemptPages :
    (let s := noPages (ready (st p4)); s.fwPages (s.imageBound 0 placedCtx) = [] ∧ s.imageBound 0 placedCtx ≠ 0) ∧
    (let s := fw (ready (st p4)); s.imageBound 0 placedCtx ≤ (s.fwPages (s.imageBound 0 placedCtx)).length) ∧
    (∀ s ∈ [noPages (ready (st p4)), fw (ready (st p4))], Idle s preemptCmd ∧ Mine s preemptCmd placedCtx) := by
  unfold Idle Mine; and_intros <;> decide

/-- A cut whose packs have ended, before its markers and after, with a marker of channel 3 of a port that is up. -/
def drainedCutOf (placed : Bool) (marks : List CutMark) : State :=
  let s := cutting { cut placed false false with drained := true, marks := marks, pages := [5] };
  { s with io := { s.io with links := [(0, { Link.reset with up := true, counts := [(3, 63)] })] } }

theorem witness_PreemptMarkers :
    (∀ m ∈ [[], [CutMark.link 0 3], [CutMark.outbound 0, .fabric 0]], ∀ b : Bool, let s := drainedCutOf b m
      s.ctx 0 = some (ctxOf s) ∧ (ctxOf s).cut = some { cut b false false with drained := true, marks := m, pages := [5] } ∧ (ctxOf s).st = .cutting ∧
      s.drainedCut 0 = true ∧ s.quietCut 0 (ctxOf s) = true ∧ (ctxOf s).r.port < 2 ∧ s.io.mbox.length = 2 ∧ s.launches = []) ∧
    (∀ m ∈ [CutMark.outbound 0, .fabric 0], (drainedCutOf true [.outbound 0, .fabric 0]).doneMark 0 m = true) ∧
    (let s := core0 (fun c => { c with intake := [(3, [(tk 0 1, 7)])] }) (drainedCutOf true [.intake 0 3 9]);
      (ctxOf s).cut.map (fun k => k.marks) = some [.intake 0 3 9] ∧ s.quietCut 0 (ctxOf s) = true ∧ s.drainedCut 0 = true ∧
        (s.core 0).intake.find 3 = some [(tk 0 1, 7)] ∧ (7 : Nat) ≤ 9) ∧
    ((drainedCutOf true []).link 0).count 3 ≠ 64 ∧ ((drainedCutOf true []).link 0).up = true ∧ 5 < 2 ^ 18 := by
  and_intros <;> decide

theorem witness_Preemption :
    (∀ c ∈ [cmd [], cmd [(0, 8, 4096), (8, 1, 1)]], Idle (ready (st p4)) c ∧ Mine (ready (st p4)) c placedCtx ∧
      ∀ y ∈ c.args, y.2 ≠ 0 → ∃ r ∈ [(0, 9)], r.1 ≤ y.1 ∧ y.1 < r.1 + r.2) ∧
    (¬4096 ≤ argNat (cmd []) 0 8 ∧ 4096 ≤ argNat (cmd [(0, 8, 4096), (8, 1, 1)]) 0 8 ∧ argNat (cmd [(0, 8, 4096), (8, 1, 1)]) 8 1 ≤ 1 ∧ placedCtx.st = .running ∧
      (ctxOf (ctxSt .preempted)).st ≠ .running ∧ Idle (ctxSt .preempted) (cmd [(0, 8, 4096), (8, 1, 1)])) ∧
    (∀ b : Bool, let s := cutting (cut b false false);
      s.ctx 0 = some (ctxOf s) ∧ (ctxOf s).cut = some (cut b false false) ∧ (ctxOf s).r.port < 2 ∧ s.io.mbox.length = 2 ∧ (ctxOf s).st = .cutting ∧
      s.drainedCut 0 = true ∧ s.quietCut 0 (ctxOf s) = true ∧ (cut b false false).drained = false ∧ s.launches = []) ∧
    (∀ k : Cut, k = { cut false false false with drained := true } → let s := cutRun k; s.drainedCut 0 = false ∧ (ctxOf s).cut = some k ∧ k.drained = true) ∧
    (let s := cutRun (cut false false false);
      s.ctx 0 = some (ctxOf s) ∧ (ctxOf s).cut = some (cut false false false) ∧ (ctxOf s).st = .cutting ∧ s.drainedCut 0 = false ∧ s.now < 0 + 4096 ∧
      ({ s with now := 4096 } : State).drainedCut 0 = false ∧ 0 + 4096 ≤ ({ s with now := 4096 } : State).now) ∧
    (settling.ctx 0 = some (ctxOf settling) ∧ (ctxOf settling).cut = some (cut true true true) ∧ settling.settled 0 = false ∧ 0 + 4096 ≤ settling.now ∧
      ({ settling with now := 0 } : State).settled 0 = false ∧ ({ settling with now := 0 } : State).now < 0 + 4096) ∧
    ((ctl [0]).dest = settling.io.node ∧ settling.launch 0 1 = some (lau 2 .running) ∧ (launched 2 .running).launch 0 1 = some (lau 2 .running) ∧
      (∀ x ∈ (launched 2 .running).ctx 0, x.cut = none)) ∧
    (settling.launches = [lau 2 .running] ∧ 1 < (lau 2 .running).n ∧ (lau 2 .running).nodes = [settling.io.node, (ctl [0]).source] ∧
      ((lau 2 .running).recv.find (ctl [0]).source).getD 0 = (ctl [0]).vals.getD 0 0) := by
  unfold Idle Mine
  refine ⟨by decide, by and_intros <;> decide, by decide, fun k h => by subst h; decide, ?_⟩
  and_intros <;> decide

/-- A save image with nothing but some packs and entries. -/
def image (packs : List SavedPack) (es : List (Nat × Nat × Entry)) : Save := {
  settled := true, cut := 0, cores := [0], entries := es, closed := [], tokens := [], outbound := [], spawns := [], wakes := [], copies := [],
  packs := packs, ghosts := [] }
def saved (v : Save) : State := idle fun c => { c with st := .preempted, save := some v }

/-- A trapped pack in a save image. -/
def savedPack : SavedPack := { core := 0, pack := ptrap, tiles := [], queue := [], frame := [], dumps := [], parked := false }
def restoring (l : List SavedPack) : State := idle fun c => { c with st := .restoring, save := some (image [] []), restore := l }

/-- A saved token alone that waits for its core, and a core whose spill area is full. -/
def waitingTok : State := idle fun c => { c with st := .restoring, save := some { image [] [] with tokens := [tk 0 1] }, restore := [] }
def spillFull : State := core0 (fun c => { c with spill := List.replicate 262144 (tk 0 0) }) waitingTok

theorem witness_ResumedTokenWaits : spillFull.accepts 0 (tk 0 1) = false := by
  have h : (spillFull.core 0).spill.length = 262144 := List.length_replicate
  have e : spillFull.finds 0 (tk 0 1) = false := by rfl
  have k : ((tk 0 1).cls != .program) = false := by rfl
  unfold State.accepts
  rw [h, e, k]
  simp [spillCap]

/-- Constants of another context fill the store of core 0. -/
def crowded : State :=
  let s := saved (image [] []);
  core0 (fun c => { c with st := { c.st with consts := List.replicate 257 (9, []) } })
    { s with images := [(0, { placedImage with consts := [1] }), (9, { placedImage with ctx := 1, consts := List.replicate 1024 0 })] }

theorem witness_Resumption :
    (∀ c ∈ [cmd [], cmd [(0, 24, 1)], cmd [(0, 24, 2)]], ∀ v ∈ [image [] [], image [savedPack] [], image [] [(0, 0, en 1 .part)]],
      Idle (saved v) c ∧ Mine (saved v) c (ctxOf (saved v)) ∧ (∀ y ∈ c.args, y.2 ≠ 0 → ∃ r ∈ [(0, 24)], r.1 ≤ y.1 ∧ y.1 < r.1 + r.2) ∧
      (saved v).chk = none ∧ (ctxOf (saved v)).st = .preempted ∧ (ctxOf (saved v)).save = some v ∧
      (∀ e ∈ (saved v).blocks, e.2.ctx = c.ctx → e.2.priv * 128 ≤ (ctxOf (saved v)).privSize / 1 / 128 * 128)) ∧
    (bitsOf (argNat (cmd []) 0 24) 192 = [] ∧ bitsOf (argNat (cmd [(0, 24, 1)]) 0 24) 192 = [0] ∧ bitsOf (argNat (cmd [(0, 24, 2)]) 0 24) 192 = [1] ∧
      (ctxOf (saved (image [] []))).cores = [0] ∧ (saved (image [] [])).part.cores.getD 0 0 = 0 + 1) ∧
    (let s := { saved (image [] []) with part := { (saved (image [] [])).part with cores := [2] } }; ¬s.part.cores.getD 0 0 = 0 + 1) ∧
    (let s := { saved (image [] []) with blocks := [(0, { placedBlock [] with priv := 1 })] };
      ∃ e ∈ s.blocks, e.2.ctx = 0 ∧ ¬e.2.priv * 128 ≤ (ctxOf s).privSize / 1 / 128 * 128) ∧
    (64 * 1 < (image (List.replicate 65 savedPack) []).packs.length ∧ (ready (st p4)).ctx 0 = some placedCtx ∧ placedCtx.st ≠ .preempted) ∧
    (∀ v ∈ [image [] [], image [savedPack] []],
      (saved v).recordRoom [0] (v.records [0] ((saved v).renames v [0]).2) = true ∧ v.packs.length ≤ 64 * 1 ∧
      (saved v).constRoom 0 { ctxOf (saved v) with cores := [0] } = true ∧
      (((saved v).renames v [0]).1.addGhosts v [0] ((saved v).renames v [0]).2).isSome = true) ∧
    (∀ k ∈ [0], k ∈ (ctxOf (saved (image [] []))).cores) ∧ crowded.constRoom 0 { ctxOf crowded with cores := [0] } = false ∧
    (({ saved (image [] []) with chk := some chk0 } : State).chk ≠ none ∧ Idle { saved (image [] []) with chk := some chk0 } (cmd [])) ∧
    ((ctxSt .running).ctx 0 = some (ctxOf (ctxSt .running)) ∧ (ctxOf (ctxSt .running)).st ≠ .restoring) ∧
    (∀ l ∈ [[savedPack], [savedPack, { savedPack with pack := p4 }]],
      (restoring l).ctx 0 = some (ctxOf (restoring l)) ∧ (ctxOf (restoring l)).st = .restoring ∧ (ctxOf (restoring l)).restore.head? = some savedPack ∧
      (((restoring l).placeSaved 0).restoreFits savedPack).isSome = true ∧ (ctxOf (restoring l)).r.port < 2) ∧ savedPack.pack.id.ctx = 0 ∧
    (let q := { savedPack with queue := List.replicate 17 (op0 .nop) };
      (ctxOf (restoring [q])).restore = [q] ∧ (restoring [q]).restoreFits q = none ∧ (∀ w ∈ (ctxOf (restoring [q])).save, w.tokens = []) ∧
      ∀ pipe < 4, 16 < (((restoring [q]).core q.core).pipe pipe).queue.length + q.queue.length) ∧
    ((ctxOf waitingTok).st = .restoring ∧ (ctxOf waitingTok).restore = [] ∧ (ctxOf waitingTok).save = some { image [] [] with tokens := [tk 0 1] } ∧
      (waitingTok.block 0).any (fun b => b.ctx == 0 && !b.ordered) = true ∧ waitingTok.launches = [] ∧ waitingTok.io.hwait = [] ∧
      (ctxOf waitingTok).arrivals = [] ∧ waitingTok.accepts 0 (tk 0 1) = true ∧ waitingTok.placeCore (ctxOf waitingTok) (placedBlock []) 9 = 0) := by
  unfold Idle Mine; and_intros <;> decide

/-- A saved entry, and cores as they are after reset. -/
def savedEntry : State := { saved (image [] [(0, 0, en 1 .part)]) with cores := [] }

theorem witness_ResumedEntry :
    Idle savedEntry (cmd []) ∧ Mine savedEntry (cmd []) (ctxOf savedEntry) ∧ savedEntry.chk = none ∧ (ctxOf savedEntry).st = .preempted ∧
      (ctxOf savedEntry).save = some (image [] [(0, 0, en 1 .part)]) ∧ savedEntry.part.cores.getD 0 0 = 0 + 1 ∧ (ctxOf savedEntry).cores = [0] ∧
      (∀ e ∈ savedEntry.blocks, e.2.ctx = 0 → e.2.priv * 128 ≤ (ctxOf savedEntry).privSize / 1 / 128 * 128) ∧
      savedEntry.recordRoom [0] ([], []) = true ∧ savedEntry.constRoom 0 { ctxOf savedEntry with cores := [0] } = true ∧
      (∃ b, savedEntry.block (en 1 .part).slot = some b ∧ b.ports ≤ 4 ∧ savedEntry.core (savedEntry.placeCore (ctxOf savedEntry) b 9) = Core.reset) ∧
      (en 1 .part).tag.toNat / 2 ^ 61 ≠ 7 ∧ (en 1 .part).tag.toNat % 2 ^ 48 = 9 := by
  unfold Idle Mine; and_intros <;> decide

/-- CHECKPOINT to nodes 1 to 8 by ports 0 to 7, and one whose ports repeat. -/
def chkCmd : Cmd := cmd [(0, 4, 1), (4, 4, 2), (8, 4, 3), (12, 4, 4), (16, 4, 5), (20, 4, 6), (24, 4, 7), (28, 4, 8), (32, 8, 0x0706050403020100)]

/-- Every one of ports 0 to 7 up but those of a list. -/
def ports (down : List Nat) : State :=
  let s := saved (image [] [])
  { s with io := { s.io with links := ((List.range 8).filter fun k => !down.contains k).map fun k => (k, { Link.reset with up := true }) } }

/-- One dirty line at its home slice, whose page is mapped. -/
def dirtyLine : L2Line := { l2line with dirty := 2 ^ 63 + 1 }
def dirty : State := ctx0 (fun x => { x with st := .preempted, save := some (image [] []) }) { ready (mm p4) with mem := { (ready (mm p4)).mem with l2 := [dirtyLine] } }

theorem witness_Checkpoint :
    (∀ c ∈ [chkCmd, cmd []], ∀ s ∈ [ports [], ports [3], dirty, ready (st p4)], Idle s c ∧ Idle s { c with port := 1 } ∧
      ∀ y ∈ c.args, y.2 ≠ 0 → ∃ r ∈ [(0, 48)], r.1 ≤ y.1 ∧ y.1 < r.1 + r.2) ∧
    (∀ s ∈ [ports [], ports [3], dirty], ∀ e ∈ s.ctxs, e.2.st = .preempted ∧ e.2.cut = none ∧ e.2.save = some (image [] []) ∧ (image [] []).settled = true) ∧
    (∃ e ∈ (ready (st p4)).ctxs, e.2.st ≠ .preempted) ∧
    ((∀ k < 8, argNat chkCmd (32 + k) 1 < 16) ∧ (∀ j < 8, ∀ k < 8, argNat chkCmd (32 + j) 1 = argNat chkCmd (32 + k) 1 → j = k) ∧
      argNat (cmd []) (32 + 0) 1 = argNat (cmd []) (32 + 1) 1) ∧
    ((∀ j < 8, ((ports []).link (argNat chkCmd (32 + j) 1)).up = true) ∧ ((ports [3]).link (argNat chkCmd (32 + 3) 1)).up = false ∧
      (∀ q < 16, (Sparse.get (argNat chkCmd 12 4 / 4096) (ports [3]).io.route).toNat.testBit q = true → ((ports [3]).link q).up = false) ∧
      (∀ m < 3, ((ports [3]).link (argNat chkCmd (32 + m) 1)).up = true)) ∧
    (dirty.mem.l2 = [dirtyLine] ∧ dirtyLine.held = false ∧ dirtyLine.poison = false ∧ dirtyLine.dirty ≠ 0 ∧ dirtyLine.ops = [] ∧ dirtyLine.colour = none ∧
      dirty.ctxs = [(0, ctxOf dirty)] ∧ (ctxOf dirty).r.asid = dirtyLine.asid ∧
      (match dirty.walk (ctxOf dirty).root (dirtyLine.line * 64) with | .leaf _ v big => (paHost (leafPa v big 0)).isNone | _ => false) = true ∧
      dirtyLine.dirty.testBit 63 = true) ∧
    (({ ready (st p4) with chk := some { chk0 with failed := some 7 } } : State).io.mbox.length = 2 ∧ ({ chk0 with failed := some 7 } : Chk).failed = some 7) ∧
    (∀ j < 8, 2 ^ 36 + 8 * (chk0.lists.getD j []).length ≤ ({ chk0 with acks := List.replicate 8 (2 ^ 36) } : Chk).acks.getD j 0) ∧
    chk0.acks.getD 7 0 < 2 ^ 36 + 8 * (chk0.lists.getD 7 []).length := by
  unfold Idle; and_intros <;> decide

/-! ### The step, the encoding, and what holds throughout -/

theorem witness_RegisterInstructionFrame :
    (∀ i ∈ [Instr.add false .i32 5 2 (.v 3), .cmp .lt .i32 3 2 (.v 3), .moviS 6 7, .fadd .dyn 5 2 (.v 3), .frcp 5 2, .clock 8, .nop],
      (dests i).isSome = true ∧ (st p4).pack (st p4).cur = some p4 ∧ p4.id.colour = none ∧ (match exec i (st p4) with | .next _ => true | _ => false) = true) ∧
    raising (.moviS 6 7) = false ∧ (st p4).cur.pipe < 4 ∧ (st p4).cur.slot < 16 ∧ (st p4).ctx 0 = some placedCtx ∧
    ((⟨0, 1, 1⟩ : PackRef) ≠ (st p4).cur) ∧ ((9 : Nat) ∉ [5]) := by
  and_intros <;> decide

/-- The move of pipeline 1 of core 0, on a pack and words of its own. -/
def issuing (code : List Nat) (p : Pack) : State := on code p

/-- The state after the ck of the move and the parks, and that of the pack whose turn it is: the slot chosen, the words read and whether
they stand at a W point. -/
def looked (s : State) : State := (({ s with agenda := [] } : State).tick (max s.now ((s.core 0).pipe 1).next)).wakePacks 0 1
def turned (s : State) : State := { ((looked s).modPipe 0 1 fun q => { q with turn := 0 }) with cur := me }
def issues (s : State) (p : Pack) (w0 : Nat) (point : Bool) : Prop :=
  s.agenda = [.issue 0 1] ∧ (looked s).nextSlot 0 1 (max s.now ((s.core 0).pipe 1).next) = some 0 ∧ (turned s).pack me = some p ∧
  ((turned s).block p.id.slot).any (fun b => b.code.getD p.idx 0 == w0) = true ∧ (turned s).atPoint p = point

/-- A resumed pack, and a state in which it issues; one where it finds no room for its SPAWN and parks. -/
def pres : Pack := { p4 with c := { p4.c with resume := some 0 } }
def whole : Pack := { pres with c := { pres.c with resume := none } }
def freed (s : State) : State := ((turned s).setFrameState ((turned s).asid 0) me 0).setPack me whole
def parking : State := core0 (fun c => { c with alloc := List.replicate 64 sq }) (issuing [0xF3086100, 0x00050001] pres)

theorem witness_StepRunsTheDecodedInstruction :
    (issues (issuing [0x51000000] p4) p4 0x51000000 false ∧ decodeWords 0x51000000 none = .ok .nop) ∧
    (issues (issuing [0xD1000000] p4) p4 0xD1000000 true ∧ decodeWords 0xD1000000 none = .ok .nop ∧ p4.c.reports = [] ∧ p4.c.resume = none) ∧
    (issues (issuing [0xD1000000] pres) pres 0xD1000000 true ∧ pres.c.reports = [] ∧ pres.c.resume = some 0 ∧
      (match exec .nop (freed (issuing [0xD1000000] pres)) with | .next t => t.pack me != some whole | _ => false) = true) ∧
    (issues parking pres 0xF3086100 true ∧ decodeWords 0xF3086100 (some 0x00050001) = .ok (.spawn 2 6 1 0 0 0 1 5) ∧
      (match exec (.spawn 2 6 1 0 0 0 1 5) (freed parking) with
        | .next t => t.pack me == some whole && ((t.core 0).pipe 1).next == (((turned parking).core 0).pipe 1).next | _ => false) = true) ∧
    (issues (issuing [0xD1000000] prep) prep 0xD1000000 true ∧ prep.c.reports ≠ []) ∧
    (issues (issuing [0x51000001] p4) p4 0x51000001 false ∧ (match decodeWords 0x51000001 none with | .error _ => true | _ => false) = true) ∧
    (let s := issuing [0x51000000] pdrain; s.agenda = [.issue 0 1] ∧ (looked s).nextSlot 0 1 (max s.now ((s.core 0).pipe 1).next) = none) ∧
    (({ st p4 with agenda := [.event .deviceReady] } : State).agenda = [.event .deviceReady] ∧ Instr.deviceReady.isEvent = true) ∧
    (((lk true [] [] 0 64 0).link 0).up = true ∧ (let bs := leBytes 8 (1 * 2 ^ 40 + 7 * 2 ^ 44) ++ leBytes 8 9 ++ List.replicate 48 0;
      (LinkHdr.ofNat (pktNat bs 0 8)).peerMarker = false ∧ ((readPacket bs).event 0).isSome = true)) ∧
    State.reset.agenda = [] ∧ ({ st p4 with agenda := [.pass 3] } : State).agenda = .pass 3 :: [] ∧
    ({ st p4 with agenda := [.boot 3] } : State).agenda = .boot 3 :: [] ∧ ({ st p4 with agenda := [.loader 1] } : State).agenda = .loader 1 :: [] := by
  unfold issues; and_intros <;> decide

/-- The device in each step of bring-up: with the links up that have a partner, ready to be made so, and with a step that failed. Which ports
have a partner, and what the checks of the flash image give, are free values (logs 11, 72), so those premises have no witness of their own. -/
def booting (n : Nat) : State :=
  { State.reset with
    mgmt := { State.reset.mgmt with boot := n }
    io := { State.reset.io with links := (List.range 16).map fun k => (k, { Link.reset with up := true }) } }

theorem witness_BringUp :
    (∀ n ∈ [1, 2, 3, 4, 5], (booting n).mgmt.ready = false ∧ (booting n).mgmt.booterr = 0 ∧ (booting n).mgmt.boot = n ∧
      ∀ port < 16, ((booting n).link port).up = true) ∧ (booting 4).mgmt.boot < 5 ∧ 5 ≤ (booting 5).mgmt.boot ∧ (3 : Nat) ∈ [1, 2, 3, 4, 5, 6] := by
  decide

theorem witness_DeviceResetState : (1 : Nat) < 2 ∧ (st p4).mgmt.latch.length = 2 ∧ (0 : Nat) ≠ 1 := by decide

theorem witness_EveryInstructionDecodes :
    (Instr.add false .i32 2 2 (.v 4)).wellFormed = true ∧ (Instr.add false .i32 2 2 (.v 4)).isEvent = false ∧
    (Instr.rseal 16 8 24 3 1).wellFormed = true ∧ (Instr.rseal 16 8 24 3 1).isEvent = false := by decide

theorem witness_StepKeepsMemoryCanonical :
    Memory.wf State.reset.mem = true ∧ Memory.wf (mm p4).mem = true ∧ (match step (st p4) with | .next _ => true | _ => false) = true := by
  and_intros <;> decide

end Sys2Proof.Tests
end

section
/-! SUPPORT. Lists of bytes as little-endian numbers, and one line at its home slice after a write of it: what a read of the same bytes
finds there (R4, R172, R174). -/

namespace Sys2Proof

/-! ### Little-endian numbers -/

@[simp] theorem length_leBytes (n v : Nat) : (leBytes n v).length = n := by
  induction n generalizing v with
  | zero => rfl
  | succ n ih => simp [leBytes, ih]

/-- The number that n little-endian bytes hold. -/
@[simp] theorem leNat_leBytes (n v : Nat) : leNat (leBytes n v) = v % 256 ^ n := by
  induction n generalizing v with
  | zero => simp [leBytes, leNat, Nat.mod_one]
  | succ n ih =>
    rw [leBytes, leNat, ih, BitVec.toNat_ofNat, show 256 ^ (n + 1) = 256 * 256 ^ n from Nat.pow_succ', Nat.mod_mul]

theorem leNat_lt (bs : List Byte) : leNat bs < 256 ^ bs.length := by
  induction bs with
  | nil => simp [leNat]
  | cons b t ih =>
    have hb : b.toNat < 256 := b.isLt
    rw [leNat, List.length_cons, Nat.pow_succ']
    omega

/-- Bytes come back from the number that they hold. -/
theorem leBytes_leNat (bs : List Byte) : leBytes bs.length (leNat bs) = bs := by
  induction bs with
  | nil => rfl
  | cons b t ih =>
    have hb : b.toNat < 256 := b.isLt
    have hd : leNat (b :: t) / 256 = leNat t := by rw [leNat]; omega
    have hm : BitVec.ofNat 8 (leNat (b :: t)) = b := by
      apply BitVec.eq_of_toNat_eq
      rw [BitVec.toNat_ofNat, leNat]
      omega
    rw [List.length_cons, leBytes, hd, hm, ih]

namespace Sparse

/-- A run of reads gives a list that each of them agrees with. -/
theorem getRun_eq {w : Nat} (m : Sparse w) (k : Nat) (vs : List (BitVec w)) (h : ∀ i < vs.length, get (k + i) m = vs.getD i 0) :
    getRun m k vs.length = vs := by
  apply List.ext_getElem
  · simp [getRun]
  · intro i h1 h2
    simp [getRun, h i h2, h2]

/-- A run of writes is read back. -/
theorem getRun_setRun {w : Nat} (k : Nat) (vs : List (BitVec w)) (m : Sparse w) : getRun (setRun k vs m) k vs.length = vs := by
  apply getRun_eq
  intro i hi
  rw [get_setRun, if_pos (by omega), Nat.add_sub_cancel_left]

end Sparse

namespace Machine

/-! ### A line written and read again -/

theorem mem_bitsOf (m n i : Nat) : i ∈ bitsOf m n ↔ i < n ∧ m.testBit i = true := by simp [bitsOf]

theorem get_foldl_set (data : Sparse 8) (l : List Nat) (base : Sparse 8) (j : Nat) :
    Sparse.get j (l.foldl (fun m i => Sparse.set i (Sparse.get i data) m) base) =
      if j ∈ l then Sparse.get j data else Sparse.get j base := by
  induction l generalizing base with
  | nil => simp
  | cons a l ih =>
    rw [List.foldl_cons, ih, Sparse.get_set]
    by_cases hl : j ∈ l
    · simp [hl]
    · by_cases ha : j = a <;> simp [hl, ha]

/-- Read after an overlay: of the data where the mask has a bit, of the base elsewhere. -/
theorem get_overlay (base data : Sparse 8) (mask j : Nat) :
    Sparse.get j (overlay base data mask) = if j < 64 ∧ mask.testBit j = true then Sparse.get j data else Sparse.get j base := by
  unfold overlay
  rw [get_foldl_set]
  simp only [mem_bitsOf]

theorem testBit_byteMask (off n i : Nat) : (byteMask off n).testBit i = (decide (off ≤ i) && decide (i - off < n)) := by
  rw [byteMask, Nat.testBit_mul_two_pow, Nat.testBit_two_pow_sub_one]

theorem or_and_mask (v m : Nat) : (v ||| m) &&& m = m := by
  apply Nat.eq_of_testBit_eq
  intro i
  rw [Nat.testBit_and, Nat.testBit_or]
  cases v.testBit i <;> cases m.testBit i <;> rfl

/-- A line written at some bytes holds them. -/
theorem L2Line.getRun_write (l : L2Line) (off : Nat) (bs : List Byte) (h : off + bs.length ≤ 64) :
    Sparse.getRun (l.write (lineData off bs) (byteMask off bs.length)).data off bs.length = bs := by
  apply Sparse.getRun_eq
  intro i hi
  have hbit : (byteMask off bs.length).testBit (off + i) = true := by rw [testBit_byteMask]; simp [hi]
  have hget : Sparse.get (off + i) (lineData off bs) = bs.getD i 0 := by
    rw [lineData, Sparse.get_setRun, if_pos (by omega), Nat.add_sub_cancel_left]
  rw [L2Line.write, get_overlay, if_pos ⟨by omega, hbit⟩, hget]

theorem L2Line.valid_write (l : L2Line) (data : Sparse 8) (mask : Nat) : (l.write data mask).valid &&& mask = mask := or_and_mask _ _

@[simp] theorem State.lineColour_none (s : State) (asid va : Nat) : s.lineColour asid va none = none := rfl

/-- A line that is put at its home slice is the one found there. -/
theorem State.l2_putL2 (s : State) (l : L2Line) : (s.putL2 l).l2 l.asid l.line l.colour = some l := by
  have hgone : (s.mem.l2.filter fun x => !(x.asid == l.asid && x.line == l.line && x.colour == l.colour)).find?
      (fun x => x.asid == l.asid && x.line == l.line && x.colour == l.colour) = none := by
    rw [List.find?_eq_none]
    intro x hx
    simpa only [Bool.not_eq_true', Bool.not_eq_true] using (List.mem_filter.mp hx).2
  unfold State.putL2 State.l2
  rw [List.find?_append, hgone]
  simp

theorem State.l2_some (s : State) (asid line : Nat) (colour : Option Nat) (l : L2Line) (h : s.l2 asid line colour = some l) :
    l.asid = asid ∧ l.line = line ∧ l.colour = colour := by
  have := List.find?_some h
  simpa [and_assoc] using this

/-- A write at the home slice leaves there a line that was written so. -/
theorem State.l2_homeWrite (s : State) (asid line : Nat) (data : Sparse 8) (mask : Nat) :
    ∃ l : L2Line, (s.homeWrite asid line data mask none).l2 asid line none = some (l.write data mask) := by
  unfold State.homeWrite State.modL2
  simp only [State.lineColour_none]
  split
  · next l hl =>
    obtain ⟨ha, hn, hc⟩ := s.l2_some asid line none l hl
    refine ⟨l, ?_⟩
    have := s.l2_putL2 (l.write data mask)
    rwa [L2Line.write_asid, L2Line.write_line, L2Line.write_colour, ha, hn, hc] at this
  · exact ⟨L2Line.new asid line none, State.l2_putL2 _ _⟩

/-- A read of bytes that the line at the home slice holds. -/
theorem State.homeRead_of_l2 (s : State) (asid va n : Nat) (use : XlUse) (l : L2Line) (hl : s.l2 asid (va / 64) none = some l)
    (hv : l.valid &&& byteMask (va % 64) n = byteMask (va % 64) n) :
    s.homeRead asid va n none use = (s, .data (Sparse.getRun l.data (va % 64) n) l.poison) := by
  simp [State.homeRead, hl, hv]

/-- Bytes that reached the home slice are read there, as long as the memories stay (R174). -/
theorem State.homeRead_homeWrite (s t : State) (asid va : Nat) (bs : List Byte) (use : XlUse) (h : va % 64 + bs.length ≤ 64)
    (ht : t.mem = (s.homeWrite asid (va / 64) (lineData (va % 64) bs) (byteMask (va % 64) bs.length) none).mem) :
    ∃ z, t.homeRead asid va bs.length none use = (t, .data bs z) := by
  obtain ⟨l, hl⟩ := s.l2_homeWrite asid (va / 64) (lineData (va % 64) bs) (byteMask (va % 64) bs.length)
  have hlt : t.l2 asid (va / 64) none = some (l.write (lineData (va % 64) bs) (byteMask (va % 64) bs.length)) := by
    rw [← hl, State.l2, State.l2, ht]
  exact ⟨_, by rw [t.homeRead_of_l2 asid va bs.length use _ hlt (l.valid_write _ _), l.getRun_write _ _ h]⟩

/-- While the home slices have room, a write there leaves HBM as it was. -/
theorem State.homeWrite_hbm (s : State) (asid line : Nat) (data : Sparse 8) (mask : Nat) (colour : Option Nat)
    (h : s.mem.l2.length < l2Lines) : (s.homeWrite asid line data mask colour).mem.hbm = s.mem.hbm := by
  have hroom : s.roomL2 asid line = s := by
    unfold State.roomL2
    exact if_pos (Nat.lt_of_le_of_lt (List.length_filter_le _ _) h)
  unfold State.homeWrite State.modL2
  dsimp only
  rw [hroom]
  split <;> rfl

end Machine
end Sys2Proof
end

section
/-! SUPPORT. Host accesses within one line: what a host read and a host write do there (R283, R285), and what a read at a home slice
leaves of the replies to the hosts. -/

namespace Sys2Proof.Machine

/-! ### Reads at the home slices and the replies to the hosts -/

/-- A fold of updates that leave a part of the state alone. -/
theorem foldl_keeps {α β : Type} (part : State → β) (f : State → α → State) (hf : ∀ t a, part (f t a) = part t) (l : List α) (s : State) :
    part (l.foldl f s) = part s := by
  induction l generalizing s with
  | nil => rfl
  | cons a l ih => rw [List.foldl_cons, ih, hf]

@[simp] theorem State.physWrite_io (s : State) (pa : Nat) (bs : List Byte) : (s.physWrite pa bs).io = s.io := by
  unfold State.physWrite; split <;> rfl

@[simp] theorem State.touch_io (s : State) (asid va : Nat) (use : XlUse) (e : Option (Nat × Bool)) : (s.touch asid va use e).io = s.io := by
  unfold State.touch; split <;> rfl

@[simp] theorem State.sendEp_reads (s : State) (pa n : Nat) : (s.sendEp pa n).io.reads = s.io.reads := by
  unfold State.sendEp; split <;> rfl

@[simp] theorem State.writeBack_reads (s : State) (l : L2Line) (use : XlUse) : (s.writeBack l use).io.reads = s.io.reads := by
  unfold State.writeBack
  split
  · rfl
  · rw [State.touch_io]
    refine (foldl_keeps (fun t => t.io.reads) _ ?_ _ _).trans ?_
    · intro t a; simp
    · split <;> simp

@[simp] theorem State.giveUp_reads (s : State) (l : L2Line) : (s.giveUp l).io.reads = s.io.reads := by
  have hb : (if l.unsaved then s.writeBack l else s).io.reads = s.io.reads := by split <;> simp
  unfold State.giveUp
  dsimp only
  split
  · split
    · exact hb
    · rfl
  · exact hb

@[simp] theorem State.roomL2_reads (s : State) (asid line : Nat) : (s.roomL2 asid line).io.reads = s.io.reads := by
  unfold State.roomL2
  dsimp only
  split
  · rfl
  · split <;> simp

@[simp] theorem State.putL2_io (s : State) (l : L2Line) : (s.putL2 l).io = s.io := rfl

/-- A fill answers no host. -/
@[simp] theorem State.fill_reads (s : State) (asid va : Nat) (colour : Option Nat) (use : XlUse) :
    (s.fill asid va colour use).1.io.reads = s.io.reads := by
  unfold State.fill
  dsimp only
  split
  · rfl
  · rfl
  · split <;> split <;> simp

/-- A read at a home slice answers no host. -/
@[simp] theorem State.homeRead_reads (s : State) (asid va n : Nat) (colour : Option Nat) (use : XlUse) :
    (s.homeRead asid va n colour use).1.io.reads = s.io.reads := by
  have hf := s.fill_reads asid va colour use
  unfold State.homeRead
  dsimp only
  split
  · split
    · rfl
    · split <;> simp_all
  · split <;> simp_all

/-! ### One piece -/

/-- A range within a line is one piece. -/
theorem linePieces_within_line (pa n : Nat) (h0 : 0 < n) (h : pa % 64 + n ≤ 64) : linePieces n pa n = [(pa, n)] := by
  obtain ⟨k, rfl⟩ : ∃ k, n = k + 1 := ⟨n - 1, by omega⟩
  have hmin : min (k + 1) (64 - pa % 64) = k + 1 := by omega
  have hrest : linePieces k (pa + (k + 1)) 0 = [] := by cases k <;> simp [linePieces]
  simp [linePieces, hmin, hrest]

/-- Within a line a host may access the chunks of its own domain (R285). -/
theorem State.hostMay_within_line (s : State) (port pa n : Nat) (hup : s.io.up.getD port false = true) (htop : pa + n ≤ 2 ^ 39) (h0 : 0 < n)
    (h : pa % 64 + n ≤ 64) : s.hostMay port pa n = (s.part.chunks.getD (pa / 2 ^ 30) 0 == port + 1) := by
  have hone : (pa + n - 1) / 2 ^ 30 - pa / 2 ^ 30 + 1 = 1 := by omega
  rw [State.hostMay, State.portUp, hup, hone, decide_eq_true htop, decide_eq_true h0]
  simp

/-- Below the top of HBM no physical address is a host's. -/
theorem paHost_of_hbm (pa : Nat) (h : pa < 2 ^ 39) : paHost pa = none := by
  have hz : pa / 2 ^ 50 = 0 := by omega
  rw [paHost, hz]
  rfl

theorem State.ownerOf_lt (s : State) (pa : Nat) : s.ownerOf pa < 2 ^ 64 := by
  unfold State.ownerOf
  dsimp only
  split
  · unfold fwFrame; omega
  · exact (Sparse.get (pa / 2 ^ 16) s.mem.owner).isLt

theorem State.ownGrant_ownerOf (s : State) (pa : Nat) : ownGrant (s.ownerOf pa) = s.ownerOf pa / 2 ^ 20 % 2 ^ 12 := rfl

/-- The virtual address that stands for a physical one in a WRITABLE frame (R267, R285). -/
theorem State.frameVaOf_eq (s : State) (pa : Nat) : s.frameVaOf pa = s.ownerOf pa / 2 ^ 32 * 65536 + pa % 65536 := by
  have hlt := s.ownerOf_lt pa
  have hw : ownWva (s.ownerOf pa) = s.ownerOf pa / 2 ^ 32 := by
    show s.ownerOf pa / 2 ^ 32 % 2 ^ 32 = _
    omega
  rw [State.frameVaOf, hw]
  rfl

/-- A frame that is not WRITABLE is read from HBM (R285). -/
theorem State.hostReadPiece_hbm (s : State) (pa n : Nat) (hpa : pa < 2 ^ 39) (ho : s.ownerOf pa % 4 ≠ 1) :
    s.hostReadPiece pa n = (s, Sparse.getRun s.mem.hbm pa n, s.mem.bad.contains (pa / 64)) := by
  simp [State.hostReadPiece, ownState, ho, State.physRead, paHost_of_hbm pa hpa]

/-- A WRITABLE frame is read at its home slice (R285). -/
theorem State.hostReadPiece_home (s : State) (pa n : Nat) (ho : s.ownerOf pa % 4 = 1) (u : State) (bs : List Byte) (z : Bool)
    (h : s.homeRead (ownGrant (s.ownerOf pa)) (s.frameVaOf pa) n none .read = (u, .data bs z)) : s.hostReadPiece pa n = (u, bs, z) := by
  simp [State.hostReadPiece, ownState, ho, h]

/-- A frame that is not WRITABLE is written in HBM (R285). -/
theorem State.hostWritePiece_hbm (s : State) (pa : Nat) (bs : List Byte) (hpa : pa < 2 ^ 39) (ho : s.ownerOf pa % 4 ≠ 1) :
    ∃ bad, s.hostWritePiece pa bs false = { s with mem := { s.mem with hbm := Sparse.setRun pa bs s.mem.hbm, bad } } := by
  simp [State.hostWritePiece, ownState, ho, State.physWrite, paHost_of_hbm pa hpa]

/-- A WRITABLE frame is written at its home slice (R285). -/
theorem State.hostWritePiece_home (s : State) (pa : Nat) (bs : List Byte) (ho : s.ownerOf pa % 4 = 1) :
    s.hostWritePiece pa bs false = s.homeWrite (ownGrant (s.ownerOf pa)) (s.frameVaOf pa / 64) (lineData (s.frameVaOf pa % 64) bs)
      (byteMask (s.frameVaOf pa % 64) bs.length) none := by
  simp [State.hostWritePiece, ownState, ho]

/-! ### Accesses within one line -/

/-- A write to a READONLY frame is an Unsupported Request (R285). -/
theorem exec_hostWrite_readonly (s : State) (port pa : Nat) (bs : List Byte) (h0 : 0 < bs.length) (h : pa % 64 + bs.length ≤ 64) (ho : s.ownerOf pa % 4 = 2) :
    exec (.hostMemoryAccess port pa (.write bs false)) s = .next (s.hostReply port [] false true) := by
  show execHostMemoryAccess port pa (.write bs false) s = _
  simp [execHostMemoryAccess, linePieces_within_line pa bs.length h0 h, ownState, ho]

section
variable (s : State) (port pa : Nat) (hup : s.io.up.getD port false = true)
include hup

/-- A read within a line of the port's own domain answers with its one piece. -/
theorem exec_hostRead_own (n : Nat) (htop : pa + n ≤ 2 ^ 39) (h0 : 0 < n) (h : pa % 64 + n ≤ 64)
    (hc : s.part.chunks.getD (pa / 2 ^ 30) 0 = port + 1) :
    exec (.hostMemoryAccess port pa (.read n)) s =
      .next ((s.hostReadPiece pa n).1.hostReply port (s.hostReadPiece pa n).2.1 (s.hostReadPiece pa n).2.2 false) := by
  have hmay : s.hostMay port pa n = true := by rw [s.hostMay_within_line port pa n hup htop h0 h, hc, beq_self_eq_true]
  show execHostMemoryAccess port pa (.read n) s = _
  simp [execHostMemoryAccess, hmay, linePieces_within_line pa n h0 h]

/-- A write within a line of the port's own domain to a frame that is not READONLY writes its one piece. -/
theorem exec_hostWrite_own (bs : List Byte) (htop : pa + bs.length ≤ 2 ^ 39) (h0 : 0 < bs.length) (h : pa % 64 + bs.length ≤ 64)
    (hc : s.part.chunks.getD (pa / 2 ^ 30) 0 = port + 1) (ho : s.ownerOf pa % 4 ≠ 2) :
    exec (.hostMemoryAccess port pa (.write bs false)) s = .next (s.hostWritePiece pa bs false) := by
  have hmay : s.hostMay port pa bs.length = true := by rw [s.hostMay_within_line port pa bs.length hup htop h0 h, hc, beq_self_eq_true]
  show execHostMemoryAccess port pa (.write bs false) s = _
  simp [execHostMemoryAccess, hmay, linePieces_within_line pa bs.length h0 h, ownState, ho]

/-- An access within a line outside the port's own domain is an Unsupported Request (R285). -/
theorem exec_hostAccess_foreign (bs : List Byte) (htop : pa + bs.length ≤ 2 ^ 39) (h0 : 0 < bs.length) (h : pa % 64 + bs.length ≤ 64)
    (hc : s.part.chunks.getD (pa / 2 ^ 30) 0 ≠ port + 1) (a : HostAcc) (ha : a ∈ [HostAcc.read bs.length, .write bs false]) :
    exec (.hostMemoryAccess port pa a) s = .next (s.hostReply port [] false true) := by
  have hmay : s.hostMay port pa bs.length = false := by simpa [s.hostMay_within_line port pa bs.length hup htop h0 h] using hc
  show execHostMemoryAccess port pa a s = _
  rcases List.mem_pair.mp ha with rfl | rfl <;> simp [execHostMemoryAccess, hmay]

/-- A word of the mailbox window is read as it stands, and no memory and no context changes (R283). -/
theorem exec_hostMailbox (off v : Nat) (ha : off % 4 = 0) (hoff : off < 0x10000) (hv : s.windowWord port off = v) :
    ∃ t, exec (.hostMemoryAccess port off .mailbox) s = .next t ∧ t.mem = s.mem ∧ t.ctxs = s.ctxs ∧
      t.io.reads = s.io.reads ++ [{ port := port, data := leBytes 4 v, ep := false, ur := false }] := by
  refine ⟨_, rfl, State.readWindow_mem _ _ _, ?_⟩
  have hin : ¬(0x10000 ≤ off) := by omega
  subst hv
  unfold State.readWindow
  simp only [State.portUp, hup, ha, hin, Bool.not_true, bne_self_eq_false, decide_false, Bool.or_self, Bool.false_eq_true, if_false]
  split <;> exact ⟨rfl, rfl⟩

end

end Sys2Proof.Machine
end

section
/-! The statement on host accesses (O15), assembled from what an access within a line, a read of a window and a write of a register do. -/

open Sys2Proof Sys2Proof.Machine

namespace Sys2Proof.Proofs

/-! ### Memory -/

section
variable (port pa : Nat) (bs : List Byte) (s : State) (hup : s.io.up.getD port false = true) (htop : pa + bs.length ≤ 2 ^ 39)
  (h0 : 0 < bs.length) (h : pa % 64 + bs.length ≤ 64) (hc : s.part.chunks.getD (pa / 2 ^ 30) 0 = port + 1)
include hup htop h0 h hc

theorem hostRead_of_not_writable (ho : s.ownerOf pa % 4 ≠ 1) :
    ∃ t, exec (.hostMemoryAccess port pa (.read bs.length)) s = .next t ∧ t.mem = s.mem ∧
      t.io.reads = s.io.reads ++ [{ port := port, data := Sparse.getRun s.mem.hbm pa bs.length, ep := s.mem.bad.contains (pa / 64), ur := false }] := by
  refine ⟨_, exec_hostRead_own s port pa hup bs.length htop h0 h hc, ?_⟩
  rw [s.hostReadPiece_hbm pa bs.length (by omega) ho]
  exact ⟨rfl, rfl⟩

theorem hostRead_of_writable (ho : s.ownerOf pa % 4 = 1) (u : State) (b : List Byte) (p : Bool)
    (hr : s.homeRead (s.ownerOf pa / 2 ^ 20 % 2 ^ 12) (s.ownerOf pa / 2 ^ 32 * 65536 + pa % 65536) bs.length none .read = (u, .data b p)) :
    ∃ t, exec (.hostMemoryAccess port pa (.read bs.length)) s = .next t ∧ t.mem = u.mem ∧
      t.io.reads = s.io.reads ++ [{ port := port, data := b, ep := p, ur := false }] := by
  have hkeep := s.homeRead_reads (s.ownerOf pa / 2 ^ 20 % 2 ^ 12) (s.ownerOf pa / 2 ^ 32 * 65536 + pa % 65536) bs.length none .read
  rw [hr] at hkeep
  rw [← s.ownGrant_ownerOf, ← s.frameVaOf_eq] at hr
  refine ⟨_, exec_hostRead_own s port pa hup bs.length htop h0 h hc, ?_⟩
  rw [s.hostReadPiece_home pa bs.length ho u b p hr]
  exact ⟨rfl, congrArg (· ++ _) hkeep⟩

theorem hostWrite_of_unowned (ho : s.ownerOf pa % 4 = 0) :
    ∃ t, exec (.hostMemoryAccess port pa (.write bs false)) s = .next t ∧ Sparse.getRun t.mem.hbm pa bs.length = bs ∧
      (∀ a, (a < pa ∨ pa + bs.length ≤ a) → Sparse.get a t.mem.hbm = Sparse.get a s.mem.hbm) ∧
      t.mem.host0 = s.mem.host0 ∧ t.mem.host1 = s.mem.host1 ∧ t.mem.l2 = s.mem.l2 := by
  obtain ⟨bad, hw⟩ := s.hostWritePiece_hbm pa bs (by omega) (by omega)
  refine ⟨_, exec_hostWrite_own s port pa hup bs htop h0 h hc (by omega), ?_⟩
  rw [hw]
  refine ⟨Sparse.getRun_setRun pa bs s.mem.hbm, fun a ha => ?_, rfl, rfl, rfl⟩
  rw [Sparse.get_setRun, if_neg (by omega)]

theorem hostWrite_of_writable (ho : s.ownerOf pa % 4 = 1) (hroom : s.mem.l2.length < 2 ^ 20) :
    ∃ t, exec (.hostMemoryAccess port pa (.write bs false)) s = .next t ∧ t.mem.hbm = s.mem.hbm ∧
      ∃ p, t.homeRead (s.ownerOf pa / 2 ^ 20 % 2 ^ 12) (s.ownerOf pa / 2 ^ 32 * 65536 + pa % 65536) bs.length none .read = (t, .data bs p) := by
  refine ⟨_, exec_hostWrite_own s port pa hup bs htop h0 h hc (by omega), ?_⟩
  rw [s.hostWritePiece_home pa bs ho, s.ownGrant_ownerOf, s.frameVaOf_eq]
  exact ⟨s.homeWrite_hbm _ _ _ _ none hroom, State.homeRead_homeWrite s _ _ _ bs .read (by omega) rfl⟩

end

/-! ### Windows -/

theorem chronoLoRead_latches (port : Nat) (s : State) (hup : s.io.up.getD port false = true) (hp : port < s.mgmt.latch.length) :
    ∃ t, exec (.chronoLoRead port) s = .next t ∧ (t.mgmt.latch.getD port 0).toNat = s.now / 2 ^ 32 % 2 ^ 32 ∧
      t.io.reads = s.io.reads ++ [{ port := port, data := leBytes 4 s.now, ep := false, ur := false }] ∧ t.mem = s.mem := by
  have hread : s.readWindow port 0x2008 = (s.latchChrono port).hostReply port (leBytes 4 s.now) false false := by
    simp only [State.readWindow, State.portUp, hup]
    rfl
  refine ⟨s.readWindow port 0x2008, rfl, ?_, by rw [hread]; rfl, State.readWindow_mem s port 0x2008⟩
  rw [hread]
  show ((s.mgmt.latch.set port (BitVec.ofNat 32 (s.now / 2 ^ 32))).getD port 0).toNat = _
  simp [hp]

theorem apertureRead_zero (port off len : Nat) (s : State) (hup : s.io.up.getD port false = true) (hlen : off + len ≤ 2 ^ 22) :
    ∃ t, exec (.hostMemoryAccess port off (.aperture len)) s = .next t ∧ t.mem = s.mem ∧
      t.io.reads = s.io.reads ++ [{ port := port, data := List.replicate len 0, ep := false, ur := false }] := by
  have hread : s.readAperture port off len = s.hostReply port (List.replicate len 0) false false := by
    rw [State.readAperture, State.portUp, hup, decide_eq_false (by omega : ¬2 ^ 22 < off + len)]
    rfl
  exact ⟨s.readAperture port off len, rfl, State.readAperture_mem _ _ _ _, by rw [hread]; rfl⟩

/-- The words from 0x1000 of a port's window are the inbox index registers, 16 bytes to a context (R283). -/
theorem windowWord_inbox (s : State) (port n k : Nat) (hn : n < 64) (hk : k < 16) :
    s.windowWord port (0x1000 + k + 16 * n) = s.inboxWord port n k := by
  have h1 : ¬(0x1000 + k + 16 * n < 0x100) := by omega
  have h2 : (0x1000 + k + 16 * n - 0x1000) / 16 = n := by omega
  have h3 : (0x1000 + k + 16 * n) % 16 = k := by omega
  rw [State.windowWord, if_neg h1, h2, h3, decide_eq_true (by omega : 0x1000 ≤ 0x1000 + k + 16 * n),
    decide_eq_true (by omega : 0x1000 + k + 16 * n < 0x1400)]
  rfl

/-- The inbox index registers of a context of the port (R289). -/
theorem inboxWord_own (s : State) (port n : Nat) (x : Ctx) (hx : s.ctx n = some x) (hport : x.r.port = port) :
    s.inboxWord port n 0 = x.box.head ∧ s.inboxWord port n 4 = x.box.tail ∧ s.inboxWord port n 8 = x.box.seq ∧ s.inboxWord port n 12 = 0 := by
  simp [State.inboxWord, hx, hport]

/-! ### Registers -/

/-- A write of a count sets that count alone, to the value with the events of the ck after it (R366). -/
theorem exec_registerWrite_count (port : Nat) (v : Word) (s : State) (hup : s.io.up.getD port false = true) (reg : MgmtReg) (c : Counter)
    (hreg : (reg, c) ∈ [(MgmtReg.cecnt, Counter.cecnt), (.uecnt, .uecnt), (.pktdrop, .pktdrop), (.thrcnt, .thrcnt), (.aperr, .aperr port)]) :
    exec (.registerWrite port reg v) s =
      .next { s with mgmt := s.mgmt.setCount c (BitVec.ofNat 32 (min (v.toNat + s.mgmt.eventsAt c s.now) (2 ^ 32 - 1))) } := by
  show execRegisterWrite port reg v s = _
  rw [execRegisterWrite, State.portUp, hup]
  simp only [List.mem_cons, Prod.mk.injEq, List.not_mem_nil, or_false] at hreg
  rcases hreg with ⟨rfl, rfl⟩ | ⟨rfl, rfl⟩ | ⟨rfl, rfl⟩ | ⟨rfl, rfl⟩ | ⟨rfl, rfl⟩ <;> rfl

theorem exec_registerWrite_other (port n : Nat) (v : Word) (s : State) (hup : s.io.up.getD port false = true) :
    exec (.registerWrite port (.other n) v) s = .next s := by
  show execRegisterWrite port (.other n) v s = _
  rw [execRegisterWrite, State.portUp, hup]
  rfl

theorem registerWrite_aperr (port : Nat) (v : Word) (s : State) (hup : s.io.up.getD port false = true) (hp : port < s.mgmt.aperr.length) :
    ∃ t, exec (.registerWrite port .aperr v) s = .next t ∧
      t.mgmt.aperr.getD port 0 = BitVec.ofNat 32 (min (v.toNat + s.mgmt.eventsAt (.aperr port) s.now) (2 ^ 32 - 1)) ∧
      ∀ k, k ≠ port → t.mgmt.aperr.getD k 0 = s.mgmt.aperr.getD k 0 := by
  refine ⟨_, exec_registerWrite_count port v s hup .aperr (.aperr port) (by simp), ?_, fun k hk => ?_⟩
  · simp [Mgmt.setCount, hp]
  · simp [Mgmt.setCount, List.getElem?_set_ne (Ne.symm hk)]

theorem registerWrite_nonce (port w : Nat) (v : Word) (s : State) (hup : s.io.up.getD port false = true) (hp : port < s.mgmt.nonce.length)
    (hw : w < 8) : ∃ t, exec (.registerWrite port (.attnonce w) v) s = .next t ∧
      ∀ k, Sparse.get k (t.mgmt.nonce.getD port []) = if k = w then v else Sparse.get k (s.mgmt.nonce.getD port []) := by
  have hex : exec (.registerWrite port (.attnonce w) v) s =
      .next { s with mgmt := { s.mgmt with nonce := s.mgmt.nonce.set port (Sparse.set w v (s.mgmt.nonce.getD port [])) } } := by
    show execRegisterWrite port (.attnonce w) v s = _
    rw [execRegisterWrite, State.portUp, hup]
    exact if_pos hw
  refine ⟨_, hex, fun k => ?_⟩
  have hset : (s.mgmt.nonce.set port (Sparse.set w v (s.mgmt.nonce.getD port []))).getD port [] =
      Sparse.set w v (s.mgmt.nonce.getD port []) := by simp [hp]
  rw [hset, Sparse.get_set]

/-! ### The statement -/

/-- Settles O15: an access within a line is one piece, a word of a window is read as it stands, and each register is written alone. -/
theorem hostAccesses : Obligations.HostAccesses := by
  unfold Obligations.HostAccesses
  refine ⟨?_, chronoLoRead_latches, apertureRead_zero, ?_, ?_⟩
  · intro port pa bs s hup htop h0 h
    refine ⟨fun hc => ⟨hostRead_of_not_writable port pa bs s hup htop h0 h hc, hostRead_of_writable port pa bs s hup htop h0 h hc,
      hostWrite_of_unowned port pa bs s hup htop h0 h hc, hostWrite_of_writable port pa bs s hup htop h0 h hc, fun ho => ?_⟩, fun hc a ha => ?_⟩
    · exact ⟨_, exec_hostWrite_readonly s port pa bs h0 h ho, rfl, rfl⟩
    · exact ⟨_, exec_hostAccess_foreign s port pa hup bs htop h0 h hc a ha, rfl, rfl⟩
  · intro port s hup reads
    have fixed : ∀ off, off % 4 = 0 → off < 0x10000 → reads off (s.windowWord port off) :=
      fun off ha hoff => exec_hostMailbox s port hup off _ ha hoff rfl
    refine ⟨fixed 0x2000 rfl (by decide), fixed 0x2004 rfl (by decide), fixed 0x200C rfl (by decide), fixed 0x2010 rfl (by decide),
      fixed 0x2014 rfl (by decide), fixed 0x2018 rfl (by decide), fixed 0x201C rfl (by decide), fixed 0x2020 rfl (by decide),
      fixed 0x2030 rfl (by decide), fixed 0x8 rfl (by decide), fixed 0xC rfl (by decide), fun n x hx hport hn => ?_⟩
    have index : ∀ k, k < 16 → k % 4 = 0 → reads (0x1000 + k + 16 * n) (s.inboxWord port n k) :=
      fun k hk h4 => windowWord_inbox s port n k hn hk ▸ fixed _ (by omega) (by omega)
    obtain ⟨hhead, htail, hseq, hnone⟩ := inboxWord_own s port n x hx hport
    exact ⟨hhead ▸ index 0 (by decide) rfl, htail ▸ index 4 (by decide) rfl, hseq ▸ index 8 (by decide) rfl, hnone ▸ index 12 (by decide) rfl⟩
  · intro port v s hup val
    have count := exec_registerWrite_count port v s hup
    exact ⟨count .cecnt .cecnt (by simp), count .uecnt .uecnt (by simp), count .pktdrop .pktdrop (by simp), count .thrcnt .thrcnt (by simp),
      fun n => exec_registerWrite_other port n v s hup, registerWrite_aperr port v s hup, fun hp w hw => registerWrite_nonce port w v s hup hp hw⟩

end Sys2Proof.Proofs
end

section
/-! SUPPORT. Link packets as bytes (R295 to R297): reading a number out of blocks of bytes, the header, and the bytes of a token packet and
of a write packet, read back by the receiver. -/

namespace Sys2Proof.Machine

/-! ### Blocks of bytes -/

/-- A number past a block of bytes stands in what follows. -/
theorem pktNat_append_right (xs ys : List Byte) (off n : Nat) (h : xs.length ≤ off) :
    pktNat (xs ++ ys) off n = pktNat ys (off - xs.length) n := by
  rw [pktNat, pktNat, List.drop_append, List.drop_eq_nil_of_le h, List.nil_append]

/-- A number that is the first block. -/
theorem pktNat_append_left (xs ys : List Byte) (n : Nat) (h : xs.length = n) : pktNat (xs ++ ys) 0 n = leNat xs := by
  subst h; simp [pktNat]

/-- A number that is all there is. -/
theorem pktNat_self (xs : List Byte) (n : Nat) (h : xs.length = n) : pktNat xs 0 n = leNat xs := by
  subst h; simp [pktNat]

/-- The i-th of blocks of k bytes each. -/
theorem take_drop_flatMap {α : Type} (k : Nat) (f : α → List Byte) (hf : ∀ a, (f a).length = k) (l : List α) (ys : List Byte) (i : Nat)
    (hi : i < l.length) : ((l.flatMap f ++ ys).drop (k * i)).take k = f l[i] := by
  induction l generalizing i with
  | nil => simp at hi
  | cons a l ih =>
    rw [List.flatMap_cons, List.append_assoc]
    cases i with
    | zero => simp [← hf a]
    | succ i =>
      rw [Nat.mul_succ, Nat.add_comm, ← List.drop_drop, ← hf a, List.drop_left, hf a, ih i (by simpa using hi), List.getElem_cons_succ]

theorem length_flatMap_blocks {α : Type} (k : Nat) (f : α → List Byte) (hf : ∀ a, (f a).length = k) (l : List α) :
    (l.flatMap f).length = k * l.length := by
  simp [List.length_flatMap, hf, Nat.mul_comm]

/-- Whole flits take no padding. -/
theorem flitPad_of_whole (bs : List Byte) (h : bs.length % 64 = 0) : flitPad bs = bs := by simp [flitPad, h]

/-! ### The header -/

/-- The fields of a header come back from its number (R295). -/
theorem LinkHdr.ofNat_toNat (dest node typ vc count : Nat) (hd : dest < 2 ^ 20) (hn : node < 2 ^ 20) (ht : typ < 2 ^ 4) (hv : vc < 2 ^ 3)
    (hc : count < 2 ^ 8) : LinkHdr.ofNat (dest + node * 2 ^ 20 + typ * 2 ^ 40 + vc * 2 ^ 44 + count * 2 ^ 48) =
      { dest, source := node, typ, vc, count, rsv := false } := by
  rw [LinkHdr.ofNat, LinkHdr.mk.injEq]
  refine ⟨by omega, by omega, by omega, by omega, by omega, ?_⟩
  rw [Bool.or_eq_false_iff, bne_eq_false_iff_eq, bne_eq_false_iff_eq]
  constructor <;> omega

/-- The number of a header whose fields fit. -/
theorem LinkHdr.toNat_eq (dest node typ vc count : Nat) (rsv : Bool) (hd : dest < 2 ^ 20) (hn : node < 2 ^ 20) (ht : typ < 2 ^ 4)
    (hv : vc < 2 ^ 3) (hc : count < 2 ^ 8) :
    LinkHdr.toNat { dest, source := node, typ, vc, count, rsv } = dest + node * 2 ^ 20 + typ * 2 ^ 40 + vc * 2 ^ 44 + count * 2 ^ 48 := by
  simp only [LinkHdr.toNat, Nat.mod_eq_of_lt, hd, hn, ht, hv, hc]

theorem launchId_eq (coord number : Nat) (hc : coord < 2 ^ 20) (hn : number < 2 ^ 12) : launchId coord number = coord * 2 ^ 12 + number := by
  simp only [launchId, Nat.mod_eq_of_lt, hc, hn]

end Sys2Proof.Machine

namespace Sys2Proof.Proofs

open Sys2Proof.Machine

/-! ### A token packet -/

/-- The layout of a token packet (R295, R296): header, tag, launch identifier, block, port, length, the eight payload words, the release flag,
and reserved bytes. -/
def tokenLayout (hdr tag id block port len : Nat) (word : Nat → Nat) (flag : Nat) : List Byte :=
  leBytes 8 hdr ++ (leBytes 8 tag ++ (leBytes 4 id ++ (leBytes 2 block ++ (leBytes 1 port ++ (leBytes 1 len ++
    (((List.range 8).flatMap fun i => leBytes 4 (word i)) ++ (leBytes 1 flag ++ leBytes 7 0)))))))

section
variable (hdr tag id block port len : Nat) (word : Nat → Nat) (flag : Nat)

theorem length_words : ((List.range 8).flatMap fun i => leBytes 4 (word i)).length = 32 :=
  length_flatMap_blocks 4 (fun i => leBytes 4 (word i)) (fun _ => length_leBytes 4 _) (List.range 8)

theorem length_tokenLayout : (tokenLayout hdr tag id block port len word flag).length = 64 := by
  simp only [tokenLayout, List.length_append, length_leBytes, length_words]

/-- The numbers that stand in the layout, each at its offset. -/
theorem pktNat_tokenLayout (hh : hdr < 2 ^ 64) (ht : tag < 2 ^ 64) (hi : id < 2 ^ 32) (hb : block < 2 ^ 16) (hp : port < 2 ^ 8) (hl : len < 2 ^ 8)
    (hf : flag < 2 ^ 8) : let b := tokenLayout hdr tag id block port len word flag
    pktNat b 0 8 = hdr ∧ pktNat b 8 8 = tag ∧ pktNat b 16 4 = id ∧ pktNat b 20 2 = block ∧ pktNat b 22 1 = port ∧ pktNat b 23 1 = len ∧
      pktNat b 56 1 = flag ∧ pktNat b 57 7 = 0 := by
  simp only [tokenLayout, pktNat_append_right, pktNat_append_left, pktNat_self, length_leBytes, length_words, leNat_leBytes,
    Nat.reduceLeDiff, Nat.reduceSub, Nat.le_refl]
  refine ⟨?_, ?_, ?_, ?_, ?_, ?_, ?_, ?_⟩ <;> omega

/-- The payload words stand in the layout. -/
theorem pktNat_tokenLayout_word (i : Nat) (hi : i < 8) (hw : word i < 2 ^ 32) :
    pktNat (tokenLayout hdr tag id block port len word flag) (24 + 4 * i) 4 = word i := by
  have hblock := take_drop_flatMap 4 (fun i => leBytes 4 (word i)) (fun _ => length_leBytes 4 _) (List.range 8)
    (leBytes 1 flag ++ leBytes 7 0) i (by simpa using hi)
  have hskip : (tokenLayout hdr tag id block port len word flag).drop 24 =
      ((List.range 8).flatMap fun i => leBytes 4 (word i)) ++ (leBytes 1 flag ++ leBytes 7 0) := rfl
  rw [pktNat, ← List.drop_drop, hskip, hblock, leNat_leBytes, List.getElem_range]
  omega

end

/-- The bytes of a token packet are laid out so (R295, R296). -/
theorem token_bytes (q : Pkt) (node coord number block : Nat) (a : Tok) (hq : q.body = .token coord number block a) (hd : q.dest < 2 ^ 20)
    (hn : node < 2 ^ 20) (hv : q.vc < 8) (hc : coord < 2 ^ 20) (hm : number < 2 ^ 12) :
    q.bytes node = tokenLayout (q.dest + node * 2 ^ 20 + 1 * 2 ^ 40 + q.vc * 2 ^ 44 + 0 * 2 ^ 48) a.tag.toNat (coord * 2 ^ 12 + number) block a.port
      a.pay.length (fun i => (a.pay.getD i 0).toNat) (if a.rel = some .sys then 1 else 0) := by
  have hh := LinkHdr.toNat_eq q.dest node 1 q.vc 0 false hd hn (by decide) hv (by decide)
  refine Eq.trans ?_ (flitPad_of_whole _ (by rw [length_tokenLayout]))
  simp only [Pkt.bytes, hq, PktBody.typ, PktBody.flits, PktBody.fields, hh, launchId_eq coord number hc hm, List.append_assoc, tokenLayout]

/-- The receiver reads a token packet back (R295, R296). -/
theorem readPacket_tokenLayout (dest node vc coord number block port len : Nat) (tag : DWord) (pay : List Word) (rel : Prop) [Decidable rel]
    (hd : dest < 2 ^ 20) (hn : node < 2 ^ 20) (hv : vc < 8) (hc : coord < 2 ^ 20) (hm : number < 2 ^ 12) (hb : block < 2 ^ 16)
    (hp : port < 2 ^ 8) (hl : len ≤ 8) :
    readPacket (tokenLayout (dest + node * 2 ^ 20 + 1 * 2 ^ 40 + vc * 2 ^ 44 + 0 * 2 ^ 48) tag.toNat (coord * 2 ^ 12 + number) block port len
      (fun i => (pay.getD i 0).toNat) (if rel then 1 else 0)) =
      .token { dest, source := node, vc, count := 0, hdrRsv := false, tag, coord, number, block, port, length := len,
               payload := (List.range 8).map fun i => pay.getD i 0, rel := if rel then true else false, rsv := false } := by
  have hfits : dest + node * 2 ^ 20 + 1 * 2 ^ 40 + vc * 2 ^ 44 + 0 * 2 ^ 48 < 2 ^ 64 := by omega
  obtain ⟨hhdr, htag, hid, hblock, hport, hlen, hflag, hrsv⟩ := pktNat_tokenLayout _ tag.toNat (coord * 2 ^ 12 + number) block port len
    (fun i => (pay.getD i 0).toNat) (if rel then 1 else 0) hfits tag.isLt (by omega) hb hp (by omega) (by split <;> decide)
  have hcoord : (coord * 2 ^ 12 + number) / 2 ^ 12 = coord := by omega
  have hnumber : (coord * 2 ^ 12 + number) % 2 ^ 12 = number := by omega
  rw [readPacket]
  simp only [hhdr, LinkHdr.ofNat_toNat dest node 1 vc 0 hd hn (by decide) hv (by decide), htag, hid, hcoord, hnumber, hblock, hport, hlen, hflag,
    hrsv, BitVec.ofNat_toNat, BitVec.setWidth_eq, PktIn.token.injEq, TokPkt.mk.injEq, true_and]
  refine ⟨List.map_congr_left fun i hi => ?_, ?_⟩
  · rw [pktNat_tokenLayout_word _ _ _ _ _ _ _ _ i (List.mem_range.mp hi) (BitVec.isLt _), BitVec.ofNat_toNat, BitVec.setWidth_eq]
  · split <;> decide

/-! ### A write packet -/

/-- The layout of a write packet before its padding (R295, R297): header, address, launch identifier, copy identifier, length, reserved
bytes, and the payload from the next flit on. -/
def writeLayout (hdr addr id copyId : Nat) (bs : List Byte) : List Byte :=
  leBytes 8 hdr ++ (leBytes 8 addr ++ (leBytes 4 id ++ (leBytes 4 copyId ++ (leBytes 4 bs.length ++ (leBytes 36 0 ++ bs)))))

section
variable (hdr addr id copyId : Nat) (bs pad : List Byte)

theorem length_writeLayout : (writeLayout hdr addr id copyId bs).length = 64 + bs.length := by
  simp only [writeLayout, List.length_append, length_leBytes]
  omega

/-- The numbers that stand in the layout, each at its offset, whatever follows it. -/
theorem pktNat_writeLayout (hh : hdr < 2 ^ 64) (ha : addr < 2 ^ 64) (hi : id < 2 ^ 32) (hc : copyId < 2 ^ 32) (hl : bs.length < 2 ^ 32) :
    let b := writeLayout hdr addr id copyId bs ++ pad
    pktNat b 0 8 = hdr ∧ pktNat b 8 8 = addr ∧ pktNat b 16 4 = id ∧ pktNat b 20 4 = copyId ∧ pktNat b 24 4 = bs.length := by
  simp only [writeLayout, List.append_assoc, pktNat_append_right, pktNat_append_left, length_leBytes, leNat_leBytes, Nat.reduceLeDiff,
    Nat.reduceSub, Nat.le_refl]
  refine ⟨?_, ?_, ?_, ?_, ?_⟩ <;> omega

/-- The payload starts at the second flit. -/
theorem drop_writeLayout : (writeLayout hdr addr id copyId bs ++ pad).drop 64 = bs ++ pad := rfl

end

/-- The bytes of a write packet are laid out so, and filled with zeros (R295, R297). -/
theorem write_bytes (q : Pkt) (node addr coord number id : Nat) (bs : List Byte) (hq : q.body = .write addr coord number id bs)
    (hd : q.dest < 2 ^ 20) (hn : node < 2 ^ 20) (hv : q.vc < 8) (hc : coord < 2 ^ 20) (hm : number < 2 ^ 12) (hl : bs.length ≤ 4096) :
    q.bytes node = writeLayout (q.dest + node * 2 ^ 20 + 2 * 2 ^ 40 + q.vc * 2 ^ 44 + (bs.length + 63) / 64 * 2 ^ 48) addr
      (coord * 2 ^ 12 + number) id bs ++ List.replicate ((64 - bs.length % 64) % 64) 0 := by
  have hh := LinkHdr.toNat_eq q.dest node 2 q.vc ((bs.length + 63) / 64) false hd hn (by decide) hv (by omega)
  have hmod : (64 + bs.length) % 64 = bs.length % 64 := by omega
  have hpad : ∀ h, flitPad (writeLayout h addr (coord * 2 ^ 12 + number) id bs) =
      writeLayout h addr (coord * 2 ^ 12 + number) id bs ++ List.replicate ((64 - bs.length % 64) % 64) 0 := by
    intro h
    rw [flitPad, length_writeLayout, hmod]
  rw [← hpad]
  simp only [Pkt.bytes, hq, PktBody.typ, PktBody.flits, Nat.add_sub_cancel_left, PktBody.fields, hh, launchId_eq coord number hc hm,
    List.append_assoc, writeLayout]

/-- The receiver reads a write packet back (R295, R297). -/
theorem readPacket_writeLayout (dest node vc count addr coord number id : Nat) (bs pad : List Byte) (hd : dest < 2 ^ 20) (hn : node < 2 ^ 20)
    (hv : vc < 8) (hk : count < 2 ^ 8) (ha : addr < 2 ^ 64) (hc : coord < 2 ^ 20) (hm : number < 2 ^ 12) (hi : id < 2 ^ 32)
    (hl : bs.length ≤ 4096) :
    readPacket (writeLayout (dest + node * 2 ^ 20 + 2 * 2 ^ 40 + vc * 2 ^ 44 + count * 2 ^ 48) addr (coord * 2 ^ 12 + number) id bs ++ pad) =
      .write { dest, source := node, count, hdrRsv := false, addr, coord, number, copyId := id, bytes := bs } := by
  obtain ⟨hhdr, haddr, hid, hcopy, hlen⟩ := pktNat_writeLayout (dest + node * 2 ^ 20 + 2 * 2 ^ 40 + vc * 2 ^ 44 + count * 2 ^ 48) addr
    (coord * 2 ^ 12 + number) id bs pad (by omega) ha (by omega) hi (by omega)
  have hcoord : (coord * 2 ^ 12 + number) / 2 ^ 12 = coord := by omega
  have hnumber : (coord * 2 ^ 12 + number) % 2 ^ 12 = number := by omega
  rw [readPacket]
  simp only [hhdr, LinkHdr.ofNat_toNat dest node 2 vc count hd hn (by decide) hv hk, haddr, hid, hcopy, hlen, hcoord, hnumber, drop_writeLayout,
    List.take_left]

/-! ### Packets dropped by their header -/

/-- The launch that a packet names is none that accepts it, where none has its identifier (R299). -/
theorem acceptingLaunch_of_unknown (s : State) (coord num : Nat) (h : s.launch coord num = none) : s.acceptingLaunch coord num = none := by
  rw [State.acceptingLaunch, h]; rfl

/-- A token packet for another node, out of form or of an unknown launch is dropped (R299). -/
theorem exec_tokenPacket_drop (port : Nat) (p : TokPkt) (s : State)
    (h : s.mine p.dest false = false ∨ tokPktOk p = false ∨ s.launch p.coord p.number = none) :
    exec (.tokenPacketReceive port p) s = .next s.dropPkt := by
  show execTokenPacketReceive port p s = _
  unfold execTokenPacketReceive
  split
  · rfl
  · next hok =>
    rcases h with h | h | h
    · simp [h] at hok
    · simp [h] at hok
    · rw [acceptingLaunch_of_unknown s _ _ h]

/-- A write packet for another node, out of form or of an unknown launch is dropped (R299). -/
theorem exec_writePacket_drop (port : Nat) (p : WrPkt) (s : State)
    (h : s.mine p.dest false = false ∨ wrPktOk p = false ∨ s.launch p.coord p.number = none) :
    exec (.writePacketReceive port p) s = .next s.dropPkt := by
  show execWritePacketReceive port p s = _
  unfold execWritePacketReceive
  split
  · rfl
  · next hok =>
    rcases h with h | h | h
    · simp [h] at hok
    · simp [h] at hok
    · rw [acceptingLaunch_of_unknown s _ _ h]

theorem exec_writeAck_drop (port : Nat) (p : AckPkt) (s : State) (h : s.mine p.dest p.rsv = false) :
    exec (.writeAckReceive port p) s = .next s.dropPkt := by
  show execWriteAckReceive port p s = _
  rw [execWriteAckReceive, h]
  rfl

theorem exec_writeFault_drop (port : Nat) (p : FaultPkt) (more : Nat) (s : State) (h : s.mine p.dest p.rsv = false) :
    exec (.writeFaultReceive port p more) s = .next s.dropPkt := by
  show execWriteFaultReceive port p more s = _
  rw [execWriteFaultReceive, h]
  rfl

theorem mine_or (s : State) (d : Nat) (a b : Bool) (h : s.mine d a = false) : s.mine d (a || b) = false := by
  cases a
  · simp only [State.mine, Bool.not_false, Bool.and_true] at h
    simp [State.mine, h]
  · simp [State.mine]

/-- What is not for this node has a reserved bit set, or else its destination is not this node. -/
theorem not_mine (s : State) (d : Nat) (a : Bool) (h : s.mine d a = false) : s.mine d false = false ∨ a = true := by
  cases a
  · exact .inl h
  · exact .inr rfl

theorem peerMarker_of_typ (h : LinkHdr) (ht : h.typ ≠ 5) : h.peerMarker = false := by simp [LinkHdr.peerMarker, ht]

section
variable (s : State) (port : Nat) (bs : List Byte) (hup : (s.link port).up = true)
include hup

/-- A packet of a type that there is not is dropped (R295, R299). -/
theorem receive_reserved (ht : (LinkHdr.ofNat (pktNat bs 0 8)).typ = 0 ∨ 7 ≤ (LinkHdr.ofNat (pktNat bs 0 8)).typ) :
    s.receive port bs = .next s.dropPkt := by
  have hread : readPacket bs = .reserved := by
    unfold readPacket
    dsimp only
    split
    case h_7 => rfl
    all_goals omega
  have hpeer := peerMarker_of_typ (LinkHdr.ofNat (pktNat bs 0 8)) (by omega)
  unfold State.receive
  simp only [hup, hpeer, hread, Bool.not_true, Bool.false_eq_true, if_false]
  rfl

/-- A packet of tokens, data or answers that its header says is not for this node is dropped (R299). -/
theorem receive_bad_header (ht : (LinkHdr.ofNat (pktNat bs 0 8)).typ ∈ [1, 2, 3, 4])
    (hm : s.mine (LinkHdr.ofNat (pktNat bs 0 8)).dest (LinkHdr.ofNat (pktNat bs 0 8)).rsv = false) :
    s.receive port bs = .next s.dropPkt := by
  have hpeer := peerMarker_of_typ (LinkHdr.ofNat (pktNat bs 0 8)) (by rintro h; rw [h] at ht; simp at ht)
  have hform := not_mine s _ _ hm
  unfold State.receive readPacket
  simp only [hup, hpeer, Bool.not_true, Bool.false_eq_true, if_false]
  simp only [List.mem_cons, List.not_mem_nil, or_false] at ht
  rcases ht with ht | ht | ht | ht <;> simp only [ht]
  · exact exec_tokenPacket_drop port _ s (hform.imp_right fun h => .inl (by simp [tokPktOk, h]))
  · exact exec_writePacket_drop port _ s (hform.imp_right fun h => .inl (by simp [wrPktOk, h]))
  · exact exec_writeAck_drop port _ s (mine_or s _ _ _ hm)
  · exact exec_writeFault_drop port _ _ s (mine_or s _ _ _ hm)

/-- A marker of a peer's own is dropped by what its header says, or by a reserved byte, and otherwise asks nothing (R299, R350). -/
theorem receive_peerMarker (ht : (LinkHdr.ofNat (pktNat bs 0 8)).typ = 5) (hv : 3 ≤ (LinkHdr.ofNat (pktNat bs 0 8)).vc) :
    (s.mine (LinkHdr.ofNat (pktNat bs 0 8)).dest (LinkHdr.ofNat (pktNat bs 0 8)).rsv = false → s.receive port bs = .next s.dropPkt) ∧
    (s.mine (LinkHdr.ofNat (pktNat bs 0 8)).dest (LinkHdr.ofNat (pktNat bs 0 8)).rsv = true → pktNat bs 10 2 = 0 → s.receive port bs = .next s) := by
  have hpeer : (LinkHdr.ofNat (pktNat bs 0 8)).peerMarker = true := by simp [LinkHdr.peerMarker, ht, hv]
  unfold State.receive
  simp only [hup, hpeer, Bool.not_true, Bool.false_eq_true, if_false, if_true]
  constructor
  · intro hm
    rw [mine_or s _ _ _ hm]
    rfl
  · intro hm hz
    rw [hz, bne_self_eq_false, Bool.or_false, hm]
    rfl

end

theorem bump_of_lt (w : Word) (h : w.toNat < 2 ^ 32 - 1) : bump w = w + 1 := by
  have hne : w ≠ 0xFFFFFFFF := by rintro rfl; exact absurd h (by decide)
  exact if_neg hne

/-- A dropped packet raises its count (R299). -/
theorem dropPkt_pktdrop (s : State) (h : s.mgmt.pktdrop.toNat < 2 ^ 32 - 1) : s.dropPkt.mgmt.pktdrop = s.mgmt.pktdrop + 1 := bump_of_lt _ h

/-- A header is not one for this node: its destination, or a reserved bit (R299). -/
theorem mine_header (s : State) (h : Nat) : s.mine (LinkHdr.ofNat h).dest (LinkHdr.ofNat h).rsv = false ↔
    (h % 2 ^ 20 ≠ s.io.node ∨ h % 2 ^ 20 = 0xFFFFF ∨ h.testBit 47 = true ∨ h / 2 ^ 56 % 256 ≠ 0) := by
  have hbit : (h / 2 ^ 47 % 2 = 0) ↔ ¬h.testBit 47 = true := by rw [Nat.testBit_eq_decide_div_mod_eq, decide_eq_true_eq]; omega
  simp only [State.mine, LinkHdr.ofNat, Bool.and_eq_false_iff, beq_eq_false_iff_ne, bne_eq_false_iff_eq, Bool.not_eq_false', Bool.or_eq_true,
    bne_iff_ne, ne_eq, hbit, not_not, or_assoc]
  rfl

/-! ### The statement on bytes -/

/-- The first part of O59: the layouts, their reading, and what their header alone decides. -/
theorem packetBytes : Sys2Proof.Claims.PacketBytes := by
  unfold Sys2Proof.Claims.PacketBytes
  refine ⟨?_, ?_, ?_⟩
  · intro q node coord number block a hq hd hn hv hc hm hb hp hl b at_ flag
    have hbytes := token_bytes q node coord number block a hq hd hn hv hc hm
    have hfits : q.dest + node * 2 ^ 20 + 1 * 2 ^ 40 + q.vc * 2 ^ 44 + 0 * 2 ^ 48 < 2 ^ 64 := by omega
    obtain ⟨hhdr, htag, hid, hblock, hport, hlen, hflag, hrsv⟩ := pktNat_tokenLayout _ a.tag.toNat (coord * 2 ^ 12 + number) block a.port a.pay.length
      (fun i => (a.pay.getD i 0).toNat) (if a.rel = some .sys then 1 else 0) hfits a.tag.isLt (by omega) hb hp (by omega) (by split <;> decide)
    have hread := readPacket_tokenLayout q.dest node q.vc coord number block a.port a.pay.length a.tag a.pay (a.rel = some .sys) hd hn hv hc hm hb hp hl
    rw [← hbytes] at hhdr htag hid hblock hport hlen hflag hrsv hread
    rw [Nat.zero_mul, Nat.add_zero] at hhdr
    refine ⟨(congrArg List.length hbytes).trans (length_tokenLayout ..), hhdr, htag, hid, hblock, hport, hlen, fun i hi => ?_, hflag, hrsv, hread⟩
    have hword := pktNat_tokenLayout_word (q.dest + node * 2 ^ 20 + 1 * 2 ^ 40 + q.vc * 2 ^ 44 + 0 * 2 ^ 48) a.tag.toNat (coord * 2 ^ 12 + number) block
      a.port a.pay.length (fun i => (a.pay.getD i 0).toNat) (if a.rel = some .sys then 1 else 0) i hi (BitVec.isLt _)
    rwa [← hbytes] at hword
  · intro q node addr coord number id bs hq hd hn hv ha hc hm hi hl b at_ flits
    have hbytes := write_bytes q node addr coord number id bs hq hd hn hv hc hm hl
    have hfits : q.dest + node * 2 ^ 20 + 2 * 2 ^ 40 + q.vc * 2 ^ 44 + (bs.length + 63) / 64 * 2 ^ 48 < 2 ^ 64 := by omega
    obtain ⟨hhdr, haddr, hid, hcopy, hlen⟩ := pktNat_writeLayout _ addr (coord * 2 ^ 12 + number) id bs
      (List.replicate ((64 - bs.length % 64) % 64) 0) hfits ha (by omega) hi (by omega)
    have hread := readPacket_writeLayout q.dest node q.vc ((bs.length + 63) / 64) addr coord number id bs
      (List.replicate ((64 - bs.length % 64) % 64) 0) hd hn hv (by omega) ha hc hm hi hl
    rw [← hbytes] at hhdr haddr hid hcopy hlen hread
    refine ⟨?_, hhdr, haddr, hid, hcopy, hlen, ?_, fun k hk _ => ?_, hread⟩
    · show (q.bytes node).length = _
      rw [hbytes, List.length_append, length_writeLayout, List.length_replicate]
      omega
    · show ((q.bytes node).drop 64).take bs.length = bs
      rw [hbytes, drop_writeLayout, List.take_left]
    · show (q.bytes node).getD k 0 = 0
      rw [hbytes, List.getD_append_right _ _ _ _ (by rwa [length_writeLayout])]
      simp
  · intro bs port s hup hcount h drops
    have counted : s.receive port bs = .next s.dropPkt → drops :=
      fun hr => ⟨_, hr, dropPkt_pktdrop s hcount, State.dropPkt_mem s, rfl, rfl, rfl⟩
    refine ⟨fun ht => counted (receive_reserved s port bs hup ht),
      fun ht hm => counted (receive_bad_header s port bs hup ht ((mine_header s h).mpr hm)), fun ht hv => ⟨fun hm => ?_, fun h1 h2 h3 h4 hz => ?_⟩⟩
    · exact counted ((receive_peerMarker s port bs hup ht hv).1 ((mine_header s h).mpr hm))
    · have hmine : ¬s.mine (LinkHdr.ofNat h).dest (LinkHdr.ofNat h).rsv = false := by
        rw [mine_header]
        rintro (hm | hm | hm | hm)
        · exact hm h1
        · exact h2 (h1 ▸ hm)
        · simp [h3] at hm
        · exact hm h4
      exact (receive_peerMarker s port bs hup ht hv).2 (Bool.not_eq_false _ ▸ hmine) hz

end Sys2Proof.Proofs
end

section
/-! SUPPORT. What the handling of a link packet does, operation by operation: a packet put on the links stands there, and what a received one
changes of launches, contexts, copies and the checkpoint (R294 to R299). -/

namespace Sys2Proof

/-! ### Tables -/

theorem Tbl.mem_put_self {α : Type} (k : Nat) (v : α) (t : Tbl α) : (k, v) ∈ t.put k v := by
  induction t with
  | nil => simp [put]
  | cons e t ih =>
    obtain ⟨i, x⟩ := e
    unfold put
    split
    · simp
    · split
      · simp
      · exact List.mem_cons_of_mem _ ih

/-- A put replaces at most the record that is found at its key. -/
theorem Tbl.mem_put_of_mem {α : Type} (k : Nat) (v : α) (t : Tbl α) (e : Nat × α) (he : e ∈ t) : e ∈ t.put k v ∨ t.find k = some e.2 := by
  induction t with
  | nil => simp at he
  | cons f t ih =>
    obtain ⟨i, x⟩ := f
    by_cases hi : i = k
    · rcases List.mem_cons.mp he with rfl | he
      · exact .inr (by simp [find, hi])
      · exact .inl (by simp [put, hi, he])
    · by_cases hlt : k < i
      · exact .inl (by simp only [put, hi, hlt, if_true, if_false]; exact List.mem_cons_of_mem _ he)
      · simp only [put, find, hi, hlt, if_false]
        rcases List.mem_cons.mp he with rfl | he
        · exact .inl (by simp)
        · exact (ih he).imp_left (List.mem_cons_of_mem _)

namespace Proofs

open Sys2Proof.Machine Sys2Proof.Claims

/-! ### Packets put on the links -/

/-- A packet is for a node on a channel with a body. -/
def IsFor (dest vc : Nat) (body : PktBody) (q : Pkt) : Prop := q.dest = dest ∧ q.vc = vc ∧ q.body = body

/-- A port has such a packet, waiting or sent. -/
def Carries (dest vc : Nat) (body : PktBody) (l : Link) : Prop := ∃ q ∈ l.queue ++ l.replay, IsFor dest vc body q

theorem sends_iff (s : State) (dest vc : Nat) (body : PktBody) :
    Sends s dest vc body ↔ (∃ q ∈ s.io.held, IsFor dest vc body q) ∨ ∃ e ∈ s.io.links, Carries dest vc body e.2 := by
  simp only [Sends, packets, List.mem_append, List.mem_flatMap, Carries, IsFor]
  constructor
  · rintro ⟨q, hq | ⟨e, he, hq⟩, hf⟩
    · exact .inl ⟨q, hq, hf⟩
    · exact .inr ⟨e, he, q, hq, hf⟩
  · rintro (⟨q, hq, hf⟩ | ⟨e, he, q, hq, hf⟩)
    · exact ⟨q, .inl hq, hf⟩
    · exact ⟨q, .inr ⟨e, he, hq⟩, hf⟩

section
variable {dest vc : Nat} {body : PktBody}

/-- A packet whose turn it is goes to the replay buffer or back into the queue, and the others stay. -/
theorem carries_sendOne (l : Link) (q : Pkt) (h : Carries dest vc body l ∨ IsFor dest vc body q) : Carries dest vc body (l.sendOne q) := by
  unfold Link.sendOne
  dsimp only
  rcases h with ⟨r, hr, hf⟩ | hf
  · refine ⟨r, ?_, hf⟩
    rcases List.mem_append.mp hr with hr | hr <;> split <;> simp [hr]
  · refine ⟨{ q with left := q.left - min q.left (l.count q.vc), due := q.due + min q.left (l.count q.vc) }, ?_, hf⟩
    split <;> simp

theorem carries_foldl_sendOne (qs : List Pkt) (l : Link) (h : Carries dest vc body l ∨ ∃ q ∈ qs, IsFor dest vc body q) :
    Carries dest vc body (qs.foldl Link.sendOne l) := by
  induction qs generalizing l with
  | nil => simpa using h
  | cons q qs ih =>
    apply ih
    rcases h with h | ⟨r, hr, hf⟩
    · exact .inl (carries_sendOne l q (.inl h))
    · rcases List.mem_cons.mp hr with rfl | hr
      · exact .inl (carries_sendOne l r (.inr hf))
      · exact .inr ⟨r, hr, hf⟩

/-- No packet is lost as a port sends what its counts allow (R294). -/
theorem carries_pump (l : Link) (h : Carries dest vc body l) : Carries dest vc body l.pump := by
  unfold Link.pump
  split
  · obtain ⟨q, hq, hf⟩ := h
    apply carries_foldl_sendOne
    rcases List.mem_append.mp hq with hq | hq
    · exact .inr ⟨q, hq, hf⟩
    · exact .inl ⟨q, by simpa using hq, hf⟩
  · exact h

/-- What stands on the links stands there after another packet is put there. -/
theorem sends_sendPkt_of_sends (s : State) (q : Pkt) (h : Sends s dest vc body) : Sends (s.sendPkt q) dest vc body := by
  rw [sends_iff] at h ⊢
  unfold State.sendPkt
  split
  · next port _ =>
    rcases h with h | ⟨e, he, hc⟩
    · exact .inl h
    · refine .inr ?_
      show ∃ f ∈ s.io.links.put port _, _
      rcases Tbl.mem_put_of_mem port _ s.io.links e he with hp | hp
      · exact ⟨e, hp, hc⟩
      · refine ⟨_, Tbl.mem_put_self port _ s.io.links, carries_pump _ ?_⟩
        obtain ⟨r, hr, hf⟩ := hc
        refine ⟨r, ?_, hf⟩
        rw [hp, Option.getD_some]
        rcases List.mem_append.mp hr with hr | hr <;> simp [hr]
  · exact h.imp_left fun ⟨r, hr, hf⟩ => ⟨r, List.mem_append_left _ hr, hf⟩

end

/-- A packet put on the links stands there (R294, R299). -/
theorem sends_sendPkt (s : State) (q : Pkt) : Sends (s.sendPkt q) q.dest q.vc q.body := by
  rw [sends_iff]
  unfold State.sendPkt
  split
  · next port _ =>
    exact .inr ⟨_, Tbl.mem_put_self port _ s.io.links, carries_pump _ ⟨q, by simp, rfl, rfl, rfl⟩⟩
  · exact .inl ⟨q, by simp, rfl, rfl, rfl⟩

/-- Each of several packets put on the links stands there. -/
theorem sends_foldl_sendPkt {α : Type} (pkt : α → Pkt) (es : List α) (s : State) (e : α) (he : e ∈ es) :
    Sends (es.foldl (fun t a => t.sendPkt (pkt a)) s) (pkt e).dest (pkt e).vc (pkt e).body := by
  have keep : ∀ (l : List α) (t : State), Sends t (pkt e).dest (pkt e).vc (pkt e).body →
      Sends (l.foldl (fun t a => t.sendPkt (pkt a)) t) (pkt e).dest (pkt e).vc (pkt e).body := by
    intro l
    induction l with
    | nil => exact fun t h => h
    | cons a l ih => exact fun t h => ih _ (sends_sendPkt_of_sends t (pkt a) h)
  induction es generalizing s with
  | nil => simp at he
  | cons a es ih =>
    rcases List.mem_cons.mp he with rfl | he
    · exact keep es _ (sends_sendPkt s (pkt e))
    · exact ih _ he

/-! ### Launches -/

/-- A launch changed beside its identifier is found changed. -/
theorem launch_modLaunch (s : State) (coord num : Nat) (f : Launch → Launch) (l : Launch) (hf : ∀ m, (f m).coord = m.coord ∧ (f m).num = m.num)
    (h : s.launch coord num = some l) : (s.modLaunch coord num f).launch coord num = some (f l) := by
  have hl := List.find?_some h
  have hp : ((fun m : Launch => m.coord == coord && m.num == num) ∘ fun m => if m.coord = coord && m.num = num then f m else m) =
      fun m => m.coord == coord && m.num == num := by
    funext m
    dsimp only [Function.comp]
    split
    · rw [(hf m).1, (hf m).2]
    · rfl
  rw [State.launch, State.modLaunch, List.find?_map, hp, show s.launches.find? _ = some l from h, Option.map_some]
  simp only [Bool.and_eq_true, beq_iff_eq] at hl
  simp [hl]

theorem acceptingLaunch_eq (s : State) (coord num : Nat) (l : Launch) (h : s.launch coord num = some l) (hst : l.st = .ready ∨ l.st = .running) :
    s.acceptingLaunch coord num = some l := by
  rw [State.acceptingLaunch, h, Option.filter_some]
  rcases hst with hst | hst <;> simp [hst]

/-! ### A token packet -/

theorem tokPktOk_iff (p : TokPkt) : tokPktOk p = true ↔ p.hdrRsv = false ∧ p.rsv = false ∧ p.count = 0 ∧ p.length ≤ 8 ∧ p.vc < 8 := by
  simp [tokPktOk, and_assoc]

/-- A token packet is in form for this node. -/
theorem tokenForm_iff (s : State) (p : TokPkt) : TokenForm s p ↔ s.mine p.dest false = true ∧ tokPktOk p = true := by
  rw [tokPktOk_iff]
  simp [TokenForm, State.mine, and_assoc]

/-- The state with a token packet counted in its launch (R352). -/
def countReceived (s : State) (p : TokPkt) : State :=
  s.modLaunch p.coord p.number fun m => { m with recv := m.recv.put p.source ((m.recv.find p.source).getD 0 + 1) }

/-- What is known of a launch once a token packet is counted in it: its count of the sender is one more (R352). -/
def Counted (p : TokPkt) (l : Launch) (t : State) : Prop :=
  Known t p.coord p.number fun m => m.recv.find p.source = some ((l.recv.find p.source).getD 0 + 1)

theorem counted_countReceived (s : State) (p : TokPkt) (l : Launch) (h : s.launch p.coord p.number = some l) : Counted p l (countReceived s p) :=
  ⟨_, launch_modLaunch s _ _ _ l (fun _ => ⟨rfl, rfl⟩) h, by simp⟩

/-- The token of a packet says what the packet says. -/
theorem linkToken_tokPktToken (p : TokPkt) (port ctx slot : Nat) : LinkToken (tokPktToken p port ctx slot) p ctx slot := by
  refine ⟨rfl, rfl, rfl, rfl, rfl, rfl, by simp [tokPktToken], fun j hj => ?_⟩
  simp [tokPktToken, hj]

theorem packetSlot_eq (s : State) (l : Launch) (block slot : Nat)
    (h : block = 0xFFFF ∧ slot = 0xFFFF ∨ block ≠ 0xFFFF ∧ ∃ i, s.images.find l.img = some i ∧ i.slots[block]? = some slot) :
    s.packetSlot l block = some slot := by
  rcases h with ⟨hb, hs⟩ | ⟨hb, i, hi, hs⟩
  · simp [State.packetSlot, hb, hs]
  · simp [State.packetSlot, hb, hi, hs]

section
variable (s : State) (t : Tok) (x : Ctx) (hx : s.ctx t.ctx = some x)
include hx

/-- A context that is not at rest keeps no token aside. -/
theorem stays_of_running (hst : x.st = .running) : s.stays t = false := by simp [State.stays, hx, hst]

theorem divert_of_running (hst : x.st = .running) : s.divert t = none := by simp [State.divert, hx, hst]

/-- A token has a place where its context's arrival area has room, or a page can be had for it (R355). -/
theorem stays_of_place (h : x.areaFull = false ∨ s.smallFrame.isSome = true) : s.stays t = false := by
  rcases h with h | h
  · simp [State.stays, hx, h]
  · cases hs : s.smallFrame <;> simp_all [State.stays]

/-- A token for a context at rest goes to its arrival area (R355). -/
theorem divert_of_rest (hst : x.st = .preempted ∨ x.st = .restoring) :
    s.divert t = some ((s.growArea t.ctx x).modCtx t.ctx fun y => { y with arrivals := y.arrivals ++ [t] }) := by
  rcases hst with hst | hst <;> simp [State.divert, hx, hst]

end

/-- A token packet of a launch that accepts it is counted, and its token is kept aside or placed, once its channel has a slot and the inbox, if it is for
that, a place (R290, R294, R299). -/
theorem exec_tokenPacket_accept (port : Nat) (p : TokPkt) (s : State) (l : Launch) (x : Ctx) (slot : Nat) (hform : TokenForm s p)
    (hl : s.launch p.coord p.number = some l) (hst : l.st = .ready ∨ l.st = .running) (hx : s.ctx l.ctx = some x)
    (hused : ((s.link port).used.find p.vc).getD 0 < 64) (hslot : s.packetSlot l p.block = some slot)
    (hbox : slot = 0xFFFF → x.box.places.length < 64 ∨ (s.divert (tokPktToken p port l.ctx slot)).isSome = true)
    (hstay : s.stays (tokPktToken p port l.ctx slot) = false) :
    exec (.tokenPacketReceive port p) s = .next (((countReceived s p).divert (tokPktToken p port l.ctx slot)).getD
      ((countReceived s p).placeLink x port p.vc (tokPktToken p port l.ctx slot))) := by
  obtain ⟨hmine, hok⟩ := (tokenForm_iff s p).mp hform
  have hgo : ((slot == 0xFFFF && ((x.box.places.length ≥ 64 && (s.divert (tokPktToken p port l.ctx slot)).isNone) ||
      s.stays (tokPktToken p port l.ctx slot))) || (((s.link port).used.find p.vc).getD 0) ≥ 64) = false := by
    rw [hstay, decide_eq_false (Nat.not_le.mpr hused), Bool.or_false, Bool.or_false]
    by_cases hs : slot = 0xFFFF
    · rcases hbox hs with hp | hp
      · simp [hp]
      · cases hd : s.divert (tokPktToken p port l.ctx slot) <;> simp_all
    · simp [hs]
  have hstay' : (countReceived s p).stays (tokPktToken p port l.ctx slot) = false := hstay
  show execTokenPacketReceive port p s = _
  unfold execTokenPacketReceive
  rw [hmine, hok]
  simp only [Bool.not_true, Bool.or_false, Bool.false_eq_true, if_false, acceptingLaunch_eq s _ _ l hl hst, hslot, hx, hgo]
  show (if (countReceived s p).stays _ = true then _ else _) = _
  rw [hstay']
  cases hd : (countReceived s p).divert (tokPktToken p port l.ctx slot) <;> simp_all [countReceived]

/-- A token for a bound block of its context whose tags have an order of no kind goes to the core of its placement (R217, R220). -/
theorem placeLink_block (s : State) (x : Ctx) (port vc : Nat) (t : Tok) (b : Block) (hs : t.slot ≠ 0xFFFF) (hb : s.block t.slot = some b)
    (hc : b.ctx = t.ctx) (ho : b.ordered = false) : s.placeLink x port vc t = s.linkArrive port vc (s.placeCore x b (tagIndex t.tag)) t := by
  simp [State.placeLink, hs, State.unitSlot, hb, hc, ho]

/-- A token that finds room in the intake queue of its channel enters it (R230). -/
theorem linkArrive_room (s : State) (port vc core : Nat) (t : Tok) (hq : (((s.core core).intake.find vc).getD []).length < 32)
    (hw : ∀ e ∈ s.io.lwait, ¬(e.2.1 = core ∧ e.2.2.1 = vc)) :
    s.linkArrive port vc core t =
      s.modCore core fun c => { c with intake := c.intake.put vc (((s.core core).intake.find vc).getD [] ++ [(t, s.now)]) } := by
  have hnone : (s.io.lwait.any fun e => e.2.1 == core && e.2.2.1 == vc) = false := by
    rw [List.any_eq_false]
    intro e he
    simpa using hw e he
  unfold State.linkArrive
  rw [hnone]
  simp only [hq, decide_true, Bool.not_false, Bool.and_self, if_true]

/-- One that finds none waits in its receive slot (R230, R294). -/
theorem linkArrive_full (s : State) (port vc core : Nat) (t : Tok) (hq : 32 ≤ (((s.core core).intake.find vc).getD []).length) :
    (s.linkArrive port vc core t).cores = s.cores ∧ (s.linkArrive port vc core t).launches = s.launches ∧
      (s.linkArrive port vc core t).io.lwait = s.io.lwait ++ [(t, core, vc, port)] ∧
      ((s.linkArrive port vc core t).link port).used.find vc = some (((s.link port).used.find vc).getD 0 + 1) := by
  have hfull : ¬((((s.core core).intake.find vc).getD []).length < 32) := by omega
  unfold State.linkArrive
  simp only [hfull, decide_false, Bool.false_and, Bool.false_eq_true, if_false]
  refine ⟨rfl, rfl, rfl, ?_⟩
  simp [State.link, State.modLink]

/-- A token for an inbox with a place takes it (R290). -/
theorem toInbox_place (s : State) (t : Tok) (x : Ctx) (hx : s.ctx t.ctx = some x) (hp : x.box.places.length < 64) :
    s.toInbox t = s.modCtx t.ctx fun y => { y with box := { y.box with places := y.box.places ++ [t] } } := by
  simp [State.toInbox, hx, hp]

/-! ### A write packet -/

theorem wrPktOk_iff (p : WrPkt) : wrPktOk p = true ↔ p.hdrRsv = false ∧ p.count = (p.bytes.length + 63) / 64 ∧ 4 ≤ p.bytes.length ∧
    p.bytes.length ≤ 4096 ∧ p.bytes.length % 4 = 0 ∧ p.addr % 4 = 0 := by
  simp [wrPktOk, and_assoc]

/-- What makes a write packet one out of form (R297, R299). -/
theorem wrPktOk_false (p : WrPkt) (h : p.hdrRsv = true ∨ p.bytes.length % 4 ≠ 0 ∨ p.bytes = [] ∨ 4096 < p.bytes.length ∨ p.addr % 4 ≠ 0 ∨
    p.count ≠ (p.bytes.length + 63) / 64) : wrPktOk p = false := by
  rw [← Bool.not_eq_true, wrPktOk_iff]
  rintro ⟨hrsv, hcount, hmin, hmax, hmod, haddr⟩
  rcases h with h | h | h | h | h | h
  · simp [h] at hrsv
  · exact h hmod
  · simp [h] at hmin
  · omega
  · exact h haddr
  · exact h hcount

/-- One word of a write packet done, with the failures so far. -/
def wordDone (p : WrPkt) (x : Ctx) (acc : State × List (Nat × Nat)) (j : Nat) : State × List (Nat × Nat) :=
  match acc.1.nodeWrite x (p.addr + 4 * j) (BitVec.ofNat 32 (leNat ((p.bytes.drop (4 * j)).take 4))) with
  | (t, some k) => (t, acc.2 ++ [(4 * j, k)])
  | (t, none) => (t, acc.2)

/-- The answers to a write packet whose words failed so: one ack, or a fault for each (R297). -/
def answered (p : WrPkt) (s : State) (bad : List (Nat × Nat)) : State :=
  if bad.isEmpty then s.sendPkt (mkPkt p.source 1 0 (.ack p.copyId p.bytes.length))
  else bad.zipIdx.foldl (fun t e => t.sendPkt (mkPkt p.source 1 0 (.fault p.copyId e.1.1 e.1.2 (bad.length - 1 - e.2)))) s

/-- A write packet in form for this node, of a launch that accepts it, has its words done in order and is answered. -/
theorem exec_writePacket_accept (port : Nat) (p : WrPkt) (s : State) (l : Launch) (x : Ctx) (hmine : s.mine p.dest false = true)
    (hok : wrPktOk p = true) (hl : s.launch p.coord p.number = some l) (hst : l.st = .ready ∨ l.st = .running) (hx : s.ctx l.ctx = some x) :
    exec (.writePacketReceive port p) s =
      let r := (List.range (p.bytes.length / 4)).foldl (wordDone p x) (s, [])
      .next (answered p (r.1.packetLines x.r.asid p.addr p.bytes.length (r.2.map Prod.fst)) r.2) := by
  show execWritePacketReceive port p s = _
  unfold execWritePacketReceive
  rw [hmine, hok]
  simp only [acceptingLaunch_eq s _ _ l hl hst, hx]
  rfl

/-- Answers leave the memories alone. -/
theorem answered_mem (p : WrPkt) (s : State) (bad : List (Nat × Nat)) : (answered p s bad).mem = s.mem := by
  unfold answered
  split <;> simp

/-- Each word that failed is answered by its offset, its kind and the number of faults to follow (R297). -/
theorem sends_answered (p : WrPkt) (s : State) (bad : List (Nat × Nat)) (j off kind : Nat) (h : bad[j]? = some (off, kind)) :
    Sends (answered p s bad) p.source 1 (.fault p.copyId off kind (bad.length - 1 - j)) := by
  have hne : bad.isEmpty = false := by cases bad <;> simp_all
  rw [answered, hne]
  exact sends_foldl_sendPkt (fun e : (Nat × Nat) × Nat => mkPkt p.source 1 0 (.fault p.copyId e.1.1 e.1.2 (bad.length - 1 - e.2))) bad.zipIdx s
    ((off, kind), j) (List.mk_mem_zipIdx_iff_getElem?.mpr h)

/-- Words that all fail alike leave the state as it is. -/
theorem foldl_wordDone_fail (p : WrPkt) (x : Ctx) (kind : Nat) (js : List Nat) (s : State) (bad : List (Nat × Nat))
    (h : ∀ j ∈ js, ∀ w, s.nodeWrite x (p.addr + 4 * j) w = (s, some kind)) :
    js.foldl (wordDone p x) (s, bad) = (s, bad ++ js.map fun j => (4 * j, kind)) := by
  induction js generalizing bad with
  | nil => simp
  | cons j js ih =>
    have hj : wordDone p x (s, bad) j = (s, bad ++ [(4 * j, kind)]) := by simp [wordDone, h j]
    rw [List.foldl_cons, hj, ih _ fun i hi => h i (List.mem_cons_of_mem _ hi)]
    simp

/-- A word that its context may not write fails with kind 6 (R193, R297). -/
theorem nodeWrite_forbidden (s : State) (x : Ctx) (va : Nat) (w : Word) (h : ¬(va + 4 ≤ 2 ^ 64 ∧ x.allowed false 2 va 4 = true)) :
    s.nodeWrite x va w = (s, some 6) := by
  have : (decide (va + 4 ≤ 2 ^ 64) && x.allowed false 2 va 4) = false := by simpa using h
  rw [State.nodeWrite, this]
  rfl

/-- A word that it may write goes where its translation says (R297). -/
theorem nodeWrite_allowed (s : State) (x : Ctx) (va : Nat) (w : Word) (h1 : va + 4 ≤ 2 ^ 64) (h2 : x.allowed false 2 va 4 = true) :
    (∀ k, s.translate x.r.asid va .write none = .fault k → s.nodeWrite x va w = (s, some k)) ∧
    (∀ c r, s.translate x.r.asid va .write none = .recipe c r → s.nodeWrite x va w = (s, some 3)) ∧
    (∀ pa e, s.translate x.r.asid va .write none = .ok pa e → paHost pa = none → s.nodeWrite x va w =
      ((s.touch x.r.asid va .write e).homeWrite x.r.asid (va / 64) (lineData (va % 64) (leBytes 4 w.toNat)) (byteMask (va % 64) 4) none, none)) := by
  have hgo : (decide (va + 4 ≤ 2 ^ 64) && x.allowed false 2 va 4) = true := by rw [decide_eq_true h1, h2]; rfl
  unfold State.nodeWrite
  rw [hgo]
  refine ⟨fun k hk => ?_, fun c r hr => ?_, fun pa e he hp => ?_⟩
  · simp [hk]
  · simp [hr]
  · simp [he, hp]

/-- A packet that fills no line, but for lines in which a word failed, clears no poison (R322). -/
theorem packetLines_of_none_whole (s : State) (asid addr len : Nat) (bad : List Nat)
    (h : ∀ i, addr ≤ (addr / 64 + i) * 64 → (addr / 64 + i) * 64 + 64 ≤ addr + len →
      ∃ o ∈ bad, (addr / 64 + i) * 64 ≤ addr + o ∧ addr + o < (addr / 64 + i) * 64 + 64) :
    s.packetLines asid addr len bad = s := by
  refine List.foldl_fixed' (fun i => if_neg ?_) _
  intro hc
  simp only [Bool.and_eq_true, decide_eq_true_eq, Bool.not_eq_true', List.any_eq_false] at hc
  obtain ⟨⟨h1, h2⟩, hnone⟩ := hc
  obtain ⟨o, ho, hlo, hhi⟩ := h i h1 h2
  exact hnone o ho ⟨hlo, hhi⟩

/-- A packet shorter than a line clears no poison (R322). -/
theorem packetLines_short (s : State) (asid addr len : Nat) (bad : List Nat) (h : len < 64) : s.packetLines asid addr len bad = s :=
  packetLines_of_none_whole s asid addr len bad fun i h1 h2 => by omega

/-! ### Answers to a remote copy -/

/-- A copy whose one packet has these words open takes them all as done with an ack of as many, and is answered. -/
theorem ack_open (q : Copy) (j m bytes : Nat) (hp : q.pkts = [(j, m)]) (os : List Nat)
    (hos : os = ((List.range m).map fun i => j + i).filter fun k => !q.done.contains k && !q.bad.any fun b => b.1 == k)
    (hb : os.length ≤ bytes / 4) : q.ack bytes = { q with done := q.done ++ os, pkts := [] } := by
  have hall : (List.range m).all (fun i => (q.done ++ os).contains (j + i) || q.bad.any fun b => b.1 == j + i) = true := by
    rw [List.all_eq_true]
    intro i hi
    have hmem : j + i ∈ os ↔ q.done.contains (j + i) = false ∧ (q.bad.any fun b => b.1 == j + i) = false := by
      rw [hos, List.mem_filter, Bool.and_eq_true, Bool.not_eq_true', Bool.not_eq_true']
      exact and_iff_right (List.mem_map.mpr ⟨i, hi, rfl⟩)
    by_cases hbad : (q.bad.any fun b => b.1 == j + i) = true
    · simp [hbad]
    · by_cases hdone : q.done.contains (j + i) = true
      · simp_all
      · have := hmem.mpr ⟨Bool.eq_false_iff.mpr hdone, Bool.eq_false_iff.mpr hbad⟩
        simp [this]
  rw [Copy.ack, hp]
  dsimp only
  rw [← hos, List.take_of_length_le hb, Copy.popAnswered]
  simp only [List.filter_cons, hall, Bool.not_true, Bool.false_eq_true, if_false, List.filter_nil]

/-- The words of a packet of which none is answered. -/
theorem open_all (q : Copy) (j m : Nat) (h : ∀ k, j ≤ k → k < j + m → k ∉ q.done ∧ ∀ b ∈ q.bad, b.1 ≠ k) :
    (List.range m).map (j + ·) = ((List.range m).map fun i => j + i).filter fun k => !q.done.contains k && !q.bad.any fun b => b.1 == k := by
  refine (List.filter_eq_self.mpr fun k hk => ?_).symm
  obtain ⟨i, hi, rfl⟩ := List.mem_map.mp hk
  obtain ⟨hd, hb⟩ := h (j + i) (by omega) (by have := List.mem_range.mp hi; omega)
  simpa [hd] using hb

theorem mem_insertBy {α : Type} (key : α → Nat) (x y : α) (l : List α) : y ∈ insertBy key x l ↔ y = x ∨ y ∈ l := by
  induction l with
  | nil => simp [insertBy]
  | cons z l ih =>
    unfold insertBy
    split
    · simp
    · simp [ih, or_left_comm]

/-- The copy of an identifier changed, while it waits for its answers (R297). -/
theorem copy_modRemote (s : State) (id core n : Nat) (q : Copy) (f : Copy → Copy) (hr : s.io.remote.find id = some (core, n))
    (hq : (s.core core).copies.find n = some q) (hu : q.uid % 2 ^ 32 = id) (hst : q.st = .sent ∨ q.st = .replaying) :
    ((s.modRemote id f).core core).copies.find n = some (f q) := by
  have hgo : (decide (q.uid % 2 ^ 32 = id) && (q.st == .sent || q.st == .replaying)) = true := by
    rw [decide_eq_true hu]
    rcases hst with hst | hst <;> rw [hst] <;> rfl
  unfold State.modRemote
  rw [hr]
  simp only [State.core_modCore, if_true, Tbl.find_upd, hq, Option.map_some, hgo]

section
variable (q : Copy) (j m off kind more : Nat) (hp : q.pkts = [(j, m)]) (hoff : off < 4 * m)
  (hopen : ∀ k, j ≤ k → k < j + m → k ∉ q.done ∧ ∀ b ∈ q.bad, b.1 ≠ k)
include hp hoff hopen

/-- A fault with others to follow marks its word alone (R297). -/
theorem nack_more (h : more ≠ 0) :
    q.nack off kind more = { q with bad := insertBy Prod.fst (j + off / 4, kind, q.dst + 4 * (j + off / 4)) q.bad } := by
  obtain ⟨hd, hb⟩ := hopen (j + off / 4) (by omega) (by omega)
  have hno : (q.done.contains (j + off / 4) || q.bad.any fun b => b.1 == j + off / 4) = false := by simpa [hd] using hb
  rw [Copy.nack, hp]
  simp only [hno, Bool.false_eq_true, if_false, h]

/-- After the last fault of a packet its other words are done (DEDUCED, log 29). -/
theorem nack_last : q.nack off kind 0 =
    { q with bad := insertBy Prod.fst (j + off / 4, kind, q.dst + 4 * (j + off / 4)) q.bad,
             done := q.done ++ ((List.range m).map (j + ·)).filter (· ≠ j + off / 4), pkts := [] } := by
  obtain ⟨hd, hb⟩ := hopen (j + off / 4) (by omega) (by omega)
  have hno : (q.done.contains (j + off / 4) || q.bad.any fun b => b.1 == j + off / 4) = false := by simpa [hd] using hb
  rw [Copy.nack, hp]
  simp only [hno, Bool.false_eq_true, if_false, if_true]
  refine ack_open _ j m _ rfl _ ?_ ?_
  · refine List.filter_congr fun k hk => ?_
    obtain ⟨i, hi, rfl⟩ := List.mem_map.mp hk
    obtain ⟨hdi, hbi⟩ := hopen (j + i) (by omega) (by have := List.mem_range.mp hi; omega)
    rw [Bool.eq_iff_iff]
    simp only [decide_eq_true_eq, Bool.and_eq_true, Bool.not_eq_true', List.any_eq_false, mem_insertBy, beq_iff_eq, List.contains_eq_mem]
    constructor
    · rintro hne
      refine ⟨by simpa using hdi, ?_⟩
      rintro b (rfl | hbm)
      · exact fun e => hne e.symm
      · exact hbi b hbm
    · rintro ⟨-, hall⟩ e
      exact hall _ (.inl rfl) e.symm
  · have := List.length_filter_le (fun k => decide (k ≠ j + off / 4)) ((List.range m).map (j + ·))
    rw [List.length_map, List.length_range] at this
    omega

end

/-! ### Checkpoint packets -/

/-- The packets of a checkpoint's stack carry its identifier (log 28). -/
theorem chkStack_of_stack (k : Nat) (h : k < 8) : chkStack (0xFFFFFFF8 + k) = some k := by
  have hin : (decide (0xFFFFFFF8 ≤ 0xFFFFFFF8 + k) && decide (0xFFFFFFF8 + k < 2 ^ 32)) = true := by
    rw [decide_eq_true (by omega), decide_eq_true (by omega)]; rfl
  rw [chkStack, hin, if_pos rfl, Nat.add_sub_cancel_left]

@[simp] theorem sendPkt_chk (s : State) (q : Pkt) : (s.sendPkt q).chk = s.chk := by
  unfold State.sendPkt; split <;> rfl

/-- The next packet of a checkpoint sent leaves what is known of it. -/
theorem chkSend_chk (s : State) (c : Chk) (k : Nat) : (s.chkSend c k).chk = s.chk := by
  unfold State.chkSend
  dsimp only
  split
  · rfl
  · split
    · rfl
    · simp

end Proofs
end Sys2Proof
end

section
/-! The statement on link packets (O59), assembled from the bytes of packets and from what each received packet does. -/

open Sys2Proof Sys2Proof.Machine Sys2Proof.Claims

namespace Sys2Proof.Proofs

/-! ### Contexts and their arrival areas -/

/-- A context that a change reaches is found changed. -/
theorem ctx_modCtx_self (s : State) (n : Nat) (f : Ctx → Ctx) (x : Ctx) (hx : s.ctx n = some x) : (s.modCtx n f).ctx n = some (f x) := by
  simp [hx]

theorem areaFull_of_room (x : Ctx) (h : x.arrivals.length < 1024 * x.areaPages.length) : x.areaFull = false := decide_eq_false (Nat.not_le.mpr h)

/-- An arrival area with room does not grow. -/
theorem growArea_room (s : State) (n : Nat) (x : Ctx) (h : x.arrivals.length < 1024 * x.areaPages.length) : s.growArea n x = s :=
  if_neg (by rw [areaFull_of_room x h]; decide)

/-- A full arrival area takes the page that the firmware gives out next (R354, R355). -/
theorem growArea_full (s : State) (n g : Nat) (x : Ctx) (h : 1024 * x.areaPages.length ≤ x.arrivals.length) (hg : s.smallFrame = some g) :
    s.growArea n x = ({ s with part := { s.part with small := s.part.small ++ [g] } } : State).modCtx n fun y =>
      { y with areaPages := y.areaPages ++ [g] } := by
  have hfull : x.areaFull = true := decide_eq_true h
  unfold State.growArea
  rw [hfull, hg]
  rfl

/-! ### Token packets -/

section
variable (port : Nat) (p : TokPkt) (s : State) (l : Launch) (x : Ctx) (slot : Nat) (hform : TokenForm s p)
  (hl : s.launch p.coord p.number = some l) (hst : l.st = .ready ∨ l.st = .running) (hx : s.ctx l.ctx = some x)
  (hused : ((s.link port).used.find p.vc).getD 0 < 64) (hslot : s.packetSlot l p.block = some slot)
include hform hl hst hx hused hslot

/-- A token for a running context's block goes to its core (R217, R230). -/
theorem tokenPacket_to_core (b : Block) (hrun : x.st = .running) (hs : slot ≠ 0xFFFF) (hb : s.block slot = some b) (hc : b.ctx = l.ctx)
    (ho : b.ordered = false) : exec (.tokenPacketReceive port p) s =
      .next ((countReceived s p).linkArrive port p.vc (s.placeCore x b (p.tag.toNat % 2 ^ 48)) (tokPktToken p port l.ctx slot)) := by
  have hdivert : (countReceived s p).divert (tokPktToken p port l.ctx slot) = none :=
    divert_of_running (countReceived s p) (tokPktToken p port l.ctx slot) x hx hrun
  rw [exec_tokenPacket_accept port p s l x slot hform hl hst hx hused hslot (fun h => absurd h hs) (stays_of_running s _ x hx hrun), hdivert,
    Option.getD_none, placeLink_block (countReceived s p) x port p.vc (tokPktToken p port l.ctx slot) b hs hb hc ho]
  rfl

/-- A token for a running context's inbox takes a place there (R290). -/
theorem tokenPacket_to_inbox (hrun : x.st = .running) (hs : slot = 0xFFFF) (hp : x.box.places.length < 64) :
    exec (.tokenPacketReceive port p) s = .next ((countReceived s p).modCtx l.ctx fun y =>
      { y with box := { y.box with places := y.box.places ++ [tokPktToken p port l.ctx slot] } }) := by
  have hdivert : (countReceived s p).divert (tokPktToken p port l.ctx slot) = none :=
    divert_of_running (countReceived s p) (tokPktToken p port l.ctx slot) x hx hrun
  have hplace : (countReceived s p).placeLink x port p.vc (tokPktToken p port l.ctx slot) =
      (countReceived s p).toInbox (tokPktToken p port l.ctx slot) := if_pos hs
  rw [exec_tokenPacket_accept port p s l x slot hform hl hst hx hused hslot (fun _ => .inl hp) (stays_of_running s _ x hx hrun), hdivert,
    Option.getD_none, hplace, toInbox_place (countReceived s p) (tokPktToken p port l.ctx slot) x hx hp]
  rfl

/-- A token for a context at rest goes to its arrival area, where that has room or a page can be had (R355). -/
theorem tokenPacket_to_area (hrest : x.st = .preempted ∨ x.st = .restoring) (hplace : x.areaFull = false ∨ s.smallFrame.isSome = true) :
    exec (.tokenPacketReceive port p) s = .next (((countReceived s p).growArea l.ctx x).modCtx l.ctx fun y =>
      { y with arrivals := y.arrivals ++ [tokPktToken p port l.ctx slot] }) := by
  have hdivert := divert_of_rest (countReceived s p) (tokPktToken p port l.ctx slot) x hx hrest
  have hbefore := divert_of_rest s (tokPktToken p port l.ctx slot) x hx hrest
  rw [exec_tokenPacket_accept port p s l x slot hform hl hst hx hused hslot (fun _ => .inr (by rw [hbefore]; rfl))
    (stays_of_place s _ x hx hplace), hdivert, Option.getD_some]
  rfl

theorem tokenPacket_enters_intake (b : Block) (hrun : x.st = .running) (hs : slot ≠ 0xFFFF) (hb : s.block slot = some b) (hc : b.ctx = l.ctx)
    (ho : b.ordered = false) (core : Nat) (hcore : core = s.placeCore x b (p.tag.toNat % 2 ^ 48))
    (hq : (((s.core core).intake.find p.vc).getD []).length < 32) (hw : ∀ e ∈ s.io.lwait, ¬(e.2.1 = core ∧ e.2.2.1 = p.vc)) :
    ∃ t a, exec (.tokenPacketReceive port p) s = .next t ∧ Counted p l t ∧
      (t.core core).intake.find p.vc = some (((s.core core).intake.find p.vc).getD [] ++ [(a, s.now)]) ∧ LinkToken a p l.ctx slot ∧
      t.mem = s.mem ∧ t.io = s.io := by
  have hex := tokenPacket_to_core port p s l x slot hform hl hst hx hused hslot b hrun hs hb hc ho
  rw [← hcore, linkArrive_room (countReceived s p) port p.vc core _ hq hw] at hex
  refine ⟨_, _, hex, counted_countReceived s p l hl, ?_, linkToken_tokPktToken p port l.ctx slot, rfl, rfl⟩
  rw [State.core_modCore, if_pos rfl, Tbl.find_put_same]
  rfl

theorem tokenPacket_waits_in_slot (b : Block) (hrun : x.st = .running) (hs : slot ≠ 0xFFFF) (hb : s.block slot = some b) (hc : b.ctx = l.ctx)
    (ho : b.ordered = false) (core : Nat) (hcore : core = s.placeCore x b (p.tag.toNat % 2 ^ 48))
    (hq : 32 ≤ (((s.core core).intake.find p.vc).getD []).length) :
    ∃ t a, exec (.tokenPacketReceive port p) s = .next t ∧ Counted p l t ∧ t.cores = s.cores ∧ LinkToken a p l.ctx slot ∧
      t.io.lwait = s.io.lwait ++ [(a, core, p.vc, port)] ∧
      (t.link port).used.find p.vc = some (((s.link port).used.find p.vc).getD 0 + 1) := by
  have hex := tokenPacket_to_core port p s l x slot hform hl hst hx hused hslot b hrun hs hb hc ho
  rw [← hcore] at hex
  obtain ⟨hcores, hlaunches, hlwait, hslots⟩ := linkArrive_full (countReceived s p) port p.vc core (tokPktToken p port l.ctx slot) hq
  obtain ⟨m, hm, hrecv⟩ := counted_countReceived s p l hl
  exact ⟨_, _, hex, ⟨m, by rw [State.launch, hlaunches]; exact hm, hrecv⟩, hcores, linkToken_tokPktToken p port l.ctx slot, hlwait, hslots⟩

theorem tokenPacket_takes_inbox_place (hrun : x.st = .running) (hs : slot = 0xFFFF) (hp : x.box.places.length < 64) :
    ∃ t y a, exec (.tokenPacketReceive port p) s = .next t ∧ Counted p l t ∧ t.ctx l.ctx = some y ∧
      y.box.places = x.box.places ++ [a] ∧ LinkToken a p l.ctx slot ∧ t.cores = s.cores :=
  ⟨_, _, _, tokenPacket_to_inbox port p s l x slot hform hl hst hx hused hslot hrun hs hp, counted_countReceived s p l hl,
    ctx_modCtx_self (countReceived s p) _ _ x hx, rfl, linkToken_tokPktToken p port l.ctx slot, rfl⟩

theorem tokenPacket_kept (hrest : x.st = .preempted ∨ x.st = .restoring) (hroom : x.arrivals.length < 1024 * x.areaPages.length) :
    ∃ t y a, exec (.tokenPacketReceive port p) s = .next t ∧ Counted p l t ∧ t.ctx l.ctx = some y ∧
      y.arrivals = x.arrivals ++ [a] ∧ y.areaPages = x.areaPages ∧ LinkToken a p l.ctx slot ∧ t.cores = s.cores := by
  have hex := tokenPacket_to_area port p s l x slot hform hl hst hx hused hslot hrest (.inl (areaFull_of_room x hroom))
  rw [growArea_room _ _ x hroom] at hex
  exact ⟨_, _, _, hex, counted_countReceived s p l hl, ctx_modCtx_self (countReceived s p) _ _ x hx, rfl, rfl,
    linkToken_tokPktToken p port l.ctx slot, rfl⟩

theorem tokenPacket_kept_on_new_page (hrest : x.st = .preempted ∨ x.st = .restoring) (g : Nat)
    (hfull : 1024 * x.areaPages.length ≤ x.arrivals.length) (hg : s.smallFrame = some g) :
    ∃ t y a, exec (.tokenPacketReceive port p) s = .next t ∧ Counted p l t ∧ t.ctx l.ctx = some y ∧
      y.arrivals = x.arrivals ++ [a] ∧ y.areaPages = x.areaPages ++ [g] ∧ LinkToken a p l.ctx slot ∧
      t.part.small = s.part.small ++ [g] ∧ t.part.kept = s.part.kept ∧ t.cores = s.cores := by
  have hex := tokenPacket_to_area port p s l x slot hform hl hst hx hused hslot hrest (.inr (by rw [hg]; rfl))
  rw [growArea_full (countReceived s p) _ g x hfull hg] at hex
  exact ⟨_, _, _, hex, counted_countReceived s p l hl, ctx_modCtx_self _ _ _ _ (ctx_modCtx_self _ _ _ x hx), rfl, rfl,
    linkToken_tokPktToken p port l.ctx slot, rfl, rfl, rfl⟩

end

/-! ### Packets dropped -/

theorem drops_of_exec (s : State) (i : Instr) (h : exec i s = .next s.dropPkt) : Drops s i :=
  fun hc => ⟨_, h, dropPkt_pktdrop s hc, State.dropPkt_mem s, rfl, rfl, rfl, rfl⟩

/-- An answer that is not for this node (R299). -/
theorem mine_false_iff (s : State) (dest : Nat) (rsv : Bool) :
    s.mine dest rsv = false ↔ dest ≠ s.io.node ∨ dest = 0xFFFFF ∨ rsv = true := by
  simp only [State.mine, Bool.and_eq_false_iff, beq_eq_false_iff_ne, bne_eq_false_iff_eq, Bool.not_eq_false', or_assoc]

theorem mine_true (s : State) (dest : Nat) (rsv : Bool) (h1 : dest = s.io.node) (h2 : dest ≠ 0xFFFFF) (h3 : rsv = false) :
    s.mine dest rsv = true := by simp [State.mine, h1 ▸ h2, h1, h3]

/-! ### Write packets -/

section
variable (port : Nat) (p : WrPkt) (s : State) (l : Launch) (x : Ctx) (n : Nat) (hmine : s.mine p.dest false = true) (hok : wrPktOk p = true)
  (haddr : p.addr % 4 = 0) (hlen : p.bytes.length = 4 * n) (hl : s.launch p.coord p.number = some l) (hst : l.st = .ready ∨ l.st = .running)
  (hx : s.ctx l.ctx = some x)
include hmine hok haddr hlen hl hst hx

/-- Where no word may be written, each is answered by a fault of kind 6 and no memory changes (R193, R297). -/
theorem writePacket_forbidden (hno : ∀ j < n, ¬(p.addr + 4 * j + 4 ≤ 2 ^ 64 ∧ x.allowed false 2 (p.addr + 4 * j) 4 = true)) :
    ∃ t, exec (.writePacketReceive port p) s = .next t ∧ t.mem = s.mem ∧
      ∀ j < n, Sends t p.source 1 (.fault p.copyId (4 * j) 6 (n - 1 - j)) := by
  have hwords : p.bytes.length / 4 = n := by omega
  have hfold := foldl_wordDone_fail p x 6 (List.range n) s [] fun j hj w => nodeWrite_forbidden s x _ w (hno j (List.mem_range.mp hj))
  have hlines : s.packetLines x.r.asid p.addr p.bytes.length (((List.range n).map fun j => (4 * j, 6)).map Prod.fst) = s := by
    refine packetLines_of_none_whole s _ _ _ _ fun i h1 h2 => ⟨(p.addr / 64 + i) * 64 - p.addr, ?_, by omega, by omega⟩
    rw [List.map_map]
    exact List.mem_map.mpr ⟨((p.addr / 64 + i) * 64 - p.addr) / 4, List.mem_range.mpr (by omega), by dsimp only [Function.comp]; omega⟩
  have hex := exec_writePacket_accept port p s l x hmine hok hl hst hx
  rw [hwords, hfold, List.nil_append] at hex
  dsimp only at hex
  rw [hlines] at hex
  refine ⟨_, hex, answered_mem _ _ _, fun j hj => ?_⟩
  have := sends_answered p s ((List.range n).map fun j => (4 * j, 6)) j (4 * j) 6 (by simp [hj])
  rwa [List.length_map, List.length_range] at this

end

section
variable (port : Nat) (p : WrPkt) (s : State) (l : Launch) (x : Ctx) (hmine : s.mine p.dest false = true) (hok : wrPktOk p = true)
  (hlen : p.bytes.length = 4) (hl : s.launch p.coord p.number = some l) (hst : l.st = .ready ∨ l.st = .running) (hx : s.ctx l.ctx = some x)
include hmine hok hlen hl hst hx

/-- A packet of one word is answered by what becomes of that word. -/
theorem exec_writePacket_word (t : State) (r : Option Nat)
    (h : s.nodeWrite x p.addr (BitVec.ofNat 32 (leNat p.bytes)) = (t, r)) :
    exec (.writePacketReceive port p) s = .next (answered p t (r.toList.map fun k => (0, k))) := by
  have hex := exec_writePacket_accept port p s l x hmine hok hl hst hx
  have htake : (p.bytes.drop (4 * 0)).take 4 = p.bytes := by rw [← hlen]; simp
  have hone : (List.range (p.bytes.length / 4)).foldl (wordDone p x) (s, []) = (t, r.toList.map fun k => (0, k)) := by
    rw [hlen]
    show wordDone p x (s, []) 0 = _
    unfold wordDone
    rw [htake]
    simp only [Nat.mul_zero, Nat.add_zero, h]
    cases r <;> rfl
  rw [hone] at hex
  dsimp only at hex
  rwa [packetLines_short _ _ _ _ _ (by omega)] at hex

/-- A word that fails is answered by a fault of its kind. -/
theorem writePacket_word_fault (k : Nat) (h : ∀ w, s.nodeWrite x p.addr w = (s, some k)) :
    ∃ t, exec (.writePacketReceive port p) s = .next t ∧ t.mem = s.mem ∧ Sends t p.source 1 (.fault p.copyId 0 k 0) :=
  ⟨_, exec_writePacket_word port p s l x hmine hok hlen hl hst hx s (some k) (h _), answered_mem _ _ _, sends_answered p s [(0, k)] 0 0 k rfl⟩

/-- A word that is written stands at its home slice and is acked. -/
theorem writePacket_word_done (haddr : p.addr % 4 = 0) (u : State)
    (h : ∀ w : Word, s.nodeWrite x p.addr w =
      (u.homeWrite x.r.asid (p.addr / 64) (lineData (p.addr % 64) (leBytes 4 w.toNat)) (byteMask (p.addr % 64) 4) none, none)) :
    ∃ t, exec (.writePacketReceive port p) s = .next t ∧ Sends t p.source 1 (.ack p.copyId 4) ∧
      ∃ z, t.homeRead x.r.asid p.addr 4 none .read = (t, .data p.bytes z) := by
  have hword : leBytes 4 (BitVec.ofNat 32 (leNat p.bytes)).toNat = p.bytes := by
    have hlt : leNat p.bytes < 2 ^ 32 := lt_of_lt_of_eq (leNat_lt p.bytes) (by rw [hlen]; rfl)
    rw [BitVec.toNat_ofNat, Nat.mod_eq_of_lt hlt, ← hlen, leBytes_leNat]
  have hex := exec_writePacket_word port p s l x hmine hok hlen hl hst hx _ none (h _)
  rw [hword, ← hlen] at hex
  have hmem := answered_mem p (u.homeWrite x.r.asid (p.addr / 64) (lineData (p.addr % 64) p.bytes) (byteMask (p.addr % 64) p.bytes.length) none) []
  obtain ⟨z, hz⟩ := State.homeRead_homeWrite u _ x.r.asid p.addr p.bytes .read (by omega) hmem
  refine ⟨_, hex, ?_, z, ?_⟩
  · rw [← hlen]
    exact sends_sendPkt _ _
  · rw [← hlen]
    exact hz

end

/-! ### Answers -/

theorem exec_writeAck_copy (port : Nat) (p : AckPkt) (s : State) (hmine : s.mine p.dest p.rsv = true) (hchk : s.chk = none) :
    exec (.writeAckReceive port p) s = .next (s.modRemote p.copyId fun q => q.ack p.bytes) := by
  show execWriteAckReceive port p s = _
  unfold execWriteAckReceive
  rw [hmine, hchk]
  cases chkStack p.copyId <;> rfl

theorem exec_writeFault_copy (port : Nat) (r : FaultPkt) (more : Nat) (s : State) (hmine : s.mine r.dest r.rsv = true) (hchk : s.chk = none) :
    exec (.writeFaultReceive port r more) s = .next (s.modRemote r.copyId fun q => q.nack r.off r.kind more) := by
  show execWriteFaultReceive port r more s = _
  unfold execWriteFaultReceive
  rw [hmine, hchk]
  cases chkStack r.copyId <;> rfl

/-- A checkpoint with more bytes of a stack acknowledged. -/
def chkAcked (c : Chk) (k bytes : Nat) : Chk := { c with acks := c.acks.set k (c.acks.getD k 0 + bytes) }

/-- An ack that a stack of the checkpoint waits for raises what it has acknowledged (R360). -/
theorem writeAck_checkpoint (port : Nat) (p : AckPkt) (k : Nat) (s : State) (c : Chk) (hmine : s.mine p.dest p.rsv = true) (hchk : s.chk = some c)
    (hk : k < 8) (hlen : c.acks.length = 8) (hid : p.copyId = 0xFFFFFFF8 + k) :
    ∃ t d, exec (.writeAckReceive port p) s = .next t ∧ t.chk = some d ∧ d.acks.getD k 0 = c.acks.getD k 0 + p.bytes ∧
      d.failed = c.failed ∧ t.mem = s.mem := by
  have hex : exec (.writeAckReceive port p) s =
      .next (({ s with chk := some (chkAcked c k p.bytes) } : State).chkSend (chkAcked c k p.bytes) k) := by
    show execWriteAckReceive port p s = _
    unfold execWriteAckReceive
    rw [hmine, hid, chkStack_of_stack k hk, hchk]
    rfl
  exact ⟨_, _, hex, chkSend_chk _ _ _, by simp [chkAcked, hlen, hk], rfl, State.chkSend_mem _ _ _⟩

/-- A fault of a stack of the checkpoint fails it (R360). -/
theorem writeFault_checkpoint (port : Nat) (r : FaultPkt) (more k : Nat) (s : State) (c : Chk) (hmine : s.mine r.dest r.rsv = true)
    (hchk : s.chk = some c) (hk : k < 8) (hid : r.copyId = 0xFFFFFFF8 + k) :
    ∃ t d, exec (.writeFaultReceive port r more) s = .next t ∧ t.chk = some d ∧ d.failed = some (c.failed.getD k) ∧ t.mem = s.mem := by
  have hex : exec (.writeFaultReceive port r more) s = .next { s with chk := some { c with failed := some (c.failed.getD k) } } := by
    show execWriteFaultReceive port r more s = _
    unfold execWriteFaultReceive
    rw [hmine, hid, chkStack_of_stack k hk, hchk]
    rfl
  exact ⟨_, _, hex, rfl, rfl, rfl⟩

/-! ### The statement on events -/

/-- The second part of O59: what each packet that a node receives does. -/
theorem linkPacketEvents : LinkPacketEvents := by
  unfold LinkPacketEvents
  refine ⟨?_, fun port p w s => ⟨fun h => ?_, fun h => ?_⟩, ?_, fun port p r more s => ⟨fun h => ?_, fun h => ?_⟩, ?_, ?_⟩
  · intro port p s l x slot hform hl hst hx hused hblock counted
    have hslot := packetSlot_eq s l p.block slot hblock
    refine ⟨?_, tokenPacket_takes_inbox_place port p s l x slot hform hl hst hx hused hslot, fun hrest => ⟨?_, ?_⟩⟩
    · intro b hrun hs hb hc ho core q
      exact ⟨tokenPacket_enters_intake port p s l x slot hform hl hst hx hused hslot b hrun hs hb hc ho core rfl,
        tokenPacket_waits_in_slot port p s l x slot hform hl hst hx hused hslot b hrun hs hb hc ho core rfl⟩
    · exact tokenPacket_kept port p s l x slot hform hl hst hx hused hslot hrest
    · exact tokenPacket_kept_on_new_page port p s l x slot hform hl hst hx hused hslot hrest
  · refine drops_of_exec s _ (exec_tokenPacket_drop port p s ?_)
    rw [tokenForm_iff, not_and_or, Bool.not_eq_true, Bool.not_eq_true, or_assoc] at h
    exact h
  · refine drops_of_exec s _ (exec_writePacket_drop port w s ?_)
    have hhere := mine_false_iff s w.dest false
    have hok := wrPktOk_false w
    rw [Unknown] at h
    tauto
  · intro port p s l x n hd hd' hr haddr hlen hcount h0 hn hl hst hx
    have hmine := mine_true s p.dest false hd hd' rfl
    have hok : wrPktOk p = true := (wrPktOk_iff p).mpr ⟨hr, by rw [hcount, hlen], by omega, by omega, by omega, haddr⟩
    refine ⟨writePacket_forbidden port p s l x n hmine hok haddr hlen hl hst hx, fun h1 htop hallow => ?_⟩
    have hlen4 : p.bytes.length = 4 := by omega
    refine ⟨fun k hk => ?_, fun c r hcr => ?_, fun pa e he hp => ?_⟩
    · exact writePacket_word_fault port p s l x hmine hok hlen4 hl hst hx k fun w => (nodeWrite_allowed s x p.addr w htop hallow).1 k hk
    · exact writePacket_word_fault port p s l x hmine hok hlen4 hl hst hx 3 fun w => (nodeWrite_allowed s x p.addr w htop hallow).2.1 c r hcr
    · exact writePacket_word_done port p s l x hmine hok hlen4 hl hst hx haddr (s.touch x.r.asid p.addr .write e) fun w =>
        (nodeWrite_allowed s x p.addr w htop hallow).2.2 pa e he hp
  · exact drops_of_exec s _ (exec_writeAck_drop port p s ((mine_false_iff s _ _).mpr h))
  · exact drops_of_exec s _ (exec_writeFault_drop port r more s ((mine_false_iff s _ _).mpr h))
  · intro port p r more core n s q hp hr hchk hremote hq huid hst j m hpkts h0 hopen
    obtain ⟨hd, hd', hrsv⟩ := hp
    obtain ⟨hrd, hrrsv, hrid⟩ := hr
    refine ⟨fun hbytes => ?_, fun hoff => ?_⟩
    · refine ⟨_, _, exec_writeAck_copy port p s (mine_true s _ _ hd hd' hrsv) hchk, copy_modRemote s _ core n q _ hremote hq huid hst, ?_⟩
      rw [ack_open q j m p.bytes hpkts _ (open_all q j m hopen) (by rw [List.length_map, List.length_range]; omega)]
      exact ⟨rfl, rfl, rfl, State.modRemote_mem _ _ _⟩
    · have hex := exec_writeFault_copy port r more s (mine_true s _ _ (hrd.trans hd) (hrd ▸ hd') hrrsv) hchk
      rw [hrid] at hex
      refine ⟨_, _, hex, copy_modRemote s _ core n q _ hremote hq huid hst, ?_⟩
      by_cases hmore : more = 0
      · subst hmore
        rw [nack_last q j m r.off r.kind hpkts hoff hopen]
        exact ⟨(mem_insertBy _ _ _ _).mpr (.inl rfl), fun b hb => (mem_insertBy _ _ _ _).mpr (.inr hb), State.modRemote_mem _ _ _,
          fun h => absurd rfl h, fun _ => ⟨rfl, rfl⟩⟩
      · rw [nack_more q j m r.off r.kind more hpkts hoff hopen hmore]
        exact ⟨(mem_insertBy _ _ _ _).mpr (.inl rfl), fun b hb => (mem_insertBy _ _ _ _).mpr (.inr hb), State.modRemote_mem _ _ _,
          fun _ => ⟨rfl, rfl⟩, fun h => absurd h hmore⟩
  · intro port p r more k s c hp hr hchk hk hlen hid
    obtain ⟨hd, hd', hrsv⟩ := hp
    obtain ⟨hrd, hrrsv, hrid⟩ := hr
    exact ⟨writeAck_checkpoint port p k s c (mine_true s _ _ hd hd' hrsv) hchk hk hlen hid,
      writeFault_checkpoint port r more k s c (mine_true s _ _ (hrd.trans hd) (hrd ▸ hd') hrrsv) hchk hk (hrid.trans hid)⟩

/-- Settles O59: packets as bytes, and the packets that a node receives. -/
theorem linkPackets : Obligations.LinkPackets := ⟨packetBytes, linkPacketEvents⟩

end Sys2Proof.Proofs
end

section
/-! SUPPORT. What a write at a home slice leaves alone: everything but the memories and the record of poisoned TLPs (R174, R322, R326). -/

namespace Sys2Proof.Machine

/-- The states differ in the memories and in the TLPs sent with EP set at most. -/
def MemoryOnly (s t : State) : Prop := ∃ m ep, t = { s with mem := m, io := { s.io with ep := ep } }

namespace MemoryOnly

theorem refl (s : State) : MemoryOnly s s := ⟨s.mem, s.io.ep, rfl⟩

theorem trans {s t u : State} (h : MemoryOnly s t) (k : MemoryOnly t u) : MemoryOnly s u := by
  obtain ⟨m, ep, rfl⟩ := h
  obtain ⟨m', ep', rfl⟩ := k
  exact ⟨m', ep', rfl⟩

theorem of_mem (s : State) (m : Mem) : MemoryOnly s { s with mem := m } := ⟨m, s.io.ep, rfl⟩

theorem foldl {α : Type} (f : State → α → State) (hf : ∀ t a, MemoryOnly t (f t a)) (l : List α) (s : State) : MemoryOnly s (l.foldl f s) := by
  induction l generalizing s with
  | nil => exact refl s
  | cons a l ih => exact (hf s a).trans (ih _)

/-- What a definition reads of the rest of the state is as before. -/
theorem congr {α : Sort _} {s t : State} (h : MemoryOnly s t) (f : State → α) (hf : ∀ m ep, f { s with mem := m, io := { s.io with ep := ep } } = f s) :
    f t = f s := by
  obtain ⟨m, ep, rfl⟩ := h
  exact hf m ep

end MemoryOnly

theorem State.physWrite_memoryOnly (s : State) (pa : Nat) (bs : List Byte) : MemoryOnly s (s.physWrite pa bs) := by
  unfold State.physWrite; split <;> exact MemoryOnly.of_mem _ _

theorem State.sendEp_memoryOnly (s : State) (pa n : Nat) : MemoryOnly s (s.sendEp pa n) := by
  unfold State.sendEp
  split
  · exact ⟨s.mem, _, rfl⟩
  · exact MemoryOnly.refl s

theorem State.touch_memoryOnly (s : State) (asid va : Nat) (use : XlUse) (e : Option (Nat × Bool)) : MemoryOnly s (s.touch asid va use e) := by
  unfold State.touch
  split
  · exact MemoryOnly.refl s
  · exact MemoryOnly.of_mem _ _

theorem State.putL2_memoryOnly (s : State) (l : L2Line) : MemoryOnly s (s.putL2 l) := MemoryOnly.of_mem _ _

theorem State.writeBack_memoryOnly (s : State) (l : L2Line) (use : XlUse) : MemoryOnly s (s.writeBack l use) := by
  unfold State.writeBack
  split
  · exact MemoryOnly.refl s
  · refine MemoryOnly.trans ?_ (State.touch_memoryOnly _ _ _ _ _)
    refine MemoryOnly.trans ?_ ((MemoryOnly.of_mem _ _).trans (State.putL2_memoryOnly _ _))
    refine MemoryOnly.trans ?_ (MemoryOnly.foldl _ (fun t a => t.physWrite_memoryOnly _ _) _ _)
    split
    · exact State.sendEp_memoryOnly _ _ _
    · exact MemoryOnly.refl s

theorem State.giveUp_memoryOnly (s : State) (l : L2Line) : MemoryOnly s (s.giveUp l) := by
  have hb : MemoryOnly s (if l.unsaved then s.writeBack l else s) := by
    split
    · exact State.writeBack_memoryOnly _ _ _
    · exact MemoryOnly.refl s
  unfold State.giveUp
  dsimp only
  split
  · split
    · exact hb.trans (MemoryOnly.of_mem _ _)
    · exact MemoryOnly.refl s
  · exact hb

theorem State.roomL2_memoryOnly (s : State) (asid line : Nat) : MemoryOnly s (s.roomL2 asid line) := by
  unfold State.roomL2
  dsimp only
  split
  · exact MemoryOnly.refl s
  · split
    · exact State.giveUp_memoryOnly _ _
    · exact MemoryOnly.refl s

theorem State.modL2_memoryOnly (s : State) (asid line : Nat) (colour : Option Nat) (f : L2Line → L2Line) :
    MemoryOnly s (s.modL2 asid line colour f) := by
  unfold State.modL2
  dsimp only
  split
  · exact State.putL2_memoryOnly _ _
  · exact (State.roomL2_memoryOnly _ _ _).trans (State.putL2_memoryOnly _ _)

theorem State.homeWrite_memoryOnly (s : State) (asid line : Nat) (data : Sparse 8) (mask : Nat) (colour : Option Nat) :
    MemoryOnly s (s.homeWrite asid line data mask colour) := State.modL2_memoryOnly _ _ _ _ _

@[simp] theorem State.setFrameState_blocks (s : State) (asid : Nat) (r : PackRef) (v : Nat) : (s.setFrameState asid r v).blocks = s.blocks :=
  (State.homeWrite_memoryOnly s asid _ _ _ _).congr State.blocks fun _ _ => rfl

end Sys2Proof.Machine
end

section
/-! The statement on what a step runs (O28): the move at the head of the agenda, and what a pipeline's issue does with the pack whose turn
it is (R20, R303, R310). -/

open Sys2Proof Sys2Proof.Machine

namespace Sys2Proof.Proofs

/-! ### The move of a step -/

theorem step_of_agenda (s : State) (m : Move) (rest : List Move) (h : s.agenda = m :: rest) :
    step s = ({ s with agenda := rest } : State).move m := by
  unfold step State.nextMove
  rw [h]

section
variable (s : State) (rest : List Move)

theorem step_issue (core pipe : Nat) (h : s.agenda = .issue core pipe :: rest) :
    step s = ({ s with agenda := rest } : State).issueMove core pipe := by rw [step_of_agenda s _ rest h, State.move]

theorem step_event (i : Instr) (h : s.agenda = .event i :: rest) (hi : i.isEvent = true) :
    step s = exec i ({ s with agenda := rest } : State) := by rw [step_of_agenda s _ rest h, State.move, if_pos hi]

theorem step_packet (port : Nat) (bytes : List Byte) (h : s.agenda = .packet port bytes :: rest) :
    step s = ({ s with agenda := rest } : State).receive port bytes := by rw [step_of_agenda s _ rest h, State.move]

theorem step_pass (n : Nat) (h : s.agenda = .pass n :: rest) : step s = .next (({ s with agenda := rest } : State).tick (s.now + n)) := by
  rw [step_of_agenda s _ rest h, State.move]

theorem step_boot (e : Nat) (h : s.agenda = .boot e :: rest) : step s = .next (({ s with agenda := rest } : State).bootMove e) := by
  rw [step_of_agenda s _ rest h, State.move]

theorem step_loader (port : Nat) (h : s.agenda = .loader port :: rest) :
    step s = .next (({ s with agenda := rest } : State).loaderMove port) := by rw [step_of_agenda s _ rest h, State.move]

end

theorem step_of_empty_agenda (s : State) (h : s.agenda = []) :
    step s = ({ s with freeCount := s.freeCount + 1 } : State).move (Config.freeMove s.freeCount) := by
  unfold step State.nextMove
  rw [h]

/-- A packet in form that an up port receives is the event it holds (R294, R299). -/
theorem receive_event (s : State) (port : Nat) (bs : List Byte) (i : Instr) (hup : (s.link port).up = true)
    (hpeer : (LinkHdr.ofNat (pktNat bs 0 8)).peerMarker = false) (hi : (readPacket bs).event port = some i) :
    s.receive port bs = exec i s := by
  simp [State.receive, hup, hpeer, hi]

/-! ### A pipeline's issue -/

section
variable (s : State) (r : PackRef) (p : Pack) (b : Block) (hb : s.block p.id.slot = some b)
include hb

theorem issueAt_decoded (i : Instr) (h : decodeWords (b.code.getD p.idx 0) b.code[p.idx + 1]? = .ok i) : s.issueAt r p = exec i s := by
  unfold State.issueAt
  rw [hb]
  dsimp only
  rw [h]

/-- Words that are no instruction trap as illegal (R42, R43). -/
theorem issueAt_illegal {e : Reject} (h : decodeWords (b.code.getD p.idx 0) b.code[p.idx + 1]? = .error e) :
    s.issueAt r p = .next (s.trapIllegal r p (opWords (majorOp (b.code.getD p.idx 0))) 2) := by
  unfold State.issueAt
  rw [hb]
  dsimp only
  rw [h]

end

/-- What a pipeline's issue does with the pack whose turn it is, in the state with the turn taken (R20, R303, R310). -/
def issueTurn (v : State) (r : PackRef) (p : Pack) : Out :=
  if v.atPoint p then
    if !p.c.reports.isEmpty then .next (v.trapReport r p)
    else
      let p1 := { p with c := { p.c with resume := none } }
      match p.c.resume with
      | none => v.issueAt r p
      | some _ =>
        match ((v.setFrameState (v.asid p.id.ctx) r 0).setPack r p1).issueAt r p1 with
        | .next t => if t.pack r = some p1 && ((t.core r.core).pipe r.pipe).next = ((v.core r.core).pipe r.pipe).next then .next v else .next t
        | o => o
  else v.issueAt r p

/-- The state in which a pipeline's turn has gone to a slot (R20). -/
def takeTurn (u : State) (r : PackRef) : State := { (u.modPipe r.core r.pipe fun k => { k with turn := r.slot }) with cur := r }

theorem issueMove_idle (s : State) (core pipe now : Nat) (hnow : max s.now ((s.core core).pipe pipe).next = now) (u : State)
    (hu : (s.tick now).wakePacks core pipe = u) (h : u.nextSlot core pipe now = none) : s.issueMove core pipe = .next u := by
  subst hnow hu
  unfold State.issueMove
  extract_lets now u
  rw [show u.nextSlot core pipe now = none from h]

theorem issueMove_turn (s : State) (core pipe now slot : Nat) (p : Pack) (hnow : max s.now ((s.core core).pipe pipe).next = now) (u : State)
    (hu : (s.tick now).wakePacks core pipe = u) (hslot : u.nextSlot core pipe now = some slot)
    (hp : (takeTurn u ⟨core, pipe, slot⟩).pack ⟨core, pipe, slot⟩ = some p) :
    s.issueMove core pipe = issueTurn (takeTurn u ⟨core, pipe, slot⟩) ⟨core, pipe, slot⟩ p := by
  unfold State.issueMove
  rw [hnow]
  extract_lets now' u'
  rw [show u' = u from hu]
  clear_value u'
  rw [show u.nextSlot core pipe now' = some slot from hslot]
  dsimp -zeta only
  extract_lets r w v
  have hv : v = takeTurn u r := rfl
  rw [hv]
  clear_value v
  change (takeTurn u r).pack r = some p at hp
  rw [hp]
  rfl

section
variable (v : State) (r : PackRef) (p : Pack) (b : Block) (hb : v.block p.id.slot = some b)

theorem issueTurn_off_point (h : v.atPoint p = false) : issueTurn v r p = v.issueAt r p := by
  simp [issueTurn, h]

theorem issueTurn_reports (h : v.atPoint p = true) (hr : p.c.reports ≠ []) : issueTurn v r p = .next (v.trapReport r p) := by
  simp [issueTurn, h, hr]

theorem issueTurn_at_point (h : v.atPoint p = true) (hr : p.c.reports = []) (hn : p.c.resume = none) : issueTurn v r p = v.issueAt r p := by
  simp [issueTurn, h, hr, hn]

include hb in
/-- A resumed pack gives up its frame as the instruction at its resume index issues, and not while that parks (R310). -/
theorem issueTurn_resumed (h : v.atPoint p = true) (hr : p.c.reports = []) (k : Nat) (hk : p.c.resume = some k) (i : Instr)
    (hi : decodeWords (b.code.getD p.idx 0) b.code[p.idx + 1]? = .ok i) (t : State)
    (ht : exec i ((v.setFrameState (v.asid p.id.ctx) r 0).setPack r { p with c := { p.c with resume := none } }) = .next t) :
    issueTurn v r p = if t.pack r = some { p with c := { p.c with resume := none } } ∧
      ((t.core r.core).pipe r.pipe).next = ((v.core r.core).pipe r.pipe).next then .next v else .next t := by
  have hblock : ((v.setFrameState (v.asid p.id.ctx) r 0).setPack r { p with c := { p.c with resume := none } }).block p.id.slot = some b := by
    rw [← hb]; simp [State.block]
  have hissue := (issueAt_decoded _ r { p with c := { p.c with resume := none } } b hblock i hi).trans ht
  unfold issueTurn
  rw [h, hr, hk]
  simp [hissue]

end

/-- Settles O28: a step makes the move at the head of the agenda, and an issue runs what the words at the pack's index decode to. -/
theorem stepRunsTheDecodedInstruction : Obligations.StepRunsTheDecodedInstruction := by
  unfold Obligations.StepRunsTheDecodedInstruction
  intro s rest next
  refine ⟨fun core pipe h => ?_, fun i => step_event s rest i, fun n => step_pass s rest n, fun port bytes i h hup hpeer hi => ?_,
    fun e => step_boot s rest e, fun port => step_loader s rest port, step_of_empty_agenda s⟩
  · have hstep := step_issue s rest core pipe h
    change step s = next.issueMove core pipe at hstep
    intro now u
    have hnow : max next.now ((next.core core).pipe pipe).next = now := rfl
    have hu : (next.tick now).wakePacks core pipe = u := rfl
    clear_value now u next
    refine ⟨fun hidle => hstep.trans (issueMove_idle next core pipe now hnow u hu hidle), ?_⟩
    intro slot p b r v hslot hp hb words whole w
    have hturn : step s = issueTurn v r p := hstep.trans (issueMove_turn next core pipe now slot p hnow u hu hslot hp)
    refine ⟨fun i hi hpt => ?_, fun i hi hpt hr hn => ?_, fun i k t hi hpt hr hk ht => ?_, fun hpt hr => ?_, fun e he hpt => ?_⟩
    · rw [hturn, issueTurn_off_point v r p hpt, issueAt_decoded v r p b hb i hi]
    · rw [hturn, issueTurn_at_point v r p hpt hr hn, issueAt_decoded v r p b hb i hi]
    · rw [hturn, issueTurn_resumed v r p b hb hpt hr k hk i hi t ht]
      exact ⟨fun hno => if_neg hno, fun hparks => if_pos hparks⟩
    · rw [hturn, issueTurn_reports v r p hpt hr]
    · rw [hturn, issueTurn_off_point v r p hpt, issueAt_illegal v r p b hb he]
  · exact (step_packet s rest port bytes h).trans (receive_event next port bytes i hup hpeer hi)

end Sys2Proof.Proofs
end

section
/-! SUPPORT. The colour directory (R232, R242, R244): what a grant, the entry of a child token and a fault token leave in the state. -/

namespace Sys2Proof

theorem Tbl.find_map {α β : Type} (f : Nat → α → β) (t : Tbl α) (k : Nat) :
    Tbl.find k (t.map fun e => (e.1, f e.1 e.2)) = (Tbl.find k t).map (f k) := by
  induction t with
  | nil => rfl
  | cons e t ih =>
    obtain ⟨i, x⟩ := e
    by_cases h : i = k
    · subst h; simp [Tbl.find]
    · simpa [Tbl.find, h] using ih

namespace Machine

/-! ### Contexts and cores after an update -/

theorem State.ctx_congr {s t : State} (h : t.ctxs = s.ctxs) (n : Nat) : t.ctx n = s.ctx n := by rw [State.ctx, h, State.ctx]
theorem State.core_congr {s t : State} (h : t.cores = s.cores) (c : Nat) : t.core c = s.core c := by rw [State.core, h, State.core]
theorem State.block_congr {s t : State} (h : t.blocks = s.blocks) (n : Nat) : t.block n = s.block n := by rw [State.block, h, State.block]

@[simp] theorem State.ctx_modCore (s : State) (c : Nat) (f : Core → Core) (n : Nat) : (s.modCore c f).ctx n = s.ctx n := rfl
@[simp] theorem State.ctx_setCore (s : State) (c : Nat) (k : Core) (n : Nat) : (s.setCore c k).ctx n = s.ctx n := rfl
@[simp] theorem State.ctx_pushOut (s : State) (c : Nat) (o : OutTok) (n : Nat) : (s.pushOut c o).ctx n = s.ctx n := rfl
@[simp] theorem State.core_modCtx (s : State) (n : Nat) (f : Ctx → Ctx) (c : Nat) : (s.modCtx n f).core c = s.core c := rfl
@[simp] theorem State.block_modCore (s : State) (c : Nat) (f : Core → Core) (n : Nat) : (s.modCore c f).block n = s.block n := rfl
@[simp] theorem State.block_setCore (s : State) (c : Nat) (k : Core) (n : Nat) : (s.setCore c k).block n = s.block n := rfl
@[simp] theorem State.block_modCtx (s : State) (n : Nat) (f : Ctx → Ctx) (b : Nat) : (s.modCtx n f).block b = s.block b := rfl

@[simp] theorem State.core_pushOut_self (s : State) (c : Nat) (o : OutTok) :
    (s.pushOut c o).core c = { s.core c with outbound := (s.core c).outbound ++ [o] } := by
  rw [State.pushOut, State.core_modCore, if_pos rfl]

/-! ### The colour directory -/

@[simp] theorem State.clearClose_ctxs (s : State) (ctx colour : Nat) : (s.clearClose ctx colour).ctxs = s.ctxs := rfl

/-- A change of every core that leaves one after reset alone. -/
theorem State.core_mapCores (s : State) (f : Core → Core) (hf : f Core.reset = Core.reset) (c : Nat) :
    ({ s with cores := s.cores.map fun e => (e.1, f e.2) } : State).core c = f (s.core c) := by
  unfold State.core
  dsimp only
  rw [Tbl.find_map fun _ => f]
  cases s.cores.find c with
  | none => exact hf.symm
  | some k => rfl

/-- Close marks alone are cleared (R224). -/
theorem State.core_clearClose (s : State) (ctx colour c : Nat) : ∃ cl, (s.clearClose ctx colour).core c = { s.core c with closed := cl } :=
  ⟨_, s.core_mapCores (fun k => { k with closed := k.closed.filter fun m => !(m.1 == ctx && m.2.2 == colour) }) rfl c⟩

/-- The requests of a core with the colour that one of them is granted. -/
def grantIn (uid c : Nat) (rs : List SpawnReq) : List SpawnReq := rs.map fun r => if r.uid = uid then { r with granted := some c } else r

theorem State.core_grantColour (s : State) (core : Nat) (q : SpawnReq) (c : Nat) :
    ∃ cl, (s.grantColour core q c).core core = { s.core core with closed := cl, alloc := grantIn q.uid c (s.core core).alloc } := by
  unfold State.grantColour
  obtain ⟨cl, hcl⟩ := (s.modCtx q.ctx fun x =>
    { x with pools := x.pools ++ [(q.level, c)], returns := x.returns ++ [((q.level, c), (q.parent, q.rslot, q.rport))] }).core_clearClose
      q.ctx (q.level * 2 ^ 13 + c) core
  refine ⟨cl, ?_⟩
  rw [State.core_modCore, if_pos rfl, hcl]
  rfl

theorem State.ctx_grantColour (s : State) (core : Nat) (q : SpawnReq) (c : Nat) (x : Ctx) (hx : s.ctx q.ctx = some x) :
    (s.grantColour core q c).ctx q.ctx = some { x with
      pools := x.pools ++ [(q.level, c)], returns := x.returns ++ [((q.level, c), (q.parent, q.rslot, q.rport))] } := by
  unfold State.grantColour
  rw [State.ctx_modCore, State.ctx_congr (State.clearClose_ctxs _ _ _)]
  exact Proofs.ctx_modCtx_self s q.ctx _ x hx

/-- The token of a granted request (R242). -/
def childTok (core : Nat) (q : SpawnReq) (c : Nat) : OutTok :=
  { tok := { slot := q.slot, port := q.port, tag := mkTag q.level c q.index, pay := q.pay, ctx := q.ctx, rel := some .dev,
             handler := false, src := 0, bearing := q.bearing, core, cov := q.waits },
    serial := q.serial, conds := [{ sc := .dev, uids := q.waits }], frees := none, grants := some (q.level, c) }

theorem State.core_childToken (s : State) (core : Nat) (q : SpawnReq) (c : Nat) (h : (s.core core).spawned = []) :
    (s.childToken core q c).core core = { s.core core with
      alloc := (s.core core).alloc.filter fun r => r.uid != q.uid, outbound := (s.core core).outbound ++ [childTok core q c] } := by
  unfold State.childToken State.pushOut
  rw [State.core_modCore, if_pos rfl, State.core_modCore, if_pos rfl]
  simp [Core.pumpAlloc, h, childTok]

theorem State.ctx_childToken (s : State) (core : Nat) (q : SpawnReq) (c n : Nat) : (s.childToken core q c).ctx n = s.ctx n := rfl

/-- The tag of a level, a colour and an index, as a number (R11). -/
theorem mkTag_toNat (level c index : Nat) (hc : c < 8192) : (mkTag level c index).toNat = level % 8 * 2 ^ 61 + c * 2 ^ 48 + index % 2 ^ 48 := by
  rw [mkTag, BitVec.toNat_ofNat]
  omega

/-- The lowest colour that no pool entry holds is the free one (R232). -/
theorem Ctx.freeNumber_eq (x : Ctx) (level c : Nat) (hc : c < 8192) (hfree : (level, c) ∉ x.pools) (hlow : ∀ d < c, (level, d) ∈ x.pools) :
    x.freeNumber level = some c := by
  unfold Ctx.freeNumber
  rw [List.find?_range_eq_some]
  exact ⟨by simpa using hfree, List.mem_range.mpr hc, fun d hd => by simpa using hlow d hd⟩

/-- A fault or trap token enters the outbound queue that has room for it (R217, R311). -/
theorem State.raiseAtCore_room (s : State) (core ctx : Nat) (trap : Bool) (pay : List Word) (bearing : DWord) (serial : Nat) (x : Ctx)
    (hx : s.ctx ctx = some x) (hraised : (s.core core).raised = []) (hroom : (s.core core).outbound.length < 512) :
    s.raiseAtCore core ctx trap pay bearing serial = s.modCore core fun c => { c with
      hseq := (c.hseq + 1) % 2 ^ 40
      outbound := c.outbound ++ [{ tok := handlerTok x ctx core c.hseq trap pay bearing, serial, conds := [], frees := none, grants := none }] } := by
  unfold State.raiseAtCore
  rw [hx]
  unfold State.modCore
  have htake : 1 ≤ 512 - (s.core core).outbound.length := by omega
  simp [Core.pumpRaised, hraised, List.take_of_length_le, List.drop_eq_nil_of_le, htake]

@[simp] theorem handlerTok_handler (x : Ctx) (ctx unit q : Nat) (trap : Bool) (pay : List Word) (bearing : DWord) :
    (handlerTok x ctx unit q trap pay bearing).handler = true := by
  unfold handlerTok; dsimp only; split <;> rfl

@[simp] theorem handlerTok_pay (x : Ctx) (ctx unit q : Nat) (trap : Bool) (pay : List Word) (bearing : DWord) :
    (handlerTok x ctx unit q trap pay bearing).pay = pay := by
  unfold handlerTok; dsimp only; split <;> rfl

end Machine
end Sys2Proof
end

section
/-! The statement on the colour directory (O13): grants (R232, R242) and returns (R244). -/

open Sys2Proof Sys2Proof.Machine Sys2Proof.Claims

namespace Sys2Proof.Proofs

/-- A fault token of a core is a refusal of its cause (R220, R311). -/
theorem refuses_of_raise (s : State) (core ctx cause slot port : Nat) (tag bearing : DWord) (serial : Nat) (x : Ctx) (hx : s.ctx ctx = some x)
    (hraised : (s.core core).raised = []) (hroom : (s.core core).outbound.length < 512) :
    Refuses (s.raiseAtCore core ctx false (refusedPay cause slot port tag) bearing serial) core cause (s.core core).outbound := by
  rw [State.raiseAtCore_room s core ctx false _ bearing serial x hx hraised hroom]
  refine ⟨_, by rw [State.core_modCore, if_pos rfl], ?_⟩
  simp [refusedPay]

/-! ### Grants -/

theorem outRoom_of_lt_480 (c : Core) (kept : Bool) (h : c.outbound.length < 480) : c.outRoom kept = true := by
  unfold Core.outRoom
  split <;> simp <;> omega

section
variable (core : Nat) (s : State) (x : Ctx) (q : SpawnReq) (c : Nat) (hq : s.requests[0]? = some (core, q)) (hx : s.ctx q.ctx = some x)
  (hnone : q.granted = none) (hc : c < 8192) (hfree : (q.level, c) ∉ x.pools) (hlow : ∀ d < c, (q.level, d) ∈ x.pools)
include hq hx hnone hc hfree hlow

/-- The oldest request is granted the lowest free colour; its token enters the outbound queue if that has room (R239, R242). -/
theorem exec_colourGrant : exec (.colourGrant 0) s = .next
    (if ((s.grantColour core q c).core core).outRoom q.kept then (s.grantColour core q c).childToken core q c else s.grantColour core q c) := by
  show execColourGrant 0 s = _
  unfold execColourGrant
  simp [hq, hx, hnone, x.freeNumber_eq q.level c hc hfree hlow]

theorem grant_waits_for_room (hfull : 512 ≤ (s.core core).outbound.length) (hmem : q ∈ (s.core core).alloc) :
    ∃ (t : State) (y : Ctx) (g : SpawnReq), exec (.colourGrant 0) s = .next t ∧ t.ctx q.ctx = some y ∧ y.pools = x.pools ++ [(q.level, c)] ∧
      (t.core core).outbound = (s.core core).outbound ∧ g ∈ (t.core core).alloc ∧ g.uid = q.uid ∧ g.granted = some c := by
  obtain ⟨cl, hcore⟩ := s.core_grantColour core q c
  have hroom : ((s.grantColour core q c).core core).outRoom q.kept = false := by
    rw [hcore]
    unfold Core.outRoom
    split <;> simp <;> omega
  have hex := exec_colourGrant core s x q c hq hx hnone hc hfree hlow
  rw [hroom] at hex
  refine ⟨_, _, { q with granted := some c }, hex, s.ctx_grantColour core q c x hx, rfl, by simp [hcore], ?_, rfl, rfl⟩
  have : (if q.uid = q.uid then { q with granted := some c } else q) = { q with granted := some c } := if_pos rfl
  simp only [Bool.false_eq_true, if_false, hcore]
  exact List.mem_map.mpr ⟨q, hmem, this⟩

theorem grant_sends_child (hspawned : (s.core core).spawned = []) (hout : (s.core core).outbound.length < 480) :
    ∃ (t : State) (y : Ctx) (o : OutTok), exec (.colourGrant 0) s = .next t ∧ t.ctx q.ctx = some y ∧ y.pools = x.pools ++ [(q.level, c)] ∧
      y.returns = x.returns ++ [((q.level, c), (q.parent, q.rslot, q.rport))] ∧
      (t.core core).outbound = (s.core core).outbound ++ [o] ∧ o.tok.slot = q.slot ∧ o.tok.port = q.port ∧ o.tok.pay = q.pay ∧
      o.tok.tag.toNat = q.level % 8 * 2 ^ 61 + c * 2 ^ 48 + q.index % 2 ^ 48 ∧ o.tok.rel = some .dev ∧
      (∀ r ∈ (t.core core).alloc, r.uid ≠ q.uid) ∧ t.mem = s.mem := by
  obtain ⟨cl, hcore⟩ := s.core_grantColour core q c
  have hroom : ((s.grantColour core q c).core core).outRoom q.kept = true :=
    outRoom_of_lt_480 _ _ (by rw [hcore]; exact hout)
  have hex := exec_colourGrant core s x q c hq hx hnone hc hfree hlow
  rw [if_pos hroom] at hex
  have hchild := (s.grantColour core q c).core_childToken core q c (by rw [hcore]; exact hspawned)
  refine ⟨_, _, childTok core q c, hex, s.ctx_grantColour core q c x hx, rfl, rfl, by rw [hchild, hcore], rfl, rfl, rfl, mkTag_toNat _ _ _ hc, rfl, ?_, rfl⟩
  intro r hr
  rw [hchild] at hr
  simpa using (List.mem_filter.mp hr).2

end

/-! ### Returns -/

/-- The token of a return of a held colour, as the return record directs it (R244). -/
def returnTok (q : RetReq) (parent : DWord) (slot port : Nat) : OutTok :=
  { q.out with tok := { q.out.tok with slot, port, tag := parent }, frees := some (q.level, q.colour) }

section
variable (core : Nat) (s : State) (x : Ctx) (q : RetReq) (more : List RetReq) (hq : s.returns = q :: more) (hx : s.ctx q.ctx = some x)
  (hcore : q.out.tok.core = core) (hout : (s.core core).outbound.length < 480)
include hq hx hcore hout

/-- A return of a held colour carries its payload to the recorded parent (R244). -/
theorem return_of_held (parent : DWord) (slot port : Nat)
    (hrec : x.returns.find? (fun e => decide (e.1 = (q.level, q.colour))) = some ((q.level, q.colour), (parent, slot, port))) :
    ∃ (t : State) (y : Ctx) (o : OutTok), exec (.colourReturn 0) s = .next t ∧ t.returns = more ∧ t.ctx q.ctx = some y ∧
      (∀ e ∈ y.returns, e.1 ≠ (q.level, q.colour)) ∧ (t.core core).outbound = (s.core core).outbound ++ [o] ∧
      o.tok.tag = parent ∧ o.tok.slot = slot ∧ o.tok.port = port ∧ o.tok.pay = q.out.tok.pay ∧ o.frees = some (q.level, q.colour) := by
  have hrec' : x.returns.find? (fun e => e.1 == (q.level, q.colour)) = some ((q.level, q.colour), (parent, slot, port)) := by
    rw [← hrec]
    congr 1
    funext e
    rw [Bool.eq_iff_iff]
    simp
  have hex : exec (.colourReturn 0) s = .next ((({ s with returns := more } : State).modCtx q.ctx fun x =>
      { x with returns := x.returns.filter fun e => e.1 != (q.level, q.colour) }).pushOut core (returnTok q parent slot port)) := by
    show execColourReturn 0 s = _
    unfold execColourReturn
    simp [hq, outRoom_of_lt_480 _ q.kept hout, hx, hrec', hcore, returnTok]
  refine ⟨_, _, returnTok q parent slot port, hex, rfl, (State.ctx_pushOut _ _ _ _).trans (ctx_modCtx_self _ q.ctx _ x hx), ?_,
    by rw [State.core_pushOut_self, State.core_modCtx]; rfl, rfl, rfl, rfl, rfl, rfl⟩
  intro e he
  simpa using (List.mem_filter.mp he).2

/-- A return of no held colour gives the fault token of cause 37 (R244). -/
theorem return_of_none (hraised : (s.core core).raised = []) (hrec : ∀ e ∈ x.returns, e.1 ≠ (q.level, q.colour)) :
    ∃ t, exec (.colourReturn 0) s = .next t ∧ t.returns = more ∧ Refuses t core 37 (s.core core).outbound := by
  have hrec' : x.returns.find? (fun e => e.1 == (q.level, q.colour)) = none := by
    rw [List.find?_eq_none]
    intro e he
    simpa using hrec e he
  have hex : exec (.colourReturn 0) s = .next (({ s with returns := more } : State).raiseAtCore core q.ctx false
      (refusedPay 37 q.out.tok.slot q.out.tok.port q.out.tok.tag) 0 (2 ^ 24)) := by
    show execColourReturn 0 s = _
    unfold execColourReturn
    simp [hq, outRoom_of_lt_480 _ q.kept hout, hx, hrec', hcore]
  refine ⟨_, hex, ?_, refuses_of_raise { s with returns := more } core q.ctx 37 _ _ _ _ _ x hx hraised (Nat.lt_trans hout (by decide))⟩
  rw [State.raiseAtCore_room { s with returns := more } core q.ctx false _ _ _ x hx hraised (Nat.lt_trans hout (by decide))]
  rfl

end

/-- Settles O13: the directory grants the lowest free colour to the oldest request, and sends a return to the recorded parent. -/
theorem coloursAreGrantedAndReturned : Obligations.ColoursAreGrantedAndReturned := by
  unfold Obligations.ColoursAreGrantedAndReturned
  intro core s x
  refine ⟨fun q c hq hx hnone hspawned hc hfree hlow => ⟨?_, ?_⟩, fun q more hq hx hcore hout hraised => ⟨?_, ?_⟩⟩
  · exact grant_waits_for_room core s x q c hq hx hnone hc hfree hlow
  · exact grant_sends_child core s x q c hq hx hnone hc hfree hlow hspawned
  · exact return_of_held core s x q more hq hx hcore hout
  · exact return_of_none core s x q more hq hx hcore hout hraised

end Sys2Proof.Proofs
end

section
/-! SUPPORT. The frame of an instruction of registers alone: what it keeps of its pack, and of the rest of the state (R29 to R31, R94, R105). -/

open Sys2Proof.Claims

namespace Sys2Proof.Machine

/-! ### What is kept of a pack -/

/-- The pack has the same registers and views, and is the same but for being restored. -/
def SameRegs (p q : Pack) : Prop := q.r = p.r ∧ q.m = p.m ∧ q.id = { p.id with restored := q.id.restored }

namespace SameRegs

theorem refl (p : Pack) : SameRegs p p := ⟨rfl, rfl, rfl⟩

theorem trans {p q u : Pack} (h : SameRegs p q) (k : SameRegs q u) : SameRegs p u := by
  obtain ⟨hr, hm, hid⟩ := h
  obtain ⟨kr, km, kid⟩ := k
  exact ⟨kr.trans hr, km.trans hm, by rw [kid, hid]⟩

/-- Control alone is changed. -/
theorem of_ctrl (p : Pack) (c : Ctrl) : SameRegs p { p with c := c } := ⟨rfl, rfl, rfl⟩

theorem settled (p : Pack) : SameRegs p p.settled := ⟨rfl, rfl, rfl⟩

theorem advance (p : Pack) (len : Nat) : SameRegs p (p.advance len) := by
  unfold Pack.advance
  split
  · exact of_ctrl p _
  · exact (of_ctrl p _).trans (settled _)
  · exact of_ctrl p _

theorem closeBatch (p : Pack) : SameRegs p p.closeBatch := of_ctrl p _

theorem addReport (p : Pack) (e : Report) : SameRegs p (p.addReport e) := of_ctrl p _

theorem addReports (es : List Report) (p : Pack) : SameRegs p (es.foldl (fun q e => q.addReport e) p) := by
  induction es generalizing p with
  | nil => exact refl p
  | cons e es ih => exact (addReport p e).trans (ih _)

end SameRegs

/-- A trap of a pack that is no recompute leaves the pack in its slot, stopped, with its registers (R303, R305). -/
theorem State.raise_eq (s : State) (r : PackRef) (p : Pack) (idx resume code : Nat) (entry : Option Report) (cause : Nat)
    (hc : p.id.colour = none) : ∃ q, s.raise r p idx resume code entry cause = s.setPack r q ∧ SameRegs p q := by
  unfold State.raise
  rw [hc]
  refine ⟨_, rfl, SameRegs.trans ?_ (SameRegs.of_ctrl _ _)⟩
  refine SameRegs.trans ?_ (SameRegs.settled _)
  refine SameRegs.trans ?_ (SameRegs.addReports _ _)
  cases entry with
  | none => exact SameRegs.closeBatch p
  | some e => exact (SameRegs.closeBatch p).trans (SameRegs.addReport _ e)

theorem State.trapIssue_eq (s : State) (r : PackRef) (p : Pack) (len : Nat) (ls : List RepLane) (hc : p.id.colour = none) :
    ∃ q, s.trapIssue r p len ls = s.setPack r q ∧ SameRegs p q := s.raise_eq r p _ _ _ _ _ hc

theorem State.trapReport_eq (s : State) (r : PackRef) (p : Pack) (hc : p.id.colour = none) :
    ∃ q, s.trapReport r p = s.setPack r q ∧ SameRegs p q := by
  unfold State.trapReport
  rw [hc]
  refine ⟨_, rfl, SameRegs.trans ?_ (SameRegs.of_ctrl _ _)⟩
  exact ((SameRegs.closeBatch p).trans (SameRegs.addReports _ _)).trans (SameRegs.settled _)

/-- What an instruction with destinations `vs`, `ss` and `ks` keeps of its pack. -/
def KeepsRegs (vs ss ks : List Nat) (p q : Pack) : Prop :=
  q.m = p.m ∧ q.id = { p.id with restored := q.id.restored } ∧ q.r.td = p.r.td ∧ q.r.fpctl = p.r.fpctl ∧
    q.r.trapen = p.r.trapen ∧ q.r.leash = p.r.leash ∧ (∀ r L, L < 32 → (r ∉ vs ∨ L ∉ p.lanes) → q.v r L = p.v r L) ∧
    (∀ r, r ∉ ss → q.s r = p.s r) ∧ ∀ r, r ∉ ks → q.k r = p.k r

namespace KeepsRegs

variable {vs ss ks : List Nat} {p q u : Pack}

theorem sameRegs (h : KeepsRegs vs ss ks p q) (k : SameRegs q u) : KeepsRegs vs ss ks p u := by
  obtain ⟨hm, hid, htd, hfp, htr, hle, hv, hs, hk⟩ := h
  obtain ⟨kr, km, kid⟩ := k
  refine ⟨km.trans hm, by rw [kid, hid], by rw [kr, htd], by rw [kr, hfp], by rw [kr, htr], by rw [kr, hle], fun r L hL hr => ?_, fun r hr => ?_,
    fun r hr => ?_⟩
  · rw [← hv r L hL hr, Pack.v, kr, Pack.v]
  · rw [← hs r hr, Pack.s, kr, Pack.s]
  · rw [← hk r hr, Pack.k, Pack.k, Pack.active, Pack.active, kr, kid]

theorem refl (vs ss ks : List Nat) (p : Pack) : KeepsRegs vs ss ks p p :=
  ⟨rfl, rfl, rfl, rfl, rfl, rfl, fun _ _ _ _ => rfl, fun _ _ => rfl, fun _ _ => rfl⟩

theorem of_sameRegs (h : SameRegs p q) : KeepsRegs vs ss ks p q := (refl vs ss ks p).sameRegs h

/-- One more lane register written, in a lane that takes part. -/
theorem setV (h : KeepsRegs vs ss ks p q) (d L : Nat) (x : Word) (hd : d ∈ vs) (hL : L ∈ p.lanes) (hL32 : L < 32) :
    KeepsRegs vs ss ks p (q.setV d L x) := by
  obtain ⟨hm, hid, htd, hfp, htr, hle, hv, hs, hk⟩ := h
  refine ⟨hm, hid, htd, hfp, htr, hle, fun r M hM hr => ?_, hs, hk⟩
  have hne : ¬ r * 32 + M = d * 32 + L := by
    intro heq
    obtain ⟨rfl, rfl⟩ : r = d ∧ M = L := by omega
    exact hr.elim (fun h => h hd) (fun h => h hL)
  rw [Pack.v_setV, if_neg hne, hv r M hM hr]

theorem setVs (d L : Nat) (xs : List Word) (hL : L ∈ p.lanes) (hL32 : L < 32) (hd : ∀ j < xs.length, d + j ∈ vs)
    (h : KeepsRegs vs ss ks p q) : KeepsRegs vs ss ks p (q.setVs d L xs) := by
  induction xs generalizing d q with
  | nil => exact h
  | cons x xs ih =>
    refine ih (d + 1) (fun j hj => ?_) (h.setV d L x (hd 0 (by simp)) hL hL32)
    have := hd (j + 1) (by simpa using hj)
    rwa [Nat.add_assoc, Nat.add_comm 1 j]

theorem setS (d : Nat) (x : Word) (hd : d ∈ ss) (h : KeepsRegs vs ss ks p q) : KeepsRegs vs ss ks p (q.setS d x) := by
  obtain ⟨hm, hid, htd, hfp, htr, hle, hv, hs, hk⟩ := h
  refine ⟨by simp [hm], by simp only [Pack.id_setS]; exact hid, ?_, ?_, ?_, ?_, fun r L hL hr => by simp [hv r L hL hr], fun r hr => ?_, fun r hr => by simp [hk r hr]⟩
  case refine_5 =>
    have hne : ¬(r = d ∧ d ≠ 0) := fun h => hr (h.1 ▸ hd)
    rw [Pack.s_setS, if_neg hne, hs r hr]
  all_goals unfold Pack.setS; split <;> assumption

theorem setK (d : Nat) (x : Word) (hd : d ∈ ks) (h : KeepsRegs vs ss ks p q) : KeepsRegs vs ss ks p (q.setK d x) := by
  obtain ⟨hm, hid, htd, hfp, htr, hle, hv, hs, hk⟩ := h
  refine ⟨by simp [hm], by simp only [Pack.id_setK]; exact hid, ?_, ?_, ?_, ?_, fun r L hL hr => by simp [hv r L hL hr], fun r hr => by simp [hs r hr], fun r hr => ?_⟩
  case refine_5 =>
    have hne : ¬(r = d ∧ d ≠ 0) := fun h => hr (h.1 ▸ hd)
    rw [Pack.k_setK, if_neg hne, hk r hr]
  all_goals unfold Pack.setK; split <;> assumption

end KeepsRegs

theorem Pack.lanes_lt (p : Pack) (L : Nat) (h : L ∈ p.lanes) : L < 32 := by
  have hmin : ∀ L ∈ List.range (min p.id.n 32), L < 32 := fun L hL => by
    rw [List.mem_range] at hL
    omega
  unfold Pack.lanes at h
  split at h
  · exact hmin L h
  · exact hmin L (List.mem_of_mem_filter h)

/-- Results written to the lanes that take part change their registers alone (R105). -/
theorem keepsRegs_writeLanes (vs : List Nat) (p : Pack) (d : Nat) (ls : List Nat) (g : Nat → LaneOut) (hl : ∀ L ∈ ls, L ∈ p.lanes)
    (hd : ∀ L ∈ ls, ∀ j < (g L).vals.length, d + j ∈ vs) (q : Pack) (h : KeepsRegs vs [] [] p q) :
    KeepsRegs vs [] [] p (q.writeLanes d (ls.map fun L => (L, g L))) := by
  induction ls generalizing q with
  | nil => exact h
  | cons L ls ih =>
    have hL := hl L (by simp)
    exact ih (fun M hM => hl M (by simp [hM])) (fun M hM => hd M (by simp [hM])) _
      (h.setVs d L _ hL (p.lanes_lt L hL) (hd L (by simp)))

/-! ### What is kept of the state -/

/-- The context's FLAGS change alone. -/
def FlagsOnly (n : Nat) (s t : State) : Prop :=
  ∀ m y, t.ctx m = some y → ∃ x, s.ctx m = some x ∧ y = { x with r := { x.r with flags := y.r.flags } } ∧ (m ≠ n → y = x)

theorem FlagsOnly.of_ctxs {n : Nat} {s t : State} (h : t.ctxs = s.ctxs) : FlagsOnly n s t := fun m y hy =>
  ⟨y, by rw [← hy, State.ctx_congr h], rfl, fun _ => rfl⟩

theorem State.commit_flagsOnly (s : State) (n cls : Nat) : FlagsOnly n s (s.commit n cls) := by
  intro m y hy
  rw [State.commit, State.ctx_modCtx] at hy
  by_cases hm : m = n
  · subst hm
    rw [if_pos rfl, Option.map_eq_some_iff] at hy
    obtain ⟨x, hx, rfl⟩ := hy
    exact ⟨x, hx, rfl, fun h => absurd rfl h⟩
  · rw [if_neg hm] at hy
    exact ⟨y, hy, rfl, fun _ => rfl⟩

/-- Classes that are none leave the contexts alone (R94). -/
theorem State.commit_zero (s : State) (n : Nat) : (s.commit n 0).ctxs = s.ctxs := by
  unfold State.commit State.modCtx Tbl.upd
  refine (List.map_congr_left fun e _ => ?_).trans (List.map_id _)
  split
  next h => rw [← h]; simp
  next => rfl

/-- All but the pack that issues, its pipelines and the contexts is as before. -/
def OthersKept (s t : State) : Prop :=
  t.cur = s.cur ∧ t.mem = s.mem ∧ t.now = s.now ∧ t.blocks = s.blocks ∧ t.io = s.io ∧
    ∀ r, r ≠ s.cur → r.pipe < 4 → r.slot < 16 → s.cur.pipe < 4 → s.cur.slot < 16 → t.pack r = s.pack r

namespace OthersKept

variable {s t u : State}

theorem refl (s : State) : OthersKept s s := ⟨rfl, rfl, rfl, rfl, rfl, fun _ _ _ _ _ _ => rfl⟩

theorem trans (h : OthersKept s t) (k : OthersKept t u) : OthersKept s u := by
  obtain ⟨hc, hm, hn, hb, hi, hp⟩ := h
  obtain ⟨kc, km, kn, kb, ki, kp⟩ := k
  refine ⟨kc.trans hc, km.trans hm, kn.trans hn, kb.trans hb, ki.trans hi, fun r hr h1 h2 h3 h4 => ?_⟩
  rw [kp r (by rwa [hc]) h1 h2 (by rwa [hc]) (by rwa [hc]), hp r hr h1 h2 h3 h4]

theorem setPack (s : State) (q : Pack) : OthersKept s (s.setPack s.cur q) := by
  refine ⟨rfl, rfl, rfl, rfl, rfl, fun r hr h1 h2 h3 h4 => s.pack_setPack_other r s.cur q fun h => hr ?_⟩
  exact pkey_inj r s.cur h2 h4 h.1 h.2

theorem modPipe (s : State) (c i : Nat) (f : Pipe → Pipe) : OthersKept s (s.modPipe c i f) :=
  ⟨rfl, rfl, rfl, rfl, rfl, fun r _ _ _ _ _ => s.pack_modPipe c i f r⟩

theorem occupy (s : State) (r : PackRef) (ck : Nat) : OthersKept s (s.occupy r ck) := modPipe s _ _ _

theorem fresh (s : State) (n : Nat) : OthersKept s (s.fresh n) := ⟨rfl, rfl, rfl, rfl, rfl, fun _ _ _ _ _ _ => rfl⟩

theorem commit (s : State) (n cls : Nat) : OthersKept s (s.commit n cls) := ⟨rfl, rfl, rfl, rfl, rfl, fun _ _ _ _ _ _ => rfl⟩

end OthersKept

/-- An instruction of a pack, with destinations `vs`, `ss` and `ks`, that reaches `t`: its frame. `loud` says that it may raise a class. -/
def Framed (loud : Bool) (vs ss ks : List Nat) (s : State) (p : Pack) (t : State) : Prop :=
  OthersKept s t ∧ (loud = false → t.ctxs = s.ctxs) ∧ FlagsOnly p.id.ctx s t ∧ ∃ q, t.pack s.cur = some q ∧ KeepsRegs vs ss ks p q

namespace Framed

variable {loud : Bool} {vs ss ks : List Nat} {s t : State} {p q : Pack}

/-- Where the contexts are as before, the frame does not depend on them. -/
theorem of_quiet (ho : OthersKept s t) (hc : t.ctxs = s.ctxs) (hq : t.pack s.cur = some q) (hk : KeepsRegs vs ss ks p q) :
    Framed loud vs ss ks s p t := ⟨ho, fun _ => hc, FlagsOnly.of_ctxs hc, q, hq, hk⟩

theorem of_setPack (hk : KeepsRegs vs ss ks p q) : Framed loud vs ss ks s p (s.setPack s.cur q) :=
  of_quiet (OthersKept.setPack s q) rfl (s.pack_setPack s.cur q) hk

theorem retire (hk : KeepsRegs vs ss ks p q) (len occ : Nat) : Framed loud vs ss ks s p (s.retire q len occ) :=
  of_quiet ((OthersKept.setPack s _).trans (OthersKept.occupy _ _ _)) rfl
    ((State.pack_occupy _ _ _ _).trans (s.pack_setPack s.cur _)) (hk.sameRegs (SameRegs.advance q len))

theorem trapIssue (hc : p.id.colour = none) (len : Nat) (ls : List RepLane) : Framed loud vs ss ks s p (s.trapIssue s.cur p len ls) := by
  obtain ⟨q, heq, hq⟩ := s.trapIssue_eq s.cur p len ls hc
  rw [heq]
  exact of_setPack (KeepsRegs.of_sameRegs hq)

/-- The completion of a lane instruction commits its classes, and advances the pack or traps (R94, R99). -/
theorem finishLane (hk : KeepsRegs vs ss ks p q) (hc : p.id.colour = none) (len cls : Nat) (ls : List RepLane) (hcls : loud = false → cls = 0) :
    Framed loud vs ss ks s p (s.finishLane s.cur q len cls ls) := by
  have hid : q.id.colour = none ∧ q.id.ctx = p.id.ctx := by
    obtain ⟨-, hid, -⟩ := hk
    rw [hid]
    exact ⟨hc, rfl⟩
  have hcommit : s.commitFor q cls = (s.commit p.id.ctx cls, q) := by
    unfold State.commitFor
    rw [hid.1, hid.2]
  obtain ⟨u, hu, hsame⟩ : ∃ u, s.finishLane s.cur q len cls ls = (s.commit p.id.ctx cls).setPack s.cur u ∧ SameRegs q u := by
    unfold State.finishLane
    rw [hcommit]
    cases ls with
    | nil => exact ⟨_, rfl, SameRegs.advance q len⟩
    | cons l ls => exact State.trapIssue_eq _ _ _ _ _ hid.1
  rw [hu]
  refine ⟨(OthersKept.commit s _ _).trans (OthersKept.setPack _ u), fun hl => ?_, s.commit_flagsOnly _ _, u, State.pack_setPack _ _ _, hk.sameRegs hsame⟩
  rw [hcls hl]
  exact s.commit_zero _

/-- The completion of a lane instruction whose results stand in the pack: at its issue, or noted for its last ck (R104). -/
theorem completeWith (hk : KeepsRegs vs ss ks p q) (hc : p.id.colour = none) (len occ : Nat) (fp : Bool) (cls : Nat) (ls : List RepLane)
    (hcls : loud = false → cls = 0) : Framed loud vs ss ks s p (s.completeWith q len occ fp cls ls) := by
  unfold State.completeWith
  dsimp only
  split
  · obtain ⟨ho, hx, hf, hq⟩ := finishLane (s := s.occupy s.cur (occ + if (fp && enabled q.r.trapen != 0) = true then 4 else 0)) hk hc len cls ls hcls
    exact ⟨(OthersKept.occupy s _ _).trans ho, hx, hf, hq⟩
  · exact of_quiet (((OthersKept.occupy s _ _).trans (OthersKept.setPack _ _)).trans (OthersKept.modPipe _ _ _ _)) rfl
      ((State.pack_modPipe _ _ _ _ _).trans (State.pack_setPack _ _ _)) hk

theorem ite {c : Prop} [Decidable c] {u : State} (ht : Framed loud vs ss ks s p t) (hu : Framed loud vs ss ks s p u) :
    Framed loud vs ss ks s p (if c then t else u) := by
  split <;> assumption

end Framed

theorem orCls_zero (cs : List (Nat × Nat)) (h : ∀ e ∈ cs, e.2 = 0) : orCls cs = 0 := by
  unfold orCls
  induction cs with
  | nil => rfl
  | cons e cs ih =>
    rw [List.foldl_cons, h e (by simp)]
    exact ih fun a ha => h a (by simp [ha])

/-! ### What is kept by an instruction -/

/-- The next state of an outcome keeps what an instruction with these destinations keeps, where its pack is no recompute. -/
def FramedOut (loud : Bool) (vs ss ks : List Nat) (s : State) (o : Out) : Prop :=
  ∀ p t, s.pack s.cur = some p → p.id.colour = none → o = .next t → Framed loud vs ss ks s p t

section
variable (loud : Bool) (vs ss ks : List Nat) (s : State) (i : Instr)

/-- An issue runs the meaning on the pack, or traps (R43, R324). -/
theorem framed_issue (f : Pack → State) (hf : ∀ p, s.pack s.cur = some p → p.id.colour = none → Framed loud vs ss ks s p (f p)) :
    FramedOut loud vs ss ks s (issue s i f) := by
  intro p t hp hc h
  unfold issue at h
  rw [hp] at h
  simp only [State.trapIllegal] at h
  split at h
  · cases h; exact Framed.trapIssue hc _ _
  · split at h
    · cases h; exact Framed.trapIssue hc _ _
    · split at h
      · cases h; exact hf p hp hc
      · cases h; exact Framed.trapIssue hc _ _

theorem framed_packOp (occ : Nat) (f : Pack → Pack) (hf : ∀ p, KeepsRegs vs ss ks p (f p)) :
    FramedOut loud vs ss ks s (packOp s i occ f) :=
  framed_issue loud vs ss ks s i _ fun p _ _ => Framed.retire (hf p) _ _

theorem framed_laneOp (d occ : Nat) (fp : Bool) (f : Pack → Nat → LaneOut) (hd : ∀ p L, ∀ j < (f p L).vals.length, d + j ∈ vs)
    (hcls : loud = false → ∀ p L, (f p L).cls = 0) : FramedOut loud vs [] [] s (laneOp s i d occ fp f) := by
  refine framed_issue loud vs [] [] s i _ fun p hp hc => ?_
  have hk := keepsRegs_writeLanes vs p d p.lanes (f p) (fun _ h => h) (fun L _ => hd p L) p (KeepsRegs.refl _ _ _ p)
  refine Framed.completeWith hk hc _ _ _ _ _ fun hl => orCls_zero _ fun e he => ?_
  simp only [List.map_map, List.mem_map, Function.comp_apply] at he
  obtain ⟨L, -, rfl⟩ := he
  exact hcls hl p L

theorem framed_lane32 (d occ : Nat) (f : Pack → Nat → Word) : FramedOut loud [d] [] [] s (lane32 s i d occ f) :=
  framed_laneOp loud [d] s i d occ false _ (fun p L j hj => by simp at hj; simp [hj]) fun _ _ _ => rfl

theorem framed_lane64 (d occ : Nat) (f : Pack → Nat → DWord) : FramedOut loud [d, d + 1] [] [] s (lane64 s i d occ f) :=
  framed_laneOp loud [d, d + 1] s i d occ false _ (fun p L j hj => by simp [words2] at hj ⊢; omega) fun _ _ _ => rfl

theorem framed_sfuOp (fn : SfuFn) (d a : Nat) : FramedOut loud [] [] [] s (sfuOp s i fn d a) := by
  refine framed_issue loud [] [] [] s i _ fun p hp hc => ?_
  split
  · unfold State.deferWait
    split
    · obtain ⟨q, heq, hq⟩ := s.trapReport_eq s.cur p hc
      rw [heq]
      exact Framed.of_setPack (KeepsRegs.of_sameRegs hq)
    · exact Framed.of_quiet (OthersKept.refl s) rfl hp (KeepsRegs.refl _ _ _ p)
  · exact Framed.of_quiet (((OthersKept.fresh s 1).trans (OthersKept.setPack _ _)).trans (OthersKept.occupy _ _ _)) rfl
      ((State.pack_occupy _ _ _ _).trans (State.pack_setPack _ _ _))
      (KeepsRegs.of_sameRegs ((SameRegs.of_ctrl p _).trans (SameRegs.advance _ _)))

/-- A lane instruction of one result word. -/
theorem framed_word (d occ : Nat) (fp : Bool) (f : Pack → Nat → LaneOut) (hf : ∀ p L, (f p L).vals.length = 1)
    (hcls : loud = false → ∀ p L, (f p L).cls = 0) : FramedOut loud [d] [] [] s (laneOp s i d occ fp f) :=
  framed_laneOp loud [d] s i d occ fp f (fun p L j hj => by rw [hf] at hj; simp; omega) hcls

/-- A lane instruction whose result is one word, or a pair (R103). -/
theorem framed_wide (wide : Bool) (d occ : Nat) (fp : Bool) (f : Pack → Nat → LaneOut) (hf : ∀ p L, ∃ x, (f p L).vals = resWords wide x)
    (hcls : loud = false → ∀ p L, (f p L).cls = 0) : FramedOut loud (if wide then [d, d + 1] else [d]) [] [] s (laneOp s i d occ fp f) := by
  refine framed_laneOp loud _ s i d occ fp f (fun p L j hj => ?_) hcls
  obtain ⟨x, hx⟩ := hf p L
  rw [hx] at hj
  cases wide
  · simp [resWords] at hj
    simp [hj]
  · simp [resWords, words2] at hj ⊢
    omega

theorem framed_setS (d occ : Nat) (x : Pack → Word) : FramedOut loud [] [d] [] s (packOp s i occ fun p => p.setS d (x p)) :=
  framed_packOp loud [] [d] [] s i occ _ fun p => KeepsRegs.setS d _ (by simp) (KeepsRegs.refl _ _ _ p)

theorem framed_setK (d occ : Nat) (x : Pack → Word) : FramedOut loud [] [] [d] s (packOp s i occ fun p => p.setK d (x p)) :=
  framed_packOp loud [] [] [d] s i occ _ fun p => KeepsRegs.setK d _ (by simp) (KeepsRegs.refl _ _ _ p)

end

section
variable (s : State)

theorem framed_fcmp (c : FCond) (sig : Bool) (d a : Nat) (b : BOp) : FramedOut true [] [] [d] s (execFcmp c sig d a b s) :=
  framed_issue true [] [] [d] s _ _ fun p _ hc =>
    Framed.completeWith (KeepsRegs.setK d _ (by simp) (KeepsRegs.refl _ _ _ p)) hc _ _ _ _ _ nofun

theorem framed_reduce (op : RedOp) (t : RedTy) (d a : Nat) : FramedOut true [] [d] [] s (execReduce op t d a s) :=
  framed_issue true [] [d] [] s _ _ fun p _ hc =>
    Framed.completeWith (KeepsRegs.setS d _ (by simp) (KeepsRegs.refl _ _ _ p)) hc _ _ _ _ _ nofun

theorem framed_scan (op : RedOp) (excl : Bool) (t : RedTy) (d a : Nat) : FramedOut true [d] [] [] s (execScan op excl t d a s) :=
  framed_issue true [d] [] [] s _ _ fun p _ hc =>
    Framed.completeWith (keepsRegs_writeLanes [d] p d p.lanes _ (fun _ h => h) (fun L _ j hj => by simp [FR.lane] at hj; simp [hj]) p
      (KeepsRegs.refl _ _ _ p)) hc _ _ _ _ _ nofun

/-- LMV writes as many registers as the matrix has rows, or traps on its constants (R134, R323). -/
theorem framed_lmv (wide : Bool) (bias : Option Nat) (d a rows cols off : Nat) :
    FramedOut true ((List.range rows).map (d + ·)) [] [] s (execLmv wide bias d a rows cols off s) := by
  refine framed_issue true _ [] [] s _ _ fun p _ hc => ?_
  refine Framed.ite (Framed.trapIssue hc _ _) (Framed.ite (Framed.trapIssue hc _ _) ?_)
  exact Framed.completeWith (keepsRegs_writeLanes _ p d p.lanes _ (fun _ h => h) (fun L _ j hj => by simpa using hj) p (KeepsRegs.refl _ _ _ p))
    hc _ _ _ _ _ nofun

theorem framed_clock (d : Nat) : FramedOut false [] [d, d + 1] [] s (execClock d s) :=
  framed_packOp false [] [d, d + 1] [] s _ 1 _ fun p =>
    KeepsRegs.setS (d + 1) _ (by simp) (KeepsRegs.setS d _ (by simp) (KeepsRegs.refl _ _ _ p))

/-- Mask logic writes a mask, and to a uniform register with TOS alone (R120). -/
theorem framed_kop (op : KOp) (d a b : Nat) :
    FramedOut false [] (if op = .tos then [d] else []) (if op = .tos then [] else [d]) s (execKop op d a b s) := by
  refine framed_packOp false [] _ _ s _ 1 _ fun p => ?_
  cases op with
  | tos => exact KeepsRegs.setS d _ (by simp) (KeepsRegs.refl _ _ _ p)
  | and | or | xor | andn | not | mov | froms => exact KeepsRegs.setK d _ (by simp) (KeepsRegs.refl _ _ _ p)

theorem intTy_wide (wide signed : Bool) : (intTy wide signed).wide = wide := by
  cases wide <;> cases signed <;> rfl

theorem framed_divOp (i : Instr) (wide signed remainder : Bool) (d a : Nat) (b : BOp) :
    FramedOut true (if wide then [d, d + 1] else [d]) [] [] s (divOp s i (intTy wide signed) remainder d a b) := by
  simp only [divOp, intTy_wide]
  exact framed_wide true s i wide _ _ _ _ (fun _ _ => ⟨_, rfl⟩) nofun

/-- Every instruction of registers alone keeps what its destinations leave. -/
theorem framed_exec (i : Instr) (vs ss ks : List Nat) (h : dests i = some (vs, ss, ks)) : FramedOut (raising i) vs ss ks s (exec i s) := by
  cases i with
  | add _ t | sub _ t | mul _ t | mulh t | mad t | min t | max t =>
    cases h; exact framed_wide false s _ t.wide _ _ _ _ (fun _ _ => ⟨_, rfl⟩) fun _ _ _ => rfl
  | abs wide | neg wide | not wide | clz wide | popc wide | brev wide | and wide | or wide | xor wide | andn wide | mov wide | shl wide
  | shr wide | shra wide | rotl wide | shlImm wide | shrImm wide | shraImm wide | rotlImm wide =>
    cases h; exact framed_wide false s _ wide _ _ _ _ (fun _ _ => ⟨_, rfl⟩) fun _ _ _ => rfl
  | divi | divn | remi | remn => cases h; exact framed_divOp s _ _ _ _ _ _ _
  | cvt dst => cases h; exact framed_wide true s _ dst.wide _ _ _ _ (fun _ _ => ⟨_, rfl⟩) nofun
  | addImm | mulImm | andImm | orImm | xorImm | bfx | bfi | moviV | movhiV | sel | lane | shfl | confl | idxF =>
    cases h; exact framed_lane32 false s _ _ _ _
  | fabs | fneg | fclass => cases h; exact framed_word false s _ _ _ _ _ (fun _ _ => rfl) fun _ _ _ => rfl
  | fadd | fsub | fmul | ffma | fscale | fmin | fmax | frnd | hadd2 | hmul2 | hfma2 =>
    cases h; exact framed_word true s _ _ _ _ _ (fun _ _ => rfl) nofun
  | tagc | mktag | mktagColour => cases h; exact framed_lane64 false s _ _ _ _
  | movsLane | movsUniform | moviS | movhiS | vote | nln | movcRead => cases h; exact framed_setS false s _ _ _ _
  | moviImm32 u =>
    cases u with
    | true => cases h; exact framed_setS false s _ _ _ _
    | false => cases h; exact framed_lane32 false s _ _ _ _
  | cmp | cmpImm | ballot => cases h; exact framed_setK false s _ _ _ _
  | fcmp => cases h; exact framed_fcmp s _ _ _ _ _
  | kop op => cases op <;> (cases h; exact framed_kop s _ _ _ _)
  | frcp | frsq | fsqrt | fexp2 | flog2 | fsin | fcos | ftanh | fsigm => cases h; exact framed_sfuOp false s _ _ _ _
  | lmv => cases h; exact framed_lmv s _ _ _ _ _ _ _
  | reduce => cases h; exact framed_reduce s _ _ _ _
  | scan => cases h; exact framed_scan s _ _ _ _ _
  | clock => cases h; exact framed_clock s _
  | nop => cases h; exact framed_packOp false [] [] [] s _ _ _ fun p => KeepsRegs.refl _ _ _ p
  | _ => cases h

end

end Sys2Proof.Machine
end

section
/-! PROOF. The registers, memory and contexts that an instruction of registers leaves (R94, R105 to R140). -/

open Sys2Proof Sys2Proof.Machine Sys2Proof.Claims

namespace Sys2Proof.Proofs

/-- Settles O27, by the frame that every instruction of registers alone keeps. -/
theorem registerInstructionFrame : Obligations.RegisterInstructionFrame := by
  unfold Obligations.RegisterInstructionFrame
  intro i vs ss ks s t p hd hp ht hc
  obtain ⟨⟨-, hmem, hnow, hblocks, hio, hpacks⟩, hquiet, hflags, hq⟩ := framed_exec s i vs ss ks hd p t hp hc ht
  exact ⟨hmem, hnow, hblocks, hio, hquiet, hflags, hpacks, hq⟩

end Sys2Proof.Proofs
end

section
/-! SUPPORT. The matching store (R218, R219): an entry that takes a token, and what the rest of the core keeps. -/

open Sys2Proof.Claims

namespace Sys2Proof.Machine

/-! ### An entry replaced -/

theorem Core.find_map_put (e : Entry) (es : List Entry) (h : (es.find? fun x => x.slot == e.slot && x.tag == e.tag).isSome = true) :
    (es.map fun x => if x.slot == e.slot && x.tag == e.tag then e else x).find? (fun x => x.slot == e.slot && x.tag == e.tag) = some e := by
  induction es with
  | nil => simp at h
  | cons y es ih =>
    by_cases hy : (y.slot == e.slot && y.tag == e.tag) = true
    · rw [List.map_cons, if_pos hy, List.find?_cons]
      simp
    · rw [List.find?_cons] at h
      rw [List.map_cons, if_neg hy, List.find?_cons]
      simp only [hy] at h ⊢
      exact ih h

/-- An entry that replaces another of its slot and tag is the one found there (R11). -/
theorem Core.findEntry_putEntry (c : Core) (e : Entry) (h : (c.findEntry e.slot e.tag).isSome = true) :
    (c.putEntry e).findEntry e.slot e.tag = some e := Core.find_map_put e c.entries h

/-- A core keeps all but its entries, its bins and its sequence counter. -/
def StoreOnly (c d : Core) : Prop := d = { c with entries := d.entries, bins := d.bins, seq := d.seq }

/-- A state keeps all but the entries, the bins and the sequence counter of one core. -/
def StoreStep (s : State) (core : Nat) (u : State) : Prop := u.mem = s.mem ∧ u.io = s.io ∧ u.ctxs = s.ctxs ∧ StoreOnly (s.core core) (u.core core)

theorem StoreStep.setCore (s : State) (core : Nat) (c : Core) (h : StoreOnly (s.core core) c) : StoreStep s core (s.setCore core c) :=
  ⟨rfl, rfl, rfl, by rwa [State.core_setCore, if_pos rfl]⟩

theorem StoreStep.trans {s u v : State} {core : Nat} (h : StoreStep s core u) (k : StoreStep u core v) : StoreStep s core v := by
  obtain ⟨hm, hi, hx, hc⟩ := h
  obtain ⟨km, ki, kx, kc⟩ := k
  refine ⟨km.trans hm, ki.trans hi, kx.trans hx, ?_⟩
  unfold StoreOnly at *
  rw [kc, hc]

/-- An entry of a state stands at its slot and tag, with some state, sequence number and ck of entry. -/
def HasEntry (u : State) (core : Nat) (e : Entry) (st : EntrySt) : Prop :=
  ∃ seq entered, entryAt u core e.slot e.tag = some { e with st := st, seq := seq, entered := entered }

/-- A complete entry joins its block's bin (R219, R222). -/
theorem State.joinBin_store (s : State) (core : Nat) (e : Entry) (h : (entryAt s core e.slot e.tag).isSome = true) :
    StoreStep s core (s.joinBin core e) ∧ HasEntry (s.joinBin core e) core e .binned := by
  have hput (k : Core) (hk : k.entries = (s.core core).entries) (q n : Nat) :
      (k.putEntry { e with st := .binned, seq := q, entered := n }).findEntry e.slot e.tag = some { e with st := .binned, seq := q, entered := n } :=
    k.findEntry_putEntry { e with st := .binned, seq := q, entered := n } (by rw [Core.findEntry, hk]; exact h)
  unfold State.joinBin
  dsimp only
  split
  · refine ⟨StoreStep.setCore s core _ rfl, (s.core core).seq, s.now, ?_⟩
    rw [entryAt, State.core_setCore, if_pos rfl]
    exact hput _ rfl _ _
  · refine ⟨StoreStep.setCore s core _ rfl, (s.core core).seq, s.now, ?_⟩
    rw [entryAt, State.core_setCore, if_pos rfl]
    exact hput { s.core core with bins := _ } rfl _ _

/-- An entry replaced by one of its slot and tag. -/
theorem State.putEntry_store (s : State) (core : Nat) (e : Entry) (st : EntrySt) (h : (entryAt s core e.slot e.tag).isSome = true) :
    StoreStep s core (s.setCore core ((s.core core).putEntry { e with st := st })) ∧
      HasEntry (s.setCore core ((s.core core).putEntry { e with st := st })) core e st := by
  refine ⟨StoreStep.setCore s core _ rfl, e.seq, e.entered, ?_⟩
  rw [entryAt, State.core_setCore, if_pos rfl]
  exact (s.core core).findEntry_putEntry { e with st := st } h

/-- A complete entry is in a bin, or waits for one (R222). -/
theorem State.toBin_store (s : State) (core : Nat) (e : Entry) (h : (entryAt s core e.slot e.tag).isSome = true) :
    StoreStep s core (s.toBin core e) ∧ ∃ st, st ≠ .part ∧ HasEntry (s.toBin core e) core e st := by
  unfold State.toBin
  dsimp only
  split
  · obtain ⟨hs, he⟩ := s.joinBin_store core e h
    exact ⟨hs, .binned, nofun, he⟩
  · obtain ⟨hs, he⟩ := s.putEntry_store core e .waitbin h
    exact ⟨hs, .waitbin, nofun, he⟩

/-- An entry with a new token stands in the store, out of its partial state once every port has its token (R219). -/
theorem State.settle_store (s : State) (core : Nat) (b : Block) (e : Entry) (h : (entryAt s core e.slot e.tag).isSome = true) :
    StoreStep s core (s.settle core b e) ∧ ∃ st, (e.pres % 2 ^ b.ports = 2 ^ b.ports - 1 → st ≠ .part) ∧
      (e.pres % 2 ^ b.ports ≠ 2 ^ b.ports - 1 → st = e.st) ∧ HasEntry (s.settle core b e) core e st := by
  unfold State.settle
  split
  next hfull =>
    obtain ⟨hs, st, hst, he⟩ := s.toBin_store core e h
    exact ⟨hs, st, fun _ => hst, fun hn => absurd hfull hn, he⟩
  next hpart =>
    obtain ⟨hs, he⟩ := s.putEntry_store core e e.st h
    exact ⟨hs, e.st, fun hf => absurd hf hpart, fun _ => rfl, he⟩

/-- The payload that a token writes to its port's words, clear of poison (R25, R322). -/
theorem Entry.take_words (e : Entry) (core : Nat) (t : Tok) (j : Nat) (hj : j < 8) :
    Sparse.get (8 * t.port + j) (e.take core t).pay = t.pay.getD j 0 ∧ 8 * t.port + j ∉ (e.take core t).bad := by
  constructor
  · rw [Entry.take, putPayload, Sparse.get_setRun, if_pos (by simp [hj]), Nat.add_sub_cancel_left]
    simp [hj]
  · simp only [Entry.take, List.mem_filter, not_and]
    intro _
    have : (8 * t.port + j) / 8 = t.port := by omega
    simp [this]

/-- An entry that takes a token has joined it. -/
theorem joined_settle (s : State) (core : Nat) (b : Block) (e : Entry) (t : Tok) (new : Bool) (hslot : e.slot = t.slot) (htag : e.tag = t.tag)
    (h : (entryAt s core e.slot e.tag).isSome = true) (hnew : new = true → e.st = .part) :
    StoreStep s core (s.settle core b (e.take core t)) ∧ Joined (s.settle core b (e.take core t)) core t b e.pres new := by
  obtain ⟨hs, st, hfull, hpart, seq, entered, he⟩ := s.settle_store core b (e.take core t) h
  refine ⟨hs, { e.take core t with st := st, seq := seq, entered := entered }, ?_, rfl, fun j hj => e.take_words core t j hj, hfull, fun hn hp => (hpart hp).trans (hnew hn)⟩
  rw [← hslot, ← htag]
  exact he

/-- The entry that a token makes, with its port area (R219, R221). -/
def newEntry (s : State) (core : Nat) (t : Tok) (b : Block) : Entry :=
  { tag := t.tag, slot := t.slot, ctx := t.ctx, pres := 0, st := .part, acq := 0, seq := (s.core core).seq, pay := [], entered := 0,
    handler := t.handler, cov := [], area := ((s.portArea core (s.classOf t.ctx t.slot t.tag) b.ports).getD 0, b.ports) }

/-- A core's matching store with one more entry, which takes a sequence number. -/
def State.withEntry (s : State) (core : Nat) (e : Entry) : State :=
  s.setCore core ({ s.core core with entries := (s.core core).entries ++ [e] } : Core).nextSeq

theorem State.entryAt_withEntry (s : State) (core : Nat) (e : Entry) : (entryAt (s.withEntry core e) core e.slot e.tag).isSome = true := by
  rw [entryAt, State.withEntry, State.core_setCore, if_pos rfl]
  simp [Core.nextSeq]

/-! ### A token that a running context takes -/

section
variable (s : State) (core : Nat) (t : Tok) (x : Ctx) (b : Block) (ht : Takes s t x b)
include ht

/-- A token joins the entry that lacks its port (R219). -/
theorem accept_joins (e : Entry) (he : entryAt s core t.slot t.tag = some e) (hp : e.pres.testBit t.port = false) :
    ∃ u, s.accept core t = .done u ∧ StoreStep s core u ∧ Joined u core t b e.pres false := by
  obtain ⟨-, -, hb, -, hport, hord⟩ := ht
  obtain ⟨hslot, htag⟩ : e.slot = t.slot ∧ e.tag = t.tag := by simpa using List.find?_some (p := fun e : Entry => e.slot == t.slot && e.tag == t.tag) he
  obtain ⟨hs, hj⟩ := joined_settle s core b e t false hslot htag (by rw [hslot, htag, he]; rfl) nofun
  refine ⟨_, ?_, hs, hj⟩
  have hfind : (s.core core).findEntry t.slot t.tag = some e := he
  unfold State.accept
  simp [hb, hport.not_ge, hord, hfind, hp]

/-- A second token for a port of an entry gives the fault token of cause 34 (R219, R220). -/
theorem accept_twice (e : Entry) (he : entryAt s core t.slot t.tag = some e) (hp : e.pres.testBit t.port = true) :
    s.accept core t = .done (s.raiseAtCore core t.ctx false (refusedPay 34 t.slot t.port t.tag) 0 (2 ^ 24)) := by
  obtain ⟨-, -, hb, -, hport, hord⟩ := ht
  have hfind : (s.core core).findEntry t.slot t.tag = some e := he
  unfold State.accept
  simp [hb, hport.not_ge, hord, hfind, hp]

/-- A token of a closing block that finds no entry waits (R219, R220). -/
theorem accept_closing (he : entryAt s core t.slot t.tag = none) (hc : b.closing = true) : s.accept core t = .noRoom := by
  obtain ⟨-, -, hb, -, hport, hord⟩ := ht
  have hfind : (s.core core).findEntry t.slot t.tag = none := he
  unfold State.accept
  simp [hb, hport.not_ge, hord, hfind, hc]

/-- A token that finds no entry makes one where its class and the frame memory have room (R219, R221). -/
theorem accept_new (he : entryAt s core t.slot t.tag = none) (hc : b.closing = false)
    (hroom : s.entryRoom core t.cls (s.classOf t.ctx t.slot t.tag) b.ports = true) :
    ∃ u, s.accept core t = .done u ∧ StoreStep s core u ∧ Joined u core t b 0 true := by
  obtain ⟨-, -, hb, -, hport, hord⟩ := ht
  have hfind : (s.core core).findEntry t.slot t.tag = none := he
  have hacc : s.accept core t = .done ((s.withEntry core (newEntry s core t b)).settle core b ((newEntry s core t b).take core t)) := by
    unfold State.accept
    simp only [hb, ge_iff_le, hport.not_ge, hord, hfind, hc, hroom, if_false, Bool.false_and, Bool.not_true, Bool.or_false, Bool.false_eq_true]
    rfl
  have hs : StoreStep s core (s.withEntry core (newEntry s core t b)) := StoreStep.setCore s core _ rfl
  obtain ⟨hk, hj⟩ := joined_settle (s.withEntry core (newEntry s core t b)) core b (newEntry s core t b) t true rfl rfl
    (s.entryAt_withEntry core (newEntry s core t b)) fun _ => rfl
  exact ⟨_, hacc, hs.trans hk, hj⟩

end

/-! ### What a core gives up as it takes a token -/

theorem State.admitHost_of_empty (s : State) (h : s.io.hwait = []) : s.admitHost = s := by
  have hio : { s.io with hwait := [] } = s.io := by rw [← h]
  unfold State.admitHost State.placeList
  rw [h, hio]
  simp [h, hio]

theorem State.refill_of_empty (s : State) (core vc : Nat) (h : s.io.lwait = []) : s.refill core vc = s := by
  unfold State.refill
  rw [h]
  rfl

end Sys2Proof.Machine
end

section
/-! PROOF. Tokens that arrive at a matching store, and that leave an outbound queue (R215 to R220, R229, R230, R239, R290). -/

open Sys2Proof Sys2Proof.Machine Sys2Proof.Claims

namespace Sys2Proof.Proofs

/-! ### Arrival -/

section
variable (s : State) (core : Nat) (t : Tok) (x : Ctx) (hx : s.ctx t.ctx = some x) (hst : x.st = .running)
include hx hst

theorem divertPlaced_of_running : s.divertPlaced t = none := by
  have hd := divert_of_running s t x hx hst
  simp [State.divertPlaced, hx, hst, hd]

theorem placedStays_of_running : s.placedStays t = false := by
  simp [State.placedStays, stays_of_running s t x hx hst]

end

/-- The core without the first token on its way. -/
def popArriving (core : Nat) (u : State) : State := u.modCore core fun k => { k with arriving := k.arriving.tail }

section
variable (s u : State) (core : Nat) (t : Tok) (rest : List Tok) (x : Ctx) (hx : s.ctx t.ctx = some x) (hst : x.st = .running)
  (hmust : (s.core core).mustRenumber = false) (hwait : s.io.hwait = []) (harr : (s.core core).arriving = t :: rest)
  (hspill : (s.core core).spill = []) (hacc : s.accept core t = .done u) (hio : u.io = s.io)
include hx hst hmust hwait harr hspill hacc hio

/-- The first token on its way, once the matching store is done with it, is on its way no more (R219). -/
theorem tokenAccept_done : exec (.tokenAccept core 8) s = .next (popArriving core u) := by
  show execTokenAccept core 8 s = _
  have hw : (popArriving core u).io.hwait = [] := by rw [← hwait, ← hio]; rfl
  have hadmit : (u.modCore core fun k => { k with arriving := k.arriving.tail }).admitHost = popArriving core u :=
    State.admitHost_of_empty _ hw
  unfold execTokenAccept
  simp [hmust, harr, hspill, hacc, hadmit, divertPlaced_of_running s t x hx hst, placedStays_of_running s t x hx hst]

end

@[simp] theorem popArriving_mem (core : Nat) (u : State) : (popArriving core u).mem = u.mem := rfl

theorem core_popArriving (core : Nat) (u : State) : (popArriving core u).core core = { u.core core with arriving := (u.core core).arriving.tail } := by
  rw [popArriving, State.core_modCore, if_pos rfl]

/-- Where a store step took the token, the rest of those on their way is left. -/
theorem arriving_popArriving {s u : State} {core : Nat} {t : Tok} {rest : List Tok} (harr : (s.core core).arriving = t :: rest)
    (h : (u.core core).arriving = (s.core core).arriving) : ((popArriving core u).core core).arriving = rest := by
  rw [core_popArriving]
  simp [h, harr]

/-- What joined an entry stands there, whatever the queues of its core become. -/
theorem joined_congr {u v : State} {core : Nat} {t : Tok} {b : Block} {pres : Nat} {new : Bool} (h : (v.core core).entries = (u.core core).entries)
    (hj : Joined u core t b pres new) : Joined v core t b pres new := by
  unfold Claims.Joined entryAt at *
  rwa [h]

theorem refuses_congr {u v : State} {core cause : Nat} {q : List OutTok} (h : (v.core core).outbound = (u.core core).outbound)
    (hr : Refuses u core cause q) : Refuses v core cause q := by
  unfold Refuses at *
  rwa [h]

section
variable (s : State) (core : Nat) (t : Tok) (rest : List Tok) (x : Ctx) (b : Block) (hmust : (s.core core).mustRenumber = false)
  (hwait : s.io.hwait = []) (harr : (s.core core).arriving = t :: rest) (hspill : (s.core core).spill = [])
include hmust hwait harr hspill

/-- A token that the matching store takes has joined its entry, and is on its way no more. -/
theorem tokenAccept_joined (hx : s.ctx t.ctx = some x) (hst : x.st = .running) (pres : Nat) (new : Bool)
    (h : ∃ u, s.accept core t = .done u ∧ StoreStep s core u ∧ Joined u core t b pres new) :
    ∃ u, exec (.tokenAccept core 8) s = .next u ∧ (u.core core).arriving = rest ∧ u.mem = s.mem ∧ Joined u core t b pres new := by
  obtain ⟨u, hacc, ⟨hmem, hio, -, hcore⟩, hj⟩ := h
  refine ⟨_, tokenAccept_done s u core t rest x hx hst hmust hwait harr hspill hacc hio, arriving_popArriving harr ?_, hmem, joined_congr ?_ hj⟩
  · rw [hcore]
  · rw [core_popArriving]

/-- A token that the matching store refuses gives a fault token, and is on its way no more (R220). -/
theorem tokenAccept_refused (hx : s.ctx t.ctx = some x) (hst : x.st = .running) (hraised : (s.core core).raised = [])
    (hout : (s.core core).outbound.length < 512) (cause : Nat)
    (hacc : s.accept core t = .done (s.raiseAtCore core t.ctx false (refusedPay cause t.slot t.port t.tag) 0 (2 ^ 24))) :
    ∃ u, exec (.tokenAccept core 8) s = .next u ∧ (u.core core).arriving = rest ∧ (u.core core).entries = (s.core core).entries ∧
      Refuses u core cause (s.core core).outbound := by
  have hraise := State.raiseAtCore_room s core t.ctx false (refusedPay cause t.slot t.port t.tag) 0 (2 ^ 24) x hx hraised hout
  refine ⟨_, tokenAccept_done s _ core t rest x hx hst hmust hwait harr hspill hacc ?_, arriving_popArriving harr ?_, ?_,
    refuses_congr ?_ (refuses_of_raise s core t.ctx cause t.slot t.port t.tag 0 (2 ^ 24) x hx hraised hout)⟩
  · rw [hraise]; rfl
  · rw [hraise, State.core_modCore, if_pos rfl]
  · rw [core_popArriving, hraise, State.core_modCore, if_pos rfl]
  · rw [core_popArriving]

end

/-- A spilled token that the matching store takes is in the spill area no more (R229). -/
theorem spillTakeBack_joined (s : State) (core : Nat) (t : Tok) (rest : List Tok) (x : Ctx) (b : Block) (hmust : (s.core core).mustRenumber = false)
    (hwait : s.io.hwait = []) (hspill : (s.core core).spill = t :: rest) (hfree : s.entryCount core .program + 64 ≤ 16128)
    (hx : s.ctx t.ctx = some x) (hst : x.st = .running) (pres : Nat) (new : Bool)
    (h : ∃ u, s.accept core t = .done u ∧ StoreStep s core u ∧ Joined u core t b pres new) :
    ∃ u, exec (.spillTakeBack core) s = .next u ∧ (u.core core).spill = rest ∧ u.mem = s.mem ∧ Joined u core t b pres new := by
  obtain ⟨u, hacc, ⟨hmem, hio, -, hcore⟩, hj⟩ := h
  have hw : ((u.modCore core fun k => { k with spill := rest }).signalSpill core).io.hwait = [] := by rw [← hwait, ← hio]; rfl
  have hkept : ((u.modCore core fun k => { k with spill := rest }).signalSpill core).core core = { u.core core with spill := rest } := by
    show (u.modCore core fun k => { k with spill := rest }).core core = _
    rw [State.core_modCore, if_pos rfl]
  refine ⟨(u.modCore core fun k => { k with spill := rest }).signalSpill core, ?_, by rw [hkept], hmem, joined_congr (by rw [hkept]) hj⟩
  show execSpillTakeBack core s = _
  unfold execSpillTakeBack
  simp [hspill, hmust, hacc, State.admitHost_of_empty _ hw, divertPlaced_of_running s t x hx hst, placedStays_of_running s t x hx hst, hfree.not_gt]

/-- A token that waits for an entry past its time is spilled (R230). -/
theorem intakeTimeout_spills (s : State) (core vc since : Nat) (t : Tok) (more : List (Tok × Nat)) (x : Ctx) (hx : s.ctx t.ctx = some x)
    (hst : x.st = .running) (hq : (s.core core).intake.find vc = some ((t, since) :: more)) (hacc : s.accept core t = .noRoom)
    (htime : since + 4096 ≤ s.now) (hroom : (s.core core).spill.length + (s.core core).arriving.length < 262144) (hwait : s.io.lwait = []) :
    ∃ u, exec (.intakeTimeout core vc) s = .next u ∧ (u.core core).spill = (s.core core).spill ++ [t] ∧
      (u.core core).intake.find vc = some more ∧ u.mem = s.mem := by
  have hl : ((s.spillTok core t).modCore core fun k => { k with intake := k.intake.put vc more }).io.lwait = [] := by rw [← hwait]; rfl
  have hkept : (s.spillTok core t).core core = { s.core core with spill := (s.core core).spill ++ [t] } := by
    show (s.modCore core fun c => { c with spill := c.spill ++ [t] }).core core = _
    rw [State.core_modCore, if_pos rfl]
  refine ⟨(s.spillTok core t).modCore core fun k => { k with intake := k.intake.put vc more }, ?_, ?_, ?_, rfl⟩
  · show execIntakeTimeout core vc s = _
    unfold execIntakeTimeout
    simp [hq, hacc, divert_of_running s t x hx hst, htime.not_gt, spillCap, hroom.not_ge, State.refill_of_empty _ core vc hl]
  · rw [State.core_modCore, if_pos rfl, hkept]
  · rw [State.core_modCore, if_pos rfl]
    simp

theorem tokensReachTheMatchingStore : TokensReachTheMatchingStore := by
  unfold TokensReachTheMatchingStore
  intro core vc s t rest x b hmust hwait hraised hout
  refine ⟨fun harr hspill => ⟨fun ht => ?_, fun hx hst hb => ?_, fun hx hst hb hport => ?_⟩, fun hspill ht hfree he hc hroom => ?_,
    fun since more hq ht hc he htime hroom hl => ?_⟩
  · have hx := ht.1
    have hst := ht.2.1
    refine ⟨fun e he hp => ?_, fun he hc hroom => ?_, fun e he hp => ?_⟩
    · exact tokenAccept_joined s core t rest x b hmust hwait harr hspill hx hst _ _ (accept_joins s core t x b ht e he hp)
    · exact tokenAccept_joined s core t rest x b hmust hwait harr hspill hx hst _ _ (accept_new s core t x b ht he hc hroom)
    · obtain ⟨u, hu, ha, hes, hr⟩ := tokenAccept_refused s core t rest x hmust hwait harr hspill hx hst hraised hout 34
        (accept_twice s core t x b ht e he hp)
      exact ⟨u, hu, ha, by rw [entryAt, hes]; exact he, hr⟩
  · obtain ⟨u, hu, ha, -, hr⟩ := tokenAccept_refused s core t rest x hmust hwait harr hspill hx hst hraised hout 35 (by
      unfold State.accept
      simp [hb])
    exact ⟨u, hu, ha, hr⟩
  · obtain ⟨u, hu, ha, -, hr⟩ := tokenAccept_refused s core t rest x hmust hwait harr hspill hx hst hraised hout 36 (by
      unfold State.accept
      simp [hb, hport])
    exact ⟨u, hu, ha, hr⟩
  · exact spillTakeBack_joined s core t rest x b hmust hwait hspill hfree ht.1 ht.2.1 _ _ (accept_new s core t x b ht he hc hroom)
  · exact intakeTimeout_spills s core vc since t more x ht.1 ht.2.1 hq (accept_closing s core t x b ht he hc) htime hroom hl

/-! ### Departure -/

/-- The state once the first token of an outbound queue has left it, with no colour to free. -/
def popOutbound (core : Nat) (s : State) : State := s.modCore core fun k => { k with outbound := k.outbound.tail }

theorem core_popOutbound (core : Nat) (s : State) :
    (popOutbound core s).core core = { s.core core with outbound := (s.core core).outbound.tail } := by
  rw [popOutbound, State.core_modCore, if_pos rfl]

theorem arriving_popOutbound (core c : Nat) (s : State) : ((popOutbound core s).core c).arriving = (s.core c).arriving := by
  rw [popOutbound, State.core_modCore]
  split
  next h => rw [h]
  next => rfl

theorem outbound_arrive (s : State) (c d : Nat) (t : Tok) : ((s.arrive c t).core d).outbound = (s.core d).outbound := by
  rw [State.arrive, State.core_modCore]
  split
  next h => rw [h]
  next => rfl

theorem arriving_arrive (s : State) (c : Nat) (t : Tok) : ((s.arrive c t).core c).arriving = (s.core c).arriving ++ [t] := by
  rw [State.arrive, State.core_modCore, if_pos rfl]

/-- With no launch, no token leaves for another node (R300). -/
theorem awayNode_of_no_launch (s : State) (t : Tok) (h : s.launches = []) : s.awayNode t = none := by
  have : s.launchOf t = none := by
    unfold State.launchOf
    rw [h]
    split <;> rfl
  rw [State.awayNode, this]
  rfl

section
variable (core : Nat) (s : State) (o : OutTok) (rest : List OutTok) (x : Ctx) (hout : (s.core core).outbound = o :: rest)
  (hraised : (s.core core).raised = [])
include hout hraised

/-- A token whose release does not hold stays (R176, R239). -/
theorem outbound_stays (hmet : o.conds.all s.met = false) : exec (.outboundTokenLeave core 0) s = .next s := by
  show execOutboundTokenLeave core 0 s = _
  unfold execOutboundTokenLeave
  simp [hout, hraised, hmet]

variable (hx : s.ctx o.tok.ctx = some x) (hst : x.st = .running) (hfrees : o.frees = none) (hlaunch : s.launches = [])
  (hmet : o.conds.all s.met = true)
include hx hst hfrees hmet

/-- A released token for a block that its context runs leaves for the core of its placement (R215 to R217, R239). -/
theorem outbound_places (hlaunch : s.launches = []) (b : Block) (hb : s.block o.tok.slot = some b) (hctx : b.ctx = o.tok.ctx) (hord : b.ordered = false)
    (hroom : (s.core (s.placeCore x b (tagIndex o.tok.tag))).spill.length + (s.core (s.placeCore x b (tagIndex o.tok.tag))).arriving.length < 262144) :
    exec (.outboundTokenLeave core 0) s = .next ((popOutbound core s).arrive (s.placeCore x b (tagIndex o.tok.tag)) o.tok) := by
  have hslot : o.tok.slot ≠ 0xFFFF := by
    intro h
    rw [State.block, if_pos h] at hb
    cases hb
  have hd : (popOutbound core s).divert o.tok = none := divert_of_running _ o.tok x hx hst
  have hacc : s.accepts (s.placeCore x b (tagIndex o.tok.tag)) o.tok = true := by simp [State.accepts, spillCap, hroom]
  have haway := awayNode_of_no_launch s o.tok hlaunch
  have hplace : (popOutbound core s).placeLocal x b o.tok = (popOutbound core s).arrive (s.placeCore x b (tagIndex o.tok.tag)) o.tok := by
    rw [State.placeLocal, hord]
    rfl
  unfold popOutbound at hd hplace ⊢
  show execOutboundTokenLeave core 0 s = _
  unfold execOutboundTokenLeave
  simp [hout, hraised, hmet, hx, hst, hslot, hb, hctx, hord, haway, hfrees, hacc, hd, hplace, stays_of_running s o.tok x hx hst]

/-- A released token for the inbox takes a place of its writer (R239, R290). -/
theorem outbound_inbox (hlaunch : s.launches = []) (hslot : o.tok.slot = 0xFFFF) (hroom : x.box.places.length < 64) :
    exec (.outboundTokenLeave core 0) s = .next ((popOutbound core s).toInbox o.tok) := by
  have haway := awayNode_of_no_launch s o.tok hlaunch
  unfold popOutbound
  show execOutboundTokenLeave core 0 s = _
  unfold execOutboundTokenLeave
  simp [hout, hraised, hmet, hx, hst, hslot, haway, hfrees, hroom]

/-- A released token for an unbound slot gives the fault token of cause 35 (R220). -/
theorem outbound_unbound (hslot : o.tok.slot ≠ 0xFFFF) (hb : s.block o.tok.slot = none) :
    exec (.outboundTokenLeave core 0) s = .next ((popOutbound core s).raiseAtCore core o.tok.ctx false
      (refusedPay 35 o.tok.slot o.tok.port o.tok.tag) 0 (2 ^ 24)) := by
  unfold popOutbound
  show execOutboundTokenLeave core 0 s = _
  unfold execOutboundTokenLeave
  simp [hout, hraised, hmet, hx, hst, hslot, hb, hfrees]

end

theorem outboundTokensLeave : OutboundTokensLeave := by
  unfold OutboundTokensLeave
  intro core s o rest x hout hx hst hfrees hlaunch hraised hlen
  refine ⟨outbound_stays core s o rest hout hraised, fun hmet => ⟨fun b hb hctx hord => ?_, fun hslot hroom => ?_, fun hslot hb => ?_⟩⟩
  · intro c hroom
    refine ⟨_, outbound_places core s o rest x hout hraised hx hst hfrees hmet hlaunch b hb hctx hord hroom, ?_, ?_, rfl⟩
    · rw [outbound_arrive, core_popOutbound, hout, List.tail_cons]
    · exact (arriving_arrive _ _ _).trans (by rw [arriving_popOutbound]; rfl)
  · have hplace := toInbox_place (popOutbound core s) o.tok x hx hroom
    refine ⟨_, { x with box := { x.box with places := x.box.places ++ [o.tok] } },
      outbound_inbox core s o rest x hout hraised hx hst hfrees hmet hlaunch hslot hroom, ?_, ?_, rfl, ?_⟩
    · rw [hplace, State.core_modCtx, core_popOutbound, hout, List.tail_cons]
    · rw [hplace]
      exact ctx_modCtx_self _ _ _ x hx
    · rw [hplace]
      rfl
  · have hcore := core_popOutbound core s
    have hempty : ((popOutbound core s).core core).outbound = rest := by rw [hcore, hout]; rfl
    have hr := refuses_of_raise (popOutbound core s) core o.tok.ctx 35 o.tok.slot o.tok.port o.tok.tag 0 (2 ^ 24) x hx
      (by rw [hcore]; exact hraised) (by rwa [hempty])
    rw [hempty] at hr
    exact ⟨_, outbound_unbound core s o rest x hout hraised hx hst hfrees hmet hslot hb, hr⟩

/-- Settles O54: tokens as they arrive at a matching store, and as they leave an outbound queue. -/
theorem tokensInAndOut : Obligations.TokensInAndOut := ⟨tokensReachTheMatchingStore, outboundTokensLeave⟩

end Sys2Proof.Proofs
end

section
/-! SUPPORT. Ordered lists, and the matching store as the helm sees it (R218, R222 to R227). -/

open Sys2Proof.Claims

namespace Sys2Proof

/-! ### Lists in the order of a key -/

theorem insertBy_perm {α : Type} (key : α → Nat) (x : α) (l : List α) : (insertBy key x l).Perm (x :: l) := by
  induction l with
  | nil => exact .refl _
  | cons y l ih =>
    unfold insertBy
    split
    · exact .refl _
    · exact (ih.cons y).trans (.swap x y l)

theorem foldl_insertBy_perm {α : Type} (key : α → Nat) (l acc : List α) : (l.foldl (fun a x => insertBy key x a) acc).Perm (l ++ acc) := by
  induction l generalizing acc with
  | nil => exact .refl _
  | cons x l ih => exact (ih _).trans (((insertBy_perm key x acc).append_left l).trans List.perm_middle)

/-- A list in the order of a key holds what the list holds. -/
theorem sortBy_perm {α : Type} (key : α → Nat) (l : List α) : (sortBy key l).Perm l := by
  simpa [sortBy] using foldl_insertBy_perm key l []

@[simp] theorem mem_sortBy {α : Type} (key : α → Nat) (l : List α) (x : α) : x ∈ sortBy key l ↔ x ∈ l := (sortBy_perm key l).mem_iff

@[simp] theorem length_sortBy {α : Type} (key : α → Nat) (l : List α) : (sortBy key l).length = l.length := (sortBy_perm key l).length_eq

theorem insertBy_pairwise {α : Type} (key : α → Nat) (x : α) (l : List α) (h : l.Pairwise fun a b => key a ≤ key b) :
    (insertBy key x l).Pairwise fun a b => key a ≤ key b := by
  induction l with
  | nil => simp [insertBy]
  | cons y l ih =>
    rw [List.pairwise_cons] at h
    obtain ⟨hy, hl⟩ := h
    unfold insertBy
    split
    next hlt =>
      refine List.pairwise_cons.mpr ⟨fun b hb => ?_, List.pairwise_cons.mpr ⟨hy, hl⟩⟩
      rcases List.mem_cons.mp hb with rfl | hb
      · exact Nat.le_of_lt hlt
      · exact Nat.le_trans (Nat.le_of_lt hlt) (hy b hb)
    next hge =>
      refine List.pairwise_cons.mpr ⟨fun b hb => ?_, ih hl⟩
      rcases List.mem_cons.mp ((insertBy_perm key x l).mem_iff.mp hb) with rfl | hb
      · exact Nat.le_of_not_lt hge
      · exact hy b hb

theorem sortBy_pairwise {α : Type} (key : α → Nat) (l : List α) : (sortBy key l).Pairwise fun a b => key a ≤ key b := by
  suffices h : ∀ acc : List α, (acc.Pairwise fun a b => key a ≤ key b) →
      (l.foldl (fun a x => insertBy key x a) acc).Pairwise fun a b => key a ≤ key b from h [] .nil
  induction l with
  | nil => exact fun acc h => h
  | cons x l ih => exact fun acc h => ih _ (insertBy_pairwise key x acc h)

/-- The first in the order of a key has the least. -/
theorem key_head_sortBy_le {α : Type} (key : α → Nat) (l : List α) (o : α) (rest : List α) (h : sortBy key l = o :: rest) (x : α) (hx : x ∈ l) :
    key o ≤ key x := by
  have hp := sortBy_pairwise key l
  have hm := (mem_sortBy key l x).mpr hx
  rw [h] at hp hm
  rcases List.mem_cons.mp hm with rfl | hm
  · exact Nat.le_refl _
  · exact List.rel_of_pairwise_cons hp hm

theorem Tbl.find_append_none {α : Type} (k : Nat) (t u : Tbl α) (h : Tbl.find k (t ++ u) = none) : Tbl.find k t = none := by
  induction t with
  | nil => rfl
  | cons e t ih =>
    obtain ⟨i, x⟩ := e
    by_cases hi : i = k
    · simp [Tbl.find, hi] at h
    · simp only [List.cons_append, Tbl.find, if_neg hi] at h ⊢
      exact ih h

namespace Machine

/-! ### Sequence numbers -/

theorem Core.age_lt (c : Core) (seq : Nat) : c.age seq < 2 ^ 32 := Nat.mod_lt _ (by decide)

/-- The oldest of a list of entries is at least as old as any. -/
theorem Core.age_oldest (c : Core) (es : List Entry) (o : Entry) (rest : List Entry) (h : c.oldest es = o :: rest) (e : Entry) (he : e ∈ es) :
    c.age e.seq ≤ c.age o.seq := by
  have := key_head_sortBy_le _ es o rest h e he
  have := c.age_lt o.seq
  have := c.age_lt e.seq
  omega

/-- A number given anew to the i-th of n entries has the age n - i (R218). -/
theorem Core.age_renumbered (c : Core) (n i : Nat) (hn : n ≤ 16384) (hi : i < n) : c.age ((c.seq + 2 ^ 32 - n + i) % 2 ^ 32) = n - i := by
  unfold Core.age
  omega

/-- A change of a core that leaves its packs leaves every pack. -/
theorem State.pack_modCore_packs (s : State) (c : Nat) (f : Core → Core) (r : PackRef) (hf : ∀ k, (f k).packs = k.packs) :
    (s.modCore c f).pack r = s.pack r := by
  rw [State.pack, State.core_modCore]
  split
  next h => rw [hf, ← h, State.pack]
  next => rfl

end Machine
end Sys2Proof
end

section
/-! PROOF. Bins, sequence numbers and firings (R14, R25, R26, R218, R222 to R227, R325). -/

open Sys2Proof Sys2Proof.Machine Sys2Proof.Claims

namespace Sys2Proof.Proofs

/-! ### Sequence numbers and bins -/

/-- The entries with new sequence numbers (R218). -/
def renumbered (c : Core) : List Entry :=
  (c.oldest c.entries).zipIdx.map fun e => { e.1 with seq := (c.seq + 2 ^ 32 - (c.oldest c.entries).length + e.2) % 2 ^ 32 }

theorem renumbered_keys (c : Core) :
    (renumbered c).map (fun e => (e.slot, e.tag, e.pres)) = (c.oldest c.entries).map fun e => (e.slot, e.tag, e.pres) := by
  apply List.ext_getElem
  · simp [renumbered]
  · intro i h1 h2
    simp [renumbered]

theorem length_oldest (c : Core) (es : List Entry) : (c.oldest es).length = es.length := length_sortBy _ _

theorem renumbered_ages (c : Core) (hn : c.entries.length ≤ 16384) :
    (renumbered c).map (fun e => c.age e.seq) = (List.range c.entries.length).reverse.map (· + 1) := by
  apply List.ext_getElem
  · simp [renumbered, length_oldest]
  · intro i h1 h2
    have hi : i < c.entries.length := by simpa using h2
    have hage : c.age ((renumbered c)[i]'(by simpa [renumbered, length_oldest] using hi)).seq = c.entries.length - i := by
      rw [← c.age_renumbered _ i hn hi]
      simp only [renumbered, List.getElem_map, List.getElem_zipIdx, Nat.zero_add, length_oldest]
    rw [List.getElem_map, List.getElem_map, hage, List.getElem_reverse, List.getElem_range, List.length_range]
    omega

theorem seqRenumber_eq (core : Nat) (s : State) (e : Entry) (he : e ∈ (s.core core).entries) (hage : 2 ^ 30 ≤ (s.core core).age e.seq) :
    exec (.seqRenumber core) s = .next (s.setCore core { s.core core with entries := renumbered (s.core core) }) := by
  show execSeqRenumber core s = _
  unfold execSeqRenumber
  cases hes : (s.core core).oldest (s.core core).entries with
  | nil =>
    have : e ∈ (s.core core).oldest (s.core core).entries := (mem_sortBy _ _ _).mpr he
    rw [hes] at this
    cases this
  | cons o rest =>
    have ho := (s.core core).age_oldest _ o rest hes e he
    have hlt : ¬ (s.core core).age o.seq < renumberAge := by unfold renumberAge; omega
    simp only [hes, if_neg hlt, renumbered]

theorem bins_first (core : Nat) (s : State) (e : Entry) (hw : (s.core core).entries.filter (fun x => x.st == .waitbin) = [e])
    (hbins : (s.core core).bins = []) (hlevel : e.tag.toNat / 2 ^ 61 ≠ 7) :
    exec (.binAllot core) s = .next (s.joinBin core e) := by
  have hroom : s.binRoom core (s.classOf e.ctx e.slot e.tag) = true := by
    have hl : tagLevel e.tag ≠ 7 := hlevel
    unfold State.binRoom State.classOf
    rw [if_neg hl]
    cases s.isHandler e.ctx e.slot <;> simp [hbins]
  have hold : (s.core core).oldest [e] = [e] := rfl
  show execBinAllot core s = _
  unfold execBinAllot
  simp [hw, hold, hroom]

/-- The bin that is allotted for a complete entry (R222). -/
def newBin (s : State) (e : Entry) : Bin :=
  { ctx := e.ctx, slot := e.slot, recovery := tagLevel e.tag == 7, expired := false, share := s.shareOf (s.classOf e.ctx e.slot e.tag) }

/-- On a core with no bin, a complete entry takes the first (R222). -/
theorem joinBin_first (core : Nat) (s : State) (e : Entry) (hbins : (s.core core).bins = []) :
    s.joinBin core e = s.setCore core (({ s.core core with bins := [(0, newBin s e)] } : Core).putEntry
      { e with st := .binned, seq := (s.core core).seq, entered := s.now }).nextSeq := by
  have hnone : (s.core core).binOf e.ctx e.slot (tagLevel e.tag == 7) = none := by simp [Core.binOf, hbins]
  unfold State.joinBin
  simp only [hnone, hbins]
  rfl

theorem foldl_min_le (es : List Entry) (a : Nat) : es.foldl (fun a e => min a e.entered) a ≤ a ∧
    ∀ e ∈ es, es.foldl (fun a e => min a e.entered) a ≤ e.entered := by
  induction es generalizing a with
  | nil => simp
  | cons x es ih =>
    obtain ⟨h1, h2⟩ := ih (min a x.entered)
    refine ⟨Nat.le_trans h1 (Nat.min_le_left _ _), fun e he => ?_⟩
    rcases List.mem_cons.mp he with rfl | he
    · exact Nat.le_trans h1 (Nat.min_le_right _ _)
    · exact h2 e he

/-- The oldest entry ck is no later than that of any entry (R223). -/
theorem firstEntered_le (es : List Entry) (e : Entry) (he : e ∈ es) : firstEntered es ≤ e.entered := (foldl_min_le es _).2 e he

/-- The oldest entry ck is that of some entry. -/
theorem exists_firstEntered (es : List Entry) (h : es ≠ []) : ∃ e ∈ es, e.entered = firstEntered es := by
  have hmin (l : List Entry) (a : Nat) : l.foldl (fun a e => min a e.entered) a = a ∨ ∃ e ∈ l, e.entered = l.foldl (fun a e => min a e.entered) a := by
    induction l generalizing a with
    | nil => exact .inl rfl
    | cons x l ih =>
      rcases ih (min a x.entered) with heq | ⟨e, he, heq⟩
      · rcases Nat.le_total a x.entered with hle | hle
        · exact .inl (heq.trans (Nat.min_eq_left hle))
        · exact .inr ⟨x, by simp, ((Nat.min_eq_right hle).symm.trans heq.symm)⟩
      · exact .inr ⟨e, by simp [he], heq⟩
  cases es with
  | nil => exact absurd rfl h
  | cons x es =>
    rcases hmin (x :: es) x.entered with heq | h
    · exact ⟨x, by simp, heq.symm⟩
    · exact h

/-- What stands in a bin (R222). -/
theorem mem_inBin (c : Core) (b : Bin) (e : Entry) :
    e ∈ c.inBin b ↔ e ∈ c.entries ∧ e.st = .binned ∧ e.ctx = b.ctx ∧ e.slot = b.slot ∧ (b.recovery = true ↔ e.tag.toNat / 2 ^ 61 = 7) := by
  unfold Core.inBin Core.oldest tagLevel
  rw [mem_sortBy, List.mem_filter]
  cases b.recovery <;> simp [and_assoc]

theorem leashExpiry_eq (core n : Nat) (s : State) (b : Bin) (k : Block) (e : Entry) (hb : (s.core core).bins.find n = some b)
    (hk : s.block b.slot = some k) (hord : k.ordered = false) (he : e ∈ (s.core core).inBin b) (hdue : e.entered + k.leash ≤ s.now) :
    exec (.leashExpiry core n) s = .next (s.setCore core { s.core core with bins := (s.core core).bins.put n { b with expired := true } }) := by
  have hle := firstEntered_le _ e he
  show execLeashExpiry core n s = _
  unfold execLeashExpiry
  cases hes : (s.core core).inBin b with
  | nil => rw [hes] at he; cases he
  | cons y ys =>
    rw [hes] at hle
    have hl : s.leashDue k (y :: ys) = true := by
      unfold State.leashDue
      simp only [List.isEmpty_cons, Bool.not_false, Bool.true_and, decide_eq_true_eq]
      omega
    simp [hb, hk, hes, hord, hl]

theorem binsAndSequenceNumbers : BinsAndSequenceNumbers := by
  unfold BinsAndSequenceNumbers
  intro core s
  refine ⟨fun e he hage hlen => ⟨_, seqRenumber_eq core s e he hage, ?_, ?_⟩, fun e hw he hbins hlevel => ?_,
    fun n b k e hb hk hord he hst hctx hslot hrec hdue => ?_⟩
  · rw [State.core_setCore, if_pos rfl]
    exact renumbered_keys _
  · rw [State.core_setCore, if_pos rfl]
    exact renumbered_ages _ hlen
  · have hj := joinBin_first core s e hbins
    refine ⟨_, { e with st := .binned, seq := (s.core core).seq, entered := s.now }, newBin s e, bins_first core s e hw hbins hlevel, ?_⟩
    rw [hj, entryAt, State.core_setCore, if_pos rfl]
    exact ⟨Core.findEntry_putEntry { s.core core with bins := _ } { e with st := .binned, seq := (s.core core).seq, entered := s.now }
      (by rw [Core.findEntry]; exact Option.isSome_of_mem he), rfl, rfl, rfl, rfl, rfl, rfl, rfl, rfl⟩
  · have hin : e ∈ (s.core core).inBin b := (mem_inBin _ _ _).mpr ⟨he, hst, hctx, hslot, hrec⟩
    refine ⟨_, leashExpiry_eq core n s b k e hb hk hord hin hdue, ?_⟩
    rw [State.core_setCore, if_pos rfl]
    simp

/-! ### Candidates -/

theorem mem_nextOfColour (cs : List Cand) (k : Cand) (h : k ∈ nextOfColour cs) : k ∈ cs := by
  unfold nextOfColour at h
  split at h
  next q rest hq =>
    have hmem : q ∈ sortBy (fun (k : Cand) => k.key.2.1 * 2 ^ 48 + k.key.2.2.2.2) (cs.filter fun k => k.quiet) := by
      rw [hq]
      exact List.mem_cons_self
    rw [List.mem_singleton.mp h]
    exact List.mem_of_mem_filter ((mem_sortBy _ _ _).mp hmem)
  next => exact (mem_sortBy _ _ _).mp (List.mem_of_mem_take h)

theorem mem_ctxOrder (cs : List Cand) (k : Cand) (h : k ∈ ctxOrder cs) : k ∈ cs := by
  unfold ctxOrder at h
  rcases List.mem_append.mp h with h | h
  · exact (mem_sortBy _ _ _).mp (List.mem_of_mem_filter h)
  · exact (mem_sortBy _ _ _).mp (List.mem_of_mem_filter h)

/-- The helm walks candidates of the core alone (R225). -/
theorem mem_walkHelm (s : State) (core : Nat) (k : Cand) (h : k ∈ s.walkHelm core) : k ∈ s.cands core := by
  unfold State.walkHelm at h
  simp only [List.mem_append, List.mem_flatMap, mem_sortBy] at h
  rcases h with (h | ⟨c, -, h⟩) | ⟨cls, -, n, -, h⟩
  · exact List.mem_of_mem_filter h
  · exact List.mem_of_mem_filter (List.mem_of_mem_filter (mem_nextOfColour _ _ h))
  · exact List.mem_of_mem_filter (mem_ctxOrder _ _ h)

/-- An eligible group of an ordered bin holds instances of the bin (R224). -/
theorem mem_groups (c : Core) (b : Bin) (g : (Nat × Nat) × List Entry) (hg : g ∈ c.groups b) (e : Entry) (he : e ∈ g.2) : e ∈ c.inBin b := by
  unfold Core.groups at hg
  simp only [mem_sortBy, List.mem_filter, List.mem_map] at hg
  obtain ⟨⟨q, -, rfl⟩, -⟩ := hg
  exact List.mem_of_mem_filter ((mem_sortBy _ _ _).mp he)

/-- A candidate of a bin takes its instances from the bin. -/
theorem binCands_entries (s : State) (core n : Nat) (b : Bin) (k : Cand) (h : k ∈ s.binCands core n b) :
    k.key.1 = b.ctx ∧ k.key.2.1 = b.slot ∧ k.bin = n ∧ ∀ e ∈ k.entries, e ∈ (s.core core).inBin b := by
  unfold State.binCands at h
  cases hblk : s.block b.slot with
  | none => simp [hblk] at h
  | some blk =>
    cases hord : blk.ordered with
    | true =>
      simp only [hblk, hord, if_true, List.mem_map] at h
      obtain ⟨g, hg, rfl⟩ := h
      refine ⟨rfl, rfl, rfl, mem_groups _ b g ?_⟩
      split at hg
      · exact hg
      · exact List.mem_of_mem_take hg
    | false =>
      simp only [hblk, hord, Bool.false_eq_true, if_false] at h
      split at h
      next =>
        obtain rfl := List.mem_singleton.mp h
        exact ⟨rfl, rfl, rfl, fun e he => List.mem_of_mem_take he⟩
      next => cases h

/-- A candidate of a bin that is not ordered has at most 32 instances, and fewer only where a leash has expired (R223). -/
theorem binCands_length (s : State) (core n : Nat) (b : Bin) (k : Cand) (h : k ∈ s.binCands core n b) (blk : Block)
    (hblk : s.block b.slot = some blk) (hord : blk.ordered = false) :
    k.entries.length ≤ 32 ∧ (k.entries.length < 32 → b.expired = true ∨ ∃ y ∈ k.entries, y.entered + blk.leash ≤ s.now) := by
  unfold State.binCands at h
  rw [hblk] at h
  simp only [hord, Bool.false_eq_true, if_false] at h
  split at h
  next hdue =>
    obtain rfl := List.mem_singleton.mp h
    refine ⟨by simp, fun hlt => ?_⟩
    have hfew : ((s.core core).inBin b).length < 32 := by simpa using hlt
    have hall : ((s.core core).inBin b).take 32 = (s.core core).inBin b := List.take_of_length_le (Nat.le_of_lt hfew)
    simp only [Bool.or_eq_true, decide_eq_true_eq, Bool.and_eq_true, State.leashDue, Bool.not_eq_true', List.isEmpty_eq_false_iff] at hdue
    rcases hdue with (hfull | ⟨hexp, -⟩) | ⟨hne, hle⟩
    · omega
    · exact .inl hexp
    · obtain ⟨y, hy, heq⟩ := exists_firstEntered _ hne
      exact .inr ⟨y, by rwa [hall], by rwa [heq]⟩
  next => cases h

theorem mem_cands (s : State) (core : Nat) (k : Cand) (h : k ∈ s.cands core) :
    ∃ n b, (n, b) ∈ (s.core core).bins ∧ k ∈ s.binCands core n b := by
  unfold State.cands at h
  obtain ⟨⟨n, b⟩, hb, hk⟩ := List.mem_flatMap.mp h
  exact ⟨n, b, List.mem_of_mem_filter hb, hk⟩

theorem walkHelm_cands (core : Nat) (s : State) (k : Cand) (hk : k ∈ s.walkHelm core) :
    (∀ e ∈ k.entries, e ∈ (s.core core).entries ∧ e.st = .binned ∧ e.slot = k.key.2.1 ∧ e.ctx = k.key.1) ∧
    ∀ b, s.block k.key.2.1 = some b → b.ordered = false → k.entries.length ≤ 32 ∧
      (k.entries.length < 32 → ∃ e ∈ (s.core core).bins, e.1 = k.bin ∧ (e.2.expired = true ∨ ∃ y ∈ k.entries, y.entered + b.leash ≤ s.now)) := by
  obtain ⟨n, b, hb, hc⟩ := mem_cands s core k (mem_walkHelm s core k hk)
  obtain ⟨hctx, hslot, hbin, hes⟩ := binCands_entries s core n b k hc
  refine ⟨fun e he => ?_, fun blk hblk hord => ?_⟩
  · obtain ⟨hin, hst, hec, hes, -⟩ := (mem_inBin _ _ _).mp (hes e he)
    exact ⟨hin, hst, hes.trans hslot.symm, hec.trans hctx.symm⟩
  · obtain ⟨hlen, hfew⟩ := binCands_length s core n b k hc blk (by rwa [← hslot]) hord
    exact ⟨hlen, fun hlt => ⟨(n, b), hb, hbin.symm, hfew hlt⟩⟩

/-! ### A refetch -/

/-- The refetch that ends well rewrites the block's words of the code store (R325). -/
theorem codeRefetch_true (core key : Nat) (s : State) (p : Pack)
    (h : (s.core core).packs.find? (fun e => e.2.c.fetch == 1 && e.2.c.st == .run) = some (key, p)) :
    exec (.codeRefetch core true) s =
      .next ((s.setPack { core := core, pipe := key / 16, slot := key % 16 } { p with c := { p.c with fetch := 0 } }).modCore core fun k =>
        { k with st := { k.st with codeBad := k.st.codeBad.filter (· != p.id.slot) } }) := by
  show execCodeRefetch core true s = _
  unfold execCodeRefetch
  simp [h]

theorem codeRefetch_ok (core key : Nat) (s : State) (p : Pack)
    (h : (s.core core).packs.find? (fun e => e.2.c.fetch == 1 && e.2.c.st == .run) = some (key, p)) :
    ∃ t q, exec (.codeRefetch core true) s = .next t ∧ t.pack { core := core, pipe := key / 16, slot := key % 16 } = some q ∧ q.c.fetch = 0 ∧
      q.c.st = .run ∧ p.id.slot ∉ (t.core core).st.codeBad := by
  have hrun : p.c.st = .run := by
    have hp := List.find?_some h
    simp only [Bool.and_eq_true, beq_iff_eq] at hp
    exact hp.2
  refine ⟨_, { p with c := { p.c with fetch := 0 } }, codeRefetch_true core key s p h, ?_, rfl, hrun, ?_⟩
  · refine (State.pack_modCore_packs _ core _ _ ?_).trans (State.pack_setPack _ _ _)
    exact fun _ => rfl
  · rw [State.core_modCore, if_pos rfl]
    simp

theorem codeRefetch_fails (core key : Nat) (s : State) (p : Pack)
    (h : (s.core core).packs.find? (fun e => e.2.c.fetch == 1 && e.2.c.st == .run) = some (key, p)) (hc : p.id.colour = none) :
    ∃ t q, exec (.codeRefetch core false) s = .next t ∧ t.pack { core := core, pipe := key / 16, slot := key % 16 } = some q ∧ q.c.st = .drain ∧
      q.c.trap.idx = 0 ∧ q.c.trap.resume = p.c.resume.getD 0 ∧ q.c.trap.cause = 20 ∧ q.c.trap.entry = none := by
  have hex : exec (.codeRefetch core false) s =
      .next (s.raise { core := core, pipe := key / 16, slot := key % 16 } { p with c := { p.c with fetch := 0 } } 0 0 0 none 20) := by
    show execCodeRefetch core false s = _
    unfold execCodeRefetch
    simp [h]
  unfold State.raise at hex
  simp only [hc] at hex
  exact ⟨_, _, hex, State.pack_setPack _ _ _, rfl, rfl, rfl, rfl, rfl⟩

/-! ### A firing -/

/-- The payload of one entry put in its lane's column (R25, R26). -/
def putColumn (i : Nat) (pay m : Sparse 32) : Sparse 32 := pay.foldr (fun w a => Sparse.set (w.1 * 32 + i) w.2 a) m

theorem get_putColumn_other (i j w : Nat) (hi : i < 32) (hj : j < 32) (h : j ≠ i) (pay m : Sparse 32) :
    Sparse.get (w * 32 + j) (putColumn i pay m) = Sparse.get (w * 32 + j) m := by
  induction pay with
  | nil => rfl
  | cons e pay ih =>
    have hne : ¬ w * 32 + j = e.1 * 32 + i := by omega
    rw [putColumn, List.foldr_cons, Sparse.get_set, if_neg hne]
    exact ih

theorem get_putColumn_self (i w : Nat) (pay m : Sparse 32) (h : ∀ u, Sparse.get (u * 32 + i) m = 0) :
    Sparse.get (w * 32 + i) (putColumn i pay m) = Sparse.get w pay := by
  induction pay with
  | nil => exact h w
  | cons e pay ih =>
    obtain ⟨k, x⟩ := e
    rw [putColumn, List.foldr_cons, Sparse.get_set, Sparse.get]
    by_cases hk : k = w
    · rw [if_pos (by rw [hk]), if_pos hk]
    · rw [if_neg (by omega), if_neg hk]
      exact ih

/-- Payloads put in their columns, from a lane on. -/
theorem get_columns (es : List Entry) (k : Nat) (m : Sparse 32) (hlen : k + es.length ≤ 32) (hm : ∀ L w, k ≤ L → L < 32 → Sparse.get (w * 32 + L) m = 0) :
    (∀ L w, L < k → Sparse.get (w * 32 + L) ((es.zipIdx k).foldl (fun a e => putColumn e.2 e.1.pay a) m) = Sparse.get (w * 32 + L) m) ∧
    ∀ L e w, es[L]? = some e → Sparse.get (w * 32 + (k + L)) ((es.zipIdx k).foldl (fun a e => putColumn e.2 e.1.pay a) m) = Sparse.get w e.pay := by
  induction es generalizing k m with
  | nil => simp
  | cons x es ih =>
    rw [List.length_cons] at hlen
    obtain ⟨hlow, hat⟩ := ih (k + 1) (putColumn k x.pay m) (by omega) fun L w hL h32 => by
      rw [get_putColumn_other k L w (by omega) h32 (by omega)]
      exact hm L w (by omega) h32
    rw [List.zipIdx_cons, List.foldl_cons]
    refine ⟨fun L w hL => ?_, fun L e w he => ?_⟩
    · rw [hlow L w (by omega), get_putColumn_other k L w (by omega) (by omega) (by omega)]
    · cases L with
      | zero =>
        obtain rfl : x = e := by simpa using he
        rw [Nat.add_zero, hlow k w (by omega), get_putColumn_self k w x.pay m fun u => hm k u (by omega) (by omega)]
      | succ L =>
        rw [← hat L e w (by simpa using he)]
        congr 1
        omega

/-- A firing pack's frame column holds the payload of its lane's entry (R25, R26). -/
theorem get_frameOf (es : List Entry) (hlen : es.length ≤ 32) (L w : Nat) (e : Entry) (he : es[L]? = some e) :
    Sparse.get (w * 32 + L) (frameOf es) = Sparse.get w e.pay := by
  have h := (get_columns es 0 [] (by omega) fun _ _ _ _ => rfl).2 L e w he
  rwa [Nat.zero_add] at h

/-- What a firing's notes in the helm leave of the state. -/
def HelmOnly (core : Nat) (s t : State) : Prop :=
  t.mem = s.mem ∧ (t.core core).packs = (s.core core).packs ∧ (t.core core).entries = (s.core core).entries

theorem HelmOnly.modHelm (s : State) (core : Nat) (f : Helm → Helm) : HelmOnly core s (s.modHelm core f) := by
  rw [HelmOnly, State.modHelm, State.core_modCore, if_pos rfl]
  exact ⟨rfl, rfl, rfl⟩

theorem HelmOnly.trans {core : Nat} {s t u : State} (h : HelmOnly core s t) (k : HelmOnly core t u) : HelmOnly core s u :=
  ⟨k.1.trans h.1, k.2.1.trans h.2.1, k.2.2.trans h.2.2⟩

theorem HelmOnly.useTurn (s : State) (core : Nat) (k : Cand) : HelmOnly core s (s.useTurn core k) := by
  unfold State.useTurn
  split
  · exact ⟨rfl, rfl, rfl⟩
  · exact HelmOnly.modHelm s core _

theorem packFiring_once (core : Nat) (s : State) (h : (s.core core).helm.last = some s.now) : exec (.packFiring core) s = .next s := by
  show execPackFiring core s = _
  unfold execPackFiring
  rw [if_pos h]

/-- The first candidate of the helm that fits fires; the helm notes it (R225 to R228). -/
theorem packFiring_fires (core pipe : Nat) (s : State) (k : Cand) (more : List Cand) (hlast : (s.core core).helm.last ≠ some s.now)
    (hwalk : ((s.setTurns core).walkHelm core).filter (fun c => c.tier != 3 || (s.setTurns core).tier3Ok core) = k :: more)
    (hfits : (s.setTurns core).fits core k = some pipe) :
    ∃ t, exec (.packFiring core) s = .next t ∧ HelmOnly core ((s.setTurns core).fire core pipe k) t := by
  have hnote : HelmOnly core ((s.setTurns core).fire core pipe k) (((s.setTurns core).fire core pipe k).noteFiring core k) := HelmOnly.modHelm _ _ _
  show ∃ t, execPackFiring core s = .next t ∧ HelmOnly core ((s.setTurns core).fire core pipe k) t
  unfold execPackFiring
  rw [if_neg hlast]
  simp only [hwalk, hfits]
  refine ⟨_, rfl, HelmOnly.trans ?_ (HelmOnly.modHelm _ _ _)⟩
  split
  · exact hnote.trans (HelmOnly.useTurn _ _ _)
  · exact hnote

/-- The slot that a firing takes. -/
def fireSlot (s : State) (core pipe : Nat) (k : Cand) : Nat := (freeSlot ((s.core core).holders s.now) pipe k.tier).getD 0

/-- What a firing leaves: the pack in its slot, and the entries that did not fire (R222, R227). -/
theorem fire_core (s : State) (core pipe : Nat) (k : Cand) (b : Block) (x : Ctx) (hb : s.block k.key.2.1 = some b) (hx : s.ctx k.key.1 = some x) :
    ∃ serial start, (s.fire core pipe k).mem = s.mem ∧
      ((s.fire core pipe k).core core).packs = (s.core core).packs.put (pipe * 16 + fireSlot s core pipe k) (s.newPack core pipe k b x serial start) ∧
      ((s.fire core pipe k).core core).entries = (s.core core).entries.filter fun e => !k.entries.contains e := by
  refine ⟨nextSerial (s.serialsUsed core) 4096 (s.core core).serial, s.now + 4 + if k.entries.foldl (fun a e => max a e.acq) 0 ≥ 2 then 2 else 0, ?_⟩
  unfold State.fire
  simp only [hb, hx]
  split
  · rw [State.acquireDrop, State.core_modCore, if_pos rfl, State.core_setCore, if_pos rfl]
    exact ⟨rfl, rfl, rfl⟩
  · rw [State.core_setCore, if_pos rfl]
    exact ⟨rfl, rfl, rfl⟩

/-- A candidate fits where a pipeline has a slot for it (R227). -/
theorem fireSlot_free (s : State) (core pipe : Nat) (k : Cand) (b : Block) (x : Ctx) (hb : s.block k.key.2.1 = some b) (hx : s.ctx k.key.1 = some x)
    (hfits : s.fits core k = some pipe) :
    fireSlot s core pipe k < 16 ∧ (s.core core).packs.find (pipe * 16 + fireSlot s core pipe k) = none := by
  have hpipe : pipeFits ((s.core core).holders s.now) pipe k.tier b.tiles = true := by
    unfold State.fits at hfits
    simp only [hb, hx] at hfits
    split at hfits
    · have hmem := (mem_sortBy _ _ _).mp (List.mem_of_head? hfits)
      exact (List.mem_filter.mp hmem).2
    · cases hfits
  obtain ⟨i, hi⟩ : ∃ i, freeSlot ((s.core core).holders s.now) pipe k.tier = some i := by
    unfold pipeFits at hpipe
    simp only [Bool.and_eq_true] at hpipe
    exact Option.isSome_iff_exists.mp hpipe.1.1
  have hslot : fireSlot s core pipe k = i := by rw [fireSlot, hi]; rfl
  have hlt := List.mem_range.mp (List.mem_of_find?_eq_some hi)
  have hfree := List.find?_some hi
  rw [hslot]
  refine ⟨?_, Tbl.find_append_none _ _ _ (Option.isNone_iff_eq_none.mp hfree)⟩
  split at hlt <;> omega

theorem firingsStartPacks : FiringsStartPacks := by
  unfold FiringsStartPacks
  refine ⟨?_, walkHelm_cands, packFiring_once, fun core key s p h => ⟨codeRefetch_ok core key s p h, codeRefetch_fails core key s p h⟩⟩
  intro core pipe s k more b x u hlast hwalk hfits hb hx hlen hp
  obtain ⟨t, ht, hmem, hpacks, hentries⟩ := packFiring_fires core pipe s k more hlast hwalk hfits
  obtain ⟨serial, start, fmem, fpacks, fentries⟩ := fire_core u core pipe k b x hb hx
  obtain ⟨hslot, hfree⟩ := fireSlot_free u core pipe k b x hb hx hfits
  have hu : (u.core core).packs = (s.core core).packs ∧ (u.core core).entries = (s.core core).entries := by
    have h : HelmOnly core s u := HelmOnly.modHelm s core _
    exact h.2
  have hkey : pkey { core := core, pipe := pipe, slot := fireSlot u core pipe k } = pipe * 16 + fireSlot u core pipe k := rfl
  refine ⟨t, u.newPack core pipe k b x serial start, fireSlot u core pipe k, ht, hslot, ?_, ?_, rfl, rfl, rfl, rfl, rfl, rfl, ?_, ?_, ?_, ?_, ?_,
    hmem.trans fmem⟩
  · rw [State.pack, hkey, ← hu.1]
    exact hfree
  · rw [State.pack, hkey, hpacks, fpacks, Tbl.find_put, if_pos rfl]
  · exact List.length_take_le _ _
  · intro a L
    exact ⟨rfl, by unfold Pack.s; split <;> rfl⟩
  · exact fun L e he w => get_frameOf k.entries hlen L w e he
  · intro hr hc
    have hc : (if k.tier = 2 then some (k.key.2.2.2.1 % 2 ^ 13) else none : Option Nat) = none := hc
    have hne : k.tier ≠ 2 := by
      intro h
      rw [if_pos h] at hc
      cases hc
    simp [State.newPack, hr, hne]
  · intro e
    rw [hentries, fentries, hu.2, List.mem_filter]
    simp

/-- Settles O55: bins and sequence numbers, and the firings of the helm. -/
theorem binsAndFirings : Obligations.BinsAndFirings := ⟨binsAndSequenceNumbers, firingsStartPacks⟩

end Sys2Proof.Proofs
end

section
/-! PROOF. The issue of a special function, and the arrival of its result (R20, R101, R132). -/

open Sys2Proof Sys2Proof.Machine Sys2Proof.Claims

namespace Sys2Proof.Proofs

/-- An instruction that its pack issues with no trap at issue has its meaning (R43, R274, R324). -/
theorem issue_of_ready {s : State} {i : Instr} {p : Pack} (h : Ready s i p) (f : Pack → State) : issue s i f = .next (f p) := by
  obtain ⟨hp, htiles, hpriv, hbad⟩ := h
  unfold issue
  simp [hp, htiles, hpriv, hbad]

/-- A pack that advances keeps its state and goes past its instruction (R17). -/
theorem past_advance (p q : Pack) (hst : q.c.st = p.c.st) (hpc : q.c.pc = p.c.pc) (hre : q.c.replay = p.c.replay) (len : Nat) :
    Past p (q.advance len) len := by
  refine ⟨?_, fun h => ?_⟩
  · unfold Pack.advance
    split <;> exact hst
  · rw [Pack.pc_advance q len (hre.trans h), hpc]

theorem deferred_advance (q : Pack) (len : Nat) : (q.advance len).c.deferred = q.c.deferred := by
  unfold Pack.advance
  split <;> rfl

theorem exec_sfuInstr (fn : SfuFn) (d a : Nat) (s : State) : exec (sfuInstr fn d a) s = sfuOp s (sfuInstr fn d a) fn d a := by
  cases fn <;> rfl

/-- The result that an instruction of a special function defers (R101, R132). -/
def sfuDeferred (s : State) (p : Pack) (fn : SfuFn) (d a : Nat) : Deferred :=
  let val (L : Nat) : FR := sfuVal fn p.ftz (p.fv (p.v a L))
  { uid := s.uid, kind := .sfu, idx := p.idx, w0 := (s.wordsAt p p.idx).1, w1 := (s.wordsAt p p.idx).2, uni := false, d, size := 4, sext := false,
    lanes := p.lanes.map fun L => { lane := L, addr := 0, res := .bound (val L).bits }
    cls := p.lanes.map fun L => (L, (val L).cls), trapen := p.r.trapen, ready := s.now + 6 }

/-- A special function that finds room defers its result (R20, R306). -/
theorem exec_sfu (fn : SfuFn) (d a : Nat) (s : State) (p : Pack) (hroom : p.c.deferred.length + p.c.reports.length < 16)
    (hready : Ready s (sfuInstr fn d a) p) :
    exec (sfuInstr fn d a) s = .next ((s.fresh 1).retire (p.defer (sfuDeferred s p fn d a)) 1 1) := by
  have hr : (!p.deferRoom) = false := by simpa [Pack.deferRoom] using hroom
  rw [exec_sfuInstr, sfuOp, issue_of_ready hready, hr]
  simp only [Bool.false_eq_true, if_false, List.map_map]
  rfl

theorem sfuIssue : SfuIssue := by
  unfold SfuIssue
  intro fn d a s p hroom hready
  refine ⟨_, (p.defer (sfuDeferred s p fn d a)).advance 1, exec_sfu fn d a s p hroom hready, ?_, past_advance p (p.defer (sfuDeferred s p fn d a)) rfl rfl rfl 1,
    sfuDeferred s p fn d a, ?_, ?_, ?_, rfl, rfl, rfl, rfl, ?_, rfl⟩
  · exact (State.pack_occupy _ _ _ _).trans (State.pack_setPack _ _ _)
  · rw [deferred_advance]
    rfl
  · rw [Pack.r_advance]
    rfl
  · rw [Pack.m_advance]
    rfl
  · simp only [sfuDeferred, List.map_map]
    rfl

/-! ### Arrival -/

/-- The word that a bound lane of a deferred result holds. -/
def laneWord (l : DefLane) : Word := match l.res with | .bound v => BitVec.ofNat 32 v | _ => 0

/-- Words written to one register of distinct lanes stand there; of the pack, the registers alone change. -/
theorem foldl_setV (d : Nat) (ls : List DefLane) (hls : (ls.map fun l => l.lane).Nodup) (q : Pack) :
    let u := ls.foldl (fun q l => q.setV d l.lane (laneWord l)) q
    u.id = q.id ∧ u.c = q.c ∧ (∀ l ∈ ls, u.v d l.lane = laneWord l) ∧ ∀ L, L ∉ ls.map (fun l => l.lane) → u.v d L = q.v d L := by
  induction ls generalizing q with
  | nil => exact ⟨rfl, rfl, nofun, fun _ _ => rfl⟩
  | cons l ls ih =>
    rw [List.map_cons, List.nodup_cons] at hls
    obtain ⟨hid, hc, hv, hkeep⟩ := ih hls.2 (q.setV d l.lane (laneWord l))
    refine ⟨hid, hc, fun k hk => ?_, fun L hL => ?_⟩
    · rcases List.mem_cons.mp hk with rfl | hk
      · rw [List.foldl_cons, hkeep _ hls.1, Pack.v_setV, if_pos rfl]
      · exact hv k hk
    · rw [List.map_cons, List.mem_cons, not_or] at hL
      rw [List.foldl_cons, hkeep L hL.2, Pack.v_setV, if_neg (by omega)]

/-- A deferred result of a special function, all lanes bound and no class enabled, delivered: the pack that it leaves. -/
theorem deliver_sfu (s : State) (r : PackRef) (p : Pack) (n : Nat) (d : Deferred) (hkind : d.kind = .sfu) (huni : d.uni = false) (hsize : d.size = 4)
    (hbound : ∀ l ∈ d.lanes, ∃ v, l.res = .bound v) (hquiet : ∀ e ∈ d.cls, e.2 &&& (d.trapen.toNat &&& 0x67) = 0) :
    let p1 := d.lanes.foldl (fun q l => q.setV d.d l.lane (laneWord l)) { p with c := { p.c with deferred := p.c.deferred.eraseIdx n } }
    ∃ q, (s.deliver r p n d).pack r = some q ∧ (s.deliver r p n d).ctxs = (s.commitFor p1 (orCls d.cls)).1.ctxs ∧ q.r = p1.r ∧
      q.c.deferred = p1.c.deferred ∧ q.c.reports = p1.c.reports := by
  intro p1
  have hcommit (q : Pack) (c : Nat) : (s.commitFor q c).2.r = q.r ∧ (s.commitFor q c).2.c.deferred = q.c.deferred ∧
      (s.commitFor q c).2.c.reports = q.c.reports := by
    unfold State.commitFor
    split <;> exact ⟨rfl, rfl, rfl⟩
  unfold State.deliver
  extract_lets put src p1' fails sp reps p2
  have hp1 : p1' = p1 := by
    refine List.foldl_ext _ _ _ fun q l hl => ?_
    obtain ⟨v, hv⟩ := hbound l hl
    simp [put, hv, hkind, huni, hsize, loadWords, laneWord, Pack.setVs]
  have hfails : fails = [] := by
    refine List.flatMap_eq_nil_iff.mpr fun l hl => ?_
    obtain ⟨v, hv⟩ := hbound l hl
    simp [hv]
  have hlanes (g : Nat → Nat) : arithLanes g (enabled d.trapen) d.cls = [] := by
    rw [arithLanes, List.map_eq_nil_iff, List.filter_eq_nil_iff]
    intro e he
    simpa [enabled, trapClasses] using hquiet e he
  have hp2 : p2 = sp.2 := by simp [p2, reps, hfails, hlanes, sortBy]
  have hsp : sp = s.commitFor p1 (orCls d.cls) := by rw [← hp1]
  obtain ⟨hr, hdef, hrep⟩ := hcommit p1 (orCls d.cls)
  rw [hp2, hsp]
  cases d.acq with
  | none => exact ⟨_, State.pack_setPack _ _ _, rfl, hr, hdef, hrep⟩
  | some sc =>
    dsimp -zeta only
    extract_lets s1
    split
    · exact ⟨_, State.pack_setPack _ _ _, rfl, hr, hdef, hrep⟩
    · refine ⟨_, (State.pack_modCore_packs _ _ _ _ ?_).trans (State.pack_setPack _ _ _), rfl, hr, hdef, hrep⟩
      exact fun _ => rfl

theorem sfuResultArrives : SfuResultArrives := by
  unfold SfuResultArrives
  intro r n s p d hp hd hkind hready huni hsize hnodup hbound hquiet
  obtain ⟨q, hq, hctxs, hr, hdef, hrep⟩ := deliver_sfu s r p n d hkind huni hsize hbound hquiet
  obtain ⟨hid, hc, hv, -⟩ := foldl_setV d.d d.lanes hnodup { p with c := { p.c with deferred := p.c.deferred.eraseIdx n } }
  rw [hc] at hdef hrep
  have hex : exec (.sfuResult r n) s = .next (s.deliver r p n d) := by
    show execSfuResult r n s = _
    unfold execSfuResult
    simp [hp, hd, hkind, hready]
  refine ⟨_, q, hex, hq, hdef, hrep, ?_, fun l hl v hres => ?_⟩
  · unfold Commits
    cases hcol : p.id.colour with
    | some c =>
      dsimp only
      rw [hctxs, State.commitFor, hid, hcol]
    | none =>
      intro x hx
      rw [State.commitFor, hid, hcol] at hctxs
      refine ⟨{ x with r := { x.r with flags := x.r.flags ||| BitVec.ofNat 32 (orCls d.cls) } }, ?_, rfl⟩
      rw [State.ctx_congr hctxs]
      exact ctx_modCtx_self s p.id.ctx _ x hx
  · have hw : laneWord l = BitVec.ofNat 32 v := by rw [laneWord, hres]
    rw [Pack.v, hr, ← hw, ← hv l hl, Pack.v]

end Sys2Proof.Proofs
end

section
/-! SUPPORT. Rounding to nearest-even into FP32 (R79, R82): the integer that a magnitude rounds to, its pattern, and what is nearest. -/

open Sys2Proof.Claims

namespace Sys2Proof.Machine

/-! ### The number of bits -/

theorem bitLen_pos {m : Nat} (h : 0 < m) : bitLen m = Nat.log2 m + 1 := if_neg (Nat.pos_iff_ne_zero.mp h)

theorem lt_two_pow_bitLen (m : Nat) : m < 2 ^ bitLen m := by
  rcases Nat.eq_zero_or_pos m with rfl | h
  · decide
  · rw [bitLen_pos h]
    exact Nat.lt_log2_self

theorem two_pow_le_of_bitLen {m : Nat} (h : 0 < m) : 2 ^ (bitLen m - 1) ≤ m := by
  rw [bitLen_pos h]
  exact Nat.log2_self_le (Nat.pos_iff_ne_zero.mp h)

/-- The number of bits of a number between two powers of 2. -/
theorem bitLen_eq {m n : Nat} (hlo : 2 ^ n ≤ m) (hhi : m < 2 ^ (n + 1)) : bitLen m = n + 1 := by
  have hm : 0 < m := Nat.lt_of_lt_of_le (Nat.two_pow_pos n) hlo
  rw [bitLen_pos hm, (Nat.log2_eq_iff (Nat.pos_iff_ne_zero.mp hm)).mpr ⟨hlo, hhi⟩]

/-! ### Patterns of FP32 -/

/-- The sign bit of FP32. -/
theorem f32_sign (neg : Bool) : f32.sign neg = if neg then 2 ^ 31 else 0 := rfl

theorem f32_val_eq (x : Nat) : f32.val false x =
    if x / 2 ^ 23 % 256 = 255 then if x % 2 ^ 23 = 0 then .inf (x.testBit 31) else .nan (!((x % 2 ^ 23).testBit 22))
    else if x / 2 ^ 23 % 256 = 0 then .fin (x.testBit 31) (x % 2 ^ 23) (-149)
    else .fin (x.testBit 31) (2 ^ 23 + x % 2 ^ 23) ((x / 2 ^ 23 % 256 : Nat) - 150) := by
  unfold Fmt.val
  simp [f32, Int.sub_sub]
  rfl

/-- A normal pattern of FP32 (R74). -/
theorem f32_val_normal (neg : Bool) (ex fr : Nat) (h0 : 0 < ex) (h1 : ex < 255) (hfr : fr < 2 ^ 23) :
    f32.val false (f32.sign neg + ex * 2 ^ 23 + fr) = .fin neg (2 ^ 23 + fr) (ex - 150) := by
  have hexp : (f32.sign neg + ex * 2 ^ 23 + fr) / 2 ^ 23 % 256 = ex := by rw [f32_sign]; split <;> omega
  have hfrac : (f32.sign neg + ex * 2 ^ 23 + fr) % 2 ^ 23 = fr := by rw [f32_sign]; split <;> omega
  have hbit : (f32.sign neg + ex * 2 ^ 23 + fr).testBit 31 = neg := by
    rw [f32_sign, Nat.testBit_eq_decide_div_mod_eq]
    cases neg <;> simp <;> omega
  rw [f32_val_eq, hexp, hfrac, hbit, if_neg (by omega), if_neg (by omega)]

/-- A zero or subnormal pattern of FP32 (R74). -/
theorem f32_val_subnormal (neg : Bool) (fr : Nat) (hfr : fr < 2 ^ 23) : f32.val false (f32.sign neg + fr) = .fin neg fr (-149) := by
  have hexp : (f32.sign neg + fr) / 2 ^ 23 % 256 = 0 := by rw [f32_sign]; split <;> omega
  have hfrac : (f32.sign neg + fr) % 2 ^ 23 = fr := by rw [f32_sign]; split <;> omega
  have hbit : (f32.sign neg + fr).testBit 31 = neg := by
    rw [f32_sign, Nat.testBit_eq_decide_div_mod_eq]
    cases neg <;> simp <;> omega
  rw [f32_val_eq, hexp, hfrac, hbit, if_neg (by decide), if_pos rfl]

/-- What a finite pattern of FP32 stands for (R74). -/
theorem f32_val_fin (x : Nat) (n : Bool) (m : Nat) (e : Int) (h : f32.val false x = .fin n m e) :
    n = x.testBit 31 ∧ m < 2 ^ 24 ∧ -149 ≤ e ∧ e ≤ 104 ∧ (m < 2 ^ 23 ∧ x / 2 ^ 23 % 256 = 0 ∧ m = x % 2 ^ 23 ∧ e = -149 ∨
      m = 2 ^ 23 + x % 2 ^ 23 ∧ e = (x / 2 ^ 23 % 256 : Nat) - 150) := by
  rw [f32_val_eq] at h
  split at h
  · split at h <;> cases h
  · split at h
    next h0 =>
      cases h
      refine ⟨rfl, ?_⟩
      omega
    next h0 =>
      cases h
      refine ⟨rfl, ?_⟩
      omega

/-! ### The integer that a magnitude rounds to -/

/-- The exponent of the last place of a magnitude of `m` times 2^e rounded into FP32. -/
def lastPlace (m : Nat) (e : Int) : Int := max (e + bitLen m - 1) (-126) - 23

/-- The multiple of the last place that a magnitude rounds to, and whether it is inexact (R79). -/
def roundedTo (neg : Bool) (m : Nat) (e : Int) (sticky : Bool) : Nat × Bool :=
  if lastPlace m e ≤ e then (m * 2 ^ (e - lastPlace m e).toNat, sticky) else roundMag .rne neg m (lastPlace m e - e).toNat sticky

/-- A magnitude that is not zero, rounded to nearest-even into FP32 (R79, R80, R82). -/
theorem f32_round (ftz neg : Bool) (m : Nat) (e : Int) (sticky : Bool) (hm : 0 < m) :
    ∃ c, c &&& 4 = 0 ∧ ((roundedTo neg m e sticky).2 = false → c = 0) ∧
    let r := (roundedTo neg m e sticky).1
    let ex := lastPlace m e + 150 + if r = 2 ^ 24 then 1 else 0
    f32.round .rne ftz neg m e sticky =
      if r < 2 ^ 23 then if ftz && r != 0 then { bits := f32.sign neg, cls := 0x18 } else { bits := f32.sign neg + r, cls := c }
      else if 255 ≤ ex then { bits := f32.inf neg, cls := 0x14 }
      else { bits := f32.sign neg + ex.toNat * 2 ^ 23 + ((if r = 2 ^ 24 then 2 ^ 23 else r) - 2 ^ 23), cls := c } := by
  unfold Fmt.round
  rw [if_neg (by simp [Nat.pos_iff_ne_zero.mp hm])]
  extract_lets r' ex' top emin at_ free tiny q r sig ex big
  have hq : q = lastPlace m e := by
    simp only [q, lastPlace, top, emin, f32]
    omega
  have hr : r = roundedTo neg m e sticky := by
    simp only [r, at_, hq, roundedTo]
  refine ⟨if r.2 then (if tiny then Cls.uf else 0) ||| Cls.nx else 0, ?_, ?_, ?_⟩
  · split
    · split <;> decide
    · rfl
  · intro h
    rw [hr, h]
    rfl
  · have hr' : r' = r.1 := by rw [hr]
    have hex : ex = ex' := by
      simp only [ex, ex', hr', hq, f32]
      omega
    have hsig : sig = if r' = 2 ^ 24 then 2 ^ 23 else r' := by rw [hr']; rfl
    have hbig : big ↔ 255 ≤ ex' := by
      simp only [big, hex, f32, if_true]
      omega
    rw [← hsig, ← hr', ← hex]
    by_cases hlow : r' < 2 ^ 23
    · rw [if_pos hlow]
      exact if_pos hlow
    · rw [if_neg hlow]
      refine (if_neg hlow).trans ?_
      by_cases hover : 255 ≤ ex
      · rw [if_pos hover]
        exact if_pos (hbig.mpr (hex ▸ hover))
      · rw [if_neg hover]
        exact if_neg fun h => hover (hex ▸ hbig.mp h)

/-- The integer that a magnitude over 2^s rounds to at nearest-even, whatever the cut of a far shift (R79). -/
theorem roundMag_rne (neg : Bool) (m s : Nat) (sticky : Bool) : (roundMag .rne neg m s sticky).1 =
    if 2 ^ s < 2 * (m % 2 ^ s) ∨ 2 * (m % 2 ^ s) = 2 ^ s ∧ s ≠ 0 ∧ (sticky = true ∨ m / 2 ^ s % 2 = 1) then m / 2 ^ s + 1 else m / 2 ^ s := by
  have hcut (k : Nat) (hk : bitLen m + 2 ≤ k) : m / 2 ^ k = 0 ∧ m % 2 ^ k = m ∧ 2 * m < 2 ^ k := by
    have hlt := lt_two_pow_bitLen m
    have hle : 2 ^ (bitLen m + 2) ≤ 2 ^ k := Nat.pow_le_pow_right (by decide) hk
    rw [Nat.pow_add] at hle
    exact ⟨Nat.div_eq_of_lt (by omega), Nat.mod_eq_of_lt (by omega), by omega⟩
  rcases Nat.le_total s (bitLen m + 2) with hle | hle
  · have hs : Nat.min s (bitLen m + 2) = s := Nat.min_eq_left hle
    unfold roundMag
    simp only [hs, gt_iff_lt, Bool.or_eq_true, Bool.and_eq_true, decide_eq_true_eq, beq_iff_eq, bne_iff_ne, ne_eq, and_assoc]
  · have hs : Nat.min s (bitLen m + 2) = bitLen m + 2 := Nat.min_eq_right hle
    obtain ⟨hd, hm, hlt⟩ := hcut s hle
    obtain ⟨hd', hm', hlt'⟩ := hcut _ (Nat.le_refl _)
    unfold roundMag
    simp only [hs, hd, hm, hd', hm', gt_iff_lt, hlt.not_gt, hlt'.not_gt, hlt.ne, beq_eq_false_iff_ne.mpr hlt'.ne, decide_false,
      Bool.false_or, Bool.false_and, Bool.false_eq_true, false_or, false_and, if_false]

/-- A magnitude with a fraction below it is within half a place of what it rounds to, and at half a place that is even (R79). -/
theorem roundMag_near (neg : Bool) (m k : Nat) (sticky : Bool) (f : ℝ) (h0 : 0 ≤ f) (h1 : f < 1) (hs : sticky = true ↔ f ≠ 0) :
    let R := (roundMag .rne neg m (k + 1) sticky).1
    |(m + f : ℝ) - R * 2 ^ (k + 1)| ≤ 2 ^ k ∧ (|(m + f : ℝ) - R * 2 ^ (k + 1)| = 2 ^ k → R % 2 = 0) := by
  intro R
  have hR : R = _ := roundMag_rne neg m (k + 1) sticky
  have hpow : (2 : Nat) ^ (k + 1) = 2 * 2 ^ k := by rw [Nat.pow_succ, Nat.mul_comm]
  have hrpow : (2 : ℝ) ^ (k + 1) = 2 * 2 ^ k := by rw [pow_succ, mul_comm]
  have hP : 0 < 2 ^ k := Nat.two_pow_pos k
  rw [hpow] at hR
  rw [hrpow]
  have hcast : ((2 ^ k : Nat) : ℝ) = 2 ^ k := by push_cast; rfl
  rw [← hcast]
  generalize 2 ^ k = P at hR hP
  have hdiv : m = m / (2 * P) * (2 * P) + m % (2 * P) := (Nat.div_add_mod' m (2 * P)).symm
  have hmod : m % (2 * P) < 2 * P := Nat.mod_lt _ (by omega)
  generalize m / (2 * P) = Q at hR hdiv
  generalize m % (2 * P) = r at hR hdiv hmod
  have hm : (m : ℝ) = Q * (2 * P) + r := by rw [hdiv]; push_cast; rfl
  rw [hm]
  split at hR
  next hup =>
    have hle : (P : ℝ) ≤ r := by exact_mod_cast (by omega : P ≤ r)
    have hlt : (r : ℝ) + 1 ≤ 2 * P := by exact_mod_cast (by omega : r + 1 ≤ 2 * P)
    have hval : (Q * (2 * P) + r + f : ℝ) - R * (2 * P) = -(2 * P - r - f) := by rw [hR]; push_cast; ring
    rw [hval, abs_neg, abs_of_pos (by linarith)]
    refine ⟨by linarith, fun heq => ?_⟩
    have hf : f = 0 := by linarith
    have hr : r = P := by exact_mod_cast (by linarith : (r : ℝ) = P)
    rcases hup with hgt | ⟨-, -, hst | hodd⟩
    · omega
    · exact absurd hf (hs.mp hst)
    · omega
  next hdown =>
    have hval : (Q * (2 * P) + r + f : ℝ) - R * (2 * P) = r + f := by rw [hR]; ring
    rw [hval, abs_of_nonneg (by positivity)]
    by_cases hr : r = P
    · have hf : f = 0 := by
        by_contra hne
        exact hdown (.inr ⟨by omega, by omega, .inl (hs.mpr hne)⟩)
      refine ⟨by rw [hr, hf]; simp, fun _ => ?_⟩
      by_contra hodd
      exact hdown (.inr ⟨by omega, by omega, .inr (by omega)⟩)
    · have hlt : (r : ℝ) + 1 ≤ P := by exact_mod_cast (by omega : r + 1 ≤ P)
      exact ⟨by linarith, fun heq => by linarith⟩

/-! ### A magnitude and the last place -/

/-- A positive number between m and m + 1 times 2^e, exactly m times 2^e where nothing sticks below, and m a number of bits past the last place
where something does. -/
structure Magnitude (m : Nat) (e : Int) (sticky : Bool) (X : ℝ) : Prop where
  pos : 0 < m
  low : m * (2 : ℝ) ^ e ≤ X
  high : X < (m + 1) * (2 : ℝ) ^ e
  exact : sticky = true ↔ X ≠ m * (2 : ℝ) ^ e
  deep : sticky = true → e < lastPlace m e

theorem zpow_two_pos (e : Int) : (0 : ℝ) < 2 ^ e := zpow_pos (by norm_num) e

theorem zpow_shift {a b : Int} {k : Nat} (h : a = k + b) : (2 : ℝ) ^ a = 2 ^ k * 2 ^ b := by
  rw [h, zpow_add₀ (by norm_num), zpow_natCast]

/-- A magnitude is within half a last place of what it rounds to, and at half a place that is even. -/
theorem Magnitude.near {m : Nat} {e : Int} {sticky : Bool} {X : ℝ} (h : Magnitude m e sticky X) (neg : Bool) :
    let R := (roundedTo neg m e sticky).1
    |X - R * 2 ^ lastPlace m e| ≤ 2 ^ lastPlace m e / 2 ∧ (|X - R * 2 ^ lastPlace m e| = 2 ^ lastPlace m e / 2 → R % 2 = 0) := by
  obtain ⟨hm, hlow, hhigh, hexact, hdeep⟩ := h
  have hu := zpow_two_pos (lastPlace m e)
  unfold roundedTo
  split
  next hle =>
    have hst : sticky = false := by
      by_contra hne
      have := hdeep (by simpa using hne)
      omega
    have hX : X = m * (2 : ℝ) ^ e := by
      by_contra hne
      rw [hexact.mpr hne] at hst
      cases hst
    obtain ⟨k, hk⟩ := Int.eq_ofNat_of_zero_le (Int.sub_nonneg.mpr hle)
    have hval : ((m * 2 ^ k : Nat) : ℝ) * 2 ^ lastPlace m e = X := by
      rw [hX, zpow_shift (by omega : e = k + lastPlace m e)]
      push_cast
      ring
    rw [hk, Int.toNat_natCast]
    dsimp only
    rw [hval, sub_self, abs_zero]
    exact ⟨by positivity, fun heq => by linarith⟩
  next hlt =>
    obtain ⟨k, hk⟩ : ∃ k : Nat, lastPlace m e - e = (k + 1 : Nat) := ⟨(lastPlace m e - e - 1).toNat, by omega⟩
    have hv := zpow_two_pos e
    obtain ⟨f, hf⟩ : ∃ f : ℝ, X = (m + f) * 2 ^ e := ⟨X / 2 ^ e - m, by field_simp; ring⟩
    rw [hf] at hlow hhigh hexact
    have h0 : 0 ≤ f := by nlinarith
    have h1 : f < 1 := by nlinarith
    have hst : sticky = true ↔ f ≠ 0 := by
      rw [hexact, not_iff_not, mul_left_inj' hv.ne']
      exact add_eq_left
    obtain ⟨hnear, htie⟩ := roundMag_near neg m k sticky f h0 h1 hst
    rw [hk, Int.toNat_natCast, hf, zpow_shift (by omega : lastPlace m e = (k + 1 : Nat) + e)]
    have hval (R : ℝ) : (m + f) * 2 ^ e - R * (2 ^ (k + 1) * 2 ^ e) = ((m + f) - R * 2 ^ (k + 1)) * (2 : ℝ) ^ e := by ring
    have hhalf : (2 : ℝ) ^ (k + 1) * 2 ^ e / 2 = 2 ^ k * 2 ^ e := by rw [pow_succ]; ring
    intro R
    rw [hval, hhalf, abs_mul, abs_of_pos hv]
    exact ⟨by gcongr, fun heq => htie (mul_right_cancel₀ hv.ne' heq)⟩

/-- A magnitude past the subnormals fills the places above its last one. -/
theorem Magnitude.lastPlace_le {m : Nat} {e : Int} {sticky : Bool} {X : ℝ} (h : Magnitude m e sticky X) :
    -149 ≤ lastPlace m e ∧ (lastPlace m e ≠ -149 → 2 ^ 23 * 2 ^ lastPlace m e ≤ X) ∧ X < 2 ^ 24 * (2 : ℝ) ^ lastPlace m e := by
  obtain ⟨hm, hlow, hhigh, -, -⟩ := h
  have hv := zpow_two_pos e
  have hpos : 1 ≤ bitLen m := by rw [bitLen_pos hm]; omega
  refine ⟨by unfold lastPlace; omega, fun hne => ?_, ?_⟩
  · have htop : e + (bitLen m - 1 : Nat) = 23 + lastPlace m e := by unfold lastPlace at hne ⊢; omega
    have hmr : (2 : ℝ) ^ (bitLen m - 1) ≤ m := by exact_mod_cast two_pow_le_of_bitLen hm
    calc (2 : ℝ) ^ 23 * 2 ^ lastPlace m e = 2 ^ (bitLen m - 1) * 2 ^ e := by
          rw [← zpow_shift (k := 23) (a := e + (bitLen m - 1 : Nat)) (by omega), add_comm, zpow_shift rfl]
      _ ≤ m * 2 ^ e := by gcongr
      _ ≤ X := hlow
  · have htop : e + bitLen m ≤ 24 + lastPlace m e := by unfold lastPlace; omega
    have hmr : (m + 1 : ℝ) ≤ 2 ^ bitLen m := by exact_mod_cast lt_two_pow_bitLen m
    calc X < (m + 1) * 2 ^ e := hhigh
      _ ≤ 2 ^ bitLen m * 2 ^ e := by gcongr
      _ = 2 ^ (e + bitLen m) := by rw [add_comm, zpow_shift rfl]
      _ ≤ 2 ^ (24 + lastPlace m e) := by gcongr; norm_num
      _ = 2 ^ 24 * 2 ^ lastPlace m e := zpow_shift (k := 24) (by omega)

/-- What a magnitude rounds to is between the bounds of a significand of 24 bits, but for a carry (R79). -/
theorem Magnitude.roundedTo_le {m : Nat} {e : Int} {sticky : Bool} {X : ℝ} (h : Magnitude m e sticky X) (neg : Bool) :
    (roundedTo neg m e sticky).1 ≤ 2 ^ 24 ∧ (lastPlace m e ≠ -149 → 2 ^ 23 ≤ (roundedTo neg m e sticky).1) := by
  obtain ⟨hnear, -⟩ := h.near neg
  obtain ⟨-, hlow, hhigh⟩ := h.lastPlace_le
  obtain ⟨hlo, hhi⟩ := abs_le.mp hnear
  have hu := zpow_two_pos (lastPlace m e)
  generalize (2 : ℝ) ^ lastPlace m e = u at *
  refine ⟨?_, fun hne => ?_⟩
  · have : ((roundedTo neg m e sticky).1 : ℝ) < (2 ^ 24 + 1 : Nat) := by push_cast; nlinarith
    exact Nat.le_of_lt_succ (by exact_mod_cast this)
  · have hX := hlow hne
    have : ((2 ^ 23 - 1 : Nat) : ℝ) < (roundedTo neg m e sticky).1 := by push_cast; nlinarith
    have : 2 ^ 23 - 1 < (roundedTo neg m e sticky).1 := by exact_mod_cast this
    omega

/-- No multiple of the last place is nearer to a magnitude than what it rounds to, and one as near is another only where that is even. -/
theorem Magnitude.near_multiple {m : Nat} {e : Int} {sticky : Bool} {X : ℝ} (h : Magnitude m e sticky X) (neg : Bool) (i : Int) :
    let R := (roundedTo neg m e sticky).1
    |X - R * 2 ^ lastPlace m e| ≤ |X - i * 2 ^ lastPlace m e| ∧
      (|X - R * 2 ^ lastPlace m e| = |X - i * 2 ^ lastPlace m e| → i * 2 ^ lastPlace m e ≠ R * (2 : ℝ) ^ lastPlace m e → R % 2 = 0) := by
  intro R
  obtain ⟨hnear, htie⟩ := h.near neg
  have hu := zpow_two_pos (lastPlace m e)
  by_cases hi : i = R
  · rw [hi]
    exact ⟨by simp, fun _ hne => absurd (by simp) hne⟩
  · have hone : (1 : ℝ) ≤ |(i : ℝ) - R| := by exact_mod_cast Int.one_le_abs (sub_ne_zero.mpr hi)
    have hfar : (2 : ℝ) ^ lastPlace m e ≤ |X - R * 2 ^ lastPlace m e| + |X - i * 2 ^ lastPlace m e| := by
      calc (2 : ℝ) ^ lastPlace m e ≤ |(i : ℝ) - R| * 2 ^ lastPlace m e := le_mul_of_one_le_left hu.le hone
        _ = |(X - R * 2 ^ lastPlace m e) - (X - i * 2 ^ lastPlace m e)| := by rw [← abs_of_pos hu, ← abs_mul, abs_of_pos hu]; ring_nf
        _ ≤ _ := abs_sub _ _
    exact ⟨by linarith, fun heq _ => htie (by linarith)⟩

/-- No number of FP32 is nearer to a magnitude than what it rounds to, and one as near is another only where that is even (R79). -/
theorem Magnitude.nearest {m : Nat} {e : Int} {sticky : Bool} {X : ℝ} (h : Magnitude m e sticky X) (neg : Bool) (j ey : Int) (hj : j < 2 ^ 24)
    (hey : -149 ≤ ey) :
    let R := (roundedTo neg m e sticky).1
    |X - R * 2 ^ lastPlace m e| ≤ |X - j * 2 ^ ey| ∧
      (|X - R * 2 ^ lastPlace m e| = |X - j * 2 ^ ey| → j * 2 ^ ey ≠ R * (2 : ℝ) ^ lastPlace m e → R % 2 = 0) := by
  intro R
  rcases lt_or_ge ey (lastPlace m e) with hlt | hle
  swap
  · obtain ⟨k, hk⟩ := Int.eq_ofNat_of_zero_le (Int.sub_nonneg.mpr hle)
    have hmul : (j : ℝ) * 2 ^ ey = ((j * 2 ^ k : Int) : ℝ) * 2 ^ lastPlace m e := by
      rw [zpow_shift (by omega : ey = k + lastPlace m e)]
      push_cast
      ring
    rw [hmul]
    exact h.near_multiple neg _
  · obtain ⟨hlow, -⟩ := (h.near_multiple neg (2 ^ 23))
    have hX := h.lastPlace_le.2.1 (by omega)
    have hy : (j : ℝ) * 2 ^ ey < 2 ^ 23 * 2 ^ lastPlace m e := by
      have hjr : (j : ℝ) < 2 ^ 24 := by exact_mod_cast hj
      calc (j : ℝ) * 2 ^ ey < 2 ^ 24 * 2 ^ ey := by have := zpow_two_pos ey; gcongr
        _ = 2 ^ (23 + (1 + ey)) := by rw [← zpow_shift (k := 24) (a := 23 + (1 + ey)) (by omega)]
        _ ≤ 2 ^ (23 + lastPlace m e) := by gcongr; norm_num; omega
        _ = 2 ^ 23 * 2 ^ lastPlace m e := zpow_shift (k := 23) (by omega)
    have hlt : |X - R * 2 ^ lastPlace m e| < |X - j * 2 ^ ey| := by
      rw [abs_of_pos (by linarith : 0 < X - (j : ℝ) * 2 ^ ey)]
      refine lt_of_le_of_lt hlow ?_
      push_cast
      rw [abs_of_nonneg (by linarith)]
      linarith
    exact ⟨hlt.le, fun heq => absurd heq hlt.ne⟩

/-- The pattern that a magnitude rounds to, where it does not overflow, stands for what it rounds to (R74, R79). -/
theorem Magnitude.pattern {m : Nat} {e : Int} {sticky : Bool} {X : ℝ} (h : Magnitude m e sticky X) (neg : Bool)
    (hno : (f32.round .rne false neg m e sticky).cls &&& 4 = 0) :
    let R := (roundedTo neg m e sticky).1
    ∃ (m' : Nat) (e' : Int), f32.val false (f32.round .rne false neg m e sticky).bits = .fin neg m' e' ∧
      (m' : ℝ) * 2 ^ e' = R * 2 ^ lastPlace m e ∧ (f32.round .rne false neg m e sticky).bits % 2 = R % 2 := by
  intro R
  obtain ⟨c, hc4, -, heq⟩ := f32_round false neg m e sticky h.pos
  obtain ⟨hmax, hmin⟩ := h.roundedTo_le neg
  obtain ⟨hlp, -, -⟩ := h.lastPlace_le
  have hsign : f32.sign neg % 2 = 0 := by cases neg <;> rfl
  dsimp only at heq
  rw [Bool.false_and, if_neg Bool.false_ne_true] at heq
  rw [heq] at hno ⊢
  split at hno
  next hlow =>
    have hlast : lastPlace m e = -149 := by
      by_contra hne
      exact hlow.not_ge (hmin hne)
    rw [if_pos hlow]
    refine ⟨R, -149, f32_val_subnormal neg R hlow, by rw [hlast], ?_⟩
    dsimp only
    omega
  next hlow =>
    by_cases hover : 255 ≤ lastPlace m e + 150 + if R = 2 ^ 24 then 1 else 0
    · rw [if_pos hover] at hno
      exact absurd hno (show ¬0x14 &&& 4 = 0 by decide)
    · rw [if_neg hlow, if_neg hover]
      dsimp only
      by_cases hcarry : R = 2 ^ 24
      · rw [if_pos hcarry] at hover
        rw [if_pos hcarry, if_pos hcarry]
        obtain ⟨ex, hex⟩ : ∃ ex : Nat, lastPlace m e + 150 + 1 = ex := ⟨_, (Int.toNat_of_nonneg (by omega)).symm⟩
        rw [hex, Int.toNat_natCast]
        refine ⟨_, _, f32_val_normal neg ex (2 ^ 23 - 2 ^ 23) (by omega) (by omega) (by decide), ?_, by omega⟩
        have hR : (R : ℝ) = 2 ^ 24 := by exact_mod_cast hcarry
        rw [hR, ← zpow_shift (k := 24) (a := 24 + lastPlace m e) (by omega), show ((2 ^ 23 + (2 ^ 23 - 2 ^ 23) : Nat) : ℝ) = 2 ^ 23 by norm_num,
          ← zpow_shift (k := 23) (a := 24 + lastPlace m e) (by omega)]
      · rw [if_neg hcarry] at hover
        rw [if_neg hcarry, if_neg hcarry]
        obtain ⟨ex, hex⟩ : ∃ ex : Nat, lastPlace m e + 150 + 0 = ex := ⟨_, (Int.toNat_of_nonneg (by omega)).symm⟩
        rw [hex, Int.toNat_natCast]
        refine ⟨_, _, f32_val_normal neg ex (R - 2 ^ 23) (by omega) (by omega) (by omega), ?_, by omega⟩
        rw [Nat.add_sub_cancel' (by omega), show (ex : Int) - 150 = lastPlace m e by omega]

/-- A magnitude below 2^127 does not overflow (R82). -/
theorem Magnitude.no_overflow {m : Nat} {e : Int} {sticky : Bool} {X : ℝ} (h : Magnitude m e sticky X) (neg : Bool) (hX : X < 2 ^ (127 : Int)) :
    (f32.round .rne false neg m e sticky).cls &&& 4 = 0 := by
  obtain ⟨c, hc4, -, heq⟩ := f32_round false neg m e sticky h.pos
  obtain ⟨hlp, hlow, -⟩ := h.lastPlace_le
  have hsmall : lastPlace m e ≤ 103 := by
    by_contra hgt
    have hle := hlow (by omega)
    rw [← zpow_shift (k := 23) (a := 23 + lastPlace m e) (by omega)] at hle
    have := (zpow_lt_zpow_iff_right₀ (by norm_num : (1 : ℝ) < 2)).mp (lt_of_le_of_lt hle hX)
    omega
  dsimp only at heq
  rw [heq, Bool.false_and, if_neg Bool.false_ne_true]
  split
  · exact hc4
  · rw [if_neg (by split <;> omega)]
    exact hc4

/-- A magnitude of at least the least subnormal does not round to zero. -/
theorem Magnitude.roundedTo_pos {m : Nat} {e : Int} {sticky : Bool} {X : ℝ} (h : Magnitude m e sticky X) (neg : Bool) (hX : 2 ^ (-149 : Int) ≤ X) :
    0 < (roundedTo neg m e sticky).1 := by
  obtain ⟨hnear, -⟩ := h.near neg
  obtain ⟨-, hmin⟩ := h.roundedTo_le neg
  by_contra hzero
  have h0 : (roundedTo neg m e sticky).1 = 0 := by omega
  have hlast : lastPlace m e = -149 := by
    by_contra hne
    have := hmin hne
    omega
  have hu := zpow_two_pos (-149)
  rw [h0, hlast, Nat.cast_zero, zero_mul, sub_zero, abs_of_pos (lt_of_lt_of_le hu hX)] at hnear
  exact absurd hnear (not_le.mpr (lt_of_lt_of_le (half_lt_self hu) hX))

/-! ### Numbers of FP32 -/

theorem num_cast (n : Bool) (m : Nat) (e : Int) : ((num n m e : ℚ) : ℝ) = ((if n then -m else m : Int) : ℝ) * 2 ^ e := by
  unfold num
  cases n <;> push_cast <;> simp

/-- Every number of FP32 is a whole number of at most 24 bits times a power of 2 from 2^-149 on (R74). -/
theorem isNum_multiple (b : Nat) (y : ℚ) (h : IsNum f32 b y) : ∃ j ey : Int, |j| < 2 ^ 24 ∧ -149 ≤ ey ∧ (y : ℝ) = j * 2 ^ ey := by
  obtain ⟨n, m, e, hval, rfl⟩ := h
  obtain ⟨-, hm, he, -⟩ := f32_val_fin b n m e hval
  refine ⟨_, e, ?_, he, num_cast n m e⟩
  split
  · rw [abs_neg, abs_of_nonneg (by omega)]; omega
  · rw [abs_of_nonneg (by omega)]; omega

/-- A magnitude with a sign, rounded without overflow: the number of its pattern, to which no other number of FP32 is preferred (R79). -/
theorem Magnitude.rounded {m : Nat} {e : Int} {sticky : Bool} {X : ℝ} (h : Magnitude m e sticky X) (neg : Bool)
    (hno : (f32.round .rne false neg m e sticky).cls &&& 4 = 0) :
    let bits := (f32.round .rne false neg m e sticky).bits
    let x : ℝ := if neg then -X else X
    ∃ v : ℚ, IsNum f32 bits v ∧ (v : ℝ) = (if neg then -1 else 1) * ((roundedTo neg m e sticky).1 * 2 ^ lastPlace m e) ∧
      ∀ b y, IsNum f32 b y → |x - v| ≤ |x - y| ∧ (|x - v| = |x - y| → y ≠ v → bits % 2 = 0) := by
  intro bits x
  obtain ⟨m', e', hval, hnum, hpar⟩ := h.pattern neg hno
  have hv : ((num neg m' e' : ℚ) : ℝ) = (if neg then -1 else 1) * ((roundedTo neg m e sticky).1 * 2 ^ lastPlace m e) := by
    rw [num_cast, ← hnum]
    cases neg <;> push_cast <;> simp
  refine ⟨num neg m' e', ⟨neg, m', e', hval, rfl⟩, hv, fun b y hy => ?_⟩
  obtain ⟨j, ey, hj, hey, hyr⟩ := isNum_multiple b y hy
  obtain ⟨hlo, hhi⟩ := abs_lt.mp hj
  rw [hpar]
  cases neg with
  | false =>
    obtain ⟨hle, htie⟩ := h.nearest false j ey hhi hey
    simp only [Bool.false_eq_true, if_false, one_mul] at hv
    simp only [x, Bool.false_eq_true, if_false, hv, hyr]
    exact ⟨hle, fun heq hne => htie heq fun hback => hne (Rat.cast_injective (α := ℝ) (hyr.trans (hback.trans hv.symm)))⟩
  | true =>
    obtain ⟨hle, htie⟩ := h.nearest true (-j) ey (by omega) hey
    simp only [if_true, neg_one_mul] at hv
    have habs (z : ℝ) : |-X - z| = |X - -z| := by rw [← abs_neg]; congr 1; ring
    simp only [x, if_true, habs, hv, hyr, neg_neg]
    push_cast at hle htie
    rw [neg_mul] at hle htie
    exact ⟨hle, fun heq hne => htie heq fun hback => hne (Rat.cast_injective (α := ℝ) (by rw [hyr, hv, ← hback, neg_neg]))⟩

/-- A number between M and M + 1 times a power of 2, with M of at least 25 bits, is a magnitude. -/
theorem magnitude_of_scaled (m : Nat) (e : Int) (sticky : Bool) (Y : ℝ) (hm : 2 ^ 24 ≤ m) (hlow : m ≤ Y) (hhigh : Y < m + 1)
    (hexact : sticky = true ↔ Y ≠ m) : Magnitude m e sticky (Y * 2 ^ e) := by
  have hv := zpow_two_pos e
  refine ⟨by omega, by gcongr, by gcongr, ?_, fun _ => ?_⟩
  · rw [hexact, not_iff_not, mul_left_inj' hv.ne']
  · have hlen : 24 < bitLen m := (Nat.pow_lt_pow_iff_right (by decide : 1 < 2)).mp (Nat.lt_of_le_of_lt hm (lt_two_pow_bitLen m))
    unfold lastPlace
    omega

end Sys2Proof.Machine
end

section
/-! PROOF. The special inputs of the special functions, and the correctly rounded ones (R132, R133). -/

open Sys2Proof Sys2Proof.Machine Sys2Proof.Claims

namespace Sys2Proof.Proofs

/-! ### Special inputs -/

theorem mark_fin (n : Bool) (m : Nat) (e : Int) (r : FR) : f32.mark [.fin n m e] r = f32.mark [] r := rfl

theorem sfuVal_zero (fn : SfuFn) (ftz n : Bool) (e : Int) : sfuVal fn ftz (.fin n 0 e) = match fn with
  | .rcp | .rsq => { bits := if n then 0xFF800000 else 0x7F800000, cls := 0x42 }
  | .log2 => { bits := 0xFF800000, cls := 0x42 }
  | .sqrt | .sin | .tanh => { bits := if n then 0x80000000 else 0, cls := 0 }
  | .exp2 | .cos => { bits := 0x3F800000, cls := 0 }
  | .sigm => { bits := 0x3F000000, cls := 0 } := by
  simp only [sfuVal, mark_fin, FVal.neg]
  clear e
  cases fn <;> cases n <;> decide

theorem sfuVal_inf (fn : SfuFn) (ftz n : Bool) : sfuVal fn ftz (.inf n) = match fn with
  | .rcp => { bits := if n then 0x80000000 else 0, cls := 0 }
  | .rsq => if n then { bits := 0x7FC00000, cls := 0x21 } else { bits := 0, cls := 0 }
  | .sqrt | .log2 => if n then { bits := 0x7FC00000, cls := 0x21 } else { bits := 0x7F800000, cls := 0 }
  | .exp2 => { bits := if n then 0 else 0x7F800000, cls := 0 }
  | .sin | .cos => { bits := 0x7FC00000, cls := 0x21 }
  | .tanh => { bits := 0x3F800000 + if n then 0x80000000 else 0, cls := 0 }
  | .sigm => { bits := if n then 0 else 0x3F800000, cls := 0 } := by
  cases fn <;> cases n <;> decide +revert

/-- A special function of a finite number other than zero, before its classes are marked. -/
def sfuFin (fn : SfuFn) (ftz n : Bool) (m : Nat) (e : Int) : FR :=
  match fn with
  | .rcp => rcpFin ftz n m e
  | .rsq => if n then f32.invalid else rsqFin ftz m e
  | .sqrt => if n then f32.invalid else sqrtFin ftz m e
  | .exp2 => exp2Fin ftz n m e
  | .log2 => if n then f32.invalid else log2Fin ftz m e
  | .sin => sinFin ftz n m e
  | .cos => cosFin ftz m e
  | .tanh => tanhFin ftz n m e
  | .sigm => sigmFin ftz n m e

theorem sfuVal_fin (fn : SfuFn) (ftz n : Bool) (m : Nat) (e : Int) (hm : m ≠ 0) : sfuVal fn ftz (.fin n m e) = f32.mark [] (sfuFin fn ftz n m e) := by
  obtain ⟨k, rfl⟩ := Nat.exists_eq_succ_of_ne_zero hm
  cases fn <;> simp only [sfuVal, mark_fin, sfuFin]

theorem mark_invalid : f32.mark [] f32.invalid = { bits := 0x7FC00000, cls := 0x21 } := by decide

/-- The classes of a finite result are those of its rounding. -/
theorem mark_finite (r : FR) (n : Bool) (m : Nat) (e : Int) (h : f32.val false r.bits = .fin n m e) : f32.mark [] r = r := by
  unfold Fmt.mark
  rw [h]
  simp [FVal.isNan, FVal.isInf]

theorem bits_mark (r : FR) : (f32.mark [] r).bits = r.bits := rfl

/-- What the marks of a result leave of its overflow class. -/
theorem cls_of_mark (r : FR) (h : (f32.mark [] r).cls &&& 4 = 0) : r.cls &&& 4 = 0 := by
  unfold Fmt.mark at h
  simp only [List.any_nil, Bool.false_eq_true, if_false, Nat.or_zero] at h
  rw [Nat.and_or_distrib_right, Nat.and_or_distrib_right] at h
  have := (Nat.or_eq_zero_iff.mp h).1
  exact (Nat.or_eq_zero_iff.mp this).1

/-! ### Reciprocals and roots -/

theorem rcp_magnitude (m : Nat) (e : Int) (hm : 0 < m) :
    Magnitude (2 ^ (bitLen m + 27) / m) (-e - (bitLen m + 27 : Nat)) (2 ^ (bitLen m + 27) % m != 0) (1 / (m * (2 : ℝ) ^ e)) := by
  have hmr : (0 : ℝ) < m := by exact_mod_cast hm
  have hdiv : m * (2 ^ (bitLen m + 27) / m) + 2 ^ (bitLen m + 27) % m = 2 ^ (bitLen m + 27) := Nat.div_add_mod _ _
  have hmod : 2 ^ (bitLen m + 27) % m < m := Nat.mod_lt _ hm
  have hX : 1 / (m * (2 : ℝ) ^ e) = (2 : ℝ) ^ (bitLen m + 27) / m * 2 ^ (-e - (bitLen m + 27 : Nat)) := by
    rw [zpow_sub₀ (by norm_num), zpow_neg, zpow_natCast]
    field_simp
  have hbig : 2 ^ 24 ≤ 2 ^ (bitLen m + 27) / m := by
    rw [Nat.le_div_iff_mul_le hm]
    calc 2 ^ 24 * m ≤ 2 ^ 24 * 2 ^ bitLen m := Nat.mul_le_mul_left _ (lt_two_pow_bitLen m).le
      _ ≤ 2 ^ (bitLen m + 27) := by rw [← Nat.pow_add]; exact Nat.pow_le_pow_right (by decide) (by omega)
  have hdr : (m : ℝ) * (2 ^ (bitLen m + 27) / m : Nat) + (2 ^ (bitLen m + 27) % m : Nat) = 2 ^ (bitLen m + 27) := by exact_mod_cast hdiv
  have hmodr : ((2 ^ (bitLen m + 27) % m : Nat) : ℝ) < m := by exact_mod_cast hmod
  have hnonneg : (0 : ℝ) ≤ (2 ^ (bitLen m + 27) % m : Nat) := Nat.cast_nonneg _
  rw [hX]
  refine magnitude_of_scaled _ _ _ _ hbig ?_ ?_ ?_
  · rw [le_div_iff₀ hmr]
    linarith
  · rw [div_lt_iff₀ hmr]
    linarith
  · rw [bne_iff_ne, not_iff_not, div_eq_iff hmr.ne', ← hdr, mul_comm, add_eq_left, Nat.cast_eq_zero]

/-- FRCP of a finite number other than zero is its reciprocal rounded (R132). -/
theorem rcp_rounded (n : Bool) (m : Nat) (e : Int) (hm : 0 < m) (hno : (sfuVal .rcp false (.fin n m e)).cls &&& 4 = 0) :
    Rounded f32 .rne (1 / num n m e) (sfuVal .rcp false (.fin n m e)).bits := by
  have hmag := rcp_magnitude m e hm
  rw [sfuVal_fin .rcp false n m e (by omega)] at hno ⊢
  rw [bits_mark]
  have hrcp : sfuFin .rcp false n m e = f32.round .rne false n (2 ^ (bitLen m + 27) / m) (-e - (bitLen m + 27 : Nat)) (2 ^ (bitLen m + 27) % m != 0) := by
    simp only [sfuFin, rcpFin, Fmt.roundQuot, Nat.one_mul]
    rfl
  rw [hrcp] at hno ⊢
  obtain ⟨v, hv, -, hbest⟩ := hmag.rounded n (cls_of_mark _ hno)
  have hx : ((1 / num n m e : ℚ) : ℝ) = if n then -(1 / (m * (2 : ℝ) ^ e)) else 1 / (m * (2 : ℝ) ^ e) := by
    rw [Rat.cast_div, num_cast]
    cases n <;> push_cast <;> simp
  refine ⟨v, hv, fun b y hy => ?_⟩
  obtain ⟨hle, htie⟩ := hbest b y hy
  rw [← hx] at hle htie
  exact ⟨by exact_mod_cast hle, fun heq hne => htie (by exact_mod_cast heq) hne⟩

/-- What no number of FP32 is preferred to is the nearest to the positive root. -/
theorem nearestRoot_of_magnitude {m : Nat} {e : Int} {sticky : Bool} {X : ℝ} (h : Magnitude m e sticky X) (x : ℚ) (hx : (x : ℝ) = X ^ 2)
    (hlow : 2 ^ (-149 : Int) ≤ X) (hhigh : X < 2 ^ (127 : Int)) : NearestRoot x (f32.round .rne false false m e sticky).bits := by
  obtain ⟨v, hv, hval, hbest⟩ := h.rounded false (h.no_overflow false hhigh)
  have hu := zpow_two_pos (lastPlace m e)
  have hX : 0 < X := lt_of_lt_of_le (zpow_two_pos _) hlow
  have hvpos : (0 : ℝ) < v := by
    have hR : (0 : ℝ) < (roundedTo false m e sticky).1 := by exact_mod_cast h.roundedTo_pos false hlow
    rw [hval]
    simpa using mul_pos hR hu
  refine ⟨v, hv, by exact_mod_cast hvpos, fun b y hy => ⟨fun hlt => ?_, fun h0 hlt => ?_⟩⟩
  · have hle := (hbest b y hy).1
    have hltr : (v : ℝ) < y := by exact_mod_cast hlt
    have hmid : X ≤ (v + y) / 2 := by
      by_contra hgt
      rw [not_le] at hgt
      simp only [Bool.false_eq_true, if_false] at hle
      rw [abs_of_pos (by linarith)] at hle
      rcases abs_cases (X - (y : ℝ)) with ⟨heq, -⟩ | ⟨heq, -⟩ <;> linarith
    have : (x : ℝ) ≤ (((v + y) / 2 : ℚ) : ℝ) ^ 2 := by
      rw [hx]
      push_cast
      gcongr
    exact_mod_cast this
  · have hle := (hbest b y hy).1
    have hltr : (y : ℝ) < v := by exact_mod_cast hlt
    have h0r : (0 : ℝ) ≤ y := by exact_mod_cast h0
    have hmid : (v + y) / 2 ≤ X := by
      by_contra hgt
      rw [not_le] at hgt
      simp only [Bool.false_eq_true, if_false] at hle
      rw [abs_of_neg (by linarith)] at hle
      rcases abs_cases (X - (y : ℝ)) with ⟨heq, -⟩ | ⟨heq, -⟩ <;> linarith
    have : (((v + y) / 2 : ℚ) : ℝ) ^ 2 ≤ x := by
      rw [hx]
      push_cast
      gcongr
    exact_mod_cast this

/-- The exponent of a number with its last bit moved into the magnitude. -/
def evenExp (e : Int) : Int := (if e % 2 != 0 then e - 1 else e) / 2

/-- The magnitude of a number with an even exponent. -/
def evenMag (m : Nat) (e : Int) : Nat := if e % 2 != 0 then 2 * m else m

theorem evenMag_bounds (m : Nat) (e : Int) (h0 : 0 < m) (h1 : m < 2 ^ 24) : 0 < evenMag m e ∧ evenMag m e < 2 ^ 25 := by
  unfold evenMag
  split <;> omega

theorem sfuFin_sqrt (m : Nat) (e : Int) : sfuFin .sqrt false false m e =
    f32.round .rne false false (Nat.sqrt (evenMag m e * 2 ^ 64)) (evenExp e - 32)
      (Nat.sqrt (evenMag m e * 2 ^ 64) * Nat.sqrt (evenMag m e * 2 ^ 64) != evenMag m e * 2 ^ 64) := by
  simp only [sfuFin, sqrtFin, evenMag, evenExp, Bool.false_eq_true, if_false]

theorem sfuFin_rsq (m : Nat) (e : Int) : sfuFin .rsq false false m e =
    f32.round .rne false false (Nat.sqrt (2 ^ 128 / evenMag m e)) (-evenExp e - 64)
      (Nat.sqrt (2 ^ 128 / evenMag m e) * Nat.sqrt (2 ^ 128 / evenMag m e) * evenMag m e != 2 ^ 128) := by
  have hexp : -(if e % 2 != 0 then e - 1 else e) / 2 = -evenExp e := by
    unfold evenExp
    split
    next hodd =>
      have hodd : e % 2 ≠ 0 := by simpa using hodd
      omega
    next heven =>
      have heven : e % 2 = 0 := by simpa using heven
      omega
  simp only [sfuFin, rsqFin, hexp, evenMag, Bool.false_eq_true, if_false]

theorem even_split (m : Nat) (e : Int) : (m : ℝ) * 2 ^ e = evenMag m e * (2 ^ evenExp e) ^ 2 := by
  rw [← zpow_natCast, ← zpow_mul]
  unfold evenMag evenExp
  split
  next hodd =>
    have hodd : e % 2 ≠ 0 := by simpa using hodd
    rw [zpow_shift (k := 1) (b := (e - 1) / 2 * (2 : Nat)) (by omega)]
    push_cast
    ring
  next heven =>
    have heven : e % 2 = 0 := by simpa using heven
    rw [show e / 2 * ((2 : Nat) : Int) = e by omega]

/-- The whole root of a number of at least 48 bits, with what is left of it, is a magnitude of the root. -/
theorem magnitude_of_root (r : Nat) (e : Int) (sticky : Bool) (Y Z : ℝ) (hY : 0 ≤ Y) (hsq : Y ^ 2 = Z) (hr : 2 ^ 24 ≤ r) (hlow : (r : ℝ) ^ 2 ≤ Z)
    (hhigh : Z < (r + 1 : ℝ) ^ 2) (hexact : sticky = true ↔ Z ≠ (r : ℝ) ^ 2) : Magnitude r e sticky (Y * 2 ^ e) := by
  rw [← hsq] at hlow hhigh hexact
  refine magnitude_of_scaled r e sticky Y hr ?_ ?_ ?_
  · exact (pow_le_pow_iff_left₀ (Nat.cast_nonneg r) hY (by norm_num)).mp hlow
  · exact (pow_lt_pow_iff_left₀ hY (by positivity) (by norm_num)).mp hhigh
  · rw [hexact, not_iff_not]
    exact pow_left_inj₀ hY (Nat.cast_nonneg r) (by norm_num)

/-- A positive number whose square is far from the bounds of FP32 does not leave them. -/
theorem root_bounds (X : ℝ) (hX : 0 ≤ X) (hlow : 2 ^ (-149 : Int) ≤ X ^ 2) (hhigh : X ^ 2 < 2 ^ (150 : Int)) : 2 ^ (-149 : Int) ≤ X ∧ X < 2 ^ (127 : Int) := by
  constructor
  · refine (pow_le_pow_iff_left₀ (zpow_two_pos _).le hX (by norm_num : (2 : Nat) ≠ 0)).mp (le_trans ?_ hlow)
    norm_num
  · refine (pow_lt_pow_iff_left₀ hX (zpow_two_pos _).le (by norm_num : (2 : Nat) ≠ 0)).mp (lt_trans hhigh ?_)
    norm_num

section
variable (m : Nat) (e : Int) (h0 : 0 < m) (h1 : m < 2 ^ 24) (he0 : -149 ≤ e) (he1 : e ≤ 104)
include h0 h1 he0 he1

theorem number_bounds : 2 ^ (-149 : Int) ≤ (m : ℝ) * 2 ^ e ∧ (m : ℝ) * 2 ^ e < 2 ^ (128 : Int) := by
  have hm0 : (1 : ℝ) ≤ m := by exact_mod_cast h0
  have hm1 : (m : ℝ) < 2 ^ 24 := by exact_mod_cast h1
  have hu := zpow_two_pos e
  constructor
  · calc (2 : ℝ) ^ (-149 : Int) ≤ 2 ^ e := by gcongr; norm_num
      _ ≤ m * 2 ^ e := le_mul_of_one_le_left hu.le hm0
  · calc (m : ℝ) * 2 ^ e < 2 ^ 24 * 2 ^ e := by gcongr
      _ = 2 ^ (24 + e) := (zpow_shift (k := 24) rfl).symm
      _ ≤ 2 ^ (128 : Int) := by gcongr; norm_num; omega

/-- FSQRT of a positive number is its root rounded (R132). -/
theorem sqrt_nearest : NearestRoot (num false m e) (sfuVal .sqrt false (.fin false m e)).bits := by
  obtain ⟨hw0, hw1⟩ := evenMag_bounds m e h0 h1
  rw [sfuVal_fin .sqrt false false m e (by omega), bits_mark, sfuFin_sqrt]
  have hsplit := even_split m e
  obtain ⟨hb0, hb1⟩ := number_bounds m e h0 h1 he0 he1
  generalize evenMag m e = w at *
  generalize evenExp e = h at *
  have hlow := Nat.sqrt_le (w * 2 ^ 64)
  have hhigh := Nat.lt_succ_sqrt (w * 2 ^ 64)
  have hbig : 2 ^ 24 ≤ Nat.sqrt (w * 2 ^ 64) := Nat.le_sqrt.mpr (by omega)
  generalize Nat.sqrt (w * 2 ^ 64) = r at *
  have hZ : (0 : ℝ) ≤ ((w * 2 ^ 64 : Nat) : ℝ) := Nat.cast_nonneg _
  have hmag := magnitude_of_root r (h - 32) (r * r != w * 2 ^ 64) (Real.sqrt (w * 2 ^ 64 : Nat)) (w * 2 ^ 64 : Nat) (Real.sqrt_nonneg _)
    (Real.sq_sqrt hZ) hbig (by rw [pow_two]; exact_mod_cast hlow) (by rw [pow_two]; exact_mod_cast hhigh) (by
      rw [bne_iff_ne, not_iff_not, pow_two, eq_comm]
      exact_mod_cast Iff.rfl)
  have hX : (Real.sqrt (w * 2 ^ 64 : Nat) * 2 ^ (h - 32)) ^ 2 = (m : ℝ) * 2 ^ e := by
    rw [mul_pow, Real.sq_sqrt hZ, hsplit, zpow_sub₀ (by norm_num)]
    push_cast
    norm_num
    ring
  obtain ⟨hl, hh⟩ := root_bounds (Real.sqrt (w * 2 ^ 64 : Nat) * 2 ^ (h - 32)) (by positivity) (by rw [hX]; exact hb0)
    (by rw [hX]; exact hb1.trans (by norm_num))
  refine nearestRoot_of_magnitude hmag _ ?_ hl hh
  rw [hX, num_cast]
  simp

/-- FRSQ of a positive number is its reciprocal root rounded (R132). -/
theorem rsq_nearest : NearestRoot (1 / num false m e) (sfuVal .rsq false (.fin false m e)).bits := by
  obtain ⟨hw0, hw1⟩ := evenMag_bounds m e h0 h1
  rw [sfuVal_fin .rsq false false m e (by omega), bits_mark, sfuFin_rsq]
  have hsplit := even_split m e
  obtain ⟨hb0, hb1⟩ := number_bounds m e h0 h1 he0 he1
  generalize evenMag m e = w at *
  generalize evenExp e = h at *
  have hlow := Nat.sqrt_le (2 ^ 128 / w)
  have hhigh := Nat.lt_succ_sqrt (2 ^ 128 / w)
  have hbig : 2 ^ 24 ≤ Nat.sqrt (2 ^ 128 / w) := Nat.le_sqrt.mpr ((Nat.le_div_iff_mul_le hw0).mpr (by omega))
  generalize Nat.sqrt (2 ^ 128 / w) = r at *
  rw [Nat.le_div_iff_mul_le hw0] at hlow
  rw [Nat.div_lt_iff_lt_mul hw0] at hhigh
  have hwr : (0 : ℝ) < w := by exact_mod_cast hw0
  have hZ : (0 : ℝ) ≤ 2 ^ 128 / w := by positivity
  have hmag := magnitude_of_root r (-h - 64) (r * r * w != 2 ^ 128) (Real.sqrt (2 ^ 128 / w)) (2 ^ 128 / w) (Real.sqrt_nonneg _)
    (Real.sq_sqrt hZ) hbig (by rw [pow_two, le_div_iff₀ hwr]; exact_mod_cast hlow) (by rw [pow_two, div_lt_iff₀ hwr]; exact_mod_cast hhigh) (by
      rw [bne_iff_ne, not_iff_not, pow_two, div_eq_iff hwr.ne', eq_comm]
      exact_mod_cast Iff.rfl)
  have hX : (Real.sqrt (2 ^ 128 / w) * 2 ^ (-h - 64)) ^ 2 = 1 / ((m : ℝ) * 2 ^ e) := by
    rw [mul_pow, Real.sq_sqrt hZ, hsplit, zpow_sub₀ (by norm_num), zpow_neg]
    have := zpow_two_pos h
    field_simp
  have hpos : (0 : ℝ) < m * 2 ^ e := lt_of_lt_of_le (zpow_two_pos _) hb0
  obtain ⟨hl, hh⟩ := root_bounds (Real.sqrt (2 ^ 128 / w) * 2 ^ (-h - 64)) (by positivity)
    (by rw [hX, le_div_iff₀ hpos]; calc (2 : ℝ) ^ (-149 : Int) * (m * 2 ^ e) ≤ 2 ^ (-149 : Int) * 2 ^ (128 : Int) := by gcongr
                                      _ ≤ 1 := by norm_num)
    (by rw [hX, div_lt_iff₀ hpos]; calc (1 : ℝ) < 2 ^ (150 : Int) * 2 ^ (-149 : Int) := by norm_num
                                      _ ≤ 2 ^ (150 : Int) * (m * 2 ^ e) := by gcongr)
  refine nearestRoot_of_magnitude hmag _ ?_ hl hh
  rw [hX, Rat.cast_div, num_cast]
  simp

end

/-! ### Powers of 2 -/

theorem lastPlace_one (k : Int) : lastPlace 1 k = max k (-126) - 23 := by
  have : bitLen 1 = 1 := by decide
  unfold lastPlace
  omega

/-- 2^k rounds to a power of 2 of last places, with nothing left. -/
theorem roundedTo_one (neg : Bool) (k : Int) : roundedTo neg 1 k false = (2 ^ (k - (max k (-126) - 23)).toNat, false) ∨ k < -149 := by
  unfold roundedTo
  rw [lastPlace_one]
  split
  · left
    rw [Nat.one_mul]
  · right
    omega

/-- 2^k of the normal range is the pattern with its exponent (R74, R133). -/
theorem round_power (ftz : Bool) (k : Int) (h0 : -126 ≤ k) (h1 : k ≤ 127) :
    f32.round .rne ftz false 1 k false = { bits := (k + 127).toNat * 2 ^ 23, cls := 0 } := by
  obtain ⟨c, -, hc, heq⟩ := f32_round ftz false 1 k false (by decide)
  have hr : roundedTo false 1 k false = (2 ^ 23, false) := by
    rcases roundedTo_one false k with h | h
    · rw [h, show (k - (max k (-126) - 23)).toNat = 23 by omega]
    · omega
  have hlp : lastPlace 1 k + 150 + 0 = k + 127 := by rw [lastPlace_one]; omega
  rw [hr] at hc heq
  rw [heq, hc rfl]
  dsimp only
  rw [if_neg (by decide), if_neg (by decide : ¬2 ^ 23 = 2 ^ 24), if_neg (by decide : ¬2 ^ 23 = 2 ^ 24), hlp, if_neg (by omega), f32_sign]
  simp

/-- 2^-k of the subnormal range: one bit, or a zero where subnormals are flushed (R80). -/
theorem round_subnormal_power (ftz : Bool) (k : Nat) (h0 : 127 ≤ k) (h1 : k ≤ 149) :
    f32.round .rne ftz false 1 (-k) false = if ftz then { bits := 0, cls := 0x18 } else { bits := 2 ^ (149 - k), cls := 0 } := by
  obtain ⟨c, -, hc, heq⟩ := f32_round ftz false 1 (-k) false (by decide)
  have hr : roundedTo false 1 (-k) false = (2 ^ (149 - k), false) := by
    rcases roundedTo_one false (-k) with h | h
    · rw [h, show (-(k : Int) - (max (-(k : Int)) (-126) - 23)).toNat = 149 - k by omega]
    · omega
  have hlow : 2 ^ (149 - k) < 2 ^ 23 := Nat.pow_lt_pow_right (by decide) (by omega)
  rw [hr] at hc heq
  rw [heq, hc rfl]
  dsimp only
  rw [if_pos hlow, f32_sign]
  cases ftz <;> simp

/-- A magnitude of at least 2^128 overflows to infinity (R82). -/
theorem round_overflow (ftz : Bool) {m : Nat} {e : Int} {sticky : Bool} {X : ℝ} (h : Magnitude m e sticky X) (hX : 2 ^ (128 : Int) ≤ X) :
    f32.round .rne ftz false m e sticky = { bits := 0x7F800000, cls := 0x14 } := by
  obtain ⟨c, -, -, heq⟩ := f32_round ftz false m e sticky h.pos
  obtain ⟨-, -, hhigh⟩ := h.lastPlace_le
  have hlp : 105 ≤ lastPlace m e := by
    rw [← zpow_shift (k := 24) (a := 24 + lastPlace m e) (by omega)] at hhigh
    have := (zpow_lt_zpow_iff_right₀ (by norm_num : (1 : ℝ) < 2)).mp (lt_of_le_of_lt hX hhigh)
    omega
  have hmin := (h.roundedTo_le false).2 (by omega)
  dsimp only at heq
  rw [heq, if_neg hmin.not_gt, if_pos (by split <;> omega)]
  rfl

/-- A whole power of 2 is a magnitude. -/
theorem magnitude_one (k : Int) : Magnitude 1 k false (2 ^ k) := by
  have := zpow_two_pos k
  exact ⟨by decide, by simp, by norm_num; linarith, by simp, nofun⟩

/-- The terms of a series of one sign add to its sum. -/
theorem series_ge (next : Nat → Nat → Nat) (fuel i t : Nat) (acc : Int) : acc ≤ series next false fuel i false t acc := by
  induction fuel generalizing i t acc with
  | zero => exact le_refl _
  | succ fuel ih =>
    unfold series
    split
    · exact le_refl _
    · exact le_trans (by simp) (ih _ _ _)

theorem fixedOne_pos : 0 < one := Nat.two_pow_pos fixBits

/-- e^r is at least 1. -/
theorem one_le_expFix (r : Nat) : one ≤ expFix r := by
  have hone : one ≠ 0 := fixedOne_pos.ne'
  have hseries : (one : Int) ≤ series (fun i t => fmulFix t r / (i + 1)) false (159 + 1) 0 false one 0 := by
    rw [series, if_neg hone]
    exact le_trans (by rw [if_neg Bool.false_ne_true, Int.zero_add]) (series_ge _ _ _ _ _)
  have hnat := Int.toNat_le_toNat hseries
  rw [Int.toNat_natCast] at hnat
  exact hnat

/-- 2^x of a whole power of 2 in fixed point overflows from 128 on. -/
theorem round_exp_overflow (ftz : Bool) (r k : Nat) (hk : 128 ≤ k) :
    f32.round .rne ftz false (expFix r) (k - fixBits) true = { bits := 0x7F800000, cls := 0x14 } := by
  have hone := one_le_expFix r
  have hbig : 2 ^ 24 ≤ expFix r := le_trans (Nat.pow_le_pow_right (by decide) (by decide : 24 ≤ fixBits)) hone
  have honer : (2 : ℝ) ^ fixBits ≤ expFix r := by exact_mod_cast hone
  have hmag := magnitude_of_scaled (expFix r) (k - fixBits) true (expFix r + 1 / 2) hbig (by linarith) (by linarith)
    ⟨fun _ h => by linarith, fun _ => rfl⟩
  refine round_overflow ftz hmag ?_
  have hv := zpow_two_pos ((k : Int) - fixBits)
  calc (2 : ℝ) ^ (128 : Int) ≤ 2 ^ (k : Int) := by gcongr; norm_num; exact_mod_cast hk
    _ = 2 ^ fixBits * 2 ^ ((k : Int) - fixBits) := zpow_shift (by ring)
    _ ≤ (expFix r + 1 / 2) * 2 ^ ((k : Int) - fixBits) := by gcongr; linarith

/-- 2^x of a whole number is a power of 2 (R133). -/
theorem exp2_whole (ftz : Bool) (k : Int) (hk : k ≠ 0) :
    sfuVal .exp2 ftz (.fin (k < 0) k.natAbs 0) = f32.mark [] (f32.round .rne ftz false 1 k false) := by
  rw [sfuVal_fin .exp2 ftz _ _ _ (by omega)]
  have hexp : (if (decide (k < 0)) = true then -((k.natAbs : Int) * 2 ^ (0 : Int).toNat) else (k.natAbs : Int) * 2 ^ (0 : Int).toNat) = k := by
    simp only [Int.toNat_zero, Int.pow_zero, Int.mul_one, decide_eq_true_eq]
    split <;> omega
  simp only [sfuFin, exp2Fin, le_refl, decide_true, Bool.true_or, if_true]
  rw [hexp]

/-- 2^k of the normal range is its own pattern (R133). -/
theorem exp2_normal (ftz : Bool) (k : Int) (h0 : -126 ≤ k) (h1 : k ≤ 127) (x : Nat) (hx : x < 2 ^ 32)
    (hval : f32.val false x = .fin false (2 ^ 23) (k - 23)) : sfuVal .exp2 ftz (.fin (k < 0) k.natAbs 0) = { bits := x, cls := 0 } := by
  obtain ⟨ex, hex⟩ : ∃ ex : Nat, k + 127 = ex := ⟨_, (Int.toNat_of_nonneg (by omega)).symm⟩
  have hbits : x = ex * 2 ^ 23 := by
    obtain ⟨hsign, -, -, -, hform⟩ := f32_val_fin x false (2 ^ 23) (k - 23) hval
    rw [Nat.testBit_eq_decide_div_mod_eq, eq_comm, decide_eq_false_iff_not] at hsign
    omega
  by_cases hk : k = 0
  · rw [hk]
    have : ex = 127 := by omega
    rw [hbits, this]
    exact sfuVal_zero .exp2 ftz false 0
  · have hv : f32.val false (f32.sign false + ex * 2 ^ 23 + 0) = _ := f32_val_normal false ex 0 (by omega) (by omega) (by decide)
    rw [exp2_whole ftz k hk, round_power ftz k h0 h1, hex, Int.toNat_natCast, hbits]
    rw [f32_sign, if_neg Bool.false_ne_true, Nat.zero_add, Nat.add_zero] at hv
    exact mark_finite _ _ _ _ hv

/-- 2^-k of the subnormal range (R80, R133). -/
theorem exp2_subnormal (ftz : Bool) (k : Nat) (h0 : 127 ≤ k) (h1 : k ≤ 149) : sfuVal .exp2 ftz (.fin true k 0) =
    if ftz then { bits := 0, cls := 0x18 } else { bits := 2 ^ (149 - k), cls := 0 } := by
  have hneg : (decide (-(k : Int) < 0)) = true := by simp; omega
  have hw := exp2_whole ftz (-k) (by omega)
  rw [hneg, Int.natAbs_neg, Int.natAbs_natCast] at hw
  rw [hw, round_subnormal_power ftz k h0 h1]
  have hlow : 2 ^ (149 - k) < 2 ^ 23 := Nat.pow_lt_pow_right (by decide) (by omega)
  have hv := f32_val_subnormal false (2 ^ (149 - k)) hlow
  rw [f32_sign, if_neg Bool.false_ne_true, Nat.zero_add] at hv
  cases ftz with
  | true => exact mark_finite _ _ _ _ (f32_val_subnormal false 0 (by decide))
  | false => exact mark_finite _ _ _ _ hv

theorem mark_overflow : f32.mark [] { bits := 0x7F800000, cls := 0x14 } = { bits := 0x7F800000, cls := 0x54 } := by decide

/-- A number of at least 128 with a negative exponent has at least 128 in its whole part. -/
theorem whole_of_num (m : Nat) (e : Int) (h : (128 : ℚ) ≤ num false m e) (he : e < 0) : 128 * 2 ^ (-e).toNat ≤ m := by
  obtain ⟨k, hk⟩ : ∃ k : Nat, -e = k := ⟨_, (Int.toNat_of_nonneg (by omega)).symm⟩
  have hr : (128 : ℝ) ≤ m * 2 ^ e := by
    have := (Rat.cast_le (K := ℝ)).mpr h
    rw [num_cast] at this
    simpa using this
  rw [hk, Int.toNat_natCast]
  have hpow : (2 : ℝ) ^ k * 2 ^ e = 1 := by rw [← zpow_shift (k := k) (a := 0) (by omega), zpow_zero]
  have hpos := zpow_two_pos e
  have : (128 * 2 ^ k : ℝ) ≤ m := by
    have h2 : (0 : ℝ) < 2 ^ k := by positivity
    calc (128 * 2 ^ k : ℝ) ≤ m * 2 ^ e * 2 ^ k := by gcongr
      _ = m := by rw [mul_assoc, mul_comm _ ((2 : ℝ) ^ k), hpow, mul_one]
  exact_mod_cast this

/-- A number of at least 128 is that in fixed point. -/
theorem fixed_of_whole (m : Nat) (e : Int) (he : e < 0) (h : 128 * 2 ^ (-e).toNat ≤ m) : 128 * one ≤ toFix m e := by
  unfold toFix one
  generalize fixBits = F
  rcases Nat.le_total (-e).toNat F with hle | hle
  · have hsum : F = (-e).toNat + (e + F).toNat := by omega
    calc 128 * 2 ^ F = 128 * 2 ^ (-e).toNat * 2 ^ (e + F).toNat := by rw [Nat.mul_assoc, ← Nat.pow_add, ← hsum]
      _ ≤ m * 2 ^ (e + F).toNat := Nat.mul_le_mul_right _ h
  · calc 128 * 2 ^ F ≤ 128 * 2 ^ (-e).toNat := Nat.mul_le_mul_left _ (Nat.pow_le_pow_right (by decide) hle)
      _ ≤ m := h
      _ ≤ m * 2 ^ (e + F).toNat := Nat.le_mul_of_pos_right _ (Nat.two_pow_pos _)

/-- 2^x of a number of at least 128 overflows (R82, R133). -/
theorem exp2_overflow (ftz : Bool) (m : Nat) (e : Int) (hm : m ≠ 0) (h : (128 : ℚ) ≤ num false m e) :
    sfuVal .exp2 ftz (.fin false m e) = { bits := 0x7F800000, cls := 0x54 } := by
  rw [sfuVal_fin .exp2 ftz false m e hm, ← mark_overflow]
  congr 1
  have hpower (k : Int) (hk : 128 ≤ k) : f32.round .rne ftz false 1 k false = { bits := 0x7F800000, cls := 0x14 } :=
    round_overflow ftz (magnitude_one k) (by gcongr; norm_num)
  simp only [sfuFin, exp2Fin, Bool.false_eq_true, if_false]
  split
  next hwhole =>
    refine hpower _ ?_
    split
    next he =>
      obtain ⟨k, rfl⟩ := Int.eq_ofNat_of_zero_le he
      have hr := (Rat.cast_le (K := ℝ)).mpr h
      rw [num_cast, zpow_natCast] at hr
      simp only [Bool.false_eq_true, if_false, Int.cast_natCast, Rat.cast_ofNat] at hr
      rw [Int.toNat_natCast]
      exact_mod_cast hr
    next he =>
      have hle := whole_of_num m e h (by omega)
      have := (Nat.le_div_iff_mul_le (Nat.two_pow_pos _)).mpr hle
      exact_mod_cast this
  next hpart =>
    have he : e < 0 := by
      by_contra hge
      simp [not_lt.mp hge] at hpart
    refine round_exp_overflow ftz _ _ ((Nat.le_div_iff_mul_le fixedOne_pos).mpr ?_)
    exact fixed_of_whole m e he (whole_of_num m e h he)

/-! ### Logarithms of powers of 2 -/

/-- A whole number of at most 24 bits is its own pattern, with no class (R79). -/
theorem round_whole (ftz neg : Bool) (m : Nat) (h0 : 0 < m) (h1 : m < 2 ^ 24) : ∃ (m' : Nat) (e' : Int),
    f32.val false (f32.round .rne ftz neg m 0 false).bits = .fin neg m' e' ∧ (m' : ℝ) * 2 ^ e' = m ∧ (f32.round .rne ftz neg m 0 false).cls = 0 := by
  have hlen : bitLen m ≤ 24 := by
    by_contra hgt
    have hle := two_pow_le_of_bitLen h0
    have := Nat.pow_le_pow_right (by decide : 0 < 2) (by omega : 24 ≤ bitLen m - 1)
    omega
  have hlen0 : 1 ≤ bitLen m := by rw [bitLen_pos h0]; omega
  have hmag : Magnitude m 0 false m := ⟨h0, by simp, by simp, by simp, nofun⟩
  have hlp : lastPlace m 0 ≤ 0 ∧ lastPlace m 0 ≠ -149 := by unfold lastPlace; omega
  have hmin := (hmag.roundedTo_le neg).2 hlp.2
  have hno := hmag.no_overflow neg (by calc (m : ℝ) < 2 ^ 24 := by exact_mod_cast h1
                                         _ < 2 ^ (127 : Int) := by norm_num)
  have hexact : (roundedTo neg m 0 false).2 = false := by rw [roundedTo, if_pos hlp.1]
  obtain ⟨c, -, hc, heq⟩ := f32_round ftz neg m 0 false h0
  obtain ⟨c', -, hc', heq'⟩ := f32_round false neg m 0 false h0
  dsimp only at heq heq'
  rw [if_neg hmin.not_gt, hc hexact] at heq
  rw [if_neg hmin.not_gt, hc' hexact, ← heq] at heq'
  rw [heq'] at hno
  obtain ⟨m', e', hval, hnum, -⟩ := hmag.pattern neg (by rw [heq']; exact hno)
  obtain ⟨hnear, -⟩ := hmag.nearest neg m 0 (by exact_mod_cast h1) (by decide)
  rw [heq'] at hval
  refine ⟨m', e', hval, ?_, ?_⟩
  · rw [hnum]
    rw [Int.cast_natCast, zpow_zero, mul_one, sub_self, abs_zero] at hnear
    exact (sub_eq_zero.mp (abs_nonpos_iff.mp hnear)).symm
  · rw [heq] at hno ⊢
    by_cases hover : 255 ≤ lastPlace m 0 + 150 + if (roundedTo neg m 0 false).1 = 2 ^ 24 then 1 else 0
    · rw [if_pos hover] at hno
      exact absurd hno (show ¬0x14 &&& 4 = 0 by decide)
    · rw [if_neg hover]

theorem log2_power (ftz : Bool) (k : Int) (h0 : -126 ≤ k) (h1 : k ≤ 127) :
    (sfuVal .log2 ftz (.fin false (2 ^ 23) (k - 23))).cls = 0 ∧ IsNum f32 (sfuVal .log2 ftz (.fin false (2 ^ 23) (k - 23))).bits k := by
  have hlog : sfuFin .log2 ftz false (2 ^ 23) (k - 23) = f32.round .rne ftz (k < 0) k.natAbs 0 false := by
    have hlen : bitLen (2 ^ 23) = 24 := by decide
    have hexp : k - 23 + ((24 - 1 : Nat) : Int) = k := by omega
    simp only [sfuFin, log2Fin, hlen, hexp, Bool.false_eq_true, if_false, if_true, FCfg.put, ofInt]
  rw [sfuVal_fin .log2 ftz false (2 ^ 23) (k - 23) (by decide), hlog]
  by_cases hk : k = 0
  · have hzero : f32.round .rne ftz (decide (k < 0)) k.natAbs 0 false = { bits := 0, cls := 0 } := by rw [hk]; rfl
    have hval := f32_val_subnormal false 0 (by decide)
    rw [hzero, mark_finite _ _ _ _ hval]
    exact ⟨rfl, false, 0, -149, hval, by rw [hk]; simp [num]⟩
  · obtain ⟨m', e', hval, hnum, hcls⟩ := round_whole ftz (k < 0) k.natAbs (by omega) (by omega)
    rw [mark_finite _ _ _ _ hval]
    refine ⟨hcls, decide (k < 0), m', e', hval, Rat.cast_injective (α := ℝ) ?_⟩
    have hsign : (k : ℝ) = (if decide (k < 0) = true then -1 else 1) * (k.natAbs : ℝ) := by
      simp only [decide_eq_true_eq]
      split
      next hneg => rw [Nat.cast_natAbs, abs_of_neg hneg]; push_cast; ring
      next hpos => rw [Nat.cast_natAbs, abs_of_nonneg (not_lt.mp hpos), one_mul]
    rw [num_cast, Rat.cast_intCast, hsign, ← hnum]
    split <;> push_cast <;> ring

theorem reciprocalsAndRootsAreCorrect : ReciprocalsAndRootsAreCorrect := by
  unfold ReciprocalsAndRootsAreCorrect
  intro n m e h0 h1 he0 he1
  exact ⟨rcp_rounded n m e h0, sqrt_nearest m e h0 h1 he0 he1, rsq_nearest m e h0 h1 he0 he1⟩

theorem sfuSpecialInputs : SfuSpecialInputs := by
  unfold SfuSpecialInputs
  intro ftz n e m hm zero less inf sgn
  have hz (fn : SfuFn) := sfuVal_zero fn ftz n e
  have hi (fn : SfuFn) (b : Bool) := sfuVal_inf fn ftz b
  have hl (fn : SfuFn) (h : fn = .rsq ∨ fn = .sqrt ∨ fn = .log2) : sfuVal fn ftz less = { bits := 0x7FC00000, cls := 0x21 } := by
    rw [← mark_invalid, sfuVal_fin fn ftz true m e hm]
    rcases h with rfl | rfl | rfl <;> rfl
  refine ⟨hz .rcp, hi .rcp n, hz .rsq, hl .rsq (.inl rfl), hi .rsq true, hi .rsq false, hz .sqrt, hl .sqrt (.inr (.inl rfl)), hi .sqrt true,
    hi .sqrt false, hz .exp2, hi .exp2 true, hi .exp2 false, hz .log2, hl .log2 (.inr (.inr rfl)), hi .log2 true, hi .log2 false, hz .sin, hi .sin n,
    hz .cos, hi .cos n, hz .tanh, hi .tanh n, hz .sigm, hi .sigm false, hi .sigm true, fun k h0 h1 x hx hval => ?_, fun k h0 h1 => ?_, fun h => ?_⟩
  · exact ⟨exp2_normal ftz k h0 h1 x hx hval, log2_power ftz k h0 h1⟩
  · exact exp2_subnormal ftz k h0 h1
  · exact exp2_overflow ftz m e hm h

/-- Settles O40: the special functions at issue and on arrival, their special inputs, and the correctly rounded ones. -/
theorem specialFunctions : Obligations.SpecialFunctions :=
  ⟨sfuIssue, sfuResultArrives, sfuSpecialInputs, reciprocalsAndRootsAreCorrect⟩

end Sys2Proof.Proofs
end

section
/-! SUPPORT. What the steps of RESUME leave alone (R356): the mailboxes, the packs, the entries of the matching stores, and, of the records of the
contexts, the state, the map and the save image. -/

open Sys2Proof.Claims

namespace Sys2Proof.Machine

/-- A context's record keeps its state, its map, its registers and its save image; what has arrived may grow, but not while it runs. -/
structure Ctx.Keeps (x y : Ctx) : Prop where
  st : y.st = x.st
  cores : y.cores = x.cores
  save : y.save = x.save
  restore : y.restore = x.restore
  r : y.r = x.r
  arrivals : x.st = .running → y.arrivals = x.arrivals

theorem Ctx.Keeps.refl (x : Ctx) : x.Keeps x := ⟨rfl, rfl, rfl, rfl, rfl, fun _ => rfl⟩

theorem Ctx.Keeps.trans {x y z : Ctx} (h : x.Keeps y) (k : y.Keeps z) : x.Keeps z :=
  ⟨k.st.trans h.st, k.cores.trans h.cores, k.save.trans h.save, k.restore.trans h.restore, k.r.trans h.r,
    fun hr => (k.arrivals (h.st.trans hr)).trans (h.arrivals hr)⟩

/-- What the host sees of the commands: the mailboxes and the interrupts. -/
def State.post (s : State) : List Mbox × List (Nat × Nat) := (s.io.mbox, s.io.msix)

/-- The mailboxes and the interrupts stay, and so does what RESUME reads of the contexts. -/
structure Calm (s t : State) : Prop where
  post : t.post = s.post
  ctx : ∀ n x, s.ctx n = some x → ∃ y, t.ctx n = some y ∧ x.Keeps y

theorem Calm.refl (s : State) : Calm s s := ⟨rfl, fun _ x h => ⟨x, h, .refl x⟩⟩

theorem Calm.trans {s t u : State} (h : Calm s t) (k : Calm t u) : Calm s u := by
  refine ⟨k.post.trans h.post, fun n x hx => ?_⟩
  obtain ⟨y, hy, hxy⟩ := h.ctx n x hx
  obtain ⟨z, hz, hyz⟩ := k.ctx n y hy
  exact ⟨z, hz, hxy.trans hyz⟩

/-- The packs and the entries of the matching stores stay too. -/
structure Still (s t : State) : Prop extends Calm s t where
  packs : ∀ k, (t.core k).packs = (s.core k).packs
  entries : ∀ k, (t.core k).entries = (s.core k).entries

/-- Changing every core keeps what the change keeps of a core. -/
theorem State.field_core_map {α : Type} (s : State) (f : Core → Core) (g : Core → α) (hg : ∀ k, g (f k) = g k) (c : Nat) :
    g (({ s with cores := s.cores.map fun e => (e.1, f e.2) } : State).core c) = g (s.core c) := by
  have hc : Tbl.find c (s.cores.map fun e => (e.1, f e.2)) = (Tbl.find c s.cores).map f := Tbl.find_map (fun _ => f) s.cores c
  rw [State.core, State.core]
  dsimp only
  rw [hc]
  cases Tbl.find c s.cores with
  | none => rfl
  | some k => exact hg k

namespace Still

theorem trans {s t u : State} (h : Still s t) (k : Still t u) : Still s u :=
  ⟨h.toCalm.trans k.toCalm, fun c => (k.packs c).trans (h.packs c), fun c => (k.entries c).trans (h.entries c)⟩

theorem of_same {s t : State} (hc : t.cores = s.cores) (hx : t.ctxs = s.ctxs) (hp : t.post = s.post) : Still s t :=
  ⟨⟨hp, fun n x h => ⟨x, by rwa [State.ctx_congr hx], .refl x⟩⟩, fun k => by rw [State.core_congr hc], fun k => by rw [State.core_congr hc]⟩

theorem refl (s : State) : Still s s := of_same rfl rfl rfl

theorem memoryOnly {s t : State} (h : MemoryOnly s t) : Still s t := by
  obtain ⟨m, ep, rfl⟩ := h
  exact of_same rfl rfl rfl

theorem setCore (s : State) (c : Nat) (k : Core) (hp : k.packs = (s.core c).packs) (he : k.entries = (s.core c).entries) : Still s (s.setCore c k) := by
  refine ⟨⟨rfl, fun n x h => ⟨x, h, .refl x⟩⟩, fun d => ?_, fun d => ?_⟩ <;>
    · rw [State.core_setCore]
      split
      next h => subst h; assumption
      next => rfl

theorem modCore (s : State) (c : Nat) (f : Core → Core) (hp : ∀ k, (f k).packs = k.packs) (he : ∀ k, (f k).entries = k.entries) :
    Still s (s.modCore c f) := setCore s c _ (hp _) (he _)

theorem modCtx (s : State) (n : Nat) (f : Ctx → Ctx) (hf : ∀ x, s.ctx n = some x → x.Keeps (f x)) : Still s (s.modCtx n f) := by
  refine ⟨⟨rfl, fun m x h => ?_⟩, fun _ => rfl, fun _ => rfl⟩
  by_cases hm : m = n
  · subst hm
    exact ⟨f x, by rw [State.ctx_modCtx, if_pos rfl, h]; rfl, hf x h⟩
  · exact ⟨x, by rw [State.ctx_modCtx, if_neg hm, h], .refl x⟩

theorem mapCores (s : State) (f : Core → Core) (hp : ∀ k, (f k).packs = k.packs) (he : ∀ k, (f k).entries = k.entries) :
    Still s { s with cores := s.cores.map fun e => (e.1, f e.2) } :=
  ⟨⟨rfl, fun _ x h => ⟨x, h, .refl x⟩⟩, s.field_core_map f Core.packs hp, s.field_core_map f Core.entries he⟩

theorem foldl {α : Type} (f : State → α → State) (hf : ∀ t a, Still t (f t a)) (l : List α) (s : State) : Still s (l.foldl f s) := by
  induction l generalizing s with
  | nil => exact refl s
  | cons a l ih => exact (hf s a).trans (ih _)

/-- Placing a list of tokens keeps what placing each one does (R217, R231). -/
theorem placeList (place : State → Tok → Option State) (h : ∀ t k u, place t k = some u → Still t u) (s : State) (ts : List Tok) :
    Still s (s.placeList place ts).1 := by
  have main (a : State × List Tok) : Still a.1 (ts.foldl (fun (a : State × List Tok) t =>
      if a.2.any fun u => t.follows u then (a.1, a.2 ++ [t])
      else match place a.1 t with
        | some u => (u, a.2)
        | none => (a.1, a.2 ++ [t])) a).1 := by
    induction ts generalizing a with
    | nil => exact refl a.1
    | cons t ts ih =>
      rw [List.foldl_cons]
      refine trans ?_ (ih _)
      split
      · exact refl a.1
      · split
        next u hu => exact h _ _ _ hu
        next => exact refl a.1
  exact main (s, [])

end Still

/-! ### Tokens that are placed -/

theorem State.arrive_still (s : State) (core : Nat) (t : Tok) : Still s (s.arrive core t) := .modCore _ _ _ (fun _ => rfl) fun _ => rfl

theorem State.toInbox_still (s : State) (t : Tok) : Still s (s.toInbox t) := by
  unfold State.toInbox
  split
  · exact .refl s
  · split
    · exact .modCtx _ _ _ fun x _ => ⟨rfl, rfl, rfl, rfl, rfl, fun _ => rfl⟩
    · exact .of_same rfl rfl rfl

theorem State.sendPkt_still (s : State) (q : Pkt) : Still s (s.sendPkt q) := by
  unfold State.sendPkt
  split <;> exact .of_same rfl rfl rfl

theorem State.sendToken_still (s : State) (l : Launch) (node : Nat) (t : Tok) : Still s (s.sendToken l node t) :=
  have hl (f : Launch → Launch) : Still s ({ s with launches := s.launches.map f } : State) := .of_same rfl rfl rfl
  (hl _).trans (State.sendPkt_still _ _)

theorem State.placeLocal_still (s : State) (x : Ctx) (b : Block) (t : Tok) : Still s (s.placeLocal x b t) := by
  unfold State.placeLocal
  split
  · exact .foldl _ (fun u c => u.arrive_still c t) _ _
  · exact s.arrive_still _ _

theorem State.raiseAtUnit_still (s : State) (unit ctx : Nat) (pay : List Word) : Still s (s.raiseAtUnit unit ctx pay) := by
  unfold State.raiseAtUnit
  split
  · exact .refl s
  next x _ =>
    have hu : Still s (s.unitTok x unit ctx pay).1 := .of_same rfl rfl rfl
    dsimp only
    split
    · exact hu.trans (State.toInbox_still _ _)
    · split
      · split
        · exact hu.trans (State.placeLocal_still _ _ _ _)
        · exact hu
      · exact hu

theorem State.unitSlot_still (s u : State) (t : Tok) (h : s.unitSlot t = .error u) : Still s u := by
  unfold State.unitSlot at h
  split at h
  · cases h; exact s.raiseAtUnit_still _ _ _
  · split at h
    · cases h; exact s.raiseAtUnit_still _ _ _
    · cases h

theorem State.tryPlace_still (x : Ctx) (s : State) (t : Tok) (u : State) (h : s.tryPlace x t = some u) : Still s u := by
  unfold State.tryPlace at h
  dsimp only at h
  split at h
  · split at h
    · cases h; exact s.sendToken_still _ _ _
    · cases h; exact s.toInbox_still t
  · split at h
    next hs1 => cases h; exact s.unitSlot_still _ t hs1
    next b _ =>
      split at h
      · cases h; exact s.sendToken_still _ _ _
      · split at h
        · cases h; exact s.placeLocal_still _ _ _
        · cases h

/-- A token kept for a context that is pre-empted leaves the contexts that run as they are (R355). -/
theorem State.divert_still (s : State) (t : Tok) (u : State) (h : s.divert t = some u) : Still s u := by
  unfold State.divert at h
  split at h
  · cases h; exact .refl s
  next x hx =>
    have hkeep (hr : x.st ≠ .running) : Still s ((s.growArea t.ctx x).modCtx t.ctx fun y => { y with arrivals := y.arrivals ++ [t] }) := by
      have hstep (v : State) (y : Ctx) (hy : v.ctx t.ctx = some y) (hst : y.st = x.st) :
          Still v (v.modCtx t.ctx fun y => { y with arrivals := y.arrivals ++ [t] }) :=
        .modCtx _ _ _ fun z hz => ⟨rfl, rfl, rfl, rfl, rfl, fun hzr => absurd (by rw [← hst, ← hzr]; rw [hy] at hz; cases hz; rfl) hr⟩
      have hgrow : Still s (s.growArea t.ctx x) := by
        unfold State.growArea
        split
        · exact Still.trans (t := ({ s with part := { s.part with small := s.part.small ++ s.smallFrame.toList } } : State))
            (.of_same rfl rfl rfl) (.modCtx _ _ _ fun y _ => ⟨rfl, rfl, rfl, rfl, rfl, fun _ => rfl⟩)
        · exact .refl s
      obtain ⟨y, hy, hk⟩ := hgrow.ctx _ x hx
      exact hgrow.trans (hstep _ y hy hk.st)
    split at h
    next hst => cases h; exact hkeep (by rw [hst]; nofun)
    next hst => cases h; exact hkeep (by rw [hst]; nofun)
    next => cases h; exact .modCtx _ _ _ fun y _ => ⟨rfl, rfl, rfl, rfl, rfl, fun _ => rfl⟩
    next => cases h

theorem State.admitTok_still (s : State) (t : Tok) (u : State) (h : s.admitTok t = some u) : Still s u := by
  unfold State.admitTok at h
  split at h
  · cases h
  · split at h
    next hd => cases h; exact s.divert_still t _ hd
    next => exact State.tryPlace_still _ _ _ _ h
    next => cases h; exact .refl s

theorem State.admitHost_still (s : State) : Still s s.admitHost := by
  unfold State.admitHost
  refine Still.trans (t := ({ s with io := { s.io with hwait := [] } } : State)) (.of_same rfl rfl rfl) ?_
  exact (Still.placeList _ State.admitTok_still _ _).trans (.of_same rfl rfl rfl)

/-! ### Cores settled after a discard (R229 to R231) -/

theorem State.refill_still (s : State) (core vc : Nat) : Still s (s.refill core vc) := by
  unfold State.refill
  split
  · exact .refl s
  next e _ =>
    dsimp only
    split
    · exact .refl s
    · have hput (l : List (Tok × Nat)) : Still s (s.modCore core fun c => { c with intake := c.intake.put vc l }) := .modCore _ _ _ (fun _ => rfl) fun _ => rfl
      exact (hput _).trans (.of_same rfl rfl rfl)

theorem State.refillAll_still (s : State) (core : Nat) : Still s (s.refillAll core) := by
  unfold State.refillAll
  exact .foldl _ (fun t _ => .foldl _ (fun u vc => u.refill_still core vc) _ t) _ s

theorem State.signalSpill_still (s : State) (core : Nat) : Still s (s.signalSpill core) := .of_same rfl rfl rfl

theorem State.refillCores_still (s : State) : Still s s.refillCores := by
  unfold State.refillCores
  refine Still.trans (Still.foldl _ (fun t e => ?_) s.cores s) (State.admitHost_still _)
  exact (t.signalSpill_still e.1).trans (State.refillAll_still _ e.1)

/-! ### Fault tokens, records and requests -/

@[simp] theorem Core.pumpRaised_packs (c : Core) : c.pumpRaised.packs = c.packs := rfl
@[simp] theorem Core.pumpRaised_entries (c : Core) : c.pumpRaised.entries = c.entries := rfl

theorem State.raiseAtCore_still (s : State) (core ctx : Nat) (trap : Bool) (pay : List Word) (bearing : DWord) (serial : Nat) :
    Still s (s.raiseAtCore core ctx trap pay bearing serial) := by
  unfold State.raiseAtCore
  split
  · exact .refl s
  · exact .modCore _ _ _ (fun _ => rfl) fun _ => rfl

theorem State.installWake_still (s : State) (core : Nat) (w : Wake) : Still s (s.installWake core w) := by
  unfold State.installWake
  have hput (n : Nat) : Still s (s.modCore core fun c => { c with wake := c.wake.put n w }) := .modCore _ _ _ (fun _ => rfl) fun _ => rfl
  dsimp only
  split
  · exact (hput _).trans (State.raiseAtCore_still _ _ _ _ _ _ _)
  · exact hput _

theorem State.copyFaultTok_still (s : State) (core n : Nat) (q : Copy) : Still s (s.copyFaultTok core n q) := by
  unfold State.copyFaultTok
  split
  · exact .refl s
  · exact State.raiseAtCore_still _ _ _ _ _ _ _

theorem State.installCopy_still (s : State) (core home : Nat) (q : Copy) : Still s (s.installCopy core home q) := by
  unfold State.installCopy
  have hput (n : Nat) (q : Copy) : Still s (s.modCore home fun c => { c with copies := c.copies.put n q }) := .modCore _ _ _ (fun _ => rfl) fun _ => rfl
  dsimp only
  split
  · exact (hput _ _).trans (State.copyFaultTok_still _ _ _ _)
  · exact hput _ _

theorem State.addGhost_still (s : State) (core : Nat) (g : Ghost) (u : State) (h : s.addGhost core g = some u) : Still s u := by
  unfold State.addGhost at h
  split at h
  · cases h; exact .refl s
  · obtain ⟨a, -, rfl⟩ := Option.map_eq_some_iff.mp h
    exact .modCore _ _ _ (fun _ => rfl) fun _ => rfl

theorem State.recloses_still (s : State) (ctx : Nat) (x : Ctx) (k : Nat × Nat) : Still s (s.recloses ctx x k) := by
  unfold State.recloses
  split
  · exact .refl s
  · refine .foldl _ (fun t c => .modCore _ _ _ (fun q => ?_) fun q => ?_) _ _ <;> split <;> rfl

theorem State.newSerial_still (s : State) (core : Nat) : Still s (s.newSerial core).1 := .setCore _ _ _ rfl rfl


theorem State.rename_still (a : State × List Ren) (oc os nc : Nat) : Still a.1 (State.rename a oc os nc).1 := a.1.newSerial_still nc

theorem State.renames_still (s : State) (v : Save) (new : List Nat) : Still s (s.renames v new).1 := by
  have fold {α : Type} (f : State × List Ren → α → State × List Ren) (hf : ∀ a e, Still a.1 (f a e).1) (l : List α) (a : State × List Ren) :
      Still a.1 (l.foldl f a).1 := by
    induction l generalizing a with
    | nil => exact .refl a.1
    | cons e l ih => exact (hf a e).trans (ih _)
  unfold State.renames
  dsimp only
  refine Still.trans (fold _ (fun a q => State.rename_still a _ _ _) v.packs (s, [])) (fold _ (fun a e => ?_) _ _)
  split
  · exact .refl a.1
  · exact State.rename_still a _ _ _

theorem State.addGhosts_still (s : State) (v : Save) (new : List Nat) (rs : List Ren) (u : State) (h : s.addGhosts v new rs = some u) : Still s u := by
  unfold State.addGhosts at h
  generalize v.ghosts = gs at h
  induction gs generalizing s with
  | nil => cases h; exact .refl _
  | cons g gs ih =>
    rw [List.foldl_cons, Option.bind_some] at h
    cases hg : s.addGhost (recCore v new rs g.1 g.2.serial) { g.2 with serial := reSerial rs g.1 g.2.serial } with
    | none =>
      rw [hg, List.foldl_fixed' (fun _ => rfl)] at h
      cases h
    | some t =>
      rw [hg] at h
      exact (State.addGhost_still _ _ _ _ hg).trans (ih t h)

/-! ### The map (R28, R356) -/

theorem State.moveConsts_still (s : State) (ctx : Nat) (old : List Nat) (x : Ctx) : Still s (s.moveConsts ctx old x) := by
  unfold State.moveConsts
  dsimp only
  refine Still.trans (Still.foldl _ (fun t c => ?_) old s) (Still.foldl _ (fun t c => ?_) x.cores _) <;>
    exact .modCore _ _ _ (fun _ => rfl) fun _ => rfl

theorem State.dropL1_still (s : State) (f : L1Line → Bool) : Still s (s.dropL1 f) :=
  .mapCores s (fun k => { k with l1 := k.l1.filter fun l => !f l }) (fun _ => rfl) fun _ => rfl

theorem State.flushRange_still (s : State) (asid va len : Nat) : Still s (s.flushRange asid va len) := by
  unfold State.flushRange
  extract_lets hit s1 m s2 s3 left clean
  have h1 : Still s s1 := .memoryOnly (.foldl _ (fun t l => t.writeBack_memoryOnly l _) _ s)
  have h2 : Still s1 s2 := .of_same rfl rfl rfl
  exact (h1.trans h2).trans ((s2.dropL1_still _).trans
    (.mapCores s3 (fun k => { k with flights := k.flights.map clean }) (fun _ => rfl) fun _ => rfl))

theorem State.trapUnmap_still (s : State) (x : Ctx) (core : Nat) : Still s (s.trapUnmap x core) := by
  unfold State.trapUnmap
  split
  next at_ v big _ =>
    have hset (t : State) (pa n : Nat) : Still t (t.setEntry64 pa n) := .of_same rfl rfl rfl
    have hown (t : State) (f : Nat) : Still t (t.ownUnmap f) := .of_same rfl rfl rfl
    have hdrop (t : State) (asid va n : Nat) : Still t (t.dropTc asid va n) := .of_same rfl rfl rfl
    refine Still.trans ?_ (hdrop _ _ _ _)
    refine Still.trans ?_ (Still.foldl _ (fun t f => hown t f) _ _)
    exact (s.flushRange_still _ _ _).trans (hset _ _ _)
  next => exact .refl s

/-- Where the new map names no other core, no trap-area slot is mapped (R307, R356). -/
theorem State.trapArea_still (s : State) (x : Ctx) (new pages : List Nat) (hnew : ∀ k ∈ new, k ∈ x.cores) : Still s (s.trapArea x new pages) := by
  have hf : (new.filter fun c => !x.cores.contains c) = [] := by
    rw [List.filter_eq_nil_iff]
    intro k hk
    simpa using hnew k hk
  unfold State.trapArea
  rw [hf]
  exact .foldl _ (fun t c => t.trapUnmap_still x c) _ s

/-! ### The steps of RESUME (R356) -/

/-- The image of a context holds other tokens. -/
def State.keepTokens (s : State) (n : Nat) (ts : List Tok) : State :=
  s.modCtx n fun y => { y with save := y.save.map fun w => { w with tokens := ts } }

/-- What is left of a save image once its entries, tokens and requests are under way: the copies that wait for their packs. -/
def Save.left (v : Save) (new : List Nat) (rs : List Ren) : Save :=
  { v with entries := [], closed := [], tokens := [], outbound := [], spawns := [], wakes := [], packs := [], ghosts := [], misses := []
           copies := (v.copies.filter v.waits).map fun e =>
             (recCore v new rs e.1 e.2.serial, { e.2 with serial := reSerial rs e.1 e.2.serial, bearing := reBear rs e.2.bearing }) }

/-- Step 1: the map, the constants and the trap area. -/
def State.restoreMap (s : State) (n : Nat) (x : Ctx) (v : Save) (new pages : List Nat) (rs : List Ren) : State :=
  ((s.moveConsts n x.cores { x with cores := new }).trapArea x new pages).modCtx n fun y =>
    { y with st := .restoring, cores := new, arrivals := [], restore := v.packs.map (SavedPack.renamed rs), save := some (v.left new rs) }

/-- Step 2: the entries, with the tokens of those for which there is no room. -/
def State.recreateAll (s : State) (x : Ctx) (es : List Entry) : State × List Tok :=
  es.foldl (fun (a : State × List Tok) e => ((a.1.recreate x e).1, a.2 ++ (a.1.recreate x e).2)) (s, [])

/-- Step 2: the close marks. -/
def State.recloseAll (s : State) (n : Nat) (x : Ctx) (ks : List (Nat × Nat)) : State := ks.foldl (fun (t : State) k => t.recloses n x k) s

/-- Steps 4 and 5: the queued tokens and requests, the records of stores and copies, and the settle marks. -/
def State.restoreQueues (s : State) (n : Nat) (v : Save) (new : List Nat) (rs : List Ren) : State :=
  let s5 := v.outbound.foldl (fun (t : State) e =>
    t.modCore (newCore v.cores new e.1) fun c =>
      ({ c with raised := c.raised ++ [{ e.2 with serial := outSerial rs e.1 e.2.serial }] } : Core).pumpRaised) s
  let s6 := v.spawns.foldl (fun (t : State) e => t.modCore (newCore v.cores new e.1) fun c =>
    ({ c with spawned := c.spawned ++ [{ e.2 with serial := outSerial rs e.1 e.2.serial }] } : Core).pumpAlloc) s5
  let s7 := (v.records new rs).1.foldl (fun (t : State) e => t.installWake e.1 e.2) s6
  let s8 := (v.records new rs).2.foldl (fun (t : State) e => t.installCopy e.1 e.2.1 e.2.2) s7
  { s8 with launches := s8.launches.map fun l => if l.ctx = n then { l with marks := [] } else l }

/-- The state of steps 1 to 5. -/
def State.restored (s : State) (n : Nat) (x : Ctx) (v : Save) (new pages : List Nat) (rs : List Ren) : State :=
  let e := (s.restoreMap n x v new pages rs).recreateAll { x with cores := new } v.inOrder
  (((e.1.keepTokens n (e.2 ++ v.tokens ++ x.arrivals)).recloseAll n { x with cores := new } v.closed).placeSaved n).restoreQueues n v new rs

theorem State.restore_eq (s : State) (n : Nat) (x : Ctx) (v : Save) (new pages : List Nat) (rs : List Ren) :
    s.restore n x v new pages rs = (s.restored n x v new pages rs).endRestore n := rfl

/-! ### A context that is being restored -/

/-- A context is being restored on a map: packs that are still to be placed, and its image. -/
def Restoring (t : State) (n port : Nat) (new : List Nat) (packs : List SavedPack) (w : Option Save) : Prop :=
  ∃ y, t.ctx n = some y ∧ y.st = .restoring ∧ y.cores = new ∧ y.restore = packs ∧ y.r.port = port ∧ y.save = w

/-- Nothing of an image waits for a core. -/
def Drained (w : Option Save) : Prop := ∀ v, w = some v → v.tokens = []

theorem Restoring.calm {s t : State} {n port : Nat} {new : List Nat} {packs : List SavedPack} {w : Option Save} (h : Restoring s n port new packs w)
    (k : Calm s t) : Restoring t n port new packs w := by
  obtain ⟨y, hy, hst, hcores, hrestore, hport, hsave⟩ := h
  obtain ⟨z, hz, hyz⟩ := k.ctx n y hy
  exact ⟨z, hz, hyz.st.trans hst, hyz.cores.trans hcores, hyz.restore.trans hrestore, by rw [hyz.r, hport], hyz.save.trans hsave⟩

theorem Restoring.keepTokens {s : State} {n port : Nat} {new : List Nat} {packs : List SavedPack} {w : Option Save} (h : Restoring s n port new packs w)
    (ts : List Tok) : Restoring (s.keepTokens n ts) n port new packs (w.map fun v => { v with tokens := ts }) := by
  obtain ⟨y, hy, hst, hcores, hrestore, hport, rfl⟩ := h
  exact ⟨{ y with save := y.save.map fun v => { v with tokens := ts } }, by rw [State.keepTokens, State.ctx_modCtx, if_pos rfl, hy]; rfl, hst, hcores, hrestore, hport, rfl⟩

/-- The cores and the mailboxes of a state, with what a restored context needs of them. -/
structure Level (s t : State) : Prop where
  post : t.post = s.post
  packs : ∀ k, (t.core k).packs = (s.core k).packs
  entries : ∀ k, (t.core k).entries = (s.core k).entries

theorem Still.level {s t : State} (h : Still s t) : Level s t := ⟨h.post, h.packs, h.entries⟩

theorem Level.trans {s t u : State} (h : Level s t) (k : Level t u) : Level s u :=
  ⟨k.post.trans h.post, fun c => (k.packs c).trans (h.packs c), fun c => (k.entries c).trans (h.entries c)⟩

theorem Level.modCtx (s : State) (n : Nat) (f : Ctx → Ctx) : Level s (s.modCtx n f) := ⟨rfl, fun _ => rfl, fun _ => rfl⟩

/-- Saved tokens are placed as far as their cores accept them; the others stay in the image (R231, R356). -/
theorem State.placeSaved_eq (s : State) (n : Nat) (x : Ctx) (v : Save) (hx : s.ctx n = some x) (hv : x.save = some v) :
    s.placeSaved n = (s.placeList (fun t k => t.tryPlace x k) v.tokens).1.keepTokens n (s.placeList (fun t k => t.tryPlace x k) v.tokens).2 := by
  unfold State.placeSaved
  simp only [hx, hv]
  rfl

theorem State.placeSaved_of_no_save (s : State) (n : Nat) (x : Ctx) (hx : s.ctx n = some x) (hv : x.save = none) : s.placeSaved n = s := by
  unfold State.placeSaved
  simp only [hx, hv]

theorem Restoring.placeSaved {s : State} {n port : Nat} {new : List Nat} {packs : List SavedPack} {w : Option Save} (h : Restoring s n port new packs w) :
    Level s (s.placeSaved n) ∧ ∃ w1, Restoring (s.placeSaved n) n port new packs w1 ∧ (w.isSome → w1.isSome) ∧ (Drained w → Drained w1) := by
  have h0 := h
  obtain ⟨x, hx, -, -, -, -, hw⟩ := h0
  cases w with
  | none =>
    rw [s.placeSaved_of_no_save n x hx hw]
    exact ⟨(Still.refl s).level, none, h, id, id⟩
  | some v =>
    have hs : Still s (s.placeList (fun t k => t.tryPlace x k) v.tokens).1 := .placeList _ (fun t k u => State.tryPlace_still x t k u) s v.tokens
    rw [s.placeSaved_eq n x v hx hw]
    refine ⟨hs.level.trans (Level.modCtx _ _ _), _, (h.calm hs.toCalm).keepTokens _, fun _ => rfl, fun hd w1 hw1 => ?_⟩
    cases hw1
    rw [hd v rfl]
    rfl

/-! ### The end of RESUME -/

/-- A context runs again on its new map, with nothing left of its image (R356 step 7). -/
def Runs (t : State) (n : Nat) (new : List Nat) : Prop :=
  ∃ y, t.ctx n = some y ∧ y.st = .running ∧ y.cores = new ∧ y.arrivals = [] ∧ y.save = none

/-- Pages given up, and other tokens that wait at I/O die 0. -/
def State.freed (t : State) (pages frames : List Nat) (l : List Tok) : State :=
  { (t.dropPages pages).dropFrames frames with io := { t.io with hwait := l } }

theorem State.freed_still (t : State) (pages frames : List Nat) (l : List Tok) : Still t (t.freed pages frames l) := .of_same rfl rfl rfl

/-- The state in which a context runs again, before the cores are settled. -/
def State.awake (s : State) (n : Nat) (x : Ctx) : State :=
  (s.modCtx n fun y => { y with st := .running, arrivals := [], areaPages := [], save := none, restore := [] }).freed x.savedPages x.areaPages
    (x.arrivals ++ s.io.hwait)

theorem State.resumed_eq (s : State) (n : Nat) (x : Ctx) (hx : s.ctx n = some x) : s.resumed n = (s.awake n x).refillCores.mboxEnd x.r.port 0 [] := by
  unfold State.resumed
  simp only [hx]
  rfl

theorem State.ctx_awake (s : State) (n : Nat) (x : Ctx) (hx : s.ctx n = some x) :
    (s.awake n x).ctx n = some { x with st := .running, arrivals := [], areaPages := [], save := none, restore := [] } := by
  have hc : (s.awake n x).ctxs = (s.modCtx n fun y => { y with st := .running, arrivals := [], areaPages := [], save := none, restore := [] }).ctxs := rfl
  rw [State.ctx_congr hc, State.ctx_modCtx, if_pos rfl, hx]
  rfl

theorem State.awake_level (s : State) (n : Nat) (x : Ctx) : Level s (s.awake n x) := (Level.modCtx s n _).trans (State.freed_still _ _ _ _).level

theorem Restoring.resumed {s : State} {n port : Nat} {new : List Nat} {packs : List SavedPack} {w : Option Save} (h : Restoring s n port new packs w) :
    ∃ u, s.resumed n = u.mboxEnd port 0 [] ∧ Level s u ∧ Runs u n new := by
  obtain ⟨x, hx, -, hcores, -, rfl, -⟩ := h
  have hcalm := (s.awake n x).refillCores_still
  obtain ⟨y, hy, hxy⟩ := hcalm.ctx n _ (s.ctx_awake n x hx)
  exact ⟨_, s.resumed_eq n x hx, (s.awake_level n x).trans hcalm.level, y, hy, hxy.st, hxy.cores.trans hcores, hxy.arrivals rfl, hxy.save⟩

theorem Restoring.endRestore_of_left {s : State} {n port : Nat} {new : List Nat} {packs : List SavedPack} {w : Option Save}
    (h : Restoring s n port new packs w) (hl : packs ≠ [] ∨ ¬Drained w) : s.endRestore n = s := by
  obtain ⟨x, hx, -, -, rfl, -, rfl⟩ := h
  unfold State.endRestore
  simp only [hx]
  rw [if_neg]
  intro hdone
  rw [Bool.and_eq_true, List.isEmpty_iff] at hdone
  obtain ⟨hpacks, htoks⟩ := hdone
  rcases hl with hl | hl
  · exact hl hpacks
  · refine hl fun v hv => ?_
    rw [hv] at htoks
    exact List.isEmpty_iff.mp htoks

theorem Restoring.endRestore_eq_resumed {s : State} {n port : Nat} {new : List Nat} {w : Option Save} (h : Restoring s n port new [] w) (hd : Drained w) :
    s.endRestore n = s.resumed n := by
  obtain ⟨x, hx, -, -, hpacks, -, rfl⟩ := h
  unfold State.endRestore
  simp only [hx]
  refine if_pos ?_
  rw [hpacks, List.isEmpty_nil, Bool.true_and]
  cases hs : x.save with
  | none => rfl
  | some v => exact List.isEmpty_iff.mpr (hd v hs)

theorem Restoring.endRestore_of_done {s : State} {n port : Nat} {new : List Nat} {w : Option Save}
    (h : Restoring s n port new [] w) (hd : Drained w) : ∃ u, s.endRestore n = u.mboxEnd port 0 [] ∧ Level s u ∧ Runs u n new := by
  rw [h.endRestore_eq_resumed hd]
  exact h.resumed

/-! ### Steps 1 to 5 -/

/-- The entry of a saved one on its new core, partial and with its port area (R219, R356). -/
def State.freshEntry (s : State) (core : Nat) (b : Block) (e : Entry) : Entry :=
  { e with st := .part, seq := (s.core core).seq, entered := 0
           area := ((s.portArea core (s.classOf e.ctx e.slot e.tag) b.ports).getD 0, b.ports) }

/-- A saved entry for which its core has room is settled there. -/
theorem State.recreate_of_room (s : State) (x : Ctx) (e : Entry) (b : Block) (hb : s.block e.slot = some b)
    (hroom : s.entryRoom (s.placeCore x b (tagIndex e.tag)) e.cls (s.classOf e.ctx e.slot e.tag) b.ports = true) :
    s.recreate x e = ((s.withEntry (s.placeCore x b (tagIndex e.tag)) (s.freshEntry (s.placeCore x b (tagIndex e.tag)) b e)).settle
      (s.placeCore x b (tagIndex e.tag)) b (s.freshEntry (s.placeCore x b (tagIndex e.tag)) b e), []) := by
  unfold State.recreate
  simp only [hb, hroom, if_true]
  rfl

/-- What stands after that: the entry, and the rest of the state. -/
theorem State.settle_freshEntry (s : State) (core : Nat) (b : Block) (e : Entry) :
    Calm s ((s.withEntry core (s.freshEntry core b e)).settle core b (s.freshEntry core b e)) ∧
      ∃ st, HasEntry ((s.withEntry core (s.freshEntry core b e)).settle core b (s.freshEntry core b e)) core (s.freshEntry core b e) st := by
  obtain ⟨⟨-, hio, hctxs, -⟩, st, -, -, he⟩ := State.settle_store _ core b _ (s.entryAt_withEntry core (s.freshEntry core b e))
  refine ⟨⟨?_, fun n x h => ⟨x, ?_, .refl x⟩⟩, st, he⟩
  · rw [State.post, hio]
    rfl
  · rw [State.ctx_congr hctxs]
    exact h

theorem State.recreate_calm (s : State) (x : Ctx) (e : Entry) : Calm s (s.recreate x e).1 := by
  cases hb : s.block e.slot with
  | none =>
    unfold State.recreate
    simp only [hb]
    exact .refl s
  | some b =>
    by_cases hroom : s.entryRoom (s.placeCore x b (tagIndex e.tag)) e.cls (s.classOf e.ctx e.slot e.tag) b.ports = true
    · rw [s.recreate_of_room x e b hb hroom]
      exact (s.settle_freshEntry _ b e).1
    · unfold State.recreate
      simp only [hb, hroom]
      exact .refl s

theorem State.recreateAll_calm (s : State) (x : Ctx) (es : List Entry) : Calm s (s.recreateAll x es).1 := by
  have main (a : State × List Tok) :
      Calm a.1 (es.foldl (fun (a : State × List Tok) e => ((a.1.recreate x e).1, a.2 ++ (a.1.recreate x e).2)) a).1 := by
    induction es generalizing a with
    | nil => exact .refl a.1
    | cons e es ih => exact (a.1.recreate_calm x e).trans (ih ((a.1.recreate x e).1, a.2 ++ (a.1.recreate x e).2))
  exact main (s, [])

theorem State.recloseAll_still (s : State) (n : Nat) (x : Ctx) (ks : List (Nat × Nat)) : Still s (s.recloseAll n x ks) :=
  .foldl _ (fun t k => t.recloses_still n x k) ks s

theorem State.restoreQueues_still (s : State) (n : Nat) (v : Save) (new : List Nat) (rs : List Ren) : Still s (s.restoreQueues n v new rs) := by
  unfold State.restoreQueues
  extract_lets s5 s6 s7 s8
  have h5 : Still s s5 := by
    refine .foldl _ (fun t e => ?_) _ s
    exact .modCore _ _ _ (fun _ => rfl) fun _ => rfl
  have h6 : Still s5 s6 := by
    refine .foldl _ (fun t e => ?_) _ s5
    exact .modCore _ _ _ (fun _ => rfl) fun _ => rfl
  have h7 : Still s6 s7 := .foldl _ (fun t e => t.installWake_still _ _) _ s6
  have h8 : Still s7 s8 := .foldl _ (fun t e => t.installCopy_still _ _ _) _ s7
  exact ((h5.trans h6).trans (h7.trans h8)).trans (.of_same rfl rfl rfl)

section
variable (s : State) (n : Nat) (x y : Ctx) (v : Save) (new pages : List Nat) (rs : List Ren) (hy : s.ctx n = some y) (hnew : ∀ k ∈ new, k ∈ x.cores)
include hy hnew

/-- The map of a context is its new one from step 1 on (R356). -/
theorem State.restoreMap_spec : Level s (s.restoreMap n x v new pages rs) ∧
    Restoring (s.restoreMap n x v new pages rs) n y.r.port new (v.packs.map (SavedPack.renamed rs)) (some (v.left new rs)) := by
  have h : Still s ((s.moveConsts n x.cores { x with cores := new }).trapArea x new pages) :=
    (s.moveConsts_still _ _ _).trans (State.trapArea_still _ x new pages hnew)
  obtain ⟨z, hz, hyz⟩ := h.ctx n y hy
  refine ⟨h.level.trans (Level.modCtx _ _ _),
    { z with st := .restoring, cores := new, arrivals := [], restore := v.packs.map (SavedPack.renamed rs), save := some (v.left new rs) },
    ?_, rfl, rfl, rfl, ?_, rfl⟩
  · rw [State.restoreMap, State.ctx_modCtx, if_pos rfl, hz]
    rfl
  · show z.r.port = _
    rw [hyz.r]

/-- After steps 1 to 5 the packs are still to be placed, and the tokens that no core accepts; the entries are those that step 2 made. -/
theorem State.restored_spec : (s.restored n x v new pages rs).post = s.post ∧
    (∀ k, ((s.restored n x v new pages rs).core k).entries =
      (((s.restoreMap n x v new pages rs).recreateAll { x with cores := new } v.inOrder).1.core k).entries) ∧
    ∃ w, Restoring (s.restored n x v new pages rs) n y.r.port new (v.packs.map (SavedPack.renamed rs)) (some w) ∧
      (v.entries = [] → v.tokens = [] → x.arrivals = [] → w.tokens = []) := by
  obtain ⟨hmap, hr⟩ := s.restoreMap_spec n x y v new pages rs hy hnew
  have he := (s.restoreMap n x v new pages rs).recreateAll_calm { x with cores := new } v.inOrder
  unfold State.restored
  extract_lets e
  have hc : Still (e.1.keepTokens n (e.2 ++ v.tokens ++ x.arrivals)) ((e.1.keepTokens n (e.2 ++ v.tokens ++ x.arrivals)).recloseAll n { x with cores := new } v.closed) :=
    State.recloseAll_still _ _ _ _
  obtain ⟨hplace, w1, hw1, hsome, hdrain⟩ := (((hr.calm he).keepTokens (e.2 ++ v.tokens ++ x.arrivals)).calm hc.toCalm).placeSaved
  obtain ⟨w, rfl⟩ := Option.isSome_iff_exists.mp (hsome rfl)
  have hq := State.restoreQueues_still (((e.1.keepTokens n (e.2 ++ v.tokens ++ x.arrivals)).recloseAll n { x with cores := new } v.closed).placeSaved n) n v new rs
  have hlast : Level e.1 _ := ((Level.modCtx e.1 n _).trans hc.level).trans (hplace.trans hq.level)
  refine ⟨hlast.post.trans (he.post.trans hmap.post), hlast.entries, w, hw1.calm hq.toCalm, fun hentries htokens harrivals => hdrain ?_ w rfl⟩
  intro w2 hw2
  cases hw2
  have h2 : e.2 = [] := by
    show ((s.restoreMap n x v new pages rs).recreateAll { x with cores := new } v.inOrder).2 = []
    rw [Save.inOrder, hentries]
    rfl
  show e.2 ++ v.tokens ++ x.arrivals = []
  rw [h2, htokens, harrivals]
  rfl

end

end Sys2Proof.Machine
end

section
/-! SUPPORT. The mailbox's side of RESUME (R291, R356): a command that is accepted, one that ends, and what RESUME reads of the state beside the mailboxes. -/

open Sys2Proof.Claims

namespace Sys2Proof.Machine

/-! ### Commands that name a context (R291 to R293) -/

theorem State.mbox_setMbox (s : State) (port : Nat) (m : Mbox) (h : port < s.io.mbox.length) : (s.setMbox port m).mbox port = m := by
  show (s.io.mbox.set port m).getD port Mbox.reset = m
  rw [List.getD_eq_getElem _ _ (by rwa [List.length_set]), List.getElem_set_self]

theorem argsZero_of_only (c : Cmd) (listed : List (Nat × Nat)) (h : Only c listed) : argsZero c listed = true := by
  unfold argsZero
  rw [List.all_eq_true]
  intro e he
  by_cases h0 : e.2 = 0
  · simp [h0]
  · obtain ⟨r, hr, hlo, hhi⟩ := h e he h0
    rw [Bool.or_eq_true, List.any_eq_true]
    exact .inr ⟨r, hr, by simp [hlo, hhi]⟩

/-- A command on a context of the port, in form, runs. -/
theorem ctxCommand_of_mine (s : State) (code : Nat) (c : Cmd) (x : Ctx) (listed : List (Nat × Nat)) (f : State → Ctx → State) (hi : Idle s c)
    (hm : Mine s c x) (ho : Only c listed) : ctxCommand s code c listed f = .next (f (s.mboxStart code c) x) := by
  obtain ⟨hport, -, hidle⟩ := hi
  obtain ⟨hx, hown⟩ := hm
  have hb : (decide (c.port ≥ 2) || (s.mbox c.port).status.getLsbD 15) = false := by rw [hidle, Bool.or_false]; exact decide_eq_false (by omega)
  unfold ctxCommand command
  simp only [hb, hx, hown, argsZero_of_only c listed ho, bne_self_eq_false, Bool.false_eq_true, if_false, if_true]

section
variable {s : State} {c : Cmd} (code : Nat) (hi : Idle s c) (hcode : code < 65536)
include hi

/-- The mailbox of a command that is accepted: its tag, and busy. -/
theorem mbox_mboxStart : ((s.mboxStart code c).mbox c.port).cmd = code + c.tag % 2 ^ 16 * 2 ^ 16 ∧
    ((s.mboxStart code c).mbox c.port).status.getLsbD 15 = true := by
  obtain ⟨hport, hlen, -⟩ := hi
  rw [State.mboxStart, State.mbox_setMbox _ _ _ (by rw [hlen]; exact hport)]
  exact ⟨rfl, by simp⟩

include hcode in
theorem tag_mboxStart : ((s.mboxStart code c).mbox c.port).cmd / 65536 = c.tag % 65536 := by
  rw [(mbox_mboxStart code hi).1]
  omega

end

/-- A command that ends at a mailbox which holds its tag. -/
theorem ended_mboxEnd {s u : State} {port tag st : Nat} (hp : port < u.io.mbox.length) (hmsix : u.io.msix = s.io.msix)
    (htag : (u.mbox port).cmd / 65536 % 65536 = tag % 65536) (hst : st < 65536) : Ended s port tag st (u.mboxEnd port st []) := by
  refine ⟨?_, ?_⟩
  · have hm : ((u.mboxEnd port st []).mbox port).status = BitVec.ofNat 32 ((u.mbox port).cmd / 2 ^ 16 * 2 ^ 16 + st) :=
      congrArg Mbox.status (u.mbox_setMbox port _ hp)
    rw [hm, BitVec.toNat_ofNat]
    omega
  · show u.io.msix ++ _ = _
    rw [hmsix]

theorem State.mbox_of_post {s t : State} (h : t.post = s.post) : t.io.mbox = s.io.mbox ∧ t.io.msix = s.io.msix := Prod.mk.inj h

/-- A command ends after work that left the mailboxes alone. -/
theorem ended_of_post {s u : State} {c : Cmd} {code st : Nat} (hi : Idle s c) (hcode : code < 65536) (hst : st < 65536)
    (hu : u.post = (s.mboxStart code c).post) : Ended s c.port c.tag st (u.mboxEnd c.port st []) := by
  obtain ⟨hbox, hmsix⟩ := State.mbox_of_post hu
  refine ended_mboxEnd ?_ hmsix ?_ hst
  · rw [hbox]
    show c.port < (s.io.mbox.set _ _).length
    rw [List.length_set, hi.2.1]
    exact hi.1
  · rw [State.mbox, hbox]
    have := tag_mboxStart code hi hcode
    rw [State.mbox] at this
    rw [this, Nat.mod_mod]

/-- A command that waits in a mailbox ends after work that left the mailboxes alone. -/
theorem ended_later {s u : State} {port st : Nat} (hp : port < 2) (hl : s.io.mbox.length = 2) (hst : st < 65536) (hu : u.post = s.post) :
    Ended s port ((s.mbox port).cmd / 65536) st (u.mboxEnd port st []) := by
  obtain ⟨hbox, hmsix⟩ := State.mbox_of_post hu
  refine ended_mboxEnd (by rw [hbox, hl]; exact hp) hmsix ?_ hst
  rw [State.mbox, hbox]
  rfl

/-- A command that is refused leaves the contexts and the cores alone. -/
theorem says_refused {s : State} {c : Cmd} {i : Instr} {code st : Nat} (hi : Idle s c) (hcode : code < 65536) (hst : st < 65536)
    (h : exec i s = .next ((s.mboxStart code c).mboxEnd c.port st [])) : Says s c i st fun t => t.ctxs = s.ctxs ∧ t.cores = s.cores :=
  ⟨_, h, ended_of_post hi hcode hst rfl, rfl, rfl⟩

/-! ### What RESUME reads is not of the mailboxes -/

/-- A state with other queues and mailboxes. -/
def State.withIo (s : State) (j : Io) : State := { s with io := j }

theorem State.rename_withIo (s : State) (j : Io) (rs : List Ren) (oc os nc : Nat) :
    State.rename (s.withIo j, rs) oc os nc = ((State.rename (s, rs) oc os nc).1.withIo j, (State.rename (s, rs) oc os nc).2) := rfl

theorem State.renames_withIo (s : State) (j : Io) (v : Save) (new : List Nat) :
    (s.withIo j).renames v new = ((s.renames v new).1.withIo j, (s.renames v new).2) := by
  have fold {α : Type} (f : State × List Ren → α → State × List Ren)
      (hf : ∀ (t : State) rs e, f (t.withIo j, rs) e = ((f (t, rs) e).1.withIo j, (f (t, rs) e).2)) (l : List α) (a : State × List Ren) :
      l.foldl f (a.1.withIo j, a.2) = ((l.foldl f a).1.withIo j, (l.foldl f a).2) := by
    induction l generalizing a with
    | nil => rfl
    | cons e l ih => rw [List.foldl_cons, List.foldl_cons, hf a.1 a.2 e, ih]
  unfold State.renames
  dsimp only
  rw [fold _ (fun t rs q => t.rename_withIo j rs _ _ _) v.packs (s, []), fold]
  intro t rs e
  dsimp only
  split
  · rfl
  · exact t.rename_withIo j rs _ _ _

theorem State.addGhost_withIo (s : State) (j : Io) (core : Nat) (g : Ghost) :
    (s.withIo j).addGhost core g = (s.addGhost core g).map fun t => t.withIo j := by
  have hb : (s.withIo j).block g.slot = s.block g.slot := rfl
  unfold State.addGhost
  rw [hb]
  cases s.block g.slot with
  | none => rfl
  | some b =>
    have hc : (s.withIo j).columnAreas core ((s.withIo j).classOf g.ctx g.slot 0) b g.cols = s.columnAreas core (s.classOf g.ctx g.slot 0) b g.cols := rfl
    dsimp only
    rw [hc]
    cases s.columnAreas core (s.classOf g.ctx g.slot 0) b g.cols <;> rfl

theorem State.addGhosts_withIo (s : State) (j : Io) (v : Save) (new : List Nat) (rs : List Ren) :
    (s.withIo j).addGhosts v new rs = (s.addGhosts v new rs).map fun t => t.withIo j := by
  have main (o : Option State) : v.ghosts.foldl (fun (o : Option State) g => o.bind fun t =>
        t.addGhost (recCore v new rs g.1 g.2.serial) { g.2 with serial := reSerial rs g.1 g.2.serial }) (o.map fun t => t.withIo j) =
      (v.ghosts.foldl (fun (o : Option State) g => o.bind fun t =>
        t.addGhost (recCore v new rs g.1 g.2.serial) { g.2 with serial := reSerial rs g.1 g.2.serial }) o).map fun t => t.withIo j := by
    induction v.ghosts generalizing o with
    | nil => rfl
    | cons g gs ih =>
      rw [List.foldl_cons, List.foldl_cons, ← ih]
      cases o with
      | none => rfl
      | some t => rw [Option.map_some, Option.bind_some, Option.bind_some, t.addGhost_withIo j]
  exact main (some s)

/-- New serials and kept columns leave the rest as it is, whatever the mailboxes hold. -/
theorem State.resume_still (s : State) (j : Io) (v : Save) (new : List Nat) (t : State)
    (ht : (s.renames v new).1.addGhosts v new (s.renames v new).2 = some t) : Still (s.withIo j) (t.withIo j) := by
  have hg : ((s.withIo j).renames v new).1.addGhosts v new (s.renames v new).2 = some (t.withIo j) := by
    rw [s.renames_withIo, State.addGhosts_withIo, ht]
    rfl
  exact ((s.withIo j).renames_still v _).trans (State.addGhosts_still _ _ _ _ _ hg)

theorem State.mboxStart_withIo (s : State) (code : Nat) (c : Cmd) : s.mboxStart code c = s.withIo (s.mboxStart code c).io := rfl

/-! ### The checks of RESUME (R356) -/

/-- The core list of RESUME: that of its arguments, or the context's own. -/
def resumeCores (c : Cmd) (x : Ctx) : List Nat := if bitsOf (argNat c 0 24) 192 = [] then x.cores else bitsOf (argNat c 0 24) 192

/-- The allowance of each core of a new list is enough for every block of the context. -/
def Roomy (s : State) (c : Cmd) (x : Ctx) (new : List Nat) : Prop :=
  ∀ e ∈ s.blocks, e.2.ctx = c.ctx → e.2.priv * 128 ≤ x.privSize / new.length / 128 * 128

/-- Every core of a list is of a port's domain. -/
def Home (s : State) (c : Cmd) (new : List Nat) : Prop := ∀ k ∈ new, s.part.cores.getD k 0 = c.port + 1

/-- The packs, the records and the constants of an image find room on the new cores, and so do its kept columns. -/
def Roomless (s : State) (c : Cmd) (x : Ctx) (v : Save) (new : List Nat) : Prop :=
  64 * new.length < v.packs.length ∨ s.recordRoom new (v.records new (s.renames v new).2) = false ∨
    s.constRoom c.ctx { x with cores := new } = false ∨ ((s.renames v new).1.addGhosts v new (s.renames v new).2).isSome = false

theorem resumeCores_model (c : Cmd) (x : Ctx) : (if (coreList c 0).isEmpty then x.cores else coreList c 0) = resumeCores c x := by
  unfold resumeCores coreList
  simp only [List.isEmpty_iff]

theorem home_iff (s : State) (c : Cmd) (new : List Nat) : (new.all fun k => s.ownCore c.port k) = true ↔ Home s c new := by
  simp [Home, State.ownCore]

theorem roomy_iff (s : State) (c : Cmd) (x : Ctx) (new : List Nat) :
    (s.blocks.any fun e => e.2.ctx == c.ctx && decide (x.privSize / new.length / 128 * 128 < e.2.priv * 128)) = false ↔ Roomy s c x new := by
  simp only [Roomy, List.any_eq_false, Bool.and_eq_true, beq_iff_eq, decide_eq_true_eq, not_and, Nat.not_lt]

section
variable (s : State) (c : Cmd) (x : Ctx) (v : Save)

theorem resumeCtx_away (h : ¬Home s c (resumeCores c x)) : resumeCtx s c x v = s.mboxEnd c.port MCode.notOwned [] := by
  unfold resumeCtx
  extract_lets list new small fresh pages a g
  have hnew : new = resumeCores c x := resumeCores_model c x
  rw [← home_iff, ← hnew] at h
  rw [if_pos (by simpa using h)]

theorem resumeCtx_small (h : Home s c (resumeCores c x)) (hr : ¬Roomy s c x (resumeCores c x)) : resumeCtx s c x v = s.mboxEnd c.port MCode.refused [] := by
  unfold resumeCtx
  extract_lets list new small fresh pages a g
  have hnew : new = resumeCores c x := resumeCores_model c x
  rw [← home_iff, ← hnew] at h
  rw [← roomy_iff, ← hnew, Bool.not_eq_false] at hr
  rw [if_neg (by rw [h]; decide), if_pos hr]

theorem resumeCtx_full (h : Home s c (resumeCores c x)) (hr : Roomy s c x (resumeCores c x)) (hf : Roomless s c x v (resumeCores c x)) :
    resumeCtx s c x v = s.mboxEnd c.port MCode.noResource [] := by
  unfold resumeCtx
  extract_lets list new small fresh pages a g
  have hnew : new = resumeCores c x := resumeCores_model c x
  rw [← home_iff, ← hnew] at h
  rw [← roomy_iff, ← hnew] at hr
  rw [Roomless, ← hnew] at hf
  rw [if_neg (by rw [h]; decide), if_neg (by rw [Bool.not_eq_true]; exact hr)]
  split
  · rfl
  next hcond =>
    simp only [Bool.or_eq_true, Bool.not_eq_true', decide_eq_true_eq, not_or, Bool.not_eq_false] at hcond
    obtain ⟨⟨⟨hpacks, -⟩, hrec⟩, hconst⟩ := hcond
    rcases hf with hf | hf | hf | hf
    · exact absurd hf hpacks
    · exact absurd hrec (by rw [hf]; nofun)
    · exact absurd hconst (by rw [hf]; nofun)
    · have hg : g = none := by simpa using hf
      rw [hg]

/-- Where the checks hold and the new map names no other core, the context is restored. -/
theorem resumeCtx_restore (t : State) (h : Home s c (resumeCores c x)) (hr : Roomy s c x (resumeCores c x))
    (hpacks : v.packs.length ≤ 64 * (resumeCores c x).length) (hin : ∀ k ∈ resumeCores c x, k ∈ x.cores)
    (hrec : s.recordRoom (resumeCores c x) (v.records (resumeCores c x) (s.renames v (resumeCores c x)).2) = true)
    (hconst : s.constRoom c.ctx { x with cores := resumeCores c x } = true)
    (ht : (s.renames v (resumeCores c x)).1.addGhosts v (resumeCores c x) (s.renames v (resumeCores c x)).2 = some t) :
    ∃ pages, resumeCtx s c x v = t.restore c.ctx x v (resumeCores c x) pages (s.renames v (resumeCores c x)).2 := by
  unfold resumeCtx
  extract_lets list new small fresh pages a g
  have hnew : new = resumeCores c x := resumeCores_model c x
  refine ⟨pages, ?_⟩
  rw [← home_iff, ← hnew] at h
  rw [← roomy_iff, ← hnew] at hr
  have hg : g = some t := by rw [← ht, ← hnew]
  have hfresh : fresh = 0 := by
    show (new.filter fun k => !x.cores.contains k).length = 0
    rw [List.length_eq_zero_iff, List.filter_eq_nil_iff, hnew]
    intro k hk
    simpa using hin k hk
  rw [if_neg (by rw [h]; decide), if_neg (by rw [Bool.not_eq_true]; exact hr), if_neg, hg, ← hnew]
  simp only [Bool.or_eq_true, Bool.not_eq_true', decide_eq_true_eq, not_or, Bool.not_eq_false, hfresh]
  rw [← hnew] at hpacks hrec hconst
  exact ⟨⟨⟨Nat.not_lt.mpr hpacks, Nat.not_lt_zero _⟩, hrec⟩, hconst⟩

end

end Sys2Proof.Machine
end

section
/-! PROOF. RESUME (R349, R356): its refusals, and the restored state. -/

open Sys2Proof Sys2Proof.Machine Sys2Proof.Claims

namespace Sys2Proof.Proofs

section
variable {c : Cmd} {s : State} {x : Ctx} (hi : Idle s c) (hm : Mine s c x) (ho : Only c [(0, 24)])
include hi hm ho

/-! ### Refusals -/

theorem resume_during_checkpoint (hc : s.chk ≠ none) : Says s c (.resume c) 1 fun t => t.ctxs = s.ctxs ∧ t.cores = s.cores := by
  refine says_refused (code := 12) hi (by decide) (by decide) ?_
  have hc1 : (s.mboxStart 12 c).chk.isSome = true := Option.isSome_iff_ne_none.mpr hc
  show execResume c s = _
  unfold execResume
  rw [ctxCommand_of_mine s 12 c x _ _ hi hm ho, if_pos hc1]
  rfl

theorem resume_not_preempted (hc : s.chk = none) (hp : x.save = none ∨ x.st ≠ .preempted) :
    Says s c (.resume c) 5 fun t => t.ctxs = s.ctxs ∧ t.cores = s.cores := by
  refine says_refused (code := 12) hi (by decide) (by decide) ?_
  have hc1 : (s.mboxStart 12 c).chk.isSome = false := by show s.chk.isSome = false; rw [hc]; rfl
  show execResume c s = _
  unfold execResume
  rw [ctxCommand_of_mine s 12 c x _ _ hi hm ho, hc1]
  cases hs : x.save with
  | none => rfl
  | some v =>
    have hst : (x.st != .preempted) = true := by
      rcases hp with hp | hp
      · rw [hs] at hp; cases hp
      · simpa using hp
    dsimp only
    rw [hst]
    rfl

section
variable {v : Save} (hc : s.chk = none) (hst : x.st = .preempted) (hv : x.save = some v)
include hc hst hv

theorem exec_resume : exec (.resume c) s = .next (resumeCtx (s.mboxStart 12 c) c x v) := by
  have hc1 : (s.mboxStart 12 c).chk.isSome = false := by show s.chk.isSome = false; rw [hc]; rfl
  show execResume c s = _
  unfold execResume
  rw [ctxCommand_of_mine s 12 c x _ _ hi hm ho, hc1, hv, hst]
  rfl

theorem resume_away (h : ¬Home s c (resumeCores c x)) : Says s c (.resume c) 2 fun t => t.ctxs = s.ctxs ∧ t.cores = s.cores := by
  refine says_refused (code := 12) hi (by decide) (by decide) ?_
  rw [exec_resume hi hm ho hc hst hv, resumeCtx_away (s.mboxStart 12 c) c x v h]
  rfl

theorem resume_small (h : Home s c (resumeCores c x)) (hr : ¬Roomy s c x (resumeCores c x)) :
    Says s c (.resume c) 5 fun t => t.ctxs = s.ctxs ∧ t.cores = s.cores := by
  refine says_refused (code := 12) hi (by decide) (by decide) ?_
  rw [exec_resume hi hm ho hc hst hv, resumeCtx_small (s.mboxStart 12 c) c x v h hr]
  rfl

theorem resume_full (h : Home s c (resumeCores c x)) (hr : Roomy s c x (resumeCores c x)) (hf : Roomless s c x v (resumeCores c x)) :
    Says s c (.resume c) 4 fun t => t.ctxs = s.ctxs ∧ t.cores = s.cores := by
  refine says_refused (code := 12) hi (by decide) (by decide) ?_
  have hf1 : Roomless (s.mboxStart 12 c) c x v (resumeCores c x) := by
    unfold Roomless at hf ⊢
    rw [s.mboxStart_withIo, s.renames_withIo, State.addGhosts_withIo, Option.isSome_map]
    exact hf
  rw [exec_resume hi hm ho hc hst hv, resumeCtx_full (s.mboxStart 12 c) c x v h hr hf1]
  rfl

/-! ### The restored state -/

section
variable (h : Home s c (resumeCores c x)) (hr : Roomy s c x (resumeCores c x)) (hpacks : v.packs.length ≤ 64 * (resumeCores c x).length)
  (hin : ∀ k ∈ resumeCores c x, k ∈ x.cores)
  (hrec : s.recordRoom (resumeCores c x) (v.records (resumeCores c x) (s.renames v (resumeCores c x)).2) = true)
  (hconst : s.constRoom c.ctx { x with cores := resumeCores c x } = true)
include h hr hpacks hin hrec hconst

/-- Steps 1 to 5 run on the state with the new serials and the kept frame columns. -/
theorem exec_resume_restored (t : State) (ht : (s.renames v (resumeCores c x)).1.addGhosts v (resumeCores c x) (s.renames v (resumeCores c x)).2 = some t) :
    ∃ pages, exec (.resume c) s = .next (((t.withIo (s.mboxStart 12 c).io).restored c.ctx x v (resumeCores c x) pages
      (s.renames v (resumeCores c x)).2).endRestore c.ctx) := by
  have hren : (s.mboxStart 12 c).renames v (resumeCores c x) =
      ((s.renames v (resumeCores c x)).1.withIo (s.mboxStart 12 c).io, (s.renames v (resumeCores c x)).2) := s.renames_withIo _ v _
  obtain ⟨pages, he⟩ := resumeCtx_restore (s.mboxStart 12 c) c x v (t.withIo (s.mboxStart 12 c).io) h hr hpacks hin (by rw [hren]; exact hrec) hconst
    (by rw [hren, State.addGhosts_withIo, ht]; rfl)
  refine ⟨pages, ?_⟩
  rw [exec_resume hi hm ho hc hst hv, he, hren]
  rfl

/-- RESUME that passes its checks: the state after steps 1 to 5. -/
theorem resume_restored (hg : ((s.renames v (resumeCores c x)).1.addGhosts v (resumeCores c x) (s.renames v (resumeCores c x)).2).isSome = true) :
    ∃ u w, exec (.resume c) s = .next (u.endRestore c.ctx) ∧ u.post = (s.mboxStart 12 c).post ∧
      Restoring u c.ctx c.port (resumeCores c x) (v.packs.map (SavedPack.renamed (s.renames v (resumeCores c x)).2)) (some w) ∧
      (v.entries = [] → v.tokens = [] → x.arrivals = [] → w.tokens = []) := by
  obtain ⟨t, ht⟩ := Option.isSome_iff_exists.mp hg
  obtain ⟨pages, he⟩ := exec_resume_restored hi hm ho hc hst hv h hr hpacks hin hrec hconst t ht
  have hstill := s.resume_still (s.mboxStart 12 c).io v _ t ht
  obtain ⟨y, hy, hxy⟩ := hstill.ctx c.ctx x hm.1
  obtain ⟨hpost, -, w, hw, hdrain⟩ := State.restored_spec (t.withIo (s.mboxStart 12 c).io) c.ctx x y v (resumeCores c x) pages
    (s.renames v (resumeCores c x)).2 hy hin
  rw [hxy.r, hm.2] at hw
  exact ⟨_, w, he, hpost.trans hstill.post, hw, hdrain⟩

section
variable (hg : ((s.renames v (resumeCores c x)).1.addGhosts v (resumeCores c x) (s.renames v (resumeCores c x)).2).isSome = true)
include hg

/-- With no pack to place, the context runs where every token found a core, and waits for the others where not. -/
theorem resume_no_packs (hn : v.packs = []) : ∃ t w, exec (.resume c) s = .next t ∧
    (v.entries = [] → v.tokens = [] → x.arrivals = [] → w.tokens = []) ∧
    (w.tokens = [] → Ended s c.port c.tag 0 t ∧ Runs t c.ctx (resumeCores c x)) ∧
    (w.tokens ≠ [] → (t.mbox c.port).status.getLsbD 15 = true ∧ Restoring t c.ctx c.port (resumeCores c x) [] (some w)) := by
  obtain ⟨u, w, he, hpost, hw, hdrain⟩ := resume_restored hi hm ho hc hst hv h hr hpacks hin hrec hconst hg
  rw [hn] at hw
  by_cases hd : w.tokens = []
  · obtain ⟨t, ht, hlevel, hruns⟩ := hw.endRestore_of_done fun v1 hv1 => by cases hv1; exact hd
    rw [ht] at he
    exact ⟨_, w, he, hdrain, fun _ => ⟨ended_of_post hi (by decide) (by decide) (hlevel.post.trans hpost), hruns⟩, fun hn => absurd hd hn⟩
  · rw [hw.endRestore_of_left (.inr fun hall => hd (hall w rfl))] at he
    refine ⟨u, w, he, hdrain, fun h0 => absurd h0 hd, fun _ => ⟨?_, hw⟩⟩
    rw [State.mbox, (State.mbox_of_post hpost).1]
    exact (mbox_mboxStart 12 hi).2

theorem resume_empty (hn : v.packs = []) (hentries : v.entries = []) (htokens : v.tokens = []) (harrivals : x.arrivals = []) :
    Says s c (.resume c) 0 fun t => ∃ y, t.ctx c.ctx = some y ∧ y.st = .running ∧ y.cores = resumeCores c x ∧ y.arrivals = [] ∧ y.save = none := by
  obtain ⟨t, w, he, hdrain, hend, -⟩ := resume_no_packs hi hm ho hc hst hv h hr hpacks hin hrec hconst hg hn
  obtain ⟨hended, hruns⟩ := hend (hdrain hentries htokens harrivals)
  exact ⟨t, he, hended, hruns⟩

theorem resume_runs_or_waits (hn : v.packs = []) : ∃ t y, exec (.resume c) s = .next t ∧ t.ctx c.ctx = some y ∧ y.cores = resumeCores c x ∧
    (y.st = .running ∧ y.save = none ∧ Ended s c.port c.tag 0 t ∨
      y.st = .restoring ∧ (t.mbox c.port).status.getLsbD 15 = true ∧ ∃ w, y.save = some w ∧ w.tokens ≠ []) := by
  obtain ⟨t, w, he, -, hend, hwait⟩ := resume_no_packs hi hm ho hc hst hv h hr hpacks hin hrec hconst hg hn
  by_cases hd : w.tokens = []
  · obtain ⟨hended, y, hy, hrun, hcores, -, hsave⟩ := hend hd
    exact ⟨t, y, he, hy, hcores, .inl ⟨hrun, hsave, hended⟩⟩
  · obtain ⟨hbusy, y, hy, hst, hcores, -, -, hsave⟩ := hwait hd
    exact ⟨t, y, he, hy, hcores, .inr ⟨hst, hbusy, w, hsave, hd⟩⟩

/-- With packs to place, the command stands. -/
theorem resume_stands (hn : v.packs ≠ []) : Stands s c (.resume c) fun t => ∃ y, t.ctx c.ctx = some y ∧ y.st = .restoring ∧
    y.cores = resumeCores c x ∧ y.restore.length = v.packs.length := by
  obtain ⟨u, w, he, hpost, hw, -⟩ := resume_restored hi hm ho hc hst hv h hr hpacks hin hrec hconst hg
  rw [hw.endRestore_of_left (.inl (by simpa using hn))] at he
  obtain ⟨hbox, hmsix⟩ := State.mbox_of_post hpost
  obtain ⟨y, hy, hrst, hcores, hrestore, -, -⟩ := hw
  refine ⟨u, he, ?_, ?_, hmsix, y, hy, hrst, hcores, by rw [hrestore, List.length_map]⟩
  · rw [State.mbox, hbox]
    exact (mbox_mboxStart 12 hi).2
  · rw [State.mbox, hbox]
    exact tag_mboxStart 12 hi (by decide)

end

end

end

end

end Sys2Proof.Proofs
end

section
/-! SUPPORT. The entry of a save image on a core that holds nothing (R219, R356). -/

open Sys2Proof.Claims

namespace Sys2Proof.Machine

/-! ### Room on an empty core -/

/-- What the room for an entry depends on, of a core. -/
def Core.stock (c : Core) : List Entry × Tbl Pack × List (Nat × Nat × Pack) × List Ghost := (c.entries, c.packs, c.dying, c.ghosts)

/-- An area of up to a bank fits at the start of an empty bank. -/
theorem fitBank_of_empty (n bank : Nat) (hn : n ≤ 512) : fitBank [] n bank = some (bank * 512) := by
  have h : sortBy id [bank * 512] = [bank * 512] := rfl
  simp [fitBank, h, hn]

theorem fitArea_of_empty (b : Nat) (banks : List Nat) (n : Nat) (hn : n ≤ 512) : fitArea [] (b :: banks) n = some (b * 512) := by
  rw [fitArea, List.findSome?_cons, fitBank_of_empty n b hn]

/-- A core that holds nothing has room for an entry of a program or handler block (R218, R221). -/
theorem State.entryRoom_of_empty (s : State) (core : Nat) (k pool : TokClass) (ports : Nat) (hcore : (s.core core).stock = Core.reset.stock)
    (hpool : pool = .program ∨ pool = .handler) (hports : ports ≤ 512) : s.entryRoom core k pool ports = true := by
  obtain ⟨hentries, hpacks, hdying, hghosts⟩ : (s.core core).entries = [] ∧ (s.core core).packs = [] ∧ (s.core core).dying = [] ∧ (s.core core).ghosts = [] := by
    simpa [Core.stock, Core.reset] using hcore
  have hcount : s.entryCount core k = 0 := by simp [State.entryCount, hentries]
  have hcap : 0 < entryCap k := by cases k <;> simp [entryCap]
  have hused : (s.core core).areasUsed s.now = [] := by simp [Core.areasUsed, Core.holders, hentries, hpacks, hdying, hghosts]
  have hfit : (s.portArea core pool ports).isSome = true := by
    unfold State.portArea
    rw [hused]
    rcases hpool with rfl | rfl
    · have hb : s.poolBanks .program = 20 :: ((List.range 235).map fun i => 21 + i) := by
        rw [State.poolBanks, List.range_succ_eq_map, List.map_cons, List.map_map]
        simp [Function.comp_def, Nat.add_comm]
      rw [hb, fitArea_of_empty _ _ _ hports]
      rfl
    · have hb : s.poolBanks .handler = [16, 17, 18, 19] := rfl
      rw [hb, fitArea_of_empty _ _ _ hports]
      rfl
  rw [State.entryRoom, hcount, hfit]
  simp [hcap]

/-! ### The map of a context that keeps its cores -/

/-- The constant stores move, and nothing else of a core. -/
theorem State.field_moveConsts {α : Type} (s : State) (n : Nat) (old : List Nat) (x : Ctx) (g : Core → α) (hg : ∀ c q, g { c with st := q } = g c) (k : Nat) :
    g ((s.moveConsts n old x).core k) = g (s.core k) := by
  have fold (f : Nat → Core → Stores) (l : List Nat) (t : State) :
      g ((l.foldl (fun (t : State) c => t.modCore c fun q => { q with st := f c q }) t).core k) = g (t.core k) := by
    induction l generalizing t with
    | nil => rfl
    | cons c l ih =>
      rw [List.foldl_cons, ih, State.core_modCore]
      split
      next h => subst h; exact hg _ _
      next => rfl
  unfold State.moveConsts
  extract_lets mine clear fill s1
  exact (fold (fun c q => (s.constImages n x c).foldl (fill c) (clear q.st)) x.cores s1).trans (fold (fun _ q => clear q.st) old s)

theorem State.moveConsts_cores (s : State) (n : Nat) (old : List Nat) (x : Ctx) : ∃ cs, s.moveConsts n old x = { s with cores := cs } := by
  have fold (f : Nat → Core → Core) (l : List Nat) (t : State) : ∃ cs, l.foldl (fun (t : State) c => t.modCore c (f c)) t = { t with cores := cs } := by
    induction l generalizing t with
    | nil => exact ⟨t.cores, rfl⟩
    | cons c l ih =>
      obtain ⟨cs, h⟩ := ih (t.modCore c (f c))
      exact ⟨cs, h⟩
  unfold State.moveConsts
  extract_lets mine clear fill s1
  obtain ⟨cs1, h1⟩ := fold (fun _ q => { q with st := clear q.st }) old s
  obtain ⟨cs, h⟩ := fold (fun c q => { q with st := (s.constImages n x c).foldl (fill c) (clear q.st) }) x.cores s1
  refine ⟨cs, h.trans ?_⟩
  show ({ s1 with cores := cs } : State) = _
  rw [show s1 = { s with cores := cs1 } from h1]

theorem State.trapArea_same (s : State) (x : Ctx) (pages : List Nat) : s.trapArea x x.cores pages = s := by
  have hf : (x.cores.filter fun c => !x.cores.contains c) = [] := by
    rw [List.filter_eq_nil_iff]
    intro k hk
    simpa using hk
  unfold State.trapArea
  rw [hf]
  rfl

theorem State.classOf_of_level (s : State) (ctx slot : Nat) (tag : DWord) (h : tagLevel tag ≠ 7) :
    s.classOf ctx slot tag = .program ∨ s.classOf ctx slot tag = .handler := by
  unfold State.classOf
  rw [if_neg h]
  split
  · exact .inr rfl
  · exact .inl rfl

/-- An entry that HasEntry finds is among those of the core. -/
theorem HasEntry.mem {u : State} {core : Nat} {e : Entry} {st : EntrySt} (h : HasEntry u core e st) :
    ∃ a ∈ (u.core core).entries, a.slot = e.slot ∧ a.tag = e.tag ∧ a.pres = e.pres ∧ a.pay = e.pay ∧ a.acq = e.acq := by
  obtain ⟨seq, entered, ha⟩ := h
  exact ⟨_, List.mem_of_find?_eq_some ha, rfl, rfl, rfl, rfl, rfl⟩

/-- The one saved entry of an image stands again on its core, which holds nothing (R356). -/
theorem State.restored_entry (s : State) (n : Nat) (x y : Ctx) (v : Save) (pages : List Nat) (rs : List Ren) (oc age : Nat) (e : Entry) (b : Block)
    (hy : s.ctx n = some y) (hentries : v.entries = [(oc, age, e)]) (hb : s.block e.slot = some b) (hports : b.ports ≤ 4) (hlevel : tagLevel e.tag ≠ 7)
    (hcore : s.core (s.placeCore x b (tagIndex e.tag)) = Core.reset) :
    ∃ a ∈ ((s.restored n x v x.cores pages rs).core (s.placeCore x b (tagIndex e.tag))).entries,
      a.slot = e.slot ∧ a.tag = e.tag ∧ a.pres = e.pres ∧ a.pay = e.pay ∧ a.acq = e.acq := by
  obtain ⟨-, hlast, -⟩ := s.restored_spec n x y v x.cores pages rs hy fun _ h => h
  rw [hlast]
  have hmap : s.restoreMap n x v x.cores pages rs = (s.moveConsts n x.cores x).modCtx n fun y =>
      { y with st := .restoring, cores := x.cores, arrivals := [], restore := v.packs.map (SavedPack.renamed rs), save := some (v.left x.cores rs) } := by
    rw [State.restoreMap, State.trapArea_same]
  have hstock : ((s.restoreMap n x v x.cores pages rs).core (s.placeCore x b (tagIndex e.tag))).stock = Core.reset.stock := by
    rw [hmap, State.core_modCtx, s.field_moveConsts n x.cores x Core.stock (fun _ _ => rfl), hcore]
  obtain ⟨cs, hcs⟩ := s.moveConsts_cores n x.cores x
  have hb1 : (s.restoreMap n x v x.cores pages rs).block e.slot = some b := by rw [hmap, hcs]; exact hb
  have hplace : (s.restoreMap n x v x.cores pages rs).placeCore x b (tagIndex e.tag) = s.placeCore x b (tagIndex e.tag) := by rw [hmap, hcs]; rfl
  have horder : v.inOrder = [e] := by rw [Save.inOrder, hentries]; rfl
  have hroom := State.entryRoom_of_empty _ _ e.cls ((s.restoreMap n x v x.cores pages rs).classOf e.ctx e.slot e.tag) b.ports hstock
    (State.classOf_of_level _ _ _ _ hlevel) (by omega)
  rw [← hplace] at hroom
  rw [horder]
  show ∃ a ∈ ((((s.restoreMap n x v x.cores pages rs).recreate x e).1).core _).entries, _
  rw [State.recreate_of_room _ x e b hb1 hroom, hplace]
  obtain ⟨-, st, he⟩ := (s.restoreMap n x v x.cores pages rs).settle_freshEntry (s.placeCore x b (tagIndex e.tag)) b e
  exact he.mem

end Sys2Proof.Machine
end

section
/-! PROOF. RESUME of an image with one entry (R356). -/

open Sys2Proof Sys2Proof.Machine Sys2Proof.Claims

namespace Sys2Proof.Proofs

/-- The end of RESUME changes no entry. -/
theorem entries_endRestore {s : State} {n port : Nat} {new : List Nat} {w : Save} (h : Restoring s n port new [] (some w)) (k : Nat) :
    ((s.endRestore n).core k).entries = (s.core k).entries := by
  by_cases hd : Drained (some w)
  · obtain ⟨u, hu, hlevel, -⟩ := h.endRestore_of_done hd
    rw [hu]
    exact hlevel.entries k
  · rw [h.endRestore_of_left (.inr hd)]

theorem resume_entry {c : Cmd} {s : State} {x : Ctx} {v : Save} (hi : Idle s c) (hm : Mine s c x) (ho : Only c [(0, 24)]) (hc : s.chk = none)
    (hst : x.st = .preempted) (hv : x.save = some v) (h : Home s c (resumeCores c x)) (hr : Roomy s c x (resumeCores c x))
    (hsame : resumeCores c x = x.cores) (hpacks : v.packs = []) (hwakes : v.wakes = []) (hcopies : v.copies = []) (hghosts : v.ghosts = [])
    (hrec : s.recordRoom (resumeCores c x) ([], []) = true) (hconst : s.constRoom c.ctx { x with cores := resumeCores c x } = true) (oc age : Nat) (e : Entry)
    (b : Block) (hentries : v.entries = [(oc, age, e)]) (hb : s.block e.slot = some b) (hports : b.ports ≤ 4) (hlevel : tagLevel e.tag ≠ 7)
    (hcore : s.core (s.placeCore x b (tagIndex e.tag)) = Core.reset) :
    ∃ t, exec (.resume c) s = .next t ∧ ∃ a ∈ (t.core (s.placeCore x b (tagIndex e.tag))).entries,
      a.slot = e.slot ∧ a.tag = e.tag ∧ a.pres = e.pres ∧ a.pay = e.pay ∧ a.acq = e.acq := by
  have hren : s.renames v (resumeCores c x) = (s, []) := by
    unfold State.renames
    rw [hpacks, hghosts, hwakes, hcopies]
    rfl
  have hghost : (s.renames v (resumeCores c x)).1.addGhosts v (resumeCores c x) (s.renames v (resumeCores c x)).2 = some s := by
    unfold State.addGhosts
    rw [hghosts, hren]
    rfl
  have hrecords : v.records (resumeCores c x) (s.renames v (resumeCores c x)).2 = ([], []) := by
    unfold Save.records
    rw [hwakes, hcopies]
    rfl
  have hin : ∀ k ∈ resumeCores c x, k ∈ x.cores := fun k hk => by rwa [hsame] at hk
  obtain ⟨pages, he⟩ := exec_resume_restored hi hm ho hc hst hv h hr (by rw [hpacks]; exact Nat.zero_le _) hin (by rw [hrecords]; exact hrec) hconst s hghost
  refine ⟨_, he, ?_⟩
  obtain ⟨-, -, w, hw, -⟩ := (s.withIo (s.mboxStart 12 c).io).restored_spec c.ctx x x v (resumeCores c x) pages (s.renames v (resumeCores c x)).2 hm.1 hin
  rw [hpacks] at hw
  rw [entries_endRestore hw, hsame]
  exact (s.withIo (s.mboxStart 12 c).io).restored_entry c.ctx x x v pages _ oc age e b hm.1 hentries hb hports hlevel hcore

end Sys2Proof.Proofs
end

section
/-! SUPPORT. The placing of what a save image still holds (R356): tokens that their cores take, and packs that find a slot. -/

open Sys2Proof.Claims

namespace Sys2Proof.Machine

/-! ### A context whose image holds no token -/

theorem ctx_keepTokens_same (s : State) (n : Nat) (x : Ctx) (ts : List Tok) (hx : s.ctx n = some x) (hts : ∀ w, x.save = some w → w.tokens = ts) (m : Nat) :
    (s.keepTokens n ts).ctx m = s.ctx m := by
  rw [State.keepTokens, State.ctx_modCtx]
  split
  next h =>
    subst h
    have hsave : (x.save.map fun w => { w with tokens := ts }) = x.save := by
      cases hs : x.save with
      | none => rfl
      | some w => rw [Option.map_some, ← hts w hs]
    rw [hx, Option.map_some, hsave]
  next => rfl

/-- Room for a pack depends on the contexts through their records alone. -/
theorem State.restoreFits_congr (s : State) (cs : Tbl Ctx) (h : ∀ m, ({ s with ctxs := cs } : State).ctx m = s.ctx m) (q : SavedPack) :
    ({ s with ctxs := cs } : State).restoreFits q = s.restoreFits q := by
  have hcls (ctx slot : Nat) (tag : DWord) : ({ s with ctxs := cs } : State).classOf ctx slot tag = s.classOf ctx slot tag := by
    unfold State.classOf State.isHandler
    rw [h]
  have hareas : ({ s with ctxs := cs } : State).restoreAreas q = s.restoreAreas q := by
    unfold State.restoreAreas
    simp only [hcls]
    rfl
  have hcopies : ({ s with ctxs := cs } : State).packCopies q = s.packCopies q := by
    unfold State.packCopies
    rw [h]
  unfold State.restoreFits
  rw [hareas, hcopies]
  rfl

/-- Where no pipeline has room in its engine queue for what the pack brings, it fits in none (R148). -/
theorem State.restoreFits_of_full (s : State) (q : SavedPack) (h : ∀ pipe < 4, 16 < ((s.core q.core).pipe pipe).queue.length + q.queue.length) :
    s.restoreFits q = none := by
  have hp (f : Nat → Bool) : ((List.range 4).filter fun i => f i && decide (((s.core q.core).pipe i).queue.length + q.queue.length ≤ 16)) = [] := by
    rw [List.filter_eq_nil_iff]
    intro i hi
    have := h i (List.mem_range.mp hi)
    simp [this]
  unfold State.restoreFits
  extract_lets hs pipes
  have hpipes : pipes = [] := hp _
  rw [hpipes]
  split <;> rfl

/-- The slot that a pack takes is free. -/
theorem State.pack_of_restoreFits (s : State) (q : SavedPack) (pipe slot : Nat) (h : s.restoreFits q = some (pipe, slot)) :
    s.pack { core := q.core, pipe := pipe, slot := slot } = none := by
  unfold State.restoreFits at h
  extract_lets hs pipes at h
  split at h
  · split at h
    next i _ =>
      obtain ⟨m, hm, he⟩ := Option.map_eq_some_iff.mp h
      cases he
      have hfree := List.find?_some hm
      exact Tbl.find_append_none _ _ _ (Option.isNone_iff_eq_none.mp hfree)
    next => cases h
  · cases h

/-! ### A pack takes its slot -/

theorem Core.setTiles_keeps (c : Core) (pipe : Nat) (f : Nat → Nat) (ts : Tbl Tile) :
    (ts.foldl (fun (k : Core) e => k.setTile pipe (f e.1) e.2) c).packs = c.packs ∧
      (ts.foldl (fun (k : Core) e => k.setTile pipe (f e.1) e.2) c).entries = c.entries := by
  induction ts generalizing c with
  | nil => exact ⟨rfl, rfl⟩
  | cons e ts ih => exact ih (c.setTile pipe (f e.1) e.2)

theorem State.engineStart_still (s : State) (core pipe : Nat) : Still s (s.engineStart core pipe) := by
  unfold State.engineStart
  dsimp only
  split
  · exact .modCore _ _ _ (fun _ => rfl) fun _ => rfl
  · exact .refl s

theorem State.putLines_still (s : State) (core asid va n : Nat) (d : Sparse 8) : Still s (s.putLines core asid va n d) := by
  unfold State.putLines
  extract_lets put
  have hput : Still s ((List.range n).foldl put s) := .memoryOnly (.foldl put (fun t i => t.homeWrite_memoryOnly _ _ _ _ _) _ s)
  refine hput.trans ?_
  exact .modCore _ _ _ (fun _ => rfl) fun _ => rfl

theorem State.markLines_still (s : State) (asid va : Nat) (ls : List Nat) : Still s (s.markLines asid va ls) :=
  .memoryOnly (.foldl _ (fun t _ => t.modL2_memoryOnly _ _ _ _) ls s)

/-- The records of a core under the new slot of a pack (R357). -/
theorem State.reslot_still (s : State) (r : PackRef) (serial : Nat) :
    Still s ({ s with cores := s.cores.map fun (e : Nat × Core) => (e.1, e.2.reslot r serial) } : State) :=
  .mapCores s (fun k => k.reslot r serial) (fun _ => rfl) fun _ => rfl

/-- A restored pack in its slot: a recovery pack with its registers (R356). -/
def SavedPack.placed (s : State) (q : SavedPack) (r : PackRef) : Pack :=
  { q.pack with id := { q.pack.id with restored := true, areas := (s.restoreAreas q).getD [] }
                m := { q.pack.m with tiles := takeTiles ((s.core r.core).holders s.now) r.pipe q.pack.m.tiles.length }
                c := { q.pack.c with start := s.now } }

/-- The core, the copies and the context of a pack that takes a slot, before it stands there. -/
def State.placeWork (s : State) (q : SavedPack) (r : PackRef) : State :=
  let tiles := takeTiles ((s.core r.core).holders s.now) r.pipe q.pack.m.tiles.length
  let s1 := s.modCore r.core fun c =>
    let c1 := q.tiles.foldl (fun (k : Core) e => k.setTile r.pipe (tiles.getD e.1 0) e.2) c
    c1.modPipe r.pipe fun k => { k with queue := k.queue ++ q.queue.map fun o => { o with slot := r.slot } }
  let tileOf (n : Nat) : Nat := tiles.getD ((q.pack.m.tiles.findIdx? (· == n)).getD 0) 0
  (s.packCopies q).foldl (fun (t : State) e =>
    t.installCopy r.core r.core { e.2 with pipe := r.pipe, tile := if e.2.mode = .t then tileOf e.2.tile else e.2.tile }) s1

/-- The image of a context without a pack and its copies. -/
def State.leavePack (s : State) (q : SavedPack) (mine : List (Nat × Copy)) : State :=
  s.modCtx q.pack.id.ctx fun y => { y with
    save := y.save.map fun v => { v with copies := v.copies.filter fun e => !mine.contains e }
    restore := y.restore.erase q }

/-- The pack stands in its slot, and its engine may start. -/
def State.standPack (s : State) (r : PackRef) (serial : Nat) (p : Pack) : State :=
  (({ s with cores := s.cores.map fun (e : Nat × Core) => (e.1, e.2.reslot r serial) } : State).setPack r p).engineStart r.core r.pipe

/-- The frame, the dumps and the trap token of a trapped pack. -/
def State.raisePack (s : State) (q : SavedPack) (r : PackRef) (p : Pack) (asid : Nat) (tiles : List Nat) : State :=
  let s5 := (s.putLines r.core asid (frameVa r) 256 (q.frameAt r p)).markLines asid (frameVa r) q.badFrame
  let s6 := q.dumps.foldl (fun (t : State) e => (t.putLines r.core asid (dumpVa r (tiles.getD e.1 0)) 256 e.2).markLines asid
    (dumpVa r (tiles.getD e.1 0)) ((q.badDumps.find e.1).getD [])) s5
  s6.raiseAtCore r.core q.pack.id.ctx true (trapPay r p) (p.bearing r p.c.trap.idx 0) q.pack.id.serial

theorem State.placePack_eq (s : State) (q : SavedPack) (r : PackRef) :
    let s4 := ((s.placeWork q r).leavePack q (s.packCopies q)).standPack r q.pack.id.serial (q.placed s r)
    s.placePack q r = if q.parked then s4 else s4.raisePack q r (q.placed s r) (s.asid q.pack.id.ctx)
      (takeTiles ((s.core r.core).holders s.now) r.pipe q.pack.m.tiles.length) := rfl

theorem State.placeWork_still (s : State) (q : SavedPack) (r : PackRef) : Still s (s.placeWork q r) := by
  unfold State.placeWork
  extract_lets tiles s1 tileOf
  have h1 : Still s s1 := .modCore _ _ _ (fun c => (c.setTiles_keeps r.pipe (fun i => tiles.getD i 0) q.tiles).1)
    fun c => (c.setTiles_keeps r.pipe (fun i => tiles.getD i 0) q.tiles).2
  exact h1.trans (.foldl _ (fun t e => t.installCopy_still _ _ _) _ s1)

theorem State.raisePack_still (s : State) (q : SavedPack) (r : PackRef) (p : Pack) (asid : Nat) (tiles : List Nat) : Still s (s.raisePack q r p asid tiles) := by
  unfold State.raisePack
  extract_lets s5 s6
  have h5 : Still s s5 := (s.putLines_still _ _ _ _ _).trans (State.markLines_still _ _ _ _)
  have h6 : Still s5 s6 := by
    refine .foldl _ (fun t e => ?_) _ s5
    exact (t.putLines_still _ _ _ _ _).trans (State.markLines_still _ _ _ _)
  exact (h5.trans h6).trans (State.raiseAtCore_still _ _ _ _ _ _ _)

theorem State.standPack_calm (s : State) (r : PackRef) (serial : Nat) (p : Pack) : Calm s (s.standPack r serial p) ∧ (s.standPack r serial p).pack r = some p := by
  have he := State.engineStart_still (({ s with cores := s.cores.map fun (e : Nat × Core) => (e.1, e.2.reslot r serial) } : State).setPack r p) r.core r.pipe
  have hset : Calm ({ s with cores := s.cores.map fun (e : Nat × Core) => (e.1, e.2.reslot r serial) } : State)
      (({ s with cores := s.cores.map fun (e : Nat × Core) => (e.1, e.2.reslot r serial) } : State).setPack r p) :=
    ⟨rfl, fun _ x h => ⟨x, h, .refl x⟩⟩
  refine ⟨((s.reslot_still r serial).toCalm.trans hset).trans he.toCalm, ?_⟩
  unfold State.standPack
  rw [State.pack, he.packs]
  exact State.pack_setPack _ r p

theorem Drained.map_iff (w : Option Save) (f : Save → Save) (hf : ∀ v, (f v).tokens = v.tokens) : Drained (w.map f) ↔ Drained w := by
  cases w with
  | none => exact Iff.rfl
  | some v => simp [Drained, hf]

theorem Restoring.leavePack {s : State} {n port : Nat} {new : List Nat} {q : SavedPack} {rest : List SavedPack} {w : Option Save}
    (h : Restoring s n port new (q :: rest) w) (hq : q.pack.id.ctx = n) (mine : List (Nat × Copy)) :
    Restoring (s.leavePack q mine) n port new rest (w.map fun v => { v with copies := v.copies.filter fun e => !mine.contains e }) := by
  obtain ⟨y, hy, hst, hcores, hrestore, hport, rfl⟩ := h
  refine ⟨{ y with save := y.save.map fun v => { v with copies := v.copies.filter fun e => !mine.contains e }, restore := y.restore.erase q }, ?_,
    hst, hcores, ?_, hport, rfl⟩
  · rw [State.leavePack, hq, State.ctx_modCtx, if_pos rfl, hy]
    rfl
  · show y.restore.erase q = rest
    rw [hrestore, List.erase_cons_head]

/-- A pack that is placed stands in its slot, and its context has one fewer to place. -/
theorem Restoring.placePack {s : State} {n port : Nat} {new : List Nat} {q : SavedPack} {rest : List SavedPack} {w : Option Save}
    (h : Restoring s n port new (q :: rest) w) (hq : q.pack.id.ctx = n) (r : PackRef) :
    (s.placePack q r).post = s.post ∧ (s.placePack q r).pack r = some (q.placed s r) ∧
      ∃ w1, Restoring (s.placePack q r) n port new rest w1 ∧ (Drained w1 ↔ Drained w) := by
  have hwork := s.placeWork_still q r
  obtain ⟨hstand, hpack⟩ := ((s.placeWork q r).leavePack q (s.packCopies q)).standPack_calm r q.pack.id.serial (q.placed s r)
  have hleft := ((h.calm hwork.toCalm).leavePack hq (s.packCopies q)).calm hstand
  have hpost := hstand.post.trans hwork.post
  have hlast : Still (((s.placeWork q r).leavePack q (s.packCopies q)).standPack r q.pack.id.serial (q.placed s r)) (s.placePack q r) := by
    rw [s.placePack_eq q r]
    split
    · exact .refl _
    · exact State.raisePack_still _ _ _ _ _ _
  refine ⟨hlast.post.trans hpost, ?_, _, hleft.calm hlast.toCalm, ?_⟩
  · rw [State.pack, hlast.packs]
    exact hpack
  · exact Drained.map_iff w _ fun _ => rfl

end Sys2Proof.Machine
end

section
/-! SUPPORT. Tokens on their way between cores are no matter of the queues that are refilled (R217, R230). -/

namespace Sys2Proof.Machine

/-- The tokens on their way to the cores stay, and those that wait at I/O die 0. -/
structure Bound (s t : State) : Prop where
  arriving : ∀ k, (t.core k).arriving = (s.core k).arriving
  hwait : t.io.hwait = s.io.hwait

namespace Bound

theorem refl (s : State) : Bound s s := ⟨fun _ => rfl, rfl⟩

theorem trans {s t u : State} (h : Bound s t) (k : Bound t u) : Bound s u := ⟨fun c => (k.arriving c).trans (h.arriving c), k.hwait.trans h.hwait⟩

theorem foldl {α : Type} (f : State → α → State) (hf : ∀ t a, Bound t (f t a)) (l : List α) (s : State) : Bound s (l.foldl f s) := by
  induction l generalizing s with
  | nil => exact refl s
  | cons a l ih => exact (hf s a).trans (ih _)

end Bound

theorem State.intake_bound (s : State) (core vc : Nat) (l : List (Tok × Nat)) :
    Bound s (s.modCore core fun c => { c with intake := c.intake.put vc l }) := by
  refine ⟨fun k => ?_, rfl⟩
  rw [State.core_modCore]
  split
  next h => subst h; rfl
  next => rfl

theorem State.refill_bound (s : State) (core vc : Nat) : Bound s (s.refill core vc) := by
  unfold State.refill
  split
  · exact .refl s
  next e _ =>
    dsimp only
    split
    · exact .refl s
    · exact (s.intake_bound core vc _).trans ⟨fun _ => rfl, rfl⟩

theorem State.refillAll_bound (s : State) (core : Nat) : Bound s (s.refillAll core) := by
  unfold State.refillAll
  exact .foldl _ (fun t _ => .foldl _ (fun u vc => u.refill_bound core vc) _ t) _ s

/-- Where nothing waits at I/O die 0, no token joins those on their way (R230, R231). -/
theorem State.refillCores_bound (s : State) (h : s.io.hwait = []) : Bound s s.refillCores := by
  have hsignal (t : State) (core : Nat) : Bound t (t.signalSpill core) := ⟨fun _ => rfl, rfl⟩
  have hb : Bound s (s.cores.foldl (fun (t : State) e => (t.signalSpill e.1).refillAll e.1) s) := by
    refine .foldl _ (fun t e => ?_) _ s
    exact (hsignal t e.1).trans (State.refillAll_bound _ e.1)
  unfold State.refillCores
  rw [State.admitHost_of_empty _ (hb.hwait.trans h)]
  exact hb

theorem State.resumed_arriving (s : State) (n : Nat) (x : Ctx) (hx : s.ctx n = some x) (ha : x.arrivals = []) (hw : s.io.hwait = []) (k : Nat) :
    ((s.resumed n).core k).arriving = (s.core k).arriving := by
  have hb := State.refillCores_bound (s.awake n x) (by
    show x.arrivals ++ s.io.hwait = []
    rw [ha, hw]
    rfl)
  rw [s.resumed_eq n x hx, State.core_congr (State.mboxEnd_cores _ _ _ _), hb.arriving]
  rfl

end Sys2Proof.Machine
end

section
/-! PROOF. RESTORED_PACK_PLACE (R356 steps 3, 6 and 7). -/

open Sys2Proof Sys2Proof.Machine Sys2Proof.Claims

namespace Sys2Proof.Proofs

section
variable {n : Nat} {s : State} {x : Ctx} (hx : s.ctx n = some x)
include hx

theorem place_not_restoring (h : x.st ≠ .restoring) : exec (.restoredPackPlace n) s = .next s := by
  show execRestoredPackPlace n s = _
  unfold execRestoredPackPlace
  rw [hx]
  exact if_pos (by simpa using h)

section
variable (hst : x.st = .restoring)
include hst

theorem restoring_self : Restoring s n x.r.port x.cores x.restore x.save := ⟨x, hx, hst, rfl, rfl, rfl, rfl⟩

/-- Where no saved pack fits, the placing comes to its end. -/
theorem exec_place_none (h : ∀ q ∈ x.restore, (s.placeSaved n).restoreFits q = none) :
    exec (.restoredPackPlace n) s = .next ((s.placeSaved n).endRestore n) := by
  have hnone : (x.restore.findSome? fun q => ((s.placeSaved n).restoreFits q).map fun e => (q, e)) = none := by
    rw [List.findSome?_eq_none_iff]
    intro q hq
    rw [h q hq]
    rfl
  show execRestoredPackPlace n s = _
  unfold execRestoredPackPlace
  rw [hx]
  dsimp only
  rw [hst, if_neg (by decide), hnone]

/-- The first saved pack that fits takes its slot. -/
theorem exec_place_first {q : SavedPack} {rest : List SavedPack} {pipe slot : Nat} (hq : x.restore = q :: rest)
    (h : (s.placeSaved n).restoreFits q = some (pipe, slot)) :
    exec (.restoredPackPlace n) s = .next (((s.placeSaved n).placePack q { core := q.core, pipe := pipe, slot := slot }).endRestore n) := by
  have hsome : (x.restore.findSome? fun q => ((s.placeSaved n).restoreFits q).map fun e => (q, e)) = some (q, (pipe, slot)) := by
    rw [hq, List.findSome?_cons, h]
    rfl
  show execRestoredPackPlace n s = _
  unfold execRestoredPackPlace
  rw [hx]
  dsimp only
  rw [hst, if_neg (by decide), hsome]

/-! ### Nothing is placed -/

/-- Nothing changes but that the move was made. -/
def Unmoved (s : State) (n : Nat) (x : Ctx) : Prop :=
  ∃ t, exec (.restoredPackPlace n) s = .next t ∧ t.ctx n = some x ∧ t.cores = s.cores ∧ t.mem = s.mem ∧ t.io = s.io

omit hst in
/-- With no token in the image the placing of tokens leaves the state as it is. -/
theorem placeSaved_drained (h : Drained x.save) : ∃ cs, s.placeSaved n = { s with ctxs := cs } ∧ ∀ m, ({ s with ctxs := cs } : State).ctx m = s.ctx m := by
  cases hs : x.save with
  | none => exact ⟨s.ctxs, s.placeSaved_of_no_save n x hx hs, fun _ => rfl⟩
  | some v =>
    have hv : v.tokens = [] := h v hs
    refine ⟨(s.keepTokens n []).ctxs, ?_, ctx_keepTokens_same s n x [] hx h⟩
    rw [s.placeSaved_eq n x v hx hs, hv]
    rfl

theorem place_nothing (hp : x.restore ≠ []) (hd : Drained x.save) (h : ∀ q ∈ x.restore, s.restoreFits q = none) : Unmoved s n x := by
  obtain ⟨cs, hcs, hctx⟩ := placeSaved_drained hx hd
  have hfits (q : SavedPack) : (s.placeSaved n).restoreFits q = s.restoreFits q := by rw [hcs]; exact s.restoreFits_congr cs hctx q
  have hr : Restoring (s.placeSaved n) n x.r.port x.cores x.restore x.save := by
    rw [hcs]
    exact ⟨x, (hctx n).trans hx, hst, rfl, rfl, rfl, rfl⟩
  refine ⟨_, exec_place_none hx hst fun q hq => (hfits q).trans (h q hq), ?_⟩
  rw [hr.endRestore_of_left (.inl hp), hcs]
  exact ⟨(hctx n).trans hx, rfl, rfl, rfl⟩

theorem place_full {q : SavedPack} (hq : x.restore = [q]) (hd : Drained x.save)
    (h : ∀ pipe < 4, 16 < ((s.core q.core).pipe pipe).queue.length + q.queue.length) : Unmoved s n x := by
  refine place_nothing hx hst (by rw [hq]; exact List.cons_ne_nil _ _) hd fun p hp => ?_
  rw [hq, List.mem_singleton] at hp
  rw [hp]
  exact s.restoreFits_of_full q h

/-! ### The last saved token -/

section
variable {w : Save} {k : Tok} {b : Block} (hp : x.restore = []) (hw : x.save = some w) (htokens : w.tokens = [k]) (hctx : k.ctx = n) (hslot : k.slot ≠ 0xFFFF)
  (hb : s.block k.slot = some b) (hbctx : b.ctx = n) (hord : b.ordered = false) (hlaunch : s.launches = [])
include hw htokens hctx hslot hb hbctx hord hlaunch

omit hst in
/-- The one token of an image is placed if its core accepts it, and stays if not (R217, R231). -/
theorem placeSaved_one : s.placeSaved n = if s.accepts (s.placeCore x b (tagIndex k.tag)) k = true
    then (s.arrive (s.placeCore x b (tagIndex k.tag)) k).keepTokens n [] else s.keepTokens n [k] := by
  have htry : s.tryPlace x k = if s.accepts (s.placeCore x b (tagIndex k.tag)) k = true then some (s.arrive (s.placeCore x b (tagIndex k.tag)) k) else none := by
    have hun : s.unitSlot k = .ok b := by
      unfold State.unitSlot
      simp [hb, hbctx, hctx]
    have hlocal : s.placeLocal x b k = s.arrive (s.placeCore x b (tagIndex k.tag)) k := by
      unfold State.placeLocal
      simp [hord]
    unfold State.tryPlace
    simp [awayNode_of_no_launch s k hlaunch, hslot, hun, hord, hlocal]
  rw [s.placeSaved_eq n x w hx hw, htokens, State.placeList]
  simp only [List.foldl_cons, List.foldl_nil, List.any_nil, Bool.false_eq_true, if_false, htry]
  cases s.accepts (s.placeCore x b (tagIndex k.tag)) k <;> rfl

include hp

theorem place_token_stays (hacc : s.accepts (s.placeCore x b (tagIndex k.tag)) k = false) : Unmoved s n x := by
  have hone := placeSaved_one hx hw htokens hctx hslot hb hbctx hord hlaunch
  rw [hacc, if_neg Bool.false_ne_true] at hone
  have hsame : (s.keepTokens n [k]).ctx n = some x :=
    (ctx_keepTokens_same s n x [k] hx (fun w1 hw1 => by rw [hw] at hw1; cases hw1; exact htokens) n).trans hx
  have hr : Restoring (s.keepTokens n [k]) n x.r.port x.cores x.restore (some w) := ⟨x, hsame, hst, rfl, rfl, rfl, hw⟩
  have hleft : ¬Drained (some w) := fun hd => by rw [hd w rfl] at htokens; cases htokens
  refine ⟨_, exec_place_none hx hst fun q hq => (by rw [hp] at hq; cases hq), ?_⟩
  rw [hone, hr.endRestore_of_left (.inr hleft)]
  exact ⟨hsame, rfl, rfl, rfl⟩

theorem place_token_last (hacc : s.accepts (s.placeCore x b (tagIndex k.tag)) k = true) (hwait : s.io.hwait = []) (ha : x.arrivals = []) (hport : x.r.port < 2)
    (hlen : s.io.mbox.length = 2) : Closes s (.restoredPackPlace n) x.r.port 0 fun t =>
      (t.core (s.placeCore x b (tagIndex k.tag))).arriving = (s.core (s.placeCore x b (tagIndex k.tag))).arriving ++ [k] ∧
        ∃ y, t.ctx n = some y ∧ y.st = .running ∧ y.save = none := by
  have hone := placeSaved_one hx hw htokens hctx hslot hb hbctx hord hlaunch
  rw [hacc, if_pos rfl] at hone
  have hr := ((restoring_self hx hst).calm (s.arrive_still (s.placeCore x b (tagIndex k.tag)) k).toCalm).keepTokens []
  rw [hp] at hr
  have hd : Drained (x.save.map fun v => { v with tokens := [] }) := by
    rw [hw]
    rintro _ ⟨⟩
    rfl
  have hctx0 : ((s.arrive (s.placeCore x b (tagIndex k.tag)) k).keepTokens n []).ctx n = some { x with save := x.save.map fun v => { v with tokens := [] } } := by
    have : (s.arrive (s.placeCore x b (tagIndex k.tag)) k).ctx n = some x := hx
    rw [State.keepTokens, State.ctx_modCtx, if_pos rfl, this]
    rfl
  obtain ⟨u, hu, hlevel, y, hy, hrun, -, -, hsave⟩ := hr.endRestore_of_done hd
  refine ⟨_, exec_place_none hx hst fun q hq => (by rw [hp] at hq; cases hq), ?_⟩
  rw [hone]
  refine ⟨?_, ?_, y, ?_, hrun, hsave⟩
  · rw [hu]
    exact ended_later hport hlen (by decide) hlevel.post
  · rw [hr.endRestore_eq_resumed hd, State.resumed_arriving _ n _ hctx0 ha hwait]
    exact arriving_arrive _ _ _
  · rw [hu]
    exact hy

end

/-! ### A pack -/

section
variable {q : SavedPack} {rest : List SavedPack} {pipe slot : Nat} (hq : x.restore = q :: rest) (hqctx : q.pack.id.ctx = n)
  (hfit : (s.placeSaved n).restoreFits q = some (pipe, slot))
include hq hqctx hfit

/-- A token waits in the image of a context. -/
def TokenLeft (u : State) (n : Nat) : Prop := ∃ y w, u.ctx n = some y ∧ y.save = some w ∧ w.tokens ≠ []

/-- A pack is back in a slot: as a recovery pack, with its registers and its frame. -/
def Back (q : SavedPack) (r : PackRef) (t : State) : Prop :=
  ∃ p, t.pack r = some p ∧ p.r = q.pack.r ∧ p.id.restored = true ∧ p.id.tags = q.pack.id.tags ∧ p.c.st = q.pack.c.st ∧ p.c.pc = q.pack.c.pc ∧
    p.m.frame = q.pack.m.frame

omit hx hst hq hqctx hfit in
theorem back_of_placed {u t : State} {r : PackRef} (h : t.pack r = some (q.placed u r)) : Back q r t := ⟨_, h, rfl, rfl, rfl, rfl, rfl, rfl⟩

omit hx hst hq hqctx hfit in
theorem tokenLeft_iff {u : State} {port : Nat} {new : List Nat} {packs : List SavedPack} {w : Option Save} (h : Restoring u n port new packs w) :
    TokenLeft u n ↔ ¬Drained w := by
  obtain ⟨y, hy, -, -, -, -, rfl⟩ := h
  constructor
  · rintro ⟨z, w, hz, hw, hne⟩ hd
    rw [hy] at hz
    cases hz
    exact hne (hd w hw)
  · intro hd
    simp only [Drained, not_forall] at hd
    obtain ⟨w, hw, hne⟩ := hd
    exact ⟨y, w, hy, hw, hne⟩

omit hq hqctx in
theorem slot_free : s.pack { core := q.core, pipe := pipe, slot := slot } = none := by
  obtain ⟨hlevel, -⟩ := (restoring_self hx hst).placeSaved
  have h := (s.placeSaved n).pack_of_restoreFits q pipe slot hfit
  rwa [State.pack, hlevel.packs] at h

/-- The pack in its slot, and the packs and tokens that are left. -/
theorem place_pack : ∃ v w, exec (.restoredPackPlace n) s = .next (v.endRestore n) ∧ v.post = s.post ∧
    v.pack { core := q.core, pipe := pipe, slot := slot } = some (q.placed (s.placeSaved n) { core := q.core, pipe := pipe, slot := slot }) ∧
    Restoring v n x.r.port x.cores rest w ∧ (TokenLeft (s.placeSaved n) n ↔ ¬Drained w) := by
  obtain ⟨hlevel, w, hw, -, -⟩ := (restoring_self hx hst).placeSaved
  rw [hq] at hw
  obtain ⟨hpost, hpack, w1, hw1, hdrained⟩ := hw.placePack hqctx { core := q.core, pipe := pipe, slot := slot }
  exact ⟨_, w1, exec_place_first hx hst hq hfit, hpost.trans hlevel.post, hpack, hw1, (tokenLeft_iff hw).trans (not_congr hdrained.symm)⟩

theorem place_pack_last (hport : x.r.port < 2) (hlen : s.io.mbox.length = 2) (hrest : rest = []) (hl : ¬TokenLeft (s.placeSaved n) n) :
    Closes s (.restoredPackPlace n) x.r.port 0 fun t =>
      Back q { core := q.core, pipe := pipe, slot := slot } t ∧ ∃ y, t.ctx n = some y ∧ y.st = .running ∧ y.save = none := by
  obtain ⟨v, w, he, hpost, hpack, hw, hleft⟩ := place_pack hx hst hq hqctx hfit
  subst hrest
  obtain ⟨u, hu, hlevel, y, hy, hrun, -, -, hsave⟩ := hw.endRestore_of_done (by rwa [hleft, not_not] at hl)
  rw [hu] at he
  refine ⟨_, he, ended_later hport hlen (by decide) (hlevel.post.trans hpost), back_of_placed (u := s.placeSaved n) ?_, y, hy, hrun, hsave⟩
  show u.pack _ = _
  rw [State.pack, hlevel.packs]
  exact hpack

theorem place_pack_more (h : rest ≠ [] ∨ TokenLeft (s.placeSaved n) n) : ∃ t y, exec (.restoredPackPlace n) s = .next t ∧
    Back q { core := q.core, pipe := pipe, slot := slot } t ∧ t.ctx n = some y ∧ y.st = .restoring ∧ y.restore = rest := by
  obtain ⟨v, w, he, -, hpack, hw, hleft⟩ := place_pack hx hst hq hqctx hfit
  rw [hw.endRestore_of_left (h.imp id hleft.mp)] at he
  obtain ⟨y, hy, hyst, -, hrestore, -, -⟩ := hw
  exact ⟨v, y, he, back_of_placed hpack, hy, hyst, hrestore⟩

end

end

end

/-! ### The statement -/

/-- Settles O25: RESUME by its checks and the state after steps 1 to 5, and the placing by what still waits in the image. -/
theorem resumption : Obligations.Resumption := by
  unfold Obligations.Resumption
  refine ⟨?_, ?_⟩
  · intro c s x hi hm ho
    refine ⟨resume_during_checkpoint hi hm ho, resume_not_preempted hi hm ho, fun v hc hst hv => ⟨?_, ?_, ?_, ?_, ?_⟩⟩
    · exact fun h => resume_away hi hm ho hc hst hv h
    · exact fun h hr => resume_small hi hm ho hc hst hv h hr
    · exact fun h hr hf => resume_full hi hm ho hc hst hv h hr hf
    · intro h hr hpacks hin hrec hconst hg
      refine ⟨fun hn hentries htokens harrivals => ?_, fun hn => ?_, fun hn => ?_⟩
      · exact resume_empty hi hm ho hc hst hv h hr hpacks hin hrec hconst hg hn hentries htokens harrivals
      · exact resume_runs_or_waits hi hm ho hc hst hv h hr hpacks hin hrec hconst hg hn
      · exact resume_stands hi hm ho hc hst hv h hr hpacks hin hrec hconst hg hn
    · intro oc age e b h hr hsame hpacks hwakes hcopies hghosts hentries _ hb hports hlevel hrec hconst core hcore
      exact resume_entry hi hm ho hc hst hv h hr hsame hpacks hwakes hcopies hghosts hrec hconst oc age e b hentries hb hports hlevel hcore
  · intro n s x hx
    refine ⟨place_not_restoring hx, fun hst => place_nothing hx hst, fun q hst hq hd h => place_full hx hst hq hd h, ?_, ?_⟩
    · intro w k b hst hp hw htokens hctx hslot hb hbctx hord hlaunch hport hlen
      refine ⟨fun hacc => ?_, fun hacc hwait ha => ?_⟩
      · exact place_token_stays hx hst hp hw htokens hctx hslot hb hbctx hord hlaunch hacc
      · exact place_token_last hx hst hp hw htokens hctx hslot hb hbctx hord hlaunch hacc hwait ha hport hlen
    · intro q rest pipe slot hst hq hqctx hfit hport hlen
      refine ⟨slot_free hx hst hfit, fun hrest hl => ?_, fun h => ?_⟩
      · exact place_pack_last hx hst hq hqctx hfit hport hlen hrest hl
      · exact place_pack_more hx hst hq hqctx hfit h

end Sys2Proof.Proofs
end

section
/-! SUPPORT. The words of an instruction as the decoder reads them: codes read back, the fields of a word of each format, and the decoding
of a word of a major opcode (R34 to R48). -/

namespace Sys2Proof

open Enc

/-! ### Codes -/

theorem bit_lt (b : Bool) : bit b < 2 := by cases b <;> decide
theorem ty_lt (t : IntTy) : ty t < 4 := by cases t <;> decide
theorem rnd_lt (r : Rnd) : rnd r < 5 := by cases r <;> decide
theorem cond_lt (c : Cond) : cond c < 6 := by cases c <;> decide
theorem fcond_lt (c : FCond) : fcond c < 8 := by cases c <;> decide
theorem scope_lt (sc : Scope) : scope sc < 4 := by cases sc <;> decide
theorem sz_lt (z : Sz) : sz z < 4 := by cases z <;> decide
theorem ElemTy.code_lt (t : ElemTy) : t.code < 16 := by cases t <;> decide
theorem redOp_lt (op : RedOp) : redOp op < 6 := by cases op <;> decide
theorem redTy_lt (t : RedTy) : redTy t < 3 := by cases t <;> decide
theorem ctl_lt (c : Ctl) : ctl c < 8 := by cases c <;> decide
theorem atomOp_lt (op : AtomOp) : atomOp op < 8 := by cases op <;> decide
theorem atomOrder_lt (o : AtomOrder) : atomOrder o < 4 := by cases o <;> decide
theorem cpyMode_lt (md : CpyMode) : cpyMode md < 7 := by cases md <;> decide
theorem tactAct_lt (a : Act) : tactAct a < 5 := by cases a <;> decide
theorem tactOut_lt (t : ElemTy) : tactOut t < 5 := by cases t <;> decide
theorem rel_lt (r : Option Scope) : rel r < 8 := by
  cases r with
  | none => decide
  | some sc => have := scope_lt sc; simp only [rel]; omega

@[simp] theorem bit_eq_one (b : Bool) : (bit b == 1) = b := by cases b <;> rfl
@[simp] theorem bit_eq_one_iff (b : Bool) : bit b = 1 ↔ b = true := by cases b <;> decide
@[simp] theorem decIntTy_ty (t : IntTy) : Dec.intTy (ty t) = t := by cases t <;> rfl
@[simp] theorem decRnd_rnd (r : Rnd) : Dec.rnd (rnd r) = .ok r := by cases r <;> rfl
@[simp] theorem decCond_cond (c : Cond) : Dec.cond (cond c) = .ok c := by cases c <;> rfl
@[simp] theorem decFcond_fcond (c : FCond) : Dec.fcond (fcond c) = c := by cases c <;> rfl
@[simp] theorem decElem_code (t : ElemTy) : Dec.elem t.code = .ok t := by cases t <;> rfl
@[simp] theorem decScope_scope (sc : Scope) : Dec.scope (scope sc) = sc := by cases sc <;> rfl
@[simp] theorem decSz_sz (z : Sz) : Dec.sz (sz z) = z := by cases z <;> rfl
@[simp] theorem decRedOp_redOp (op : RedOp) : Dec.redOp (redOp op) = .ok op := by cases op <;> rfl
@[simp] theorem decCtl_ctl (c : Ctl) : Dec.ctl (ctl c) = .ok c := by cases c <;> rfl
@[simp] theorem decAtomOp_atomOp (op : AtomOp) : Dec.atomOp (atomOp op) = .ok op := by cases op <;> rfl
@[simp] theorem decAtomOrder_atomOrder (o : AtomOrder) : Dec.atomOrder (atomOrder o) = o := by cases o <;> rfl
@[simp] theorem decCpyMode_cpyMode (md : CpyMode) : Dec.cpyMode (cpyMode md) = .ok md := by cases md <;> rfl
@[simp] theorem decTactAct_tactAct (a : Act) : Dec.tactAct (tactAct a) = .ok a := by cases a <;> rfl

/-- Packed half takes three of the rounding codes (R48). -/
theorem decRndHalf_rnd (r : Rnd) (h : (r == .dyn || r == .rne || r == .rtz) = true) : Dec.rndHalf (rnd r) = .ok r := by
  cases r with
  | dyn | rne | rtz => rfl
  | rup | rdn => cases h

/-- The types of REDUCE and SCAN: FP32 with three of the operations (R48). -/
theorem decRedTy_redTy (op : RedOp) (t : RedTy) (h : (t != .f32 || op == .add || op == .min || op == .max) = true) :
    Dec.redTy op (redTy t) = .ok t := by
  cases t with
  | i32 | n32 => rfl
  | f32 => exact if_pos (by simpa [or_assoc] using h)

/-- The output types of TACT are the floating-point ones (R52). -/
theorem decTactOut_tactOut (t : ElemTy) (h : t.isFloat = true) : Dec.tactOut (tactOut t) = .ok t := by
  cases t with
  | f32 | f16 | bf16 | e4m3 | e5m2 => rfl
  | _ => cases h

/-- A signed immediate is read back (R38). -/
theorem signed_imm (n : Nat) (i : Int) (hn : 0 < n) (h : WF.simm n i = true) : Dec.signed n (imm n i) = i := by
  obtain ⟨m, rfl⟩ : ∃ m, n = m + 1 := ⟨n - 1, by omega⟩
  simp only [WF.simm, Nat.add_sub_cancel, Bool.and_eq_true, decide_eq_true_eq] at h
  have hp : ((2 ^ (m + 1) : Nat) : Int) = 2 * 2 ^ m := by push_cast; ring
  have hq : ((2 ^ m : Nat) : Int) = 2 ^ m := by push_cast; rfl
  simp only [Dec.signed, imm, Nat.add_sub_cancel]
  generalize (2 : Int) ^ m = k at h hp hq
  have hmod : i % (2 * k) = if 0 ≤ i then i else i + 2 * k := by
    split
    · exact Int.emod_eq_of_lt ‹_› (by omega)
    · rw [← Int.add_emod_right]
      exact Int.emod_eq_of_lt (by omega) (by omega)
  rw [hp, hmod]
  split <;> split <;> omega

theorem imm_lt (n : Nat) (i : Int) : imm n i < 2 ^ n := by
  have hp : (0 : Int) < (2 ^ n : Nat) := by exact_mod_cast Nat.two_pow_pos n
  have h0 := Int.emod_nonneg i hp.ne'
  have h1 := Int.emod_lt_of_pos i hp
  unfold imm
  omega

end Sys2Proof
end

section
/-! SUPPORT. What the decoder's parts read from a word with given fields (R37 to R61). -/

namespace Sys2Proof

open Enc

/-! ### Fields of a word -/

/-- The fields of a word of format A (R37). -/
structure FieldsA (x d a b fn s : Nat) : Prop where
  d : Dec.d x = d
  a : Dec.a x = a
  b : Dec.b x = b
  fn : Dec.fn x = fn
  s : Dec.s x = s

theorem fieldsA_of_mod {x d a b fn s : Nat} (h : x % 2 ^ 24 = d * 2 ^ 18 + a * 2 ^ 12 + b * 2 ^ 6 + fn * 2 + s) (ha : a < 64)
    (hb : b < 64) (hfn : fn < 32) (hs : s < 2) : FieldsA x d a b fn s := by
  constructor <;> simp only [Dec.d, Dec.a, Dec.b, Dec.fn, Dec.s, fld] <;> omega

/-- The fields of a word of format B, which those of format M are with its immediate, and of format C with its (R37). -/
structure FieldsB (x d a im : Nat) : Prop where
  d : Dec.d x = d
  a : Dec.a x = a
  im : x % 2 ^ 12 = im

theorem fieldsB_of_mod {x d a im : Nat} (h : x % 2 ^ 24 = d * 2 ^ 18 + a * 2 ^ 12 + im) (ha : a < 64) (him : im < 2 ^ 12) :
    FieldsB x d a im := by
  constructor
  · simp only [Dec.d, fld]; omega
  · simp only [Dec.a, fld]; omega
  · omega

/-- The fields of a word of format C (R37). -/
structure FieldsC (x d im : Nat) : Prop where
  d : Dec.d x = d
  im : x % 2 ^ 18 = im

theorem fieldsC_of_mod {x d im : Nat} (h : x % 2 ^ 24 = d * 2 ^ 18 + im) (him : im < 2 ^ 18) : FieldsC x d im := by
  constructor
  · simp only [Dec.d, fld]; omega
  · omega

theorem FieldsC.fld_im {x d im : Nat} (h : FieldsC x d im) : fld x 17 0 = im := by simpa [fld] using h.im

/-- The fields of a word of format T (R37). -/
structure FieldsT (x md ma mb td fn : Nat) : Prop where
  md : Dec.tmd x = md
  ma : Dec.tma x = ma
  mb : Dec.tmb x = mb
  td : Dec.ttd x = td
  fn : Dec.tfn x = fn

theorem fieldsT_of_mod {x md ma mb td fn : Nat} (h : x % 2 ^ 24 = md * 2 ^ 20 + ma * 2 ^ 16 + mb * 2 ^ 12 + td * 2 ^ 8 + fn) (hma : ma < 16)
    (hmb : mb < 16) (htd : td < 16) (hfn : fn < 256) : FieldsT x md ma mb td fn := by
  constructor <;> simp only [Dec.tmd, Dec.tma, Dec.tmb, Dec.ttd, Dec.tfn, fld] <;> omega

/-- Of a word of format T with md alone, the rest is zero. -/
theorem FieldsT.fld_low {x md : Nat} (h : FieldsT x md 0 0 0 0) : fld x 19 0 = 0 := by
  obtain ⟨-, hma, hmb, htd, hfn⟩ := h
  simp only [Dec.tma, Dec.tmb, Dec.ttd, Dec.tfn, fld] at *
  omega

theorem FieldsC.fld_all {x : Nat} (h : FieldsC x 0 0) : fld x 23 0 = 0 := by
  obtain ⟨hd, him⟩ := h
  simp only [Dec.d, fld] at *
  omega

/-- The bits of a field come from those below its highest. -/
theorem fld_of_mod {x y n hi lo : Nat} (h : x % 2 ^ n = y % 2 ^ n) (hn : hi < n) (hlo : lo ≤ hi) : fld x hi lo = fld y hi lo := by
  have hd : 2 ^ (hi + 1) ∣ 2 ^ n := Nat.pow_dvd_pow 2 hn
  have hm : x % 2 ^ (hi + 1) = y % 2 ^ (hi + 1) := by rw [← Nat.mod_mod_of_dvd x hd, h, Nat.mod_mod_of_dvd y hd]
  have hs : 2 ^ lo * 2 ^ (hi + 1 - lo) = 2 ^ (hi + 1) := by rw [← Nat.pow_add]; congr 1; omega
  rw [fld, fld, ← Nat.mod_mul_right_div_self, ← Nat.mod_mul_right_div_self, hs, hm]

/-! ### Operands -/

@[simp] theorem need_true (e : Reject) : Dec.need true e = .ok () := rfl

@[simp] theorem ok_bind {α β : Type} (v : α) (f : α → Dec.R β) : ((.ok v : Dec.R α) >>= f) = f v := rfl

theorem lt_of_vreg {wide : Bool} {r : Nat} (h : WF.vreg wide r = true) : r < 64 := by
  simp only [WF.vreg, Bool.and_eq_true, decide_eq_true_eq] at h; exact h.1
theorem lt_of_sreg {wide : Bool} {r : Nat} (h : WF.sreg wide r = true) : r < 32 := by
  simp only [WF.sreg, Bool.and_eq_true, decide_eq_true_eq] at h; exact h.1
theorem lt_of_kreg {r : Nat} (h : WF.kreg r = true) : r < 8 := by simpa [WF.kreg] using h
theorem lt_of_kdst {r : Nat} (h : WF.kdst r = true) : r < 8 := by
  simp only [WF.kdst, Bool.and_eq_true, decide_eq_true_eq] at h; exact h.2
theorem lt_of_mreg {r : Nat} (h : WF.mreg r = true) : r < 16 := by simpa [WF.mreg] using h
theorem lt_of_vrun {d n : Nat} (h : WF.vrun d n = true) : d < 64 := by
  simp only [WF.vrun, Bool.and_eq_true, decide_eq_true_eq] at h; exact h.1
theorem breg_lt {wide : Bool} {b : BOp} (h : WF.bop wide b = true) : breg b < 64 := by
  cases b with
  | v r => exact lt_of_vreg h
  | s r => exact (lt_of_sreg h).trans (by decide)
theorem bs_lt (b : BOp) : bs b < 2 := by cases b <;> simp [bs]

section
variable {x d a fn : Nat} {b : BOp}

/-- The b operand is read back from its field and S (R40). -/
theorem FieldsA.bop {wide : Bool} (h : FieldsA x d a (breg b) fn (bs b)) (hb : WF.bop wide b = true) : Dec.bop wide x = .ok b := by
  unfold Dec.bop
  rw [h.s, h.b]
  cases b with
  | v r => simp [bs, breg, Dec.v, show WF.vreg wide r = true from hb, bind, Except.bind]
  | s r => simp [bs, breg, Dec.u, show WF.sreg wide r = true from hb, bind, Except.bind]

/-- A b operand with a register after it is one (R122). -/
theorem bop_of_bopNext (hb : WF.bopNext b = true) : WF.bop false b = true := by
  cases b with
  | v r => have : r < 63 := by simpa [WF.bopNext] using hb
           simp [WF.bop, WF.vreg]; omega
  | s r => have : r < 31 := by simpa [WF.bopNext] using hb
           simp [WF.bop, WF.sreg]; omega

theorem FieldsA.bopNext (h : FieldsA x d a (breg b) fn (bs b)) (hb : WF.bopNext b = true) : Dec.bopNext x = .ok b := by
  simp [Dec.bopNext, h.bop (bop_of_bopNext hb), hb]

theorem FieldsA.noB (h : FieldsA x d a 0 fn 0) : Dec.noB x = .ok () := by simp [Dec.noB, h.b, h.s]

theorem FieldsA.da (h : FieldsA x d a 0 0 0) : Dec.da x = .ok () := by simp [Dec.da, h.b, h.s, h.fn]

end

section
variable {r : Nat}
theorem dec_v {wide : Bool} (h : WF.vreg wide r = true) : Dec.v wide r = .ok r := by rw [Dec.v, if_pos h]
theorem dec_u {wide : Bool} (h : WF.sreg wide r = true) : Dec.u wide r = .ok r := by rw [Dec.u, if_pos h]
theorem dec_k (h : WF.kreg r = true) : Dec.k r = .ok r := by rw [Dec.k, if_pos h]
theorem dec_kd (h : WF.kdst r = true) : Dec.kd r = .ok r := by rw [Dec.kd, if_pos h]
theorem dec_m (h : WF.mreg r = true) : Dec.m r = .ok r := by rw [Dec.m, if_pos h]
end

/-! ### Integer instructions -/

section
variable {x d a : Nat} {b : BOp}

theorem arithSat_of_fields {mk : Bool → IntTy → Nat → Nat → BOp → Instr} {s : Bool} {t : IntTy}
    (hw : (WF.vreg t.wide d && WF.vreg t.wide a && WF.bop t.wide b) = true)
    (h : FieldsA x d a (breg b) (bit s * 4 + ty t) (bs b)) : Dec.arithSat mk x = .ok (mk s t d a b) := by
  simp only [Bool.and_eq_true] at hw
  obtain ⟨⟨hd, ha⟩, hb⟩ := hw
  have hs := bit_lt s
  have ht := ty_lt t
  have h8 : (bit s * 4 + ty t) / 8 = 0 := by omega
  have h4 : (bit s * 4 + ty t) % 4 = ty t := by omega
  have h2 : (bit s * 4 + ty t) / 4 % 2 = bit s := by omega
  simp [Dec.arithSat, h.d, h.a, h.fn, h8, h4, h2, h.bop hb, dec_v, hd, ha]

theorem arith_of_fields {mk : IntTy → Nat → Nat → BOp → Instr} {t : IntTy}
    (hw : (WF.vreg t.wide d && WF.vreg t.wide a && WF.bop t.wide b) = true)
    (h : FieldsA x d a (breg b) (ty t) (bs b)) : Dec.arith mk x = .ok (mk t d a b) := by
  simp only [Bool.and_eq_true] at hw
  obtain ⟨⟨hd, ha⟩, hb⟩ := hw
  have ht := ty_lt t
  have h0 : ty t / 4 = 0 := by omega
  have h4 : ty t % 4 = ty t := by omega
  simp [Dec.arith, h.d, h.a, h.fn, h0, h4, h.bop hb, dec_v, hd, ha]

theorem immB_of_fields {mk : Nat → Nat → Int → Instr} {i : Int} (hw : (WF.vreg false d && WF.vreg false a && WF.simm 12 i) = true)
    (h : FieldsB x d a (imm 12 i)) : Dec.immB mk x = .ok (mk d a i) := by
  simp only [Bool.and_eq_true] at hw
  obtain ⟨⟨hd, ha⟩, hi⟩ := hw
  have him : fld x 11 0 = imm 12 i := by simpa [fld] using h.im
  simp [Dec.immB, h.d, h.a, him, dec_v, hd, ha, signed_imm 12 i (by decide) hi]

theorem logic_of_fields {mk : Bool → Nat → Nat → BOp → Instr} {wide : Bool}
    (hw : (WF.vreg wide d && WF.vreg wide a && WF.bop wide b) = true)
    (h : FieldsA x d a (breg b) (bit wide) (bs b)) : Dec.logic mk x = .ok (mk wide d a b) := by
  simp only [Bool.and_eq_true] at hw
  obtain ⟨⟨hd, ha⟩, hb⟩ := hw
  have hl := bit_lt wide
  have h2 : bit wide / 2 = 0 := by omega
  have hm : bit wide % 2 = bit wide := by omega
  simp [Dec.logic, h.d, h.a, h.fn, h2, hm, h.bop hb, dec_v, hd, ha]

theorem lt_of_amount {wide : Bool} {n : Nat} (h : WF.amount wide n = true) : n < 64 := by
  cases wide <;> simp [WF.amount] at h <;> omega

/-- The fields of the immediate of a shift (R49). -/
theorem shiftImm_fields {w sel n : Nat} (h : x % 2 ^ 12 = w * 2 ^ 8 + sel * 2 ^ 6 + n) (hw : w < 2) (hsel : sel < 4) (hn : n < 64) :
    fld x 11 9 = 0 ∧ fld x 8 8 = w ∧ fld x 7 6 = sel ∧ fld x 5 0 = n := by
  simp only [fld]
  omega

theorem fp_of_fields {mk : Rnd → Nat → Nat → BOp → Instr} {r : Rnd} (hw : (WF.vreg false d && WF.vreg false a && WF.bop false b) = true)
    (h : FieldsA x d a (breg b) (rnd r) (bs b)) : Dec.fp mk x = .ok (mk r d a b) := by
  simp only [Bool.and_eq_true] at hw
  obtain ⟨⟨hd, ha⟩, hb⟩ := hw
  have hr := rnd_lt r
  have h0 : rnd r / 8 = 0 := by omega
  have h8 : rnd r % 8 = rnd r := by omega
  simp [Dec.fp, h.d, h.a, h.fn, h0, h8, h.bop hb, dec_v, hd, ha]

theorem bitField_bounds {p l : Nat} (h : WF.bitField p l = true) : p < 32 ∧ l - 1 < 32 ∧ l - 1 + 1 = l := by
  simp only [WF.bitField, Bool.and_eq_true, decide_eq_true_eq] at h
  omega

/-- The fields of the immediate of BFX and BFI (R49). -/
theorem bitField_fields {sg p l : Nat} (h : x % 2 ^ 12 = sg * 2 ^ 11 + (l - 1) * 2 ^ 6 + p) (hlt : l - 1 < 32)
    (hl : l - 1 + 1 = l) (hp : p < 32) : fld x 5 0 = p ∧ fld x 10 6 + 1 = l ∧ fld x 11 11 = sg := by
  simp only [fld]
  omega

/-- Packed half has three codes (R48). -/
theorem rnd_half_lt {r : Rnd} (h : (r == .dyn || r == .rne || r == .rtz) = true) : rnd r < 3 := by
  cases r with
  | dyn | rne | rtz => decide
  | rup | rdn => cases h

theorem half2_fields {r : Rnd} {bf : Bool} {k : Nat} (h : Dec.fn x = rnd r * 8 + bit bf * 4 + k) (hk : k < 4) :
    Dec.fn x / 8 = rnd r ∧ Dec.fn x / 4 % 2 = bit bf ∧ Dec.fn x % 4 = k := by
  have := bit_lt bf
  omega

/-- The fields of fn in REDUCE and SCAN (R48). -/
theorem red_fields (op : RedOp) (t : RedTy) :
    redTy t * 8 + redOp op < 32 ∧ (redTy t * 8 + redOp op) % 8 = redOp op ∧ (redTy t * 8 + redOp op) / 8 = redTy t := by
  have := redOp_lt op
  have := redTy_lt t
  omega

/-! ### Tiles, memory and control -/

theorem tact_fields {z out act : Nat} (h : Dec.tfn x = z * 128 + out * 16 + act) (hout : out < 5) (hact : act < 5) :
    Dec.tfn x % 16 = act ∧ Dec.tfn x / 16 % 8 = out ∧ Dec.tfn x / 128 = z := by omega

/-- The fields of the immediate of format M (R37). -/
theorem fmtM_fields {k z im : Nat} (h : x % 2 ^ 12 = k * 2 ^ 9 + z * 2 ^ 7 + im) (hk : k < 8) (hz : z < 4) (him : im < 2 ^ 7) :
    fld x 11 9 = k ∧ fld x 8 7 = z ∧ fld x 6 0 = im := by
  simp only [fld]
  omega

/-- An access through a view is no pair (R191). -/
theorem narrow_of_loadSz {z : Sz} {sg : Bool} (h : WF.loadSz true z sg = true) : (z == .d) = false := by
  cases z with
  | d => simp [WF.loadSz] at h
  | b | h | w => rfl

theorem fence_fields {sc kd : Nat} (h : x % 2 ^ 18 = sc * 4 + kd) (hsc : sc < 4) (hkd : kd < 4) :
    fld x 17 4 = 0 ∧ fld x 1 0 = kd ∧ fld x 3 2 = sc := by
  simp only [fld]
  omega

theorem ret_fields {r n : Nat} (h : x % 2 ^ 18 = r * 2 ^ 4 + n) (hr : r < 8) (hn : n ≤ 8) :
    fld x 17 7 = 0 ∧ fld x 3 0 = n ∧ fld x 6 6 = r / 4 ∧ fld x 5 4 = r % 4 := by
  simp only [fld]
  omega

/-- A release and its scope are read back (R50, R54). -/
theorem relOf_rel (r : Option Scope) : Dec.relOf (rel r / 4) (rel r % 4) = .ok r := by
  rcases r with - | (_ | _ | _ | _) <;> rfl

end

/-! ### Second words -/

/-- The fields of word 1 of LMV (R58). -/
theorem lmv_fields {y z w rows cols off : Nat} (h : y = z * 2 ^ 27 + w * 2 ^ 26 + (cols - 1) * 2 ^ 22 + (rows - 1) * 2 ^ 18 + off) (hz : z < 2) (hw : w < 2)
    (hr0 : 0 < rows) (hr : rows ≤ 16) (hc0 : 0 < cols) (hc : cols ≤ 16) (hoff : off < 2 ^ 18) :
    fld y 31 28 = 0 ∧ fld y 27 27 = z ∧ fld y 26 26 = w ∧ fld y 25 22 + 1 = cols ∧ fld y 21 18 + 1 = rows ∧ fld y 17 0 = off := by
  simp only [fld]
  omega

/-- The fields of word 1 of MMAS (R57). -/
theorem mmas_fields {y p tb ta m : Nat} (h : y = p * 2 ^ 16 + tb * 2 ^ 12 + ta * 2 ^ 8 + m * 2 ^ 4) (hp : p < 2) (hb : tb < 16) (ha : ta < 16) (hm : m < 16) :
    fld y 31 18 = 0 ∧ fld y 17 16 = p ∧ fld y 15 12 = tb ∧ fld y 11 8 = ta ∧ fld y 7 4 = m ∧ fld y 3 0 = 0 := by
  simp only [fld]
  omega

/-- The fields of word 1 of MMAQ (R57). -/
theorem mmaq_fields {y tw ta t : Nat} (h : y = tw * 2 ^ 8 + ta * 2 ^ 4 + t) (hw : tw < 16) (ha : ta < 16) (ht : t < 16) :
    fld y 31 12 = 0 ∧ fld y 11 8 = tw ∧ fld y 7 4 = ta ∧ fld y 3 0 = t := by
  simp only [fld]
  omega

/-- The fields of word 1 of an atomic (R61). -/
theorem atom_fields {op : AtomOp} {sc : Scope} {o : AtomOrder} {y ty ret : Nat} (h : y = atomWord op ty sc o ret) (hty : ty < 16) (hret : ret < 2) :
    fld y 31 13 = 0 ∧ fld y 12 11 = atomOrder o ∧ fld y 10 10 = ret ∧ fld y 9 8 = scope sc ∧ fld y 7 4 = ty ∧ fld y 3 0 = atomOp op := by
  have := atomOp_lt op
  have := scope_lt sc
  have := atomOrder_lt o
  simp only [atomWord] at h
  simp only [fld]
  omega

theorem atomWord_lt (op : AtomOp) (sc : Scope) (o : AtomOrder) {ty ret : Nat} (hty : ty < 16) (hret : ret < 2) : atomWord op ty sc o ret < 2 ^ 32 := by
  have := atomOp_lt op
  have := scope_lt sc
  have := atomOrder_lt o
  simp only [atomWord]
  omega

/-- The fields of word 1 of CPY (R56). -/
theorem cpy_fields {y aux es once sc md port block : Nat}
    (h : y = aux * 2 ^ 27 + es * 2 ^ 24 + once * 2 ^ 23 + sc * 2 ^ 21 + md * 2 ^ 18 + port * 2 ^ 16 + block) (haux : aux < 32) (hes : es < 8)
    (honce : once < 2) (hsc : sc < 4) (hmd : md < 7) (hport : port < 4) (hblock : block < 65536) :
    fld y 31 27 = aux ∧ fld y 26 24 = es ∧ fld y 23 23 = once ∧ fld y 22 21 = sc ∧ fld y 20 18 = md ∧ fld y 17 16 = port ∧ fld y 15 0 = block := by
  simp only [fld]
  omega

/-- The operands of CPY within their fields, in every mode (R56). -/
theorem cpy_bounds {md : CpyMode} {es : Nat} {once : Bool} {sc : Scope} {d a : Nat} {b : BOp} {aux port block : Nat}
    (h : WF.cpy md es once sc d a b aux port block = true) :
    d < 64 ∧ a < 64 ∧ WF.bop false b = true ∧ aux < 32 ∧ es < 8 ∧ port < 4 ∧ block < 65536 := by
  simp only [WF.cpy, Bool.and_eq_true, decide_eq_true_eq] at h
  obtain ⟨⟨⟨hb, hport⟩, hblock⟩, h⟩ := h
  have hrest : d < 64 ∧ a < 64 ∧ aux < 32 ∧ es < 8 := by
    cases md with
    | f | h | c | m | t | gather | remote =>
      simp only [WF.vreg, WF.sreg, WF.mreg, Bool.and_eq_true, decide_eq_true_eq, beq_iff_eq] at h
      omega
  obtain ⟨hd, ha, haux, hes⟩ := hrest
  exact ⟨hd, ha, hb, haux, hes, hport, hblock⟩

/-- The fields of word 1 of SEND (R54). -/
theorem send_fields {y mode r n port block : Nat} (h : y = mode * 2 ^ 25 + r * 2 ^ 22 + n * 2 ^ 18 + port * 2 ^ 16 + block) (hm : mode < 3) (hr : r < 8)
    (hn : n ≤ 8) (hport : port < 4) (hblock : block < 65536) :
    fld y 31 27 = 0 ∧ fld y 26 25 = mode ∧ fld y 24 24 = r / 4 ∧ fld y 23 22 = r % 4 ∧ fld y 21 18 = n ∧ fld y 17 16 = port ∧ fld y 15 0 = block := by
  simp only [fld]
  omega

/-- The fields of word 1 of SENDM (R54). -/
theorem sendm_fields {y mode r n : Nat} (h : y = mode * 2 ^ 25 + r * 2 ^ 22 + n * 2 ^ 18) (hm : mode < 3) (hr : r < 8) (hn : n ≤ 8) :
    fld y 31 27 = 0 ∧ fld y 26 25 = mode ∧ fld y 24 24 = r / 4 ∧ fld y 23 22 = r % 4 ∧ fld y 21 18 = n ∧ fld y 17 0 = 0 := by
  simp only [fld]
  omega

theorem tag_bounds {t : TagSrc} (h : WF.tagSrc t = true) : tagReg t < 64 ∧ tagMode t < 3 := by
  cases t with
  | lane a => exact ⟨lt_of_vreg h, show 0 < 3 by decide⟩
  | uni a => exact ⟨(lt_of_sreg h).trans (by decide), show 1 < 3 by decide⟩
  | self => decide

/-- The tag operand is read back from its mode and register (R54). -/
theorem decTagSrc {t : TagSrc} {x : Nat} (h : WF.tagSrc t = true) (ha : Dec.a x = tagReg t) : Dec.tagSrc x (tagMode t) = .ok t := by
  cases t with
  | lane a => simp [Dec.tagSrc, tagMode, ha, tagReg, dec_v (show WF.vreg true a = true from h)]
  | uni a => simp [Dec.tagSrc, tagMode, ha, tagReg, dec_u (show WF.sreg true a = true from h)]
  | self => simp [Dec.tagSrc, tagMode, ha, tagReg]

end Sys2Proof
end

section
/-! SUPPORT. Decoding an instruction of one word, and of two (R34, R41). -/

namespace Sys2Proof

open Enc

/-- The decoder reads an instruction from its words, with W set or clear, whatever stands after them, and it has one or two words. -/
def Decodes (i : Instr) : Prop :=
  ∀ (w : Bool) (after : List Nat), decode (encodeW w i ++ after) = some (.ok { w := w, instr := i, len := (encode i).length }, after) ∧
    (encode i).length ≤ 2 ∧ ∀ x ∈ encodeW w i, x < 2 ^ 32

/-- A major opcode of one word, with what reads that word (R34, R41). -/
def OneWord (op : Nat) (f : Nat → Dec.R Instr) : Prop :=
  (decide (op < 128) && !unassigned op && opWords op == 1) = true ∧ ∀ x, (if op < 0x33 then Dec.lane1 op x else Dec.sys1 op x) = f x

/-- A major opcode of two words, with what reads them (R34, R41). -/
def TwoWords (op : Nat) (f : Nat → Nat → Dec.R Instr) : Prop :=
  (decide (op < 128) && !unassigned op && opWords op == 2) = true ∧ ∀ x y, Dec.two op x y = f x y

section
variable (w : Bool) (op low : Nat) (hop : op < 128) (hlow : low < 2 ^ 24)
include hop hlow

theorem majorOp_word : majorOp (bit w * 2 ^ 31 + (op * 2 ^ 24 + low)) = op := by
  have := bit_lt w
  simp only [majorOp, fld]
  omega

theorem w_word : (decide (fld (bit w * 2 ^ 31 + (op * 2 ^ 24 + low)) 31 31 = 1)) = w := by
  have h : fld (bit w * 2 ^ 31 + (op * 2 ^ 24 + low)) 31 31 = bit w := by
    have := bit_lt w
    simp only [fld]
    omega
  rw [h]
  simp

theorem word_lt : bit w * 2 ^ 31 + (op * 2 ^ 24 + low) < 2 ^ 32 := by
  have := bit_lt w
  omega

omit hop in
theorem low_word : (bit w * 2 ^ 31 + (op * 2 ^ 24 + low)) % 2 ^ 24 = low := by omega

end

section
variable {i : Instr} {op low : Nat} (hlow : low < 2 ^ 24)
include hlow

theorem decodes_one {f : Nat → Dec.R Instr} (hop : OneWord op f) (henc : encode i = [op * 2 ^ 24 + low])
    (hdec : ∀ x, x % 2 ^ 24 = low → f x = .ok i) : Decodes i := by
  intro w after
  obtain ⟨hcode, hf⟩ := hop
  simp only [Bool.and_eq_true, decide_eq_true_eq, Bool.not_eq_true', beq_iff_eq] at hcode
  obtain ⟨⟨hlt, hun⟩, hwords⟩ := hcode
  have hw := hf (bit w * 2 ^ 31 + (op * 2 ^ 24 + low))
  rw [hdec _ (low_word w op low hlow)] at hw
  rw [encodeW, henc]
  refine ⟨?_, by simp, fun x hx => by rw [List.mem_singleton.mp hx]; exact word_lt w op low hlt hlow⟩
  simp only [List.singleton_append, decode, decodeWords, majorOp_word w op low hlt hlow, hun, hwords, hw, w_word w op low hlt hlow]
  rfl

theorem decodes_two {f : Nat → Nat → Dec.R Instr} {y : Nat} (hop : TwoWords op f) (henc : encode i = [op * 2 ^ 24 + low, y]) (hy : y < 2 ^ 32)
    (hdec : ∀ x, x % 2 ^ 24 = low → f x y = .ok i) : Decodes i := by
  intro w after
  obtain ⟨hcode, hf⟩ := hop
  simp only [Bool.and_eq_true, decide_eq_true_eq, Bool.not_eq_true', beq_iff_eq] at hcode
  obtain ⟨⟨hlt, hun⟩, hwords⟩ := hcode
  have hw := hf (bit w * 2 ^ 31 + (op * 2 ^ 24 + low)) y
  rw [hdec _ (low_word w op low hlow)] at hw
  rw [encodeW, henc]
  refine ⟨?_, by simp, fun x hx => ?_⟩
  case refine_2 =>
    rcases List.mem_pair.mp hx with rfl | rfl
    · exact word_lt w op low hlt hlow
    · exact hy
  simp only [List.cons_append, List.nil_append, decode, decodeWords, majorOp_word w op low hlt hlow, hun, hwords, hw, w_word w op low hlt hlow,
    List.head?_cons]
  rfl

end

theorem opWords_bounds (op : Nat) : opWords op - 1 + 1 = opWords op ∧ opWords op ≤ 2 := by unfold opWords; split <;> decide

theorem decode_of_unassigned {x op : Nat} {w : Bool} (after : List Nat) (hmajor : majorOp x = op) (hw : decide (fld x 31 31 = 1) = w)
    (h : unassigned op = true) : decode (x :: List.replicate (opWords op - 1) 0 ++ after) =
      some (.ok { w := w, instr := .unassignedOpcode op, len := opWords op }, after) := by
  have hdec (y : Option Nat) : decodeWords x y = .ok (.unassignedOpcode op) := by
    unfold decodeWords
    rw [hmajor]
    exact if_pos h
  simp only [List.cons_append, decode, hmajor, hdec, hw, List.drop_left' List.length_replicate]
  rfl

/-- A major opcode that is no instruction stands for its row, with its second word unread (R42). -/
theorem decodes_unassigned (op : Nat) (h : unassigned op = true) : Decodes (.unassignedOpcode op) := by
  intro w after
  have hop : op < 128 := by
    simp only [unassigned, Bool.or_eq_true, Bool.and_eq_true, beq_iff_eq, decide_eq_true_eq] at h
    omega
  have hmajor := majorOp_word w op 0 hop (by decide)
  have hw := w_word w op 0 hop (by decide)
  have hlt := word_lt w op 0 hop (by decide)
  rw [Nat.add_zero] at hmajor hw hlt
  have henc : encodeW w (.unassignedOpcode op) = (bit w * 2 ^ 31 + op * 2 ^ 24) :: List.replicate (opWords op - 1) 0 := rfl
  have hlen : (encode (.unassignedOpcode op)).length = opWords op := by
    rw [encode, List.length_cons, List.length_replicate, (opWords_bounds op).1]
  rw [henc, hlen]
  refine ⟨decode_of_unassigned after hmajor hw h, (opWords_bounds op).2, List.forall_mem_cons.mpr ⟨hlt, fun x hx => ?_⟩⟩
  rw [List.eq_of_mem_replicate hx]
  exact Nat.two_pow_pos 32

/-! ### By format (R37) -/

section
variable {i : Instr} {op d a b fn s : Nat} (hd : d < 64) (ha : a < 64) (hb : b < 64) (hfn : fn < 32) (hs : s < 2)
include hd ha hb hfn hs

theorem fmtA_low : d * 2 ^ 18 + a * 2 ^ 12 + b * 2 ^ 6 + fn * 2 + s < 2 ^ 24 := by omega

theorem decodes_fmtA {f : Nat → Dec.R Instr} (hop : OneWord op f) (henc : encode i = [fmtA op d a b fn s])
    (hdec : ∀ x, FieldsA x d a b fn s → f x = .ok i) : Decodes i :=
  decodes_one (fmtA_low hd ha hb hfn hs) hop (by simp only [henc, fmtA, Nat.add_assoc]) fun x hx => hdec x (fieldsA_of_mod hx ha hb hfn hs)

theorem decodes_fmtX {f : Nat → Nat → Dec.R Instr} {z : Nat} (hop : TwoWords op f) (henc : encode i = [fmtA op d a b fn s, z]) (hz : z < 2 ^ 32)
    (hdec : ∀ x y, FieldsA x d a b fn s → y = z → f x y = .ok i) : Decodes i :=
  decodes_two (fmtA_low hd ha hb hfn hs) hop (by simp only [henc, fmtA, Nat.add_assoc]) hz fun x hx => hdec x z (fieldsA_of_mod hx ha hb hfn hs) rfl

end

theorem decodes_fmtB {i : Instr} {op d a im : Nat} {f : Nat → Dec.R Instr} (hd : d < 64) (ha : a < 64) (him : im < 2 ^ 12) (hop : OneWord op f)
    (henc : encode i = [fmtB op d a im]) (hdec : ∀ x, FieldsB x d a im → f x = .ok i) : Decodes i :=
  decodes_one (low := d * 2 ^ 18 + a * 2 ^ 12 + im) (by omega) hop (by simp only [henc, fmtB, Nat.add_assoc]) fun x hx => hdec x (fieldsB_of_mod hx ha him)

theorem decodes_fmtC {i : Instr} {op d im : Nat} {f : Nat → Dec.R Instr} (hd : d < 64) (him : im < 2 ^ 18) (hop : OneWord op f)
    (henc : encode i = [fmtC op d im]) (hdec : ∀ x, FieldsC x d im → f x = .ok i) : Decodes i :=
  decodes_one (low := d * 2 ^ 18 + im) (by omega) hop (by simp only [henc, fmtC, Nat.add_assoc]) fun x hx => hdec x (fieldsC_of_mod hx him)

theorem decodes_fmtM {i : Instr} {op d a k z im : Nat} {f : Nat → Dec.R Instr} (hd : d < 64) (ha : a < 64) (hk : k < 8) (hz : z < 4) (him : im < 2 ^ 7)
    (hop : OneWord op f) (henc : encode i = [fmtM op d a k z im]) (hdec : ∀ x, FieldsB x d a (k * 2 ^ 9 + z * 2 ^ 7 + im) → f x = .ok i) : Decodes i :=
  decodes_fmtB hd ha (by omega) hop (by simp only [henc, fmtM, fmtB, Nat.add_assoc]) hdec

theorem decodes_fmtT {i : Instr} {op md ma mb td fn : Nat} {f : Nat → Dec.R Instr} (hmd : md < 16) (hma : ma < 16) (hmb : mb < 16) (htd : td < 16)
    (hfn : fn < 256) (hop : OneWord op f) (henc : encode i = [fmtT op md ma mb td fn]) (hdec : ∀ x, FieldsT x md ma mb td fn → f x = .ok i) :
    Decodes i :=
  decodes_one (low := md * 2 ^ 20 + ma * 2 ^ 16 + mb * 2 ^ 12 + td * 2 ^ 8 + fn) (by omega) hop (by simp only [henc, fmtT, Nat.add_assoc])
    fun x hx => hdec x (fieldsT_of_mod hx hma hmb htd hfn)

/-- Format A with a destination, a source and a b operand of lane registers or pairs. -/
theorem decodes_alu {i : Instr} {op d a fn : Nat} {b : BOp} {wd wa wb : Bool} {f : Nat → Dec.R Instr}
    (hw : (WF.vreg wd d && WF.vreg wa a && WF.bop wb b) = true) (hfn : fn < 32) (hop : OneWord op f) (henc : encode i = alu op d a b fn)
    (hdec : ∀ x, FieldsA x d a (breg b) fn (bs b) → Dec.v wd d = .ok d → Dec.v wa a = .ok a → Dec.bop wb x = .ok b → f x = .ok i) : Decodes i := by
  simp only [Bool.and_eq_true] at hw
  obtain ⟨⟨hd, ha⟩, hb⟩ := hw
  exact decodes_fmtA (lt_of_vreg hd) (lt_of_vreg ha) (breg_lt hb) hfn (bs_lt b) hop henc fun x hx => hdec x hx (dec_v hd) (dec_v ha) (hx.bop hb)

/-- Format A with two lane registers or pairs and no b operand. -/
theorem decodes_unary {i : Instr} {op d a fn : Nat} {wd wa : Bool} {f : Nat → Dec.R Instr} (hw : (WF.vreg wd d && WF.vreg wa a) = true) (hfn : fn < 32)
    (hop : OneWord op f) (henc : encode i = [fmtA op d a 0 fn 0])
    (hdec : ∀ x, FieldsA x d a 0 fn 0 → Dec.v wd d = .ok d → Dec.v wa a = .ok a → f x = .ok i) : Decodes i := by
  simp only [Bool.and_eq_true] at hw
  obtain ⟨hd, ha⟩ := hw
  exact decodes_fmtA (lt_of_vreg hd) (lt_of_vreg ha) (by decide) hfn (by decide) hop henc fun x hx => hdec x hx (dec_v hd) (dec_v ha)

/-- Format B with a signed immediate (R49). -/
theorem decodes_immB {op d a : Nat} {z : Int} {mk : Nat → Nat → Int → Instr} (hw : (WF.vreg false d && WF.vreg false a && WF.simm 12 z) = true)
    (hop : OneWord op (Dec.immB mk)) (henc : encode (mk d a z) = [fmtB op d a (imm 12 z)]) : Decodes (mk d a z) := by
  have h := hw
  simp only [Bool.and_eq_true] at h
  obtain ⟨⟨hd, ha⟩, -⟩ := h
  exact decodes_fmtB (lt_of_vreg hd) (lt_of_vreg ha) (imm_lt 12 z) hop henc fun x hx => immB_of_fields hw hx

/-- A load of format M (R51, R191). -/
theorem decodes_load {up : Bool} {op d b : Nat} {z : Sz} {sg : Bool} {o : Int} {dst : Bool → Nat → Dec.R Nat} {base : Nat → Dec.R Nat}
    {mk : Sz → Bool → Nat → Nat → Int → Instr} (hz : WF.loadSz up z sg = true) (hd : d < 64) (hb : b < 64) (ho : WF.simm 7 o = true)
    (hdst : dst (z == .d) d = .ok d) (hbase : base b = .ok b) (hop : OneWord op (Dec.load up dst base mk))
    (henc : encode (mk z sg d b o) = [load op z sg d b o]) : Decodes (mk z sg d b o) := by
  have hs := bit_lt sg
  refine decodes_fmtM hd hb (hs.trans (by decide)) (sz_lt z) (imm_lt 7 o) hop henc fun x hx => ?_
  obtain ⟨h11, h8, h6⟩ := fmtM_fields hx.im (hs.trans (by decide)) (sz_lt z) (imm_lt 7 o)
  obtain ⟨h10, h9⟩ : fld x 11 10 = 0 ∧ fld x 9 9 = bit sg := by simp only [fld] at h11 ⊢; omega
  simp [Dec.load, h10, h9, h8, h6, hz, hx.d, hx.a, hdst, hbase, signed_imm 7 o (by decide) ho]

/-- A store of format M (R51, R191). -/
theorem decodes_store {up : Bool} {op d b k : Nat} {z : Sz} {o : Int} {base : Nat → Dec.R Nat} {mk : Sz → Nat → Nat → Int → Nat → Instr}
    (hz : (up && z == .d) = false) (hd : WF.vreg (z == .d) d = true) (hb : b < 64) (ho : WF.simm 7 o = true) (hk : WF.kreg k = true)
    (hbase : base b = .ok b) (hop : OneWord op (Dec.store up base mk)) (henc : encode (mk z d b o k) = [store op z d b o k]) :
    Decodes (mk z d b o k) := by
  refine decodes_fmtM (lt_of_vreg hd) hb (lt_of_kreg hk) (sz_lt z) (imm_lt 7 o) hop henc fun x hx => ?_
  obtain ⟨h11, h8, h6⟩ := fmtM_fields hx.im (lt_of_kreg hk) (sz_lt z) (imm_lt 7 o)
  simp only [Dec.store, h11, h8, h6, decSz_sz, hz, Bool.not_false, need_true, ok_bind, hx.d, hx.a, dec_v hd, hbase, signed_imm 7 o (by decide) ho]

/-- Format C that names a uniform register and nothing else (R50). -/
theorem decodes_uniC {op d : Nat} {mk : Nat → Instr} (hd : WF.sreg false d = true) (hop : OneWord op (Dec.uniC mk)) (henc : encode (mk d) = [fmtC op d 0]) :
    Decodes (mk d) :=
  decodes_fmtC ((lt_of_sreg hd).trans (by decide)) (by decide) hop henc fun x hx => by
    simp [Dec.uniC, hx.fld_im, hx.d, dec_u hd]

end Sys2Proof
end

section
/-! PROOF. Words of the spec's encodings and examples decode (R34 to R61). -/

namespace Sys2Proof.Proofs

/-- Settles O29: the decoder runs on each of the words. -/
theorem wordsDecode : Obligations.WordsDecode := by
  unfold Obligations.WordsDecode
  exact ⟨rfl, rfl, rfl, rfl, rfl, rfl, rfl⟩

end Sys2Proof.Proofs
end

section
/-! PROOF. Every instruction decodes from its words (R34 to R61). -/

namespace Sys2Proof.Proofs

open Enc

theorem decodes_oneWord (i : Instr) (hwf : i.wellFormed = true) (hlen : (encode i).length = 1) : Decodes i := by
  cases i with
  | add s t | sub s t | mul s t =>
    have := bit_lt s
    have := ty_lt t
    exact decodes_alu hwf (by omega) ⟨rfl, fun _ => rfl⟩ rfl fun _ hx _ _ _ => arithSat_of_fields hwf hx
  | mulh t | mad t | min t | max t =>
    have := ty_lt t
    exact decodes_alu hwf (by omega) ⟨rfl, fun _ => rfl⟩ rfl fun _ hx _ _ _ => arith_of_fields hwf hx
  | addImm _ _ z | mulImm _ _ z | andImm _ _ z | orImm _ _ z | xorImm _ _ z =>
    exact decodes_immB hwf ⟨rfl, fun _ => rfl⟩ rfl
  | divi wide | divn wide | remi wide | remn wide =>
    refine decodes_alu (f := Dec.divide) hwf (by cases wide <;> decide) ⟨rfl, fun _ => rfl⟩ rfl fun _ hx hd ha hb => ?_
    cases wide <;> simp [Dec.divide, hx.d, hx.a, hx.fn, bit, hd, ha, hb]
  | abs wide | neg wide | not wide | clz wide | popc wide | brev wide =>
    refine decodes_unary (f := Dec.intUnary) hwf (by cases wide <;> decide) ⟨rfl, fun _ => rfl⟩ rfl fun _ hx hd ha => ?_
    cases wide <;> simp [Dec.intUnary, hx.noB, hx.d, hx.a, hx.fn, bit, hd, ha]
  | and wide | or wide | xor wide | andn wide =>
    exact decodes_alu hwf (by cases wide <;> decide) ⟨rfl, fun _ => rfl⟩ rfl fun _ hx _ _ _ => logic_of_fields hwf hx
  | shl wide | shr wide | shra wide | rotl wide =>
    refine decodes_alu (f := Dec.shift) hwf (by cases wide <;> decide) ⟨rfl, fun _ => rfl⟩ rfl fun _ hx hd ha hb => ?_
    cases wide <;> simp [Dec.shift, hx.d, hx.a, hx.fn, bit, hd, ha, hb]
  | shlImm wide d a n | shrImm wide d a n | shraImm wide d a n | rotlImm wide d a n =>
    simp only [Instr.wellFormed, Bool.and_eq_true] at hwf
    obtain ⟨⟨hd, ha⟩, hn⟩ := hwf
    have hw := bit_lt wide
    have hlt := lt_of_amount hn
    refine decodes_fmtB (f := Dec.shiftImm) (lt_of_vreg hd) (lt_of_vreg ha) (by omega) ⟨rfl, fun _ => rfl⟩ rfl fun x hx => ?_
    obtain ⟨h0, h8, h7, h5⟩ := shiftImm_fields hx.im hw (by decide) hlt
    simp [Dec.shiftImm, h0, h8, h7, h5, hn, hx.d, hx.a, dec_v hd, dec_v ha]
  | bfx sg d a p l =>
    simp only [Instr.wellFormed, Bool.and_eq_true] at hwf
    obtain ⟨⟨hd, ha⟩, hf⟩ := hwf
    have hs := bit_lt sg
    obtain ⟨hp, hl, hlt⟩ := bitField_bounds hf
    refine decodes_fmtB (f := Dec.bitField false) (lt_of_vreg hd) (lt_of_vreg ha) (by omega) ⟨rfl, fun _ => rfl⟩ rfl fun x hx => ?_
    obtain ⟨h5, h10, h11⟩ := bitField_fields hx.im hl hlt hp
    simp [Dec.bitField, h5, h10, h11, hf, hx.d, hx.a, dec_v hd, dec_v ha]
  | bfi d a p l =>
    simp only [Instr.wellFormed, Bool.and_eq_true] at hwf
    obtain ⟨⟨hd, ha⟩, hf⟩ := hwf
    obtain ⟨hp, hl, hlt⟩ := bitField_bounds hf
    refine decodes_fmtB (f := Dec.bitField true) (lt_of_vreg hd) (lt_of_vreg ha) (by omega) ⟨rfl, fun _ => rfl⟩ rfl fun x hx => ?_
    obtain ⟨h5, h10, h11⟩ := bitField_fields (sg := 0) (by simpa using hx.im) hl hlt hp
    simp [Dec.bitField, h5, h10, h11, hf, hx.d, hx.a, dec_v hd, dec_v ha]
  | mov wide d b =>
    simp only [Instr.wellFormed, Bool.and_eq_true] at hwf
    obtain ⟨hd, hb⟩ := hwf
    refine decodes_fmtA (f := Dec.mov) (lt_of_vreg hd) (by decide) (breg_lt hb) (by cases wide <;> decide) (bs_lt b) ⟨rfl, fun _ => rfl⟩ rfl
      fun x hx => ?_
    have h2 : bit wide / 2 = 0 := by cases wide <;> rfl
    simp [Dec.mov, hx.d, hx.a, hx.fn, h2, dec_v hd, hx.bop hb]
  | movsLane d a l =>
    simp only [Instr.wellFormed, Bool.and_eq_true, decide_eq_true_eq] at hwf
    obtain ⟨⟨hd, ha⟩, hl⟩ := hwf
    refine decodes_fmtB (f := Dec.movs) ((lt_of_sreg hd).trans (by decide)) (lt_of_vreg ha) (by omega) ⟨rfl, fun _ => rfl⟩ rfl fun x hx => ?_
    obtain ⟨h10, h11, h4⟩ : fld x 10 5 = 0 ∧ fld x 11 11 = 0 ∧ fld x 4 0 = l := by have := hx.im; simp only [fld]; omega
    simp [Dec.movs, h10, h11, h4, hx.d, hx.a, dec_u hd, dec_v ha]
  | movsUniform d a =>
    simp only [Instr.wellFormed, Bool.and_eq_true] at hwf
    obtain ⟨hd, ha⟩ := hwf
    refine decodes_fmtB (f := Dec.movs) ((lt_of_sreg hd).trans (by decide)) ((lt_of_sreg ha).trans (by decide)) (by decide) ⟨rfl, fun _ => rfl⟩ rfl
      fun x hx => ?_
    obtain ⟨h10, h11, h4⟩ : fld x 10 5 = 0 ∧ fld x 11 11 = 1 ∧ fld x 4 0 = 0 := by have := hx.im; simp only [fld]; omega
    simp [Dec.movs, h10, h11, h4, hx.d, hx.a, dec_u hd, dec_u ha]
  | moviV d z =>
    simp only [Instr.wellFormed, Bool.and_eq_true] at hwf
    obtain ⟨hd, hz⟩ := hwf
    refine decodes_fmtC (lt_of_vreg hd) (imm_lt 18 z) ⟨rfl, fun _ => rfl⟩ rfl fun x hx => ?_
    simp [Dec.lane1, hx.d, hx.fld_im, dec_v hd, signed_imm 18 z (by decide) hz]
  | moviS d z =>
    simp only [Instr.wellFormed, Bool.and_eq_true] at hwf
    obtain ⟨hd, hz⟩ := hwf
    refine decodes_fmtC ((lt_of_sreg hd).trans (by decide)) (imm_lt 18 z) ⟨rfl, fun _ => rfl⟩ rfl fun x hx => ?_
    simp [Dec.lane1, hx.d, hx.fld_im, dec_u hd, signed_imm 18 z (by decide) hz]
  | movhiV d z =>
    simp only [Instr.wellFormed, Bool.and_eq_true, decide_eq_true_eq] at hwf
    obtain ⟨hd, hz⟩ := hwf
    refine decodes_fmtC (lt_of_vreg hd) hz ⟨rfl, fun _ => rfl⟩ rfl fun x hx => ?_
    simp [Dec.lane1, hx.d, hx.fld_im, dec_v hd]
  | movhiS d z =>
    simp only [Instr.wellFormed, Bool.and_eq_true, decide_eq_true_eq] at hwf
    obtain ⟨hd, hz⟩ := hwf
    refine decodes_fmtC ((lt_of_sreg hd).trans (by decide)) hz ⟨rfl, fun _ => rfl⟩ rfl fun x hx => ?_
    simp [Dec.lane1, hx.d, hx.fld_im, dec_u hd]
  | sel d a b k =>
    rw [Instr.wellFormed, Bool.and_eq_true] at hwf
    obtain ⟨hw, hk⟩ := hwf
    have hk8 := lt_of_kreg hk
    refine decodes_alu (f := Dec.sel) hw (by omega) ⟨rfl, fun _ => rfl⟩ rfl fun x hx hd ha hb => ?_
    have h0 : k / 8 = 0 := by omega
    have hm : k % 8 = k := by omega
    simp [Dec.sel, hx.d, hx.a, hx.fn, h0, hm, hd, ha, hb]
  | cmp c t d a b =>
    simp only [Instr.wellFormed, Bool.and_eq_true] at hwf
    obtain ⟨⟨hd, ha⟩, hb⟩ := hwf
    have hc := cond_lt c
    have ht := ty_lt t
    refine decodes_fmtA (f := Dec.cmp) ((lt_of_kdst hd).trans (by decide)) (lt_of_vreg ha) (breg_lt hb) (by omega) (bs_lt b) ⟨rfl, fun _ => rfl⟩ rfl
      fun x hx => ?_
    have h4 : (cond c * 4 + ty t) / 4 = cond c := by omega
    have hm : (cond c * 4 + ty t) % 4 = ty t := by omega
    simp [Dec.cmp, hx.d, hx.a, hx.fn, h4, hm, dec_kd hd, dec_v ha, hx.bop hb]
  | kop op d a b =>
    cases op with
    | and | or | xor | andn =>
      simp only [Instr.wellFormed, Bool.and_eq_true] at hwf
      obtain ⟨⟨hd, ha⟩, hb⟩ := hwf
      exact decodes_fmtA (f := Dec.kop) ((lt_of_kdst hd).trans (by decide)) ((lt_of_kreg ha).trans (by decide)) ((lt_of_kreg hb).trans (by decide))
        (by decide) (by decide) ⟨rfl, fun _ => rfl⟩ rfl fun x hx => by
          simp [Dec.kop, hx.d, hx.a, hx.b, hx.fn, hx.s, dec_kd hd, dec_k ha, dec_k hb]
    | not | mov =>
      simp only [Instr.wellFormed, Bool.and_eq_true, beq_iff_eq] at hwf
      obtain ⟨⟨hd, ha⟩, rfl⟩ := hwf
      exact decodes_fmtA (f := Dec.kop) ((lt_of_kdst hd).trans (by decide)) ((lt_of_kreg ha).trans (by decide)) (by decide)
        (by decide) (by decide) ⟨rfl, fun _ => rfl⟩ rfl fun x hx => by
          simp [Dec.kop, hx.noB, hx.d, hx.a, hx.fn, hx.s, dec_kd hd, dec_k ha]
    | froms =>
      simp only [Instr.wellFormed, Bool.and_eq_true, beq_iff_eq] at hwf
      obtain ⟨⟨hd, ha⟩, rfl⟩ := hwf
      exact decodes_fmtA (f := Dec.kop) ((lt_of_kdst hd).trans (by decide)) ((lt_of_sreg ha).trans (by decide)) (by decide)
        (by decide) (by decide) ⟨rfl, fun _ => rfl⟩ rfl fun x hx => by
          simp [Dec.kop, hx.noB, hx.d, hx.a, hx.fn, hx.s, dec_kd hd, dec_u ha]
    | tos =>
      simp only [Instr.wellFormed, Bool.and_eq_true, beq_iff_eq] at hwf
      obtain ⟨⟨hd, ha⟩, rfl⟩ := hwf
      exact decodes_fmtA (f := Dec.kop) ((lt_of_sreg hd).trans (by decide)) ((lt_of_kreg ha).trans (by decide)) (by decide)
        (by decide) (by decide) ⟨rfl, fun _ => rfl⟩ rfl fun x hx => by
          simp [Dec.kop, hx.noB, hx.d, hx.a, hx.fn, hx.s, dec_u hd, dec_k ha]
  | fadd r | fsub r | fmul r | fscale r =>
    have := rnd_lt r
    exact decodes_alu hwf (by omega) ⟨rfl, fun _ => rfl⟩ rfl fun _ hx _ _ _ => fp_of_fields hwf hx
  | ffma r d a b =>
    simp only [Instr.wellFormed, Bool.and_eq_true] at hwf
    obtain ⟨⟨hd, ha⟩, hb⟩ := hwf
    have hr := rnd_lt r
    refine decodes_alu (f := Dec.ffma) (wd := false) (wa := false) (wb := false) (by simp [hd, ha, bop_of_bopNext hb]) (by omega) ⟨rfl, fun _ => rfl⟩ rfl
      fun x hx hd ha _ => ?_
    have h0 : rnd r / 8 = 0 := by omega
    have h8 : rnd r % 8 = rnd r := by omega
    simp [Dec.ffma, hx.d, hx.a, hx.fn, h0, h8, hd, ha, hx.bopNext hb]
  | fmin | fmax =>
    exact decodes_alu (f := Dec.fminmax) hwf (by decide) ⟨rfl, fun _ => rfl⟩ rfl fun _ hx hd ha hb => by
      simp [Dec.fminmax, hx.d, hx.a, hx.fn, hd, ha, hb]
  | fabs | fneg | fclass =>
    exact decodes_unary (f := Dec.fpUnary) hwf (by decide) ⟨rfl, fun _ => rfl⟩ rfl fun _ hx hd ha => by
      simp [Dec.fpUnary, hx.noB, hx.d, hx.a, hx.fn, hd, ha]
  | frnd r =>
    have hr := rnd_lt r
    refine decodes_unary (f := Dec.fpUnary) hwf (by omega) ⟨rfl, fun _ => rfl⟩ rfl fun _ hx hd ha => ?_
    have h8 : (24 + rnd r) / 8 = 3 := by omega
    have hm : (24 + rnd r) % 8 = rnd r := by omega
    simp [Dec.fpUnary, hx.noB, hx.d, hx.a, hx.fn, hd, ha, h8, hm]
  | fcmp c sg d a b =>
    simp only [Instr.wellFormed, Bool.and_eq_true] at hwf
    obtain ⟨⟨hd, ha⟩, hb⟩ := hwf
    have hc := fcond_lt c
    have hs := bit_lt sg
    refine decodes_fmtA (f := Dec.fcmp) ((lt_of_kdst hd).trans (by decide)) (lt_of_vreg ha) (breg_lt hb) (by omega) (bs_lt b) ⟨rfl, fun _ => rfl⟩ rfl
      fun x hx => ?_
    have h16 : (bit sg * 8 + fcond c) / 16 = 0 := by omega
    have h8 : (bit sg * 8 + fcond c) / 8 % 2 = bit sg := by omega
    have hm : (bit sg * 8 + fcond c) % 8 = fcond c := by omega
    simp [Dec.fcmp, hx.d, hx.a, hx.fn, h16, h8, hm, dec_kd hd, dec_v ha, hx.bop hb]
  | hadd2 bf r d a b =>
    rw [Instr.wellFormed, Bool.and_eq_true] at hwf
    obtain ⟨hw, hr⟩ := hwf
    have hb := bit_lt bf
    have hr4 := rnd_half_lt hr
    refine decodes_alu (f := Dec.half2) hw (by omega) ⟨rfl, fun _ => rfl⟩ rfl fun x hx hd ha hb => ?_
    obtain ⟨h8, h4, hm⟩ := half2_fields (k := 0) hx.fn (by decide)
    simp [Dec.half2, hx.d, hx.a, h8, h4, hm, decRndHalf_rnd r hr, hd, ha, hb]
  | hmul2 bf r d a b =>
    rw [Instr.wellFormed, Bool.and_eq_true] at hwf
    obtain ⟨hw, hr⟩ := hwf
    have hb := bit_lt bf
    have hr4 := rnd_half_lt hr
    refine decodes_alu (f := Dec.half2) hw (by omega) ⟨rfl, fun _ => rfl⟩ rfl fun x hx hd ha hb => ?_
    obtain ⟨h8, h4, hm⟩ := half2_fields (k := 1) hx.fn (by decide)
    simp [Dec.half2, hx.d, hx.a, h8, h4, hm, decRndHalf_rnd r hr, hd, ha, hb]
  | hfma2 bf r d a b =>
    simp only [Instr.wellFormed, Bool.and_eq_true] at hwf
    obtain ⟨⟨⟨hd, ha⟩, hb⟩, hr⟩ := hwf
    have hbf := bit_lt bf
    have hr4 := rnd_half_lt hr
    refine decodes_alu (f := Dec.half2) (wd := false) (wa := false) (wb := false) (by simp [hd, ha, bop_of_bopNext hb]) (by omega) ⟨rfl, fun _ => rfl⟩ rfl
      fun x hx hd ha _ => ?_
    obtain ⟨h8, h4, hm⟩ := half2_fields (k := 2) hx.fn (by decide)
    simp [Dec.half2, hx.d, hx.a, h8, h4, hm, decRndHalf_rnd r hr, hd, ha, hx.bopNext hb]
  | cvt dst src r d a =>
    simp only [Instr.wellFormed, Bool.and_eq_true] at hwf
    obtain ⟨⟨hc, hd⟩, ha⟩ := hwf
    have h1 := dst.code_lt
    have h2 := src.code_lt
    have h3 := rnd_lt r
    refine decodes_fmtA (f := Dec.cvt) (lt_of_vreg hd) (lt_of_vreg ha) (by omega) (by omega) (by decide) ⟨rfl, fun _ => rfl⟩ rfl fun x hx => ?_
    have e1 : (rnd r / 4 * 16 + dst.code) % 16 = dst.code := by omega
    have e2 : (rnd r % 4 * 16 + src.code) % 16 = src.code := by omega
    have e3 : (rnd r / 4 * 16 + dst.code) / 16 * 4 + (rnd r % 4 * 16 + src.code) / 16 = rnd r := by omega
    simp [Dec.cvt, hx.d, hx.a, hx.b, hx.fn, hx.s, e1, e2, e3, hc, dec_v hd, dec_v ha]
  | frcp | frsq | fsqrt | fexp2 | flog2 | fsin | fcos | ftanh | fsigm =>
    exact decodes_unary (f := Dec.sfu) hwf (by decide) ⟨rfl, fun _ => rfl⟩ rfl fun _ hx hd ha => by
      simp [Dec.sfu, hx.noB, hx.d, hx.a, hx.fn, hd, ha]
  | reduce op t d a =>
    simp only [Instr.wellFormed, Bool.and_eq_true] at hwf
    obtain ⟨⟨hd, ha⟩, ht⟩ := hwf
    obtain ⟨hlt, hm, h8⟩ := red_fields op t
    refine decodes_fmtA (f := Dec.reduce) ((lt_of_sreg hd).trans (by decide)) (lt_of_vreg ha) (by decide) hlt (by decide) ⟨rfl, fun _ => rfl⟩ rfl
      fun x hx => ?_
    simp [Dec.reduce, hx.noB, hx.d, hx.a, hx.fn, hm, h8, decRedTy_redTy op t ht, dec_u hd, dec_v ha]
  | scan op ex t d a =>
    simp only [Instr.wellFormed, Bool.and_eq_true] at hwf
    obtain ⟨⟨hd, ha⟩, ht⟩ := hwf
    obtain ⟨hlt, hm, h8⟩ := red_fields op t
    have hx2 : bit ex / 2 = 0 := by cases ex <;> rfl
    refine decodes_fmtA (f := Dec.scan) (lt_of_vreg hd) (lt_of_vreg ha) ((bit_lt ex).trans (by decide)) hlt (by decide) ⟨rfl, fun _ => rfl⟩ rfl
      fun x hx => ?_
    simp [Dec.scan, hx.b, hx.s, hx.d, hx.a, hx.fn, hx2, hm, h8, decRedTy_redTy op t ht, dec_v hd, dec_v ha]
  | vote op d a =>
    simp only [Instr.wellFormed, Bool.and_eq_true] at hwf
    obtain ⟨hd, ha⟩ := hwf
    refine decodes_fmtA (f := Dec.vote) ((lt_of_sreg hd).trans (by decide)) ((lt_of_kreg ha).trans (by decide)) (by decide) (by cases op <;> decide)
      (by decide) ⟨rfl, fun _ => rfl⟩ rfl fun x hx => ?_
    cases op <;> simp [Dec.vote, hx.noB, hx.d, hx.a, hx.fn, voteOp, dec_u hd, dec_k ha]
  | ballot d a =>
    simp only [Instr.wellFormed, Bool.and_eq_true] at hwf
    obtain ⟨hd, ha⟩ := hwf
    exact decodes_fmtA ((lt_of_kdst hd).trans (by decide)) (lt_of_vreg ha) (by decide) (by decide) (by decide) ⟨rfl, fun _ => rfl⟩ rfl fun x hx => by
      simp [Dec.lane1, hx.da, hx.d, hx.a, dec_kd hd, dec_v ha]
  | shfl m d a b =>
    refine decodes_alu (f := Dec.shfl) hwf (by cases m <;> decide) ⟨rfl, fun _ => rfl⟩ rfl fun x hx hd ha hb => ?_
    cases m <;> simp [Dec.shfl, hx.d, hx.a, hx.fn, shflMode, hd, ha, hb]
  | confl d a =>
    exact decodes_unary hwf (by decide) ⟨rfl, fun _ => rfl⟩ rfl fun x hx hd ha => by simp [Dec.lane1, hx.da, hx.d, hx.a, hd, ha]
  | lane d =>
    exact decodes_fmtA (f := Dec.laneNln) (lt_of_vreg hwf) (by decide) (by decide) (by decide) (by decide) ⟨rfl, fun _ => rfl⟩ rfl fun x hx => by
      simp [Dec.laneNln, hx.noB, hx.d, hx.a, hx.fn, dec_v (show WF.vreg false d = true from hwf)]
  | nln d =>
    exact decodes_fmtA (f := Dec.laneNln) ((lt_of_sreg hwf).trans (by decide)) (by decide) (by decide) (by decide) (by decide) ⟨rfl, fun _ => rfl⟩ rfl
      fun x hx => by simp [Dec.laneNln, hx.noB, hx.d, hx.a, hx.fn, dec_u (show WF.sreg false d = true from hwf)]
  | tzero md =>
    exact decodes_fmtT (lt_of_mreg hwf) (by decide) (by decide) (by decide) (by decide) ⟨rfl, fun _ => rfl⟩ rfl fun x hx => by
      simp [Dec.sys1, hx.md, hx.fld_low]
  | tld tr md td =>
    simp only [Instr.wellFormed, Bool.and_eq_true] at hwf
    obtain ⟨hm, ht⟩ := hwf
    refine decodes_fmtT (lt_of_mreg hm) (by decide) (by decide) (lt_of_mreg ht) ((bit_lt tr).trans (by decide)) ⟨rfl, fun _ => rfl⟩ rfl fun x hx => ?_
    have h2 : bit tr / 2 = 0 := by cases tr <;> rfl
    simp [Dec.sys1, hx.md, hx.ma, hx.mb, hx.td, hx.fn, h2]
  | tst tr ma td =>
    simp only [Instr.wellFormed, Bool.and_eq_true] at hwf
    obtain ⟨hm, ht⟩ := hwf
    refine decodes_fmtT (by decide) (lt_of_mreg hm) (by decide) (lt_of_mreg ht) ((bit_lt tr).trans (by decide)) ⟨rfl, fun _ => rfl⟩ rfl fun x hx => ?_
    have h2 : bit tr / 2 = 0 := by cases tr <;> rfl
    simp [Dec.sys1, hx.md, hx.ma, hx.mb, hx.td, hx.fn, h2]
  | mma ta tb c a b =>
    simp only [Instr.wellFormed, Bool.and_eq_true] at hwf
    obtain ⟨⟨⟨hp, hc⟩, ha⟩, hb⟩ := hwf
    have h1 := ta.code_lt
    have h2 := tb.code_lt
    refine decodes_fmtT (f := Dec.mma) (lt_of_mreg hc) (lt_of_mreg ha) (lt_of_mreg hb) (by decide) (by omega) ⟨rfl, fun _ => rfl⟩ rfl fun x hx => ?_
    have e1 : (tb.code * 16 + ta.code) % 16 = ta.code := by omega
    have e2 : (tb.code * 16 + ta.code) / 16 = tb.code := by omega
    simp [Dec.mma, hx.md, hx.ma, hx.mb, hx.td, hx.fn, e1, e2, hp]
  | quant t r d a td =>
    simp only [Instr.wellFormed, Bool.and_eq_true] at hwf
    obtain ⟨⟨⟨ht, hd⟩, ha⟩, htd⟩ := hwf
    have h1 := t.code_lt
    have h2 : rot r < 4 := by cases r <;> decide
    refine decodes_fmtT (f := Dec.quant) (lt_of_mreg hd) (lt_of_mreg ha) (by decide) (lt_of_mreg htd) (by omega) ⟨rfl, fun _ => rfl⟩ rfl
      fun x hx => ?_
    have e1 : (rot r * 16 + t.code) % 16 = t.code := by omega
    have e2 : (rot r * 16 + t.code) / 16 = rot r := by omega
    have e3 : (rot r * 16 + t.code) / 64 = 0 := by omega
    simp only [Dec.quant, hx.md, hx.ma, hx.mb, hx.td, hx.fn, e1, e2, e3, ht, decElem_code, BEq.rfl, Bool.and_self, need_true, ok_bind]
    cases r <;> rfl
  | deq t d a td =>
    simp only [Instr.wellFormed, Bool.and_eq_true] at hwf
    obtain ⟨⟨⟨ht, hd⟩, ha⟩, htd⟩ := hwf
    have h1 := t.code_lt
    refine decodes_fmtT (f := Dec.deq) (lt_of_mreg hd) (lt_of_mreg ha) (by decide) (lt_of_mreg htd) (by omega) ⟨rfl, fun _ => rfl⟩ rfl fun x hx => ?_
    have e1 : t.code % 16 = t.code := by omega
    have e2 : t.code / 16 = 0 := by omega
    simp [Dec.deq, hx.md, hx.ma, hx.mb, hx.td, hx.fn, e1, e2, ht]
  | tact act out bias d a =>
    simp only [Instr.wellFormed, Bool.and_eq_true] at hwf
    obtain ⟨⟨⟨ho, hd⟩, ha⟩, hb⟩ := hwf
    have h1 := tactAct_lt act
    have h2 := tactOut_lt out
    cases bias with
    | none =>
      refine decodes_fmtT (f := Dec.tact) (lt_of_mreg hd) (lt_of_mreg ha) (by decide) (by decide) (by dsimp only; omega) ⟨rfl, fun _ => rfl⟩ rfl
        fun x hx => ?_
      obtain ⟨e1, e2, e3⟩ := tact_fields hx.fn h2 h1
      simp [Dec.tact, hx.md, hx.ma, hx.mb, hx.td, e1, e2, e3, decTactOut_tactOut out ho]
    | some r =>
      refine decodes_fmtT (f := Dec.tact) (lt_of_mreg hd) (lt_of_mreg ha) (lt_of_mreg hb) (by decide) (by dsimp only; omega) ⟨rfl, fun _ => rfl⟩ rfl
        fun x hx => ?_
      obtain ⟨e1, e2, e3⟩ := tact_fields hx.fn h2 h1
      simp [Dec.tact, hx.md, hx.ma, hx.mb, hx.td, e1, e2, e3, decTactOut_tactOut out ho]
  | tred op col d a =>
    simp only [Instr.wellFormed, Bool.and_eq_true] at hwf
    obtain ⟨hd, ha⟩ := hwf
    have h1 : tredOp op < 4 := by cases op <;> decide
    have h2 := bit_lt col
    refine decodes_fmtT (f := Dec.tred) (lt_of_mreg hd) (lt_of_mreg ha) (by decide) (by decide) (by omega) ⟨rfl, fun _ => rfl⟩ rfl fun x hx => ?_
    have e1 : (bit col * 4 + tredOp op) % 4 = tredOp op := by omega
    have e2 : (bit col * 4 + tredOp op) / 4 = bit col := by omega
    have e3 : (bit col * 4 + tredOp op) / 8 = 0 := by omega
    simp only [Dec.tred, hx.md, hx.ma, hx.mb, hx.td, hx.fn, e1, e2, e3, bit_eq_one, BEq.rfl, Bool.and_self, need_true, ok_bind]
    cases op <;> rfl
  | bfence | bwait | tresume | tskip | tkill | replay => exact decodes_uniC hwf ⟨rfl, fun _ => rfl⟩ rfl
  | ld z sg d b o =>
    simp only [Instr.wellFormed, Bool.and_eq_true] at hwf
    obtain ⟨⟨⟨hz, hd⟩, hb⟩, ho⟩ := hwf
    exact decodes_load hz (lt_of_vreg hd) (lt_of_vreg hb) ho (dec_v hd) (dec_v hb) ⟨rfl, fun _ => rfl⟩ rfl
  | lds z sg d b o =>
    simp only [Instr.wellFormed, Bool.and_eq_true] at hwf
    obtain ⟨⟨⟨hz, hd⟩, hb⟩, ho⟩ := hwf
    exact decodes_load hz ((lt_of_sreg hd).trans (by decide)) ((lt_of_sreg hb).trans (by decide)) ho (dec_u hd) (dec_u hb) ⟨rfl, fun _ => rfl⟩ rfl
  | ldc z sg d b o =>
    simp only [Instr.wellFormed, Bool.and_eq_true] at hwf
    obtain ⟨⟨⟨hz, hd⟩, hb⟩, ho⟩ := hwf
    exact decodes_load hz (lt_of_vreg hd) ((lt_of_sreg hb).trans (by decide)) ho (dec_v hd) (dec_u hb) ⟨rfl, fun _ => rfl⟩ rfl
  | ldf z sg d b o | ldp z sg d b o =>
    simp only [Instr.wellFormed, Bool.and_eq_true] at hwf
    obtain ⟨⟨⟨hz, hd⟩, hb⟩, ho⟩ := hwf
    have hd' : WF.vreg (z == .d) d = true := by rw [narrow_of_loadSz hz]; exact hd
    exact decodes_load hz (lt_of_vreg hd) (lt_of_vreg hb) ho (dec_v hd') (dec_v hb) ⟨rfl, fun _ => rfl⟩ rfl
  | st z d b o k =>
    simp only [Instr.wellFormed, Bool.and_eq_true] at hwf
    obtain ⟨⟨⟨hd, hb⟩, ho⟩, hk⟩ := hwf
    exact decodes_store rfl hd (lt_of_vreg hb) ho hk (dec_v hb) ⟨rfl, fun _ => rfl⟩ rfl
  | stf z d b o k | stp z d b o k =>
    simp only [Instr.wellFormed, Bool.and_eq_true] at hwf
    obtain ⟨⟨⟨⟨hz, hd⟩, hb⟩, ho⟩, hk⟩ := hwf
    have hn : (z == .d) = false := by simpa using hz
    exact decodes_store (up := true) (by rw [hn]; rfl) (by rw [hn]; exact hd) (lt_of_vreg hb) ho hk (dec_v hb) ⟨rfl, fun _ => rfl⟩ rfl
  | pfx h z b o k =>
    simp only [Instr.wellFormed, Bool.and_eq_true] at hwf
    obtain ⟨⟨⟨hb, ho⟩, hk⟩, hh⟩ := hwf
    refine decodes_fmtM (f := Dec.pfx) (by cases h <;> decide) (lt_of_vreg hb) (lt_of_kreg hk) (sz_lt z) (imm_lt 7 o) ⟨rfl, fun _ => rfl⟩ rfl
      fun x hx => ?_
    obtain ⟨h11, h8, h6⟩ := fmtM_fields hx.im (lt_of_kreg hk) (sz_lt z) (imm_lt 7 o)
    simp only [Dec.pfx, h11, h8, h6, hx.d, hx.a, decSz_sz, signed_imm 7 o (by decide) ho, dec_v hb, ok_bind]
    cases h with
    | l1 | l2 => rfl
    | ind => simp only [show (z == .w || z == .d) = true from hh, need_true, ok_bind]
  | atomf op =>
    refine decodes_alu (f := Dec.atomf) hwf (by cases op <;> decide) ⟨rfl, fun _ => rfl⟩ rfl fun x hx hd ha hb => ?_
    cases op <;> simp [Dec.atomf, hx.d, hx.a, hx.fn, atomfOp, hd, ha, hb]
  | fence kd sc =>
    have h1 := scope_lt sc
    refine decodes_fmtC (f := Dec.fence) (by decide) (by cases kd <;> (dsimp only; omega)) ⟨rfl, fun _ => rfl⟩ rfl fun x hx => ?_
    obtain ⟨e1, e2, e3⟩ := fence_fields hx.im h1 (by cases kd <;> decide)
    simp only [Dec.fence, hx.d, e1, e2, e3, decScope_scope, BEq.rfl, Bool.and_self, need_true, ok_bind]
    cases kd <;> rfl
  | ret d n r =>
    simp only [Instr.wellFormed, Bool.and_eq_true, decide_eq_true_eq] at hwf
    obtain ⟨hn, hd⟩ := hwf
    have hr := rel_lt r
    refine decodes_fmtC (f := Dec.ret) (lt_of_vrun hd) (by omega) ⟨rfl, fun _ => rfl⟩ rfl fun x hx => ?_
    obtain ⟨e1, e2, e3, e4⟩ := ret_fields hx.im hr hn
    simp [Dec.ret, Dec.payload, hx.d, e1, e2, e3, e4, hn, hd, relOf_rel]
  | endBlock | nop =>
    exact decodes_fmtC (by decide) (by decide) ⟨rfl, fun _ => rfl⟩ rfl fun x hx => by
      simp [Dec.sys1, hx.fld_all]
  | idxF d f =>
    simp only [Instr.wellFormed, Bool.and_eq_true, decide_eq_true_eq] at hwf
    obtain ⟨hd, hf⟩ := hwf
    refine decodes_fmtB (lt_of_vreg hd) (by decide) (by omega) ⟨rfl, fun _ => rfl⟩ rfl fun x hx => ?_
    obtain ⟨e1, e2⟩ : fld x 11 3 = 0 ∧ fld x 2 0 = f := by have := hx.im; simp only [fld]; omega
    simp [Dec.sys1, hx.d, hx.a, e1, e2, hf, dec_v hd]
  | tagc d =>
    exact decodes_fmtA (lt_of_vreg hwf) (by decide) (by decide) (by decide) (by decide) ⟨rfl, fun _ => rfl⟩ rfl fun x hx => by
      simp [Dec.sys1, hx.da, hx.d, hx.a, dec_v (show WF.vreg true d = true from hwf)]
  | mktag d a =>
    exact decodes_unary hwf (by decide) ⟨rfl, fun _ => rfl⟩ rfl fun x hx hd ha => by
      simp [Dec.sys1, hx.noB, hx.d, hx.a, hx.fn, hd, ha]
  | mktagColour d a b =>
    exact decodes_alu hwf (by decide) ⟨rfl, fun _ => rfl⟩ rfl fun x hx hd ha hb => by
      simp [Dec.sys1, hx.d, hx.a, hx.fn, hd, ha, hb]
  | clock d =>
    exact decodes_fmtA ((lt_of_sreg hwf).trans (by decide)) (by decide) (by decide) (by decide) (by decide) ⟨rfl, fun _ => rfl⟩ rfl fun x hx => by
      simp [Dec.sys1, hx.da, hx.d, hx.a, dec_u (show WF.sreg true d = true from hwf)]
  | trap c | brk c =>
    have hc : c < 2 ^ 18 := by simpa [Instr.wellFormed] using hwf
    exact decodes_fmtC (by decide) hc ⟨rfl, fun _ => rfl⟩ rfl fun x hx => by simp [Dec.sys1, hx.d, hx.fld_im]
  | movcRead d c =>
    have hd : WF.sreg false d = true := hwf
    have hc := ctl_lt c
    refine decodes_fmtB (f := Dec.movc) ((lt_of_sreg hd).trans (by decide)) (by decide) (by omega) ⟨rfl, fun _ => rfl⟩ rfl fun x hx => ?_
    obtain ⟨e1, e2, e3⟩ : fld x 10 6 = 0 ∧ fld x 11 11 = 0 ∧ fld x 5 0 = ctl c := by have := hx.im; simp only [fld]; omega
    simp [Dec.movc, hx.d, hx.a, e1, e2, e3, dec_u hd]
  | movcWrite d c =>
    simp only [Instr.wellFormed, Bool.and_eq_true] at hwf
    obtain ⟨hd, hw⟩ := hwf
    have hc := ctl_lt c
    refine decodes_fmtB (f := Dec.movc) ((lt_of_sreg hd).trans (by decide)) (by decide) (by omega) ⟨rfl, fun _ => rfl⟩ rfl fun x hx => ?_
    obtain ⟨e1, e2, e3⟩ : fld x 10 6 = 0 ∧ fld x 11 11 = 1 ∧ fld x 5 0 = ctl c := by have := hx.im; simp only [fld]; omega
    simp [Dec.movc, hx.d, hx.a, e1, e2, e3, hw, dec_u hd]
  | cwbi a b =>
    simp only [Instr.wellFormed, Bool.and_eq_true] at hwf
    obtain ⟨ha, hb⟩ := hwf
    exact decodes_fmtA (by decide) ((lt_of_sreg ha).trans (by decide)) ((lt_of_sreg hb).trans (by decide)) (by decide) (by decide)
      ⟨rfl, fun _ => rfl⟩ rfl fun x hx => by simp [Dec.sys1, hx.d, hx.a, hx.b, hx.fn, hx.s, dec_u ha, dec_u hb]
  | rebind a b =>
    simp only [Instr.wellFormed, Bool.and_eq_true] at hwf
    obtain ⟨ha, hb⟩ := hwf
    exact decodes_fmtA (by decide) ((lt_of_sreg ha).trans (by decide)) ((lt_of_sreg hb).trans (by decide)) (by decide) (by decide)
      ⟨rfl, fun _ => rfl⟩ rfl fun x hx => by simp [Dec.sys1, hx.d, hx.a, hx.b, hx.fn, hx.s, dec_u ha, dec_u hb]
  | faultrd d a w =>
    simp only [Instr.wellFormed, Bool.and_eq_true, decide_eq_true_eq] at hwf
    obtain ⟨⟨hd, ha⟩, hw⟩ := hwf
    refine decodes_fmtB ((lt_of_sreg hd).trans (by decide)) ((lt_of_sreg ha).trans (by decide)) (by omega) ⟨rfl, fun _ => rfl⟩ rfl fun x hx => ?_
    obtain ⟨e1, e2⟩ : fld x 11 4 = 0 ∧ fld x 3 0 = w := by have := hx.im; simp only [fld]; omega
    simp [Dec.sys1, hx.d, hx.a, e1, e2, dec_u hd, dec_u ha]
  | rdrop a | rfree a =>
    have ha : WF.sreg true a = true := hwf
    exact decodes_fmtA (by decide) ((lt_of_sreg ha).trans (by decide)) (by decide) (by decide) (by decide) ⟨rfl, fun _ => rfl⟩ rfl fun x hx => by
      simp [Dec.sys1, hx.da, hx.d, hx.a, dec_u ha]
  | rpin un a =>
    have ha : WF.sreg true a = true := hwf
    refine decodes_fmtA (by decide) ((lt_of_sreg ha).trans (by decide)) (by decide) ((bit_lt un).trans (by decide)) (by decide) ⟨rfl, fun _ => rfl⟩ rfl
      fun x hx => ?_
    have h2 : bit un / 2 = 0 := by cases un <;> rfl
    simp [Dec.sys1, hx.noB, hx.d, hx.a, hx.fn, h2, dec_u ha]
  | rstat d a =>
    simp only [Instr.wellFormed, Bool.and_eq_true] at hwf
    obtain ⟨hd, ha⟩ := hwf
    exact decodes_fmtA ((lt_of_sreg hd).trans (by decide)) ((lt_of_sreg ha).trans (by decide)) (by decide) (by decide) (by decide)
      ⟨rfl, fun _ => rfl⟩ rfl fun x hx => by simp [Dec.sys1, hx.da, hx.d, hx.a, dec_u hd, dec_u ha]
  | unassignedOpcode op => exact decodes_unassigned op hwf
  | _ => simp [encode] at hlen

theorem decodes_twoWords (i : Instr) (hwf : i.wellFormed = true) (hlen : (encode i).length = 2) : Decodes i := by
  cases i with
  | moviImm32 u d z =>
    simp only [Instr.wellFormed, Bool.and_eq_true, decide_eq_true_eq] at hwf
    obtain ⟨hd, hz⟩ := hwf
    cases u with
    | false =>
      exact decodes_fmtX (lt_of_vreg hd) (by decide) (by decide) (by decide) (by decide) ⟨rfl, fun _ _ => rfl⟩ rfl hz fun x y hx hy => by
        simp [hy, Dec.two, hx.d, hx.a, hx.b, hx.fn, hx.s, bit, dec_v (show WF.vreg false d = true from hd)]
    | true =>
      exact decodes_fmtX ((lt_of_sreg hd).trans (by decide)) (by decide) (by decide) (by decide) (by decide) ⟨rfl, fun _ _ => rfl⟩ rfl hz fun x y hx hy => by
        simp [hy, Dec.two, hx.d, hx.a, hx.b, hx.fn, hx.s, bit, dec_u (show WF.sreg false d = true from hd)]
  | cmpImm c u d a z =>
    simp only [Instr.wellFormed, Bool.and_eq_true, decide_eq_true_eq] at hwf
    obtain ⟨⟨hd, ha⟩, hz⟩ := hwf
    have hc := cond_lt c
    have hu := bit_lt u
    refine decodes_fmtX ((lt_of_kdst hd).trans (by decide)) (lt_of_vreg ha) (by decide) (by omega) (by decide) ⟨rfl, fun _ _ => rfl⟩ rfl hz
      fun x y hx hy => ?_
    have e1 : (cond c * 4 + bit u) / 4 = cond c := by omega
    have e2 : (cond c * 4 + bit u) / 2 % 2 = 0 := by omega
    have e3 : (cond c * 4 + bit u) % 2 = bit u := by omega
    simp [Dec.two, hy, hx.noB, hx.d, hx.a, hx.fn, e1, e2, e3, dec_kd hd, dec_v ha]
  | lmv w bias d a rows cols off =>
    simp only [Instr.wellFormed, Bool.and_eq_true, decide_eq_true_eq, beq_iff_eq] at hwf
    obtain ⟨⟨⟨⟨⟨⟨⟨⟨hr0, hr⟩, hc0⟩, hc⟩, hd⟩, ha⟩, hb⟩, hoff⟩, h4⟩ := hwf
    have hw := bit_lt w
    cases bias with
    | none =>
      refine decodes_fmtX (f := Dec.lmv) (lt_of_vrun hd) (lt_of_vrun ha) (by decide) (by decide) (by decide) ⟨rfl, fun _ _ => rfl⟩ rfl
        (by dsimp only; omega) fun x y hx hy => ?_
      obtain ⟨e1, e2, e3, e4, e5, e6⟩ := lmv_fields (z := 0) hy (by decide) hw hr0 hr hc0 hc hoff
      simp [Dec.lmv, hx.d, hx.a, hx.b, hx.fn, hx.s, e1, e2, e3, e4, e5, e6, hd, ha, h4]
    | some r =>
      refine decodes_fmtX (f := Dec.lmv) (lt_of_vrun hd) (lt_of_vrun ha) (lt_of_vrun hb) (by decide) (by decide) ⟨rfl, fun _ _ => rfl⟩ rfl
        (by dsimp only; omega) fun x y hx hy => ?_
      obtain ⟨e1, e2, e3, e4, e5, e6⟩ := lmv_fields (z := 1) hy (by decide) hw hr0 hr hc0 hc hoff
      simp [Dec.lmv, hx.d, hx.a, hx.b, hx.fn, hx.s, e1, e2, e3, e4, e5, e6, hd, ha, h4, show WF.vrun r rows = true from hb]
  | mmas p ta tb c a b m =>
    simp only [Instr.wellFormed, Bool.and_eq_true] at hwf
    obtain ⟨⟨⟨⟨hp, hc⟩, ha⟩, hb⟩, hm⟩ := hwf
    have h1 := ta.code_lt
    have h2 := tb.code_lt
    have h3 := bit_lt p
    have h4 := lt_of_mreg hm
    refine decodes_fmtX (f := Dec.mmas) ((lt_of_mreg hc).trans (by decide)) ((lt_of_mreg ha).trans (by decide)) ((lt_of_mreg hb).trans (by decide))
      (by decide) (by decide) ⟨rfl, fun _ _ => rfl⟩ rfl (by omega) fun x y hx hy => ?_
    obtain ⟨e1, e2, e3, e4, e5, e6⟩ := mmas_fields hy h3 h2 h1 h4
    simp [Dec.mmas, hx.d, hx.a, hx.b, hx.fn, hx.s, e1, e2, e3, e4, e5, e6, h3, hp, dec_m hc, dec_m ha, dec_m hb]
  | mmaq ta tw c a b t =>
    simp only [Instr.wellFormed, Bool.and_eq_true] at hwf
    obtain ⟨⟨⟨⟨hp, hc⟩, ha⟩, hb⟩, ht⟩ := hwf
    have h1 := ta.code_lt
    have h2 := tw.code_lt
    have h3 := lt_of_mreg ht
    refine decodes_fmtX (f := Dec.mmaq) ((lt_of_mreg hc).trans (by decide)) ((lt_of_mreg ha).trans (by decide)) ((lt_of_mreg hb).trans (by decide))
      (by decide) (by decide) ⟨rfl, fun _ _ => rfl⟩ rfl (by omega) fun x y hx hy => ?_
    obtain ⟨e1, e2, e3, e4⟩ := mmaq_fields hy h2 h1 h3
    simp [Dec.mmaq, hx.d, hx.a, hx.b, hx.fn, hx.s, e1, e2, e3, e4, hp, dec_m hc, dec_m ha, dec_m hb]
  | tdesc t a w0 =>
    simp only [Instr.wellFormed, Bool.and_eq_true, decide_eq_true_eq] at hwf
    obtain ⟨⟨⟨ht, ha⟩, hw⟩, hdesc⟩ := hwf
    exact decodes_fmtX (f := Dec.tdesc) ((lt_of_mreg ht).trans (by decide)) ((lt_of_sreg ha).trans (by decide)) (by decide) (by decide) (by decide)
      ⟨rfl, fun _ _ => rfl⟩ rfl hw fun x y hx hy => by simp [Dec.tdesc, hy, hx.da, hx.d, hx.a, hdesc, dec_m ht, dec_u ha]
  | atom op t sc o d a b =>
    simp only [Instr.wellFormed, Bool.and_eq_true] at hwf
    obtain ⟨⟨hd, ha⟩, hb⟩ := hwf
    have ht := ty_lt t
    refine decodes_fmtX (f := Dec.atom) (lt_of_vreg hd) (lt_of_vreg ha) (breg_lt hb) (by decide) (bs_lt b) ⟨rfl, fun _ _ => rfl⟩ rfl
      (atomWord_lt op sc o (by omega) (by decide)) fun x y hx hy => ?_
    obtain ⟨e1, e2, e3, e4, e5, e6⟩ := atom_fields hy (by omega) (by decide)
    have h8 : ty t ≠ 8 := by omega
    simp [Dec.atom, hx.d, hx.a, hx.fn, e1, e2, e3, e4, e5, e6, ht, h8, dec_v hd, dec_v ha, hx.bop hb]
  | fatom op sc o d a b =>
    simp only [Instr.wellFormed, Bool.and_eq_true] at hwf
    obtain ⟨⟨⟨hop, hd⟩, ha⟩, hb⟩ := hwf
    refine decodes_fmtX (f := Dec.atom) (lt_of_vreg hd) (lt_of_vreg ha) (breg_lt hb) (by decide) (bs_lt b) ⟨rfl, fun _ _ => rfl⟩ rfl
      (atomWord_lt op sc o (by decide) (by decide)) fun x y hx hy => ?_
    obtain ⟨e1, e2, e3, e4, e5, e6⟩ := atom_fields hy (by decide) (by decide)
    simp only [Dec.atom, hx.d, hx.a, hx.fn, e1, e2, e3, e4, e5, e6, dec_v hd, dec_v ha, hx.bop hb, decAtomOp_atomOp, decAtomOrder_atomOrder,
      decScope_scope, ok_bind, BEq.rfl, Bool.true_and, need_true, if_true, hop]
  | red op t sc o a b =>
    simp only [Instr.wellFormed, Bool.and_eq_true] at hwf
    obtain ⟨⟨⟨⟨hs, hc⟩, ho⟩, ha⟩, hb⟩ := hwf
    have ht := ty_lt t
    refine decodes_fmtX (f := Dec.atom) (by decide) (lt_of_vreg ha) (breg_lt hb) (by decide) (bs_lt b) ⟨rfl, fun _ _ => rfl⟩ rfl
      (atomWord_lt op sc o (by omega) (by decide)) fun x y hx hy => ?_
    obtain ⟨e1, e2, e3, e4, e5, e6⟩ := atom_fields hy (by omega) (by decide)
    have h8 : ty t ≠ 8 := by omega
    simp [Dec.atom, hx.d, hx.a, hx.fn, e1, e2, e3, e4, e5, e6, ht, h8, hs, hc, ho, dec_v ha, hx.bop hb]
  | cpy md es once sc d a b aux port block =>
    obtain ⟨hd, ha, hb, haux, hes, hport, hblock⟩ := cpy_bounds hwf
    have h1 := bit_lt once
    have h2 := scope_lt sc
    have h3 := cpyMode_lt md
    refine decodes_fmtX (f := Dec.cpy) hd ha (breg_lt hb) (by decide) (bs_lt b) ⟨rfl, fun _ _ => rfl⟩ rfl (by omega) fun x y hx hy => ?_
    obtain ⟨e1, e2, e3, e4, e5, e6, e7⟩ := cpy_fields hy haux hes h1 h2 h3 hport hblock
    simp [Dec.cpy, hx.d, hx.a, hx.fn, e1, e2, e3, e4, e5, e6, e7, hx.bop hb, show WF.cpy md es once sc d a b aux port block = true from hwf]
  | send t d n k r port block =>
    simp only [Instr.wellFormed, Bool.and_eq_true, decide_eq_true_eq] at hwf
    obtain ⟨⟨⟨⟨⟨ht, hn⟩, hd⟩, hk⟩, hport⟩, hblock⟩ := hwf
    obtain ⟨ha, hm⟩ := tag_bounds ht
    have hr := rel_lt r
    have hk8 := lt_of_kreg hk
    refine decodes_fmtX (f := Dec.send false) (lt_of_vrun hd) ha (by decide) (hk8.trans (by decide)) (by decide) ⟨rfl, fun _ _ => rfl⟩ rfl (by omega)
      fun x y hx hy => ?_
    obtain ⟨e1, e2, e3, e4, e5, e6, e7⟩ := send_fields hy hm hr hn hport hblock
    have h8 : k / 8 = 0 := by omega
    have hk : k % 8 = k := by omega
    simp [Dec.send, Dec.payload, hx.d, hx.b, hx.fn, hx.s, h8, hk, e1, e2, e3, e4, e5, e6, e7, decTagSrc ht hx.a, hn, hd, relOf_rel]
  | sendm t d n k r b =>
    simp only [Instr.wellFormed, Bool.and_eq_true, decide_eq_true_eq] at hwf
    obtain ⟨⟨⟨⟨ht, hn⟩, hd⟩, hk⟩, hb⟩ := hwf
    obtain ⟨ha, hm⟩ := tag_bounds ht
    have hr := rel_lt r
    have hk8 := lt_of_kreg hk
    refine decodes_fmtX (f := Dec.send true) (lt_of_vrun hd) ha (lt_of_vreg hb) (hk8.trans (by decide)) (by decide) ⟨rfl, fun _ _ => rfl⟩ rfl (by omega)
      fun x y hx hy => ?_
    obtain ⟨e1, e2, e3, e4, e5, h17⟩ := sendm_fields hy hm hr hn
    have h8 : k / 8 = 0 := by omega
    have hk : k % 8 = k := by omega
    simp [Dec.send, Dec.payload, hx.d, hx.b, hx.fn, hx.s, h8, hk, e1, e2, e3, e4, e5, h17, decTagSrc ht hx.a, hn, hd, relOf_rel]
  | spawn d a n ep k rp e r =>
    simp only [Instr.wellFormed, Bool.and_eq_true, decide_eq_true_eq] at hwf
    obtain ⟨⟨⟨⟨⟨⟨⟨hn, hd⟩, ha⟩, hep⟩, hk⟩, hrp⟩, he⟩, hr⟩ := hwf
    have hk8 := lt_of_kreg hk
    refine decodes_fmtX (f := Dec.spawn) (lt_of_vrun hd) (lt_of_vreg ha) (by omega) (by omega) (by decide) ⟨rfl, fun _ _ => rfl⟩ rfl (by omega)
      fun x y hx hy => ?_
    have e1 : (n * 4 + ep) / 4 = n := by omega
    have e2 : (n * 4 + ep) % 4 = ep := by omega
    have e3 : (rp * 8 + k) / 8 = rp := by omega
    have e4 : (rp * 8 + k) % 8 = k := by omega
    obtain ⟨e5, e6⟩ : fld y 15 0 = e ∧ fld y 31 16 = r := by simp only [fld]; omega
    simp [Dec.spawn, Dec.payload, hx.d, hx.a, hx.b, hx.fn, hx.s, e1, e2, e3, e4, e5, e6, hn, hd, dec_v ha]
  | rseal d a b e n =>
    simp only [Instr.wellFormed, Bool.and_eq_true, decide_eq_true_eq] at hwf
    obtain ⟨⟨⟨⟨hd, ha⟩, hb⟩, he⟩, hn⟩ := hwf
    have hd64 : d < 64 := by simp at hd; omega
    refine decodes_fmtX (f := Dec.rseal) hd64 ((lt_of_sreg ha).trans (by decide)) (by omega) (by decide) (by decide) ⟨rfl, fun _ _ => rfl⟩ rfl (by omega)
      fun x y hx hy => ?_
    obtain ⟨e1, e2, e3⟩ : fld y 31 19 = 0 ∧ fld y 18 16 = n ∧ fld y 15 0 = e := by simp only [fld]; omega
    simp only [Dec.rseal, hx.d, hx.a, hx.b, hx.fn, hx.s, e1, e2, e3, hd, hn, hb, BEq.rfl, Bool.and_self, decide_true, need_true, dec_u ha, ok_bind]
  | hcmdMap d a b | hcmdUnmap d a b | hcmdProtect d a b | hcmdQuery d a b =>
    simp only [Instr.wellFormed, Bool.and_eq_true] at hwf
    obtain ⟨⟨hd, ha⟩, hb⟩ := hwf
    exact decodes_fmtX (f := Dec.hcmd) ((lt_of_sreg hd).trans (by decide)) ((lt_of_sreg ha).trans (by decide)) ((lt_of_sreg hb).trans (by decide))
      (by decide) (by decide) ⟨rfl, fun _ _ => rfl⟩ rfl (by decide) fun x y hx hy => by
        simp [Dec.hcmd, hy, hx.d, hx.a, hx.b, hx.fn, hx.s, fld, dec_u hd, dec_u ha, dec_u hb]
  | hcmdTcflush d a b m =>
    simp only [Instr.wellFormed, Bool.and_eq_true, decide_eq_true_eq] at hwf
    obtain ⟨⟨⟨hd, ha⟩, hb⟩, hm⟩ := hwf
    refine decodes_fmtX (f := Dec.hcmd) ((lt_of_sreg hd).trans (by decide)) ((lt_of_sreg ha).trans (by decide)) ((lt_of_sreg hb).trans (by decide))
      (by decide) (by decide) ⟨rfl, fun _ _ => rfl⟩ rfl (by omega) fun x y hx hy => ?_
    obtain ⟨e1, e2, e3⟩ : fld y 31 16 = 0 ∧ fld y 7 0 = 5 ∧ fld y 15 8 = m := by simp only [fld]; omega
    simp [Dec.hcmd, hx.d, hx.a, hx.b, hx.fn, hx.s, e1, e2, e3, dec_u hd, dec_u ha, dec_u hb]
  | unassignedOpcode op => exact decodes_unassigned op hwf
  | _ => simp [encode, alu] at hlen

/-- An instruction has one word or two; the rows with none are events (R34). -/
theorem encode_length (i : Instr) (h : i.isEvent = false) : (encode i).length = 1 ∨ (encode i).length = 2 := by
  cases i with
  | unassignedOpcode op =>
    have hwords : opWords op = 1 ∨ opWords op = 2 := by unfold opWords; split <;> decide
    simp only [encode, List.length_cons, List.length_replicate]
    omega
  | _ => simp_all [encode, alu, Instr.isEvent, fmtA, fmtB]

/-- Settles O30: an instruction of one word, or of two, is read from the fields of its words. -/
theorem everyInstructionDecodes : Obligations.EveryInstructionDecodes := by
  unfold Obligations.EveryInstructionDecodes
  intro i w after hwf hev
  rcases encode_length i hev with h | h
  · exact decodes_oneWord i hwf h w after
  · exact decodes_twoWords i hwf h w after

end Sys2Proof.Proofs
end

section
/-! SUPPORT. A trap at issue (R303, R305, R335): the report it leaves, the recompute it ends, and the checks of every instruction's issue
(R43, R324). -/

open Sys2Proof.Claims

namespace Sys2Proof.Machine

/-! ### The report entry of a trap point -/

@[simp] theorem Pack.closeBatch_reports (p : Pack) : p.closeBatch.c.reports = p.c.reports := rfl

/-- A report joins the pack's entry of its index, or stands alone (R309). -/
theorem Pack.addReport_mem (p : Pack) (e : Report) :
    ∃ x ∈ (p.addReport e).c.reports, x.idx = e.idx ∧ (∀ l ∈ e.lanes, l ∈ x.lanes) ∧
      ((∀ r ∈ p.c.reports, r.idx ≠ e.idx) → x.lanes = e.lanes) := by
  unfold Pack.addReport
  dsimp only
  split
  case isTrue h =>
    obtain ⟨y, hy, hidx⟩ := List.any_eq_true.mp h
    have hidx : y.idx = e.idx := by simpa using hidx
    refine ⟨_, List.mem_map.mpr ⟨y, hy, if_pos hidx⟩, hidx, fun l hl => ?_, fun hno => absurd hidx (hno y hy)⟩
    simp [hl]
  case isFalse =>
    exact ⟨e, (Proofs.mem_insertBy _ _ _ _).mpr (.inl rfl), rfl, fun _ hl => hl, fun _ => rfl⟩

/-- A trap at issue of a pack that is no recompute and replays nothing: the pack drains with the lanes' report (R303, R305). -/
theorem State.trapIssue_report (s : State) (p : Pack) (len : Nat) (ls : List RepLane) (hreplay : p.c.replay = []) (hc : p.id.colour = none) :
    ∃ q x, s.trapIssue s.cur p len ls = s.setPack s.cur q ∧ SameRegs p q ∧ q.c.st = .drain ∧ q.c.trap.idx = p.c.pc ∧
      q.c.trap.entry = some p.c.pc ∧ x ∈ q.c.reports ∧ x.idx = p.c.pc ∧ (∀ l ∈ ls, l ∈ x.lanes) ∧
      ((∀ r ∈ p.c.reports, r.idx ≠ p.c.pc) → x.lanes = ls) := by
  have hidx : p.idx = p.c.pc := by rw [Pack.idx, hreplay]
  obtain ⟨x, hx, hxi, hxl, hxo⟩ := p.closeBatch.addReport_mem (s.mkReport p p.idx ls)
  unfold State.trapIssue State.raise
  rw [hc, hreplay]
  dsimp only [List.tail_nil, List.map_nil, List.foldl_nil]
  refine ⟨_, x, rfl, ?_, rfl, hidx, congrArg some hidx, hx, hxi.trans hidx, hxl, fun hno => hxo ?_⟩
  · exact (((SameRegs.closeBatch p).trans (SameRegs.addReport _ _)).trans (SameRegs.settled _)).trans (SameRegs.of_ctrl _ _)
  · intro r hr
    exact fun h => hno r hr (h.trans hidx)

/-! ### The end of a recompute pack -/

@[simp] theorem State.ghost_retr (s : State) (r : PackRef) (p : Pack) : (s.ghost r p).retr = s.retr := by
  unfold State.ghost
  split
  · rfl
  · exact State.modCore_retr _ _ _

@[simp] theorem State.freePack_retr (s : State) (r : PackRef) (p : Pack) : (s.freePack r p).retr = s.retr := by simp [State.freePack]

@[simp] theorem State.engineStart_retr (s : State) (core pipe : Nat) : (s.engineStart core pipe).retr = s.retr := by
  unfold State.engineStart
  dsimp only
  split
  · exact State.modPipe_retr _ _ _ _
  · rfl

@[simp] theorem State.killPack_retr (s : State) (r : PackRef) (p : Pack) : (s.killPack r p).retr = s.retr := by
  simp only [State.killPack, State.freePack_retr, State.modCore_retr, State.engineStart_retr, State.modPipe_retr]
  exact foldl_keeps (fun t => t.retr) _ (fun t e => State.freeColour_retr t _ _ _) _ s

theorem State.pack_freePack (s : State) (r : PackRef) (p : Pack) : (s.freePack r p).pack r = none := by
  simp [State.freePack, State.pack]

theorem State.pack_killPack (s : State) (r : PackRef) (p : Pack) : (s.killPack r p).pack r = none := State.pack_freePack _ r p

/-- The Retrievers are no matter of the packs. -/
theorem State.pack_failRegen (s : State) (c kind arg : Nat) (r : PackRef) : (s.failRegen c kind arg).pack r = s.pack r := by
  unfold State.failRegen
  repeat' split
  all_goals rfl

/-- The running regeneration of a colour fails with the kind (R335, R339). -/
theorem State.failRegen_retr (s : State) (c kind arg die : Nat) (q : Retriever) (g : Regen) (rest : List Regen) (hq : s.retrOf c = some (die, q))
    (hst : q.stack = g :: rest) (hg : g.phase = .running) :
    (s.failRegen c kind arg).retr.find die = some { q with stack := { g with phase := .failed kind arg } :: rest } := by
  unfold State.failRegen
  rw [hq]
  dsimp only
  rw [hst]
  dsimp only
  rw [hg]
  exact Tbl.find_put_same _ _ _

/-- A trap at issue of a recompute pack ends it, and its recompute fails with kind 3 and the cause of the first lane (R335). -/
theorem State.trapIssue_recompute (s : State) (r : PackRef) (p : Pack) (len : Nat) (ls : List RepLane) {c : Nat} (hc : p.id.colour = some c) :
    s.trapIssue r p len ls = (s.killPack r p).failRegen c 3 ((ls.head?.map fun l => l.cause).getD 0) := by
  unfold State.trapIssue State.raise
  rw [hc]
  rfl

/-! ### An instruction that traps at issue -/

section
variable {s : State} {i : Instr} {p : Pack}

/-- What traps at issue, with its report or with the end of its recompute. -/
theorem trapsAt_of_trapIssue {len : Nat} {ls : List RepLane} (hreplay : p.c.replay = [])
    (h : exec i s = .next (s.trapIssue s.cur p len ls)) : TrapsAt s i p ls := by
  unfold TrapsAt
  cases hc : p.id.colour with
  | none =>
    obtain ⟨q, x, heq, ⟨hr, hm, -⟩, hst, hidx, hentry, hx, hxi, hxl, hxo⟩ := s.trapIssue_report p len ls hreplay hc
    rw [heq] at h
    exact ⟨_, q, x, h, State.pack_setPack _ _ _, hst, hidx, hentry, hx, hxi, hxl, hxo, hr, hm, rfl⟩
  | some c =>
    rw [s.trapIssue_recompute s.cur p len ls hc] at h
    refine ⟨_, h, ?_, by simp, fun die q g rest hq hstack hrun => ⟨_, State.failRegen_retr _ c 3 _ die q g rest ?_ hstack hrun, rfl⟩⟩
    · rw [State.pack_failRegen, State.pack_killPack]
    · rw [← hq, State.retrOf, State.retrOf, State.killPack_retr]

/-! ### The checks of an issue (R43, R324) -/

/-- Every instruction that a pack issues makes the checks of an issue. -/
theorem exec_eq_issue (s : State) (i : Instr) (h : i.isEvent = false) : ∃ f, exec i s = issue s i f := by
  cases i with
  | moviImm32 uni d z => cases uni <;> exact ⟨_, rfl⟩
  | _ => cases h <;> exact ⟨_, rfl⟩

/-- An event reads no register, names no tile and needs no privilege. -/
theorem needs_nothing_of_isEvent (h : i.isEvent = true) : reads i = [] ∧ limited i = [] ∧ needsPriv i = false := by
  cases i with
  | _ => cases h <;> exact ⟨rfl, rfl, rfl⟩

theorem laneReads_nil (p : Pack) (h : reads i = []) (L : Nat) : p.laneReads i L = [] := by
  unfold Pack.laneReads
  split
  case h_5 => rw [h, List.flatMap_nil]
  all_goals cases h

theorem badLanes_nil (p : Pack) (h : reads i = []) : p.badLanes i = [] := by
  simp [Pack.badLanes, h, laneReads_nil p h]

section
variable (hp : s.pack s.cur = some p)
include hp

/-- A tile at or above the block's count fails check 2 (R30, R43). -/
theorem exec_not_within (h : ¬Within p i) : exec i s = .next (s.trapIssue s.cur p (instrLen i) (every p 1 2 0)) := by
  have h : ((limited i).any fun m => p.m.tiles.length ≤ m) = true := by simpa only [Within, Bool.not_eq_false] using h
  have hev : i.isEvent = false := by
    by_contra hev
    obtain ⟨-, hlim, -⟩ := needs_nothing_of_isEvent (i := i) (by simpa using hev)
    rw [hlim] at h
    cases h
  obtain ⟨f, hf⟩ := exec_eq_issue s i hev
  rw [hf, issue, hp]
  exact if_pos h

/-- A failed check 3 (R43, R274). -/
theorem exec_unprivileged (hw : limited i = []) (h : s.privOk p i = false) : exec i s = .next (s.trapIssue s.cur p (instrLen i) (every p 2 0 0)) := by
  have hev : i.isEvent = false := by
    by_contra hev
    obtain ⟨-, -, hpriv⟩ := needs_nothing_of_isEvent (i := i) (by simpa using hev)
    rw [State.privOk, hpriv] at h
    cases h
  obtain ⟨f, hf⟩ := exec_eq_issue s i hev
  rw [hf, issue, hp]
  dsimp only
  rw [hw, h]
  rfl

/-- A poisoned register that is read (R324). -/
theorem exec_bad (hw : Within p i) (hpriv : s.privOk p i = true) (h : p.badLanes i ≠ []) :
    exec i s = .next (s.trapIssue s.cur p (instrLen i) (p.badLanes i)) := by
  have hev : i.isEvent = false := by
    by_contra hev
    obtain ⟨hreads, -⟩ := needs_nothing_of_isEvent (i := i) (by simpa using hev)
    exact h (badLanes_nil p hreads)
  obtain ⟨f, hf⟩ := exec_eq_issue s i hev
  rw [hf, issue, hp]
  dsimp only
  rw [show ((limited i).any fun m => p.m.tiles.length ≤ m) = false from hw, hpriv]
  cases hb : p.badLanes i with
  | nil => exact absurd hb h
  | cons l ls => rfl

end

theorem uniformBad_iff : UniformBad p i ↔ ((reads i).any fun b => match b with | .s r => p.r.sBad.contains r | .v _ => false) = true := by
  rw [List.any_eq_true]
  constructor
  · rintro ⟨r, hr, hbad⟩
    exact ⟨.s r, hr, by simpa using hbad⟩
  · rintro ⟨b, hb, hbad⟩
    cases b with
    | v r => cases hbad
    | s r => exact ⟨r, hb, by simpa using hbad⟩

/-- A poisoned uniform register is read by every active lane (R324). -/
theorem badLanes_of_uniformBad (h : UniformBad p i) : p.badLanes i = p.lanes.map (readLane p i) := by
  have hbad : p.r.sBad.isEmpty = false := by
    obtain ⟨r, -, hr⟩ := h
    exact List.isEmpty_eq_false_iff.mpr (List.ne_nil_of_mem hr)
  exact (if_neg (by simp [hbad])).trans (if_pos (uniformBad_iff.mp h))

/-- A poisoned lane register is read by the lanes whose results take it (R324). -/
theorem badLanes_of_badOf (hu : ¬UniformBad p i) (h : Claims.badOf p i ≠ []) : p.badLanes i = (Claims.badOf p i).map (readLane p i) := by
  have hbad : p.r.vBad.isEmpty = false := by
    by_contra hv
    simp only [Bool.not_eq_false, List.isEmpty_iff] at hv
    exact h (by simp [Claims.badOf, hv])
  exact (if_neg (by simp [hbad])).trans (if_neg (mt uniformBad_iff.mpr hu))

/-- The marked instructions are those that need a privileged pack, and name no tile (R41, R43). -/
theorem of_marked (h : Marked i) : needsPriv i = true ∧ limited i = [] := by
  unfold Marked at h
  split at h
  case h_13 => cases h
  all_goals exact ⟨rfl, rfl⟩

/-- A harbour command needs HCEN (R274). -/
theorem of_harbour (h : Harbour i) : needsPriv i = true ∧ isHcmd i = true ∧ limited i = [] := by
  unfold Harbour at h
  split at h
  case h_6 => cases h
  all_goals exact ⟨rfl, rfl, rfl⟩

/-- HCEN is bit 2 of the context's PRIV (R274). -/
theorem State.hcen_eq {x : Ctx} (s : State) {n : Nat} (h : s.ctx n = some x) : s.hcen n = x.r.priv.testBit 2 := by
  rw [State.hcen, h]
  have hand : x.r.priv &&& 4 = (x.r.priv.testBit 2).toNat * 4 := Nat.and_two_pow x.r.priv 2
  dsimp only
  rw [hand]
  cases x.r.priv.testBit 2 <;> rfl

end

end Sys2Proof.Machine
end

section
/-! PROOF. What traps at issue (R30, R42, R43, R274, R324, R335). -/

open Sys2Proof Sys2Proof.Machine Sys2Proof.Claims

namespace Sys2Proof.Proofs

/-- Settles O5: each failed check of the issue is a trap at issue for its lanes. -/
theorem illegalAndPrivilegedInstructionsTrap : Obligations.IllegalAndPrivilegedInstructionsTrap := by
  unfold Obligations.IllegalAndPrivilegedInstructionsTrap
  intro s p hp hreplay
  refine ⟨fun op hready => ?_, fun b e hc hb hdec => ?_, fun i h => ?_, fun i h hpriv => ?_, fun i x h hx hbit => ?_, fun i hw hpriv hu hl => ?_,
    fun i hw hpriv hu hbad => ?_⟩
  · exact trapsAt_of_trapIssue hreplay (issue_of_ready hready _)
  · have hidx : p.idx = p.c.pc := by rw [Pack.idx, hreplay]
    obtain ⟨q, x, heq, ⟨hr, -, -⟩, hst, -, hentry, hx, hxi, hxl, -⟩ :=
      s.trapIssue_report p (opWords (majorOp (b.code.getD p.idx 0))) (p.allLanes 1 2 0) hreplay hc
    refine ⟨_, q, issueAt_illegal s s.cur p b hb (by rwa [hidx]), ?_, hst, hr, hentry, x, hx, hxi, hxl⟩
    rw [State.trapIllegal, heq, State.pack_setPack]
  · exact trapsAt_of_trapIssue hreplay (exec_not_within hp h)
  · obtain ⟨hneeds, hlim⟩ := of_marked h
    exact trapsAt_of_trapIssue hreplay (exec_unprivileged hp hlim (by rw [State.privOk, hneeds, hpriv]; rfl))
  · obtain ⟨hneeds, hcmd, hlim⟩ := of_harbour h
    exact trapsAt_of_trapIssue hreplay (exec_unprivileged hp hlim (by simp [State.privOk, hneeds, hcmd, s.hcen_eq hx, hbit]))
  · have hls := badLanes_of_uniformBad hu
    exact hls ▸ trapsAt_of_trapIssue hreplay (exec_bad hp hw hpriv (by simpa [hls] using hl))
  · have hls := badLanes_of_badOf hu hbad
    exact hls ▸ trapsAt_of_trapIssue hreplay (exec_bad hp hw hpriv (by simpa [hls] using hbad))

end Sys2Proof.Proofs
end

section
/-! SUPPORT. The mailbox's results (R293): a command that ends with results over its ARGS. -/

open Sys2Proof.Claims

namespace Sys2Proof

/-- A run of reads within a run of writes. -/
theorem Sparse.getRun_setRun_within {w : Nat} (k i n : Nat) (vs : List (BitVec w)) (m : Sparse w) (h : i + n ≤ vs.length) :
    getRun (setRun k vs m) (k + i) n = (vs.drop i).take n := by
  have hlen : ((vs.drop i).take n).length = n := by rw [List.length_take, List.length_drop]; omega
  have hrun := getRun_eq (setRun k vs m) (k + i) ((vs.drop i).take n) fun j hj => by
    have hget : ((vs.drop i).take n).getD j 0 = vs.getD (i + j) 0 := by
      rw [hlen] at hj
      rw [List.getD_eq_getElem _ _ (by omega), List.getD_eq_getElem _ _ (by omega), List.getElem_take, List.getElem_drop]
    rw [get_setRun, if_pos (by omega), hget]
    congr 1
    omega
  rwa [hlen] at hrun

namespace Machine

/-- A result stands over ARGS once the command has ended (R291). -/
theorem res_mboxEnd (u : State) (port st off n : Nat) (rs : List Byte) (hp : port < u.io.mbox.length) (h : off + n ≤ rs.length) :
    res (u.mboxEnd port st rs) port off n = pktNat rs off n := by
  have hargs : ((u.mboxEnd port st rs).mbox port).args = Sparse.setRun 0 rs (u.mbox port).args := congrArg Mbox.args (u.mbox_setMbox port _ hp)
  have hrun := Sparse.getRun_setRun_within 0 off n rs (u.mbox port).args h
  rw [Nat.zero_add] at hrun
  rw [res, hargs, hrun, pktNat]

/-- A command ends the same whatever its results. -/
theorem ended_results {s u : State} {port tag st : Nat} (rs : List Byte) (hp : port < u.io.mbox.length)
    (h : Ended s port tag st (u.mboxEnd port st [])) : Ended s port tag st (u.mboxEnd port st rs) := by
  have hstatus (bs : List Byte) : ((u.mboxEnd port st bs).mbox port).status = BitVec.ofNat 32 ((u.mbox port).cmd / 2 ^ 16 * 2 ^ 16 + st) :=
    congrArg Mbox.status (u.mbox_setMbox port _ hp)
  obtain ⟨hs, hm⟩ := h
  exact ⟨by rw [hstatus, ← hs, hstatus], hm⟩

/-- The mailboxes of a state whose mailboxes are those of an accepted command. -/
theorem mbox_length_of_post {s u : State} {c : Cmd} {code : Nat} (hi : Idle s c) (hu : u.post = (s.mboxStart code c).post) :
    c.port < u.io.mbox.length := by
  rw [(State.mbox_of_post hu).1]
  show c.port < (s.io.mbox.set _ _).length
  rw [List.length_set, hi.2.1]
  exact hi.1

/-- The three numbers of a refusal of the loader (R293). -/
theorem pktNat_loadErr (e : LoadErr) (hr : e.reason < 2 ^ 32) (hb : e.block < 2 ^ 32) :
    pktNat (loadErr e) 0 4 = e.reason ∧ pktNat (loadErr e) 4 4 = e.block ∧ pktNat (loadErr e) 8 4 = e.index % 2 ^ 32 := by
  simp only [loadErr, List.append_assoc, pktNat_append_right, pktNat_append_left, pktNat_self, length_leBytes, leNat_leBytes, Nat.reduceLeDiff,
    Nat.reduceSub, Nat.le_refl]
  omega

@[simp] theorem length_loadErr (e : LoadErr) : (loadErr e).length = 12 := by
  simp [loadErr]

/-- The results of a refusal of the loader stand over ARGS (R293). -/
theorem res_loadErr (u : State) (port st : Nat) (e : LoadErr) (hp : port < u.io.mbox.length) (hr : e.reason < 2 ^ 32) (hb : e.block < 2 ^ 32) :
    let t := u.mboxEnd port st (loadErr e)
    res t port 0 4 = e.reason ∧ res t port 4 4 = e.block ∧ res t port 8 4 = e.index % 2 ^ 32 := by
  obtain ⟨h0, h4, h8⟩ := pktNat_loadErr e hr hb
  refine ⟨?_, ?_, ?_⟩
  · rw [res_mboxEnd _ _ _ _ _ _ hp (by simp), h0]
  · rw [res_mboxEnd _ _ _ _ _ _ hp (by simp), h4]
  · rw [res_mboxEnd _ _ _ _ _ _ hp (by simp), h8]

end Machine
end Sys2Proof
end

section
/-! SUPPORT. The checks of LOAD (R68 to R72): what reading an accepted image comes to. -/

open Sys2Proof.Claims

namespace Sys2Proof.Machine

/-- The loader ends a command in the mailbox that holds it. -/
theorem ended_endLoad {s u : State} {c : Cmd} {code st : Nat} (rs : List Byte) (hi : Idle s c) (hcode : code < 65536) (hst : st < 65536)
    (hu : u.post = (s.mboxStart code c).post) : Ended s c.port c.tag st (u.endLoad c.port st rs) :=
  ended_results (u := { u with io := { u.io with loads := u.io.loads.del c.port } }) rs (mbox_length_of_post (u := u) hi hu)
    (ended_of_post hi hcode hst hu)

/-- A refusal of the loader, with its reason, block and place (R293). -/
theorem endLoad_refused {s u : State} {c : Cmd} {code : Nat} (e : LoadErr) (hi : Idle s c) (hcode : code < 65536)
    (hu : u.post = (s.mboxStart code c).post) (hr : e.reason < 2 ^ 32) (hb : e.block < 2 ^ 32) :
    let t := u.endLoad c.port MCode.refused (loadErr e)
    Ended s c.port c.tag 5 t ∧ res t c.port 0 4 = e.reason ∧ res t c.port 4 4 = e.block ∧ res t c.port 8 4 = e.index % 2 ^ 32 :=
  ⟨ended_endLoad _ hi hcode (by decide) hu, res_loadErr _ _ _ e (mbox_length_of_post (u := u) hi hu) hr hb⟩

section
variable {s : State} {c : Cmd} {x : Ctx} (hi : Idle s c) (hm : Mine s c x) (hrun : x.st = .running) (ho : Only c [(0, 12), (16, 8)])
  (hva : argNat c 0 8 % 64 = 0) (hmap : argNat c 16 8 % 4 = 0)
include hi hm hrun ho hva hmap

/-- A range with a byte outside every region with X is refused before it is read (R72 check 1). -/
theorem exec_load_notCode {off : Nat} (h : x.notCode (argNat c 0 8) (argNat c 8 4) = some off) : exec (.load c) s =
    .next ((s.mboxStart 6 c).mboxEnd c.port MCode.refused (loadErr { reason := 9, block := noPlace, index := off })) := by
  show execLoad c s = _
  rw [execLoad, ctxCommand_of_mine s 6 c x _ _ hi hm ho]
  simp [hrun, hva, hmap, h]

theorem exec_load_code (h : x.notCode (argNat c 0 8) (argNat c 8 4) = none) : exec (.load c) s = .next (loadRead (s.mboxStart 6 c) c x) := by
  show execLoad c s = _
  rw [execLoad, ctxCommand_of_mine s 6 c x _ _ hi hm ho]
  simp [hrun, hva, hmap, h]

theorem load_notCode {off : Nat} (h : x.notCode (argNat c 0 8) (argNat c 8 4) = some off) : Says s c (.load c) 5 fun t =>
    t.mem = s.mem ∧ t.blocks = s.blocks ∧ t.images = s.images ∧ res t c.port 0 4 = 9 ∧ res t c.port 4 4 = 0xFFFFFFFF := by
  have hlen := mbox_length_of_post (u := s.mboxStart 6 c) hi rfl
  obtain ⟨h0, h4, -⟩ := res_loadErr (s.mboxStart 6 c) c.port 5 ⟨9, noPlace, off⟩ hlen (show 9 < 2 ^ 32 by decide) (show noPlace < 2 ^ 32 by decide)
  exact ⟨_, exec_load_notCode hi hm hrun ho hva hmap h, ended_results _ hlen (ended_of_post hi (by decide) (by decide) rfl), rfl, rfl, rfl, h0, h4⟩

section
variable {u : State} {bs : List Byte} (hcode : x.notCode (argNat c 0 8) (argNat c 8 4) = none)
  (hread : (s.mboxStart 6 c).readImage x.r.asid (argNat c 0 8) ((argNat c 8 4 + 63) / 64) 0 = (u, .bytes bs))
include hcode hread

/-- An image that is read whole is checked. -/
theorem exec_load_read : exec (.load c) s = .next (loadChecked u c x (bs.take (argNat c 8 4))) := by
  rw [exec_load_code hi hm hrun ho hva hmap hcode, loadRead]
  dsimp only
  rw [hread]

variable (hio : u.io = (s.mboxStart 6 c).io) (hblocks : u.blocks = s.blocks) (himages : u.images = s.images)
include hio hblocks himages

/-- An image that fails a check is refused, and binds nothing (R72). -/
theorem load_imageBad {e : LoadErr} (h : u.imageBad x (bs.take (argNat c 8 4)) = some e) (hr : e.reason < 2 ^ 32) (hb : e.block < 2 ^ 32)
    (hx : e.index < 2 ^ 32) : Says s c (.load c) 5 fun t => t.blocks = s.blocks ∧ t.images = s.images ∧ res t c.port 0 4 = e.reason ∧
      res t c.port 4 4 = e.block ∧ res t c.port 8 4 = e.index := by
  have hex := exec_load_read hi hm hrun ho hva hmap hcode hread
  rw [loadChecked, h] at hex
  have hpost : u.post = (s.mboxStart 6 c).post := by rw [State.post, hio]; rfl
  obtain ⟨hend, h0, h4, h8⟩ := endLoad_refused e hi (by decide) hpost hr hb
  exact ⟨_, hex, hend, hblocks, himages, h0, h4, h8.trans (Nat.mod_eq_of_lt hx)⟩

/-- An image that passes every check, with a handle: the slot map is to lie in the window, and a slot is needed for each block. -/
theorem exec_load_checked {h n : Nat} (hok : u.imageBad x (bs.take (argNat c 8 4)) = none) (hpart : u.part = s.part) (hlt : h < 65536)
    (hleast : Least h fun m => s.images.find m = none ∧ ∀ e ∈ s.io.loads, e.2.handle ≠ m) (hn : Img.blocks (bs.take (argNat c 8 4)) = n) :
    exec (.load c) s = .next (if !s.inWindow c.port (argNat c 16 8) (2 * n) then u.endLoad c.port MCode.format []
      else if (s.freeSlots n).length < n then u.endLoad c.port MCode.noResource []
      else u.withIo { u.io with
        loads := u.io.loads.put c.port { cmd := c, image := some (bs.take (argNat c 8 4)), slots := s.freeSlots n, handle := h } }) := by
  have hloads : u.io.loads = s.io.loads := by rw [hio]; rfl
  have hslots : u.freeSlots n = s.freeSlots n := by rw [State.freeSlots, State.freeSlots, hloads, hblocks]
  have hwin : u.inWindow c.port (argNat c 16 8) (2 * n) = s.inWindow c.port (argNat c 16 8) (2 * n) := by
    rw [State.inWindow, State.inWindow, State.winSize, State.winSize, hpart]
  have hfree (m : Nat) : ((u.images.find m).isNone && !(u.io.loads.map fun e => e.2.handle).contains m) = true ↔
      s.images.find m = none ∧ ∀ e ∈ s.io.loads, e.2.handle ≠ m := by
    simp [himages, hloads]
  have hfind : ((List.range 65536).find? fun m => (u.images.find m).isNone && !(u.io.loads.map fun e => e.2.handle).contains m) = some h := by
    obtain ⟨hh, hmin⟩ := hleast
    rw [List.find?_range_eq_some]
    refine ⟨(hfree h).mpr hh, List.mem_range.mpr hlt, fun m hlt => ?_⟩
    rw [Bool.not_eq_true', Bool.eq_false_iff]
    exact fun hm => hmin m hlt ((hfree m).mp hm)
  rw [exec_load_read hi hm hrun ho hva hmap hcode hread, loadChecked, hok]
  dsimp only
  rw [hfind, hn]
  dsimp only
  rw [hwin, hslots]
  rfl

end

end

/-! ### Check 3 (R68, R72) -/

/-- The checks come in order: a failed header is the image's failure. -/
theorem imageBad_of_headBad (u : State) (x : Ctx) (b : List Byte) {e : Nat × Nat} (h : headBad b = some e) :
    u.imageBad x b = some { reason := 1, block := e.1, index := e.2 } := by
  simp only [State.imageBad, h, Option.map_some, Option.some_or]

theorem headBad_magic {b : List Byte} (h : leNat ((b.drop 0).take 4) ≠ 0x49473445) : headBad b = some (noPlace, 0) := by
  have hm : (imgNat b 0 4 == 0x49473445) = false := beq_eq_false_iff_ne.mpr h
  simp [headBad, firstBad, hm]

theorem headBad_crc {b : List Byte} (hlen : 64 ≤ b.length) (hm : leNat ((b.drop 0).take 4) = 0x49473445) (hv : leNat ((b.drop 4).take 2) = 1)
    (h : leNat ((b.drop 60).take 4) ≠ crc32c (b.take 60 ++ List.replicate 4 0 ++ b.drop 64)) : headBad b = some (noPlace, 60) := by
  have h0 : (imgNat b 0 4 == 0x49473445) = true := beq_iff_eq.mpr hm
  have h4 : (imgNat b 4 2 == 1) = true := beq_iff_eq.mpr hv
  have hc : (imgNat b 0x3C 4 == crc32c (b.take 0x3C ++ List.replicate 4 0 ++ b.drop 0x40)) = false := beq_eq_false_iff_ne.mpr h
  simp only [headBad, firstBad, h0, h4, hc, decide_eq_true hlen]
  rfl

end Sys2Proof.Machine
end

section
/-! PROOF. The checks of LOAD (R28, R68 to R72, R259, R291 to R293). -/

open Sys2Proof Sys2Proof.Machine Sys2Proof.Claims

namespace Sys2Proof.Proofs

theorem loadChecks : LoadChecks := by
  intro c s x hi hm hrun
  refine fun ho hva hmap => ⟨fun off h => load_notCode hi hm hrun ho hva hmap h, fun u v bs hcode _ hread hio hblocks himages _ => ?_⟩
  intro b at_
  have refused {e : LoadErr} (h : u.imageBad x b = some e) := load_imageBad hi hm hrun ho hva hmap hcode hread hio hblocks himages h
  refine ⟨fun _ hmagic => ?_, fun hlen hmagic hver hcrc => ?_, fun e h hr hb hx => refused h hr hb hx, fun h hok hpart hlt hleast => ?_⟩
  · exact refused (imageBad_of_headBad u x b (headBad_magic hmagic)) (by decide) (by decide) (by decide)
  · obtain ⟨t, hex, hend, hb, -, h0, -, h8⟩ := refused (imageBad_of_headBad u x b (headBad_crc hlen hmagic hver hcrc)) (by decide) (by decide) (by decide)
    exact ⟨t, hex, hend, hb, h0, h8⟩
  · intro n slots
    have hpost : u.post = (s.mboxStart 6 c).post := by rw [State.post, hio]; rfl
    have hex := exec_load_checked hi hm hrun ho hva hmap hcode hread hio hblocks himages hok hpart hlt hleast (n := n) rfl
    refine ⟨fun hout => ?_, fun hin hfew => ?_, fun hin hall => ?_⟩
    · rw [if_pos (by simpa [State.inWindow, Inside, imp_iff_not_or] using hout)] at hex
      exact ⟨_, hex, ended_endLoad _ hi (by decide) (by decide) hpost, hblocks, himages⟩
    all_goals
      have hwin : s.inWindow c.port (argNat c 16 8) (2 * n) = true := by simpa [State.inWindow, Inside] using hin
      rw [if_neg (by rw [hwin]; decide)] at hex
    · rw [if_pos hfew] at hex
      exact ⟨_, hex, ended_endLoad _ hi (by decide) (by decide) hpost, hblocks, himages⟩
    · rw [if_neg (by rw [hall]; exact Nat.lt_irrefl n)] at hex
      obtain ⟨hbox, hmsix⟩ := State.mbox_of_post hpost
      refine ⟨_, hex, ?_, ?_, hmsix, hblocks, himages, Tbl.find_put_same _ _ _⟩
      · show (u.mbox c.port).status.getLsbD 15 = true
        rw [State.mbox, hbox]
        exact (mbox_mboxStart 6 hi).2
      · show (u.mbox c.port).cmd / 65536 = _
        rw [State.mbox, hbox]
        exact tag_mboxStart 6 hi (by decide)

end Sys2Proof.Proofs
end

section
/-! SUPPORT. Binding an image (R28, R69 to R72, R311): the slots, the image and the slot map. -/

open Sys2Proof.Claims

namespace Sys2Proof

namespace Tbl

section
variable {α β : Type} (key : β → Nat) (val : β → α)

/-- Puts at other keys are not seen. -/
theorem find_foldl_put_other (l : List β) (t : Tbl α) (k : Nat) (h : ∀ a ∈ l, key a ≠ k) :
    (l.foldl (fun u a => u.put (key a) (val a)) t).find k = t.find k := by
  induction l generalizing t with
  | nil => rfl
  | cons a l ih =>
    obtain ⟨ha, hl⟩ := List.forall_mem_cons.mp h
    rw [List.foldl_cons, ih _ hl, find_put_other _ _ _ _ (Ne.symm ha)]

/-- Read after puts that agree on the key. -/
theorem find_foldl_put (l : List β) (t : Tbl α) (k : Nat) (v : α) (hk : ∃ a ∈ l, key a = k) (h : ∀ a ∈ l, key a = k → val a = v) :
    (l.foldl (fun u a => u.put (key a) (val a)) t).find k = some v := by
  induction l generalizing t with
  | nil =>
    obtain ⟨a, ha, -⟩ := hk
    cases ha
  | cons a l ih =>
    obtain ⟨hv, hl⟩ := List.forall_mem_cons.mp h
    rw [List.foldl_cons]
    by_cases hlater : ∃ b ∈ l, key b = k
    · exact ih _ hlater hl
    · have hne : ∀ b ∈ l, key b ≠ k := fun b hb hbk => hlater ⟨b, hb, hbk⟩
      have hak : key a = k := by
        obtain ⟨b, hb, hbk⟩ := hk
        rcases List.mem_cons.mp hb with rfl | hb
        · exact hbk
        · exact absurd hbk (hne b hb)
      rw [find_foldl_put_other key val l _ k hne, hak, find_put_same, hv hak]

end

/-- Read after a removal of keys. -/
theorem find_filter {α : Type} (p : Nat → Bool) (t : Tbl α) (k : Nat) :
    find k (t.filter fun e => p e.1) = if p k then t.find k else none := by
  induction t with
  | nil => simp
  | cons e t ih =>
    obtain ⟨i, x⟩ := e
    by_cases hik : i = k
    · subst hik
      cases hp : p i <;> simp [find, hp, ih]
    · cases hp : p i <;> simp [find, hp, hik, ih]

end Tbl

namespace Machine

/-! ### The block of an image (R69) -/

theorem imgBlock_attrs (b : List Byte) (k : Nat) :
    (imgBlock b k).ports = imgNat b (70 + 32 * k) 1 ∧ (imgBlock b k).frame = imgNat b (72 + 32 * k) 2 ∧ (imgBlock b k).priv = imgNat b (74 + 32 * k) 2 ∧
      (imgBlock b k).tiles = imgNat b (76 + 32 * k) 1 ∧ (imgBlock b k).leash = imgNat b (78 + 32 * k) 2 ∧
      (imgBlock b k).code.length = imgNat b (68 + 32 * k) 2 := by
  have hoff (d : Nat) : 0x40 + 32 * k + d = 64 + d + 32 * k := by omega
  simp [imgBlock, hoff]

/-- The rewriting of block fields keeps the number of words (R71). -/
theorem ImgBlock.length_bound (k : ImgBlock) (slots : List Nat) : (k.bound slots).length = k.code.length := by
  unfold ImgBlock.bound
  generalize k.instrs = l, k.code = c
  induction l generalizing c with
  | nil => rfl
  | cons e l ih =>
    rw [List.foldl_cons, ih]
    split
    · exact List.length_set
    · rfl

/-! ### The state with the image bound (R71) -/

/-- The blocks of an image, with their numbers. -/
def imgBlocks (b : List Byte) : List (ImgBlock × Nat) := ((List.range (Img.blocks b)).map (imgBlock b)).zipIdx

theorem mem_imgBlocks (b : List Byte) (e : ImgBlock × Nat) : e ∈ imgBlocks b ↔ e.2 < Img.blocks b ∧ imgBlock b e.2 = e.1 := by
  obtain ⟨k, i⟩ := e
  rw [imgBlocks, List.mk_mem_zipIdx_iff_getElem?, List.getElem?_map]
  by_cases h : i < Img.blocks b <;> simp [h]

/-- A block as the loader binds it (R71). -/
def boundBlock (ctx : Nat) (b : List Byte) (slots : List Nat) (h : Nat) (e : ImgBlock × Nat) : Block :=
  let k := e.1
  { ctx, img := h, run := h, ports := k.ports, frame := k.frame, priv := k.priv, tiles := k.tiles,
    leash := if k.leash = 0 then 256 else k.leash, ordered := k.ordered, first := k.first, count := k.count, mask := k.mask,
    code := k.bound slots, closing := false,
    recipe := (if Img.pure b then recipeSet ((List.range (Img.blocks b)).map (imgBlock b)) else []).contains e.2 }

/-- The record of a loaded image (R68, R71). -/
def boundImage (ctx : Nat) (b : List Byte) (slots : List Nat) : Image :=
  { ctx, pure := Img.pure b, slots, widths := Img.widths b, consts := (b.drop (Img.constOff b)).take (Img.constLen b), launches := imgLaunches b,
    crc := imgNat b 0x3C 4 }

section
variable (s : State) (ctx : Nat) (x : Ctx) (b : List Byte) (slots : List Nat) (h : Nat)

theorem State.bindImage_blocks : (s.bindImage ctx x b slots h).blocks =
    (imgBlocks b).foldl (fun t e => t.put (slots.getD e.2 0) (boundBlock ctx b slots h e)) s.blocks := by
  unfold State.bindImage
  rw [State.modCtx_blocks]
  exact foldl_keeps (fun t => t.blocks) _ (by intros; rfl) _ _

theorem State.bindImage_images : (s.bindImage ctx x b slots h).images = s.images.put h (boundImage ctx b slots) := by
  unfold State.bindImage
  rw [State.modCtx_images]
  exact foldl_keeps (fun t => t.images) _ (by intros; rfl) _ _

theorem State.bindImage_io : (s.bindImage ctx x b slots h).io = s.io := by
  unfold State.bindImage
  rw [State.modCtx_io]
  exact foldl_keeps (fun t => t.io) _ (by intros; rfl) _ _

variable (hlen : slots.length = Img.blocks b)
include hlen

/-- A slot that the image does not take keeps its block. -/
theorem State.bindImage_other {m : Nat} (hm : m ∉ slots) : (s.bindImage ctx x b slots h).blocks.find m = s.blocks.find m := by
  rw [State.bindImage_blocks]
  refine Tbl.find_foldl_put_other _ _ _ _ _ fun e he => ?_
  obtain ⟨hlt, -⟩ := (mem_imgBlocks b e).mp he
  rintro rfl
  rw [← hlen] at hlt
  rw [List.getD_eq_getElem _ _ hlt] at hm
  exact hm (List.getElem_mem hlt)

/-- Each block is bound to its slot. -/
theorem State.bindImage_slot (hnodup : slots.Nodup) {k : Nat} (hk : k < Img.blocks b) :
    (s.bindImage ctx x b slots h).blocks.find (slots.getD k 0) = some (boundBlock ctx b slots h (imgBlock b k, k)) := by
  rw [State.bindImage_blocks]
  refine Tbl.find_foldl_put _ _ _ _ _ _ ⟨(imgBlock b k, k), (mem_imgBlocks b _).mpr ⟨hk, rfl⟩, rfl⟩ fun e he heq => ?_
  obtain ⟨hlt, hblock⟩ := (mem_imgBlocks b e).mp he
  rw [← hlen] at hlt hk
  rw [List.getD_eq_getElem _ _ hlt, List.getD_eq_getElem _ _ hk, hnodup.getElem_inj_iff] at heq
  rw [← heq, hblock]

end

/-! ### The slot map (R293) -/

/-- The host's memory behind a port is read as it was written. -/
theorem State.hostRead_hostWrite (s : State) (port off i n : Nat) (bs : List Byte) (hp : port < 2) (h : i + n ≤ bs.length) :
    (s.hostWrite port off bs).hostRead port (off + i) n = (bs.drop i).take n := by
  obtain rfl | rfl : port = 0 ∨ port = 1 := by omega
  all_goals
    rw [← Sparse.getRun_setRun_within _ i n bs _ h]
    exact congrArg (fun k => Sparse.getRun _ k n) (Nat.add_assoc _ _ _).symm

@[simp] theorem State.hostWrite_io (s : State) (port off : Nat) (bs : List Byte) : (s.hostWrite port off bs).io = s.io := by
  unfold State.hostWrite; split <;> rfl

@[simp] theorem State.hostWrite_blocks (s : State) (port off : Nat) (bs : List Byte) : (s.hostWrite port off bs).blocks = s.blocks := by
  unfold State.hostWrite; split <;> rfl

@[simp] theorem State.hostWrite_images (s : State) (port off : Nat) (bs : List Byte) : (s.hostWrite port off bs).images = s.images := by
  unfold State.hostWrite; split <;> rfl

/-- The k-th number of a slot map. -/
theorem slotMap_get (slots : List Nat) (hslots : ∀ k ∈ slots, k < 65535) {k : Nat} (hk : k < slots.length) :
    leNat (((slots.flatMap fun j => leBytes 2 j).drop (2 * k)).take 2) = slots.getD k 0 := by
  have hblock := take_drop_flatMap 2 (fun j => leBytes 2 j) (fun j => length_leBytes 2 j) slots [] k hk
  rw [List.append_nil] at hblock
  have hlt := hslots _ (List.getElem_mem hk)
  rw [hblock, leNat_leBytes, List.getD_eq_getElem _ _ hk]
  omega

/-! ### The loader's move on a checked image (R72) -/

section
variable {s u : State} {port : Nat} {j : LoadJob} {x : Ctx} {b : List Byte} (hp : port < 2) (hl : s.io.mbox.length = 2)
  (hj : s.io.loads.find port = some j) (hport : j.cmd.port = port) (hx : s.ctx j.cmd.ctx = some x) (hb : j.image = some b)
include hj hx hb

theorem loaderMove_checked : s.loaderMove port = loadBind s j x b := by
  rw [State.loaderMove, hj]
  dsimp only
  rw [hx]
  dsimp only
  rw [hb]

include hp hl hport

/-- A page that changed since the check (R72). -/
theorem loader_refuses {off : Nat} (hw : s.writeDatas x (imgDatas b) = (u, some off)) (hio : u.io = s.io) (hoff : off < 2 ^ 32) :
    ∃ t, State.move s (.loader port) = .next t ∧ Ended s port ((s.mbox port).cmd / 65536) 5 t ∧ t.mem = u.mem ∧ t.blocks = u.blocks ∧
      t.images = u.images ∧ res t port 0 4 = 10 ∧ res t port 4 4 = 0xFFFFFFFF ∧ res t port 8 4 = off := by
  have hmove : State.move s (.loader port) = .next (u.endLoad port MCode.refused (loadErr ⟨10, noPlace, off⟩)) := by
    rw [State.move, loaderMove_checked hj hx hb, loadBind, hw, hport]
  have hlen : port < u.io.mbox.length := by rw [hio, hl]; exact hp
  have hpost : u.post = s.post := by rw [State.post, hio]; rfl
  obtain ⟨h0, h4, h8⟩ := res_loadErr ({ u with io := { u.io with loads := u.io.loads.del port } } : State) port 5 ⟨10, noPlace, off⟩ hlen
    (show 10 < 2 ^ 32 by decide) (show noPlace < 2 ^ 32 by decide)
  refine ⟨_, hmove, ?_, rfl, rfl, rfl, h0, h4, h8.trans (Nat.mod_eq_of_lt hoff)⟩
  exact ended_results (u := { u with io := { u.io with loads := u.io.loads.del port } }) _ hlen (ended_later hp hl (by decide) hpost)

/-- The state in which a checked image is bound, with its slot map, before the command ends (R72, R293). -/
def State.withImage (u : State) (j : LoadJob) (x : Ctx) (b : List Byte) : State :=
  (u.bindImage j.cmd.ctx x b j.slots j.handle).hostWrite j.cmd.port (argNat j.cmd 16 8) (j.slots.flatMap fun k => leBytes 2 k)

omit hj hx hb hp hl hport in
theorem State.withImage_io : (u.withImage j x b).io = u.io := (State.hostWrite_io _ _ _ _).trans (State.bindImage_io _ _ _ _ _ _)

/-- The state at the end of a LOAD whose sections are written (R72). -/
theorem loader_binds (hw : s.writeDatas x (imgDatas b) = (u, none)) (hio : u.io = s.io) (hh : j.handle < 65536) :
    ∃ t, State.move s (.loader port) = .next t ∧ Ended s port ((s.mbox port).cmd / 65536) 0 t ∧ res t port 0 4 = j.handle ∧
      res t port 4 4 = Img.blocks b ∧ t.io.loads = s.io.loads.del port ∧ t.mem = (u.withImage j x b).mem ∧ t.part = (u.withImage j x b).part ∧
      t.blocks = (u.withImage j x b).blocks ∧ t.images = (u.withImage j x b).images := by
  have hmove : State.move s (.loader port) =
      .next ((u.withImage j x b).endLoad port MCode.done (leBytes 4 j.handle ++ leBytes 4 (Img.blocks b))) := by
    rw [State.move, loaderMove_checked hj hx hb, loadBind, hw, ← hport]
    rfl
  have hio : (u.withImage j x b).io = s.io := State.withImage_io.trans hio
  have hlen : port < (u.withImage j x b).io.mbox.length := by rw [hio, hl]; exact hp
  have hpost : (u.withImage j x b).post = s.post := by rw [State.post, hio]; rfl
  have hblocks : Img.blocks b < 2 ^ 16 := by
    refine (leNat_lt _).trans_le (Nat.pow_le_pow_right (by decide) ?_ : _ ≤ 256 ^ 2)
    exact List.length_take_le _ _
  have hres (off : Nat) (h : off + 4 ≤ 8) := res_mboxEnd
    ({ u.withImage j x b with io := { (u.withImage j x b).io with loads := (u.withImage j x b).io.loads.del port } } : State) port 0 off 4
    (leBytes 4 j.handle ++ leBytes 4 (Img.blocks b)) hlen (by simpa using h)
  refine ⟨_, hmove, ?_, (hres 0 (by decide)).trans ?_, (hres 4 (by decide)).trans ?_, ?_, rfl, rfl, rfl, rfl⟩
  · exact ended_results (u := { u.withImage j x b with io := { (u.withImage j x b).io with loads := (u.withImage j x b).io.loads.del port } }) _ hlen
      (ended_later hp hl (by decide) hpost)
  · rw [pktNat_append_left _ _ _ (length_leBytes 4 _), leNat_leBytes]
    omega
  · rw [pktNat_append_right _ _ _ _ (length_leBytes 4 _).le, length_leBytes, Nat.sub_self, pktNat_self _ _ (length_leBytes 4 _), leNat_leBytes]
    omega
  · show (u.withImage j x b).io.loads.del port = _
    rw [hio]

end

end Machine
end Sys2Proof
end

section
/-! SUPPORT. UNLOAD (R234, R293, R348): what keeps an image bound, and what unbinding it leaves. -/

open Sys2Proof.Claims

namespace Sys2Proof.Machine

/-- A slot is live with an entry in a matching store or a pack of it (R234). -/
theorem State.slotLive_iff (s : State) (k : Nat) :
    s.slotLive k = true ↔ ∃ e ∈ s.cores, (∃ y ∈ e.2.entries, y.slot = k) ∨ ∃ q ∈ e.2.packs, q.2.id.slot = k := by
  simp [State.slotLive]

section
variable (s : State) (ctx h : Nat) (i : Image)

theorem State.unloadImage_blocks : (s.unloadImage ctx h i).blocks = s.blocks.filter fun e => !i.slots.contains e.1 := by
  unfold State.unloadImage
  dsimp only
  split <;> rfl

theorem State.unloadImage_io : (s.unloadImage ctx h i).io = s.io := by
  unfold State.unloadImage
  dsimp only
  split <;> rfl

/-- The image goes where no other slot runs its code (R281). -/
theorem State.unloadImage_images (hrun : ∀ e ∈ s.blocks, e.2.run = h → e.1 ∈ i.slots) : (s.unloadImage ctx h i).images.find h = none := by
  have hused : ((s.blocks.filter fun e => !i.slots.contains e.1).any fun e => e.2.run == h) = false := by
    rw [List.any_eq_false]
    intro e he heq
    obtain ⟨hmem, hnot⟩ := List.mem_filter.mp he
    simp [hrun e hmem (beq_iff_eq.mp heq)] at hnot
  unfold State.unloadImage
  dsimp only
  rw [if_neg (by rw [hused]; decide)]
  simp

end

section
variable {s : State} {c : Cmd} {x : Ctx} {i : Image} (hi : Idle s c) (hm : Mine s c x) (hrun : x.st = .running) (ho : Only c [(0, 4)])
  (himg : s.images.find (argNat c 0 4) = some i) (hctx : i.ctx = c.ctx)
include hi hm hrun ho himg hctx

/-- UNLOAD of an image of the context looks for a live slot first (R234), then for a record that names a slot (R348). -/
theorem exec_unload_live {j : Nat} (h : (i.slots.findIdx? fun k => s.slotLive k) = some j) : exec (.unload c) s =
    .next ((s.mboxStart 7 c).mboxEnd c.port MCode.refused (loadErr ⟨14, j, noPlace⟩)) := by
  have h : (i.slots.findIdx? fun k => (s.mboxStart 7 c).slotLive k) = some j := h
  have himg : (s.mboxStart 7 c).images.find (argNat c 0 4) = some i := himg
  show execUnload c s = _
  rw [execUnload, ctxCommand_of_mine s 7 c x _ _ hi hm ho]
  simp [himg, hctx, hrun, h, Option.filter]

theorem exec_unload_entered {j : Nat} (hlive : (i.slots.findIdx? fun k => s.slotLive k) = none)
    (h : (i.slots.findIdx? fun k => x.recipes.any fun e => e.2.entry == k) = some j) : exec (.unload c) s =
    .next ((s.mboxStart 7 c).mboxEnd c.port MCode.refused (loadErr ⟨13, j, noPlace⟩)) := by
  have hlive : (i.slots.findIdx? fun k => (s.mboxStart 7 c).slotLive k) = none := hlive
  have himg : (s.mboxStart 7 c).images.find (argNat c 0 4) = some i := himg
  show execUnload c s = _
  rw [execUnload, ctxCommand_of_mine s 7 c x _ _ hi hm ho]
  simp [himg, hctx, hrun, hlive, h, Option.filter]

theorem exec_unload_free (hlive : (i.slots.findIdx? fun k => s.slotLive k) = none)
    (h : (i.slots.findIdx? fun k => x.recipes.any fun e => e.2.entry == k) = none) : exec (.unload c) s =
    .next (((s.mboxStart 7 c).unloadImage c.ctx (argNat c 0 4) i).mboxEnd c.port MCode.done []) := by
  have hlive : (i.slots.findIdx? fun k => (s.mboxStart 7 c).slotLive k) = none := hlive
  have himg : (s.mboxStart 7 c).images.find (argNat c 0 4) = some i := himg
  show execUnload c s = _
  rw [execUnload, ctxCommand_of_mine s 7 c x _ _ hi hm ho]
  simp [himg, hctx, hrun, hlive, h, Option.filter]

end

/-- A refused UNLOAD names its reason and the place of the slot in the image (R293). -/
theorem unload_refused {s : State} {c : Cmd} {reason j : Nat} (hi : Idle s c)
    (hex : exec (.unload c) s = .next ((s.mboxStart 7 c).mboxEnd c.port MCode.refused (loadErr ⟨reason, j, noPlace⟩))) (hr : reason < 2 ^ 32)
    (hj : j < 2 ^ 32) : Says s c (.unload c) 5 fun t =>
      t.blocks = s.blocks ∧ t.images = s.images ∧ res t c.port 0 4 = reason ∧ res t c.port 4 4 = j := by
  have hlen := mbox_length_of_post (u := s.mboxStart 7 c) hi rfl
  obtain ⟨h0, h4, -⟩ := res_loadErr (s.mboxStart 7 c) c.port 5 ⟨reason, j, noPlace⟩ hlen hr hj
  exact ⟨_, hex, ended_results _ hlen (ended_of_post hi (by decide) (by decide) rfl), rfl, rfl, h0, h4⟩

/-- The first number of a list of which a condition holds. -/
theorem findIdx?_eq_some_of_first {l : List Nat} {p : Nat → Bool} {P : Nat → Prop} (hP : ∀ k, p k = true ↔ P k) {j k : Nat} (hk : l[j]? = some k)
    (h : P k) (hmin : ∀ m < j, ∀ k, l[m]? = some k → ¬P k) : l.findIdx? p = some j := by
  obtain ⟨hlt, hget⟩ := List.getElem?_eq_some_iff.mp hk
  rw [List.findIdx?_eq_some_iff_getElem]
  refine ⟨hlt, (hP _).mpr (hget ▸ h), fun m hm => ?_⟩
  exact fun hpm => hmin m hm _ (List.getElem?_eq_getElem _) ((hP _).mp hpm)

end Sys2Proof.Machine
end

section
/-! PROOF. The loader's moves and UNLOAD (R28, R68 to R72, R234, R240, R293, R348). -/

open Sys2Proof Sys2Proof.Machine Sys2Proof.Claims

namespace Sys2Proof.Proofs

/-- A loaded image: its record, its slots with their map, and what other slots keep. -/
theorem loader_image (u : State) (port : Nat) (j : LoadJob) (x : Ctx) (b : List Byte) (hp : port < 2) (hport : j.cmd.port = port)
    (hlen : j.slots.length = Img.blocks b) (hnodup : j.slots.Nodup) (hslots : ∀ k ∈ j.slots, k < 65535) {t : State}
    (hmem : t.mem = (u.withImage j x b).mem) (hpart : t.part = (u.withImage j x b).part) (hblocks : t.blocks = (u.withImage j x b).blocks)
    (himages : t.images = (u.withImage j x b).images) :
    t.images.find j.handle = some (boundImage j.cmd.ctx b j.slots) ∧
    (∀ k < Img.blocks b, leNat (t.hostRead port (argNat j.cmd 16 8 + 2 * k) 2) = j.slots.getD k 0 ∧
      t.blocks.find (j.slots.getD k 0) = some (boundBlock j.cmd.ctx b j.slots j.handle (imgBlock b k, k))) ∧
    ∀ m, m ∉ j.slots → t.blocks.find m = u.blocks.find m := by
  have hbound : t.blocks = (u.bindImage j.cmd.ctx x b j.slots j.handle).blocks := hblocks.trans (State.hostWrite_blocks _ _ _ _)
  refine ⟨?_, fun k hk => ⟨?_, ?_⟩, fun m hm => ?_⟩
  · rw [himages, State.withImage, State.hostWrite_images, State.bindImage_images, Tbl.find_put_same]
  · have hread : t.hostRead port (argNat j.cmd 16 8 + 2 * k) 2 = (u.withImage j x b).hostRead port (argNat j.cmd 16 8 + 2 * k) 2 := by
      rw [State.hostRead, State.hostRead, State.hostBus, State.hostBus, hmem, hpart]
    rw [hread, State.withImage, hport, State.hostRead_hostWrite _ _ _ _ _ _ hp, slotMap_get _ hslots (by omega)]
    rw [length_flatMap_blocks 2 _ (fun _ => length_leBytes 2 _)]
    omega
  · rw [hbound, State.bindImage_slot _ _ _ _ _ _ hlen hnodup hk]
  · rw [hbound, State.bindImage_other _ _ _ _ _ _ hlen hm]

theorem loadAndUnloadCommands : LoadAndUnloadCommands := by
  refine ⟨fun s port j x b hp hl hj hport hx hb => ?_, fun c s x hi hm hrun i ho himg hctx => ?_⟩
  · intro at_ map n tag
    refine ⟨fun u off hw hio hoff => loader_refuses hp hl hj hport hx hb hw hio hoff, fun u hw hio _ hlen hnodup hslots _ hh => ?_⟩
    obtain ⟨t, hmove, hend, h0, h4, hloads, hmem, hpart, hblocks, himages⟩ := loader_binds hp hl hj hport hx hb hw hio hh
    have hwidths : (Img.widths b).length = 6 := by rw [Img.widths, List.length_map, List.length_range]
    obtain ⟨himg, hslot, hother⟩ := loader_image u port j x b hp hport hlen hnodup hslots hmem hpart hblocks himages
    refine ⟨t, hmove, hend, h0, h4, hloads, ⟨_, himg, rfl, rfl, hwidths, rfl, rfl⟩, fun k hk => ?_, hother⟩
    obtain ⟨hread, hfind⟩ := hslot k hk
    obtain ⟨hports, hframe, hpriv, htiles, hleash, hcode⟩ := imgBlock_attrs b k
    refine ⟨hread, _, hfind, rfl, rfl, rfl, hports, hframe, hpriv, htiles, ?_, (ImgBlock.length_bound _ _).trans hcode⟩
    show (if (imgBlock b k).leash = 0 then 256 else (imgBlock b k).leash) = _
    rw [hleash]
    rfl
  · intro live entered
    have hlive (k : Nat) : s.slotLive k = true ↔ live k := s.slotLive_iff k
    have hentered (k : Nat) : (x.recipes.any fun e => e.2.entry == k) = true ↔ entered k := by simp [entered]
    have hnone (h : ∀ m ∈ i.slots, ¬live m) : (i.slots.findIdx? fun k => s.slotLive k) = none :=
      List.findIdx?_eq_none_iff.mpr fun k hk => Bool.eq_false_iff.mpr fun hl => h k hk ((hlive k).mp hl)
    refine ⟨fun hfree => ?_, fun j k hk h hmin hj => ?_, fun j k hk hno h hmin hj => ?_⟩
    · have hrec : (i.slots.findIdx? fun k => x.recipes.any fun e => e.2.entry == k) = none :=
        List.findIdx?_eq_none_iff.mpr fun k hk => Bool.eq_false_iff.mpr fun he => (hfree k hk).2 ((hentered k).mp he)
      refine ⟨_, exec_unload_free hi hm hrun ho himg hctx (hnone fun m hm => (hfree m hm).1) hrec, ?_, State.unloadImage_mem _ _ _ _, fun k hk => ?_,
        fun k hk => ?_, fun h => State.unloadImage_images (s.mboxStart 7 c) c.ctx _ i h⟩
      · exact ended_of_post (code := 7) hi (by decide) (by decide) (by rw [State.post, State.unloadImage_io]; rfl)
      all_goals
        show Tbl.find k ((s.mboxStart 7 c).unloadImage c.ctx (argNat c 0 4) i).blocks = _
        rw [State.unloadImage_blocks, Tbl.find_filter fun k => !i.slots.contains k]
      · simp [hk]
      · simp [hk]
        rfl
    · exact unload_refused hi (exec_unload_live hi hm hrun ho himg hctx (findIdx?_eq_some_of_first hlive hk h hmin)) (by decide) hj
    · exact unload_refused hi (exec_unload_entered hi hm hrun ho himg hctx (hnone hno) (findIdx?_eq_some_of_first hentered hk h hmin)) (by decide) hj

/-- Settles O58: LOAD by its checks, the loader by the slots that it binds, UNLOAD by what its scans of the slots find. -/
theorem loadAndUnload : Obligations.LoadAndUnload := by
  unfold Obligations.LoadAndUnload
  exact ⟨loadChecks, loadAndUnloadCommands⟩

end Sys2Proof.Proofs
end

section
/-! PROOF. CLOSE with a token waiting at I/O die 0 (R231, R300, R302): its close tokens are placed behind what waits there, and the waiting token may
leave for another node, which its launch counts (R352). -/

open Sys2Proof Sys2Proof.Machine Sys2Proof.Claims

namespace Sys2Proof.Proofs

/-- Launch 1 of nodes 0 and 9, coordinated here, running under colour 3. -/
def runningLaunch : Launch where
  coord := 0
  num := 1
  ctx := 0
  img := 0
  role := 1
  st := .running
  colour := 3
  n := 2
  field := 0
  nodes := [0, 9]
  index := 0
  since := 0
  ready := []
  answers := 0
  why := (0, 0)
  sent := []
  recv := []
  marks := []
  port := 0

/-- A token of the launch's colour that a host has written; its device index is node 9's (R300). -/
def hostTok : Tok where
  slot := 0
  port := 0
  tag := mkTag 0 3 1
  pay := []
  ctx := 0
  rel := none
  handler := false
  src := 2
  bearing := 0
  core := 192
  cov := []

/-- A node that coordinates the launch, with the token waiting at I/O die 0. -/
def closing : State :=
  let s := State.reset
  { s with ctxs := [(0, placedCtx)], images := [(0, placedImage)], blocks := [(0, { placedBlock [] with ordered := true })], launches := [runningLaunch],
           io := { s.io with mbox := [{ Mbox.reset with status := 0 }, { Mbox.reset with status := 0 }], node := 0, hwait := [hostTok] } }

/-- CLOSE of launch 1, of block 0. -/
def closeCmd : Cmd := { port := 0, tag := 0, ctx := 0, args := [(0, 1), (2, 1)] }

/-- What each launch has sent to each node, in the state of an outcome. -/
def sentAfter : Out → List (Tbl Nat)
  | .next t => t.launches.map Launch.sent
  | _ => []

theorem sentAfter_close : sentAfter (exec (.close closeCmd) closing) = [[(9, 1)]] := by decide

/-- Refutes O20: the token that waits at I/O die 0 leaves for node 9 as the close tokens are placed, so the launches are not those before. -/
theorem not_launchCommands : ¬ Obligations.LaunchCommands := by
  unfold Obligations.LaunchCommands
  rintro ⟨-, -, hclose, -⟩
  have hidle : Idle closing closeCmd := by unfold Idle; decide
  have hargs : Only closeCmd [(0, 3), (4, 32)] := by unfold Only; decide
  obtain ⟨hcommand, -⟩ := hclose closeCmd closing placedCtx runningLaunch hidle ⟨rfl, rfl⟩ (.inl rfl)
  obtain ⟨-, hruns⟩ := hcommand hargs (by decide)
  obtain ⟨-, hcloses⟩ := hruns placedImage rfl (by decide) rfl
  have hlist : (List.range (argNat closeCmd 2 1)).map (fun j => argNat closeCmd (4 + 2 * j) 2) = [0] := by decide
  have hordered : ∀ n ∈ (List.range (argNat closeCmd 2 1)).map (fun j => argNat closeCmd (4 + 2 * j) 2),
      ∃ slot b, placedImage.slots[n]? = some slot ∧ closing.block slot = some b ∧ b.ordered = true := by
    intro n hn
    rw [hlist, List.mem_singleton] at hn
    subst hn
    exact ⟨0, _, rfl, rfl, rfl⟩
  obtain ⟨t, hexec, -, -, -, hkept⟩ := hcloses hordered rfl (by decide)
  have hsent := sentAfter_close
  rw [hexec, sentAfter, hkept] at hsent
  exact absurd hsent (by decide)

end Sys2Proof.Proofs
end

section
/-! SUPPORT. The finite numbers of a format in the order of their magnitudes (R74), and rounding under every mode as the choice between two
neighbours in that order (R79, R80, R82). -/

open Sys2Proof.Claims

namespace Sys2Proof.Machine

/-! ### The magnitudes of a format -/

/-- What the order of a format's numbers rests on: it has a fraction, and exponents of normal numbers. -/
structure Fmt.Sound (f : Fmt) : Prop where
  fraction : 1 ≤ f.fb
  exponents : 2 ≤ f.eb

theorem Fmt.Sound.of_mem {f : Fmt} (h : f ∈ formats) : f.Sound := by
  simp only [formats, List.mem_cons, List.not_mem_nil, or_false] at h
  rcases h with rfl | rfl | rfl | rfl | rfl <;> exact ⟨by decide, by decide⟩

/-- The exponent of the last place of a zero or subnormal. -/
def Fmt.low (f : Fmt) : Int := 1 - f.bias - f.fb

/-- The first pattern without its sign bit that stands for no finite number (R74, R75). -/
def Fmt.limit (f : Fmt) : Nat := if f.ieee then (2 ^ f.eb - 1) * 2 ^ f.fb else 2 ^ (f.eb + f.fb) - 1

/-- How far the last place of a pattern lies above that of the subnormals. -/
def Fmt.rise (f : Fmt) (P : Nat) : Nat := P / 2 ^ f.fb - 1

/-- The significand of a pattern, with its leading bit where it is normal. -/
def Fmt.mant (f : Fmt) (P : Nat) : Nat := P - f.rise P * 2 ^ f.fb

/-- The magnitude of a pattern, as if exponents had no bound. -/
noncomputable def Fmt.mag (f : Fmt) (P : Nat) : ℚ := f.mant P * 2 ^ (f.low + f.rise P)

/-- A significand at a last place, from its pattern: a full one, or any in the lowest binades. -/
theorem Fmt.rise_mant (f : Fmt) (g R : Nat) (hg : g = 0 ∨ 2 ^ f.fb ≤ R) (hR : R < 2 ^ (f.fb + 1)) :
    f.rise (g * 2 ^ f.fb + R) = g ∧ f.mant (g * 2 ^ f.fb + R) = R := by
  have hB : 0 < 2 ^ f.fb := Nat.two_pow_pos _
  have hrise : f.rise (g * 2 ^ f.fb + R) = g := by
    rw [Nat.pow_succ] at hR
    unfold Fmt.rise
    rw [Nat.mul_comm, Nat.mul_add_div hB]
    rcases hg with rfl | hg
    · have : R / 2 ^ f.fb < 2 := Nat.div_lt_of_lt_mul hR
      omega
    · rw [Nat.div_eq_of_lt_le (k := 1) (by omega) (by omega), Nat.add_sub_cancel]
  exact ⟨hrise, by rw [Fmt.mant, hrise, Nat.add_sub_cancel_left]⟩

/-- Every pattern is a significand at a last place. -/
theorem Fmt.pattern_eq (f : Fmt) (P : Nat) : P = f.rise P * 2 ^ f.fb + f.mant P ∧ (f.rise P = 0 ∨ 2 ^ f.fb ≤ f.mant P) ∧
    f.mant P < 2 ^ (f.fb + 1) := by
  have hdiv := Nat.div_add_mod' P (2 ^ f.fb)
  have hmod := Nat.mod_lt P (Nat.two_pow_pos f.fb)
  rw [Nat.pow_succ]
  unfold Fmt.mant Fmt.rise
  generalize P / 2 ^ f.fb = d at *
  cases d with
  | zero => omega
  | succ d =>
    rw [Nat.add_mul, Nat.one_mul] at hdiv
    rw [Nat.add_sub_cancel]
    omega

theorem two_zpow_pos (e : Int) : (0 : ℚ) < 2 ^ e := zpow_pos (by norm_num) e

theorem two_zpow_le {a b : Int} (h : a ≤ b) : (2 : ℚ) ^ a ≤ 2 ^ b := zpow_le_zpow_right₀ (by norm_num) h

theorem two_zpow_add (e : Int) (k : Nat) : (2 : ℚ) ^ (e + k) = 2 ^ k * 2 ^ e := by
  rw [add_comm, zpow_add₀ (by norm_num), zpow_natCast]

/-- The magnitude of a significand at a last place, a carry out of the significand included. -/
theorem Fmt.mag_eq (f : Fmt) (g R : Nat) (hg : g = 0 ∨ 2 ^ f.fb ≤ R) (hR : R ≤ 2 ^ (f.fb + 1)) :
    f.mag (g * 2 ^ f.fb + R) = R * 2 ^ (f.low + g) := by
  rcases Nat.lt_or_eq_of_le hR with hlt | rfl
  · obtain ⟨hrise, hmant⟩ := f.rise_mant g R hg hlt
    rw [Fmt.mag, hrise, hmant]
  · have hpow : 2 ^ (f.fb + 1) = 2 * 2 ^ f.fb := Nat.pow_succ'
    have hpat : g * 2 ^ f.fb + 2 ^ (f.fb + 1) = (g + 1) * 2 ^ f.fb + 2 ^ f.fb := by rw [hpow]; ring
    obtain ⟨hrise, hmant⟩ := f.rise_mant (g + 1) (2 ^ f.fb) (.inr le_rfl) (by have := Nat.two_pow_pos f.fb; omega)
    rw [hpat, Fmt.mag, hrise, hmant, hpow, two_zpow_add, two_zpow_add]
    push_cast
    ring

/-- The next pattern stands one last place above. -/
theorem Fmt.mag_succ (f : Fmt) (P : Nat) : f.mag (P + 1) = f.mag P + 2 ^ (f.low + f.rise P) := by
  obtain ⟨hP, hg, hR⟩ := f.pattern_eq P
  have hnext := f.mag_eq (f.rise P) (f.mant P + 1) (hg.imp_right Nat.le_succ_of_le) hR
  rw [← Nat.add_assoc, ← hP] at hnext
  rw [hnext, Fmt.mag]
  push_cast
  ring

theorem Fmt.mag_strictMono (f : Fmt) : StrictMono f.mag :=
  strictMono_nat_of_lt_succ fun P => by rw [f.mag_succ]; linarith [two_zpow_pos (f.low + f.rise P)]

theorem Fmt.mag_zero (f : Fmt) : f.mag 0 = 0 := by simp [Fmt.mag, Fmt.mant]

theorem Fmt.mag_nonneg (f : Fmt) (P : Nat) : 0 ≤ f.mag P := by
  rw [← f.mag_zero]
  exact f.mag_strictMono.monotone (Nat.zero_le P)

/-- Every whole number of at most a significand's bits, at a last place from the lowest on, is the magnitude of a pattern. -/
theorem Fmt.exists_mag (f : Fmt) (j : Nat) (hj : j ≤ 2 ^ (f.fb + 1)) (g : Nat) : ∃ P, f.mag P = j * 2 ^ (f.low + g) := by
  induction g generalizing j with
  | zero => exact ⟨_, f.mag_eq 0 j (.inl rfl) hj⟩
  | succ g ih =>
    rcases Nat.lt_or_ge j (2 ^ f.fb) with hlt | hge
    · have hdouble : 2 * j ≤ 2 ^ (f.fb + 1) := by rw [Nat.pow_succ]; omega
      obtain ⟨P, hP⟩ := ih (2 * j) hdouble
      refine ⟨P, hP.trans ?_⟩
      rw [two_zpow_add, two_zpow_add, pow_succ]
      push_cast
      ring
    · exact ⟨_, f.mag_eq (g + 1) j (.inr hge) hj⟩

/-! ### Patterns and values -/

theorem Fmt.limit_lt (f : Fmt) : f.limit < 2 ^ (f.eb + f.fb) := by
  have hB : 0 < 2 ^ f.fb := Nat.two_pow_pos _
  have hT : 0 < 2 ^ f.eb := Nat.two_pow_pos _
  unfold Fmt.limit
  rw [Nat.pow_add]
  split
  · exact Nat.mul_lt_mul_of_pos_right (Nat.sub_lt hT Nat.one_pos) hB
  · exact Nat.sub_lt (Nat.mul_pos hT hB) Nat.one_pos

/-- Every subnormal is finite. -/
theorem Fmt.Sound.subnormal_lt_limit {f : Fmt} (hf : f.Sound) : 2 ^ f.fb < f.limit := by
  obtain ⟨hfb, heb⟩ := hf
  have h4 : 2 ^ 2 ≤ 2 ^ f.eb := Nat.pow_le_pow_right (by decide) heb
  have h2 : 2 ^ 1 ≤ 2 ^ f.fb := Nat.pow_le_pow_right (by decide) hfb
  have hthree : 3 * 2 ^ f.fb ≤ (2 ^ f.eb - 1) * 2 ^ f.fb := Nat.mul_le_mul_right _ (by omega)
  have hfour : 4 * 2 ^ f.fb ≤ 2 ^ f.eb * 2 ^ f.fb := Nat.mul_le_mul_right _ h4
  unfold Fmt.limit
  rw [Nat.pow_add]
  split <;> omega

theorem mul_le_mul_add_iff {a b c r : Nat} (hr : r < c) : a * c ≤ b * c + r ↔ a ≤ b := by
  rw [← Nat.le_div_iff_mul_le (by omega), Nat.mul_comm, Nat.mul_add_div (by omega), Nat.div_eq_of_lt hr, Nat.add_zero]

/-- A pattern is past the finite ones by its exponent, and in a format without infinities by the last fraction of the last one (R74, R75). -/
theorem Fmt.limit_le_iff (f : Fmt) (E F : Nat) (hF : F < 2 ^ f.fb) : f.limit ≤ E * 2 ^ f.fb + F ↔
    if f.ieee = true then 2 ^ f.eb - 1 ≤ E else 2 ^ f.eb ≤ E ∨ E + 1 = 2 ^ f.eb ∧ F + 1 = 2 ^ f.fb := by
  have hT : 0 < 2 ^ f.eb := Nat.two_pow_pos _
  unfold Fmt.limit
  rw [Nat.pow_add]
  cases f.ieee
  · simp only [Bool.false_eq_true, if_false]
    rw [Nat.sub_le_iff_le_add]
    by_cases hlast : F + 1 = 2 ^ f.fb
    · have hnext : E * 2 ^ f.fb + F + 1 = (E + 1) * 2 ^ f.fb := by rw [Nat.add_mul]; omega
      rw [hnext, Nat.mul_le_mul_right_iff (Nat.two_pow_pos _)]
      omega
    · rw [Nat.add_assoc, mul_le_mul_add_iff (by omega)]
      omega
  · simp only [if_true]
    exact mul_le_mul_add_iff hF

/-- What a pattern stands for, by its sign bit and the rest of it (R74, R75, R80). -/
theorem Fmt.val_eq (f : Fmt) (hf : f.Sound) (ftz : Bool) (x : Nat) : f.val ftz x =
    if x % 2 ^ (f.eb + f.fb) < f.limit then
      .fin (x.testBit (f.eb + f.fb)) (if ftz = true ∧ x % 2 ^ (f.eb + f.fb) < 2 ^ f.fb then 0 else f.mant (x % 2 ^ (f.eb + f.fb)))
        (f.low + f.rise (x % 2 ^ (f.eb + f.fb)))
    else if f.ieee = true ∧ x % 2 ^ (f.eb + f.fb) = f.limit then .inf (x.testBit (f.eb + f.fb))
    else .nan (f.ieee && !(x.testBit (f.fb - 1))) := by
  have hB : 0 < 2 ^ f.fb := Nat.two_pow_pos _
  have hT : 2 ^ 2 ≤ 2 ^ f.eb := Nat.pow_le_pow_right (by decide) hf.exponents
  have hP : x % 2 ^ (f.eb + f.fb) = x / 2 ^ f.fb % 2 ^ f.eb * 2 ^ f.fb + x % 2 ^ f.fb := by
    rw [Nat.add_comm, Nat.mul_comm, Nat.pow_add, Nat.mod_mul]
    omega
  have hF := Nat.mod_lt x hB
  have hE := Nat.mod_lt (x / 2 ^ f.fb) (Nat.two_pow_pos f.eb)
  have hbit : (x % 2 ^ f.fb).testBit (f.fb - 1) = x.testBit (f.fb - 1) := by
    rw [Nat.testBit_mod_two_pow, decide_eq_true (by have := hf.fraction; omega), Bool.true_and]
  have hlimit := f.limit_le_iff (x / 2 ^ f.fb % 2 ^ f.eb) (x % 2 ^ f.fb) hF
  have hinf : f.ieee = true → f.limit = (2 ^ f.eb - 1) * 2 ^ f.fb := fun h => if_pos h
  have hdiv : (x / 2 ^ f.fb % 2 ^ f.eb * 2 ^ f.fb + x % 2 ^ f.fb) / 2 ^ f.fb = x / 2 ^ f.fb % 2 ^ f.eb := by
    rw [Nat.mul_comm, Nat.mul_add_div hB, Nat.div_eq_of_lt hF, Nat.add_zero]
  unfold Fmt.val
  dsimp only
  rw [hP, hbit]
  unfold Fmt.mant Fmt.rise Fmt.low
  rw [hdiv]
  generalize x / 2 ^ f.fb % 2 ^ f.eb = E at *
  generalize x % 2 ^ f.fb = F at *
  by_cases hfin : f.limit ≤ E * 2 ^ f.fb + F
  · rw [if_neg (Nat.not_lt.mpr hfin)]
    rw [hlimit] at hfin
    cases hi : f.ieee
    · simp only [hi, Bool.false_eq_true, if_false] at hfin
      have hlast : F = 2 ^ f.fb - 1 := by omega
      have htop : E = 2 ^ f.eb - 1 := by omega
      simp [hlast, htop]
    · simp only [hi, if_true] at hfin
      have htop : E = 2 ^ f.eb - 1 := by omega
      simp [htop, hinf hi]
  · rw [if_pos (Nat.not_le.mp hfin)]
    rw [hlimit] at hfin
    have hieee : ¬(f.ieee && E == 2 ^ f.eb - 1) = true := by
      cases hi : f.ieee <;> simp [hi] at hfin ⊢
      omega
    have hother : ¬(!f.ieee && E == 2 ^ f.eb - 1 && F == 2 ^ f.fb - 1) = true := by
      cases hi : f.ieee <;> simp [hi] at hfin ⊢
      omega
    rw [if_neg hieee, if_neg hother]
    cases E with
    | zero => simp [hF]
    | succ E =>
      have hnormal : ¬(E + 1) * 2 ^ f.fb + F < 2 ^ f.fb := by rw [Nat.succ_mul]; omega
      have hmant : (E + 1) * 2 ^ f.fb + F - (E + 1 - 1) * 2 ^ f.fb = 2 ^ f.fb + F := by rw [Nat.add_sub_cancel, Nat.succ_mul]; omega
      rw [if_neg (Nat.succ_ne_zero E), if_neg (fun h => hnormal h.2), hmant]
      congr 1
      push_cast
      omega

theorem Fmt.sign_testBit (f : Fmt) (neg : Bool) (P : Nat) (hP : P < 2 ^ (f.eb + f.fb)) :
    (f.sign neg + P) % 2 ^ (f.eb + f.fb) = P ∧ (f.sign neg + P).testBit (f.eb + f.fb) = neg ∧ f.sign neg + P < 2 ^ (f.eb + f.fb + 1) := by
  unfold Fmt.sign
  rw [Nat.pow_succ]
  cases neg
  · simp [Nat.mod_eq_of_lt hP, Nat.testBit_lt_two_pow hP]
    omega
  · simp [Nat.mod_eq_of_lt hP, Nat.testBit_two_pow_add_eq, Nat.testBit_lt_two_pow hP]
    omega

/-- The factor of a sign. -/
def signum (neg : Bool) : ℚ := if neg then -1 else 1

theorem signum_mul_self (neg : Bool) : signum neg * signum neg = 1 := by cases neg <;> norm_num [signum]

theorem signum_ne_zero (neg : Bool) : signum neg ≠ 0 := by cases neg <;> norm_num [signum]

theorem num_eq (neg : Bool) (m : Nat) (e : Int) : num neg m e = signum neg * (m * 2 ^ e) := by
  rw [num, signum, mul_assoc]

/-- The number of a pattern is its magnitude with its sign. -/
theorem Fmt.num_pattern (f : Fmt) (neg : Bool) (P : Nat) : num neg (f.mant P) (f.low + f.rise P) = signum neg * f.mag P := num_eq _ _ _

/-- A pattern below the limit, with a sign. -/
theorem Fmt.val_finite (f : Fmt) (hf : f.Sound) (neg : Bool) (P : Nat) (hP : P < f.limit) :
    f.val false (f.sign neg + P) = .fin neg (f.mant P) (f.low + f.rise P) := by
  obtain ⟨hmod, hbit, -⟩ := f.sign_testBit neg P (hP.trans f.limit_lt)
  rw [f.val_eq hf, hmod, hbit, if_pos hP, if_neg (by simp)]

/-- The numbers of a format are the magnitudes of its finite patterns, with either sign. -/
theorem Fmt.isNum_iff (f : Fmt) (hf : f.Sound) (b : Nat) (y : ℚ) : IsNum f b y ↔
    b % 2 ^ (f.eb + f.fb) < f.limit ∧ y = signum (b.testBit (f.eb + f.fb)) * f.mag (b % 2 ^ (f.eb + f.fb)) := by
  unfold IsNum
  rw [f.val_eq hf]
  constructor
  · rintro ⟨n, m, e, hval, rfl⟩
    split at hval
    next hlt =>
      rw [if_neg (by simp)] at hval
      cases hval
      exact ⟨hlt, f.num_pattern _ _⟩
    next => split at hval <;> cases hval
  · rintro ⟨hlt, rfl⟩
    rw [if_pos hlt, if_neg (by simp)]
    exact ⟨_, _, _, rfl, (f.num_pattern _ _).symm⟩

theorem Fmt.isNum_sign (f : Fmt) (hf : f.Sound) (neg : Bool) (P : Nat) (hP : P < f.limit) : IsNum f (f.sign neg + P) (signum neg * f.mag P) :=
  ⟨_, _, _, f.val_finite hf neg P hP, (f.num_pattern neg P).symm⟩

/-! ### What a rounding writes -/

/-- The exponent of the last place of a number rounded into a format. -/
def Fmt.last (f : Fmt) (m : Nat) (e : Int) : Int := Max.max (e + bitLen m - 1 - f.fb) f.low

/-- The multiple of the last place that a number is rounded to, and whether it is inexact (R79). -/
def Fmt.places (f : Fmt) (rm : RM) (neg : Bool) (m : Nat) (e : Int) (sticky : Bool) : Nat × Bool :=
  if f.last m e ≤ e then (m * 2 ^ (e - f.last m e).toNat, sticky) else roundMag rm neg m (f.last m e - e).toNat sticky

/-- The pattern of a multiple of the last place. -/
def Fmt.pattern (f : Fmt) (m : Nat) (e : Int) (R : Nat) : Nat := (f.last m e - f.low).toNat * 2 ^ f.fb + R

/-- What is written for a pattern: a flush of a subnormal, an overflow from the limit on, or the pattern (R79, R80, R82). -/
def Fmt.write (f : Fmt) (rm : RM) (ftz neg : Bool) (P cls : Nat) : FR :=
  if ftz = true ∧ 0 < P ∧ P < 2 ^ f.fb then { bits := f.sign neg, cls := 0x18 }
  else if f.limit ≤ P then { bits := f.overflow rm neg, cls := 0x14 }
  else { bits := f.sign neg + P, cls }

/-- A number is below the normal ones also where exponents have no bound, which decides on UF (R80). -/
def Fmt.tiny (f : Fmt) (rm : RM) (neg : Bool) (m : Nat) (e : Int) (sticky : Bool) : Bool :=
  let top := e + bitLen m - 1
  let free := if top - f.fb ≤ e then (m * 2 ^ (e - (top - f.fb)).toNat, sticky) else roundMag rm neg m (top - f.fb - e).toNat sticky
  top + 1 < 1 - f.bias || (top < 1 - f.bias && free.1 < 2 ^ (f.fb + 1))

/-- The classes of a rounding that neither overflows nor is flushed (R80). -/
def Fmt.roundCls (f : Fmt) (rm : RM) (neg : Bool) (m : Nat) (e : Int) (sticky : Bool) : Nat :=
  if (f.places rm neg m e sticky).2 then (if f.tiny rm neg m e sticky then Cls.uf else 0) ||| Cls.nx else 0

theorem Fmt.roundCls_cases (f : Fmt) (rm : RM) (neg : Bool) (m : Nat) (e : Int) (sticky : Bool) :
    ((f.places rm neg m e sticky).2 = false → f.roundCls rm neg m e sticky = 0) ∧
    ((f.places rm neg m e sticky).2 = true → f.roundCls rm neg m e sticky = 0x10 ∨ f.roundCls rm neg m e sticky = 0x18) := by
  unfold Fmt.roundCls
  cases (f.places rm neg m e sticky).2 <;> cases f.tiny rm neg m e sticky <;> simp [Cls.uf, Cls.nx]

/-- A rounding writes the pattern of the places that it rounds to (R79, R80, R82). -/
theorem Fmt.round_eq_write (f : Fmt) (hf : f.Sound) (rm : RM) (ftz neg : Bool) (m : Nat) (e : Int) (sticky : Bool) (hm : 0 < m)
    (hmax : (f.places rm neg m e sticky).1 ≤ 2 ^ (f.fb + 1)) (hmin : f.last m e = f.low ∨ 2 ^ f.fb ≤ (f.places rm neg m e sticky).1) :
    f.round rm ftz neg m e sticky =
      f.write rm ftz neg (f.pattern m e (f.places rm neg m e sticky).1) (f.roundCls rm neg m e sticky) := by
  have hlow : f.low ≤ f.last m e := le_max_right _ _
  obtain ⟨g, hg⟩ := Int.eq_ofNat_of_zero_le (Int.sub_nonneg.mpr hlow)
  have hB : 0 < 2 ^ f.fb := Nat.two_pow_pos _
  have hcarry : 2 ^ (f.fb + 1) = 2 * 2 ^ f.fb := Nat.pow_succ'
  unfold Fmt.round
  rw [if_neg (by simp [Nat.pos_iff_ne_zero.mp hm])]
  extract_lets top emin at_ free tiny q r sig ex big
  have hq : q = f.last m e := by
    simp only [q, Fmt.last, top, emin, Fmt.low]
    omega
  have hr : r = f.places rm neg m e sticky := by
    simp only [r, at_, hq, Fmt.places]
  have hcls : (if r.2 = true then (if tiny = true then Cls.uf else 0) ||| Cls.nx else 0) = f.roundCls rm neg m e sticky := by
    rw [hr]; rfl
  rw [hcls]
  rw [← hr] at hmax hmin ⊢
  have hqg : q = f.low + g := by omega
  unfold Fmt.write Fmt.pattern
  rw [hg, Int.toNat_natCast]
  by_cases hsub : r.1 < 2 ^ f.fb
  · have hzero : g = 0 := by omega
    have hfin := hf.subnormal_lt_limit
    subst hzero
    rw [if_pos hsub, Nat.zero_mul, Nat.zero_add, if_neg (by omega : ¬f.limit ≤ r.1)]
    by_cases hflush : ftz = true ∧ r.1 ≠ 0
    · rw [if_pos (by simpa using hflush), if_pos ⟨hflush.1, Nat.pos_of_ne_zero hflush.2, hsub⟩]
      rfl
    · rw [if_neg (by simpa using hflush), if_neg fun h => hflush ⟨h.1, h.2.1.ne'⟩]
  · have hnoflush : ¬(ftz = true ∧ 0 < g * 2 ^ f.fb + r.1 ∧ g * 2 ^ f.fb + r.1 < 2 ^ f.fb) := by rintro ⟨-, -, h⟩; omega
    rw [if_neg hsub, if_neg hnoflush]
    obtain ⟨c, hsig, hpos, hfull, hex⟩ : ∃ c : Nat, sig + c * 2 ^ f.fb = r.1 ∧ 2 ^ f.fb ≤ sig ∧ sig < 2 * 2 ^ f.fb ∧ ex = (g + 1 + c : Nat) := by
      by_cases hfull : r.1 = 2 ^ (f.fb + 1)
      · refine ⟨1, ?_, ?_, ?_, ?_⟩
        all_goals simp only [sig, ex, if_pos hfull, hqg, Fmt.low]
        all_goals omega
      · refine ⟨0, ?_, ?_, ?_, ?_⟩
        all_goals simp only [sig, ex, if_neg hfull, hqg, Fmt.low]
        all_goals omega
    have hpat : g * 2 ^ f.fb + r.1 = (g + 1 + c) * 2 ^ f.fb + (sig - 2 ^ f.fb) := by
      rw [Nat.add_mul, Nat.add_mul, Nat.one_mul]
      omega
    have hbig : big ↔ f.limit ≤ g * 2 ^ f.fb + r.1 := by
      have hcast : (2 : Int) ^ f.eb = (2 ^ f.eb : Nat) := by push_cast; rfl
      have hT : 2 ^ 2 ≤ 2 ^ f.eb := Nat.pow_le_pow_right (by decide) hf.exponents
      rw [hpat, f.limit_le_iff _ _ (by omega)]
      simp only [big, hex, hcast, hcarry]
      cases f.ieee
      · simp only [Bool.false_eq_true, if_false, Bool.or_eq_true, decide_eq_true_eq, Bool.and_eq_true, beq_iff_eq]
        omega
      · simp only [if_true]
        omega
    by_cases hover : f.limit ≤ g * 2 ^ f.fb + r.1
    · rw [if_pos hover]
      exact if_pos (hbig.mpr hover)
    · rw [if_neg hover]
      refine (if_neg (mt hbig.mp hover)).trans ?_
      rw [hex, Int.toNat_natCast, Nat.add_assoc, ← hpat]

/-! ### Rounding as a choice between neighbours -/

/-- A magnitude from `lo` on and below `hi` is rounded to `hi` under a mode (R79); `T` is even where `lo` is. -/
def TakesUpper (rm : RM) (neg : Bool) (T : Nat) (lo hi X : ℚ) : Prop :=
  match rm with
  | .rtz => False
  | .rup => neg = false ∧ X ≠ lo
  | .rdn => neg = true ∧ X ≠ lo
  | .rne => lo + hi < 2 * X ∨ lo + hi = 2 * X ∧ T % 2 = 1

theorem TakesUpper.scale {rm : RM} {neg : Bool} {T : Nat} {lo hi X u : ℚ} (hu : 0 < u) :
    TakesUpper rm neg T (lo * u) (hi * u) (X * u) ↔ TakesUpper rm neg T lo hi X := by
  have hne : X * u ≠ lo * u ↔ X ≠ lo := not_congr (mul_left_inj' hu.ne')
  have hsum : lo * u + hi * u = (lo + hi) * u := by ring
  have htwice : 2 * (X * u) = 2 * X * u := by ring
  cases rm with
  | rtz => rfl
  | rup => exact and_congr_right' hne
  | rdn => exact and_congr_right' hne
  | rne =>
    unfold TakesUpper
    rw [hsum, htwice, mul_lt_mul_iff_left₀ hu, mul_left_inj' hu.ne']

/-- A magnitude that is exact stays where it is. -/
theorem not_takesUpper_self (rm : RM) (neg : Bool) (T : Nat) (lo hi : ℚ) (h : lo < hi) : ¬TakesUpper rm neg T lo hi lo := by
  cases rm with
  | rtz => exact id
  | rup => exact fun h => h.2 rfl
  | rdn => exact fun h => h.2 rfl
  | rne => rintro (h | ⟨h, -⟩) <;> linarith

/-- A remainder r of S below a whole Q, with something below it where `sticky`, is rounded up (R79). -/
def goesUp (rm : RM) (neg : Bool) (Q r S : Nat) (sticky : Bool) : Bool :=
  match rm with
  | .rtz => false
  | .rup => (r != 0 || sticky) && !neg
  | .rdn => (r != 0 || sticky) && neg
  | .rne => decide (S < 2 * r) || (2 * r == S && (sticky || Q % 2 == 1))

/-- A shift far beyond the number's bits is cut without effect (R79). -/
theorem roundMag_eq (rm : RM) (neg : Bool) (m s : Nat) (sticky : Bool) : roundMag rm neg m s sticky =
    (if goesUp rm neg (m / 2 ^ s) (m % 2 ^ s) (2 ^ s) sticky = true then m / 2 ^ s + 1 else m / 2 ^ s, m % 2 ^ s != 0 || sticky) := by
  have hcut (k : Nat) (hk : bitLen m + 2 ≤ k) : m / 2 ^ k = 0 ∧ m % 2 ^ k = m ∧ 2 * m < 2 ^ k := by
    have hlt := lt_two_pow_bitLen m
    have hle : 2 ^ (bitLen m + 2) ≤ 2 ^ k := Nat.pow_le_pow_right (by decide) hk
    rw [Nat.pow_add] at hle
    exact ⟨Nat.div_eq_of_lt (by omega), Nat.mod_eq_of_lt (by omega), by omega⟩
  unfold roundMag goesUp
  rcases Nat.le_total s (bitLen m + 2) with hle | hle
  · rw [show Nat.min s (bitLen m + 2) = s from Nat.min_eq_left hle]
    cases rm with
    | rtz | rup | rdn => rfl
    | rne =>
      cases s with
      | zero => simp [Nat.mod_one]
      | succ s => simp
  · rw [show Nat.min s (bitLen m + 2) = bitLen m + 2 from Nat.min_eq_right hle]
    obtain ⟨hd, hm, hlt⟩ := hcut s hle
    obtain ⟨hd', hm', hlt'⟩ := hcut _ (Nat.le_refl _)
    simp only [hd, hm, hd', hm']
    cases rm with
    | rtz | rup | rdn => rfl
    | rne => simp [hlt.not_gt, hlt'.not_gt, hlt.ne, hlt'.ne]

/-- A remainder with a fraction below it is more than nothing where it is inexact, and rounded up where its mode takes the upper neighbour. -/
theorem goesUp_iff (rm : RM) (neg : Bool) (Q r P : Nat) (hr : r < 2 * P) (sticky : Bool) (y : ℚ) (h0 : 0 ≤ y) (h1 : y < 1)
    (hst : sticky = true ↔ y ≠ 0) :
    ((r != 0 || sticky) = true ↔ (Q * (2 * P) + r + y : ℚ) ≠ Q * (2 * P)) ∧
    (goesUp rm neg Q r (2 * P) sticky = true ↔ TakesUpper rm neg Q (Q * (2 * P)) ((Q + 1) * (2 * P)) (Q * (2 * P) + r + y)) := by
  have hr0 : (0 : ℚ) ≤ r := Nat.cast_nonneg r
  have hexact : (r != 0 || sticky) = true ↔ (Q * (2 * P) + r + y : ℚ) ≠ Q * (2 * P) := by
    rw [Bool.or_eq_true, bne_iff_ne, hst, ← not_and_or, not_iff_not]
    constructor
    · rintro ⟨rfl, rfl⟩; simp
    · intro h
      have hr : (r : ℚ) = 0 := by linarith
      exact ⟨by exact_mod_cast hr, by linarith⟩
  refine ⟨hexact, ?_⟩
  unfold goesUp TakesUpper
  cases rm with
  | rtz => simp
  | rup => simp only [← hexact, Bool.and_eq_true, Bool.not_eq_true', and_comm]
  | rdn => simp only [← hexact, Bool.and_eq_true, and_comm]
  | rne =>
    have hmore : (Q * (2 * P) + (Q + 1) * (2 * P) < 2 * (Q * (2 * P) + r + y) : Prop) ↔ (P : ℚ) < r + y := by
      constructor <;> intro h <;> linarith
    have hhalf : (Q * (2 * P) + (Q + 1) * (2 * P) = 2 * (Q * (2 * P) + r + y) : Prop) ↔ (P : ℚ) = r + y := by
      constructor <;> intro h <;> linarith
    simp only [Bool.or_eq_true, decide_eq_true_eq, Bool.and_eq_true, beq_iff_eq]
    rw [hmore, hhalf]
    rcases Nat.lt_trichotomy r P with hlt | rfl | hgt
    · have : (r : ℚ) + 1 ≤ P := by exact_mod_cast hlt
      have h1 : ¬(P : ℚ) < r + y := by linarith
      have h2 : (P : ℚ) ≠ r + y := by intro h; linarith
      simp only [h1, h2, false_and, or_self, iff_false]
      omega
    · have h2 : (r : ℚ) = r + y ↔ y = 0 := by simp
      rw [lt_add_iff_pos_right, h2, hst]
      rcases h0.eq_or_lt with rfl | hpos
      · simp
      · simp [hpos, hpos.ne']
    · have : (P : ℚ) + 1 ≤ r := by exact_mod_cast hgt
      have h1 : (P : ℚ) < r + y := by linarith
      simp only [h1, true_or, iff_true]
      omega

/-- A magnitude with a fraction below it is rounded to one of the two whole multiples of 2^s about it, as the mode says (R79). -/
theorem roundMag_between (rm : RM) (neg : Bool) (m s : Nat) (hs : 0 < s) (sticky : Bool) (y : ℚ) (h0 : 0 ≤ y) (h1 : y < 1)
    (hst : sticky = true ↔ y ≠ 0) :
    ∃ Q : Nat, Q * (2 : ℚ) ^ s ≤ m + y ∧ m + y < (Q + 1) * (2 : ℚ) ^ s ∧
      ((roundMag rm neg m s sticky).2 = true ↔ m + y ≠ Q * (2 : ℚ) ^ s) ∧
      ((roundMag rm neg m s sticky).1 = Q ∧ ¬TakesUpper rm neg Q (Q * 2 ^ s) ((Q + 1) * 2 ^ s) (m + y) ∨
        (roundMag rm neg m s sticky).1 = Q + 1 ∧ TakesUpper rm neg Q (Q * 2 ^ s) ((Q + 1) * 2 ^ s) (m + y)) := by
  obtain ⟨k, rfl⟩ : ∃ k, s = k + 1 := ⟨s - 1, by omega⟩
  have hmod : m % 2 ^ (k + 1) < 2 * 2 ^ k := Nat.pow_succ' ▸ Nat.mod_lt m (Nat.two_pow_pos (k + 1))
  have hcast : (2 : ℚ) ^ (k + 1) = 2 * (2 ^ k : Nat) := by push_cast; ring
  have hm : (m : ℚ) = (m / 2 ^ (k + 1) : Nat) * (2 * (2 ^ k : Nat)) + (m % 2 ^ (k + 1) : Nat) := by
    rw [← hcast]
    exact_mod_cast (Nat.div_add_mod' m (2 ^ (k + 1))).symm
  have hr0 : (0 : ℚ) ≤ (m % 2 ^ (k + 1) : Nat) := Nat.cast_nonneg _
  have hr1 : ((m % 2 ^ (k + 1) : Nat) : ℚ) + 1 ≤ 2 * (2 ^ k : Nat) := by exact_mod_cast hmod
  obtain ⟨hexact, hup⟩ := goesUp_iff rm neg (m / 2 ^ (k + 1)) _ _ hmod sticky y h0 h1 hst
  refine ⟨m / 2 ^ (k + 1), ?_⟩
  rw [← hm] at hexact hup
  rw [roundMag_eq, Nat.pow_succ', hcast]
  rw [Nat.pow_succ'] at hexact hup hm hr0 hr1
  refine ⟨by linarith, by linarith, hexact, ?_⟩
  by_cases hgo : goesUp rm neg (m / (2 * 2 ^ k)) (m % (2 * 2 ^ k)) (2 * 2 ^ k) sticky = true
  · exact .inr ⟨if_pos hgo, hup.mp hgo⟩
  · exact .inl ⟨if_neg hgo, mt hup.mpr hgo⟩

/-- The positive number X lies from m on and below m + 1, times 2^e: at m itself where nothing sticks below, and m has bits past the last
place of the format where something does. -/
structure Fmt.Brackets (f : Fmt) (m : Nat) (e : Int) (sticky : Bool) (X : ℚ) : Prop where
  pos : 0 < m
  low : m * (2 : ℚ) ^ e ≤ X
  high : X < (m + 1) * (2 : ℚ) ^ e
  exact : sticky = true ↔ X ≠ m * (2 : ℚ) ^ e
  deep : sticky = true → e < f.last m e

theorem Fmt.Brackets.of_exact (f : Fmt) (m : Nat) (e : Int) (hm : 0 < m) : f.Brackets m e false (m * 2 ^ e) where
  pos := hm
  low := le_rfl
  high := by have := two_zpow_pos e; linarith
  exact := by simp
  deep := nofun

/-- A number is rounded to one of the two multiples of its last place about it, as the mode says (R79). -/
theorem Fmt.Brackets.places {f : Fmt} {m : Nat} {e : Int} {sticky : Bool} {X : ℚ} (h : f.Brackets m e sticky X) (rm : RM) (neg : Bool) :
    let u : ℚ := 2 ^ f.last m e
    ∃ Q : Nat, Q * u ≤ X ∧ X < (Q + 1) * u ∧ ((f.places rm neg m e sticky).2 = true ↔ X ≠ Q * u) ∧
      ((f.places rm neg m e sticky).1 = Q ∧ ¬TakesUpper rm neg Q (Q * u) ((Q + 1) * u) X ∨
        (f.places rm neg m e sticky).1 = Q + 1 ∧ TakesUpper rm neg Q (Q * u) ((Q + 1) * u) X) := by
  obtain ⟨hm, hlow, hhigh, hexact, hdeep⟩ := h
  intro u
  have hu : 0 < u := two_zpow_pos _
  have hv := two_zpow_pos e
  unfold Fmt.places
  split
  next hle =>
    have hst : sticky = false := by
      by_contra hne
      have := hdeep (by simpa using hne)
      omega
    have hX : X = m * (2 : ℚ) ^ e := by
      by_contra hne
      rw [hexact.mpr hne] at hst
      cases hst
    obtain ⟨k, hk⟩ := Int.eq_ofNat_of_zero_le (Int.sub_nonneg.mpr hle)
    have hval : ((m * 2 ^ k : Nat) : ℚ) * u = X := by
      rw [hX, show e = f.last m e + k by omega, two_zpow_add]
      push_cast
      ring
    rw [hk, Int.toNat_natCast]
    refine ⟨m * 2 ^ k, hval.le, ?_, ?_, .inl ⟨rfl, ?_⟩⟩
    · rw [← hval]; linarith
    · rw [hst, hval]; simp
    · rw [hval]
      exact not_takesUpper_self _ _ _ _ _ (by rw [← hval]; linarith)
  next hlt =>
    obtain ⟨k, hk⟩ := Int.eq_ofNat_of_zero_le (Int.sub_nonneg.mpr (Int.le_of_not_le hlt))
    obtain ⟨y, hy⟩ : ∃ y : ℚ, X = (m + y) * 2 ^ e := ⟨X / 2 ^ e - m, by field_simp; ring⟩
    rw [hy] at hlow hhigh hexact
    have h0 : 0 ≤ y := by have := le_of_mul_le_mul_right hlow hv; linarith
    have h1 : y < 1 := by have := lt_of_mul_lt_mul_right hhigh hv.le; linarith
    have hst : sticky = true ↔ y ≠ 0 := by
      rw [hexact, not_iff_not, mul_left_inj' hv.ne']
      exact add_eq_left
    obtain ⟨Q, hQ, hQ1, hinx, hcase⟩ := roundMag_between rm neg m k (by omega) sticky y h0 h1 hst
    have hscale (z : ℚ) : z * u = z * 2 ^ k * 2 ^ e := by
      rw [show u = 2 ^ f.last m e from rfl, show f.last m e = e + k by omega, two_zpow_add]
      ring
    rw [hk, Int.toNat_natCast]
    refine ⟨Q, ?_, ?_, ?_, ?_⟩
    all_goals rw [hy, hscale]
    · exact mul_le_mul_of_nonneg_right hQ hv.le
    · exact mul_lt_mul_of_pos_right hQ1 hv
    · rw [hinx, not_iff_not, mul_left_inj' hv.ne']
    · rw [hscale, TakesUpper.scale hv]
      exact hcase

/-- The multiple of the last place at or below a number has no more bits than a significand, and all of them past the subnormals. -/
theorem Fmt.Brackets.significand {f : Fmt} {m : Nat} {e : Int} {sticky : Bool} {X : ℚ} (h : f.Brackets m e sticky X) (Q : Nat)
    (hQ : Q * (2 : ℚ) ^ f.last m e ≤ X) (hQ1 : X < (Q + 1) * (2 : ℚ) ^ f.last m e) :
    Q < 2 ^ (f.fb + 1) ∧ (f.last m e = f.low ∨ 2 ^ f.fb ≤ Q) := by
  obtain ⟨hm, hlow, hhigh, -, -⟩ := h
  have hu := two_zpow_pos (f.last m e)
  have hv := two_zpow_pos e
  have hlen : 1 ≤ bitLen m := by rw [bitLen_pos hm]; omega
  constructor
  · have hmr : (m + 1 : ℚ) ≤ 2 ^ bitLen m := by exact_mod_cast lt_two_pow_bitLen m
    have hlt : (Q : ℚ) * 2 ^ f.last m e < 2 ^ (f.fb + 1) * 2 ^ f.last m e := by
      calc (Q : ℚ) * 2 ^ f.last m e ≤ X := hQ
        _ < (m + 1) * 2 ^ e := hhigh
        _ ≤ 2 ^ bitLen m * 2 ^ e := by gcongr
        _ = 2 ^ (e + bitLen m) := (two_zpow_add _ _).symm
        _ ≤ 2 ^ (f.last m e + (f.fb + 1 : Nat)) := two_zpow_le (by unfold Fmt.last; push_cast; omega)
        _ = 2 ^ (f.fb + 1) * 2 ^ f.last m e := two_zpow_add _ _
    exact_mod_cast lt_of_mul_lt_mul_right hlt hu.le
  · by_contra! hne
    obtain ⟨hne, hsmall⟩ := hne
    have htop : e + (bitLen m - 1 : Nat) = f.last m e + f.fb := by unfold Fmt.last at hne ⊢; omega
    have hmr : (2 : ℚ) ^ (bitLen m - 1) ≤ m := by exact_mod_cast two_pow_le_of_bitLen hm
    have hle : (2 : ℚ) ^ f.fb * 2 ^ f.last m e < (Q + 1) * 2 ^ f.last m e := by
      calc (2 : ℚ) ^ f.fb * 2 ^ f.last m e = 2 ^ (bitLen m - 1) * 2 ^ e := by rw [← two_zpow_add, ← two_zpow_add, htop]
        _ ≤ m * 2 ^ e := by gcongr
        _ ≤ X := hlow
        _ < (Q + 1) * 2 ^ f.last m e := hQ1
    have : 2 ^ f.fb < Q + 1 := by exact_mod_cast lt_of_mul_lt_mul_right hle hu.le
    omega

/-- The pattern P that a magnitude X is rounded to under a mode, from the pattern T at or below it (R79). -/
def Fmt.Chosen (f : Fmt) (rm : RM) (neg : Bool) (X : ℚ) (T P : Nat) : Prop :=
  f.mag T ≤ X ∧ X < f.mag (T + 1) ∧
    (P = T ∧ ¬TakesUpper rm neg T (f.mag T) (f.mag (T + 1)) X ∨ P = T + 1 ∧ TakesUpper rm neg T (f.mag T) (f.mag (T + 1)) X)

/-- What a rounding writes: the chosen pattern, with the classes of an inexact one where it is no number of the format (R79, R80, R82). -/
theorem Fmt.Brackets.round {f : Fmt} (hf : f.Sound) {m : Nat} {e : Int} {sticky : Bool} {X : ℚ} (h : f.Brackets m e sticky X) (rm : RM)
    (neg : Bool) : ∃ T P c, f.Chosen rm neg X T P ∧ (X = f.mag T → c = 0) ∧ (X ≠ f.mag T → c = 0x10 ∨ c = 0x18) ∧
      ∀ ftz, f.round rm ftz neg m e sticky = f.write rm ftz neg P c := by
  obtain ⟨Q, hQ, hQ1, hexact, hcase⟩ := h.places rm neg
  obtain ⟨hmax, hmin⟩ := h.significand Q hQ hQ1
  have hlow : f.low ≤ f.last m e := le_max_right _ _
  obtain ⟨g, hg⟩ := Int.eq_ofNat_of_zero_le (Int.sub_nonneg.mpr hlow)
  have hlast : f.last m e = f.low + g := by omega
  have hg0 : g = 0 ∨ 2 ^ f.fb ≤ Q := by omega
  have hT : f.mag (g * 2 ^ f.fb + Q) = Q * 2 ^ f.last m e := by rw [f.mag_eq g Q hg0 hmax.le, hlast]
  have hT1 : f.mag (g * 2 ^ f.fb + Q + 1) = (Q + 1) * 2 ^ f.last m e := by
    rw [Nat.add_assoc, f.mag_eq g (Q + 1) (hg0.imp_right Nat.le_succ_of_le) hmax, hlast]
    push_cast
    rfl
  have hpar : (g * 2 ^ f.fb + Q) % 2 = Q % 2 := by
    obtain ⟨b, hb⟩ : ∃ b, f.fb = b + 1 := ⟨f.fb - 1, by have := hf.fraction; omega⟩
    rw [hb, Nat.pow_succ', Nat.mul_left_comm]
    omega
  have hchosen : TakesUpper rm neg (g * 2 ^ f.fb + Q) (Q * 2 ^ f.last m e) ((Q + 1) * 2 ^ f.last m e) X ↔
      TakesUpper rm neg Q (Q * 2 ^ f.last m e) ((Q + 1) * 2 ^ f.last m e) X := by unfold TakesUpper; rw [hpar]
  have hR : (f.places rm neg m e sticky).1 ≤ 2 ^ (f.fb + 1) ∧ (f.last m e = f.low ∨ 2 ^ f.fb ≤ (f.places rm neg m e sticky).1) := by omega
  have hcls := f.roundCls_cases rm neg m e sticky
  refine ⟨g * 2 ^ f.fb + Q, f.pattern m e (f.places rm neg m e sticky).1, f.roundCls rm neg m e sticky, ⟨?_, ?_, ?_⟩, ?_, ?_,
    fun ftz => f.round_eq_write hf rm ftz neg m e sticky h.pos hR.1 hR.2⟩
  · rwa [hT]
  · rwa [hT1]
  · rw [hT, hT1, hchosen, Fmt.pattern, hg, Int.toNat_natCast]
    rcases hcase with ⟨hp, hno⟩ | ⟨hp, hyes⟩
    · exact .inl ⟨by rw [hp], hno⟩
    · exact .inr ⟨by rw [hp, Nat.add_assoc], hyes⟩
  · rw [hT]
    exact fun heq => hcls.1 (by simpa [heq] using hexact)
  · rw [hT]
    exact fun hne => hcls.2 (hexact.mpr hne)

/-- The same for a number as it stands, zero included. -/
theorem Fmt.round_spec (f : Fmt) (hf : f.Sound) (rm : RM) (neg : Bool) (m : Nat) (e : Int) :
    ∃ T P c, f.Chosen rm neg (m * 2 ^ e) T P ∧ ((m * 2 ^ e : ℚ) = f.mag T → c = 0) ∧ ((m * 2 ^ e : ℚ) ≠ f.mag T → c = 0x10 ∨ c = 0x18) ∧
      ∀ ftz, f.round rm ftz neg m e false = f.write rm ftz neg P c := by
  rcases Nat.eq_zero_or_pos m with rfl | hm
  · have h1 : (0 : ℚ) < f.mag 1 := by rw [← f.mag_zero]; exact f.mag_strictMono Nat.zero_lt_one
    have hlimit : ¬f.limit ≤ 0 := Nat.not_le.mpr (Nat.zero_lt_of_lt hf.subnormal_lt_limit)
    refine ⟨0, 0, 0, ⟨?_, ?_, .inl ⟨rfl, ?_⟩⟩, fun _ => rfl, fun h => ?_, fun ftz => ?_⟩
    · simp [f.mag_zero]
    · simpa using h1
    · simpa [f.mag_zero] using not_takesUpper_self rm neg 0 0 _ h1
    · simp [f.mag_zero] at h
    · simp [Fmt.round, Fmt.write, hlimit]
  · exact (Fmt.Brackets.of_exact f m e hm).round hf rm neg

/-! ### What a chosen pattern is among the numbers of the format -/

theorem Fmt.Chosen.nonneg {f : Fmt} {rm : RM} {neg : Bool} {X : ℚ} {T P : Nat} (h : f.Chosen rm neg X T P) : 0 ≤ X :=
  (f.mag_nonneg T).trans h.1

/-- No number of the format lies between the neighbours, whatever sign it is taken with. -/
theorem Fmt.gap (f : Fmt) (hf : f.Sound) (T b : Nat) (y : ℚ) (hy : IsNum f b y) (neg : Bool) :
    signum neg * y ≤ f.mag T ∨ f.mag (T + 1) ≤ signum neg * y := by
  obtain ⟨-, rfl⟩ := (f.isNum_iff hf b y).mp hy
  generalize b % 2 ^ (f.eb + f.fb) = P
  have hpos := f.mag_nonneg P
  have hT := f.mag_nonneg T
  have horder : f.mag P ≤ f.mag T ∨ f.mag (T + 1) ≤ f.mag P := by
    rw [f.mag_strictMono.le_iff_le, f.mag_strictMono.le_iff_le]
    omega
  cases neg <;> cases b.testBit (f.eb + f.fb) <;> simp only [signum, Bool.false_eq_true, if_false, if_true, one_mul, neg_one_mul, neg_neg]
  · exact horder
  · exact .inl (by linarith)
  · exact .inl (by linarith)
  · exact horder

section
variable {f : Fmt} {rm : RM} {neg : Bool} {X z : ℚ} {T P : Nat} (h : f.Chosen rm neg X T P) (hz : z ≤ f.mag T ∨ f.mag (T + 1) ≤ z)
include h

/-- Toward zero, the chosen magnitude is the greatest that is no greater. -/
theorem Fmt.Chosen.inward (hrm : ¬TakesUpper rm neg T (f.mag T) (f.mag (T + 1)) X) : P = T := by
  obtain ⟨-, -, ⟨hP, -⟩ | ⟨-, hup⟩⟩ := h
  · exact hP
  · exact absurd hup hrm

/-- An exact magnitude is chosen itself. -/
theorem Fmt.Chosen.exact (hX : X = f.mag T) : P = T := by
  refine h.inward ?_
  rw [hX]
  exact not_takesUpper_self _ _ _ _ _ (f.mag_strictMono (Nat.lt_succ_self T))

/-- An inexact magnitude is not the chosen one. -/
theorem Fmt.Chosen.eq_mag_iff : X = f.mag P ↔ X = f.mag T := by
  obtain ⟨-, hhi, hP | hP⟩ := h
  · rw [hP.1]
  · have hlo := f.mag_strictMono (Nat.lt_succ_self T)
    rw [hP.1]
    refine ⟨fun heq => absurd heq hhi.ne, fun heq => ?_⟩
    rw [heq] at hP
    exact absurd hP.2 (not_takesUpper_self _ _ _ _ _ hlo)

include hz

/-- Away from zero, the chosen magnitude is the least that is no less. -/
theorem Fmt.Chosen.outward (hrm : TakesUpper rm neg T (f.mag T) (f.mag (T + 1)) X ↔ X ≠ f.mag T) :
    X ≤ f.mag P ∧ (X ≤ z → f.mag P ≤ z) := by
  obtain ⟨hlo, hhi, ⟨hP, hno⟩ | ⟨hP, hyes⟩⟩ := h
  · rw [hrm, not_not] at hno
    rw [hP, ← hno]
    exact ⟨le_rfl, id⟩
  · have hne := hrm.mp hyes
    have hlt := lt_of_le_of_ne hlo hne.symm
    rw [hP]
    refine ⟨hhi.le, fun hXz => hz.resolve_left fun hle => ?_⟩
    linarith

/-- To nearest, no magnitude is nearer than the chosen one, and another is as near only where that is even. -/
theorem Fmt.Chosen.nearest (hrm : rm = .rne) : |X - f.mag P| ≤ |X - z| ∧ (|X - f.mag P| = |X - z| → z ≠ f.mag P → P % 2 = 0) := by
  subst hrm
  obtain ⟨hlo, hhi, ⟨hP, hno⟩ | ⟨hP, hyes⟩⟩ := h
  · unfold TakesUpper at hno
    rw [not_or, not_lt, not_and] at hno
    rw [hP, abs_of_nonneg (sub_nonneg.mpr hlo)]
    rcases hz with hz | hz
    · rw [abs_of_nonneg (by linarith)]
      exact ⟨by linarith, fun heq hne => absurd (by linarith) hne⟩
    · rw [abs_of_nonpos (by linarith)]
      refine ⟨by linarith [hno.1], fun heq _ => ?_⟩
      have := hno.2 (by linarith [hno.1])
      omega
  · unfold TakesUpper at hyes
    have hhalf : f.mag T + f.mag (T + 1) ≤ 2 * X := hyes.elim le_of_lt fun h => h.1.le
    rw [hP, abs_of_neg (sub_neg.mpr hhi)]
    rcases hz with hz | hz
    · rw [abs_of_nonneg (by linarith)]
      refine ⟨by linarith, fun heq _ => ?_⟩
      rcases hyes with hgt | ⟨-, hodd⟩
      · linarith
      · omega
    · rw [abs_of_nonpos (by linarith)]
      exact ⟨by linarith, fun heq hne => absurd (by linarith) hne⟩

end

theorem Fmt.sign_mod_two (f : Fmt) (hf : f.Sound) (neg : Bool) (P : Nat) : (f.sign neg + P) % 2 = P % 2 := by
  obtain ⟨k, hk⟩ : ∃ k, f.eb + f.fb = k + 1 := ⟨f.eb + f.fb - 1, by have := hf.fraction; omega⟩
  unfold Fmt.sign
  rw [hk, Nat.pow_succ]
  split <;> omega

theorem abs_signum_mul (neg : Bool) (x : ℚ) : |signum neg * x| = |x| := by cases neg <;> simp [signum]

/-- A finite pattern that is chosen is the number rounded under the mode among the numbers of the format (R79). -/
theorem Fmt.Chosen.rounded {f : Fmt} (hf : f.Sound) {rm : RM} {neg : Bool} {X : ℚ} {T P : Nat} (h : f.Chosen rm neg X T P) (hP : P < f.limit) :
    Rounded f rm (signum neg * X) (f.sign neg + P) := by
  have hX := h.nonneg
  have hlo := h.1
  have hPm := f.mag_nonneg P
  refine ⟨signum neg * f.mag P, f.isNum_sign hf neg P hP, ?_⟩
  cases rm with
  | rtz =>
    obtain rfl := h.inward id
    rw [abs_signum_mul, abs_signum_mul, abs_of_nonneg hX, abs_of_nonneg hPm]
    refine ⟨hlo, ?_, fun b y hy hle _ => ?_⟩
    · rw [mul_mul_mul_comm, signum_mul_self, one_mul]
      exact mul_nonneg hPm hX
    · have habs : signum (decide (y < 0)) * y = |y| := by
        unfold signum
        split
        next hneg => rw [abs_of_neg (by simpa using hneg), neg_one_mul]
        next hpos => rw [abs_of_nonneg (by simpa using hpos), one_mul]
      have hgap := f.gap hf P b y hy (decide (y < 0))
      rw [habs] at hgap
      exact hgap.resolve_right fun hge => by linarith [h.2.1]
  | rup =>
    cases neg with
    | false =>
      simp only [signum, Bool.false_eq_true, if_false, one_mul]
      have hout (z : ℚ) (hz : z ≤ f.mag T ∨ f.mag (T + 1) ≤ z) := h.outward hz (by simp [TakesUpper])
      exact ⟨(hout _ (.inl le_rfl)).1, fun b y hy => (hout y (by simpa [signum] using f.gap hf T b y hy false)).2⟩
    | true =>
      obtain rfl := h.inward nofun
      simp only [signum, if_true, neg_one_mul]
      refine ⟨neg_le_neg hlo, fun b y hy hle => ?_⟩
      have hgap := f.gap hf P b y hy true
      simp only [signum, if_true, neg_one_mul] at hgap
      linarith [hgap.resolve_right fun hge => by linarith [h.2.1]]
  | rdn =>
    cases neg with
    | false =>
      obtain rfl := h.inward nofun
      simp only [signum, Bool.false_eq_true, if_false, one_mul]
      refine ⟨hlo, fun b y hy hle => ?_⟩
      have hgap := f.gap hf P b y hy false
      simp only [signum, Bool.false_eq_true, if_false, one_mul] at hgap
      exact hgap.resolve_right fun hge => by linarith [h.2.1]
    | true =>
      simp only [signum, if_true, neg_one_mul]
      have hout (z : ℚ) (hz : z ≤ f.mag T ∨ f.mag (T + 1) ≤ z) := h.outward hz (by simp [TakesUpper])
      refine ⟨neg_le_neg (hout _ (.inl le_rfl)).1, fun b y hy hle => ?_⟩
      have := (hout (-y) (by simpa [signum] using f.gap hf T b y hy true)).2 (by linarith)
      linarith
  | rne =>
    intro b y hy
    obtain ⟨hle, htie⟩ := h.nearest (f.gap hf T b y hy neg) rfl
    have hdist (w : ℚ) : |signum neg * X - w| = |X - signum neg * w| := by
      rw [← abs_signum_mul neg (X - _), mul_sub, ← mul_assoc (signum neg) (signum neg), signum_mul_self, one_mul]
    rw [hdist, hdist, ← mul_assoc, signum_mul_self, one_mul, f.sign_mod_two hf]
    refine ⟨hle, fun heq hne => htie heq fun hback => hne ?_⟩
    rw [← hback, ← mul_assoc, signum_mul_self, one_mul]

/-! ### The bits that a rounding writes -/

/-- An overflow writes the infinity of a format that has one, or the greatest finite pattern (R82). -/
theorem Fmt.overflow_eq (f : Fmt) (rm : RM) (neg : Bool) :
    f.ieee = true ∧ f.overflow rm neg = f.sign neg + f.limit ∨ f.overflow rm neg = f.sign neg + (f.limit - 1) := by
  unfold Fmt.overflow Fmt.max Fmt.inf Fmt.limit
  cases f.ieee
  · exact .inr rfl
  · cases rm <;> cases neg <;> simp

/-- The bits written are a sign and a finite pattern or the infinity. -/
theorem Fmt.write_bits (f : Fmt) (hf : f.Sound) (rm : RM) (ftz neg : Bool) (P c : Nat) :
    ∃ K, (f.write rm ftz neg P c).bits = f.sign neg + K ∧ (K < f.limit ∨ f.ieee = true ∧ K = f.limit ∧ f.limit ≤ P) := by
  have hpos : 0 < f.limit := Nat.zero_lt_of_lt hf.subnormal_lt_limit
  unfold Fmt.write
  split
  · exact ⟨0, rfl, .inl hpos⟩
  · split
    next hover =>
      rcases f.overflow_eq rm neg with ⟨hi, heq⟩ | heq
      · exact ⟨_, heq, .inr ⟨hi, rfl, hover⟩⟩
      · exact ⟨_, heq, .inl (Nat.sub_lt hpos Nat.one_pos)⟩
    next hfin => exact ⟨P, rfl, .inl (Nat.not_le.mp hfin)⟩

/-- What is written is no NaN, and its value has the sign. -/
theorem Fmt.val_write (f : Fmt) (hf : f.Sound) (rm : RM) (ftz neg : Bool) (P c : Nat) :
    (f.val false (f.write rm ftz neg P c).bits).isNan = false ∧ (f.write rm ftz neg P c).bits < 2 ^ (f.eb + f.fb + 1) ∧
      (P < f.limit → (f.val false (f.write rm ftz neg P c).bits).isInf = false) := by
  obtain ⟨K, hK, hcase⟩ := f.write_bits hf rm ftz neg P c
  have hlt : K < 2 ^ (f.eb + f.fb) := by have := f.limit_lt; omega
  obtain ⟨hmod, hbit, hbound⟩ := f.sign_testBit neg K hlt
  rw [hK]
  refine ⟨?_, hbound, fun hP => ?_⟩
  · rw [f.val_eq hf, hmod]
    rcases hcase with hfin | ⟨hi, hinf, -⟩
    · rw [if_pos hfin]; rfl
    · rw [if_neg (by omega), if_pos ⟨hi, hinf⟩]; rfl
  · rw [f.val_finite hf neg K (by omega)]
    rfl

end Sys2Proof.Machine
end

section
/-! PROOF. Rounding into every format (R74, R79, R80, R82). -/

open Sys2Proof Sys2Proof.Machine Sys2Proof.Claims

namespace Sys2Proof.Proofs

theorem overflow_eq_overflowBits : ∀ f ∈ formats, ∀ (rm : RM) (neg : Bool), f.overflow rm neg = overflowBits f rm neg ∧
    2 ^ f.fb ≤ f.overflow rm neg % 2 ^ (f.eb + f.fb) := by
  intro f hf rm neg
  simp only [formats, List.mem_cons, List.not_mem_nil, or_false] at hf
  rcases hf with rfl | rfl | rfl | rfl | rfl <;> cases rm <;> cases neg <;> decide

/-- Settles O2: a rounding writes one of the two neighbours of the exact number, as its mode chooses. -/
theorem roundingIsCorrect : Obligations.RoundingIsCorrect := by
  unfold Obligations.RoundingIsCorrect
  intro f hmem rm neg m e r flushed
  have hf := Fmt.Sound.of_mem hmem
  obtain ⟨T, P, c, hchosen, hexact, hinexact, hround⟩ := f.round_spec hf rm neg m e
  have hr : r = f.write rm false neg P c := hround false
  have hnum : num neg m e = signum neg * (m * 2 ^ e) := num_eq neg m e
  obtain ⟨hover, hlarge⟩ := overflow_eq_overflowBits f hmem rm neg
  by_cases hP : f.limit ≤ P
  · have hw (ftz : Bool) : f.write rm ftz neg P c = { bits := f.overflow rm neg, cls := 0x14 } := by
      unfold Fmt.write
      rw [if_neg (by have := hf.subnormal_lt_limit; omega), if_pos hP]
    rw [hr, hw]
    refine ⟨fun h => absurd h (show ¬0x14 &&& 4 = 0 by decide), fun _ => ⟨hover, rfl⟩, ?_⟩
    rw [if_neg (by dsimp only; omega)]
    exact (hround true).trans (hw true)
  · have hlt := Nat.not_le.mp hP
    obtain ⟨hmod, -, -⟩ := f.sign_testBit neg P (hlt.trans f.limit_lt)
    have hw : f.write rm false neg P c = { bits := f.sign neg + P, cls := c } := by
      unfold Fmt.write
      rw [if_neg (by simp), if_neg hP]
    rw [hr, hw, hnum]
    dsimp only
    rw [hmod]
    have hcls : c &&& 4 = 0 ∧ (c &&& 16 ≠ 0 ↔ (m * 2 ^ e : ℚ) ≠ f.mag T) := by
      by_cases hX : (m * 2 ^ e : ℚ) = f.mag T
      · rw [hexact hX]
        simp [hX]
      · rcases hinexact hX with rfl | rfl <;> simp [hX]
    refine ⟨fun _ => ⟨hchosen.rounded hf hlt, ?_⟩, fun h4 => absurd hcls.1 h4, ?_⟩
    · obtain ⟨hmod, hbit, -⟩ := f.sign_testBit neg P (hlt.trans f.limit_lt)
      rw [hcls.2, not_iff_not, f.isNum_iff hf, hmod, hbit, ← hchosen.eq_mag_iff]
      simp [hlt, signum_ne_zero]
    · refine (hround true).trans ?_
      unfold Fmt.write
      rw [if_neg hP]
      by_cases hsub : 0 < P ∧ P < 2 ^ f.fb
      · rw [if_pos ⟨rfl, hsub⟩, if_pos hsub]
        rfl
      · rw [if_neg (fun h => hsub h.2), if_neg hsub]

end Sys2Proof.Proofs
end

section
/-! SUPPORT. An instruction that retires its pack (R17, R99): what its statement asks of the pack and the state that it leaves. -/

open Sys2Proof.Claims

namespace Sys2Proof.Machine

/-- An instruction whose meaning retires the pack `q` from the state `u` completes. -/
theorem runs_of_retire {s : State} {p : Pack} {i : Instr} {len occ : Nat} {Q : State → Pack → Prop} (f : Pack → State) (u : State) (q : Pack)
    (hexec : exec i s = issue s i f) (hf : f p = u.retire q len occ) (hcur : u.cur = s.cur) (hc : q.c = p.c)
    (hQ : Q (u.retire q len occ) (q.advance len)) : Claims.Runs s p i len Q := by
  intro hready
  refine ⟨_, q.advance len, ?_, ?_, Proofs.past_advance p q (by rw [hc]) (by rw [hc]) (by rw [hc]) len, hQ⟩
  · rw [hexec, Proofs.issue_of_ready hready, hf]
  · rw [← hcur]
    exact (State.pack_occupy _ _ _ _).trans (State.pack_setPack _ _ _)

end Sys2Proof.Machine
end

section
/-! PROOF. MOVC (R275 to R277). -/

open Sys2Proof Sys2Proof.Machine Sys2Proof.Claims

namespace Sys2Proof.Proofs

/-- Settles O4: MOVC reads a control register into its uniform register, and writes those that have bits to write. -/
theorem controlRegisters : Obligations.ControlRegisters := by
  unfold Obligations.ControlRegisters
  intro d s p x hx
  refine ⟨fun sel => ?_, ?_, ?_, ?_, ?_⟩
  · refine runs_of_retire _ s (p.setS d (s.control p sel)) rfl rfl rfl (Pack.c_setS _ _ _) ⟨rfl, ?_⟩
    rw [Pack.s_advance, Pack.s_setS]
    rcases eq_or_ne d 0 with rfl | hd
    · rfl
    · rw [if_pos ⟨rfl, hd⟩, if_neg hd, State.control, hx]
      cases sel <;> rfl
  · exact runs_of_retire _ s _ rfl rfl rfl rfl ⟨rfl, by rw [Pack.r_advance]; rfl, by rw [Pack.r_advance]; rfl⟩
  · exact runs_of_retire _ s _ rfl rfl rfl rfl ⟨rfl, by rw [Pack.r_advance]; rfl, by rw [Pack.r_advance]; rfl⟩
  · have hwrite := ctx_modCtx_self s p.id.ctx (fun c => { c with r := { c.r with flags := c.r.flags &&& ~~~(p.s d) } }) x hx
    exact runs_of_retire _ _ _ rfl rfl rfl rfl ⟨Pack.r_advance _ _, _, hwrite, rfl, rfl⟩
  · have hwrite := ctx_modCtx_self s p.id.ctx (fun c => { c with r := { c.r with mxcnt := p.s d } }) x hx
    exact runs_of_retire _ _ _ rfl rfl rfl rfl ⟨Pack.r_advance _ _, _, hwrite, rfl, rfl⟩

end Sys2Proof.Proofs
end

section
/-! SUPPORT. Lane instructions: the registers that their results are written to, and how they complete (R94, R99, R104, R105). -/

open Sys2Proof.Claims

namespace Sys2Proof.Machine

/-! ### The results in their registers -/

/-- Two packs that differ in their lane registers and masks alone. -/
def SameCtrl (p q : Pack) : Prop := q.id = p.id ∧ q.c = p.c ∧ q.m = p.m ∧ q.r.trapen = p.r.trapen

theorem SameCtrl.trans {p q u : Pack} (h : SameCtrl p q) (k : SameCtrl q u) : SameCtrl p u := by
  obtain ⟨hid, hc, hm, ht⟩ := h
  obtain ⟨kid, kc, km, kt⟩ := k
  exact ⟨kid.trans hid, kc.trans hc, km.trans hm, kt.trans ht⟩

theorem sameCtrl_setVs (q : Pack) (d L : Nat) (xs : List Word) : SameCtrl q (q.setVs d L xs) := by
  induction xs generalizing q d with
  | nil => exact ⟨rfl, rfl, rfl, rfl⟩
  | cons x xs ih =>
    obtain ⟨hid, hc, hm, ht⟩ := ih (q.setV d L x) (d + 1)
    exact ⟨hid, hc, hm, ht⟩

theorem sameCtrl_writeLanes (d : Nat) (res : List (Nat × LaneOut)) (p : Pack) : SameCtrl p (p.writeLanes d res) := by
  induction res generalizing p with
  | nil => exact ⟨rfl, rfl, rfl, rfl⟩
  | cons e res ih => exact (sameCtrl_setVs p d e.1 e.2.vals).trans (ih _)

theorem sameCtrl_setK (p : Pack) (d : Nat) (x : Word) : SameCtrl p (p.setK d x) := by
  unfold Pack.setK
  split <;> exact ⟨rfl, rfl, rfl, rfl⟩

theorem sameCtrl_setS (p : Pack) (d : Nat) (x : Word) : SameCtrl p (p.setS d x) := by
  unfold Pack.setS
  split <;> exact ⟨rfl, rfl, rfl, rfl⟩

theorem Pack.v_setVs (q : Pack) (d L r M : Nat) (xs : List Word) (hL : L < 32) (hM : M < 32) :
    (q.setVs d L xs).v r M = if M = L ∧ d ≤ r ∧ r < d + xs.length then xs.getD (r - d) 0 else q.v r M := by
  induction xs generalizing q d with
  | nil =>
    rw [if_neg fun h => by simp at h; omega]
    rfl
  | cons x xs ih =>
    rw [Pack.setVs, ih, List.length_cons]
    by_cases hML : M = L
    · subst hML
      rcases lt_trichotomy r d with h | rfl | h
      · rw [if_neg (by omega), if_neg (by omega), Pack.v_setV, if_neg (by omega)]
      · simp
      · obtain ⟨j, rfl⟩ : ∃ j, r = d + 1 + j := ⟨r - (d + 1), by omega⟩
        have hj : d + 1 + j - d = j + 1 := by omega
        by_cases hlen : j < xs.length
        · rw [if_pos (by omega), if_pos (by omega), hj]
          simp
        · rw [if_neg (by omega), if_neg (by omega), Pack.v_setV, if_neg (by omega)]
    · rw [if_neg (by omega), if_neg (by omega), Pack.v_setV, if_neg (by omega)]

/-- The registers after the results of lanes are written (R105). -/
theorem Pack.v_writeLanes (d r M : Nat) (ls : List Nat) (g : Nat → LaneOut) (q : Pack) (hls : ∀ L ∈ ls, L < 32) (hM : M < 32) :
    (q.writeLanes d (ls.map fun L => (L, g L))).v r M =
      if M ∈ ls ∧ d ≤ r ∧ r < d + (g M).vals.length then (g M).vals.getD (r - d) 0 else q.v r M := by
  induction ls generalizing q with
  | nil => simp [Pack.writeLanes]
  | cons L ls ih =>
    refine (ih (q.setVs d L (g L).vals) fun K hK => hls K (by simp [hK])).trans ?_
    rw [Pack.v_setVs _ _ _ _ _ _ (hls L (by simp)) hM]
    by_cases hML : M = L
    · subst hML
      by_cases hr : d ≤ r ∧ r < d + (g M).vals.length <;> simp [hr]
    · by_cases hm : M ∈ ls <;> simp [hML, hm]

/-- A result of one word stands in its register. -/
theorem Pack.v_writeLanes_word (p : Pack) (d : Nat) (g : Nat → LaneOut) (x : Nat → Word) (L : Nat) (hL : L ∈ p.lanes) (hg : (g L).vals = [x L]) :
    (p.writeLanes d (p.lanes.map fun M => (M, g M))).v d L = x L := by
  rw [Pack.v_writeLanes d d L p.lanes g p p.lanes_lt (p.lanes_lt L hL), hg]
  simp [hL]

theorem append_words (x : DWord) : ((x >>> 32).setWidth 32 ++ x.setWidth 32 : DWord) = x := by
  refine BitVec.eq_of_getLsbD_eq fun i hi => ?_
  rw [BitVec.getLsbD_append, BitVec.getLsbD_setWidth, BitVec.getLsbD_setWidth, BitVec.getLsbD_ushiftRight]
  by_cases h : i < 32
  · simp [h]
  · simp only [h, if_false]
    have h2 : 32 + (i - 32) = i := by omega
    rw [h2]
    simp only [show i - 32 < 32 by omega, decide_true, Bool.true_and]

/-- A result of a width stands in its register or pair (R103). -/
theorem Pack.opA_writeLanes (p : Pack) (wide : Bool) (d : Nat) (g : Nat → LaneOut) (x : Nat → DWord) (L : Nat) (hL : L ∈ p.lanes)
    (hg : (g L).vals = resWords wide (x L)) :
    (p.writeLanes d (p.lanes.map fun M => (M, g M))).opA wide d L = if wide then (x L).toNat else (x L).toNat % 2 ^ 32 := by
  have hv := fun r => Pack.v_writeLanes d r L p.lanes g p p.lanes_lt (p.lanes_lt L hL)
  simp only [hg] at hv
  cases wide
  · simp [Pack.opA, hv, hL, resWords]
  · simp only [Pack.opA, Pack.v2, hv, hL, resWords, words2]
    simpa using congrArg BitVec.toNat (append_words (x L))

/-! ### The mask of a test -/

theorem getLsbD_laneMask (f : Nat → Bool) (j : Nat) (hj : j < 32) (ls : List Nat) (old : Word) :
    (laneMask old ls f).getLsbD j = if j ∈ ls then f j else old.getLsbD j := by
  induction ls generalizing old with
  | nil => simp [laneMask]
  | cons L ls ih =>
    refine (ih _).trans ?_
    have hbit : ((1#32) <<< L).getLsbD j = decide (j = L) := by
      rw [BitVec.getLsbD_shiftLeft, BitVec.getLsbD_one]
      by_cases h : j = L
      · simp [h, h ▸ hj]
      · simp [h]
        omega
    by_cases hjL : j = L
    · subst hjL
      cases hf : f j <;> simp [hf, hj]
    · have hstep : (if f L then old ||| (1#32 <<< L) else old &&& ~~~(1#32 <<< L)).getLsbD j = old.getLsbD j := by
        split <;> simp only [BitVec.getLsbD_or, BitVec.getLsbD_and, BitVec.getLsbD_not, hbit, hjL, hj] <;> simp
      rw [hstep]
      simp [hjL]

theorem getLsbD_maskWhere (p : Pack) (f : Nat → Bool) (j : Nat) (hj : j < 32) :
    (p.maskWhere f).getLsbD j = true ↔ j ∈ p.lanes ∧ f j = true := by
  rw [Pack.maskWhere, getLsbD_laneMask f j hj]
  by_cases h : j ∈ p.lanes <;> simp [h]

/-! ### The classes of the lanes -/

theorem orCls_lanes (p : Pack) (f : Nat → Nat) : orCls (p.lanes.map fun L => (L, f L)) = allCls p f := by
  unfold orCls allCls
  rw [List.foldl_map]

theorem arithLanes_lanes (p : Pack) (f : Nat → Nat) (addr : Nat) :
    arithLanes (fun _ => addr) (enabled p.r.trapen) (p.lanes.map fun L => (L, f L)) = classLanes p f addr := by
  unfold arithLanes classLanes
  rw [List.filter_map, List.map_map]
  rfl

theorem classLanes_eq_nil (p : Pack) (f : Nat → Nat) (addr : Nat) : classLanes p f addr = [] ↔ Quiet p f := by
  simp [classLanes, Quiet, List.filter_eq_nil_iff]

theorem foldl_or_eq_zero (f : Nat → Nat) (ls : List Nat) (m : Nat) : ls.foldl (fun m L => m ||| f L) m = 0 ↔ m = 0 ∧ ∀ L ∈ ls, f L = 0 := by
  induction ls generalizing m with
  | nil => simp
  | cons L ls ih => simp [ih, Nat.or_eq_zero_iff, and_assoc]

theorem allCls_eq_zero (p : Pack) (f : Nat → Nat) : allCls p f = 0 ↔ ∀ L ∈ p.lanes, f L = 0 := by
  simp [allCls, foldl_or_eq_zero]

theorem quiet_of_allCls_zero (p : Pack) (f : Nat → Nat) (h : allCls p f = 0) : Quiet p f := fun L hL => by
  rw [(allCls_eq_zero p f).mp h L hL, Nat.zero_and]

/-! ### Completion -/

theorem Core.pipe_modPipe (c : Core) (i : Nat) (f : Pipe → Pipe) : (c.modPipe i f).pipe i = f (c.pipe i) := by
  simp [Core.modPipe, Core.pipe]

theorem commits_commitFor (s u : State) (p q : Pack) (cls : Nat) (hid : q.id = p.id) (hs : u.ctxs = s.ctxs) :
    Commits s (u.commitFor q cls).1 p cls := by
  unfold Commits State.commitFor
  rw [hid]
  cases p.id.colour with
  | some c => exact hs
  | none =>
    intro x hx
    have hu : u.ctx p.id.ctx = some x := by rw [State.ctx_congr hs, hx]
    exact ⟨_, Proofs.ctx_modCtx_self u _ _ x hu, rfl⟩

theorem commitFor_zero_ctxs (u : State) (q : Pack) : (u.commitFor q 0).1.ctxs = u.ctxs := by
  unfold State.commitFor
  cases q.id.colour with
  | some c => rfl
  | none => exact u.commit_zero _

theorem commitFor_pack (u : State) (q : Pack) (cls : Nat) : (u.commitFor q cls).2.r = q.r ∧ (u.commitFor q cls).2.m = q.m ∧
    (u.commitFor q cls).2.c.st = q.c.st ∧ (u.commitFor q cls).2.c.pc = q.c.pc ∧ (u.commitFor q cls).2.c.replay = q.c.replay := by
  unfold State.commitFor
  cases q.id.colour <;> exact ⟨rfl, rfl, rfl, rfl, rfl⟩

section
variable {s : State} {p q : Pack} {len occ : Nat} {fp : Bool} {f : Nat → Nat} {addr : Nat}

/-- The completion of the lanes' instruction, by the pack before it (R99, R104). -/
theorem completeAt_eq (h : SameCtrl p q) : s.completeAt q len occ fp (fun _ => addr) (p.lanes.map fun L => (L, f L)) =
    s.completeWith q len occ fp (allCls p f) (classLanes p f addr) := by
  obtain ⟨-, -, -, ht⟩ := h
  unfold State.completeAt
  rw [orCls_lanes, ht, arithLanes_lanes]

/-- Where no lane raises an enabled class, and it takes 1 ck or raises none, the pack goes past with its classes committed. -/
theorem completeWith_past (h : SameCtrl p q) (hq : Quiet p f) (hocc : occ ≤ 1 ∨ allCls p f = 0) :
    ∃ u, (s.completeWith q len occ fp (allCls p f) (classLanes p f addr)).pack s.cur = some u ∧ u.r = q.r ∧ u.m = q.m ∧ Past p u len ∧
      Commits s (s.completeWith q len occ fp (allCls p f) (classLanes p f addr)) p (allCls p f) ∧
      (allCls p f = 0 → (s.completeWith q len occ fp (allCls p f) (classLanes p f addr)).ctxs = s.ctxs) := by
  obtain ⟨hid, hc, hm, -⟩ := h
  unfold State.completeWith
  rw [if_pos (by simpa using hocc), (classLanes_eq_nil p f addr).mpr hq]
  set s1 := s.occupy s.cur _ with hs1
  obtain ⟨hr, hmm, hst, hpc, hre⟩ := commitFor_pack s1 q (allCls p f)
  refine ⟨(s1.commitFor q (allCls p f)).2.advance len, State.pack_setPack _ _ _, by rw [Pack.r_advance, hr], by rw [Pack.m_advance, hmm],
    Proofs.past_advance p _ (by rw [hst, hc]) (by rw [hpc, hc]) (by rw [hre, hc]) len,
    commits_commitFor s s1 p q _ hid rfl, fun h0 => ?_⟩
  rw [h0]
  exact commitFor_zero_ctxs s1 q

/-- One of more ck that raises a class stands until its last ck. -/
theorem completeWith_stays (h : SameCtrl p q) (hocc : ¬(occ ≤ 1 ∨ allCls p f = 0)) :
    (s.completeWith q len occ fp (allCls p f) (classLanes p f addr)).pack s.cur = some q ∧
      Stays s (s.completeWith q len occ fp (allCls p f) (classLanes p f addr)) p q len occ (allCls p f) (classLanes p f addr) := by
  obtain ⟨hid, hc, hm, -⟩ := h
  unfold State.completeWith
  rw [if_neg (by simpa using hocc)]
  refine ⟨(State.pack_modPipe _ _ _ _ _).trans (State.pack_setPack _ _ _), hc, rfl, ?_⟩
  simp [State.modPipe, Core.pipe_modPipe, hid]

end

section
variable {s : State} {p : Pack} {i : Instr} {len occ : Nat} {fp : Bool} {f : Nat → Nat} {addr : Nat} {g : Pack → State} {q : Pack}

/-- An instruction that completes with the lanes' classes, where none is enabled. -/
theorem runs_of_completeAt {Q : State → Pack → Prop} (hexec : exec i s = issue s i g) (hsame : SameCtrl p q)
    (hg : g p = s.completeAt q len occ fp (fun _ => addr) (p.lanes.map fun L => (L, f L))) (hocc : occ ≤ 1 ∨ allCls p f = 0) (hquiet : Quiet p f)
    (hQ : ∀ t u, Commits s t p (allCls p f) → (allCls p f = 0 → t.ctxs = s.ctxs) → u.r = q.r → u.m = q.m → Q t u) : Claims.Runs s p i len Q := by
  intro hready
  obtain ⟨u, hu, hr, hm, hpast, hcom, hctx⟩ := completeWith_past (s := s) (len := len) (fp := fp) (addr := addr) hsame hquiet hocc
  refine ⟨_, u, ?_, hu, hpast, hQ _ u hcom hctx hr hm⟩
  rw [hexec, Proofs.issue_of_ready hready, hg, completeAt_eq hsame]

/-- The same for an instruction of `occ` ck. -/
theorem runsLong_of_completeAt {Q : Pack → Prop} (hexec : exec i s = issue s i g) (hsame : SameCtrl p q)
    (hg : g p = s.completeAt q len occ fp (fun _ => addr) (p.lanes.map fun L => (L, f L))) (hQ : ∀ u, u.r = q.r → Q u) :
    RunsLong s p i len occ f addr Q := by
  intro hready hq
  have hexec : exec i s = .next (s.completeWith q len occ fp (allCls p f) (classLanes p f addr)) := by
    rw [hexec, Proofs.issue_of_ready hready, hg, completeAt_eq hsame]
  by_cases hocc : occ ≤ 1 ∨ allCls p f = 0
  · have hquiet : Quiet p f := hocc.elim hq (quiet_of_allCls_zero p f)
    obtain ⟨u, hu, hr, hm, hpast, hcom, -⟩ := completeWith_past (s := s) (len := len) (fp := fp) (addr := addr) hsame hquiet hocc
    exact ⟨_, u, hexec, hu, hQ u hr, by rw [if_pos hocc]; exact ⟨hpast, hcom⟩⟩
  · obtain ⟨hp, hst⟩ := completeWith_stays (s := s) (len := len) (fp := fp) (addr := addr) hsame hocc
    exact ⟨_, q, hexec, hp, hQ q rfl, by rw [if_neg hocc]; exact hst⟩

/-- An instruction of 1 ck whose lanes raise an enabled class writes its results, commits its classes and traps (R99). -/
theorem traps_of_completeAt {Q : State → Pack → Prop} (hexec : exec i s = issue s i g) (hready : Ready s i p) (hsame : SameCtrl p q)
    (hg : g p = s.completeAt q len occ fp (fun _ => addr) (p.lanes.map fun L => (L, f L))) (hocc : occ ≤ 1) (hq : ¬Quiet p f)
    (hreplay : p.c.replay = []) (hc : p.id.colour = none)
    (hQ : ∀ t u, Commits s t p (allCls p f) → u.r = q.r → Q t u) : Traps s i p (classLanes p f addr) Q := by
  have hexec : exec i s = .next (s.completeWith q len occ fp (allCls p f) (classLanes p f addr)) := by
    rw [hexec, Proofs.issue_of_ready hready, hg, completeAt_eq hsame]
  obtain ⟨hid, hcc, hm, -⟩ := hsame
  have hlate : (decide (occ ≤ 1) || allCls p f == 0) = true := by simp [hocc]
  obtain ⟨l, ls, hls⟩ := List.exists_cons_of_ne_nil (mt (classLanes_eq_nil p f addr).mp hq)
  unfold State.completeWith at hexec
  dsimp only at hexec
  rw [if_pos hlate] at hexec
  set s1 := s.occupy s.cur _ with hs1
  have hcommit : s1.commitFor q (allCls p f) = (s1.commit p.id.ctx (allCls p f), q) := by
    unfold State.commitFor
    rw [hid, hc]
  obtain ⟨u, x, heq, ⟨hr, -, -⟩, hst, hidx, hentry, hx, hxi, hxl, hxo⟩ :=
    (s1.commit p.id.ctx (allCls p f)).trapIssue_report q len (classLanes p f addr) (by rw [hcc, hreplay]) (by rw [hid, hc])
  have hfin : s1.finishLane s.cur q len (allCls p f) (classLanes p f addr) = (s1.commit p.id.ctx (allCls p f)).setPack s.cur u := by
    refine Eq.trans ?_ heq
    unfold State.finishLane
    rw [hcommit, hls]
    rfl
  rw [hfin] at hexec
  refine ⟨_, u, x, hexec, State.pack_setPack _ _ _, hst, by rw [hidx, hcc], by rw [hentry, hcc], hx, by rw [hxi, hcc], hxl, ?_, hQ _ u ?_ hr⟩
  · rw [← hcc]
    exact hxo
  · have hcom := commits_commitFor s s1 p q (allCls p f) hid rfl
    rw [hcommit] at hcom
    exact hcom

/-- A lane instruction completes where its lanes raise no enabled class. -/
theorem runs_of_laneOp {Q : State → Pack → Prop} {d : Nat} {F : Pack → Nat → LaneOut} (hexec : exec i s = laneOp s i d 1 fp F)
    (hlen : instrLen i = len) (hquiet : Quiet p fun L => (F p L).cls)
    (hQ : ∀ t u, Commits s t p (allCls p fun L => (F p L).cls) → ((allCls p fun L => (F p L).cls) = 0 → t.ctxs = s.ctxs) →
      u.r = (p.writeLanes d (p.lanes.map fun L => (L, F p L))).r → u.m = p.m → Q t u) : Claims.Runs s p i len Q := by
  subst hlen
  have hsame := sameCtrl_writeLanes d (p.lanes.map fun L => (L, F p L)) p
  refine runs_of_completeAt (fp := fp) (addr := 0) hexec hsame ?_ (.inl le_rfl) hquiet fun t u hcom hctx hr hm => hQ t u hcom hctx hr ?_
  · dsimp only
    rw [List.map_map]
    rfl
  · obtain ⟨-, -, hmm, -⟩ := hsame
    rw [hm, hmm]

/-- An FP32 instruction of lanes, by the results of its lanes. -/
theorem fpRuns_of_laneOp {d : Nat} {F : Pack → Nat → LaneOut} {r : Nat → FR} (hexec : exec i s = laneOp s i d 1 fp F)
    (hF : ∀ L ∈ p.lanes, F p L = (r L).lane) (hlen : instrLen i = 1) : FpRuns s p i d r := by
  intro hquiet
  have hcls : allCls p (fun L => (F p L).cls) = allCls p fun L => (r L).cls :=
    List.foldl_ext _ _ _ fun m L hL => congrArg (fun o : LaneOut => m ||| o.cls) (hF L hL)
  have hq : Quiet p fun L => (F p L).cls := fun L hL => (congrArg (fun o : LaneOut => o.cls &&& _) (hF L hL)).trans (hquiet L hL)
  refine runs_of_laneOp hexec hlen hq fun t u hcom _ hr _ => ⟨hcls ▸ hcom, fun L hL => ?_⟩
  rw [← Pack.v_writeLanes_word p d (F p) (fun L => BitVec.ofNat 32 (r L).bits) L hL (by rw [hF L hL]; rfl), Pack.v, hr, Pack.v]

end

end Sys2Proof.Machine
end

section
/-! SUPPORT. Exact sums and products (R121, R122), roundings to an integer (R83, R126), and what the marks of a result leave of its
rounding (R81, R93). -/

open Sys2Proof.Claims

namespace Sys2Proof.Machine

/-! ### Exact sums and products -/

theorem num_scaled (n : Bool) (m : Nat) (e at_ : Int) (h : at_ ≤ e) : (scaled n m e at_ : ℚ) * 2 ^ at_ = num n m e := by
  obtain ⟨k, rfl⟩ : ∃ k : Nat, e = at_ + k := ⟨(e - at_).toNat, by omega⟩
  rw [num_eq, two_zpow_add, scaled, add_sub_cancel_left, Int.toNat_natCast]
  cases n <;> simp [signum] <;> ring

/-- An integer with its sign taken apart. -/
theorem num_natAbs (t : Int) (e : Int) : num (decide (t < 0)) t.natAbs e = t * 2 ^ e := by
  rw [num_eq, ← mul_assoc]
  congr 1
  rcases Int.lt_or_le t 0 with h | h
  · rw [decide_eq_true h, Nat.cast_natAbs, abs_of_neg h]
    simp [signum]
  · rw [decide_eq_false (not_lt.mpr h), Nat.cast_natAbs, abs_of_nonneg h]
    simp [signum]

/-- The sum of two finite numbers is a finite number (R121). -/
theorem addFin_exact (rm : RM) (nx : Bool) (mx : Nat) (ex : Int) (ny : Bool) (my : Nat) (ey : Int) :
    ∃ n m e, addFin rm nx mx ex ny my ey = .fin n m e ∧ num n m e = num nx mx ex + num ny my ey := by
  have hsum : ((scaled nx mx ex (min ex ey) + scaled ny my ey (min ex ey) : Int) : ℚ) * 2 ^ min ex ey = num nx mx ex + num ny my ey := by
    rw [Int.cast_add, add_mul, num_scaled _ _ _ _ (min_le_left _ _), num_scaled _ _ _ _ (min_le_right _ _)]
  unfold addFin
  dsimp only
  split
  next h0 => exact ⟨_, 0, _, rfl, by rw [← hsum, h0]; simp [num]⟩
  next => exact ⟨_, _, _, rfl, by rw [num_natAbs, hsum]⟩

theorem num_mul (nx : Bool) (mx : Nat) (ex : Int) (ny : Bool) (my : Nat) (ey : Int) :
    num (nx != ny) (mx * my) (ex + ey) = num nx mx ex * num ny my ey := by
  rw [num_eq, num_eq, num_eq, zpow_add₀ (by norm_num)]
  cases nx <;> cases ny <;> simp [signum] <;> ring

/-! ### Roundings to an integer -/

/-- The integer of a magnitude's neighbours that the mode takes, with its sign (R79). -/
theorem intRounded_of_neighbour (rm : RM) (neg : Bool) (X : ℚ) (Q R : Nat) (hlow : (Q : ℚ) ≤ X) (hhigh : X < Q + 1)
    (h : R = Q ∧ ¬TakesUpper rm neg Q Q (Q + 1) X ∨ R = Q + 1 ∧ TakesUpper rm neg Q Q (Q + 1) X) :
    IntRounded rm (signum neg * X) (if neg then -(R : Int) else R) := by
  have hQ : (0 : ℚ) ≤ Q := Nat.cast_nonneg Q
  have hdist : |signum neg * X - ((if neg then -(R : Int) else R : Int) : ℚ)| = |X - R| := by
    cases neg
    · simp [signum]
    · rw [← abs_neg]
      congr 1
      simp [signum]
      ring
  have hparity : (if neg then -(R : Int) else R) % 2 = 0 ↔ R % 2 = 0 := by cases neg <;> simp <;> omega
  cases rm with
  | rne =>
    unfold IntRounded
    dsimp only
    rw [hdist, hparity]
    unfold TakesUpper at h
    rcases h with ⟨rfl, hno⟩ | ⟨rfl, hyes⟩
    · have hle : 2 * X ≤ R + (R + 1) := not_lt.mp fun hlt => hno (.inl hlt)
      rw [abs_of_nonneg (sub_nonneg.mpr hlow)]
      refine ⟨by linarith, fun htie => ?_⟩
      by_contra hodd
      exact hno (.inr ⟨by linarith, by omega⟩)
    · rw [abs_of_neg (by push_cast; linarith)]
      push_cast
      refine ⟨by rcases hyes with hlt | ⟨heq, -⟩ <;> linarith, fun htie => ?_⟩
      rcases hyes with hlt | ⟨-, hodd⟩
      · linarith
      · omega
  | rtz =>
    obtain ⟨rfl, -⟩ : R = Q ∧ _ := h.resolve_right fun hr => hr.2
    have hX : 0 ≤ X := hQ.trans hlow
    unfold IntRounded
    dsimp only
    cases neg
    · rw [if_pos (by simpa [signum] using hX)]
      simpa [signum] using ⟨hlow, hhigh⟩
    · by_cases h0 : X = 0
      · have hR : R = 0 := by exact_mod_cast le_antisymm (by rw [h0] at hlow; exact hlow) hQ
        simp [h0, hR]
      · have hneg : ¬0 ≤ signum true * X := by simpa [signum] using lt_of_le_of_ne hX (Ne.symm h0)
        rw [if_neg hneg]
        simp only [signum, if_true, neg_mul, one_mul, Int.cast_neg, Int.cast_natCast]
        constructor <;> linarith
  | rup =>
    unfold IntRounded
    unfold TakesUpper at h
    cases neg
    · rcases h with ⟨rfl, hno⟩ | ⟨rfl, -, hne⟩
      · have hX : X = R := by by_contra hne; exact hno ⟨rfl, hne⟩
        simp [signum, hX]
      · have := lt_of_le_of_ne hlow (Ne.symm hne)
        simp only [signum, Bool.false_eq_true, if_false, one_mul, Nat.cast_add, Nat.cast_one, Int.cast_add, Int.cast_one, Int.cast_natCast]
        constructor <;> linarith
    · obtain ⟨rfl, -⟩ : R = Q ∧ _ := h.resolve_right fun hr => by simp at hr
      simp only [signum, if_true, neg_mul, one_mul, Int.cast_neg, Int.cast_natCast]
      constructor <;> linarith
  | rdn =>
    unfold IntRounded
    unfold TakesUpper at h
    cases neg
    · obtain ⟨rfl, -⟩ : R = Q ∧ _ := h.resolve_right fun hr => by simp at hr
      simp only [signum, Bool.false_eq_true, if_false, one_mul, Int.cast_natCast]
      exact ⟨hlow, hhigh⟩
    · rcases h with ⟨rfl, hno⟩ | ⟨rfl, -, hne⟩
      · have hX : X = R := by by_contra hne; exact hno ⟨rfl, hne⟩
        simp [signum, hX]
      · have := lt_of_le_of_ne hlow (Ne.symm hne)
        simp only [signum, if_true, neg_mul, one_mul, Int.cast_neg, Nat.cast_add, Nat.cast_one, Int.cast_add, Int.cast_one, Int.cast_natCast]
        constructor <;> linarith

/-- An exact magnitude stays where it is. -/
theorem intRounded_exact (rm : RM) (neg : Bool) (R : Nat) : IntRounded rm (signum neg * R) (if neg then -(R : Int) else R) :=
  intRounded_of_neighbour rm neg R R R le_rfl (by linarith) (.inl ⟨rfl, not_takesUpper_self _ _ _ _ _ (by linarith)⟩)

theorem signed_cast (neg : Bool) (R : Nat) : ((if neg then -(R : Int) else R : Int) : ℚ) = signum neg * R := by cases neg <;> simp [signum]

/-- What a finite value is rounded to among the integers, and whether it changed (R83, R126). -/
theorem roundInt_spec (rm : RM) (neg : Bool) (m : Nat) (e : Int) : IntRounded rm (num neg m e) (roundInt rm neg m e).1 ∧
    ((roundInt rm neg m e).2 = true ↔ ((roundInt rm neg m e).1 : ℚ) ≠ num neg m e) := by
  unfold roundInt
  rw [num_eq]
  split
  next he =>
    obtain ⟨k, rfl⟩ := Int.eq_ofNat_of_zero_le he
    have hX : (m : ℚ) * 2 ^ (k : Int) = (m * 2 ^ k : Nat) := by rw [zpow_natCast]; push_cast; rfl
    rw [Int.toNat_natCast, hX]
    exact ⟨intRounded_exact rm neg _, by rw [signed_cast]; simp⟩
  next he =>
    obtain ⟨k, hk, rfl⟩ : ∃ k : Nat, 0 < k ∧ e = -(k : Int) := ⟨(-e).toNat, by omega, by omega⟩
    have hpow : (0 : ℚ) < 2 ^ k := by positivity
    have hX : (m : ℚ) = m * 2 ^ (-(k : Int)) * 2 ^ k := by
      rw [zpow_neg, zpow_natCast, mul_assoc, inv_mul_cancel₀ hpow.ne', mul_one]
    obtain ⟨Q, hQ, hQ1, hinx, hcase⟩ := roundMag_between rm neg m k hk false 0 le_rfl one_pos (by simp)
    set X : ℚ := m * 2 ^ (-(k : Int)) with hXdef
    rw [add_zero, hX] at hQ hQ1 hinx hcase
    have hlow : (Q : ℚ) ≤ X := le_of_mul_le_mul_right hQ hpow
    have hhigh : X < Q + 1 := lt_of_mul_lt_mul_right hQ1 hpow.le
    rw [TakesUpper.scale hpow] at hcase
    rw [ne_eq, mul_left_inj' hpow.ne'] at hinx
    rw [neg_neg, Int.toNat_natCast]
    refine ⟨intRounded_of_neighbour rm neg X Q _ hlow hhigh hcase, hinx.trans ?_⟩
    rw [signed_cast, ne_eq, mul_right_inj' (signum_ne_zero neg), not_iff_not]
    rcases hcase with ⟨hR, -⟩ | ⟨hR, hyes⟩
    · rw [hR, eq_comm]
    · have hne : X ≠ Q := fun h => not_takesUpper_self rm neg Q Q (Q + 1) (by linarith) (h ▸ hyes)
      rw [hR]
      push_cast
      exact ⟨fun h => absurd h hne, fun h => absurd h.symm hhigh.ne⟩

/-! ### The marks of a rounding -/

theorem Fmt.write_cls (f : Fmt) (rm : RM) (ftz neg : Bool) (P c : Nat) (hc : c = 0 ∨ c = 0x10 ∨ c = 0x18) :
    (f.write rm ftz neg P c).cls ∈ [0, 0x10, 0x14, 0x18] := by
  unfold Fmt.write
  split
  · simp
  · split
    · simp
    · rcases hc with rfl | rfl | rfl <;> simp

/-- A rounding writes no NaN, and raises no class but OF, UF and NX. -/
theorem Fmt.round_plain (f : Fmt) (hf : f.Sound) (rm : RM) (ftz neg : Bool) (m : Nat) (e : Int) :
    (f.val false (f.round rm ftz neg m e false).bits).isNan = false ∧ (f.round rm ftz neg m e false).bits < 2 ^ (f.eb + f.fb + 1) ∧
      (f.round rm ftz neg m e false).cls ∈ [0, 0x10, 0x14, 0x18] := by
  obtain ⟨T, P, c, -, h0, h1, hr⟩ := f.round_spec hf rm neg m e
  obtain ⟨hnan, hlt, -⟩ := f.val_write hf rm ftz neg P c
  rw [hr]
  refine ⟨hnan, hlt, f.write_cls rm ftz neg P c ?_⟩
  by_cases hX : (m * 2 ^ e : ℚ) = f.mag T
  · exact .inl (h0 hX)
  · exact .inr (h1 hX)

/-- Marking a rounding of operands that are no signalling NaN adds the class IP at most (R81, R93). -/
theorem Fmt.mark_round (f : Fmt) (hf : f.Sound) (rm : RM) (ftz neg : Bool) (m : Nat) (e : Int) (srcs : List FVal)
    (hs : srcs.any FVal.isSig = false) : (f.mark srcs (f.round rm ftz neg m e false)).cls &&& 0x3F = (f.round rm ftz neg m e false).cls := by
  obtain ⟨hnan, -, hcls⟩ := f.round_plain hf rm ftz neg m e
  unfold Fmt.mark
  dsimp only
  rw [hnan, hs]
  generalize f.round rm ftz neg m e false = r at *
  simp only [List.mem_cons, List.not_mem_nil, or_false] at hcls
  cases (f.val false r.bits).isInf && !srcs.any FVal.isInf <;> rcases hcls with h | h | h | h <;> simp [h, Cls.ip]

/-! ### The element types of CVT -/

theorem fmtOf_float (t : ElemTy) (h : t.isFloat = true) :
    fmtOf t = some (formatOf t) ∧ elemWidth t = (formatOf t).eb + (formatOf t).fb + 1 ∧ formatOf t ∈ formats := by
  cases t with
  | f32 | f16 | bf16 | e4m3 | e5m2 => decide
  | _ => cases h

theorem ftzOn_eq (t : ElemTy) : ftzOn t = flushes t := by cases t <;> decide

theorem fmtOf_int (t : ElemTy) (h : t.isInt = true) : fmtOf t = none ∧ elemLo t = (boundsOf t).1 ∧ elemHi t = (boundsOf t).2 := by
  cases t with
  | i32 | n32 | i64 | n64 | i16 | n16 | i8 | n8 => decide
  | _ => cases h

theorem toInt_ofNat_eq (w y : Nat) (hw : 0 < w) :
    (BitVec.ofNat w y).toInt = if y % 2 ^ w ≥ 2 ^ (w - 1) then ((y % 2 ^ w : Nat) : Int) - 2 ^ w else (y % 2 ^ w : Nat) := by
  obtain ⟨k, rfl⟩ : ∃ k, w = k + 1 := ⟨w - 1, by omega⟩
  have hpow : 2 ^ (k + 1) = 2 * 2 ^ k := Nat.pow_succ'
  rw [BitVec.toInt_eq_toNat_cond, BitVec.toNat_ofNat, Nat.add_sub_cancel]
  rw [hpow]
  split
  · rw [if_neg (by omega)]
  · rw [if_pos (by omega)]
    push_cast
    rw [pow_succ']

theorem elemInt_signed (t : ElemTy) (h : elemSigned t = true) (x : Nat) : elemInt t x =
    if x % 2 ^ elemWidth t ≥ 2 ^ (elemWidth t - 1) then ((x % 2 ^ elemWidth t : Nat) : Int) - 2 ^ elemWidth t else (x % 2 ^ elemWidth t : Nat) := by
  simp [elemInt, h]

theorem elemInt_eq (t : ElemTy) (h : t.isInt = true) (x : Nat) : elemInt t x = sourceInt t x := by
  cases t with
  | i32 => exact (elemInt_signed _ rfl x).trans (toInt_ofNat_eq 32 x (by decide)).symm
  | i64 => exact (elemInt_signed _ rfl x).trans (toInt_ofNat_eq 64 x (by decide)).symm
  | i16 => exact (elemInt_signed _ rfl x).trans (toInt_ofNat_eq 16 x (by decide)).symm
  | i8 => exact (elemInt_signed _ rfl x).trans (toInt_ofNat_eq 8 x (by decide)).symm
  | n32 | n64 | n16 | n8 => rfl
  | _ => cases h

end Sys2Proof.Machine
end

section
/-! PROOF. Exact operands before a rounding, and CVT (R83, R121, R122, R131). -/

open Sys2Proof Sys2Proof.Machine Sys2Proof.Claims

namespace Sys2Proof.Proofs

theorem sumsAndProductsAreExact : SumsAndProductsAreExactBeforeRounding := by
  unfold SumsAndProductsAreExactBeforeRounding
  intro rm n1 n2 n3 m1 m2 m3 e1 e2 e3 x y z f hf ftz c
  refine ⟨?_, ⟨_, _, _, num_mul n1 m1 e1 n2 m2 e2, rfl⟩, ?_⟩
  · obtain ⟨n, m, e, hadd, hnum⟩ := addFin_exact rm n1 m1 e1 n2 m2 e2
    exact ⟨n, m, e, hnum, congrArg (fun v => (c.put v).bits) hadd⟩
  · obtain ⟨n, m, e, hadd, hnum⟩ := addFin_exact rm (n1 != n2) (m1 * m2) (e1 + e2) n3 m3 e3
    exact ⟨n, m, e, by rw [hnum, num_mul], congrArg (fun v => (c.put v).bits) hadd⟩

theorem workedConversions : WorkedConversions := by
  unfold WorkedConversions
  intro rm
  cases rm <;> decide

/-- What a NaN gives in a format (R75, R81). -/
theorem mark_nan_float (dst : ElemTy) (h : dst.isFloat = true) (sig : Bool) :
    (formatOf dst).mark [.nan sig] { bits := (formatOf dst).nan, cls := 0 } = { bits := if dst = .e4m3 then 0x7F
      else (2 ^ (formatOf dst).eb - 1) * 2 ^ (formatOf dst).fb + 2 ^ ((formatOf dst).fb - 1), cls := if sig then 1 else 0 } := by
  cases dst with
  | f32 | f16 | bf16 | e4m3 | e5m2 => cases sig <;> decide
  | _ => cases h

/-- What an infinity gives in a format, of which E4M3 has none (R75, R82). -/
theorem mark_inf_float (dst : ElemTy) (h : dst.isFloat = true) (n : Bool) :
    (formatOf dst).mark [.inf n] (if (formatOf dst).ieee then { bits := (formatOf dst).inf n, cls := 0 }
      else { bits := (formatOf dst).nan, cls := Cls.iv }) = if dst = .e4m3 then { bits := 0x7F, cls := 0x21 }
      else { bits := (if n then 2 ^ ((formatOf dst).eb + (formatOf dst).fb) else 0) + (2 ^ (formatOf dst).eb - 1) * 2 ^ (formatOf dst).fb, cls := 0 } := by
  cases dst with
  | f32 | f16 | bf16 | e4m3 | e5m2 => cases n <;> decide
  | _ => cases h

theorem conversionValues : ConversionValues := by
  unfold ConversionValues
  intro dst src rm ftz x fs fd v out lo hi
  refine ⟨fun hsrc hdst => ?_, fun hsrc hdst => ?_, fun hsrc hdst => ?_, fun hsrc hdst => ?_⟩
  · obtain ⟨hfs, hws, -⟩ := fmtOf_float src hsrc
    obtain ⟨hfd, -, hmem⟩ := fmtOf_float dst hdst
    have hconv : convert dst src rm ftz x =
        (BitVec.ofNat 64 (fd.mark [v] (({ fmt := fd, rm, ftz := ftz && flushes dst } : FCfg).put v)).bits,
          (fd.mark [v] (({ fmt := fd, rm, ftz := ftz && flushes dst } : FCfg).put v)).cls) := by
      unfold convert
      rw [hfs, hfd]
      dsimp only
      rw [ftzOn_eq, ftzOn_eq, hws]
    have hpair {q r : FR} (h : q = r) := congrArg (fun r : FR => (BitVec.ofNat 64 r.bits, r.cls)) h
    rw [hconv]
    refine ⟨fun hnan => ?_, fun n hv => ?_, fun n m e hv => ?_⟩
    · cases hv : v with
      | nan sig => exact hpair (mark_nan_float dst hdst sig)
      | inf n => rw [hv] at hnan; cases hnan
      | fin n m e => rw [hv] at hnan; cases hnan
    · rw [hv]
      refine (hpair (mark_inf_float dst hdst n)).trans ?_
      split <;> rfl
    · rw [hv]
      exact ⟨rfl, fd.mark_round (Fmt.Sound.of_mem hmem) rm _ n m e _ rfl⟩
  · obtain ⟨hfs, hws, -⟩ := fmtOf_float src hsrc
    obtain ⟨hfd, hlo, hhi⟩ := fmtOf_int dst hdst
    have hconv : convert dst src rm ftz x = (out (toInt rm lo hi v).1, (toInt rm lo hi v).2) := by
      unfold convert
      rw [hfs, hfd]
      dsimp only
      rw [ftzOn_eq, hws, hlo, hhi]
      rfl
    rw [hconv]
    refine ⟨fun hv => ?_, fun n hv => by rw [hv]; rfl, fun n m e hv => ?_⟩
    · cases hval : v with
      | nan sig => rfl
      | inf n => rw [hval] at hv; cases hv
      | fin n m e => rw [hval] at hv; cases hv
    · obtain ⟨hround, hexact⟩ := roundInt_spec rm n m e
      rw [hv]
      refine ⟨_, hround, ?_⟩
      unfold toInt
      dsimp only
      split
      · rfl
      · split
        · rfl
        · refine ⟨rfl, ?_⟩
          cases hinx : (roundInt rm n m e).2
          · rw [hinx] at hexact
            exact .inl ⟨rfl, by simpa using hexact⟩
          · exact .inr ⟨rfl, hexact.mp hinx⟩
  · obtain ⟨hfs, -, -⟩ := fmtOf_int src hsrc
    have hfloat : dst.isFloat = true := by rcases hdst with rfl | rfl | rfl <;> rfl
    obtain ⟨hfd, -, -⟩ := fmtOf_float dst hfloat
    refine ⟨_, _, 0, (num_natAbs (sourceInt src x) 0).trans (by simp), fun h0 => ?_, ?_⟩
    · rw [Int.natAbs_eq_zero] at h0
      simp [h0]
    · unfold convert
      rw [hfs, hfd, elemInt_eq src hsrc]
      rfl
  · obtain ⟨hfs, -, -⟩ := fmtOf_int src hsrc
    obtain ⟨hfd, hlo, hhi⟩ := fmtOf_int dst hdst
    unfold convert
    rw [hfs, hfd, elemInt_eq src hsrc]
    dsimp only
    rw [hlo, hhi]
    rfl

/-- Settles O39: operands that are finite give one finite exact number, which is rounded once; a conversion is one rounding of its source. -/
theorem exactBeforeRounding : Obligations.ExactBeforeRounding := by
  unfold Obligations.ExactBeforeRounding
  exact ⟨sumsAndProductsAreExact, workedConversions, conversionValues⟩

end Sys2Proof.Proofs
end

section
/-! SUPPORT. The order of the FP32 patterns (R123), exact roundings, and the FP32 operands that are no finite number (R81, R93, R125). -/

open Sys2Proof.Claims

namespace Sys2Proof.Machine

/-! ### The FP32 pattern of a value -/

theorem sound_f32 : f32.Sound := .of_mem (by decide)

theorem limit_f32 : f32.limit = 0x7F800000 := by decide

theorem testBit_31 (x : Nat) (hx : x < 2 ^ 32) : x.testBit 31 = decide (2 ^ 31 ≤ x) := by
  rw [Nat.testBit_eq_decide_div_mod_eq]
  exact decide_eq_decide.mpr (by omega)

/-- What an FP32 pattern stands for (R74, R75, R80). -/
theorem val_f32 (ftz : Bool) (x : Nat) (hx : x < 2 ^ 32) : f32.val ftz x =
    if x % 2 ^ 31 < 0x7F800000 then
      .fin (decide (2 ^ 31 ≤ x)) (if ftz = true ∧ x % 2 ^ 31 < 2 ^ 23 then 0 else f32.mant (x % 2 ^ 31)) (f32.low + f32.rise (x % 2 ^ 31))
    else if x % 2 ^ 31 = 0x7F800000 then .inf (decide (2 ^ 31 ≤ x))
    else .nan (!x.testBit 22) := by
  rw [f32.val_eq sound_f32]
  rw [limit_f32, show f32.eb + f32.fb = 31 from rfl, show f32.fb = 23 from rfl, show f32.ieee = true from rfl, testBit_31 x hx]
  simp only [true_and, Bool.true_and]

theorem isNan_val_f32 (ftz : Bool) (x : Nat) (hx : x < 2 ^ 32) : (f32.val ftz x).isNan = nan32 x := by
  rw [val_f32 ftz x hx, nan32]
  split
  · exact (decide_eq_false (by omega)).symm
  · split
    · exact (decide_eq_false (by omega)).symm
    · exact (decide_eq_true (by omega)).symm

theorem isSig_val_f32 (ftz : Bool) (x : Nat) (hx : x < 2 ^ 32) : (f32.val ftz x).isSig = sig32 x := by
  have hbit : (!x.testBit 22) = decide (x % 2 ^ 23 < 2 ^ 22) := by
    rw [Nat.testBit_eq_decide_div_mod_eq, ← decide_not]
    exact decide_eq_decide.mpr (by omega)
  rw [sig32, ← isNan_val_f32 ftz x hx, ← hbit, val_f32 ftz x hx]
  split
  · rfl
  · split <;> rfl

theorem read32_lt (ftz : Bool) (x : Nat) (hx : x < 2 ^ 32) : read32 ftz x < 2 ^ 32 := by
  unfold read32
  split <;> omega

/-- The operand as it is read has the value of the operand under FTZ (R80). -/
theorem val_read32 (ftz : Bool) (x : Nat) (hx : x < 2 ^ 32) : f32.val ftz x = f32.val false (read32 ftz x) := by
  rw [val_f32 false _ (read32_lt ftz x hx), val_f32 ftz x hx]
  unfold read32
  by_cases h : ftz = true ∧ x / 2 ^ 23 % 256 = 0
  · have hlow : x % 2 ^ 31 < 2 ^ 23 := by omega
    have hrise : f32.rise (x % 2 ^ 31) = 0 := by
      rw [Fmt.rise, show f32.fb = 23 from rfl]
      omega
    have hzero : x / 2 ^ 31 * 2 ^ 31 % 2 ^ 31 = 0 := by omega
    have hsign : (2 ^ 31 ≤ x / 2 ^ 31 * 2 ^ 31) = (2 ^ 31 ≤ x) := propext (by omega)
    have hrise0 : f32.rise 0 = 0 := rfl
    have hmant0 : f32.mant 0 = 0 := rfl
    simp only [h, hlow, hrise, hzero, hrise0, hmant0, if_true, and_self, show x % 2 ^ 31 < 0x7F800000 by omega, Bool.false_eq_true, false_and,
      if_false, Nat.ofNat_pos]
    simp
    omega
  · have hread : ¬(ftz = true ∧ x % 2 ^ 31 < 2 ^ 23) := fun hh => h ⟨hh.1, by omega⟩
    simp only [h, hread, if_false, Bool.false_eq_true, false_and]

/-- The pattern that FMIN and FMAX write for an operand is the operand as it is read. -/
theorem flushed_f32 (ftz : Bool) (x : Nat) (hx : x < 2 ^ 32) (h : (f32.val ftz x).isNan = false) : f32.flushed (f32.val ftz x) x = read32 ftz x := by
  rw [isNan_val_f32 ftz x hx] at h
  have hle : x % 2 ^ 31 ≤ 0x7F800000 := by simpa [nan32] using h
  have hmant (P : Nat) : f32.mant P = 0 ↔ P = 0 := by
    rw [Fmt.mant, Fmt.rise, show f32.fb = 23 from rfl]
    omega
  rw [val_f32 ftz x hx]
  unfold read32
  split
  next hfin =>
    by_cases hz : (if ftz = true ∧ x % 2 ^ 31 < 2 ^ 23 then 0 else f32.mant (x % 2 ^ 31)) = 0
    · rw [hz]
      have hcases : ftz = true ∧ x % 2 ^ 31 < 2 ^ 23 ∨ x % 2 ^ 31 = 0 := by
        by_cases hf : ftz = true ∧ x % 2 ^ 31 < 2 ^ 23
        · exact .inl hf
        · rw [if_neg hf, hmant] at hz
          exact .inr hz
      rw [Fmt.flushed, Fmt.sign, show f32.eb + f32.fb = 31 from rfl]
      have hsign : (if decide (2 ^ 31 ≤ x) = true then 2 ^ 31 else 0) = x / 2 ^ 31 * 2 ^ 31 := by
        by_cases h31 : 2 ^ 31 ≤ x
        · rw [if_pos (decide_eq_true h31)]
          omega
        · rw [if_neg (by simpa using h31)]
          omega
      rw [hsign]
      rcases hcases with ⟨hf, hlow⟩ | h0
      · rw [if_pos ⟨hf, by omega⟩]
      · split
        · rfl
        · omega
    · obtain ⟨j, hj⟩ := Nat.exists_eq_succ_of_ne_zero hz
      have hno : ¬(ftz = true ∧ x / 2 ^ 23 % 256 = 0) := fun hh => hz (if_pos ⟨hh.1, by omega⟩)
      rw [hj, if_neg hno]
      rfl
  next hinf =>
    rw [if_pos (by omega), if_neg (fun hh => by omega)]
    rfl

/-! ### The order of the patterns -/

/-- The integers of two scaled numbers at their smaller exponent compare as the numbers do. -/
theorem scaled_lt (nx : Bool) (mx : Nat) (ex : Int) (ny : Bool) (my : Nat) (ey : Int) :
    (scaled nx mx ex (min ex ey) < scaled ny my ey (min ex ey) ↔ num nx mx ex < num ny my ey) ∧
    (scaled nx mx ex (min ex ey) = scaled ny my ey (min ex ey) ↔ num nx mx ex = num ny my ey) := by
  have hpos := two_zpow_pos (min ex ey)
  rw [← num_scaled _ _ _ _ (min_le_left ex ey), ← num_scaled _ _ _ _ (min_le_right ex ey), mul_lt_mul_iff_left₀ hpos, mul_left_inj' hpos.ne']
  exact ⟨by exact_mod_cast Iff.rfl, by exact_mod_cast Iff.rfl⟩

/-- Finite patterns compare by their signs and the rest of them (R123). -/
theorem Fmt.lt0_fin (f : Fmt) (n k : Bool) (P Q : Nat) :
    (FVal.fin n (f.mant P) (f.low + f.rise P)).lt0 (.fin k (f.mant Q) (f.low + f.rise Q)) =
      (if n then (if k then decide (Q < P) else true) else if k then false else decide (P < Q)) := by
  obtain ⟨hlt, heq⟩ := scaled_lt n (f.mant P) (f.low + f.rise P) k (f.mant Q) (f.low + f.rise Q)
  rw [f.num_pattern, f.num_pattern] at hlt heq
  have hP := f.mag_nonneg P
  have hQ := f.mag_nonneg Q
  have hmono := f.mag_strictMono.lt_iff_lt (a := P) (b := Q)
  have hmono' := f.mag_strictMono.lt_iff_lt (a := Q) (b := P)
  rw [Bool.eq_iff_iff]
  unfold FVal.lt0
  dsimp only
  rw [Bool.or_eq_true, Bool.and_eq_true, Bool.and_eq_true, beq_iff_eq, decide_eq_true_eq, hlt, heq]
  cases n <;> cases k <;> simp [signum]
  · exact hmono
  · linarith
  · rcases (add_nonneg hP hQ).eq_or_lt with h | h
    · exact .inr (by linarith)
    · exact .inl (by linarith)
  · exact hmono'

/-- The place of a pattern in the order, by its sign and the rest of it. -/
theorem order32_eq (x : Nat) (hx : x < 2 ^ 32) : ∃ n P, decide (2 ^ 31 ≤ x) = n ∧ x % 2 ^ 31 = P ∧
    order32 x = if n then -(P : Int) - 1 else P := by
  refine ⟨_, _, rfl, rfl, ?_⟩
  unfold order32
  by_cases h : 2 ^ 31 ≤ x
  · have hsub : x - 2 ^ 31 = x % 2 ^ 31 := by omega
    rw [if_neg (not_lt.mpr h), hsub, if_pos (decide_eq_true h)]
  · rw [if_pos (not_le.mp h), if_neg (by simpa using h), Nat.mod_eq_of_lt (not_le.mp h)]

/-- FP32 patterns that are no NaN compare by their order (R123). -/
theorem lt0_val_f32 (x y : Nat) (hx : x < 2 ^ 32) (hy : y < 2 ^ 32) (hnx : nan32 x = false) (hny : nan32 y = false) :
    (f32.val false x).lt0 (f32.val false y) = decide (order32 x < order32 y) := by
  obtain ⟨n, P, hnP, hP, hx0⟩ := order32_eq x hx
  obtain ⟨k, Q, hkQ, hQ, hy0⟩ := order32_eq y hy
  have hlP : P ≤ 0x7F800000 := hP ▸ (by simpa [nan32] using hnx)
  have hlQ : Q ≤ 0x7F800000 := hQ ▸ (by simpa [nan32] using hny)
  rw [val_f32 false x hx, val_f32 false y hy, hP, hQ, hnP, hkQ, hx0, hy0]
  simp only [Bool.false_eq_true, false_and, if_false]
  rw [Bool.eq_iff_iff, decide_eq_true_eq]
  rcases Nat.lt_or_eq_of_le hlP with hfP | rfl
  · rw [if_pos hfP]
    rcases Nat.lt_or_eq_of_le hlQ with hfQ | rfl
    · rw [if_pos hfQ, Fmt.lt0_fin]
      cases n <;> cases k <;> simp
      omega
    · rw [if_neg (lt_irrefl _), if_pos rfl]
      cases n <;> cases k <;> simp [FVal.lt0] <;> omega
  · rw [if_neg (lt_irrefl _), if_pos rfl]
    rcases Nat.lt_or_eq_of_le hlQ with hfQ | rfl
    · rw [if_pos hfQ]
      cases n <;> cases k <;> simp [FVal.lt0] <;> omega
    · rw [if_neg (lt_irrefl _), if_pos rfl]
      cases n <;> cases k <;> simp [FVal.lt0]

theorem order32_inj (x y : Nat) (h : order32 x = order32 y) : x = y := by
  unfold order32 at h
  split at h <;> split at h <;> omega

/-- FMIN and FMAX of two FP32 patterns, by their order (R123). -/
theorem minMax_f32 (ftz greatest : Bool) (x y : Nat) (hx : x < 2 ^ 32) (hy : y < 2 ^ 32) :
    minMax f32 ftz greatest x y = { bits := least32 ftz greatest x y, cls := if sig32 x || sig32 y then 1 else 0 } := by
  unfold minMax least32
  dsimp only
  rw [isSig_val_f32 ftz x hx, isSig_val_f32 ftz y hy]
  refine congrArg (FR.mk · _) ?_
  have hnx := isNan_val_f32 ftz x hx
  have hny := isNan_val_f32 ftz y hy
  rw [hnx, hny]
  split
  · rfl
  · split
    next hne h =>
      have hy0 : nan32 y = false := by simpa [h] using hne
      exact flushed_f32 ftz y hy (by rw [hny, hy0])
    next hne h =>
      have hx0 : nan32 x = false := by simpa using h
      have hfx := flushed_f32 ftz x hx (by rw [hnx, hx0])
      split
      · exact hfx
      next h' =>
        have hy0 : nan32 y = false := by simpa using h'
        have hfy := flushed_f32 ftz y hy (by rw [hny, hy0])
        have hnan (z : Nat) (hz : z < 2 ^ 32) (h0 : nan32 z = false) : nan32 (read32 ftz z) = false := by
          rw [← isNan_val_f32 false _ (read32_lt ftz z hz), ← val_read32 ftz z hz, isNan_val_f32 ftz z hz, h0]
        rw [hfx, hfy, val_read32 ftz x hx, val_read32 ftz y hy,
          lt0_val_f32 _ _ (read32_lt ftz x hx) (read32_lt ftz y hy) (hnan x hx hx0) (hnan y hy hy0)]
        rcases lt_trichotomy (order32 (read32 ftz x)) (order32 (read32 ftz y)) with hlt | heq | hgt
        · cases greatest <;> simp [hlt, hlt.le]
        · cases greatest <;> simp [order32_inj _ _ heq]
        · cases greatest <;> simp [hgt.not_gt, hgt.not_ge]

theorem least32_lt (ftz greatest : Bool) (x y : Nat) (hx : x < 2 ^ 32) (hy : y < 2 ^ 32) : least32 ftz greatest x y < 2 ^ 32 := by
  have hrx := read32_lt ftz x hx
  have hry := read32_lt ftz y hy
  unfold least32
  dsimp only
  split
  · decide
  · split
    · exact hry
    · split
      · exact hrx
      · split
        · exact hrx
        · exact hry

/-! ### Exact roundings -/

/-- A number of the format is rounded to itself, with no class. -/
theorem Fmt.round_exact (f : Fmt) (hf : f.Sound) (rm : RM) (neg : Bool) (m : Nat) (e : Int) (P : Nat) (hX : (m * 2 ^ e : ℚ) = f.mag P)
    (hP : P < f.limit) : f.round rm false neg m e false = { bits := f.sign neg + P, cls := 0 } := by
  obtain ⟨T, R, c, hch, h0, -, hr⟩ := f.round_spec hf rm neg m e
  obtain ⟨hlow, hhigh, -⟩ := id hch
  rw [hX] at hlow hhigh
  have hT : P = T := by
    have := f.mag_strictMono.le_iff_le.mp hlow
    have := f.mag_strictMono.lt_iff_lt.mp hhigh
    omega
  subst hT
  rw [hr, hch.exact hX, h0 hX, Fmt.write, if_neg (by simp), if_neg (by omega)]

/-- A whole number of at most 24 bits, times a power of 2 within the exponents, is an FP32 number. -/
theorem exists_mag_f32 (j g : Nat) (hj : j ≤ 2 ^ 24) (hlt : (j : ℚ) * 2 ^ (-149 + g : Int) < 2 ^ (128 : Int)) :
    ∃ P, P < f32.limit ∧ f32.mag P = j * 2 ^ (-149 + g : Int) := by
  obtain ⟨P, hP⟩ := f32.exists_mag j hj g
  rw [show f32.low = -149 from rfl] at hP
  refine ⟨P, ?_, hP⟩
  have htop := f32.mag_eq 254 (2 ^ 23) (.inr le_rfl) (by decide)
  rw [show 254 * 2 ^ f32.fb + 2 ^ 23 = f32.limit from rfl, show f32.low + (254 : Nat) = 105 from rfl] at htop
  rw [← f32.mag_strictMono.lt_iff_lt, hP, htop]
  refine hlt.trans_le ?_
  norm_num

/-! ### Operands that are no finite number -/

/-- An operation of which an operand is a NaN gives the canonical NaN, with IV for a signalling one (R81). -/
theorem mark_nan_operands (srcs : List FVal) (h : srcs.any FVal.isNan = true) :
    f32.mark srcs { bits := f32.nan, cls := 0 } = { bits := 0x7FC00000, cls := if srcs.any FVal.isSig then 1 else 0 } := by
  have hnan : (f32.val false f32.nan).isNan = true ∧ (f32.val false f32.nan).isInf = false := by decide
  unfold Fmt.mark
  dsimp only
  rw [h, hnan.1, hnan.2]
  cases srcs.any FVal.isSig <;> simp [f32, Fmt.nan, Cls.iv]

theorem FVal.isNan_of_isSig {v : FVal} (h : v.isSig = true) : v.isNan = true := by
  cases v with
  | nan sig => rfl
  | inf n => cases h
  | fin n m e => cases h

/-- What an FP32 pattern stands for, by its fields (R74). -/
theorem val_f32_fields (ftz : Bool) (x : Nat) : f32.val ftz x =
    if x / 2 ^ 23 % 256 = 255 then if x % 2 ^ 23 = 0 then .inf (x.testBit 31) else .nan (!(x % 2 ^ 23).testBit 22)
    else if x / 2 ^ 23 % 256 = 0 then .fin (x.testBit 31) (if ftz then 0 else x % 2 ^ 23) (-149)
    else .fin (x.testBit 31) (2 ^ 23 + x % 2 ^ 23) ((x / 2 ^ 23 % 256 : Nat) - 127 - 23) := by
  unfold Fmt.val f32
  simp

/-- The class bit of FCLASS from the operand's bits (R125). -/
theorem fclassBit_f32 (ftz : Bool) (x : Nat) (hx : x < 2 ^ 32) : fclassBit (f32.val ftz x) = classBit ftz x := by
  have hneg : x.testBit 31 = decide (x / 2 ^ 31 = 1) := by
    rw [testBit_31 x hx]
    exact decide_eq_decide.mpr (by omega)
  have hquiet : (!(x % 2 ^ 23).testBit 22) = decide (x % 2 ^ 23 < 2 ^ 22) := by
    rw [Nat.testBit_eq_decide_div_mod_eq, ← decide_not]
    exact decide_eq_decide.mpr (by omega)
  have hfrac : x % 2 ^ 23 < 2 ^ 23 := Nat.mod_lt _ (by decide)
  rw [val_f32_fields, hneg, hquiet, classBit]
  generalize x % 2 ^ 23 = fr at *
  generalize x / 2 ^ 23 % 256 = ex at *
  generalize x / 2 ^ 31 = sg at *
  split
  · split
    · simp [fclassBit]
    · simp [fclassBit]
  · split
    · cases ftz
      · have hsub : ¬8388608 ≤ fr := not_le.mpr hfrac
        by_cases h0 : fr = 0 <;> simp [fclassBit, h0, hsub]
      · simp [fclassBit]
    · simp [fclassBit]

end Sys2Proof.Machine
end

section
/-! PROOF. The FP32, half and conversion instructions of the lanes (R121 to R131). -/

open Sys2Proof Sys2Proof.Machine Sys2Proof.Claims

namespace Sys2Proof.Proofs

/-! ### Results by lane -/

theorem modeOf_eq (p : Pack) (r : Rnd) : modeOf p r = p.rm r := by cases r <;> rfl

theorem cfgOf_eq (p : Pack) (f : Fmt) (r : Rnd) : cfgOf p f r = p.cfg f r := by
  rw [cfgOf, modeOf_eq]
  rfl

/-- A lane instruction of one word that raises no class. -/
theorem runsLanes_of_laneOp {s : State} {p : Pack} {i : Instr} {d : Nat} {fp : Bool} (x : Pack → Nat → Word) {Q : Pack → Nat → Prop}
    (hexec : exec i s = laneOp s i d 1 fp fun p L => { vals := [x p L], cls := 0 }) (hlen : instrLen i = 1)
    (hQ : ∀ q, ∀ L ∈ p.lanes, q.v d L = x p L → Q q L) : RunsLanes s p i 1 Q := by
  have h0 : allCls p (fun _ => 0) = 0 := (allCls_eq_zero p _).mpr fun _ _ => rfl
  refine runs_of_laneOp hexec hlen (fun _ _ => Nat.zero_and _) fun t u _ hctx hr _ => ⟨hctx h0, fun L hL => hQ u L hL ?_⟩
  rw [← Pack.v_writeLanes_word p d (fun L => { vals := [x p L], cls := 0 }) (x p) L hL rfl, Pack.v, hr, Pack.v]

theorem floatResults : FloatResults := by
  unfold FloatResults
  intro r d a b s p x y c ftz
  have hc : c = p.cfg f32 r := cfgOf_eq p f32 r
  rw [hc]
  refine ⟨fpRuns_of_laneOp rfl (fun L _ => rfl) rfl, fpRuns_of_laneOp rfl (fun L _ => rfl) rfl, fpRuns_of_laneOp rfl (fun L _ => rfl) rfl,
    fpRuns_of_laneOp rfl (fun L _ => rfl) rfl, fpRuns_of_laneOp rfl (fun L _ => rfl) rfl, fpRuns_of_laneOp rfl (fun L _ => rfl) rfl,
    fpRuns_of_laneOp rfl (fun L _ => rfl) rfl, fpRuns_of_laneOp rfl (fun L _ => rfl) rfl,
    runsLanes_of_laneOp _ rfl rfl fun _ _ _ h => h, runsLanes_of_laneOp _ rfl rfl fun _ _ _ h => h, runsLanes_of_laneOp _ rfl rfl fun q L _ h => ?_⟩
  rw [h, Pack.fv, fclassBit_f32 _ _ (p.v a L).isLt, BitVec.toNat_ofNat]
  refine Nat.mod_eq_of_lt (Nat.pow_lt_pow_right (by decide) ?_)
  unfold classBit
  dsimp only
  repeat' split
  all_goals decide

/-! ### FCMP, half2 and CVT -/

/-- The class IV of the lanes that a test names. -/
theorem allCls_iv (p : Pack) (iv : Nat → Bool) : allCls p (fun L => if iv L then 1 else 0) = if p.lanes.any iv then 1 else 0 := by
  have hfold (m : Nat) (hm : m = 0 ∨ m = 1) (ls : List Nat) :
      ls.foldl (fun m L => m ||| if iv L then 1 else 0) m = if m = 1 ∨ ls.any iv then 1 else 0 := by
    induction ls generalizing m with
    | nil => rcases hm with rfl | rfl <;> rfl
    | cons L ls ih =>
      rw [List.foldl_cons, List.any_cons]
      rcases hm with rfl | rfl <;> cases iv L <;> rw [ih _ (by decide)] <;> simp
  rw [allCls, hfold 0 (.inl rfl)]
  simp

/-- The class IV alone traps nothing where TRAPEN does not enable it. -/
theorem quiet_iv (p : Pack) (iv : Nat → Bool) (h : p.r.trapen.getLsbD 0 = false ∨ ∀ L ∈ p.lanes, iv L = false) :
    Quiet p fun L => if iv L then 1 else 0 := by
  intro L hL
  dsimp only
  cases hiv : iv L
  · simp
  · rw [if_pos rfl, Nat.one_and_eq_mod_two]
    rcases h with h | h
    · have hbit : (p.r.trapen.toNat &&& 0x67).testBit 0 = false := by
        rw [Nat.testBit_and, ← BitVec.getLsbD, h, Bool.false_and]
      rw [Nat.testBit_zero, decide_eq_false_iff_not] at hbit
      omega
    · rw [h L hL] at hiv
      cases hiv

theorem fHolds_iff (c : FCond) (x y : FVal) : fcondHolds c x y = true ↔ FHolds c x y := by
  cases c <;> simp [fcondHolds, FHolds]

theorem fcmp_runs (c : FCond) (sig : Bool) (d a : Nat) (b : BOp) (s : State) (p : Pack) (hd : d ≠ 0) :
    let iv := fun L => (fin p (p.v a L)).isSig || (fin p (p.b b L)).isSig || (sig && ((fin p (p.v a L)).isNan || (fin p (p.b b L)).isNan))
    (p.r.trapen.getLsbD 0 = false ∨ ∀ L ∈ p.lanes, iv L = false) →
    Claims.Runs s p (.fcmp c sig d a b) 1 fun u q => Commits s u p (if p.lanes.any iv then 1 else 0) ∧
      ∀ j < 32, (q.k d).getLsbD j = true ↔ j ∈ p.lanes ∧ FHolds c (fin p (p.v a j)) (fin p (p.b b j)) := by
  intro iv hquiet
  have hcls (L : Nat) : (if (if sig then (fin p (p.v a L)).isNan || (fin p (p.b b L)).isNan
      else (fin p (p.v a L)).isSig || (fin p (p.b b L)).isSig) then Cls.iv else 0) = if iv L then 1 else 0 := by
    have hx := @FVal.isNan_of_isSig (fin p (p.v a L))
    have hy := @FVal.isNan_of_isSig (fin p (p.b b L))
    refine congrArg (fun t : Bool => if t then 1 else 0) ?_
    cases sig
    · simp [iv]
    · rw [Bool.eq_iff_iff]
      simp only [iv, if_true, Bool.true_and, Bool.or_eq_true]
      tauto
  refine runs_of_completeAt (fp := true) (addr := 0) (f := fun L => if iv L then 1 else 0) rfl (sameCtrl_setK p d _)
    (congrArg (fun f : Nat → Nat => s.completeAt _ 1 1 true _ (p.lanes.map fun L => (L, f L))) (funext hcls)) (.inl le_rfl) (quiet_iv p iv hquiet)
    fun t u hcom _ hr _ => ⟨allCls_iv p iv ▸ hcom, fun j hj => ?_⟩
  have hk : u.k d = p.maskWhere fun L => fcondHolds c (p.fv (p.v a L)) (p.fv (p.b b L)) := by
    have hu : u.k d = (p.setK d (p.maskWhere fun L => fcondHolds c (p.fv (p.v a L)) (p.fv (p.b b L)))).k d := by
      rw [Pack.k, if_neg hd, hr, Pack.k, if_neg hd]
    rw [hu, Pack.k_setK, if_pos ⟨rfl, hd⟩]
  rw [hk, getLsbD_maskWhere p _ j hj, fHolds_iff]
  rfl

/-- A half2 instruction, by the results of its elements. -/
theorem halfRuns_of_laneOp {s : State} {p : Pack} {i : Instr} {d : Nat} {F : Pack → Nat → Nat → FR} {g : Nat → Nat → FR}
    (hexec : exec i s = laneOp s i d 1 true fun p L => half2 (F p L)) (hF : F p = g) (hlen : instrLen i = 1) : HalfRuns s p i d g := by
  subst hF
  intro hquiet
  refine runs_of_laneOp hexec hlen hquiet fun t u hcom _ hr _ => ⟨hcom, fun L hL => ?_⟩
  rw [← Pack.v_writeLanes_word p d (fun L => half2 (F p L)) (fun L => BitVec.ofNat 32 ((F p L 0).bits + (F p L 1).bits * 2 ^ 16)) L hL rfl, Pack.v, hr, Pack.v]

theorem cvt_runs (dst src : ElemTy) (r : Rnd) (d a : Nat) (s : State) (p : Pack) :
    let f := fun L => convert dst src (modeOf p r) (p.r.fpctl.getLsbD 2) (p.opA src.wide a L)
    Quiet p (fun L => (f L).2) →
    Claims.Runs s p (.cvt dst src r d a) 1 fun u q => Commits s u p (allCls p fun L => (f L).2) ∧
      ∀ L ∈ p.lanes, q.opA dst.wide d L = if dst.wide then (f L).1.toNat else (f L).1.toNat % 2 ^ 32 := by
  intro f hquiet
  have hf : f = fun L => convert dst src (p.rm r) p.ftz (p.opA src.wide a L) := by
    rw [← modeOf_eq]
    rfl
  rw [hf] at hquiet ⊢
  set cvtLane : Nat → LaneOut := fun L =>
    { vals := resWords dst.wide (convert dst src (p.rm r) p.ftz (p.opA src.wide a L)).1, cls := (convert dst src (p.rm r) p.ftz (p.opA src.wide a L)).2 }
  refine runs_of_laneOp (i := .cvt dst src r d a) rfl rfl hquiet fun t u hcom _ hr _ => ⟨hcom, fun L hL => ?_⟩
  rw [← Pack.opA_writeLanes p dst.wide d cvtLane (fun L => (convert dst src (p.rm r) p.ftz (p.opA src.wide a L)).1) L hL rfl]
  unfold Pack.opA Pack.v2 Pack.v
  rw [hr]

theorem floatCompareHalfAndConvertResults : FloatCompareHalfAndConvertResults := by
  unfold FloatCompareHalfAndConvertResults
  intro r d a b s p
  refine ⟨fun c sig hd => fcmp_runs c sig d a b s p hd, fun bf => ?_, fun dst src => cvt_runs dst src r d a s p⟩
  intro c
  have hc : c = p.cfg (halfFmt bf) r := cfgOf_eq p _ r
  rw [hc]
  exact ⟨halfRuns_of_laneOp rfl rfl rfl, halfRuns_of_laneOp rfl rfl rfl, halfRuns_of_laneOp rfl rfl rfl⟩

/-! ### Where no class is enabled -/

theorem quiet_of_none (p : Pack) (h : p.r.trapen.toNat &&& 0x67 = 0) (f : Nat → Nat) : Quiet p f := fun L _ => by rw [h, Nat.and_zero]

/-- Where no class is enabled, a lane instruction completes and leaves the views. -/
theorem completes_of_laneOp {s : State} {p : Pack} {i : Instr} {d : Nat} {fp : Bool} {F : Pack → Nat → LaneOut}
    (h : p.r.trapen.toNat &&& 0x67 = 0) (hexec : exec i s = laneOp s i d 1 fp F) (hlen : instrLen i = 1) :
    Claims.Runs s p i 1 fun _ q => q.m = p.m :=
  runs_of_laneOp hexec hlen (quiet_of_none p h _) fun _ _ _ _ _ hm => hm

/-- FMIN and FMAX complete where no class is enabled, by the order of the patterns (R123). -/
theorem minMax_completes {s : State} {p : Pack} {i : Instr} {d a : Nat} {b : BOp} {greatest : Bool} (h : p.r.trapen.toNat &&& 0x67 = 0)
    (hruns : FpRuns s p i d fun L => minMax f32 (p.r.fpctl.getLsbD 2) greatest (p.v a L).toNat (p.b b L).toNat) :
    Claims.Runs s p i 1 (fun t q => Commits s t p (if p.lanes.any (fun L => sig32 (p.v a L).toNat || sig32 (p.b b L).toNat) then 1 else 0) ∧
      ∀ L ∈ p.lanes, (q.v d L).toNat = least32 (p.r.fpctl.getLsbD 2) greatest (p.v a L).toNat (p.b b L).toNat) := by
  simp only [minMax_f32 _ _ _ _ (BitVec.isLt _) (BitVec.isLt _)] at hruns
  intro hready
  obtain ⟨t, q, hexec, hq, hpast, hcom, hv⟩ := hruns (quiet_of_none p h _) hready
  refine ⟨t, q, hexec, hq, hpast, ?_, fun L hL => ?_⟩
  · rw [← allCls_iv]
    exact hcom
  · rw [hv L hL, BitVec.toNat_ofNat]
    exact Nat.mod_eq_of_lt (least32_lt _ _ _ _ (BitVec.isLt _) (BitVec.isLt _))

theorem floatingPointCompletes : FloatingPointCompletes := by
  unfold FloatingPointCompletes
  intro r c sig bf dst src d a b s p h
  obtain ⟨-, -, -, -, hmin, hmax, -⟩ := floatResults r d a b s p
  exact ⟨completes_of_laneOp h rfl rfl, completes_of_laneOp h rfl rfl, completes_of_laneOp h rfl rfl, completes_of_laneOp h rfl rfl,
    minMax_completes h hmin, minMax_completes h hmax,
    completes_of_laneOp h rfl rfl, completes_of_laneOp h rfl rfl, completes_of_laneOp h rfl rfl, completes_of_laneOp h rfl rfl,
    runs_of_completeAt (fp := true) (addr := 0) rfl (sameCtrl_setK p d _) rfl (.inl le_rfl) (quiet_of_none p h _)
      fun _ _ _ _ _ hm => hm.trans (Pack.m_setK p d _),
    completes_of_laneOp h rfl rfl, completes_of_laneOp h rfl rfl, completes_of_laneOp h rfl rfl, completes_of_laneOp h rfl rfl, completes_of_laneOp h rfl rfl⟩

/-! ### Special operands -/

/-- An infinity as a result, of operands of which one is infinite and none a NaN. -/
theorem mark_inf_operands (srcs : List FVal) (n : Bool) (hs : srcs.any FVal.isSig = false) (hi : srcs.any FVal.isInf = true) :
    f32.mark srcs { bits := f32.inf n, cls := 0 } = { bits := if n then 0xFF800000 else 0x7F800000, cls := 0 } := by
  have hval : (f32.val false (f32.inf n)).isNan = false := by cases n <;> decide
  have hbits : f32.inf n = if n then 0xFF800000 else 0x7F800000 := by cases n <;> decide
  unfold Fmt.mark
  dsimp only
  rw [hs, hi, hval, hbits]
  simp

/-- An invalid operation produces a NaN, unless an operand is one (R81, R93). -/
theorem mark_invalid_operands (srcs : List FVal) :
    f32.mark srcs f32.invalid = { bits := 0x7FC00000, cls := if srcs.any FVal.isNan then 1 else 0x21 } := by
  have hval : (f32.val false f32.nan).isNan = true ∧ (f32.val false f32.nan).isInf = false := by decide
  have hbits : f32.nan = 0x7FC00000 := by decide
  unfold Fmt.mark Fmt.invalid
  dsimp only
  rw [hval.1, hval.2, hbits]
  cases srcs.any FVal.isNan <;> cases srcs.any FVal.isSig <;> simp [Cls.iv, Cls.np]

/-- A zero as a result raises no class. -/
theorem mark_zero (srcs : List FVal) (n : Bool) (hs : srcs.any FVal.isSig = false) :
    f32.mark srcs { bits := f32.sign n, cls := 0 } = { bits := if n then 0x80000000 else 0, cls := 0 } := by
  have hval : (f32.val false (f32.sign n)).isNan = false ∧ (f32.val false (f32.sign n)).isInf = false := by cases n <;> decide
  unfold Fmt.mark
  dsimp only
  rw [hs, hval.1, hval.2]
  cases n <;> simp [Fmt.sign, f32]

/-- An addition and a product with a NaN. -/
theorem add_mul_nan (c : FCfg) (hc : c.fmt = f32) (x y : FVal) (h : x.isNan = true ∨ y.isNan = true) :
    c.add x y = f32.mark [x, y] { bits := f32.nan, cls := 0 } ∧ c.mul x y = f32.mark [x, y] { bits := f32.nan, cls := 0 } := by
  constructor
  · unfold FCfg.add
    rw [hc]
    cases x with
    | nan sx => rfl
    | inf n => cases y with
      | nan sy => rfl
      | _ => simp [FVal.isNan] at h
    | fin n m e => cases y with
      | nan sy => rfl
      | _ => simp [FVal.isNan] at h
  · unfold FCfg.mul
    rw [hc, if_pos (by simpa using h)]

theorem floatSpecialOperands : FloatSpecialOperands := by
  unfold FloatSpecialOperands
  intro rm ftz x y z n k m e c
  have hfma (v : FVal) (a b : FVal) (hv : mulVal a b = none) (hab : a.isNan = false ∧ b.isNan = false) :
      c.fma a b v = f32.mark [a, b, v] f32.invalid := by
    unfold FCfg.fma
    rw [hab.1, hab.2, hv]
    rfl
  refine ⟨fun h => ?_, ?_, ?_, ?_, ?_, ?_, ?_, ?_, ?_, ?_, ?_⟩
  · obtain ⟨hadd, hmul⟩ := add_mul_nan c rfl x y h
    rw [hadd, hmul, mark_nan_operands _ (by simpa using h)]
    simp
  · cases n <;> exact mark_invalid_operands _
  · cases n <;> exact mark_inf_operands _ _ rfl rfl
  · exact mark_inf_operands _ n rfl rfl
  · exact mark_invalid_operands _
  · exact mark_invalid_operands _
  · rw [hfma z _ _ rfl ⟨rfl, rfl⟩, mark_invalid_operands]
  · rw [hfma z _ _ rfl ⟨rfl, rfl⟩, mark_invalid_operands]
    have hany : [.fin k 0 e, .inf n, z].any FVal.isNan = z.isNan := Bool.or_false _
    rw [hany]
  · cases n <;> cases k <;> exact mark_invalid_operands _
  · have hsum : addFin rm n m e (!n) m e = .fin (rm == .rdn) 0 e := by
      have hzero : scaled n m e (min e e) + scaled (!n) m e (min e e) = 0 := by cases n <;> simp [scaled]
      unfold addFin
      dsimp only
      rw [if_pos hzero]
      cases n <;> simp
    have hadd : c.add (.fin n m e) (.fin (!n) m e) = f32.mark [.fin n m e, .fin (!n) m e] (c.put (addFin rm n m e (!n) m e)) := rfl
    rw [hadd, hsum]
    refine (mark_zero _ _ rfl).trans ?_
    cases rm <;> rfl
  · refine (mark_zero [.fin n 0 e, .fin k 0 e] (n != k) rfl).trans ?_
    cases n <;> cases k <;> rfl

/-! ### FRND and FSCALE -/

/-- The magnitude that FRND writes is an FP32 number. -/
theorem roundInt_f32 (rm : RM) (n : Bool) (m : Nat) (e : Int) (hm : m < 2 ^ 24) (hlow : -149 ≤ e) (hhigh : e ≤ 104) :
    ∃ (R P : Nat), (roundInt rm n m e).1 = (if n then -(R : Int) else R) ∧ P < f32.limit ∧ ((R : Nat) * 2 ^ (0 : Int) : ℚ) = f32.mag P := by
  unfold roundInt
  split
  next he =>
    obtain ⟨k, rfl⟩ := Int.eq_ofNat_of_zero_le he
    have hexp : (-149 : Int) + (k + 149 : Nat) = k := by omega
    obtain ⟨P, hP, hmag⟩ := exists_mag_f32 m (k + 149) hm.le (by
      rw [hexp]
      calc (m : ℚ) * 2 ^ (k : Int) < 2 ^ 24 * 2 ^ (k : Int) := by gcongr; exact_mod_cast hm
        _ ≤ 2 ^ 24 * 2 ^ (104 : Int) := mul_le_mul_of_nonneg_left (two_zpow_le hhigh) (by norm_num)
        _ = 2 ^ (128 : Int) := by norm_num)
    refine ⟨m * 2 ^ k, P, rfl, hP, ?_⟩
    rw [hmag, hexp, zpow_natCast]
    push_cast
    ring
  next he =>
    obtain ⟨k, hk⟩ : ∃ k : Nat, (-e).toNat = k + 1 := ⟨(-e).toNat - 1, by omega⟩
    have hhalf : m / 2 ^ (k + 1) < 2 ^ 23 := by
      have hle : 2 ^ 1 ≤ 2 ^ (k + 1) := Nat.pow_le_pow_right (by decide) (by omega)
      have := Nat.div_le_div_left hle (by decide) (a := m)
      omega
    rw [hk, roundMag_eq]
    dsimp only
    set R := if goesUp rm n (m / 2 ^ (k + 1)) (m % 2 ^ (k + 1)) (2 ^ (k + 1)) false = true then m / 2 ^ (k + 1) + 1 else m / 2 ^ (k + 1) with hR
    have hR24 : R ≤ 2 ^ 24 := by rw [hR]; split <;> omega
    have hexp : (-149 : Int) + (149 : Nat) = 0 := rfl
    obtain ⟨P, hP, hmag⟩ := exists_mag_f32 R 149 hR24 (by
      rw [hexp]
      calc (R : ℚ) * 2 ^ (0 : Int) ≤ 2 ^ 24 * 2 ^ (0 : Int) := by gcongr; exact_mod_cast hR24
        _ < 2 ^ (128 : Int) := by norm_num)
    exact ⟨R, P, rfl, hP, by rw [hmag, hexp]⟩

theorem fround_fin (rm : RM) (n : Bool) (m : Nat) (e : Int) (hm : m < 2 ^ 24) (hlow : -149 ≤ e) (hhigh : e ≤ 104) :
    (fround rm (.fin n m e)).cls = 0 ∧ (fround rm (.fin n m e)).bits / 2 ^ 31 = (if n then 1 else 0) ∧
      ∃ z : ℤ, IsNum f32 (fround rm (.fin n m e)).bits z ∧ IntRounded rm (num n m e) z := by
  obtain ⟨R, P, hR, hP, hmag⟩ := roundInt_f32 rm n m e hm hlow hhigh
  have hbits : fround rm (.fin n m e) = { bits := f32.sign n + P, cls := 0 } := by
    have habs : (roundInt rm n m e).1.natAbs = R := by rw [hR]; cases n <;> simp
    refine (mark_fin n m e _).trans ?_
    dsimp only
    rw [habs, f32.round_exact sound_f32 rm n R 0 P hmag hP]
    exact mark_finite _ _ _ _ (f32.val_finite sound_f32 n P hP)
  have hP31 : P < 2 ^ 31 := by
    have := f32.limit_lt
    exact hP.trans this
  rw [hbits]
  refine ⟨rfl, ?_, _, ?_, (roundInt_spec rm n m e).1⟩
  · cases n
    · simp [Fmt.sign]
      omega
    · simp [Fmt.sign, f32]
      omega
  · rw [hR, signed_cast]
    have := f32.isNum_sign sound_f32 n P hP
    rwa [← hmag, zpow_zero, mul_one] at this

theorem roundAndScaleValues : RoundAndScaleValues := by
  unfold RoundAndScaleValues
  intro rm ftz n sig m e k c infinity
  refine ⟨?_, mark_inf_operands [.inf n] n rfl rfl, ?_, mark_inf_operands [.inf n] n rfl rfl, mark_zero [.fin n 0 e] n rfl, fround_fin rm n m e, ?_⟩
  · exact (mark_nan_operands [.nan sig] rfl).trans (by cases sig <;> rfl)
  · exact (mark_nan_operands [.nan sig] rfl).trans (by cases sig <;> rfl)
  · refine ⟨m, e + k, ?_, rfl, f32.mark_round sound_f32 rm ftz n m (e + k) _ rfl⟩
    rw [num_eq, num_eq, zpow_add₀ (by norm_num)]
    ring

/-- Settles O38: each lane's result is what its operation rounds, and the pack goes past where no enabled class is raised. -/
theorem floatingPointResults : Obligations.FloatingPointResults := by
  unfold Obligations.FloatingPointResults
  exact ⟨floatResults, floatCompareHalfAndConvertResults, floatSpecialOperands, floatingPointCompletes, roundAndScaleValues⟩

end Sys2Proof.Proofs
end

section
/-! SUPPORT. Results that stay within their format's bits; the chains of LMV, the tree of REDUCE, the chain of SCAN and the combinations of both (R86 to
R88, R123, R134, R135). -/

open Sys2Proof.Claims

namespace Sys2Proof.Machine

/-! ### The bits of a result -/

theorem Fmt.nan_lt (f : Fmt) (hf : f.Sound) : f.nan < 2 ^ (f.eb + f.fb + 1) := by
  have hB : 0 < 2 ^ f.fb := Nat.two_pow_pos _
  have hhalf : 2 ^ (f.fb - 1) < 2 ^ f.fb := Nat.pow_lt_pow_right (by decide) (by have := hf.fraction; omega)
  have htop : (2 ^ f.eb - 1) * 2 ^ f.fb + 2 ^ f.fb = 2 ^ (f.eb + f.fb) := by
    rw [Nat.pow_add, ← Nat.succ_mul, Nat.succ_eq_add_one, Nat.sub_add_cancel (Nat.one_le_two_pow)]
  unfold Fmt.nan
  rw [Nat.pow_succ]
  split <;> omega

theorem Fmt.inf_lt (f : Fmt) (n : Bool) : f.inf n < 2 ^ (f.eb + f.fb + 1) := by
  have hB : 0 < 2 ^ f.fb := Nat.two_pow_pos _
  have htop : (2 ^ f.eb - 1) * 2 ^ f.fb + 2 ^ f.fb = 2 ^ (f.eb + f.fb) := by
    rw [Nat.pow_add, ← Nat.succ_mul, Nat.succ_eq_add_one, Nat.sub_add_cancel (Nat.one_le_two_pow)]
  unfold Fmt.inf Fmt.sign
  rw [Nat.pow_succ]
  split <;> omega

/-- A value put into a format has no bits past it. -/
theorem FCfg.put_lt (c : FCfg) (hf : c.fmt.Sound) (v : FVal) : (c.put v).bits < 2 ^ (c.fmt.eb + c.fmt.fb + 1) := by
  unfold FCfg.put
  cases v with
  | nan sig => exact c.fmt.nan_lt hf
  | inf n =>
    dsimp only
    split
    · exact c.fmt.inf_lt n
    · exact c.fmt.nan_lt hf
  | fin n m e => exact (c.fmt.round_plain hf c.rm c.ftz n m e).2.1

/-- A sum has no bits past its format. -/
theorem FCfg.add_lt (c : FCfg) (hf : c.fmt.Sound) (x y : FVal) : (c.add x y).bits < 2 ^ (c.fmt.eb + c.fmt.fb + 1) := by
  have hnan := c.fmt.nan_lt hf
  have hput := c.put_lt hf
  unfold FCfg.add Fmt.mark
  dsimp only
  split
  · exact hnan
  · exact hnan
  · split
    · exact hput _
    · exact hnan
  · exact hput _
  · exact hput _
  · exact hput _

/-! ### The combinations of REDUCE and SCAN -/

theorem redIdentity_eq (op : RedOp) (t : RedTy) : redIdentity op t = identityOf op t := by
  cases op <;> cases t <;> rfl

theorem identityOf_lt (op : RedOp) (t : RedTy) : identityOf op t < 2 ^ 32 := by
  cases op <;> cases t <;> decide

/-- The lesser and the greater of two integers, where those of equal value are equal. -/
theorem pick_le_eq_pick_lt (v : Nat → Int) (x y : Nat) (hv : v x = v y → x = y) :
    (if v x ≤ v y then x else y) = (if v x < v y then x else y) ∧ (if v x ≤ v y then y else x) = if v x < v y then y else x := by
  rcases lt_trichotomy (v x) (v y) with h | h | h
  · simp [h, h.le]
  · simp [hv h]
  · simp [h.not_gt, h.not_ge]

theorem toInt_ofNat_inj (x y : Nat) (hx : x < 2 ^ 32) (hy : y < 2 ^ 32) (h : (BitVec.ofNat 32 x).toInt = (BitVec.ofNat 32 y).toInt) : x = y := by
  have := congrArg BitVec.toNat (BitVec.eq_of_toInt_eq h)
  rwa [BitVec.toNat_ofNat, BitVec.toNat_ofNat, Nat.mod_eq_of_lt hx, Nat.mod_eq_of_lt hy] at this

/-- The model's combination of 32-bit operands, and its 32 bits. -/
theorem combine_eq (p : Pack) (op : RedOp) (t : RedTy) (ht : t = .f32 → op = .add ∨ op = .min ∨ op = .max) (x y : Nat) (hx : x < 2 ^ 32)
    (hy : y < 2 ^ 32) : combine op t (p.cfg f32 .dyn) x y = combineOf p op t x y ∧ (combineOf p op t x y).bits < 2 ^ 32 := by
  have hcfg : cfgOf p f32 .dyn = p.cfg f32 .dyn := Proofs.cfgOf_eq p f32 .dyn
  unfold combineOf
  rw [hcfg]
  by_cases hf : t = .f32
  · subst hf
    rcases ht rfl with rfl | rfl | rfl
    · exact ⟨rfl, FCfg.add_lt _ sound_f32 _ _⟩
    · exact ⟨minMax_f32 _ _ x y hx hy, least32_lt _ _ x y hx hy⟩
    · exact ⟨minMax_f32 _ _ x y hx hy, least32_lt _ _ x y hx hy⟩
  · dsimp only
    rw [if_neg hf]
    have hpick (c : Prop) [Decidable c] : (if c then x else y) < 2 ^ 32 ∧ (if c then y else x) < 2 ^ 32 := by split <;> exact ⟨‹_›, ‹_›⟩
    have hmod : (x + y) % 2 ^ 32 < 2 ^ 32 := Nat.mod_lt _ (by decide)
    cases t with
    | f32 => exact absurd rfl hf
    | i32 =>
      obtain ⟨hmin, hmax⟩ := pick_le_eq_pick_lt (fun z => (BitVec.ofNat 32 z).toInt) x y (toInt_ofNat_inj x y hx hy)
      cases op with
      | add => exact ⟨rfl, hmod⟩
      | min => exact ⟨congrArg (FR.mk · 0) hmin, (hpick _).1⟩
      | max => exact ⟨congrArg (FR.mk · 0) hmax, (hpick _).2⟩
      | and => exact ⟨rfl, Nat.and_lt_two_pow _ hy⟩
      | or => exact ⟨rfl, Nat.or_lt_two_pow hx hy⟩
      | xor => exact ⟨rfl, Nat.xor_lt_two_pow hx hy⟩
    | n32 =>
      obtain ⟨hmin, hmax⟩ := pick_le_eq_pick_lt (fun z => (z : Int)) x y (fun h => by exact_mod_cast h)
      simp only [Int.ofNat_lt] at hmin hmax
      cases op with
      | add => exact ⟨rfl, hmod⟩
      | min => exact ⟨congrArg (FR.mk · 0) hmin, (hpick _).1⟩
      | max => exact ⟨congrArg (FR.mk · 0) hmax, (hpick _).2⟩
      | and => exact ⟨rfl, Nat.and_lt_two_pow _ hy⟩
      | or => exact ⟨rfl, Nat.or_lt_two_pow hx hy⟩
      | xor => exact ⟨rfl, Nat.xor_lt_two_pow hx hy⟩

/-! ### LMV -/

/-- One fused step of an LMV chain, with the classes so far (R86). -/
def lmvFused (c : FCfg) (w x : Nat → FVal) (q : FR) (j : Nat) : FR where
  bits := (c.fma (w j) (x j) (f32.val c.ftz q.bits)).bits
  cls := q.cls ||| (c.fma (w j) (x j) (f32.val c.ftz q.bits)).cls

/-- The chain of fused steps of a row of LMV, with its classes (R86). -/
def lmvChain (c : FCfg) (w x : Nat → FVal) (acc cols : Nat) : FR := (List.range cols).foldl (lmvFused c w x) { bits := acc, cls := 0 }

theorem lmvChain_eq (c : FCfg) (w x : Nat → FVal) (acc cols : Nat) :
    (List.range cols).foldl (fun q j => lmvStep c q (w j) (x j)) (acc, 0) = ((lmvChain c w x acc cols).bits, (lmvChain c w x acc cols).cls) := by
  have hfold (ls : List Nat) (q : FR) : ls.foldl (fun q j => lmvStep c q (w j) (x j)) (q.bits, q.cls) =
      ((ls.foldl (lmvFused c w x) q).bits, (ls.foldl (lmvFused c w x) q).cls) := by
    induction ls generalizing q with
    | nil => rfl
    | cons j ls ih => exact ih (lmvFused c w x q j)
  exact hfold (List.range cols) { bits := acc, cls := 0 }

/-- The registers and classes that a lane gets from the rows' chains. -/
def lmvLane (chain : Nat → FR) (rows : Nat) : LaneOut where
  vals := (List.range rows).map fun r => BitVec.ofNat 32 (chain r).bits
  cls := (List.range rows).foldl (fun m r => m ||| (chain r).cls) 0

/-- The chain of a lane and a row, from the weights as the core reads them (R86, R134). -/
def State.lmvRow (s : State) (p : Pack) (wide : Bool) (bias : Option Nat) (a cols off L r : Nat) : FR :=
  lmvChain { fmt := f32, rm := .rne, ftz := p.ftz }
    (fun j => f32.val p.ftz (s.weight s.cur.core (s.runImage p.id.slot) wide off cols r j)) (fun j => p.fv (p.v (a + j) L))
    (match bias with | some b => (p.v (b + r) L).toNat | none => 0) cols

section
variable {wide : Bool} {bias : Option Nat} {d a rows cols off : Nat} {s : State} {p : Pack}

/-- The meaning of LMV: the traps on its constants, or the lanes' chains. -/
def lmvMeaning (wide : Bool) (bias : Option Nat) (d a rows cols off : Nat) (s : State) (p : Pack) : State :=
  if off + rows * cols * (if wide then 4 else 2) > s.constBytes p.id.slot then s.trapIssue s.cur p 2 (p.allLanes 7 0 off)
  else if s.constPoison s.cur.core (s.runImage p.id.slot) off (rows * cols * (if wide then 4 else 2)) then
    s.trapIssue s.cur p 2 (p.allLanes 11 0 off)
  else
    s.completeAt (p.writeLanes d (p.lanes.map fun L => (L, lmvLane (s.lmvRow p wide bias a cols off L) rows))) 2
      ((rows * cols + (if wide then 3 else 7)) / (if wide then 4 else 8)) true (fun _ => off)
      (p.lanes.map fun L => (L, (lmvLane (s.lmvRow p wide bias a cols off L) rows).cls))

theorem execLmv_eq : exec (.lmv wide bias d a rows cols off) s =
    issue s (.lmv wide bias d a rows cols off) (lmvMeaning wide bias d a rows cols off s) := by
  refine congrArg (issue s _) (funext fun p => ?_)
  unfold lmvMeaning
  simp only [lmvChain_eq, List.map_map, List.foldl_map]
  rfl

end

theorem Pack.mem_lanes_lt_n (p : Pack) (L : Nat) (h : L ∈ p.lanes) : L < p.id.n := by
  have hmin : ∀ L ∈ List.range (min p.id.n 32), L < p.id.n := fun L hL => (List.mem_range.mp hL).trans_le (min_le_left _ _)
  unfold Pack.lanes at h
  split at h
  · exact hmin L h
  · exact hmin L (List.mem_of_mem_filter h)

/-! ### The tree -/

/-- The classes of the first k places together. -/
def orUpTo (g : Nat → Nat) (k : Nat) : Nat := (List.range k).foldr (fun i c => g i ||| c) 0

theorem orUpTo_succ (g : Nat → Nat) (k : Nat) : orUpTo g (k + 1) = g 0 ||| orUpTo (fun i => g (i + 1)) k := by
  simp [orUpTo, List.range_succ_eq_map, List.foldr_map]

theorem orUpTo_zero (k : Nat) : orUpTo (fun _ => 0) k = 0 := by
  induction k with
  | zero => rfl
  | succ k ih => rw [orUpTo_succ, ih, Nat.or_zero]

theorem orUpTo_double (g h : Nat → Nat) (k : Nat) :
    orUpTo g (2 * k) ||| orUpTo h k = orUpTo (fun i => g (2 * i) ||| g (2 * i + 1) ||| h i) k := by
  induction k generalizing g h with
  | zero => simp [orUpTo]
  | succ k ih =>
    have hshift : (fun i => g (i + 1 + 1)) = fun i => g (i + 2) := rfl
    have htwo : (fun i => g (2 * (i + 1)) ||| g (2 * (i + 1) + 1) ||| h (i + 1)) =
        fun i => g (2 * i + 2) ||| g (2 * i + 1 + 2) ||| h (i + 1) := rfl
    rw [Nat.mul_succ, orUpTo_succ, orUpTo_succ, orUpTo_succ h, orUpTo_succ (fun i => g (2 * i) ||| g (2 * i + 1) ||| h i), hshift, htwo,
      ← ih (fun i => g (i + 2)) fun i => h (i + 1)]
    simp only [Nat.mul_zero, Nat.zero_add]
    ac_rfl

/-- A level of the tree over the places, by its pairs. -/
theorem treeLevel_map (f : Nat → Nat → FR) (g : Nat → Nat) (k : Nat) : treeLevel f ((List.range (2 * k)).map g) =
    ((List.range k).map fun i => (f (g (2 * i)) (g (2 * i + 1))).bits, orUpTo (fun i => (f (g (2 * i)) (g (2 * i + 1))).cls) k) := by
  induction k generalizing g with
  | zero => rfl
  | succ k ih =>
    rw [Nat.mul_succ, List.range_succ_eq_map, List.range_succ_eq_map, orUpTo_succ, List.range_succ_eq_map (n := k)]
    simp only [List.map_cons, List.map_map, treeLevel]
    exact congrArg (fun q : List Nat × Nat => ((f (g 0) (g 1)).bits :: q.1, (f (g 0) (g 1)).cls ||| q.2)) (ih fun i => g (i + 2))

/-- The tree from a level on is the tree of its results (R87). -/
theorem tree_eq (f : Nat → Nat → FR) (x : Nat → Nat) (n m : Nat) :
    tree f n ((List.range (2 ^ n)).map fun i => (treeAt f x m i).bits) (orUpTo (fun i => (treeAt f x m i).cls) (2 ^ n)) =
      ((treeAt f x (m + n) 0).bits, (treeAt f x (m + n) 0).cls) := by
  induction n generalizing m with
  | zero => simp [tree, orUpTo]
  | succ n ih =>
    rw [Nat.pow_succ', tree, treeLevel_map]
    dsimp only
    rw [orUpTo_double, ← Nat.succ_add_eq_add_succ]
    exact ih (m + 1)

/-- Two combinations that agree on 32 bits give the same tree. -/
theorem treeAt_congr (f g : Nat → Nat → FR) (x : Nat → Nat) (hx : ∀ i, x i < 2 ^ 32)
    (h : ∀ a b, a < 2 ^ 32 → b < 2 ^ 32 → f a b = g a b ∧ (g a b).bits < 2 ^ 32) (l i : Nat) :
    treeAt f x l i = treeAt g x l i ∧ (treeAt g x l i).bits < 2 ^ 32 := by
  induction l generalizing i with
  | zero => exact ⟨rfl, hx i⟩
  | succ l ih =>
    obtain ⟨ha, hab⟩ := ih (2 * i)
    obtain ⟨hb, hbb⟩ := ih (2 * i + 1)
    obtain ⟨hr, hrb⟩ := h _ _ hab hbb
    unfold treeAt
    dsimp only
    rw [ha, hb, hr]
    exact ⟨rfl, hrb⟩

/-! ### The scan -/

theorem scanAt_congr (f g : Nat → Nat → FR) (x : Nat → Nat) (n : Nat) (hx : ∀ i < n, x i < 2 ^ 32)
    (h : ∀ a b, a < 2 ^ 32 → b < 2 ^ 32 → f a b = g a b ∧ (g a b).bits < 2 ^ 32) (L : Nat) (hL : L < n) :
    scanAt f x L = scanAt g x L ∧ (scanAt g x L).bits < 2 ^ 32 := by
  induction L with
  | zero => exact ⟨rfl, hx 0 hL⟩
  | succ L ih =>
    obtain ⟨hprev, hbound⟩ := ih (by omega)
    rw [scanAt, scanAt, hprev]
    exact h _ _ hbound (hx _ hL)

theorem scanAt_congr_input (f : Nat → Nat → FR) (x y : Nat → Nat) (L : Nat) (h : ∀ i ≤ L, x i = y i) : scanAt f x L = scanAt f y L := by
  induction L with
  | zero => rw [scanAt, scanAt, h 0 le_rfl]
  | succ L ih => rw [scanAt, scanAt, ih fun i hi => h i (by omega), h (L + 1) le_rfl]

/-- One more position of a scan. -/
theorem scanList_append (f : Nat → Nat → FR) (x : Nat) (xs : List Nat) (y : Nat) : scanList f (x :: xs ++ [y]) =
    scanList f (x :: xs) ++ [f (((scanList f (x :: xs)).getLast?.map FR.bits).getD 0) y] := by
  simp [scanList, List.foldl_append]

/-- The results of a scan, by position (R88). -/
theorem scanList_eq (f : Nat → Nat → FR) (x : Nat → Nat) (n : Nat) : scanList f ((List.range n).map x) = (List.range n).map (scanAt f x) := by
  cases n with
  | zero => rfl
  | succ n =>
    induction n with
    | zero => rfl
    | succ n ih =>
      rw [List.range_succ, List.map_append, List.map_append, ← ih]
      rw [List.range_succ_eq_map] at ih ⊢
      rw [List.map_cons] at ih ⊢
      have hlast : (scanList f (x 0 :: ((List.range n).map Nat.succ).map x)).getLast? = some (scanAt f x n) := by
        rw [ih, ← List.range_succ_eq_map, List.range_succ]
        simp
      refine (scanList_append f _ _ _).trans ?_
      rw [hlast]
      rfl

end Sys2Proof.Machine
end

section
/-! PROOF. LMV, REDUCE and SCAN (R86 to R88, R134 to R136). -/

open Sys2Proof Sys2Proof.Machine Sys2Proof.Claims

namespace Sys2Proof.Proofs

/-! ### LMV -/

/-- A ready instruction whose meaning is a trap at issue leaves the pack's registers. -/
theorem traps_of_trapIssue {s : State} {p : Pack} {i : Instr} {g : Pack → State} {len : Nat} {ls : List RepLane} (hexec : exec i s = issue s i g)
    (hready : Ready s i p) (hg : g p = s.trapIssue s.cur p len ls) (hreplay : p.c.replay = []) (hc : p.id.colour = none) :
    Traps s i p ls fun _ q => q.r = p.r := by
  obtain ⟨q, x, heq, ⟨hr, -, -⟩, hst, hidx, hentry, hx, hxi, hxl, hxo⟩ := s.trapIssue_report p len ls hreplay hc
  refine ⟨s.setPack s.cur q, q, x, ?_, State.pack_setPack _ _ q, hst, hidx, hentry, hx, hxi, hxl, hxo, hr⟩
  rw [hexec, issue_of_ready hready, hg, heq]

theorem laneMatvec : LaneMatvec := by
  unfold LaneMatvec
  intro wide bias d a rows cols off s p i e per occ img c w chain f written inside poison every
  have hocc : (rows * cols + (if wide then 3 else 7)) / (if wide then 4 else 8) = occ := by cases wide <;> rfl
  have hw (r j : Nat) : s.weight s.cur.core img wide off cols r j = w r j := by
    cases wide <;> simp [State.weight, w, e]
  have hchain (L r : Nat) : s.lmvRow p wide bias a cols off L r = chain L r := by
    unfold State.lmvRow
    simp only [img, hw]
    rfl
  have hlane (L : Nat) : lmvLane (s.lmvRow p wide bias a cols off L) rows = lmvLane (chain L) rows := congrArg (lmvLane · rows) (funext (hchain L))
  have hsame := sameCtrl_writeLanes d (p.lanes.map fun L => (L, lmvLane (chain L) rows)) p
  have hmeaning (hin : inside) (hpoison : poison = false) : lmvMeaning wide bias d a rows cols off s p =
      s.completeAt (p.writeLanes d (p.lanes.map fun L => (L, lmvLane (chain L) rows))) 2 occ true (fun _ => off) (p.lanes.map fun L => (L, f L)) := by
    have hne : ¬poison = true := by rw [hpoison]; exact Bool.false_ne_true
    unfold lmvMeaning
    rw [if_neg (not_lt.mpr hin), if_neg hne, hocc]
    simp only [hlane]
    rfl
  have hwritten (u : Pack) (hu : u.r = (p.writeLanes d (p.lanes.map fun L => (L, lmvLane (chain L) rows))).r) : written u := by
    intro L hL r hr
    have hv := Pack.v_writeLanes d (d + r) L p.lanes (fun L => lmvLane (chain L) rows) p p.lanes_lt (p.lanes_lt L hL)
    have hin : L ∈ p.lanes ∧ d ≤ d + r ∧ d + r < d + (lmvLane (chain L) rows).vals.length := ⟨hL, by omega, by simp [lmvLane, hr]⟩
    rw [Pack.v, hu, ← Pack.v, hv, if_pos hin]
    simp [lmvLane, hr]
  refine ⟨fun hin hpoison => runsLong_of_completeAt execLmv_eq hsame (hmeaning hin hpoison) hwritten, fun hreplay hc hready => ⟨?_, ?_, ?_⟩⟩
  · exact fun hin hpoison h1 hq => traps_of_completeAt execLmv_eq hready hsame (hmeaning hin hpoison) h1 hq hreplay hc
      fun t u hcom hu => ⟨hcom, hwritten u hu⟩
  · exact fun hout => traps_of_trapIssue execLmv_eq hready (if_pos (not_le.mp hout)) hreplay hc
  · exact fun hin hpoison => traps_of_trapIssue execLmv_eq hready ((if_neg (not_lt.mpr hin)).trans (if_pos hpoison)) hreplay hc

/-! ### REDUCE and SCAN -/

theorem reduce_runs (op : RedOp) (t : RedTy) (d a : Nat) (s : State) (p : Pack) (ht : t = .f32 → op = .add ∨ op = .min ∨ op = .max) :
    let x := fun L => if L < p.id.n then (p.v a L).toNat else identityOf op t
    let f := combineOf p op t
    RunsLong s p (.reduce op t d a) 1 2 (fun _ => (treeAt f x 5 0).cls) 0
      (fun q => q.s d = if d = 0 then 0 else BitVec.ofNat 32 (treeAt f x 5 0).bits) := by
  intro x f
  have hx (L : Nat) : x L < 2 ^ 32 := by
    dsimp only [x]
    split
    · exact (p.v a L).isLt
    · exact identityOf_lt op t
  have htree : tree (combine op t (p.cfg f32 .dyn)) 5 ((List.range 32).map fun L => if L < p.id.n then (p.v a L).toNat else redIdentity op t) 0 =
      ((treeAt f x 5 0).bits, (treeAt f x 5 0).cls) := by
    obtain ⟨hcongr, -⟩ := treeAt_congr _ f x hx (fun y z hy hz => combine_eq p op t ht y z hy hz) 5 0
    have hlevels := tree_eq (combine op t (p.cfg f32 .dyn)) x 5 0
    have hleaf (i : Nat) : treeAt (combine op t (p.cfg f32 .dyn)) x 0 i = { bits := x i, cls := 0 } := rfl
    simp only [hleaf, orUpTo_zero, Nat.zero_add] at hlevels
    rw [← hcongr, redIdentity_eq]
    exact hlevels
  refine runsLong_of_completeAt (fp := t == .f32) (g := _) rfl (sameCtrl_setS p d (BitVec.ofNat 32 (treeAt f x 5 0).bits)) ?_ fun u hu => ?_
  · dsimp only
    rw [htree]
    rfl
  · have hs : u.s d = (p.setS d (BitVec.ofNat 32 (treeAt f x 5 0).bits)).s d := by rw [Pack.s, hu, Pack.s]
    rw [hs, Pack.s_setS]
    by_cases hd : d = 0
    · rw [if_neg fun h => h.2 hd, if_pos hd, Pack.s, if_pos hd]
    · rw [if_pos ⟨rfl, hd⟩, if_neg hd]

theorem scan_runs (op : RedOp) (t : RedTy) (d a : Nat) (s : State) (p : Pack) (ht : t = .f32 → op = .add ∨ op = .min ∨ op = .max) (excl : Bool) :
    let x := fun L => if L < p.id.n then (p.v a L).toNat else identityOf op t
    let f := combineOf p op t
    let step : Bool → Nat → FR := fun excl L =>
      if excl then (if L = 0 then { bits := identityOf op t, cls := 0 } else scanAt f x (L - 1)) else scanAt f x L
    RunsLong s p (.scan op excl t d a) 1 2 (fun L => (step excl L).cls) 0 fun q => ∀ L ∈ p.lanes, q.v d L = BitVec.ofNat 32 (step excl L).bits := by
  intro x f step
  let y (L : Nat) : Nat := (p.v a L).toNat
  have hscan (L : Nat) (hL : L < p.id.n) : scanAt (combine op t (p.cfg f32 .dyn)) y L = scanAt f x L := by
    obtain ⟨hcongr, -⟩ := scanAt_congr _ f y p.id.n (fun i _ => (p.v a i).isLt) (fun b c hb hc => combine_eq p op t ht b c hb hc) L hL
    rw [hcongr]
    exact scanAt_congr_input f y x L fun i hi => (if_pos (by omega)).symm
  have hres (L : Nat) (hL : L < p.id.n) : (if excl then { bits := redIdentity op t, cls := 0 } :: scanList (combine op t (p.cfg f32 .dyn))
      ((List.range p.id.n).map y).dropLast else scanList (combine op t (p.cfg f32 .dyn)) ((List.range p.id.n).map y)).getD L
      { bits := redIdentity op t, cls := 0 } = step excl L := by
    cases excl
    · simp [scanList_eq, hL, step, hscan L hL]
    · rw [if_pos rfl, List.dropLast_eq_take, ← List.map_take, List.take_range, scanList_eq, redIdentity_eq]
      cases L with
      | zero => rfl
      | succ L => simp [step, show L < p.id.n - 1 by omega, hscan L (by omega)]
  refine runsLong_of_completeAt (fp := t == .f32) (g := _) rfl (sameCtrl_writeLanes d (p.lanes.map fun L => (L, (step excl L).lane)) p) ?_
    fun u hu L hL => ?_
  · have hmap : (p.lanes.map fun L => (L, ((if excl then { bits := redIdentity op t, cls := 0 } :: scanList (combine op t (p.cfg f32 .dyn))
        ((List.range p.id.n).map y).dropLast else scanList (combine op t (p.cfg f32 .dyn)) ((List.range p.id.n).map y)).getD L
        { bits := redIdentity op t, cls := 0 }).lane)) = p.lanes.map fun L => (L, (step excl L).lane) :=
      List.map_congr_left fun L hL => by rw [hres L (p.mem_lanes_lt_n L hL)]
    dsimp only
    rw [hmap, List.map_map]
    rfl
  · rw [← Pack.v_writeLanes_word p d (fun L => (step excl L).lane) (fun L => BitVec.ofNat 32 (step excl L).bits) L hL rfl, Pack.v, hu, Pack.v]

/-- Settles O41: LMV by its chains, REDUCE by the levels of its tree, SCAN by its positions. -/
theorem matvecReduceAndScan : Obligations.MatvecReduceAndScan := by
  unfold Obligations.MatvecReduceAndScan
  refine ⟨laneMatvec, ?_⟩
  unfold ReduceAndScanResults
  intro op t d a s p hn x f step ht
  exact ⟨reduce_runs op t d a s p ht, scan_runs op t d a s p ht⟩

end Sys2Proof.Proofs
end

section
/-! SUPPORT. The end of an engine instruction (R143, R148, R151): what the event leaves of its core, and what its computation decides. -/

open Sys2Proof.Claims

namespace Sys2Proof.Machine

/-! ### Pipelines under the steps of the event -/

theorem State.pipe_modPipe (s : State) (c d i j : Nat) (f : Pipe → Pipe) :
    ((s.modPipe c i f).core d).pipe j = if d = c ∧ j = i then f ((s.core c).pipe i) else (s.core d).pipe j := by
  rw [State.modPipe, State.core_modCore]
  by_cases hd : d = c
  · subst hd
    by_cases hj : j = i
    · subst hj
      simp [Core.pipe_modPipe]
    · simp [hj, Core.modPipe, Core.pipe]
  · simp [hd]

theorem State.pipe_setPack (s : State) (r : PackRef) (p : Pack) (c i : Nat) : ((s.setPack r p).core c).pipe i = (s.core c).pipe i := by
  rw [State.setPack, State.core_modCore]
  by_cases hc : c = r.core
  · rw [if_pos hc, hc]
    rfl
  · rw [if_neg hc]

theorem Core.pipe_setTile (c : Core) (i j k : Nat) (t : Tile) :
    ((c.setTile i k t).pipe j) = if j = i then { c.pipe i with tiles := (c.pipe i).tiles.put k t } else c.pipe j := by
  unfold Core.setTile
  by_cases h : j = i
  · subst h
    rw [Core.pipe_modPipe, if_pos rfl]
  · rw [if_neg h]
    simp [Core.modPipe, Core.pipe, h]

/-- An engine that starts its next entry keeps its queue and its tiles. -/
theorem State.pipe_engineStart (s : State) (core pipe c i : Nat) :
    (((s.engineStart core pipe).core c).pipe i).queue = ((s.core c).pipe i).queue ∧
      (((s.engineStart core pipe).core c).pipe i).tiles = ((s.core c).pipe i).tiles := by
  unfold State.engineStart
  dsimp only
  split
  · rw [State.pipe_modPipe]
    split
    next h => obtain ⟨rfl, rfl⟩ := h; exact ⟨rfl, rfl⟩
    next => exact ⟨rfl, rfl⟩
  · exact ⟨rfl, rfl⟩

/-- The batches that complete change counters of the context and marks of the pack's control alone. -/
theorem State.countBatches_eq (s : State) (r : PackRef) (p : Pack) (hp : s.pack r = some p) :
    ∃ (u : State) (bs : List Batch), s.countBatches r = u.setPack r { p with c := { p.c with batches := bs } } ∧ u.cores = s.cores := by
  unfold State.countBatches
  rw [hp]
  dsimp only
  refine ⟨_, _, rfl, ?_⟩
  refine List.foldlRecOn (motive := fun q : State × List Batch × Bool => q.1.cores = s.cores) _ _ rfl fun q hq b _ => ?_
  split
  · exact hq
  · split
    · dsimp only
      split <;> exact hq
    · exact hq

theorem State.countBatches_keeps (s : State) (r : PackRef) (p : Pack) (hp : s.pack r = some p) :
    (∃ q, (s.countBatches r).pack r = some q ∧ q.r = p.r ∧ q.m = p.m) ∧
      ∀ c i, ((s.countBatches r).core c).pipe i = (s.core c).pipe i := by
  obtain ⟨u, bs, heq, hu⟩ := s.countBatches_eq r p hp
  rw [heq]
  refine ⟨⟨_, State.pack_setPack _ _ _, rfl, rfl⟩, fun c i => ?_⟩
  rw [State.pipe_setPack, State.core, State.core, hu]

/-! ### The event -/

theorem engineOcc_eq (o : EngOp) : engineOcc o = engineCk o := by
  unfold engineOcc engineCk
  cases o.instr with
  | mmaq ta tw m a b td => simp
  | _ => rfl

theorem State.refOf_core {s : State} {core serial : Nat} {r : PackRef} (h : s.refOf core serial = some r) : r.core = core := by
  unfold State.refOf at h
  rw [Option.map_eq_some_iff] at h
  obtain ⟨e, -, rfl⟩ := h
  rfl

/-- The first entry of the queue with the uid that the engine runs is the one that it finds. -/
theorem find_running {queue : List EngOp} {o : EngOp} {i : Nat} (hi : queue[i]? = some o)
    (hfirst : ∀ j < i, ∀ x : EngOp, queue[j]? = some x → x.uid ≠ o.uid) :
    (List.range queue.length).find? (fun i => (queue[i]?.map fun o => o.uid) == some o.uid) = some i := by
  have hlen : i < queue.length := (List.getElem?_eq_some_iff.mp hi).1
  rw [List.find?_eq_some_iff_getElem]
  refine ⟨by simp [hi], i, by simpa using hlen, by simp, fun j hj => ?_⟩
  have hj' : j < queue.length := by omega
  have hne := hfirst j hj _ (List.getElem?_eq_getElem hj')
  simpa [hj'] using hne

/-- The tile that an engine instruction leaves under a number of its pipeline. -/
def tileAfter (s : State) (core pipe : Nat) (p : Pack) (o : EngOp) (x : Nat) : Tile :=
  match (engineRun (s.core core) pipe p o).2.1 with
  | some (m, t) => if x = p.m.tiles.getD m 16 then t else (s.core core).tile pipe x
  | none => (s.core core).tile pipe x

/-- The running instruction ends where its time has passed: its entry leaves the queue, and its pack and its tile are what its computation
gives. -/
theorem engineEnd_next {s : State} {core pipe i : Nat} {o : EngOp} {r : PackRef} {p : Pack} (hrun : ((s.core core).pipe pipe).run = some o.uid)
    (hi : ((s.core core).pipe pipe).queue[i]? = some o)
    (hfirst : ∀ j < i, ∀ x : EngOp, ((s.core core).pipe pipe).queue[j]? = some x → x.uid ≠ o.uid)
    (hdue : ((s.core core).pipe pipe).busy + engineCk o ≤ s.now) (href : s.refOf core o.serial = some r) (hp : s.pack r = some p) :
    ∃ t q, exec (.engineInstructionEnd core pipe) s = .next t ∧ t.pack r = some q ∧ t.mem = s.mem ∧
      q.r = (engineRun (s.core core) pipe p o).1.r ∧ q.m = (engineRun (s.core core) pipe p o).1.m ∧
      ((t.core core).pipe pipe).queue = ((s.core core).pipe pipe).queue.eraseIdx i ∧
      ∀ x, (t.core core).tile pipe x = tileAfter s core pipe p o x := by
  let s1 := (s.modPipe core pipe fun x => { x with queue := x.queue.eraseIdx i, run := none }).engineStart core pipe
  let e := engineRun (s.core core) pipe p o
  let s2 := match e.2.1 with
    | some (m, t) => s1.modCore core fun k => k.setTile pipe (p.m.tiles.getD m 16) t
    | none => s1
  have hexec : exec (.engineInstructionEnd core pipe) s = .next ((s2.setPack r (e.1.endMember o.batch e.2.2.1 e.2.2.2)).countBatches r) := by
    have hlate : ¬s.now < ((s.core core).pipe pipe).busy + engineOcc o := by rw [engineOcc_eq]; omega
    refine (show exec (.engineInstructionEnd core pipe) s = execEngineInstructionEnd core pipe s from rfl).trans ?_
    unfold execEngineInstructionEnd
    dsimp only
    rw [hrun, Option.bind_some, find_running hi hfirst]
    dsimp only
    rw [hi]
    dsimp only
    rw [if_neg hlate, href]
    dsimp only
    rw [hp] <;> rfl
  obtain ⟨⟨q, hq, hqr, hqm⟩, hpipes⟩ := State.countBatches_keeps (s2.setPack r (e.1.endMember o.batch e.2.2.1 e.2.2.2)) r _ (State.pack_setPack _ _ _)
  have hs1 := State.pipe_engineStart (s.modPipe core pipe fun x => { x with queue := x.queue.eraseIdx i, run := none }) core pipe core pipe
  rw [State.pipe_modPipe, if_pos ⟨rfl, rfl⟩] at hs1
  obtain ⟨hqueue1, htiles1⟩ := hs1
  have hs2 : ((s2.core core).pipe pipe).queue = ((s1.core core).pipe pipe).queue ∧ ∀ x, (s2.core core).tile pipe x = tileAfter s core pipe p o x := by
    have htile1 (x : Nat) : (s1.core core).tile pipe x = (s.core core).tile pipe x := by
      rw [Core.tile, htiles1]
      rfl
    have hafter : tileAfter s core pipe p o = fun x => match e.2.1 with
      | some (m, t) => if x = p.m.tiles.getD m 16 then t else (s.core core).tile pipe x
      | none => (s.core core).tile pipe x := rfl
    rw [hafter]
    cases hout : e.2.1 with
    | none =>
      have h2 : s2 = s1 := by dsimp only [s2]; rw [hout]
      rw [h2]
      exact ⟨rfl, htile1⟩
    | some mt =>
      obtain ⟨m, t⟩ := mt
      have h2 : s2 = s1.modCore core fun k => k.setTile pipe (p.m.tiles.getD m 16) t := by dsimp only [s2]; rw [hout]
      rw [h2, State.core_modCore, if_pos rfl]
      refine ⟨by rw [Core.pipe_setTile, if_pos rfl], fun x => ?_⟩
      rw [Core.tile, Core.pipe_setTile, if_pos rfl]
      dsimp only
      rw [Tbl.find_put, ← htile1]
      split <;> rfl
  obtain ⟨hqueue2, htiles2⟩ := hs2
  refine ⟨_, q, hexec, hq, ?_, hqr, hqm, ?_, fun x => ?_⟩
  · have hmem := execEngineInstructionEnd_mem core pipe s
    rw [show execEngineInstructionEnd core pipe s = _ from hexec] at hmem
    exact (outMem_next _ _).mp hmem
  · rw [hpipes, State.pipe_setPack, hqueue2, hqueue1]
  · rw [← htiles2, Core.tile, hpipes, State.pipe_setPack]
    rfl

end Sys2Proof.Machine
end

section
/-! SUPPORT. The bytes of tiles: the array that the engine reads, the list that it writes, and the elements in both (R25, R142, R145). -/

open Sys2Proof.Claims

namespace Sys2Proof.Machine

/-! ### Bytes as numbers -/

/-- The bytes of an array, as numbers. -/
def arrByte (a : Array Byte) (k : Nat) : Nat := (a.getD k 0).toNat

/-- The bytes of a list, as numbers. -/
def listByte (bs : List Byte) (k : Nat) : Nat := (bs.getD k 0).toNat

theorem arrByte_lt (a : Array Byte) (k : Nat) : arrByte a k < 256 := BitVec.isLt _

theorem listByte_lt (bs : List Byte) (k : Nat) : listByte bs k < 256 := BitVec.isLt _

theorem listByte_past (bs : List Byte) (k : Nat) (h : bs.length ≤ k) : listByte bs k = 0 := by
  rw [listByte, List.getD_eq_default _ _ h]
  rfl

theorem lend_succ (f : Nat → Nat) (off n : Nat) : lend f off (n + 1) = lend f off n + f (off + n) * 256 ^ n := by
  simp [lend, List.range_succ]

theorem lend_congr {f g : Nat → Nat} {off n : Nat} (h : ∀ i < n, f (off + i) = g (off + i)) : lend f off n = lend g off n := by
  induction n with
  | zero => rfl
  | succ n ih => rw [lend_succ, lend_succ, ih fun i hi => h i (by omega), h n (by omega)]

theorem lend_lt (f : Nat → Nat) (hf : ∀ k, f k < 256) (off n : Nat) : lend f off n < 256 ^ n := by
  induction n with
  | zero => simp [lend]
  | succ n ih =>
    have hbyte : f (off + n) * 256 ^ n ≤ 255 * 256 ^ n := Nat.mul_le_mul_right _ (by have := hf (off + n); omega)
    rw [lend_succ, Nat.pow_succ]
    omega

theorem leNat_append (bs : List Byte) (b : Byte) : leNat (bs ++ [b]) = leNat bs + b.toNat * 256 ^ bs.length := by
  induction bs with
  | nil => simp [leNat]
  | cons c bs ih =>
    rw [List.cons_append, leNat, ih, leNat, List.length_cons, Nat.pow_succ']
    ring

/-- Little-endian bytes read one by one. -/
theorem leNat_range (f : Nat → Byte) (n : Nat) : leNat ((List.range n).map f) = lend (fun k => (f k).toNat) 0 n := by
  induction n with
  | zero => rfl
  | succ n ih =>
    rw [List.range_succ, List.map_append, List.map_cons, List.map_nil, leNat_append, lend_succ, ih, List.length_map, List.length_range, Nat.zero_add]

theorem lend_shift (f : Nat → Nat) (off n : Nat) : lend (fun k => f (off + k)) 0 n = lend f off n := by simp [lend]

theorem arrNat_eq (a : Array Byte) (off n : Nat) : arrNat a off n = lend (arrByte a) off n := by
  rw [arrNat, leNat_range, ← lend_shift (arrByte a)]
  rfl

theorem elemAt_eq (a : Array Byte) (t : ElemTy) (k : Nat) : elemAt a t k = elt (arrByte a) t k := by
  unfold elemAt elt
  rw [arrNat_eq, Nat.pow_mul]
  rfl

theorem formatOf_eq (t : ElemTy) : (fmtOf t).getD f32 = formatOf t := by cases t <;> rfl

theorem fltAt_eq (a : Array Byte) (t : ElemTy) (k : Nat) : fltAt a t k = flt (arrByte a) t k := by
  rw [fltAt, flt, elemAt_eq, formatOf_eq]

theorem elt_lt (f : Nat → Nat) (hf : ∀ k, f k < 256) (t : ElemTy) (k : Nat) : elt f t k < 2 ^ (8 * t.bytes) := by
  unfold elt
  split
  next h =>
    rw [h]
    exact (Nat.mod_lt _ (by decide)).trans (by decide)
  next => exact (lend_lt f hf _ _).trans_eq (by rw [Nat.pow_mul])

theorem listByte_lend (bs : List Byte) (off n : Nat) (h : off + n ≤ bs.length) : lend (listByte bs) off n = leNat ((bs.drop off).take n) := by
  have hlist : (bs.drop off).take n = (List.range n).map fun i => bs.getD (off + i) 0 := by
    refine List.ext_getElem (by simp; omega) fun i h1 h2 => ?_
    have hi : i < n := by simpa using h2
    have hlt : off + i < bs.length := by omega
    simp [hlt]
  rw [hlist, leNat_range, ← lend_shift]
  rfl

/-! ### A tile read as an array -/

theorem tileFold_getD (l : List (Nat × Byte)) (k : Nat) (n : Nat) :
    (l.foldr (fun e (a : Array Byte) => a.setIfInBounds e.1 e.2) (Array.replicate n 0)).size = n ∧
    (l.foldr (fun e (a : Array Byte) => a.setIfInBounds e.1 e.2) (Array.replicate n 0)).getD k 0 = if k < n then Sparse.get k l else 0 := by
  induction l with
  | nil =>
    refine ⟨Array.size_replicate, ?_⟩
    rw [Array.getD_eq_getD_getElem?, List.foldr_nil, Array.getElem?_replicate]
    split <;> rfl
  | cons e l ih =>
    obtain ⟨hsize, hget⟩ := ih
    obtain ⟨i, x⟩ := e
    rw [List.foldr_cons]
    refine ⟨by rw [Array.size_setIfInBounds, hsize], ?_⟩
    rw [Array.getD_eq_getD_getElem?] at hget ⊢
    rw [Array.getElem?_setIfInBounds, hsize, Sparse.get]
    by_cases hik : i = k
    · subst hik
      by_cases hn : i < n <;> simp [hn]
    · rw [if_neg hik, if_neg hik, hget]

/-- The engine's array of a tile holds its bytes. -/
theorem arrByte_tileBytes (t : Tile) (k : Nat) : arrByte (tileBytes t) k = if k < 16384 then (Sparse.get k t.data).toNat else 0 := by
  rw [arrByte, tileBytes, (tileFold_getD t.data k 16384).2]
  split <;> rfl

theorem tbyte_eq (s : State) (r : PackRef) (p : Pack) (m : Nat) :
    tbyte s r p m = arrByte (tileBytes ((s.core r.core).tile r.pipe (p.m.tiles.getD m 16))) := by
  funext k
  rw [arrByte_tileBytes, tbyte]

/-! ### A tile written from a list -/

theorem get_zipIdx_filter (bs : List Byte) (i k : Nat) :
    Sparse.get k (((bs.zipIdx i).filter fun e => e.1 != 0).map fun e => (e.2, e.1)) = if i ≤ k then bs.getD (k - i) 0 else 0 := by
  induction bs generalizing i with
  | nil => simp
  | cons b bs ih =>
    rw [List.zipIdx_cons]
    have hstep : Sparse.get k ((((b, i) :: bs.zipIdx (i + 1)).filter fun e => e.1 != 0).map fun e => (e.2, e.1)) =
        if i = k then b else Sparse.get k (((bs.zipIdx (i + 1)).filter fun e => e.1 != 0).map fun e => (e.2, e.1)) := by
      by_cases hb : b = 0
      · subst hb
        rw [List.filter_cons_of_neg (by simp)]
        split
        next h => rw [ih, if_neg (by omega)]
        next => rfl
      · rw [List.filter_cons_of_pos (by simpa using hb)]
        rfl
    rw [hstep, ih]
    by_cases hik : i = k
    · subst hik
      simp
    · rw [if_neg hik]
      by_cases hle : i ≤ k
      · obtain ⟨j, rfl⟩ : ∃ j, k = i + 1 + j := ⟨k - (i + 1), by omega⟩
        rw [if_pos (by omega), if_pos hle, show i + 1 + j - (i + 1) = j by omega, show i + 1 + j - i = j + 1 by omega, List.getD_cons_succ]
      · rw [if_neg (by omega), if_neg hle]

/-- The data of a list of bytes holds them from byte 0. -/
theorem get_tileOf (bs : List Byte) (k : Nat) : Sparse.get k (tileOf bs) = bs.getD k 0 := by
  rw [tileOf, get_zipIdx_filter, if_pos (Nat.zero_le k), Nat.sub_zero]

/-- A tile of a list that fits in it. -/
theorem arrByte_tileOf (bs : List Byte) (mark : Bool) (h : bs.length ≤ 16384) :
    arrByte (tileBytes { data := tileOf bs, poison := mark }) = listByte bs := by
  funext k
  rw [arrByte_tileBytes, get_tileOf]
  split
  · rfl
  · exact (listByte_past bs k (by omega)).symm

/-! ### Results in their layout -/

theorem length_packBytes (e : Nat) (xs : List Nat) : (packBytes e xs).length = e * xs.length :=
  length_flatMap_blocks e (leBytes e) (length_leBytes e) xs

/-- A result is read back from its place. -/
theorem lend_packBytes (e : Nat) (xs : List Nat) (k : Nat) (hk : k < xs.length) : lend (listByte (packBytes e xs)) (k * e) e = xs[k] % 256 ^ e := by
  have hfit : k * e + e ≤ (packBytes e xs).length := by
    rw [length_packBytes, Nat.mul_comm, ← Nat.mul_succ]
    exact Nat.mul_le_mul_left e hk
  have hblock := take_drop_flatMap e (leBytes e) (length_leBytes e) xs [] k hk
  rw [List.append_nil] at hblock
  rw [listByte_lend _ _ _ hfit, Nat.mul_comm k e, packBytes, hblock, leNat_leBytes]

/-- A grid row by row is a list over its places. -/
theorem flatMap_range_map {α : Type} (n m : Nat) (hm : 0 < m) (f : Nat → Nat → α) :
    ((List.range n).flatMap fun i => (List.range m).map (f i)) = (List.range (n * m)).map fun k => f (k / m) (k % m) := by
  induction n with
  | zero => simp
  | succ n ih =>
    rw [List.range_succ, List.flatMap_append, ih, Nat.succ_mul, List.range_add, List.map_append, List.map_map]
    congr 1
    rw [List.flatMap_cons, List.flatMap_nil, List.append_nil]
    refine List.map_congr_left fun j hj => ?_
    have hj : j < m := List.mem_range.mp hj
    rw [Function.comp_apply, Nat.mul_comm n m, Nat.mul_add_div hm, Nat.mul_add_mod, Nat.div_eq_of_lt hj, Nat.mod_eq_of_lt hj, Nat.add_zero]

/-- The bytes of a 64 x 64 result of 32-bit elements. -/
theorem grid64_bytes (f : Nat → Nat → Nat × Nat) : (grid64 f).1.length = 16384 ∧
    ∀ i < 64, ∀ j < 64, lend (listByte (grid64 f).1) ((i * 64 + j) * 4) 4 = (f i j).1 % 2 ^ 32 := by
  unfold grid64
  dsimp only
  rw [flatMap_range_map 64 64 (by decide), List.map_map]
  refine ⟨by rw [length_packBytes]; simp, fun i hi j hj => ?_⟩
  rw [lend_packBytes _ _ _ (by simp; omega)]
  have hdiv : (i * 64 + j) / 64 = i := by omega
  have hmod : (i * 64 + j) % 64 = j := by omega
  simp [hdiv, hmod]

end Sys2Proof.Machine
end

section
/-! SUPPORT. The exact sums of the engine: chunks and groups of products, and the accumulators that they are added to (R89, R91, R92). -/

open Sys2Proof.Claims

namespace Sys2Proof.Machine

/-! ### Exact sums -/

/-- The parts of a finite value. -/
def finParts (v : FVal) : Option (Bool × Nat × Int) := match v with | .fin n m e => some (n, m, e) | _ => none

theorem num_eq_zero (n : Bool) (m : Nat) (e : Int) : num n m e = 0 ↔ m = 0 := by
  rw [num_eq, mul_eq_zero, mul_eq_zero, Nat.cast_eq_zero]
  exact ⟨fun h => (h.resolve_left (signum_ne_zero n)).resolve_right (two_zpow_pos e).ne', fun h => .inr (.inl h)⟩

/-- The least exponent of the nonzero terms of a sum. -/
def leastExp (fs : List (Bool × Nat × Int)) : Int := fs.foldl (fun (a : Int) x => if x.2.1 = 0 then a else min a x.2.2) 0

theorem leastExp_le (fs : List (Bool × Nat × Int)) (x : Bool × Nat × Int) (hx : x ∈ fs) (hm : x.2.1 ≠ 0) : leastExp fs ≤ x.2.2 := by
  have hstep (fs : List (Bool × Nat × Int)) (a : Int) : fs.foldl (fun (a : Int) x => if x.2.1 = 0 then a else min a x.2.2) a ≤ a ∧
      ∀ x ∈ fs, x.2.1 ≠ 0 → fs.foldl (fun (a : Int) x => if x.2.1 = 0 then a else min a x.2.2) a ≤ x.2.2 := by
    induction fs generalizing a with
    | nil => simp
    | cons y fs ih =>
      obtain ⟨hle, hall⟩ := ih (if y.2.1 = 0 then a else min a y.2.2)
      rw [List.foldl_cons]
      refine ⟨hle.trans (by split <;> simp), fun x hx hm => ?_⟩
      rcases List.mem_cons.mp hx with rfl | hx
      · rw [if_neg hm] at hle ⊢
        exact hle.trans (min_le_right _ _)
      · exact hall x hx hm
  exact (hstep fs 0).2 x hx hm

/-- The terms at one exponent make the exact sum. -/
theorem scaledSum (fs : List (Bool × Nat × Int)) (e : Int) (he : ∀ x ∈ fs, x.2.1 ≠ 0 → e ≤ x.2.2) (a : Int) :
    ((fs.foldl (fun (a : Int) x => if x.2.1 = 0 then a else a + scaled x.1 x.2.1 x.2.2 e) a : Int) : ℚ) * 2 ^ e =
      a * 2 ^ e + (fs.map fun x => num x.1 x.2.1 x.2.2).sum := by
  induction fs generalizing a with
  | nil => simp
  | cons x fs ih =>
    rw [List.foldl_cons, ih (fun y hy => he y (by simp [hy])), List.map_cons, List.sum_cons]
    by_cases hm : x.2.1 = 0
    · rw [if_pos hm, (num_eq_zero x.1 x.2.1 x.2.2).mpr hm, zero_add]
    · rw [if_neg hm, Int.cast_add, add_mul, num_scaled _ _ _ _ (he x (by simp) hm), add_assoc]

theorem sum_filterMap_finParts (ps : List FVal) : ((ps.filterMap finParts).map fun x => num x.1 x.2.1 x.2.2).sum = (ps.map rat).sum := by
  induction ps with
  | nil => rfl
  | cons v ps ih =>
    cases v with
    | fin n m e => rw [List.filterMap_cons_some (f := finParts) (b := (n, m, e)) rfl, List.map_cons, List.sum_cons, ih, List.map_cons, List.sum_cons]; rfl
    | nan s => rw [List.filterMap_cons_none rfl, ih, List.map_cons, List.sum_cons, show rat (.nan s) = 0 from rfl, zero_add]
    | inf n => rw [List.filterMap_cons_none rfl, ih, List.map_cons, List.sum_cons, show rat (.inf n) = 0 from rfl, zero_add]

/-- The exact sum of the finite ones of the values, and the sign of a sum that is zero (R89). -/
theorem exactSum_spec (ps : List FVal) : ∃ n m e, exactSum ps = .fin n m e ∧ num n m e = (ps.map rat).sum ∧
    (m = 0 → n = (!(ps.filterMap finParts).isEmpty && (ps.filterMap finParts).all fun x => x.1 && x.2.1 == 0)) ∧
    (m ≠ 0 → (n = true ↔ (ps.map rat).sum < 0)) := by
  have hsum := scaledSum (ps.filterMap finParts) (leastExp (ps.filterMap finParts)) (leastExp_le _) 0
  rw [sum_filterMap_finParts, Int.cast_zero, zero_mul, zero_add] at hsum
  set t := (ps.filterMap finParts).foldl (fun (a : Int) x => if x.2.1 = 0 then a else a + scaled x.1 x.2.1 x.2.2 (leastExp (ps.filterMap finParts))) 0
    with ht
  have hexact : exactSum ps = if t = 0 then .fin (!(ps.filterMap finParts).isEmpty && (ps.filterMap finParts).all fun x => x.1 && x.2.1 == 0) 0 0
      else .fin (t < 0) t.natAbs (leastExp (ps.filterMap finParts)) := rfl
  rw [hexact]
  split
  next h0 =>
    refine ⟨_, 0, 0, rfl, ?_, fun _ => rfl, fun h => absurd rfl h⟩
    rw [← hsum, h0]
    simp [num]
  next h0 =>
    refine ⟨_, _, _, rfl, (num_natAbs _ _).trans hsum, fun h => absurd (Int.natAbs_eq_zero.mp h) h0, fun _ => ?_⟩
    rw [← hsum, decide_eq_true_eq, mul_neg_iff]
    have := two_zpow_pos (leastExp (ps.filterMap finParts))
    simp [this, this.not_gt]

theorem FVal.finite_fin (v : FVal) (hn : v.isNan = false) (hi : v.isInf = false) : ∃ n m e, v = .fin n m e := by
  cases v with
  | fin n m e => exact ⟨n, m, e, rfl⟩
  | nan s => cases hn
  | inf n => cases hi

/-- The exact sum of finite values; a zero is -0 where each of them is -0. -/
theorem exactSum_finite (ps : List FVal) (hfin : ∀ v ∈ ps, ∃ n m e, v = .fin n m e) : ∃ n m e, exactSum ps = .fin n m e ∧
    num n m e = (ps.map rat).sum ∧ (m = 0 → (n = true ↔ ps ≠ [] ∧ ∀ v ∈ ps, rat v = 0 ∧ v.neg = true)) ∧
    (m ≠ 0 → (n = true ↔ (ps.map rat).sum < 0)) := by
  obtain ⟨n, m, e, hsum, hnum, hzero, hsign⟩ := exactSum_spec ps
  refine ⟨n, m, e, hsum, hnum, fun hm => ?_, hsign⟩
  have hmem : ∀ x, x ∈ ps.filterMap finParts ↔ .fin x.1 x.2.1 x.2.2 ∈ ps := fun x => by
    rw [List.mem_filterMap]
    refine ⟨fun ⟨v, hv, hx⟩ => ?_, fun hx => ⟨_, hx, rfl⟩⟩
    obtain ⟨n, m, e, rfl⟩ := hfin v hv
    cases hx
    exact hv
  have hempty : (ps.filterMap finParts).isEmpty = false ↔ ps ≠ [] := by
    rw [List.isEmpty_eq_false_iff_exists_mem, ne_eq, ← List.isEmpty_iff, Bool.not_eq_true, List.isEmpty_eq_false_iff_exists_mem]
    refine ⟨fun ⟨x, hx⟩ => ⟨_, (hmem x).mp hx⟩, fun ⟨v, hv⟩ => ?_⟩
    obtain ⟨n, m, e, rfl⟩ := hfin v hv
    exact ⟨(n, m, e), (hmem _).mpr hv⟩
  rw [hzero hm, Bool.and_eq_true, Bool.not_eq_true', hempty, List.all_eq_true]
  refine and_congr_right fun _ => ⟨fun h v hv => ?_, fun h x hx => ?_⟩
  · obtain ⟨n, m, e, rfl⟩ := hfin v hv
    have := h (n, m, e) ((hmem _).mpr hv)
    rw [Bool.and_eq_true, beq_iff_eq] at this
    exact ⟨(num_eq_zero n m e).mpr this.2, this.1⟩
  · obtain ⟨hr, hneg⟩ := h _ ((hmem x).mp hx)
    rw [Bool.and_eq_true, beq_iff_eq]
    exact ⟨hneg, (num_eq_zero _ _ _).mp hr⟩

/-! ### Products of pairs -/

/-- A pair whose product is no value: a NaN, or an infinity times zero (R92). -/
def badPair (e : FVal × FVal) : Bool := e.1.isNan || e.2.isNan || (e.1.isInf && e.2.isZero) || (e.1.isZero && e.2.isInf)

/-- The product of a pair, or a NaN where it has none. -/
def prodVal (e : FVal × FVal) : FVal := (mulVal e.1 e.2).getD (.nan false)

/-- The product of two values that have one. -/
theorem mulVal_good (x y : FVal) (h : badPair (x, y) = false) : mulVal x y = some (prodVal (x, y)) ∧
    (∀ n, (prodVal (x, y) == .inf n) = ((x.isInf || y.isInf) && ((x.neg != y.neg) == n))) ∧
    (x.isInf = false → y.isInf = false → ∃ m e, prodVal (x, y) = .fin (x.neg != y.neg) m e ∧ rat (prodVal (x, y)) = rat x * rat y) := by
  have hinf (a n : Bool) : (FVal.inf a == FVal.inf n) = (a == n) := by cases a <;> cases n <;> rfl
  have hfin (a n : Bool) (m : Nat) (e : Int) : (FVal.fin a m e == FVal.inf n) = false := rfl
  cases x with
  | nan s => cases h
  | inf a =>
    cases y with
    | nan s => cases h
    | inf b => exact ⟨rfl, fun n => hinf _ n, nofun⟩
    | fin b m e =>
      cases m with
      | zero => cases h
      | succ m => exact ⟨rfl, fun n => hinf _ n, nofun⟩
  | fin a m e =>
    cases y with
    | nan s => cases h
    | inf b =>
      cases m with
      | zero => cases h
      | succ m =>
        refine ⟨rfl, fun n => (hinf _ n).trans ?_, fun _ => nofun⟩
        cases a <;> cases b <;> rfl
    | fin b k j => exact ⟨rfl, fun n => hfin _ n _ _, fun _ _ => ⟨_, _, rfl, num_mul a m e b k j⟩⟩

/-- A pair without a product is a NaN among the operands, or is none. -/
theorem mulVal_bad (x y : FVal) (h : badPair (x, y) = true) : (x.isNan || y.isNan) = true ∨ mulVal x y = none := by
  cases x with
  | nan s => exact .inl rfl
  | inf a =>
    cases y with
    | nan s => exact .inl rfl
    | inf b => cases h
    | fin b m e =>
      cases m with
      | zero => exact .inr rfl
      | succ m => cases h
  | fin a m e =>
    cases y with
    | nan s => exact .inl rfl
    | inf b =>
      cases m with
      | zero => exact .inr rfl
      | succ m => cases h
    | fin b k j => cases m <;> cases h

theorem any_eq_any_of_mem {α : Type} (l : List α) (f g : α → Bool) (h : ∀ x ∈ l, f x = g x) : l.any f = l.any g := by
  induction l with
  | nil => rfl
  | cons x l ih => rw [List.any_cons, List.any_cons, h x (by simp), ih fun y hy => h y (by simp [hy])]

/-- A product that is an infinity of a sign. -/
def infPair (n : Bool) (e : FVal × FVal) : Bool := (e.1.isInf || e.2.isInf) && ((e.1.neg != e.2.neg) == n)

/-- The sum of products that all have a value. -/
theorem dot_good (xs : List (FVal × FVal)) (hbad : xs.any badPair = false) : (dot xs).val =
    if xs.any (infPair false) && xs.any (infPair true) then .nan false
    else if xs.any (infPair false) || xs.any (infPair true) then .inf (xs.any (infPair true)) else exactSum (xs.map prodVal) := by
  have hgood : ∀ e ∈ xs, badPair e = false := by simpa using hbad
  have hnan : (xs.any fun e => e.1.isNan || e.2.isNan) = false := by
    rw [List.any_eq_false]
    intro e he
    have := hgood e he
    unfold badPair at this
    simp only [Bool.or_eq_false_iff] at this
    simp [this.1.1]
  have hprods : (xs.map fun e => mulVal e.1 e.2) = (xs.map prodVal).map some := by
    rw [List.map_map]
    exact List.map_congr_left fun e he => (mulVal_good e.1 e.2 (hgood e he)).1
  have hnone : ((xs.map prodVal).map some).any (fun q => q.isNone) = false := by simp
  have hvs : ((xs.map prodVal).map some).filterMap id = xs.map prodVal := by simp [List.filterMap_map]
  have hinf (n : Bool) : (xs.map prodVal).any (fun v => v == .inf n) = xs.any (infPair n) := by
    rw [List.any_map]
    exact any_eq_any_of_mem _ _ _ fun e he => (mulVal_good e.1 e.2 (hgood e he)).2.1 n
  unfold dot
  dsimp only
  rw [hprods, hnan, hnone, hvs, hinf, hinf, Bool.false_or, Bool.false_or]
  split
  · rfl
  · split <;> rfl

/-- A sum with a product of no value is a NaN. -/
theorem dot_bad (xs : List (FVal × FVal)) (hbad : xs.any badPair = true) : (dot xs).val = .nan false := by
  have hnan : ((xs.any fun e => e.1.isNan || e.2.isNan) || (xs.map fun e => mulVal e.1 e.2).any fun q => q.isNone) = true := by
    obtain ⟨e, he, hbe⟩ := List.any_eq_true.mp hbad
    rw [Bool.or_eq_true, List.any_eq_true, List.any_eq_true]
    exact (mulVal_bad e.1 e.2 hbe).imp (fun h => ⟨e, he, h⟩) fun h => ⟨none, List.mem_map.mpr ⟨e, he, h⟩, rfl⟩
  unfold dot
  dsimp only
  rw [hnan, Bool.true_or, if_pos rfl]

theorem any_infPair_false (xs : List (FVal × FVal)) (ht : xs.any (infPair true) = false) (hf : xs.any (infPair false) = false) :
    ∀ e ∈ xs, e.1.isInf = false ∧ e.2.isInf = false := fun e he => by
  rw [List.any_eq_false] at ht hf
  have h1 := ht e he
  have h2 := hf e he
  unfold infPair at h1 h2
  rw [← Bool.or_eq_false_iff]
  cases hs : (e.1.neg != e.2.neg)
  · rw [hs] at h2
    simpa using h2
  · rw [hs] at h1
    simpa using h1

/-- The chunk's sum is what R89 and R92 say of it. -/
theorem dot_chunkTerm (xs : List (FVal × FVal)) : ChunkTerm xs (dot xs).val := by
  have hchunk (v : FVal) (h1 : xs.any badPair = true ∨ (xs.any (infPair true) = true ∧ xs.any (infPair false) = true) → v.isNan = true)
      (h2 : xs.any badPair = false → ∀ n, xs.any (infPair n) = true → xs.any (infPair (!n)) = false → v = .inf n)
      (h3 : xs.any badPair = false → xs.any (infPair true) = false → xs.any (infPair false) = false → ∃ n m e, v = .fin n m e ∧
        num n m e = (xs.map fun x => rat x.1 * rat x.2).sum ∧
        (m = 0 → (n = true ↔ xs ≠ [] ∧ ∀ x ∈ xs, rat x.1 * rat x.2 = 0 ∧ x.1.neg ≠ x.2.neg))) : ChunkTerm xs v := ⟨h1, h2, h3⟩
  cases hbad : xs.any badPair
  case true => exact hchunk _ (fun _ => by rw [dot_bad xs hbad]; rfl) (by simp [hbad]) (by simp [hbad])
  case false =>
    have hdot := dot_good xs hbad
    refine hchunk _ (fun h => ?_) (fun _ n hn hno => ?_) (fun _ ht hf => ?_)
    · obtain ⟨ht, hf⟩ := h.resolve_left (by simp [hbad])
      rw [hdot, ht, hf]
      rfl
    · cases n
      case false =>
        rw [hdot, hn, show xs.any (infPair true) = false from hno]
        rfl
      case true =>
        rw [hdot, hn, show xs.any (infPair false) = false from hno]
        rfl
    · rw [ht, hf] at hdot
      have hprod : ∀ e ∈ xs, ∃ m x, prodVal e = .fin (e.1.neg != e.2.neg) m x ∧ rat (prodVal e) = rat e.1 * rat e.2 := fun e he => by
        obtain ⟨h1, h2⟩ := any_infPair_false xs ht hf e he
        exact (mulVal_good e.1 e.2 (List.any_eq_false.mp hbad e he |> Bool.eq_false_iff.mpr)).2.2 h1 h2
      obtain ⟨n, m, e, hsum, hnum, hzero, -⟩ := exactSum_finite (xs.map prodVal) fun v hv => by
        obtain ⟨x, hx, rfl⟩ := List.mem_map.mp hv
        obtain ⟨m, e, h, -⟩ := hprod x hx
        exact ⟨_, m, e, h⟩
      refine ⟨n, m, e, hdot.trans hsum, hnum.trans ?_, fun hm => (hzero hm).trans ?_⟩
      · rw [List.map_map]
        exact congrArg List.sum (List.map_congr_left fun x hx => (hprod x hx).choose_spec.choose_spec.2)
      · rw [List.forall_mem_map, ne_eq, List.map_eq_nil_iff]
        refine and_congr_right fun _ => forall₂_congr fun x hx => ?_
        obtain ⟨m, e, h, hr⟩ := hprod x hx
        rw [hr, h]
        simp [FVal.neg]

end Sys2Proof.Machine
end

section
/-! SUPPORT. The products of the engine: MMA, MMAS and MMAQ (R89 to R92, R157 to R159). -/

open Sys2Proof.Claims

namespace Sys2Proof.Machine

/-! ### Accumulators -/

theorem put_bits_f32 (v : FVal) : ((engCfg f32).put v).bits = termBits v := by
  cases v with
  | nan s => rfl
  | inf n => cases n <;> rfl
  | fin n m e => rfl

theorem accumulate_bits (acc : Nat × Nat) (t : Term) (srcs : List FVal) : (accumulate acc t srcs).1 = addRne acc.1 (termBits t.val) := by
  rw [← put_bits_f32]
  rfl

theorem addRne_lt (x y : Nat) : addRne x y < 2 ^ 32 := FCfg.add_lt _ sound_f32 _ _

/-- Terms added in their order. -/
theorem foldl_accumulate (T : Nat → Term) (S : Nat → List FVal) (n : Nat) (acc : Nat × Nat) :
    ((List.range n).foldl (fun q g => accumulate q (T g) (S g)) acc).1 = termChain (fun g => (T g).val) n acc.1 := by
  unfold termChain
  exact (List.foldl_hom Prod.fst fun q g => (accumulate_bits q (T g) (S g)).symm).symm

theorem termChain_lt (T : Nat → FVal) (n acc : Nat) (hacc : acc < 2 ^ 32) : termChain T n acc < 2 ^ 32 :=
  List.foldlRecOn (motive := fun q => q < 2 ^ 32) _ _ hacc fun q _ _ _ => addRne_lt q _

theorem cut32_range (x : Int) : -(2 ^ 31) ≤ cut32 x ∧ cut32 x < 2 ^ 31 := by
  unfold cut32
  split
  · omega
  · split <;> omega

theorem toInt_ofInt32 (z : Int) (h1 : -(2 ^ 31) ≤ z) (h2 : z < 2 ^ 31) : (BitVec.ofInt 32 z).toInt = z := by
  rw [BitVec.toInt_ofInt]
  exact Int.bmod_eq_of_le (by omega) (by omega)

/-- Integer sums added in their order, each cut. -/
theorem foldl_accumulateInt (g : Nat → Int) (n : Nat) (acc : Nat × Nat) (hacc : acc.1 < 2 ^ 32) :
    ((List.range n).foldl (fun q ch => accumulateInt q (g ch)) acc).1 =
      (BitVec.ofInt 32 ((List.range n).foldl (fun q ch => cut32 (q + g ch)) (BitVec.ofNat 32 acc.1).toInt)).toNat := by
  induction n with
  | zero =>
    rw [List.range_zero, List.foldl_nil, List.foldl_nil, BitVec.ofInt_toInt, BitVec.toNat_ofNat, Nat.mod_eq_of_lt hacc]
  | succ n ih =>
    have hrange : ∀ z : Int, -(2 ^ 31) ≤ z ∧ z < 2 ^ 31 → -(2 ^ 31) ≤ (List.range n).foldl (fun q ch => cut32 (q + g ch)) z ∧
        (List.range n).foldl (fun q ch => cut32 (q + g ch)) z < 2 ^ 31 :=
      fun z hz => List.foldlRecOn (motive := fun q : Int => -(2 ^ 31) ≤ q ∧ q < 2 ^ 31) _ _ hz fun q _ ch _ => cut32_range _
    obtain ⟨h1, h2⟩ := hrange (BitVec.ofNat 32 acc.1).toInt ⟨BitVec.le_toInt _, BitVec.toInt_lt⟩
    rw [List.range_succ, List.foldl_append, List.foldl_append]
    simp only [List.foldl_cons, List.foldl_nil]
    rw [accumulateInt, ih, BitVec.ofNat_toNat, BitVec.setWidth_eq, toInt_ofInt32 _ h1 h2]
    rfl

/-! ### Products -/

theorem kOf_eq (t : ElemTy) : kOf t = kSize t := rfl

theorem kSize_chunks (t : ElemTy) : (kSize t + 31) / 32 = kSize t / 32 ∧ ∀ ch < kSize t / 32, ∀ x < 32, ch * 32 + x < kSize t := by
  unfold kSize
  split <;> exact ⟨rfl, by omega⟩

/-- The low bits of an element of a tile are the element. -/
theorem elemInt_elt (f : Nat → Nat) (hf : ∀ k, f k < 256) (t : ElemTy) (k : Nat) : elemInt t (elt f t k) = sourceInt t (elt f t k) := by
  have hlt := elt_lt f hf t k
  cases hint : t.isInt with
  | true => exact elemInt_eq t hint _
  | false =>
    have hwide : elt f t k < 2 ^ 64 := hlt.trans_le (Nat.pow_le_pow_right (by decide) (by cases t <;> decide))
    have hunsigned : elemSigned t = false ∧ sourceInt t (elt f t k) = ((elt f t k % 2 ^ 64 : Nat) : Int) := by
      cases t with
      | f32 | f16 | bf16 | e4m3 | e5m2 | q8 | q4 => exact ⟨rfl, rfl⟩
      | i32 | n32 | i64 | n64 | i16 | n16 | i8 | n8 => cases hint
    obtain ⟨hsigned, hsource⟩ := hunsigned
    rw [elemInt, hsigned, hsource, elemWidth, Nat.mod_eq_of_lt hlt, Nat.mod_eq_of_lt hwide, Bool.false_and, if_neg Bool.false_ne_true]

theorem filterMap_chunk (k ch : Nat) (h : ∀ x < 32, ch * 32 + x < k) :
    (List.range 32).filterMap (fun x => if ch * 32 + x < k then some (ch * 32 + x) else none) = (List.range 32).map fun x => ch * 32 + x := by
  rw [← List.filterMap_eq_map]
  exact List.filterMap_congr fun x hx => if_pos (h x (List.mem_range.mp hx))

theorem foldl_add_sum (l : List Nat) (g : Nat → Int) (a : Int) : l.foldl (fun a x => a + g x) a = a + (l.map g).sum := by
  induction l generalizing a with
  | nil => simp
  | cons x l ih => rw [List.foldl_cons, ih, List.map_cons, List.sum_cons, add_assoc]

/-- An element of a product is what R89 says of it, and an FP32 or a 32-bit pattern. -/
theorem mmaElem_spec (ta : ElemTy) (acc : Nat) (hacc : acc < 2 ^ 32) (f : Nat → FVal × FVal) (g : Nat → Int) :
    (mmaElem ta.isInt acc (kSize ta) f g).1 < 2 ^ 32 ∧
    if ta.isInt then (mmaElem ta.isInt acc (kSize ta) f g).1 = (BitVec.ofInt 32 ((List.range (kSize ta / 32)).foldl (fun q ch =>
        cut32 (q + ((List.range 32).map fun x => g (ch * 32 + x)).sum)) (BitVec.ofNat 32 acc).toInt)).toNat
    else ∃ T : Nat → FVal, (∀ ch < kSize ta / 32, ChunkTerm ((List.range 32).map fun x => f (ch * 32 + x)) (T ch)) ∧
      (mmaElem ta.isInt acc (kSize ta) f g).1 = termChain T (kSize ta / 32) acc := by
  obtain ⟨hchunks, hin⟩ := kSize_chunks ta
  have hsum (ch : Nat) (hch : ch < kSize ta / 32) : ((List.range 32).filterMap fun x => if ch * 32 + x < kSize ta then some (ch * 32 + x) else none) =
      (List.range 32).map fun x => ch * 32 + x := filterMap_chunk _ ch (hin ch hch)
  cases hint : ta.isInt with
  | true =>
    have h : (mmaElem true acc (kSize ta) f g).1 = (BitVec.ofInt 32 ((List.range (kSize ta / 32)).foldl (fun q ch =>
        cut32 (q + ((List.range 32).map fun x => g (ch * 32 + x)).sum)) (BitVec.ofNat 32 acc).toInt)).toNat := by
      rw [← foldl_accumulateInt _ _ (acc, 0) hacc, mmaElem, hchunks]
      refine congrArg Prod.fst (List.foldl_ext _ _ _ fun q ch hch => ?_)
      dsimp only
      rw [if_pos rfl, hsum ch (List.mem_range.mp hch), foldl_add_sum, zero_add, List.map_map]
      rfl
    exact ⟨h ▸ BitVec.isLt _, by rw [if_pos rfl]; exact h⟩
  | false =>
    have h : (mmaElem false acc (kSize ta) f g).1 =
        termChain (fun ch => (dot ((List.range 32).map fun x => f (ch * 32 + x))).val) (kSize ta / 32) acc := by
      rw [← foldl_accumulate (fun ch => dot ((List.range 32).map fun x => f (ch * 32 + x)))
        (fun ch => ((List.range 32).map fun x => f (ch * 32 + x)).flatMap fun e => [e.1, e.2]) _ (acc, 0), mmaElem, hchunks]
      refine congrArg Prod.fst (List.foldl_ext _ _ _ fun q ch hch => ?_)
      dsimp only
      rw [if_neg Bool.false_ne_true, hsum ch (List.mem_range.mp hch), List.map_map]
      rfl
    exact ⟨h ▸ termChain_lt _ _ _ hacc, by rw [if_neg Bool.false_ne_true]; exact ⟨_, fun ch _ => dot_chunkTerm _, h⟩⟩

theorem arrNat_lt (a : Array Byte) (off : Nat) : arrNat a off 4 < 2 ^ 32 := by
  rw [arrNat_eq]
  exact (lend_lt _ (arrByte_lt a) _ _).trans_eq (by decide)

/-- The bytes of a product: a row that is not in form is NaNs, and any other is a row of R89. -/
theorem mmaOn_rows (c b : Array Byte) (ta tb : ElemTy) (a : Nat → Nat → Nat) (bad : Nat → Bool) :
    (mmaOn c b ta tb a bad).1.length = 16384 ∧ ∀ i < 64,
      (bad i = false → ProductRow ta tb (a i) (arrByte b) (arrByte c) (listByte (mmaOn c b ta tb a bad).1) i) ∧
      (bad i = true → ∀ j < 64, lend (listByte (mmaOn c b ta tb a bad).1) ((i * 64 + j) * 4) 4 = 0x7FC00000) := by
  unfold mmaOn
  obtain ⟨hlen, hbytes⟩ := grid64_bytes fun i j =>
    if bad i then (f32.nan, Cls.iv)
    else mmaElem ta.isInt (arrNat c ((i * 64 + j) * 4) 4) (kOf ta) (fun x => (((fmtOf ta).getD f32).val false (a i x), fltAt b tb (x * 64 + j)))
      fun x => elemInt ta (a i x) * elemInt tb (elemAt b tb (x * 64 + j))
  refine ⟨hlen, fun i hi => ⟨fun hbad j hj => ?_, fun hbad j hj => ?_⟩⟩
  · have hrow := hbytes i hi j hj
    rw [if_neg (by simp [hbad])] at hrow
    obtain ⟨hlt, hspec⟩ := mmaElem_spec ta _ (arrNat_lt c ((i * 64 + j) * 4)) (fun x => (((fmtOf ta).getD f32).val false (a i x), fltAt b tb (x * 64 + j)))
      fun x => elemInt ta (a i x) * elemInt tb (elemAt b tb (x * 64 + j))
    rw [kOf_eq, Nat.mod_eq_of_lt hlt] at hrow
    dsimp only
    rw [kOf_eq, hrow]
    cases hint : ta.isInt with
    | true =>
      rw [hint, if_pos rfl] at hspec
      rw [if_pos rfl, hspec, arrNat_eq]
      simp only [elemAt_eq, elemInt_elt _ (arrByte_lt b), elemInt_eq ta hint]
    | false =>
      rw [hint, if_neg Bool.false_ne_true] at hspec
      rw [if_neg Bool.false_ne_true]
      simpa only [arrNat_eq, fltAt_eq, formatOf_eq] using hspec
  · have hrow := hbytes i hi j hj
    rw [if_pos hbad] at hrow
    exact hrow

end Sys2Proof.Machine
end

section
/-! SUPPORT. The sparse rows of MMAS and the groups of MMAQ (R90, R91, R158, R159). -/

open Sys2Proof.Claims

namespace Sys2Proof.Machine

/-! ### Rows of MMAS -/

theorem rising_range (f : Nat → Nat) (n : Nat) :
    ((((List.range n).map f).zip (((List.range n).map f).drop 1)).all fun e => e.1 < e.2) = true ↔ ∀ x, x + 1 < n → f x < f (x + 1) := by
  have hzip : ((List.range n).map f).zip (((List.range n).map f).drop 1) = (List.range (n - 1)).map fun x => (f x, f (x + 1)) := by
    refine List.ext_getElem (by simp) fun i h1 h2 => ?_
    simp
  rw [hzip, List.all_eq_true, List.forall_mem_map]
  simp only [List.mem_range, decide_eq_true_eq]
  exact forall_congr' fun x => imp_congr (by omega) Iff.rfl

theorem take_drop_range_map (f : Nat → Nat) (n off h : Nat) (hfit : off + n ≤ h) :
    (((List.range h).map f).drop off).take n = (List.range n).map fun x => f (off + x) := by
  refine List.ext_getElem (by simp; omega) fun i h1 h2 => ?_
  simp

/-- The nibbles of a row, group by group, are in form. -/
def groupsFormed (ns : List Nat) (n G : Nat) : Bool :=
  (List.range G).all fun g =>
    let gs := (ns.drop (g * n)).take n
    gs.all (fun x => x < 2 * n) && (gs.zip (gs.drop 1)).all fun e => e.1 < e.2

theorem groupsFormed_iff (nib : Nat → Nat) (n G : Nat) (hn : 0 < n) : groupsFormed ((List.range (G * n)).map nib) n G = true ↔
    ∀ x < G * n, nib x < 2 * n ∧ (x % n + 1 < n → nib x < nib (x + 1)) := by
  have hgroup (g : Nat) (hg : g < G) : (((List.range (G * n)).map nib).drop (g * n)).take n = (List.range n).map fun x => nib (g * n + x) :=
    take_drop_range_map nib n (g * n) (G * n) (by rw [← Nat.succ_mul]; exact Nat.mul_le_mul_right n hg)
  have hall : groupsFormed ((List.range (G * n)).map nib) n G = true ↔
      ∀ g < G, (∀ x < n, nib (g * n + x) < 2 * n) ∧ ∀ x, x + 1 < n → nib (g * n + x) < nib (g * n + (x + 1)) := by
    rw [groupsFormed, List.all_eq_true]
    simp only [List.mem_range, Bool.and_eq_true]
    refine forall₂_congr fun g hg => ?_
    rw [hgroup g hg, rising_range, List.all_eq_true, List.forall_mem_map]
    simp only [List.mem_range, decide_eq_true_eq]
  rw [hall]
  constructor
  · intro h x hx
    obtain ⟨hsmall, hrise⟩ := h (x / n) (Nat.div_lt_of_lt_mul (by rwa [Nat.mul_comm]))
    have hx' : x / n * n + x % n = x := Nat.div_add_mod' x n
    refine ⟨by simpa [hx'] using hsmall (x % n) (Nat.mod_lt x hn), fun hlast => ?_⟩
    have := hrise (x % n) hlast
    rwa [← Nat.add_assoc, hx'] at this
  · intro h g hg
    have hin (x : Nat) (hx : x < n) : g * n + x < G * n :=
      (Nat.add_lt_add_left hx _).trans_le (by rw [← Nat.succ_mul]; exact Nat.mul_le_mul_right n hg)
    have hmod (x : Nat) (hx : x < n) : (g * n + x) % n = x := by rw [Nat.mul_comm, Nat.mul_add_mod, Nat.mod_eq_of_lt hx]
    exact ⟨fun x hx => (h _ (hin x hx)).1, fun x hx => (h _ (hin x (by omega))).2 (by rwa [hmod x (by omega)])⟩

/-- The metadata of a row as MMAS reads it. -/
def metaNib (mm : Array Byte) (h i x : Nat) : Nat := arrByte mm ((i * h + x) / 2) / 16 ^ ((i * h + x) % 2) % 16

theorem mmasRow_eq (p48 : Bool) (mm : Array Byte) (t : ElemTy) (i : Nat) :
    let n := if p48 then 4 else 2
    mmasRow p48 mm (kSize t) i = if groupsFormed ((List.range (kSize t / 2)).map (metaNib mm (kSize t / 2) i)) n (kSize t / 2 / n)
      then some ((List.range (kSize t / 2)).map fun x => x / n * (2 * n) + metaNib mm (kSize t / 2) i x) else none := by
  have hnib : (fun x => (mm.getD ((i * (kSize t / 2) + x) / 2) 0).toNat / 2 ^ (4 * ((i * (kSize t / 2) + x) % 2)) % 16) = metaNib mm (kSize t / 2) i := by
    funext x
    rw [Nat.pow_mul]
    rfl
  have hplaces (n : Nat) (f : Nat → Nat) : (((List.range (kSize t / 2)).map f).zipIdx.map fun e => e.2 / n * (2 * n) + e.1) =
      (List.range (kSize t / 2)).map fun x => x / n * (2 * n) + f x := by
    refine List.ext_getElem (by simp) fun i h1 h2 => ?_
    simp
  unfold mmasRow
  dsimp only
  rw [hnib, hplaces]
  rfl

/-- The places that MMAS has of a row. -/
def mmasPlaces (p48 : Bool) (mm : Array Byte) (t : ElemTy) (i : Nat) : Option (List Nat) :=
  ((List.range 64).map fun i => mmasRow p48 mm (kOf t) i).toArray.getD i none

theorem mmasPlaces_eq (p48 : Bool) (mm : Array Byte) (t : ElemTy) (i : Nat) (hi : i < 64) : mmasPlaces p48 mm t i = mmasRow p48 mm (kSize t) i := by
  simp [mmasPlaces, hi, kOf_eq]

/-- The dense row that MMAS multiplies. -/
def mmasDense (p48 : Bool) (a mm : Array Byte) (t : ElemTy) (i x : Nat) : Nat :=
  match mmasPlaces p48 mm t i with
  | none => 0
  | some ps => match ps.findIdx? fun y => y == x with
    | some sx => elemAt a t (i * (kOf t / 2) + sx)
    | none => 0

theorem mmasOn_eq (p48 : Bool) (c a b mm : Array Byte) (ta tb : ElemTy) :
    mmasOn p48 c a b mm ta tb = mmaOn c b ta tb (mmasDense p48 a mm ta) fun i => (mmasPlaces p48 mm ta i).isNone := rfl

/-- The dense row has the elements of A at the places that the metadata gives, and zeros elsewhere. -/
theorem mmasDense_eq (p48 : Bool) (a mm : Array Byte) (t : ElemTy) (i : Nat) (pos row : Nat → Nat)
    (hplaces : mmasPlaces p48 mm t i = some ((List.range (kSize t / 2)).map pos))
    (hat : ∀ x < kSize t / 2, row (pos x) = elt (arrByte a) t (i * (kSize t / 2) + x)) (hoff : ∀ y, (∀ x < kSize t / 2, pos x ≠ y) → row y = 0) :
    mmasDense p48 a mm t i = row := by
  funext y
  unfold mmasDense
  rw [hplaces]
  dsimp only
  cases hfind : ((List.range (kSize t / 2)).map pos).findIdx? fun z => z == y with
  | none =>
    rw [List.findIdx?_eq_none_iff, List.forall_mem_map] at hfind
    exact (hoff y fun x hx => by simpa using hfind x (List.mem_range.mpr hx)).symm
  | some sx =>
    obtain ⟨hlt, hpos, -⟩ := List.findIdx?_eq_some_iff_getElem.mp hfind
    rw [List.length_map, List.length_range] at hlt
    have hy : pos sx = y := by simpa using hpos
    rw [← hy, hat sx hlt, ← elemAt_eq]
    rfl

/-- MMAS is what R90 and R158 say of each of its rows. -/
theorem mmasOn_rows (p48 : Bool) (c a b mm : Array Byte) (ta tb : ElemTy) : (mmasOn p48 c a b mm ta tb).1.length = 16384 ∧
    ∀ i < 64, SparseRow p48 ta tb (arrByte a) (arrByte b) (arrByte mm) (arrByte c) (listByte (mmasOn p48 c a b mm ta tb).1) i := by
  rw [mmasOn_eq]
  obtain ⟨hlen, hspec⟩ := mmaOn_rows c b ta tb (mmasDense p48 a mm ta) fun i => (mmasPlaces p48 mm ta i).isNone
  refine ⟨hlen, fun i hi => ?_⟩
  obtain ⟨hgood, hbad⟩ := hspec i hi
  have hplaces := (mmasPlaces_eq p48 mm ta i hi).trans (mmasRow_eq p48 mm ta i)
  have hsize : kSize ta / 2 / (if p48 then 4 else 2) * (if p48 then 4 else 2) = kSize ta / 2 := by
    unfold kSize
    cases p48 <;> split <;> rfl
  have hform := groupsFormed_iff (metaNib mm (kSize ta / 2) i) (if p48 then 4 else 2) (kSize ta / 2 / (if p48 then 4 else 2)) (by split <;> decide)
  rw [hsize] at hform
  refine ⟨fun hformed row hat hoff => ?_, fun hnot => hbad ?_⟩
  · rw [if_pos (hform.mpr hformed)] at hplaces
    rw [← mmasDense_eq p48 a mm ta i _ row hplaces hat hoff]
    exact hgood (by rw [hplaces]; rfl)
  · rw [hplaces, if_neg (mt hform.mp hnot)]
    rfl

/-! ### Groups of MMAQ -/

/-- The terms of an element of a group: its product with the code, and less its product with the zero point. -/
def diffTerms (z : Nat) (e : FVal × Nat) : List FVal :=
  match e.1 with
  | .fin n m x => [.fin n (m * e.2) x, .fin (!n) (m * z) x]
  | v => [v]

/-- The sum of a group less its zero point's, from finite activations. -/
theorem sum_diffTerms (z : Nat) (xs : List (FVal × Nat)) (hfin : ∀ x ∈ xs, ∃ n m e, x.1 = .fin n m e) :
    (∀ v ∈ xs.flatMap (diffTerms z), ∃ n m e, v = .fin n m e) ∧
    ((xs.flatMap (diffTerms z)).map rat).sum = (xs.map fun x => rat x.1 * x.2).sum - z * (xs.map fun x => rat x.1).sum := by
  have hscale (n : Bool) (m k : Nat) (e : Int) : num n (m * k) e = num n m e * k := by
    rw [num_eq, num_eq, Nat.cast_mul]
    ring
  have hneg (n : Bool) (m : Nat) (e : Int) : num (!n) m e = -num n m e := by
    rw [num_eq, num_eq]
    cases n <;> simp [signum]
  induction xs with
  | nil => simp
  | cons x xs ih =>
    obtain ⟨hall, hsum⟩ := ih fun y hy => hfin y (by simp [hy])
    obtain ⟨v, q⟩ := x
    obtain ⟨n, m, e, rfl⟩ := hfin _ (List.mem_cons_self ..)
    rw [List.flatMap_cons]
    constructor
    · intro w hw
      rcases List.mem_append.mp hw with hw | hw
      · rcases List.mem_pair.mp hw with rfl | rfl <;> exact ⟨_, _, _, rfl⟩
      · exact hall w hw
    · rw [List.map_append, List.sum_append, hsum]
      simp only [diffTerms, List.map_cons, List.map_nil, List.sum_cons, List.sum_nil, rat, hscale, hneg]
      ring

theorem exactSum_fin (ps : List FVal) : ∃ n m e, exactSum ps = .fin n m e := by
  obtain ⟨n, m, e, h, -⟩ := exactSum_spec ps
  exact ⟨n, m, e, h⟩

/-- The pairs of a group whose activations are finite have finite products. -/
theorem dot_codes_finite (xs : List (FVal × Nat)) (hfin : ∀ x ∈ xs, ∃ n m e, x.1 = .fin n m e) :
    ∃ n m e, (dot (xs.map fun e => (e.1, .fin false e.2 0))).val = .fin n m e := by
  have hbad : (xs.map fun e => (e.1, FVal.fin false e.2 0)).any badPair = false := by
    rw [List.any_map, List.any_eq_false]
    intro x hx
    obtain ⟨n, m, e, h⟩ := hfin x hx
    simp [badPair, h, FVal.isNan, FVal.isInf]
  have hinf (n : Bool) : (xs.map fun e => (e.1, FVal.fin false e.2 0)).any (infPair n) = false := by
    rw [List.any_map, List.any_eq_false]
    intro x hx
    obtain ⟨n, m, e, h⟩ := hfin x hx
    simp [infPair, h, FVal.isInf]
  rw [dot_good _ hbad, hinf, hinf]
  exact exactSum_fin _

theorem mmaqTerm_nan (sc : FVal) (z : Nat) (xs : List (FVal × Nat)) (h : sc.isNan = true ∨ xs.any (fun x => x.1.isNan) = true) :
    (mmaqTerm sc z xs).val.isNan = true := by
  unfold mmaqTerm
  dsimp only
  rcases h with h | h
  · cases sc with
    | nan s => split <;> rfl
    | inf n => cases h
    | fin n m e => cases h
  · have hbad : (xs.map fun e => (e.1, FVal.fin false e.2 0)).any badPair = true := by
      rw [List.any_map, List.any_eq_true]
      obtain ⟨x, hx, hn⟩ := List.any_eq_true.mp h
      exact ⟨x, hx, by simp [badPair, hn]⟩
    rw [dot_bad _ hbad]
    rfl

/-- The term of a group is what R91 and R92 say of it. -/
theorem mmaqTerm_groupTerm (sc : FVal) (z : Nat) (xs : List (FVal × Nat)) : GroupTerm sc z xs (mmaqTerm sc z xs).val := by
  have hfinite (h : xs.all (fun x => !x.1.isNan && !x.1.isInf) = true) : ∀ x ∈ xs, ∃ n m e, x.1 = .fin n m e := fun x hx => by
    have := List.all_eq_true.mp h x hx
    rw [Bool.and_eq_true, Bool.not_eq_true', Bool.not_eq_true'] at this
    exact FVal.finite_fin _ this.1 this.2
  have hdiff (h : xs.all (fun x => !x.1.isNan && !x.1.isInf) = true) : ∃ n m e,
      num n m e = (xs.map fun x => rat x.1 * x.2).sum - z * (xs.map fun x => rat x.1).sum ∧
      (m ≠ 0 → (n = true ↔ (xs.map fun x => rat x.1 * x.2).sum - z * (xs.map fun x => rat x.1).sum < 0)) ∧
      (mmaqTerm sc z xs).val = match sc with
        | .nan _ => .nan false
        | .inf a => if m = 0 then .nan false else .inf (a != n)
        | .fin ns ms es => if m = 0 then .fin ns 0 0 else .fin (ns != n) (ms * m) (es + e) := by
    obtain ⟨hall, hsum⟩ := sum_diffTerms z xs (hfinite h)
    obtain ⟨n, m, e, hexact, hnum, -, hsign⟩ := exactSum_finite _ hall
    obtain ⟨n1, m1, e1, hdot⟩ := dot_codes_finite xs (hfinite h)
    rw [hsum] at hnum hsign
    refine ⟨n, m, e, hnum, hsign, ?_⟩
    unfold mmaqTerm
    dsimp only
    rw [hdot]
    dsimp only
    generalize hterms : exactSum _ = S
    obtain rfl : S = .fin n m e := hterms.symm.trans hexact
    cases sc with
    | nan s => rfl
    | inf a => dsimp only; split <;> rfl
    | fin ns ms es => rfl
  refine ⟨fun h => ?_, fun h hnan hinf => ?_⟩
  · rcases h with h | h | ⟨h, hinf, hzero⟩
    · exact mmaqTerm_nan sc z xs (.inl h)
    · exact mmaqTerm_nan sc z xs (.inr h)
    · obtain ⟨n, m, e, hnum, -, hval⟩ := hdiff h
      rw [hzero, num_eq_zero] at hnum
      rw [hval]
      cases sc with
      | nan s => rfl
      | inf a => dsimp only; rw [if_pos hnum]; rfl
      | fin ns ms es => cases hinf
  · obtain ⟨n, m, e, hnum, hsign, hval⟩ := hdiff h
    obtain ⟨ns, ms, es, rfl⟩ := FVal.finite_fin sc hnan hinf
    rw [hval]
    dsimp only
    rw [← hnum] at hsign ⊢
    by_cases hm : m = 0
    · rw [if_pos hm, (num_eq_zero n m e).mpr hm]
      exact ⟨ns, 0, 0, rfl, by simp [num], fun _ => by simp [FVal.neg]⟩
    · rw [if_neg hm]
      refine ⟨_, _, _, rfl, num_mul ns ms es n m e, fun _ => ?_⟩
      have := hsign hm
      cases n <;> simp_all [FVal.neg]

theorem actAt_eq (a : Array Byte) (t : ElemTy) (k : Nat) : actAt a t k = if t.isInt then
    (let y := sourceInt t (elt (arrByte a) t k); .fin (decide (y < 0)) y.natAbs 0) else flt (arrByte a) t k := by
  unfold actAt
  cases hint : t.isInt with
  | true => rw [if_pos rfl, if_pos rfl, elemAt_eq, elemInt_eq t hint]; rfl
  | false => rw [if_neg Bool.false_ne_true, if_neg Bool.false_ne_true, fltAt_eq]

/-- MMAQ is what R91 says of each of its elements. -/
theorem mmaqOn_quantProduct (c a b : Array Byte) (ta tw : ElemTy) (d : Desc) : (mmaqOn c a b ta tw d).1.length = 16384 ∧
    QuantProduct ta tw d (arrByte a) (arrByte b) (arrByte c) (listByte (mmaqOn c a b ta tw d).1) := by
  let xs := fun i g j => (List.range (groupSize d.grp)).map fun x =>
    (actAt a ta (i * kOf ta + g * groupSize d.grp + x), elemAt b tw ((g * groupSize d.grp + x) * 64 + j))
  let T := fun i j g => mmaqTerm (f16.val false (scaleAt b d g j)) (zeroAt b d g j) (xs i g j)
  obtain ⟨hlen, hbytes⟩ := grid64_bytes fun i j => (List.range (kOf ta / groupSize d.grp)).foldl (fun q g =>
      accumulate q (T i j g) (f16.val false (scaleAt b d g j) :: (xs i g j).map Prod.fst)) (arrNat c ((i * 64 + j) * 4) 4, 0)
  refine ⟨hlen, fun i hi j hj => ⟨fun g => (T i j g).val, fun g _ => ?_, ?_⟩⟩
  · have hterm := mmaqTerm_groupTerm (f16.val false (scaleAt b d g j)) (zeroAt b d g j) (xs i g j)
    simpa only [T, xs, scaleAt, zeroAt, arrByte, arrNat_eq, actAt_eq, elemAt_eq, kOf_eq] using hterm
  · have hij := hbytes i hi j hj
    rw [foldl_accumulate, Nat.mod_eq_of_lt (termChain_lt _ _ _ (arrNat_lt _ _)), arrNat_eq] at hij
    exact hij

end Sys2Proof.Machine
end

section
/-! SUPPORT. The rotation of QUANT along the K axis (R84, R160). -/

open Sys2Proof.Claims

namespace Sys2Proof.Machine

/-! ### A run -/

/-- The factor of a term of the transform is the parity of the one bits of i and k. -/
theorem walshNeg_eq (i k : Nat) : walshNeg i k = decide ((List.range 7).countP (fun j => (i &&& k).testBit j) % 2 = 1) := by
  rw [walshNeg, bitsOf, List.countP_eq_length_filter, beq_eq_decide]

/-- A value with the sign that the transform gives it. -/
def walshTerm (i : Nat) (v : FVal) (k : Nat) : FVal := if walshNeg i k then v.negate else v

theorem rat_negate (v : FVal) : rat v.negate = -rat v := by
  cases v with
  | nan s => simp [FVal.negate, rat]
  | inf n => simp [FVal.negate, rat]
  | fin n m e =>
    rw [FVal.negate, rat, rat, num_eq, num_eq]
    cases n <;> simp [signum]

theorem rat_walshTerm (i : Nat) (v : FVal) (k : Nat) : rat (walshTerm i v k) =
    (if (List.range 7).countP (fun j => (i &&& k).testBit j) % 2 = 1 then -1 else 1) * rat v := by
  rw [walshTerm, walshNeg_eq]
  split
  next h => rw [if_pos (by simpa using h), rat_negate, neg_one_mul]
  next h => rw [if_neg (by simpa using h), one_mul]

/-- The exponent of the scale of a run's transform (R84). -/
def walshExp (n : Nat) : Int := if n = 32 then 2 else 3

/-- One element of a run's transform. -/
def walshOut (vs : List FVal) (n i : Nat) : Nat :=
  if vs.any FVal.isNan then f32.nan
  else
    let ts := (List.range n).map fun k => walshTerm i (vs.getD k (.nan false)) k
    let pos := ts.any fun v => v == .inf false
    let neg := ts.any fun v => v == .inf true
    if pos && neg then f32.nan else if pos || neg then f32.inf neg
    else ((engCfg f32).put (match exactSum ts with | .fin s m e => .fin s m (e - walshExp n) | v => v)).bits

theorem rotateRun_eq (xs : List Nat) : (rotateRun xs).1 = (List.range xs.length).map (walshOut (xs.map fun x => f32.val false x) xs.length) := by
  unfold rotateRun
  dsimp only
  rw [List.map_map]
  refine List.map_congr_left fun i _ => ?_
  have hts : ((xs.map fun x => f32.val false x).zipIdx.map fun e => if walshNeg i e.2 then e.1.negate else e.1) =
      (List.range xs.length).map fun k => walshTerm i ((xs.map fun x => f32.val false x).getD k (.nan false)) k := by
    refine List.ext_getElem (by simp) fun k h1 h2 => ?_
    have hk : k < xs.length := by simpa using h2
    simp [walshTerm, hk]
  rw [Function.comp_apply, walshOut, hts]
  by_cases hnan : (xs.map fun x => f32.val false x).any FVal.isNan = true
  · rw [if_pos hnan, if_pos hnan]
  · rw [if_neg hnan, if_neg hnan]
    exact (apply_ite FR.bits _ _ _).trans (congrArg (ite _ _) (apply_ite FR.bits _ _ _))

/-- An element of the transform of a finite run is the exact sum, rounded once. -/
theorem walshOut_finite (vs : List FVal) (i : Nat) (hfin : ∀ v ∈ vs, ∃ n m e, v = .fin n m e) : ∃ s m e,
    num s m e = (2 : ℚ) ^ (if vs.length = 32 then -2 else -3 : Int) * ((List.range vs.length).map fun k =>
      (if (List.range 7).countP (fun j => (i &&& k).testBit j) % 2 = 1 then -1 else 1) * rat (vs.getD k (.nan false))).sum ∧
    walshOut vs vs.length i = (f32.round .rne false s m e false).bits := by
  have hnan : vs.any FVal.isNan = false := by
    rw [List.any_eq_false]
    intro v hv
    obtain ⟨n, m, e, rfl⟩ := hfin v hv
    simp [FVal.isNan]
  have hterms : ∀ v ∈ (List.range vs.length).map (fun k => walshTerm i (vs.getD k (.nan false)) k), ∃ n m e, v = .fin n m e := fun v hv => by
    obtain ⟨k, hk, rfl⟩ := List.mem_map.mp hv
    have hlt := List.mem_range.mp hk
    obtain ⟨n, m, e, h⟩ := hfin vs[k] (List.getElem_mem hlt)
    rw [List.getD_eq_getElem _ _ hlt, h, walshTerm]
    split <;> exact ⟨_, _, _, rfl⟩
  have hinf (b : Bool) : ((List.range vs.length).map fun k => walshTerm i (vs.getD k (.nan false)) k).any (fun v => v == .inf b) = false := by
    rw [List.any_eq_false]
    intro v hv
    obtain ⟨n, m, e, rfl⟩ := hterms v hv
    simp
  obtain ⟨s, m, e, hsum, hnum, -, -⟩ := exactSum_finite _ hterms
  refine ⟨s, m, e - walshExp vs.length, ?_, ?_⟩
  · rw [List.map_map] at hnum
    rw [show (if vs.length = 32 then -2 else -3 : Int) = -walshExp vs.length by unfold walshExp; split <;> rfl,
      ← List.map_congr_left fun k _ => rat_walshTerm i (vs.getD k (.nan false)) k]
    rw [num_eq, sub_eq_add_neg, zpow_add₀ (by norm_num)]
    rw [num_eq] at hnum
    rw [show (fun k => rat (walshTerm i (vs.getD k (.nan false)) k)) = rat ∘ fun k => walshTerm i (vs.getD k (.nan false)) k from rfl, ← hnum]
    ring
  · rw [walshOut, hnan, if_neg Bool.false_ne_true]
    dsimp only
    rw [hinf, hinf, hsum]
    rfl

/-! ### The runs of a matrix -/

/-- Writes to an array, of which those to a place agree. -/
theorem foldl_setIfInBounds (L : List (Nat × Nat)) (a : Array Nat) (k v : Nat) (hk : k < a.size) (hv : ∀ e ∈ L, e.1 = k → e.2 = v) :
    (L.foldl (fun a e => a.setIfInBounds e.1 e.2) a).size = a.size ∧
    (L.foldl (fun a e => a.setIfInBounds e.1 e.2) a).getD k 0 = if L.any (fun e => e.1 == k) then v else a.getD k 0 := by
  induction L generalizing a with
  | nil => exact ⟨rfl, rfl⟩
  | cons e L ih =>
    obtain ⟨hsize, hget⟩ := ih (a.setIfInBounds e.1 e.2) (by simpa using hk) fun x hx => hv x (by simp [hx])
    rw [List.foldl_cons]
    refine ⟨by rw [hsize, Array.size_setIfInBounds], ?_⟩
    rw [hget, List.any_cons]
    by_cases he : e.1 = k
    · have := hv e (by simp) he
      subst he
      simp [this, hk]
    · rw [Array.getD_eq_getD_getElem?, Array.getElem?_setIfInBounds_ne he, ← Array.getD_eq_getD_getElem?, beq_false_of_ne he, Bool.false_or]

/-- Where element k of a line along the K axis stands (R145). -/
def lineAt (d : Desc) (l k : Nat) : Nat := if d.elem.isGrouped then k * d.cols + l else l * d.cols + k

/-- The lines of a matrix. -/
def lineCount (d : Desc) : Nat := if d.elem.isGrouped then d.cols else d.rows

theorem lineAt_lt (d : Desc) (l k : Nat) (hl : l < lineCount d) (hk : k < d.kAxis) : lineAt d l k < d.rows * d.cols := by
  unfold lineAt
  unfold lineCount at hl
  unfold Desc.kAxis at hk
  split at hl
  next h =>
    rw [if_pos h] at hk ⊢
    nlinarith [Nat.mul_le_mul_right d.cols hk]
  next h =>
    rw [if_neg h] at hk ⊢
    nlinarith [Nat.mul_le_mul_right d.cols hl]

theorem lineAt_inj (d : Desc) (l k l' k' : Nat) (hl : l < lineCount d) (hk : k < d.kAxis) (hl' : l' < lineCount d) (hk' : k' < d.kAxis)
    (h : lineAt d l k = lineAt d l' k') : l = l' ∧ k = k' := by
  have hsplit (a b a' b' n : Nat) (hb : b < n) (hb' : b' < n) (h : a * n + b = a' * n + b') : a = a' ∧ b = b' := by
    have h1 := congrArg (· / n) h
    have h2 := congrArg (· % n) h
    simp only [Nat.mul_comm _ n, Nat.mul_add_div (Nat.zero_lt_of_lt hb), Nat.mul_add_mod, Nat.div_eq_of_lt hb, Nat.div_eq_of_lt hb', Nat.mod_eq_of_lt hb,
      Nat.mod_eq_of_lt hb'] at h1 h2
    exact ⟨h1, h2⟩
  unfold lineAt at h
  unfold lineCount at hl hl'
  unfold Desc.kAxis at hk hk'
  split at h
  next hg =>
    rw [if_pos hg] at hl hl'
    exact (hsplit k l k' l' _ hl hl' h).symm
  next hg =>
    rw [if_neg hg] at hk hk'
    exact hsplit l k l' k' _ hk hk' h

/-- What the rotation writes: each element of the transform of each run, at its place. -/
def rotationWrites (x : Nat → Nat) (d : Desc) (n : Nat) : List (Nat × Nat) :=
  ((List.range (lineCount d)).flatMap fun l => (List.range (d.kAxis / n)).map fun r => (l, r)).flatMap fun e =>
    (List.range n).map fun i => (lineAt d e.1 (e.2 * n + i), walshOut ((List.range n).map fun k => f32.val false (x (lineAt d e.1 (e.2 * n + k)))) n i)

theorem rotated_eq (x : Nat → Nat) (d : Desc) (n : Nat) (hn : n ≠ 0) :
    (rotated x d n).1 = (rotationWrites x d n).foldl (fun a e => a.setIfInBounds e.1 e.2) (Array.replicate (d.rows * d.cols) 0) := by
  unfold rotated rotationWrites
  rw [if_neg hn]
  dsimp only
  conv_rhs => rw [List.foldl_flatMap]
  refine (List.foldl_hom Prod.fst fun acc e => ?_).symm
  dsimp only
  rw [rotateRun_eq, List.foldl_map, List.length_map, List.length_range, List.map_map]
  have hzip (g : Nat → Nat) : ((List.range n).map g).zipIdx = (List.range n).map fun i => (g i, i) := by
    refine List.ext_getElem (by simp) fun i h1 h2 => ?_
    simp
  rw [hzip, List.foldl_map]
  rfl

/-- The rotated element of a run. -/
theorem rotated_at (x : Nat → Nat) (d : Desc) (n l r i : Nat) (hn : n ≠ 0) (hl : l < lineCount d) (hr : r < d.kAxis / n) (hi : i < n) :
    (rotated x d n).1.getD (lineAt d l (r * n + i)) 0 = walshOut ((List.range n).map fun k => f32.val false (x (lineAt d l (r * n + k)))) n i := by
  have hin (r i : Nat) (hr : r < d.kAxis / n) (hi : i < n) : r * n + i < d.kAxis := by
    have h1 := Nat.div_mul_le_self d.kAxis n
    have h2 := Nat.mul_le_mul_right n hr
    rw [Nat.succ_mul] at h2
    omega
  rw [rotated_eq x d n hn]
  have hmem (e : Nat × Nat) (he : e ∈ rotationWrites x d n) : ∃ l < lineCount d, ∃ r < d.kAxis / n, ∃ i < n, e = (lineAt d l (r * n + i),
      walshOut ((List.range n).map fun k => f32.val false (x (lineAt d l (r * n + k)))) n i) := by
    simp only [rotationWrites, List.mem_flatMap, List.mem_map, List.mem_range] at he
    obtain ⟨-, ⟨l, hl, r, hr, rfl⟩, i, hi, rfl⟩ := he
    exact ⟨l, hl, r, hr, i, hi, rfl⟩
  have hself : (lineAt d l (r * n + i), walshOut ((List.range n).map fun k => f32.val false (x (lineAt d l (r * n + k)))) n i) ∈ rotationWrites x d n := by
    simp only [rotationWrites, List.mem_flatMap, List.mem_map, List.mem_range]
    exact ⟨(l, r), ⟨l, hl, r, hr, rfl⟩, i, hi, rfl⟩
  rw [(foldl_setIfInBounds _ _ _ _ (by simpa using lineAt_lt d l _ hl (hin r i hr hi)) fun e he hat => ?_).2, if_pos]
  · exact List.any_eq_true.mpr ⟨_, hself, by simp⟩
  · obtain ⟨l', hl', r', hr', i', hi', rfl⟩ := hmem e he
    obtain ⟨rfl, hplace⟩ := lineAt_inj d _ _ _ _ hl' (hin r' i' hr' hi') hl (hin r i hr hi) hat
    have hri : r' = r ∧ i' = i := by
      have h1 := congrArg (· / n) hplace
      have h2 := congrArg (· % n) hplace
      simp only [Nat.mul_comm _ n, Nat.mul_add_div (Nat.pos_of_ne_zero hn), Nat.mul_add_mod, Nat.div_eq_of_lt hi, Nat.div_eq_of_lt hi', Nat.mod_eq_of_lt hi,
        Nat.mod_eq_of_lt hi', Nat.add_zero] at h1 h2
      exact ⟨h1, h2⟩
    obtain ⟨rfl, rfl⟩ := hri
    rfl

/-- The source of QUANT after its rotation is what R84 says. -/
theorem rotated_rotates (x : Nat → Nat) (d : Desc) (n : Nat) : (rotated x d n).1.size = d.rows * d.cols ∧
    Rotates d n x fun k => (rotated x d n).1.getD k 0 := by
  refine ⟨?_, fun hn k hk => ?_, fun hn l hl r hr i hi => ?_⟩
  · by_cases hn : n = 0
    · simp [rotated, hn]
    · have hsize (L : List (Nat × Nat)) (a : Array Nat) : (L.foldl (fun a e => a.setIfInBounds e.1 e.2) a).size = a.size :=
        List.foldlRecOn (motive := fun b : Array Nat => b.size = a.size) _ _ rfl fun b hb e _ => by rw [Array.size_setIfInBounds, hb]
      rw [rotated_eq x d n hn, hsize, Array.size_replicate]
  · subst hn
    simp [rotated, hk]
  · have hat (k : Nat) : (if d.elem.isGrouped then (r * n + k) * d.cols + l else l * d.cols + r * n + k) = lineAt d l (r * n + k) := by
      rw [lineAt, Nat.add_assoc]
    have hrow := rotated_at x d n l r i hn hl hr hi
    have hlen : ((List.range n).map fun k => f32.val false (x (lineAt d l (r * n + k)))).length = n := by simp
    dsimp only
    simp only [hat]
    rw [hrow]
    refine ⟨fun hfin => ?_, fun hnan => ?_⟩
    · obtain ⟨s, m, e, hnum, hbits⟩ := walshOut_finite ((List.range n).map fun k => f32.val false (x (lineAt d l (r * n + k)))) i fun v hv => by
        obtain ⟨k, hk, rfl⟩ := List.mem_map.mp hv
        have := List.all_eq_true.mp hfin k hk
        rw [Bool.and_eq_true, Bool.not_eq_true', Bool.not_eq_true'] at this
        exact FVal.finite_fin _ this.1 this.2
      rw [hlen] at hnum hbits
      refine ⟨s, m, e, hnum.trans (congrArg (_ * ·) (congrArg List.sum (List.map_congr_left fun k hk => ?_))), hbits⟩
      simp [List.mem_range.mp hk]
    · rw [walshOut, if_pos]
      · rfl
      · rw [List.any_map]
        exact hnan

end Sys2Proof.Machine
end

section
/-! SUPPORT. A group of QUANT: its range, its scale, and its codes (R160). -/

open Sys2Proof.Claims

namespace Sys2Proof.Machine

/-! ### The range of a group -/

theorem FVal.lt_fin (nx : Bool) (mx : Nat) (ex : Int) (ny : Bool) (my : Nat) (ey : Int) :
    (FVal.fin nx mx ex).lt (.fin ny my ey) = true ↔ num nx mx ex < num ny my ey := by
  obtain ⟨hlt, heq⟩ := scaled_lt nx mx ex ny my ey
  unfold FVal.lt FVal.lt0 FVal.eqv
  dsimp only
  rw [Bool.and_eq_true, Bool.or_eq_true, decide_eq_true_eq, Bool.not_eq_true', beq_eq_false_iff_ne, Bool.and_eq_true, Bool.and_eq_true, beq_iff_eq, ne_eq, hlt, heq]
  constructor
  · rintro ⟨h | h, hne⟩
    · exact h
    · exact absurd h.1.1 hne
  · exact fun h => ⟨.inl h, h.ne⟩

theorem FVal.lt_rat {x y : FVal} (hx : ∃ n m e, x = .fin n m e) (hy : ∃ n m e, y = .fin n m e) : x.lt y = true ↔ rat x < rat y := by
  obtain ⟨nx, mx, ex, rfl⟩ := hx
  obtain ⟨ny, my, ey, rfl⟩ := hy
  exact FVal.lt_fin nx mx ex ny my ey

/-- The least of finite values. -/
theorem fold_min (vs : List FVal) (hfin : ∀ v ∈ vs, ∃ n m e, v = .fin n m e) (a : FVal) (ha : ∃ n m e, a = .fin n m e) :
    (∃ n m e, vs.foldl (fun a v => if v.lt a then v else a) a = .fin n m e) ∧
    rat (vs.foldl (fun a v => if v.lt a then v else a) a) = vs.foldl (fun a v => min a (rat v)) (rat a) := by
  induction vs generalizing a with
  | nil => exact ⟨ha, rfl⟩
  | cons v vs ih =>
    have hv := hfin v (by simp)
    rw [List.foldl_cons, List.foldl_cons]
    by_cases h : v.lt a = true
    · rw [if_pos h, min_eq_right ((FVal.lt_rat hv ha).mp h).le]
      exact ih (fun w hw => hfin w (by simp [hw])) v hv
    · rw [if_neg h, min_eq_left (not_lt.mp (mt (FVal.lt_rat hv ha).mpr h))]
      exact ih (fun w hw => hfin w (by simp [hw])) a ha

/-- The greatest of finite values. -/
theorem fold_max (vs : List FVal) (hfin : ∀ v ∈ vs, ∃ n m e, v = .fin n m e) (a : FVal) (ha : ∃ n m e, a = .fin n m e) :
    (∃ n m e, vs.foldl (fun a v => if a.lt v then v else a) a = .fin n m e) ∧
    rat (vs.foldl (fun a v => if a.lt v then v else a) a) = vs.foldl (fun a v => max a (rat v)) (rat a) := by
  induction vs generalizing a with
  | nil => exact ⟨ha, rfl⟩
  | cons v vs ih =>
    have hv := hfin v (by simp)
    rw [List.foldl_cons, List.foldl_cons]
    by_cases h : a.lt v = true
    · rw [if_pos h, max_eq_right ((FVal.lt_rat ha hv).mp h).le]
      exact ih (fun w hw => hfin w (by simp [hw])) v hv
    · rw [if_neg h, max_eq_left (not_lt.mp (mt (FVal.lt_rat ha hv).mpr h))]
      exact ih (fun w hw => hfin w (by simp [hw])) a ha

theorem fold_min_le (vs : List FVal) (a : ℚ) : vs.foldl (fun a v => min a (rat v)) a ≤ a := by
  induction vs generalizing a with
  | nil => exact le_rfl
  | cons v vs ih => exact (ih _).trans (min_le_left _ _)

theorem le_fold_max (vs : List FVal) (a : ℚ) : a ≤ vs.foldl (fun a v => max a (rat v)) a := by
  induction vs generalizing a with
  | nil => exact le_rfl
  | cons v vs ih => exact (le_max_left _ _).trans (ih _)

/-! ### Quotients -/

/-- A quotient of whole numbers goes to the nearest whole number. -/
theorem roundRat_spec (neg : Bool) (m den : Nat) (hden : 0 < den) :
    IntRounded .rne (signum neg * (m / den)) (roundRat (if neg then -(m : Int) else m) den) := by
  have hpos : (0 : ℚ) < den := Nat.cast_pos.mpr hden
  have hX : (m : ℚ) / den = (m / den : Nat) + ((m % den : Nat) : ℚ) / den := by
    rw [add_div' _ _ _ hpos.ne']
    congr 1
    exact_mod_cast (Nat.div_add_mod' m den).symm
  have hfrac : (0 : ℚ) ≤ ((m % den : Nat) : ℚ) / den ∧ ((m % den : Nat) : ℚ) / den < 1 :=
    ⟨by positivity, (div_lt_one hpos).mpr (by exact_mod_cast Nat.mod_lt m hden)⟩
  have hhalf : ((1 : ℚ) < 2 * (((m % den : Nat) : ℚ) / den) ↔ den < 2 * (m % den)) ∧
      ((1 : ℚ) = 2 * (((m % den : Nat) : ℚ) / den) ↔ den = 2 * (m % den)) := by
    rw [← mul_div_assoc, lt_div_iff₀ hpos, eq_div_iff hpos.ne', one_mul]
    exact ⟨by exact_mod_cast Iff.rfl, by exact_mod_cast Iff.rfl⟩
  have hup : (2 * (m % den) > den || (2 * (m % den) == den && (m / den) % 2 == 1)) = true ↔
      TakesUpper .rne neg (m / den) (m / den : Nat) ((m / den : Nat) + 1) (m / den) := by
    rw [Bool.or_eq_true, Bool.and_eq_true, decide_eq_true_eq, beq_iff_eq, beq_iff_eq, hX]
    unfold TakesUpper
    dsimp only
    rw [gt_iff_lt, ← hhalf.1, eq_comm, ← hhalf.2]
    exact or_congr ⟨fun h => by linarith, fun h => by linarith⟩ (and_congr_left fun _ => ⟨fun h => by linarith, fun h => by linarith⟩)
  have habs : (if neg then -(m : Int) else m).natAbs = m := by cases neg <;> simp
  have hround := intRounded_of_neighbour .rne neg ((m : ℚ) / den) (m / den)
    (if (2 * (m % den) > den || (2 * (m % den) == den && (m / den) % 2 == 1)) then m / den + 1 else m / den) (by rw [hX]; linarith) (by rw [hX]; linarith)
    (by split
        next h => exact .inr ⟨rfl, hup.mp h⟩
        next h => exact .inl ⟨rfl, mt hup.mpr h⟩)
  convert hround using 1
  unfold roundRat
  rw [habs]
  cases neg
  · simp
  · rcases Nat.eq_zero_or_pos m with rfl | hm
    · simp
    · simp [hm]

/-- The exponent of a quotient of whole numbers times powers of 2 goes to the larger of them. -/
theorem scaled_quotient (mx my : Nat) (ex ey : Int) :
    ((mx * 2 ^ (ex - ey).toNat : Nat) : ℚ) / (my * 2 ^ (ey - ex).toNat : Nat) = mx * 2 ^ ex / (my * 2 ^ ey) := by
  have hpow : (2 : ℚ) ^ (ex - ey).toNat * 2 ^ ey = 2 ^ (ey - ex).toNat * 2 ^ ex := by
    rw [← zpow_natCast, ← zpow_natCast, ← zpow_add₀ (by norm_num), ← zpow_add₀ (by norm_num)]
    congr 1
    omega
  rcases Nat.eq_zero_or_pos my with rfl | hmy
  · simp
  · have h1 : (0 : ℚ) < my := Nat.cast_pos.mpr hmy
    have h2 := two_zpow_pos ey
    push_cast
    rw [div_eq_div_iff (by positivity) (by positivity)]
    linear_combination (mx : ℚ) * my * hpow

/-- The nearest whole number to a quotient of finite values, of which the second is above zero (R160). -/
theorem quotInt_spec {x y : FVal} (hx : ∃ n m e, x = .fin n m e) (hy : ∃ m e, y = .fin false m e ∧ 0 < m) :
    IntRounded .rne (rat x / rat y) (quotInt x y) := by
  obtain ⟨n, mx, ex, rfl⟩ := hx
  obtain ⟨my, ey, rfl, hmy⟩ := hy
  have hround := roundRat_spec n (mx * 2 ^ (ex - ey).toNat) (my * 2 ^ (ey - ex).toNat) (by positivity)
  rw [scaled_quotient, ← mul_div_assoc, ← num_eq] at hround
  rw [rat, rat, num_eq false]
  simpa [signum, quotInt] using hround

/-! ### The scale -/

/-- A quotient of whole numbers is rounded from more bits of it than a significand has. -/
theorem Fmt.roundQuot_brackets (f : Fmt) (m den : Nat) (e : Int) (hm : 0 < m) (hden : 0 < den) :
    f.Brackets (m * 2 ^ (bitLen den + f.fb + 4) / den) (e - (bitLen den + f.fb + 4 : Nat)) (m * 2 ^ (bitLen den + f.fb + 4) % den != 0)
      (m * 2 ^ e / den) := by
  set k := bitLen den + f.fb + 4 with hk
  have hpos : (0 : ℚ) < den := Nat.cast_pos.mpr hden
  have hbig : 2 ^ (f.fb + 4) ≤ m * 2 ^ k / den := by
    rw [Nat.le_div_iff_mul_le hden]
    calc 2 ^ (f.fb + 4) * den ≤ 2 ^ (f.fb + 4) * 2 ^ bitLen den := Nat.mul_le_mul_left _ (lt_two_pow_bitLen den).le
      _ = 2 ^ k := by rw [← Nat.pow_add, hk]; congr 1; omega
      _ ≤ m * 2 ^ k := Nat.le_mul_of_pos_left _ hm
  have hpow : (2 : ℚ) ^ e = 2 ^ (e - (k : Int)) * 2 ^ k := by
    rw [← zpow_natCast, ← zpow_add₀ (by norm_num)]
    congr 1
    omega
  have hu := two_zpow_pos (e - (k : Int))
  have hX : (m : ℚ) * 2 ^ e / den = ((m * 2 ^ k / den : Nat) + ((m * 2 ^ k % den : Nat) : ℚ) / den) * 2 ^ (e - (k : Int)) := by
    rw [add_div' _ _ _ hpos.ne', show ((m * 2 ^ k / den : Nat) : ℚ) * den + (m * 2 ^ k % den : Nat) = (m * 2 ^ k : Nat) by
      exact_mod_cast Nat.div_add_mod' _ _, hpow]
    push_cast
    ring
  have hfrac : (0 : ℚ) ≤ ((m * 2 ^ k % den : Nat) : ℚ) / den ∧ ((m * 2 ^ k % den : Nat) : ℚ) / den < 1 :=
    ⟨by positivity, (div_lt_one hpos).mpr (by exact_mod_cast Nat.mod_lt _ hden)⟩
  refine ⟨Nat.lt_of_lt_of_le (Nat.two_pow_pos _) hbig, ?_, ?_, ?_, fun _ => ?_⟩
  · rw [hX]
    exact mul_le_mul_of_nonneg_right (by linarith) hu.le
  · rw [hX]
    exact mul_lt_mul_of_pos_right (by linarith) hu
  · rw [hX, ne_eq, mul_left_inj' hu.ne', add_eq_left, div_eq_zero_iff]
    simp [hden.ne']
  · have hbits : f.fb + 4 < bitLen (m * 2 ^ k / den) :=
      (Nat.pow_lt_pow_iff_right (by decide)).mp (hbig.trans_lt (lt_two_pow_bitLen _))
    refine lt_of_lt_of_le ?_ (le_max_left _ _)
    omega

theorem mag_f16 : f16.mag 0x7BFF = 65504 ∧ f16.mag 0x7C00 = 65536 := by
  norm_num [Fmt.mag, Fmt.mant, Fmt.rise, Fmt.low, Fmt.bias, f16]

theorem limit_f16 : f16.limit = 0x7C00 := by decide

theorem sound_f16 : f16.Sound := .of_mem (by decide)

/-- The scale of a group before it is kept from zero and from infinity (R160). -/
def scaleOf (bits : Nat) : Nat := if bits = 0 then 1 else if (f16.val false bits).isInf then 0x7BFF else bits

/-- The scale is a finite FP16 pattern above zero, and the quotient rounded where that is one. -/
theorem scale_spec (m den : Nat) (e : Int) (hm : 0 < m) (hden : 0 < den) :
    let scale := scaleOf (f16.roundQuot .rne false false m den e).bits
    let x : ℚ := m * 2 ^ e / den
    0 < scale ∧ scale ≤ 0x7BFF ∧ (x ≤ 65504 → ∃ r, Rounded f16 .rne x r ∧ scale = if r % 2 ^ 15 = 0 then 1 else r) ∧
      (65520 ≤ x → scale = 0x7BFF) := by
  obtain ⟨T, P, c, hchosen, -, -, hround⟩ := (f16.roundQuot_brackets m den e hm hden).round sound_f16 .rne false
  obtain ⟨h1, h2⟩ := mag_f16
  dsimp only
  rw [Fmt.roundQuot, hround false]
  have hrounded := fun hP : P < f16.limit => hchosen.rounded sound_f16 hP
  rw [show signum false = 1 from rfl, one_mul, show f16.sign false = 0 from rfl, Nat.zero_add] at hrounded
  obtain ⟨hlo, hhi, hcase⟩ := hchosen
  rw [limit_f16] at hrounded
  by_cases hP : f16.limit ≤ P
  · have hbits : (f16.write .rne false false P c).bits = 0x7C00 := by
      rw [Fmt.write, if_neg (by simp), if_pos hP]
      rfl
    rw [hbits]
    refine ⟨by decide, by decide, fun hx => ?_, fun _ => by decide⟩
    rw [limit_f16] at hP
    have hT : T ≤ 0x7BFF := f16.mag_strictMono.le_iff_le.mp (by rw [h1]; exact hlo.trans hx)
    obtain ⟨rfl, hup⟩ := hcase.resolve_left (by omega)
    obtain rfl : T = 0x7BFF := by omega
    rw [h1] at hlo hup
    rw [le_antisymm hx hlo] at hup
    exact absurd hup (not_takesUpper_self _ _ _ _ _ (by rw [h2]; norm_num))
  · have hbits : (f16.write .rne false false P c).bits = P := by
      rw [Fmt.write, if_neg (by simp), if_neg hP]
      exact Nat.zero_add P
    rw [limit_f16] at hP
    have hinf : (f16.val false P).isInf = false := by
      have := f16.val_finite sound_f16 false P (by rw [limit_f16]; omega)
      rw [show f16.sign false = 0 from rfl, Nat.zero_add] at this
      rw [this]
      rfl
    rw [hbits, scaleOf, hinf, if_neg Bool.false_ne_true]
    refine ⟨by split <;> omega, by split <;> omega, fun _ => ⟨P, hrounded (by omega), by rw [Nat.mod_eq_of_lt (by omega)]⟩, fun hx => ?_⟩
    have hT : 0x7BFF ≤ T := Nat.lt_succ_iff.mp (f16.mag_strictMono.lt_iff_lt.mp (show f16.mag 0x7BFF < f16.mag (T + 1) by rw [h1]; linarith))
    obtain ⟨rfl, hno⟩ := hcase.resolve_right (by omega)
    obtain rfl : P = 0x7BFF := by omega
    refine absurd ?_ hno
    rw [h1, h2]
    rcases hx.eq_or_lt with h | h
    · exact .inr ⟨by rw [← h]; norm_num, rfl⟩
    · exact .inl (by linarith)

/-! ### A group -/

theorem clampInt_eq (b : Nat) (z : Int) : 0 ≤ clampInt 0 (2 ^ b - 1 : Nat) z ∧
    (clampInt 0 (2 ^ b - 1 : Nat) z).toNat = (max 0 (min z (2 ^ b - 1))).toNat ∧ (clampInt 0 (2 ^ b - 1 : Nat) z).toNat < 2 ^ b := by
  have hpos := Nat.two_pow_pos b
  have htop : ((2 ^ b - 1 : Nat) : Int) = 2 ^ b - 1 := by
    rw [Nat.cast_sub hpos]
    push_cast
    rfl
  have hcast : ((2 ^ b : Nat) : Int) = 2 ^ b := by push_cast; rfl
  rw [htop, ← hcast]
  unfold clampInt
  split
  · omega
  · split <;> omega

/-- The values of a group are finite where none is a NaN or an infinity. -/
theorem finite_of_any (vs : List FVal) (h : vs.any (fun v => v.isNan || v.isInf) = false) : ∀ v ∈ vs, ∃ n m e, v = .fin n m e := fun v hv => by
  have := List.any_eq_false.mp h v hv
  rw [Bool.not_eq_true, Bool.or_eq_false_iff] at this
  exact FVal.finite_fin v this.1 this.2

/-- The least and the greatest of a group's values and zero. -/
def groupLo (vs : List FVal) : FVal := vs.foldl (fun a v => if v.lt a then v else a) (.fin false 0 0)
def groupHi (vs : List FVal) : FVal := vs.foldl (fun a v => if a.lt v then v else a) (.fin false 0 0)

/-- The quantisation of a finite group whose values are not all zero. -/
theorem quantGroup_finite (b : Nat) (xs : List Nat) (m : Nat) (e : Int) (n : Bool)
    (hfin : (xs.map fun x => f32.val false x).any (fun v => v.isNan || v.isInf) = false)
    (hrange : ((groupLo (xs.map fun x => f32.val false x)).isZero && (groupHi (xs.map fun x => f32.val false x)).isZero) = false)
    (hsum : exactSum [groupHi (xs.map fun x => f32.val false x), (groupLo (xs.map fun x => f32.val false x)).negate] = .fin n m e) :
    let g := quantGroup b xs
    let vs := xs.map fun x => f32.val false x
    let zp := clampInt 0 (2 ^ b - 1 : Nat) (quotInt (groupLo vs).negate (f16.val false g.scale))
    g.scale = scaleOf (f16.roundQuot .rne false false m (2 ^ b - 1) e).bits ∧ g.zero = zp.toNat ∧
    g.codes = vs.map fun v => (clampInt 0 (2 ^ b - 1 : Nat) (quotInt v (f16.val false g.scale) + zp)).toNat := by
  unfold groupLo groupHi at *
  unfold quantGroup
  dsimp only
  rw [if_neg (by rw [hfin]; exact Bool.false_ne_true), hrange, if_neg Bool.false_ne_true]
  dsimp only
  rw [hsum]
  exact ⟨rfl, rfl, rfl⟩

/-- A group without finite values all, and one of zeros alone. -/
theorem quantGroup_rest (b : Nat) (xs : List Nat) :
    ((xs.map fun x => f32.val false x).any (fun v => v.isNan || v.isInf) = true →
      (quantGroup b xs).scale = 0x7E00 ∧ (quantGroup b xs).zero = 0 ∧ (quantGroup b xs).codes = (xs.map fun x => f32.val false x).map fun _ => 0) ∧
    ((xs.map fun x => f32.val false x).any (fun v => v.isNan || v.isInf) = false →
      ((groupLo (xs.map fun x => f32.val false x)).isZero && (groupHi (xs.map fun x => f32.val false x)).isZero) = true →
      (quantGroup b xs).scale = 0 ∧ (quantGroup b xs).zero = 0 ∧ (quantGroup b xs).codes = (xs.map fun x => f32.val false x).map fun _ => 0) := by
  unfold groupLo groupHi quantGroup
  dsimp only
  refine ⟨fun h => ?_, fun h hz => ?_⟩
  · rw [if_pos h]
    exact ⟨rfl, rfl, rfl⟩
  · rw [if_neg (by rw [h]; exact Bool.false_ne_true), if_pos hz]
    exact ⟨rfl, rfl, rfl⟩

theorem isZero_iff {v : FVal} (h : ∃ n m e, v = .fin n m e) : v.isZero = true ↔ rat v = 0 := by
  obtain ⟨n, m, e, rfl⟩ := h
  rw [rat, num_eq_zero]
  cases m <;> simp [FVal.isZero]

/-- A code, or a zero point, is the value cut to the bits of the type. -/
theorem getD_codes (xs : List Nat) (f : FVal → Nat) (i : Nat) (hi : i < xs.length) :
    ((xs.map fun x => f32.val false x).map f).getD i 0 = f (f32.val false (xs.getD i 0)) := by simp [hi]

theorem groupLo_spec (vs : List FVal) (hfin : ∀ v ∈ vs, ∃ n m e, v = .fin n m e) : (∃ n m e, groupLo vs = .fin n m e) ∧
    rat (groupLo vs) = vs.foldl (fun a v => min a (rat v)) 0 ∧ rat (groupLo vs) ≤ 0 := by
  obtain ⟨h, hlo⟩ := fold_min vs hfin (.fin false 0 0) ⟨_, _, _, rfl⟩
  rw [show rat (.fin false 0 0) = 0 by simp [rat, num]] at hlo
  exact ⟨h, hlo, hlo.trans_le (fold_min_le vs 0)⟩

theorem groupHi_spec (vs : List FVal) (hfin : ∀ v ∈ vs, ∃ n m e, v = .fin n m e) : (∃ n m e, groupHi vs = .fin n m e) ∧
    rat (groupHi vs) = vs.foldl (fun a v => max a (rat v)) 0 ∧ 0 ≤ rat (groupHi vs) := by
  obtain ⟨h, hhi⟩ := fold_max vs hfin (.fin false 0 0) ⟨_, _, _, rfl⟩
  rw [show rat (.fin false 0 0) = 0 by simp [rat, num]] at hhi
  exact ⟨h, hhi, (le_fold_max vs 0).trans_eq hhi.symm⟩

theorem val_scale (s : Nat) (h0 : 0 < s) (h1 : s ≤ 0x7BFF) : ∃ m e, f16.val false s = .fin false m e ∧ 0 < m := by
  have hval := f16.val_finite sound_f16 false s (by rw [limit_f16]; omega)
  rw [show f16.sign false = 0 from rfl, Nat.zero_add] at hval
  refine ⟨_, _, hval, Nat.pos_of_ne_zero fun h => ?_⟩
  have := f16.mag_strictMono h0
  rw [f16.mag_zero, Fmt.mag, h] at this
  simp at this

/-- The range of a group that is not all zeros: an exact number above zero. -/
theorem group_range (vs : List FVal) (hfin : ∀ v ∈ vs, ∃ n m e, v = .fin n m e) (hne : rat (groupHi vs) ≠ rat (groupLo vs)) :
    ∃ m e, exactSum [groupHi vs, (groupLo vs).negate] = .fin false m e ∧ 0 < m ∧ (m : ℚ) * 2 ^ e = rat (groupHi vs) - rat (groupLo vs) := by
  obtain ⟨⟨n, m, e, hlofin⟩, -, hle⟩ := groupLo_spec vs hfin
  obtain ⟨hhifin, -, hge⟩ := groupHi_spec vs hfin
  have hneg : ∃ n m e, (groupLo vs).negate = .fin n m e := ⟨!n, m, e, by rw [hlofin]; rfl⟩
  obtain ⟨n, m, e, hsum, hnum, -, hsign⟩ := exactSum_finite [groupHi vs, (groupLo vs).negate]
    (List.forall_mem_cons.mpr ⟨hhifin, List.forall_mem_singleton.mpr hneg⟩)
  have hdiff : num n m e = rat (groupHi vs) - rat (groupLo vs) := by rw [hnum]; simp [rat_negate, sub_eq_add_neg]
  have hlt : 0 < num n m e := by rw [hdiff]; exact sub_pos.mpr (lt_of_le_of_ne (hle.trans hge) (Ne.symm hne))
  have hm : 0 < m := Nat.pos_of_ne_zero fun h => hlt.ne' ((num_eq_zero n m e).mpr h)
  obtain rfl : n = false := Bool.eq_false_iff.mpr fun h => hlt.not_gt (hnum ▸ (hsign hm.ne').mp h)
  refine ⟨m, e, hsum, hm, ?_⟩
  rw [← hdiff, num_eq]
  simp [signum]

/-- What a group is quantised to fits its places. -/
def GroupFits (b n : Nat) (g : Group) : Prop := g.scale < 2 ^ 16 ∧ g.zero < 2 ^ b ∧ ∀ i < n, g.codes.getD i 0 < 2 ^ b

/-- A group of finite values that are not all zero. -/
theorem quantGroup_spread (b : Nat) (hb : 0 < b) (xs : List Nat) (hany : (xs.map fun x => f32.val false x).any (fun v => v.isNan || v.isInf) = false)
    (hne : rat (groupHi (xs.map fun x => f32.val false x)) ≠ rat (groupLo (xs.map fun x => f32.val false x))) :
    let g := quantGroup b xs
    let vs := xs.map fun x => f32.val false x
    let x := (rat (groupHi vs) - rat (groupLo vs)) / (2 ^ b - 1)
    let cut := fun z : ℤ => (max 0 (min z (2 ^ b - 1))).toNat
    ((x ≤ 65504 → ∃ r, Rounded f16 .rne x r ∧ g.scale = if r % 2 ^ 15 = 0 then 1 else r) ∧ (65520 ≤ x → g.scale = 0x7BFF) ∧
    (∃ z : ℤ, IntRounded .rne (-rat (groupLo vs) / rat (f16.val false g.scale)) z ∧ g.zero = cut z) ∧
    ∀ i < xs.length, ∃ z : ℤ, IntRounded .rne (rat (f32.val false (xs.getD i 0)) / rat (f16.val false g.scale)) z ∧ g.codes.getD i 0 = cut (z + g.zero)) ∧
    GroupFits b xs.length g := by
  have hcut := clampInt_eq b
  dsimp only
  set vs := xs.map fun x => f32.val false x with hvs
  have hfin := finite_of_any vs hany
  obtain ⟨hlofin, -, hle⟩ := groupLo_spec vs hfin
  obtain ⟨hhifin, -, hge⟩ := groupHi_spec vs hfin
  have hz : ((groupLo vs).isZero && (groupHi vs).isZero) = false := by
    rw [Bool.eq_false_iff, ne_eq, Bool.and_eq_true, isZero_iff hlofin, isZero_iff hhifin]
    exact fun h => hne (h.2.trans h.1.symm)
  obtain ⟨m, e, hsum, hm, hrange⟩ := group_range vs hfin hne
  obtain ⟨hs, hzp, hc⟩ := quantGroup_finite b xs m e false hany hz hsum
  obtain ⟨hs0, hs1, hs2, hs3⟩ := scale_spec m (2 ^ b - 1) e hm (by have := Nat.one_lt_two_pow hb.ne'; omega)
  rw [← hs] at hs0 hs1 hs2 hs3
  rw [hrange, Nat.cast_sub (Nat.two_pow_pos b), Nat.cast_pow, Nat.cast_one, Nat.cast_ofNat] at hs2 hs3
  have hsv := val_scale _ hs0 hs1
  have hcode (i : Nat) (hi : i < xs.length) : (quantGroup b xs).codes.getD i 0 =
      (clampInt 0 (2 ^ b - 1 : Nat) (quotInt (f32.val false (xs.getD i 0)) (f16.val false (quantGroup b xs).scale) + (quantGroup b xs).zero)).toNat := by
    rw [hc, getD_codes xs _ i hi, hzp, Int.toNat_of_nonneg (hcut _).1]
  refine ⟨⟨hs2, hs3, ⟨_, ?_, hzp.trans (hcut _).2.1⟩, fun i hi => ⟨_, ?_, (hcode i hi).trans (hcut _).2.1⟩⟩, by omega, by rw [hzp]; exact (hcut _).2.2,
    fun i hi => by rw [hcode i hi]; exact (hcut _).2.2⟩
  · rw [← rat_negate]
    refine quotInt_spec ?_ hsv
    obtain ⟨n, m, e, h⟩ := hlofin
    exact ⟨!n, m, e, by rw [h]; rfl⟩
  · refine quotInt_spec (hfin _ ?_) hsv
    rw [List.getD_eq_getElem _ _ hi]
    exact List.mem_map.mpr ⟨_, List.getElem_mem hi, rfl⟩

/-- The quantisation of a group is what R160 says, in the bits of its type and of FP16. -/
theorem quantGroup_spec (b : Nat) (hb : 0 < b) (xs : List Nat) :
    QuantGroup b xs (quantGroup b xs).scale (quantGroup b xs).zero (fun i => (quantGroup b xs).codes.getD i 0) ∧ GroupFits b xs.length (quantGroup b xs) := by
  have hpos := Nat.two_pow_pos b
  obtain ⟨hbad, hflat⟩ := quantGroup_rest b xs
  have hnone (s : Nat) (hs16 : s < 2 ^ 16) (h : (quantGroup b xs).scale = s ∧ (quantGroup b xs).zero = 0 ∧
      (quantGroup b xs).codes = (xs.map fun x => f32.val false x).map fun _ => 0) :
      ((quantGroup b xs).scale = s ∧ (quantGroup b xs).zero = 0 ∧ ∀ i < xs.length, (quantGroup b xs).codes.getD i 0 = 0) ∧
        GroupFits b xs.length (quantGroup b xs) := by
    obtain ⟨hs, hz, hc⟩ := h
    have hcode (i : Nat) (hi : i < xs.length) : (quantGroup b xs).codes.getD i 0 = 0 := by rw [hc, getD_codes xs _ i hi]
    exact ⟨⟨hs, hz, hcode⟩, by omega, by omega, fun i hi => by rw [hcode i hi]; exact hpos⟩
  unfold QuantGroup
  dsimp only
  cases hany : (xs.map fun x => f32.val false x).any (fun v => v.isNan || v.isInf) with
  | true =>
    rw [if_pos rfl]
    exact hnone 0x7E00 (by decide) (hbad hany)
  | false =>
    have hfin := finite_of_any _ hany
    obtain ⟨hlofin, hlo, hle⟩ := groupLo_spec _ hfin
    obtain ⟨hhifin, hhi, hge⟩ := groupHi_spec _ hfin
    rw [if_neg Bool.false_ne_true, ← hlo, ← hhi]
    by_cases heq : rat (groupHi (xs.map fun x => f32.val false x)) = rat (groupLo (xs.map fun x => f32.val false x))
    · rw [if_pos heq]
      refine hnone 0 (by decide) (hflat hany ?_)
      rw [Bool.and_eq_true, isZero_iff hlofin, isZero_iff hhifin]
      exact ⟨by linarith, by linarith⟩
    · rw [if_neg heq]
      exact quantGroup_spread b hb xs hany heq

end Sys2Proof.Machine
end

section
/-! SUPPORT. The tile that QUANT writes: codes, scales and zero points at their places (R145, R160). -/

open Sys2Proof.Claims

namespace Sys2Proof.Machine

/-! ### Nibbles and bytes in order -/

/-- Nibbles in order are read back, the even one low. -/
theorem listByte_packNibbles (xs : List Nat) : (packNibbles xs).length = (xs.length + 1) / 2 ∧
    ∀ k < xs.length, listByte (packNibbles xs) (k / 2) / 16 ^ (k % 2) % 16 = xs.getD k 0 % 16 := by
  induction xs using packNibbles.induct with
  | case1 a b t ih =>
    obtain ⟨hlen, hnib⟩ := ih
    rw [packNibbles]
    refine ⟨by simp only [List.length_cons, hlen]; omega, fun k hk => ?_⟩
    have hbyte : (BitVec.ofNat 8 (a % 16 + 16 * (b % 16))).toNat = a % 16 + 16 * (b % 16) := by
      rw [BitVec.toNat_ofNat]
      omega
    match k, hk with
    | 0, _ => simp [listByte, hbyte, Nat.add_mul_mod_self_left]
    | 1, _ =>
      have : (a % 16 + 16 * (b % 16)) / 16 % 16 = b % 16 := by omega
      simpa [listByte, hbyte] using this
    | k + 2, hk =>
      have h := hnib k (by simpa using hk)
      rw [show (k + 2) / 2 = k / 2 + 1 by omega, show (k + 2) % 2 = k % 2 by omega]
      simpa [listByte] using h
  | case2 a =>
    rw [packNibbles]
    refine ⟨by simp, fun k hk => ?_⟩
    obtain rfl : k = 0 := by simpa using hk
    simp [listByte]
  | case3 => simp [packNibbles]

/-- Bytes in order are read back. -/
theorem listByte_packBytes_one (xs : List Nat) (k : Nat) : listByte (packBytes 1 xs) k = xs.getD k 0 % 256 := by
  have hbytes : packBytes 1 xs = xs.map fun x => BitVec.ofNat 8 x := by
    rw [packBytes, List.map_eq_flatMap]
    rfl
  rw [hbytes, listByte]
  by_cases hk : k < xs.length
  · simp [hk]
  · simp [hk]

/-! ### The places of a tile -/

/-- The bytes of a tile written in three runs, the later over the earlier. -/
theorem arrByte_runs (A B C : List Byte) (so zo : Nat) (mark : Bool) (k : Nat) (hk : k < 16384) :
    arrByte (tileBytes { data := [(0, A), (so, B), (zo, C)].foldl (fun x e => Sparse.setRun e.1 e.2 x) [], poison := mark }) k =
      if zo ≤ k ∧ k < zo + C.length then listByte C (k - zo) else if so ≤ k ∧ k < so + B.length then listByte B (k - so) else listByte A k := by
  rw [arrByte_tileBytes, if_pos hk]
  simp only [List.foldl_cons, List.foldl_nil]
  rw [Sparse.get_setRun, Sparse.get_setRun, Sparse.get_setRun]
  split
  · rfl
  · split
    · rfl
    · rw [Nat.zero_add, Nat.sub_zero]
      split
      · rfl
      next h => exact (listByte_past A k (by omega)).symm

/-! ### Grouped types -/

/-- What a descriptor in form says of the places of a grouped matrix (R145, R146). -/
structure GroupedLayout (t : ElemTy) (d : Desc) : Prop where
  elem : d.elem = t
  whole : d.rows % groupSize d.grp = 0
  even : t = .q4 → d.cols % 2 = 0
  codes : codeBytes t d.rows d.cols ≤ 16384
  scales : d.soff + d.rows / groupSize d.grp * d.cols * 2 ≤ 16384
  zeros : d.zoff + d.rows / groupSize d.grp * d.cols ≤ 16384
  codesScales : codeBytes t d.rows d.cols ≤ d.soff ∨ d.rows / groupSize d.grp * d.cols = 0
  codesZeros : codeBytes t d.rows d.cols ≤ d.zoff ∨ d.rows / groupSize d.grp * d.cols = 0
  scalesZeros : d.soff + d.rows / groupSize d.grp * d.cols * 2 ≤ d.zoff ∨ d.zoff + d.rows / groupSize d.grp * d.cols ≤ d.soff

theorem groupedLayout (t : ElemTy) (d : Desc) (hw : d.wellFormed = true) (hty : d.ty = t.code) (hg : t.isGrouped = true) : GroupedLayout t d := by
  have hcode : elemOfCode d.ty = some t := by rw [hty]; cases t <;> rfl
  unfold Desc.wellFormed Desc.word0Ok Desc.word1Ok at hw
  rw [hcode] at hw
  dsimp only at hw
  rw [hg, if_pos rfl, if_pos rfl] at hw
  simp only [Bool.and_eq_true, Bool.or_eq_true, decide_eq_true_eq, beq_iff_eq, bne_iff_ne, disjoint] at hw
  obtain ⟨⟨-, ⟨⟨-, hcodes⟩, heven⟩, ⟨-, hwhole⟩, hscales, hcs⟩, -, ⟨hzeros, hcz⟩, hsz⟩ := hw
  exact ⟨by rw [Desc.elem, hcode]; rfl, hwhole, fun h => heven.resolve_left (not_not_intro h), hcodes, hscales, hzeros, by omega, by omega, hsz⟩

/-- The bits of a code of a grouped type. -/
def codeBits (t : ElemTy) : Nat := if t = .q4 then 4 else 8

/-- The group of a column that QUANT quantises. -/
def groupAt (y : Nat → Nat) (t : ElemTy) (d : Desc) (i j : Nat) : Group :=
  quantGroup (codeBits t) ((List.range (groupSize d.grp)).map fun x => y ((i * groupSize d.grp + x) * d.cols + j))

/-- The code of an element. -/
def codeAt (y : Nat → Nat) (t : ElemTy) (d : Desc) (k : Nat) : Nat :=
  (groupAt y t d (k / d.cols / groupSize d.grp) (k % d.cols)).codes.getD (k / d.cols % groupSize d.grp) 0

/-- The groups in their order. -/
def groupList (y : Nat → Nat) (t : ElemTy) (d : Desc) : List Group :=
  (List.range (d.rows / groupSize d.grp * d.cols)).map fun k => groupAt y t d (k / d.cols) (k % d.cols)

/-- The codes in their order. -/
def codeList (y : Nat → Nat) (t : ElemTy) (d : Desc) : List Nat := (List.range (d.rows * d.cols)).map (codeAt y t d)

/-- QUANT to a grouped type writes codes, scales and zero points. -/
theorem quantOn_grouped (a : Array Byte) (t : ElemTy) (rot : Rot) (d : Desc) (hg : t.isGrouped = true) (hl : GroupedLayout t d) (hc : 0 < d.cols) :
    let y := fun k => (rotated (fun k => arrNat a (k * 4) 4) d (rotLen rot)).1.getD k 0
    (quantOn a t rot d).1 = [(0, if t = .q4 then packNibbles (codeList y t d) else packBytes 1 (codeList y t d)),
      (d.soff, packBytes 2 ((groupList y t d).map Group.scale)), (d.zoff, packBytes 1 ((groupList y t d).map Group.zero))] := by
  dsimp only
  set y := fun k => (rotated (fun k => arrNat a (k * 4) 4) d (rotLen rot)).1.getD k 0 with hy
  have hgroups : ((List.range (d.rows / groupSize d.grp)).flatMap fun g => (List.range d.cols).map fun j =>
      quantGroup (if t = .q4 then 4 else 8) ((List.range (groupSize d.grp)).map fun x => y ((g * groupSize d.grp + x) * d.cols + j))) = groupList y t d :=
    flatMap_range_map _ _ hc fun g j => groupAt y t d g j
  have hcodes : (List.range (d.rows * d.cols)).map (fun k => (((groupList y t d).toArray.getD (k / d.cols / groupSize d.grp * d.cols + k % d.cols)
      { scale := 0, zero := 0, codes := [], cls := 0 }).codes).getD (k / d.cols % groupSize d.grp) 0) = codeList y t d := by
    refine List.map_congr_left fun k hk => ?_
    have hrow : k / d.cols < d.rows := Nat.div_lt_of_lt_mul (by rw [Nat.mul_comm]; exact List.mem_range.mp hk)
    have hcol := Nat.mod_lt k hc
    have hgs : 0 < groupSize d.grp := Nat.pos_of_ne_zero fun h => by
      have := hl.whole
      rw [h, Nat.mod_zero] at this
      exact Nat.not_lt_zero _ (this ▸ hrow)
    have hgroup : k / d.cols / groupSize d.grp < d.rows / groupSize d.grp := by
      rw [Nat.div_lt_iff_lt_mul hgs, Nat.div_mul_cancel (Nat.dvd_of_mod_eq_zero hl.whole)]
      exact hrow
    have hin : k / d.cols / groupSize d.grp * d.cols + k % d.cols < d.rows / groupSize d.grp * d.cols := by
      have := Nat.mul_le_mul_right d.cols hgroup
      rw [Nat.succ_mul] at this
      omega
    have hdiv : (k / d.cols / groupSize d.grp * d.cols + k % d.cols) / d.cols = k / d.cols / groupSize d.grp := by
      rw [Nat.mul_comm, Nat.mul_add_div hc, Nat.div_eq_of_lt hcol, Nat.add_zero]
    have hmod : (k / d.cols / groupSize d.grp * d.cols + k % d.cols) % d.cols = k % d.cols := by
      rw [Nat.mul_comm, Nat.mul_add_mod, Nat.mod_mod]
    have hget : (groupList y t d).toArray.getD (k / d.cols / groupSize d.grp * d.cols + k % d.cols) { scale := 0, zero := 0, codes := [], cls := 0 } =
        groupAt y t d (k / d.cols / groupSize d.grp) (k % d.cols) := by
      simp [groupList, hin, hdiv, hmod]
    rw [hget, codeAt]
  unfold quantOn
  dsimp only
  rw [hg, if_pos rfl]
  dsimp only
  rw [hgroups, hcodes]

theorem lend_offset {f g : Nat → Nat} {a b n : Nat} (h : ∀ i < n, f (a + i) = g (b + i)) : lend f a n = lend g b n := by
  rw [← lend_shift f, ← lend_shift g]
  exact lend_congr fun i hi => by simpa using h i hi

theorem lend_one (f : Nat → Nat) (off : Nat) : lend f off 1 = f off := by simp [lend]

theorem QuantGroup.congr {b : Nat} {xs : List Nat} {scale zp : Nat} {f g : Nat → Nat} (hfg : ∀ i < xs.length, f i = g i) (h : QuantGroup b xs scale zp f) :
    QuantGroup b xs scale zp g := by
  have hcongr {P : Nat → Nat → Prop} : (∀ i < xs.length, P i (f i)) → ∀ i < xs.length, P i (g i) := fun h i hi => hfg i hi ▸ h i hi
  unfold QuantGroup at h ⊢
  dsimp only at h ⊢
  split at h
  next hbad =>
    rw [if_pos hbad]
    exact ⟨h.1, h.2.1, hcongr (P := fun _ c => c = 0) h.2.2⟩
  next hgood =>
    rw [if_neg hgood]
    split at h
    next heq =>
      rw [if_pos heq]
      exact ⟨h.1, h.2.1, hcongr (P := fun _ c => c = 0) h.2.2⟩
    next hne =>
      rw [if_neg hne]
      obtain ⟨h1, h2, h3, h4⟩ := h
      exact ⟨h1, h2, h3, fun i hi => by rw [← hfg i hi]; exact h4 i hi⟩

theorem groupAt_spec (y : Nat → Nat) (t : ElemTy) (d : Desc) (i j : Nat) :
    QuantGroup (codeBits t) ((List.range (groupSize d.grp)).map fun x => y ((i * groupSize d.grp + x) * d.cols + j)) (groupAt y t d i j).scale
      (groupAt y t d i j).zero (fun x => (groupAt y t d i j).codes.getD x 0) ∧ GroupFits (codeBits t) (groupSize d.grp) (groupAt y t d i j) := by
  have h := quantGroup_spec (codeBits t) (by unfold codeBits; split <;> decide)
    ((List.range (groupSize d.grp)).map fun x => y ((i * groupSize d.grp + x) * d.cols + j))
  rwa [List.length_map, List.length_range] at h

theorem bytes_of_isGrouped (t : ElemTy) (hg : t.isGrouped = true) : t.bytes = 1 := by
  cases t with
  | q8 | q4 => rfl
  | _ => cases hg

theorem GroupedLayout.size_even {t : ElemTy} {d : Desc} (hl : GroupedLayout t d) (h : t = .q4) : d.rows * d.cols % 2 = 0 := by
  rw [Nat.mul_mod, hl.even h, Nat.mul_zero, Nat.zero_mod]

section
variable (y : Nat → Nat) (t : ElemTy) (d : Desc)

/-- The bytes of the codes. -/
def codeRun : List Byte := if t = .q4 then packNibbles (codeList y t d) else packBytes 1 (codeList y t d)
/-- The bytes of the scales. -/
def scaleRun : List Byte := packBytes 2 ((groupList y t d).map Group.scale)
/-- The bytes of the zero points. -/
def zeroRun : List Byte := packBytes 1 ((groupList y t d).map Group.zero)
/-- The tile of a grouped matrix. -/
def groupedTile (mark : Bool) : Tile :=
  { data := [(0, codeRun y t d), (d.soff, scaleRun y t d), (d.zoff, zeroRun y t d)].foldl (fun x e => Sparse.setRun e.1 e.2 x) [], poison := mark }

variable (hg : t.isGrouped = true) (hl : GroupedLayout t d)
include hg hl

theorem length_runs : (codeRun y t d).length = codeBytes t d.rows d.cols ∧ (scaleRun y t d).length = d.rows / groupSize d.grp * d.cols * 2 ∧
    (zeroRun y t d).length = d.rows / groupSize d.grp * d.cols := by
  refine ⟨?_, by simp [scaleRun, groupList, length_packBytes, Nat.mul_comm], by simp [zeroRun, groupList, length_packBytes]⟩
  have hlen : (codeList y t d).length = d.rows * d.cols := by simp [codeList]
  unfold codeRun codeBytes
  split
  next h =>
    have heven := hl.size_even h
    rw [(listByte_packNibbles _).1, hlen]
    omega
  next h =>
    rw [length_packBytes, hlen, bytes_of_isGrouped t hg, Nat.one_mul, Nat.mul_one]

/-- The bytes of the tile by their place. -/
theorem groupedTile_bytes (mark : Bool) :
    (∀ k < codeBytes t d.rows d.cols, arrByte (tileBytes (groupedTile y t d mark)) k = listByte (codeRun y t d) k) ∧
    (∀ k < d.rows / groupSize d.grp * d.cols * 2, arrByte (tileBytes (groupedTile y t d mark)) (d.soff + k) = listByte (scaleRun y t d) k) ∧
    (∀ k < d.rows / groupSize d.grp * d.cols, arrByte (tileBytes (groupedTile y t d mark)) (d.zoff + k) = listByte (zeroRun y t d) k) ∧
    ∀ k < 16384, ¬k < codeBytes t d.rows d.cols → ¬(d.soff ≤ k ∧ k < d.soff + d.rows / groupSize d.grp * d.cols * 2) →
      ¬(d.zoff ≤ k ∧ k < d.zoff + d.rows / groupSize d.grp * d.cols) → arrByte (tileBytes (groupedTile y t d mark)) k = 0 := by
  obtain ⟨hA, hB, hC⟩ := length_runs y t d hg hl
  have hbyte := arrByte_runs (codeRun y t d) (scaleRun y t d) (zeroRun y t d) d.soff d.zoff mark
  rw [hB, hC] at hbyte
  obtain ⟨-, -, -, hc, hs, hz, hcs, hcz, hsz⟩ := hl
  refine ⟨fun k hk => ?_, fun k hk => ?_, fun k hk => ?_, fun k hk hnc hns hnz => ?_⟩
  · rw [groupedTile, hbyte k (by omega), if_neg (by omega), if_neg (by omega)]
  · rw [groupedTile, hbyte _ (by omega), if_neg (by omega), if_pos (by omega), Nat.add_sub_cancel_left]
  · rw [groupedTile, hbyte _ (by omega), if_pos (by omega), Nat.add_sub_cancel_left]
  · rw [groupedTile, hbyte k hk, if_neg hnz, if_neg hns]
    exact listByte_past _ _ (by omega)

/-- A code is read back from the tile. -/
theorem elt_groupedTile (mark : Bool) (i j x : Nat) (hi : i < d.rows / groupSize d.grp) (hj : j < d.cols) (hx : x < groupSize d.grp) :
    elt (arrByte (tileBytes (groupedTile y t d mark))) t ((i * groupSize d.grp + x) * d.cols + j) = (groupAt y t d i j).codes.getD x 0 := by
  obtain ⟨hcodes, -⟩ := groupedTile_bytes y t d hg hl mark
  obtain ⟨-, -, -, hfit⟩ := groupAt_spec y t d i j
  have hrow : i * groupSize d.grp + x < d.rows := by
    have h := Nat.mul_le_mul_right (groupSize d.grp) hi
    rw [Nat.div_mul_cancel (Nat.dvd_of_mod_eq_zero hl.whole), Nat.succ_mul] at h
    omega
  have hk : (i * groupSize d.grp + x) * d.cols + j < d.rows * d.cols := by
    have h := Nat.mul_le_mul_right d.cols hrow
    rw [Nat.succ_mul] at h
    omega
  have hcode : (codeList y t d).getD ((i * groupSize d.grp + x) * d.cols + j) 0 = (groupAt y t d i j).codes.getD x 0 := by
    have h1 : ((i * groupSize d.grp + x) * d.cols + j) / d.cols = i * groupSize d.grp + x := by
      rw [Nat.mul_comm _ d.cols, Nat.mul_add_div (Nat.zero_lt_of_lt hj), Nat.div_eq_of_lt hj, Nat.add_zero]
    have h2 : ((i * groupSize d.grp + x) * d.cols + j) % d.cols = j := by rw [Nat.mul_comm _ d.cols, Nat.mul_add_mod, Nat.mod_eq_of_lt hj]
    have h3 : (i * groupSize d.grp + x) / groupSize d.grp = i := by
      rw [Nat.mul_comm i, Nat.mul_add_div (Nat.zero_lt_of_lt hx), Nat.div_eq_of_lt hx, Nat.add_zero]
    have h4 : (i * groupSize d.grp + x) % groupSize d.grp = x := by rw [Nat.mul_comm i, Nat.mul_add_mod, Nat.mod_eq_of_lt hx]
    rw [codeList, List.getD_eq_getElem _ _ (by simpa using hk), List.getElem_map, List.getElem_range, codeAt, h1, h2, h3, h4]
  have hlen : (codeList y t d).length = d.rows * d.cols := by simp [codeList]
  have hlt := hfit x hx
  unfold elt
  split
  next h =>
    have heven := hl.size_even h
    rw [codeBits, if_pos h] at hlt
    rw [hcodes _ (by rw [codeBytes, if_pos h]; omega), codeRun, if_pos h, (listByte_packNibbles _).2 _ (by omega), hcode]
    exact Nat.mod_eq_of_lt hlt
  next h =>
    have hone := bytes_of_isGrouped t hg
    rw [codeBits, if_neg h] at hlt
    rw [hone, Nat.mul_one, lend_one, hcodes _ (by rw [codeBytes, if_neg h, hone, Nat.mul_one]; exact hk), codeRun, if_neg h, listByte_packBytes_one, hcode]
    exact Nat.mod_eq_of_lt hlt

/-- The parameters of a group are read back from the tile. -/
theorem parameters_groupedTile (mark : Bool) (i j : Nat) (hi : i < d.rows / groupSize d.grp) (hj : j < d.cols) :
    lend (arrByte (tileBytes (groupedTile y t d mark))) (d.soff + (i * d.cols + j) * 2) 2 = (groupAt y t d i j).scale ∧
    arrByte (tileBytes (groupedTile y t d mark)) (d.zoff + i * d.cols + j) = (groupAt y t d i j).zero := by
  obtain ⟨-, hscales, hzeros, -⟩ := groupedTile_bytes y t d hg hl mark
  obtain ⟨-, hs, hz, -⟩ := groupAt_spec y t d i j
  have hq : i * d.cols + j < d.rows / groupSize d.grp * d.cols := by
    have h := Nat.mul_le_mul_right d.cols hi
    rw [Nat.succ_mul] at h
    omega
  have h1 : (i * d.cols + j) / d.cols = i := by
    rw [Nat.mul_comm i, Nat.mul_add_div (Nat.zero_lt_of_lt hj), Nat.div_eq_of_lt hj, Nat.add_zero]
  have h2 : (i * d.cols + j) % d.cols = j := by rw [Nat.mul_comm i, Nat.mul_add_mod, Nat.mod_eq_of_lt hj]
  have hgroup : (groupList y t d)[i * d.cols + j]'(by simpa [groupList] using hq) = groupAt y t d i j := by simp [groupList, h1, h2]
  have hlen : ((groupList y t d).map Group.scale).length = d.rows / groupSize d.grp * d.cols := by simp [groupList]
  constructor
  · rw [lend_offset (g := listByte (scaleRun y t d)) (b := (i * d.cols + j) * 2) fun x hx => by rw [Nat.add_assoc]; exact hscales _ (by omega), scaleRun,
      lend_packBytes _ _ _ (by omega), List.getElem_map, hgroup]
    exact Nat.mod_eq_of_lt hs
  · have hsmall : (groupAt y t d i j).zero < 256 := hz.trans_le (by unfold codeBits; split <;> decide)
    rw [Nat.add_assoc, hzeros _ hq, zeroRun, listByte_packBytes_one, List.getD_eq_getElem _ _ (by simpa [groupList] using hq), List.getElem_map, hgroup]
    exact Nat.mod_eq_of_lt hsmall

end

/-! ### QUANT -/

/-- QUANT to a plain type writes the conversions alone. -/
theorem quantOn_plain (a : Array Byte) (t : ElemTy) (rot : Rot) (d : Desc) (hg : t.isGrouped = false) :
    (quantOn a t rot d).1 = [(0, packBytes 1 ((rotated (fun k => arrNat a (k * 4) 4) d (rotLen rot)).1.toList.map fun x =>
      (convert t .f32 .rne false x).1.toNat % 256))] := by
  unfold quantOn
  dsimp only
  rw [if_neg (by rw [hg]; exact Bool.false_ne_true)]
  dsimp only
  rw [List.map_map]
  rfl

/-- QUANT is what R145 and R160 say of it. -/
theorem quantOn_quantised (a : Array Byte) (t : ElemTy) (rot : Rot) (d : Desc) (mark : Bool) (hw : d.wellFormed = true) (hty : d.ty = t.code)
    (hsize : d.rows * d.cols ≤ 4096) (hc : 0 < d.cols) :
    Quantised t (rotLen rot) d (arrByte a)
      (arrByte (tileBytes { data := (quantOn a t rot d).1.foldl (fun x e => Sparse.setRun e.1 e.2 x) [], poison := mark })) := by
  have hsource : (fun k => arrNat a (k * 4) 4) = fun k => lend (arrByte a) (4 * k) 4 := by
    funext k
    rw [arrNat_eq, Nat.mul_comm]
  obtain ⟨hlen, hrot⟩ := rotated_rotates (fun k => arrNat a (k * 4) 4) d (rotLen rot)
  refine ⟨fun k => (rotated (fun k => arrNat a (k * 4) 4) d (rotLen rot)).1.getD k 0, by rwa [hsource] at hrot ⊢, ?_⟩
  dsimp only
  cases hg : t.isGrouped with
  | true =>
    have hl := groupedLayout t d hw hty hg
    have htile := quantOn_grouped a t rot d hg hl hc
    dsimp only at htile
    set y := fun k => (rotated (fun k => arrNat a (k * 4) 4) d (rotLen rot)).1.getD k 0 with hy
    rw [if_pos rfl, htile]
    change (∀ i < _, ∀ j < _, QuantGroup (codeBits t) _ (lend (arrByte (tileBytes (groupedTile y t d mark))) _ 2)
      (arrByte (tileBytes (groupedTile y t d mark)) _) _) ∧ ∀ k < 16384, _ → _ → _ → arrByte (tileBytes (groupedTile y t d mark)) k = 0
    refine ⟨fun i hi j hj => ?_, ?_⟩
    · obtain ⟨hscale, hzero⟩ := parameters_groupedTile y t d hg hl mark i j hi hj
      rw [hscale, hzero]
      exact QuantGroup.congr (fun x hx => (elt_groupedTile y t d hg hl mark i j x hi hj (by simpa using hx)).symm) (groupAt_spec y t d i j).1
    · exact (groupedTile_bytes y t d hg hl mark).2.2.2
  | false =>
    rw [if_neg Bool.false_ne_true, quantOn_plain a t rot d hg]
    have hbytes (k : Nat) : arrByte (tileBytes { data := [(0, packBytes 1 ((rotated (fun k => arrNat a (k * 4) 4) d (rotLen rot)).1.toList.map fun x =>
        (convert t .f32 .rne false x).1.toNat % 256))].foldl (fun x e => Sparse.setRun e.1 e.2 x) [], poison := mark }) k =
        if k < d.rows * d.cols then (convert t .f32 .rne false ((rotated (fun k => arrNat a (k * 4) 4) d (rotLen rot)).1.getD k 0)).1.toNat % 256 else 0 := by
      rw [arrByte_tileBytes, List.foldl_cons, List.foldl_nil, Sparse.get_setRun, length_packBytes, List.length_map, Array.length_toList, hlen]
      by_cases hk : k < d.rows * d.cols
      · rw [if_pos (by omega), if_pos (by omega), if_pos hk]
        have h := listByte_packBytes_one ((rotated (fun k => arrNat a (k * 4) 4) d (rotLen rot)).1.toList.map fun x =>
          (convert t .f32 .rne false x).1.toNat % 256) k
        rw [listByte, List.getD_eq_getElem (l := List.map _ _) _ (by simpa [hlen] using hk), List.getElem_map, Nat.mod_mod] at h
        rw [Nat.sub_zero, h, Array.getElem_toList, Array.getD_eq_getD_getElem?, Array.getElem?_eq_getElem (by rwa [hlen]), Option.getD_some]
      · rw [if_neg hk]
        split
        · rw [if_neg (by omega)]
          rfl
        · rfl
    exact ⟨fun k hk => by rw [hbytes, if_pos hk], fun k hk => by rw [hbytes, if_neg (by omega)]⟩

end Sys2Proof.Machine
end

section
/-! SUPPORT. DEQ, TACT and TRED (R161, R162, R163). -/

open Sys2Proof.Claims

namespace Sys2Proof.Machine

/-! ### Tiles of results -/

/-- The tile of a list of results: each is read back, and the bytes past them are zero. -/
theorem tileOf_packBytes (e n : Nat) (f : Nat → Nat) (mark : Bool) (hfit : n * e ≤ 16384) (hlt : ∀ k < n, f k < 256 ^ e) :
    (∀ k < n, lend (arrByte (tileBytes { data := tileOf (packBytes e ((List.range n).map f)), poison := mark })) (k * e) e = f k) ∧
    ∀ k, n * e ≤ k → arrByte (tileBytes { data := tileOf (packBytes e ((List.range n).map f)), poison := mark }) k = 0 := by
  have hlen : (packBytes e ((List.range n).map f)).length = n * e := by rw [length_packBytes, List.length_map, List.length_range, Nat.mul_comm]
  rw [arrByte_tileOf _ _ (by omega)]
  refine ⟨fun k hk => ?_, fun k hk => listByte_past _ _ (by omega)⟩
  rw [lend_packBytes e _ k (by simpa using hk), List.getElem_map, List.getElem_range]
  exact Nat.mod_eq_of_lt (hlt k hk)

/-! ### DEQ -/

theorem sound_formatOf (t : ElemTy) : (formatOf t).Sound := by
  refine .of_mem ?_
  cases t <;> decide

theorem deqOn_eq (a : Array Byte) (t : ElemTy) (d : Desc) : (deqOn a t d).1 =
    packBytes t.bytes ((List.range (d.rows * d.cols)).map fun k => ((engCfg (formatOf t)).put (deqVal a d k).1).bits) := by
  unfold deqOn
  dsimp only
  rw [List.map_map]
  refine congrArg _ (List.map_congr_left fun k _ => ?_)
  rw [Function.comp_apply, formatOf_eq]
  split <;> rfl

/-- What DEQ rounds: a scaled difference, an integer, or a floating-point value. -/
theorem deqVal_eq (a : Array Byte) (d : Desc) (k : Nat) :
    let sc := f16.val false (lend (arrByte a) (d.soff + (k / d.cols / groupSize d.grp * d.cols + k % d.cols) * 2) 2)
    let q : Int := (elt (arrByte a) d.elem k : Int) -
      (arrByte a (d.zoff + k / d.cols / groupSize d.grp * d.cols + k % d.cols) % if d.elem = .q4 then 16 else 256 : Nat)
    (deqVal a d k).1 = if d.elem.isGrouped then (mulVal sc (ofInt q)).getD (.nan true)
      else if d.elem.isInt then ofInt (sourceInt d.elem (elt (arrByte a) d.elem k)) else flt (arrByte a) d.elem k := by
  have hmatch (o : Option FVal) : (match o with | some v => v | none => .nan true) = o.getD (.nan true) := by cases o <;> rfl
  unfold deqVal
  dsimp only
  cases hg : d.elem.isGrouped with
  | true =>
    rw [if_pos rfl, if_pos rfl, scaleAt, zeroAt, arrNat_eq, elemAt_eq]
    exact hmatch _
  | false =>
    rw [if_neg Bool.false_ne_true, if_neg Bool.false_ne_true]
    cases hi : d.elem.isInt with
    | true => rw [if_pos rfl, if_pos rfl, elemAt_eq, elemInt_eq _ hi]
    | false => rw [if_neg Bool.false_ne_true, if_neg Bool.false_ne_true, fltAt_eq]

theorem rat_ofInt (q : Int) : rat (ofInt q) = q := by
  rw [ofInt, rat, num_natAbs, zpow_zero, mul_one]

/-- DEQ is what R161 says of it. -/
theorem deqOn_dequantised (a : Array Byte) (t : ElemTy) (d : Desc) (mark : Bool) (ht : t = .f32 ∨ t = .bf16 ∨ t = .f16)
    (hsize : d.rows * d.cols * t.bytes ≤ 16384) :
    Dequantised t d (arrByte a) (arrByte (tileBytes { data := tileOf (deqOn a t d).1, poison := mark })) := by
  have hbytes : 256 ^ t.bytes = 2 ^ ((formatOf t).eb + (formatOf t).fb + 1) := by rcases ht with rfl | rfl | rfl <;> decide
  have hieee : (formatOf t).ieee = true := by rcases ht with rfl | rfl | rfl <;> rfl
  obtain ⟨hread, hrest⟩ := tileOf_packBytes t.bytes (d.rows * d.cols) (fun k => ((engCfg (formatOf t)).put (deqVal a d k).1).bits) mark hsize
    fun k _ => by
      rw [hbytes]
      exact (engCfg (formatOf t)).put_lt (sound_formatOf t) _
  rw [deqOn_eq]
  refine ⟨fun k hk => ?_, hrest⟩
  have hval := deqVal_eq a d k
  have hres := hread k hk
  have hnan (s : Bool) : ((engCfg (formatOf t)).put (.nan s)).bits =
      (2 ^ (formatOf t).eb - 1) * 2 ^ (formatOf t).fb + 2 ^ ((formatOf t).fb - 1) := by
    change (formatOf t).nan = _
    rw [Fmt.nan, if_pos hieee]
  dsimp only at hval ⊢
  rw [hres, hval]
  cases hg : d.elem.isGrouped with
  | true =>
    rw [if_pos rfl, if_pos rfl]
    generalize f16.val false (lend (arrByte a) (d.soff + (k / d.cols / groupSize d.grp * d.cols + k % d.cols) * 2) 2) = sc
    generalize (elt (arrByte a) d.elem k : Int) -
      (arrByte a (d.zoff + k / d.cols / groupSize d.grp * d.cols + k % d.cols) % if d.elem = .q4 then 16 else 256 : Nat) = q
    refine ⟨fun h => ?_, fun h1 h2 => ?_⟩
    · rcases h with h | ⟨h, rfl⟩
      · cases sc with
        | nan s => exact hnan s
        | inf n => cases h
        | fin n m e => cases h
      · cases sc with
        | nan s => cases h
        | inf n => exact hnan true
        | fin n m e => cases h
    · obtain ⟨n, m, e, rfl⟩ := FVal.finite_fin sc h1 h2
      exact ⟨_, _, _, (num_mul n m e _ _ _).trans (congrArg (_ * ·) (rat_ofInt q)), rfl⟩
  | false =>
    rw [if_neg Bool.false_ne_true, if_neg Bool.false_ne_true]
    cases hi : d.elem.isInt with
    | true =>
      rw [if_pos rfl, if_pos rfl]
      exact ⟨_, _, _, rat_ofInt _, rfl⟩
    | false =>
      rw [if_neg Bool.false_ne_true, if_neg Bool.false_ne_true]
      generalize flt (arrByte a) d.elem k = v
      refine ⟨fun h => ?_, fun n h => ?_, fun h1 h2 => ?_⟩
      · cases v with
        | nan s => exact hnan s
        | inf n => cases h
        | fin n m e => cases h
      · subst h
        unfold FCfg.put engCfg
        dsimp only
        rw [if_pos hieee]
        rfl
      · obtain ⟨n, m, e, rfl⟩ := FVal.finite_fin v h1 h2
        exact ⟨n, m, e, rfl, rfl⟩

/-! ### Patterns that FP32 keeps -/

/-- The patterns that stand for a number or an infinity, and the canonical NaN. -/
def Canonical32 (y : Nat) : Prop := (∃ n K, K ≤ f32.limit ∧ y = f32.sign n + K) ∨ y = f32.nan

theorem canonical32_of_not_nan (y : Nat) (hy : y < 2 ^ 32) (h : nan32 y = false) : Canonical32 y := by
  refine .inl ⟨decide (2 ^ 31 ≤ y), y % 2 ^ 31, ?_, ?_⟩
  · rw [limit_f32]
    simpa [nan32] using h
  · change y = (if decide (2 ^ 31 ≤ y) = true then 2 ^ 31 else 0) + y % 2 ^ 31
    simp only [decide_eq_true_eq]
    split <;> omega

/-- Such a pattern is written as it is read. -/
theorem Canonical32.put {y : Nat} (h : Canonical32 y) : y < 2 ^ 32 ∧ ((engCfg f32).put (f32.val false y)).bits = y := by
  rcases h with ⟨n, K, hK, rfl⟩ | rfl
  · have hlim := limit_f32
    have hlt : f32.sign n + K < 2 ^ 32 := by cases n <;> simp only [Fmt.sign, f32] <;> norm_num at * <;> omega
    refine ⟨hlt, ?_⟩
    rcases hK.lt_or_eq with hfin | rfl
    · rw [f32.val_finite sound_f32 n K hfin]
      exact congrArg FR.bits (f32.round_exact sound_f32 .rne n _ _ K rfl hfin)
    · cases n <;> decide
  · exact ⟨by decide, by decide⟩

/-- What a rounding writes has no more than a significand at its last place. -/
theorem Fmt.places_shallow (f : Fmt) (rm : RM) (neg : Bool) (m : Nat) (e : Int) (sticky : Bool) (hm : 0 < m) (h : f.last m e ≤ e) :
    (f.places rm neg m e sticky).1 ≤ 2 ^ (f.fb + 1) ∧ (f.last m e = f.low ∨ 2 ^ f.fb ≤ (f.places rm neg m e sticky).1) := by
  have hbits : 0 < bitLen m := by rw [bitLen_pos hm]; omega
  have hlast : e + bitLen m - 1 - f.fb ≤ f.last m e := le_max_left _ _
  rw [Fmt.places, if_pos h]
  constructor
  · calc m * 2 ^ (e - f.last m e).toNat ≤ 2 ^ bitLen m * 2 ^ (e - f.last m e).toNat := Nat.mul_le_mul_right _ (lt_two_pow_bitLen m).le
      _ = 2 ^ (bitLen m + (e - f.last m e).toNat) := (Nat.pow_add ..).symm
      _ ≤ 2 ^ (f.fb + 1) := Nat.pow_le_pow_right (by decide) (by omega)
  · rcases max_choice (e + bitLen m - 1 - f.fb) f.low with hmax | hmax
    · right
      have hmax : f.last m e = e + bitLen m - 1 - f.fb := hmax
      calc 2 ^ f.fb = 2 ^ (bitLen m - 1 + (e - f.last m e).toNat) := by congr 1; omega
        _ = 2 ^ (bitLen m - 1) * 2 ^ (e - f.last m e).toNat := Nat.pow_add ..
        _ ≤ m * 2 ^ (e - f.last m e).toNat := Nat.mul_le_mul_right _ (two_pow_le_of_bitLen hm)
    · exact .inl hmax

/-- The bits of any rounding to nearest are those of a pattern that is written. -/
theorem Fmt.round_rne_bits (f : Fmt) (hf : f.Sound) (neg : Bool) (m : Nat) (e : Int) (sticky : Bool) :
    ∃ P c, (f.round .rne false neg m e sticky).bits = (f.write .rne false neg P c).bits := by
  rcases Nat.eq_zero_or_pos m with rfl | hm
  · refine ⟨0, 0, ?_⟩
    have hzero : (f.write .rne false neg 0 0).bits = f.sign neg := by
      rw [Fmt.write, if_neg (by simp), if_neg (Nat.not_le.mpr (Nat.zero_lt_of_lt hf.subnormal_lt_limit))]
      rfl
    have hmag (s : Nat) : (roundMag .rne neg 0 s sticky).1 = 0 := by
      simpa [roundMag] using fun h => absurd h (Nat.two_pow_pos _).ne
    have hpow := Nat.two_pow_pos f.fb
    rw [hzero, Fmt.round]
    split
    · rfl
    · dsimp only
      have hat (q : Int) : (if q ≤ e then (0 * 2 ^ (e - q).toNat, sticky) else roundMag .rne neg 0 (q - e).toNat sticky).1 = 0 := by
        split
        · exact Nat.zero_mul _
        · exact hmag _
      rw [hat, if_pos hpow, if_neg (by simp)]
      rfl
  · by_cases hdeep : e < f.last m e
    · cases sticky with
      | false =>
        obtain ⟨-, P, c, -, -, -, h⟩ := (Fmt.Brackets.of_exact f m e hm).round hf .rne neg
        exact ⟨P, c, by rw [h]⟩
      | true =>
        have hu := two_zpow_pos e
        have hb : f.Brackets m e true ((m + 1 / 2) * 2 ^ e) := by
          refine ⟨hm, mul_le_mul_of_nonneg_right (by linarith) hu.le, mul_lt_mul_of_pos_right (by linarith) hu, ?_, fun _ => hdeep⟩
          rw [ne_eq, mul_left_inj' hu.ne']
          simp
        obtain ⟨-, P, c, -, -, -, h⟩ := hb.round hf .rne neg
        exact ⟨P, c, by rw [h]⟩
    · obtain ⟨hmax, hmin⟩ := f.places_shallow .rne neg m e sticky hm (not_lt.mp hdeep)
      exact ⟨_, _, congrArg FR.bits (f.round_eq_write hf .rne false neg m e sticky hm hmax hmin)⟩

theorem canonical32_round (neg : Bool) (m : Nat) (e : Int) (sticky : Bool) : Canonical32 (f32.round .rne false neg m e sticky).bits := by
  obtain ⟨P, c, h⟩ := f32.round_rne_bits sound_f32 neg m e sticky
  obtain ⟨K, hK, hcase⟩ := f32.write_bits sound_f32 .rne false neg P c
  refine .inl ⟨neg, K, ?_, h.trans hK⟩
  rcases hcase with h | ⟨-, h, -⟩
  · exact h.le
  · exact h.le

/-! ### TACT -/

theorem canonical32_sign (n : Bool) (K : Nat) (hK : K ≤ 0x7F800000) : Canonical32 (f32.sign n + K) := .inl ⟨n, K, by rwa [limit_f32], rfl⟩

/-- FSIGM and FTANH write patterns that FP32 keeps. -/
theorem canonical32_sfu (v : FVal) : Canonical32 (sfuVal .sigm false v).bits ∧ Canonical32 (sfuVal .tanh false v).bits := by
  cases v with
  | nan s => exact ⟨.inr rfl, .inr rfl⟩
  | inf n =>
    refine ⟨?_, canonical32_sign n 0x3F800000 (by decide)⟩
    cases n
    · exact canonical32_sign false 0x3F800000 (by decide)
    · exact canonical32_sign false 0 (by decide)
  | fin n m e =>
    cases m with
    | zero => exact ⟨canonical32_sign false 0x3F000000 (by decide), canonical32_sign n 0 (by decide)⟩
    | succ m => exact ⟨canonical32_round _ _ _ _, canonical32_round _ _ _ _⟩

theorem canonical32_gelu (n : Bool) (m : Nat) (e : Int) : Canonical32 (geluFin n m e).bits := by
  unfold geluFin
  split
  · split <;> exact canonical32_round _ _ _ _
  · exact canonical32_round _ _ _ _

/-- A pattern that is no NaN is an infinity or a number, with its sign. -/
theorem val_f32_cases (x : Nat) (hx : x < 2 ^ 32) (h : nan32 x = false) : ∃ n P, x = f32.sign n + P ∧ (n = true ↔ 2 ^ 31 ≤ x) ∧
    (P = 0x7F800000 ∧ f32.val false x = .inf n ∨ P < f32.limit ∧ f32.val false x = .fin n (f32.mant P) (f32.low + f32.rise P)) := by
  rcases canonical32_of_not_nan x hx h with ⟨n, P, hP, rfl⟩ | rfl
  · have hlim := limit_f32
    refine ⟨n, P, rfl, ?_, ?_⟩
    · rw [Fmt.sign]
      cases n
      · norm_num [f32]
        omega
      · norm_num [f32]
    rcases hP.lt_or_eq with hfin | heq
    · exact .inr ⟨hfin, f32.val_finite sound_f32 n P hfin⟩
    · refine .inl ⟨by omega, ?_⟩
      rw [heq, hlim]
      cases n <;> decide
  · exact absurd h (by decide)

/-- An activation is what R162 says of it. -/
theorem actVal_activates (act : Act) (x : Nat) (hx : x < 2 ^ 32) : Activates act x (actVal act x).bits ∧ Canonical32 (actVal act x).bits := by
  cases hnan : nan32 x with
  | true =>
    have hbits : (actVal act x).bits = f32.nan := by
      obtain ⟨s, hs⟩ : ∃ s, f32.val false x = .nan s := by
        have := isNan_val_f32 false x hx
        rw [hnan] at this
        cases hv : f32.val false x with
        | nan s => exact ⟨s, rfl⟩
        | inf n => rw [hv] at this; cases this
        | fin n m e => rw [hv] at this; cases this
      unfold actVal
      dsimp only
      rw [hs]
      cases act <;> rfl
    rw [hbits]
    exact ⟨⟨fun _ => rfl, fun h => by rw [hnan] at h; cases h⟩, .inr rfl⟩
  | false =>
    have hcanon := canonical32_of_not_nan x hx hnan
    have hzero : Canonical32 0 := canonical32_sign false 0 (by decide)
    obtain ⟨n, P, hxP, hsign, hval⟩ := val_f32_cases x hx hnan
    have hnot : ¬nan32 x = true := by rw [hnan]; exact Bool.false_ne_true
    have hval0 : (f32.val false x).isNan = false := (isNan_val_f32 false x hx).trans hnan
    cases act with
    | copy =>
      have hbits : (actVal .copy x).bits = x := by
        unfold actVal
        dsimp only
        rw [hval0]
        rfl
      rw [hbits]
      exact ⟨⟨fun h => absurd h hnot, fun _ => rfl⟩, hcanon⟩
    | relu =>
      have hbits : (actVal .relu x).bits = if x < 2 ^ 31 then x else 0 := by
        unfold actVal
        dsimp only
        rw [hval0]
        change (if (FVal.fin false 0 0).lt (f32.val false x) then x else 0) = _
        have hside : (if x < 2 ^ 31 then x else 0) = if n = true then 0 else x := by
          by_cases h : n = true
          · rw [if_pos h, if_neg (Nat.not_lt.mpr (hsign.mp h))]
          · rw [if_neg h, if_pos (Nat.not_le.mp (mt hsign.mpr h))]
        rw [hside]
        rcases hval with ⟨-, hv⟩ | ⟨-, hv⟩
        · rw [hv]
          cases n <;> rfl
        · have hlt : (FVal.fin false 0 0).lt (f32.val false x) = true ↔ 0 < signum n * f32.mag P := by
            rw [hv, FVal.lt_fin, f32.num_pattern, (num_eq_zero _ _ _).mpr rfl]
          cases n with
          | false =>
            rw [if_neg Bool.false_ne_true]
            rcases Nat.eq_zero_or_pos P with rfl | hpos
            · rw [show x = 0 from hxP]
              exact ite_self _
            · rw [if_pos (hlt.mpr (by rw [← f32.mag_zero]; simpa [signum] using f32.mag_strictMono hpos))]
          | true =>
            have hmag := f32.mag_nonneg P
            rw [if_pos rfl, if_neg (mt hlt.mp (by simpa [signum] using hmag))]
      rw [hbits]
      exact ⟨⟨fun h => absurd h hnot, fun _ => rfl⟩, by split; exacts [hcanon, hzero]⟩
    | gelu =>
      rcases hval with ⟨rfl, hv⟩ | ⟨hP, hv⟩
      · have hbits : (actVal .gelu x).bits = if n then 0x80000000 else 0x7F800000 := by
          unfold actVal
          dsimp only
          rw [hv]
          cases n <;> rfl
        rw [hbits]
        cases n
        · exact ⟨⟨fun h => absurd h hnot, fun _ => ⟨fun h => h.symm, fun h => absurd (hxP.symm.trans h) (by decide)⟩⟩,
            canonical32_sign false 0x7F800000 le_rfl⟩
        · exact ⟨⟨fun h => absurd h hnot, fun _ => ⟨fun h => absurd (hxP.symm.trans h) (by decide), fun _ => rfl⟩⟩, canonical32_sign true 0 (by decide)⟩
      · rw [limit_f32] at hP
        have hno (y : Nat) (hy : y % 2 ^ 31 = 0x7F800000) : x ≠ y := by
          rintro rfl
          rw [hxP] at hy
          cases n <;> simp only [Fmt.sign, f32] at hy <;> norm_num at hy <;> omega
        refine ⟨⟨fun h => absurd h hnot, fun _ => ⟨fun h => absurd h (hno _ (by decide)), fun h => absurd h (hno _ (by decide))⟩⟩, ?_⟩
        unfold actVal
        dsimp only
        rw [hv]
        cases hm : f32.mant P with
        | zero => exact hcanon
        | succ m => exact canonical32_gelu _ _ _
    | sigm => exact ⟨⟨fun h => absurd h hnot, fun _ => rfl⟩, (canonical32_sfu _).1⟩
    | tanh => exact ⟨⟨fun h => absurd h hnot, fun _ => rfl⟩, (canonical32_sfu _).2⟩

/-- The conversion of an FP32 pattern to a floating-point type. -/
theorem convert_bits_f32 (t : ElemTy) (ht : t.isFloat = true) (y : Nat) (hy : y < 2 ^ 32) :
    (convert t .f32 .rne false y).1.toNat = ((engCfg (formatOf t)).put (f32.val false y)).bits := by
  obtain ⟨fd, hfd⟩ : ∃ fd, fmtOf t = some fd := by
    cases t with
    | f32 | f16 | bf16 | e4m3 | e5m2 => exact ⟨_, rfl⟩
    | _ => cases ht
  have hformat : formatOf t = fd := by rw [← formatOf_eq, hfd]; rfl
  have hlt := (engCfg (formatOf t)).put_lt (sound_formatOf t) (f32.val false y)
  have hwide : 2 ^ ((formatOf t).eb + (formatOf t).fb + 1) ≤ 2 ^ 64 := Nat.pow_le_pow_right (by decide) (by cases t <;> decide)
  rw [hformat] at hlt hwide ⊢
  unfold convert
  rw [show fmtOf .f32 = some f32 from rfl, hfd]
  dsimp only
  rw [BitVec.toNat_ofNat, show elemWidth .f32 = 32 from rfl, Nat.mod_eq_of_lt hy, Bool.false_and, Bool.false_and]
  exact Nat.mod_eq_of_lt (hlt.trans_le hwide)

/-- The value that TACT activates. -/
def tactArg (a : Nat → Nat) (bias : Option (Nat → Nat)) (k : Nat) : Nat :=
  match bias with
  | some m => addRne (lend a (4 * k) 4) (lend m (k % 64 * 4) 4)
  | none => lend a (4 * k) 4

theorem tactArg_lt (a : Nat → Nat) (ha : ∀ k, a k < 256) (bias : Option (Nat → Nat)) (k : Nat) : tactArg a bias k < 2 ^ 32 := by
  cases bias with
  | none => exact (lend_lt a ha _ _).trans_eq (by decide)
  | some m => exact addRne_lt _ _

/-- The value that TACT activates, as the engine reads it. -/
theorem tactArg_bits (a : Array Byte) (bias : Option (Array Byte)) (k : Nat) :
    (match bias with
      | some m => (engCfg f32).add (f32.val false (arrNat a (k * 4) 4)) (f32.val false (arrNat m (k % 64 * 4) 4))
      | none => { bits := arrNat a (k * 4) 4, cls := 0 } : FR).bits = tactArg (arrByte a) (bias.map arrByte) k := by
  cases bias with
  | none =>
    dsimp only [tactArg, Option.map_none]
    rw [arrNat_eq, Nat.mul_comm]
  | some m =>
    dsimp only [tactArg, Option.map_some]
    rw [arrNat_eq, arrNat_eq, Nat.mul_comm k, addRne, engCfg]

theorem tactOn_eq (a : Array Byte) (bias : Option (Array Byte)) (act : Act) (out : ElemTy) : (tactOn a bias act out).1 =
    packBytes out.bytes ((List.range 4096).map fun k =>
      ((engCfg (formatOf out)).put (f32.val false (actVal act (tactArg (arrByte a) (bias.map arrByte) k)).bits)).bits) := by
  simp only [← tactArg_bits, ← formatOf_eq]
  unfold tactOn
  dsimp only
  rw [List.map_map]
  rfl

/-- TACT is what R162 says of it. -/
theorem tactOn_epilogue (a : Array Byte) (bias : Option (Array Byte)) (act : Act) (out : ElemTy) (mark : Bool)
    (hout : out = .f32 ∨ out = .bf16 ∨ out = .f16 ∨ out = .e4m3 ∨ out = .e5m2) :
    Epilogue act out (bias.map arrByte) (arrByte a) (arrByte (tileBytes { data := tileOf (tactOn a bias act out).1, poison := mark })) := by
  have hbytes : 256 ^ out.bytes = 2 ^ ((formatOf out).eb + (formatOf out).fb + 1) ∧ 4096 * out.bytes ≤ 16384 ∧ out.isFloat = true := by
    rcases hout with rfl | rfl | rfl | rfl | rfl <;> decide
  obtain ⟨hpow, hfit, hfloat⟩ := hbytes
  obtain ⟨hread, hrest⟩ := tileOf_packBytes out.bytes 4096 (fun k =>
      ((engCfg (formatOf out)).put (f32.val false (actVal act (tactArg (arrByte a) (bias.map arrByte) k)).bits)).bits) mark hfit fun k _ => by
    rw [hpow]
    exact (engCfg (formatOf out)).put_lt (sound_formatOf out) _
  rw [tactOn_eq]
  refine ⟨fun k hk => ?_, hrest⟩
  obtain ⟨hact, hcanon⟩ := actVal_activates act (tactArg (arrByte a) (bias.map arrByte) k) (tactArg_lt _ (arrByte_lt a) _ k)
  obtain ⟨hlt, hput⟩ := hcanon.put
  refine ⟨_, hact, (hread k hk).trans ?_⟩
  split
  next h =>
    subst h
    exact hput
  next => exact (convert_bits_f32 out hfloat _ hlt).symm

/-! ### TRED -/

theorem foldl_least (g : Bool) (x : Nat → Nat) (hx : ∀ i, x i < 2 ^ 32) (n : Nat) :
    ((List.range n).foldl (fun (q : FR) i =>
      let r := minMax f32 false g q.bits (x (i + 1))
      { bits := r.bits, cls := q.cls ||| r.cls }) { bits := x 0, cls := 0 }).bits = (List.range n).foldl (fun q i => least32 false g q (x (i + 1))) (x 0) ∧
    (List.range n).foldl (fun q i => least32 false g q (x (i + 1))) (x 0) < 2 ^ 32 := by
  induction n with
  | zero => exact ⟨rfl, hx 0⟩
  | succ n ih =>
    obtain ⟨heq, hlt⟩ := ih
    rw [List.range_succ, List.foldl_append, List.foldl_append]
    simp only [List.foldl_cons, List.foldl_nil]
    rw [heq, minMax_f32 false g _ _ hlt (hx _)]
    exact ⟨rfl, least32_lt false g _ _ hlt (hx _)⟩

theorem range_split (x : Nat → Nat) (m n : Nat) (h : m = n + 1) : ((List.range m).map x).tail = ((List.range n).map fun i => x (i + 1)) ∧
    ((List.range m).map x).headD 0 = x 0 := by
  rw [h, List.range_succ_eq_map, List.map_cons, List.tail_cons, List.map_map]
  exact ⟨rfl, rfl⟩

/-- The lines of TRED that take the greatest or the least, over any number of elements. -/
theorem tredLine_least (x : Nat → Nat) (hx : ∀ i, x i < 2 ^ 32) (m n : Nat) (h : m = n + 1) :
    ((tredLine .max ((List.range m).map x)).bits = (List.range n).foldl (fun q i => least32 false true q (x (i + 1))) (x 0) ∧
      (List.range n).foldl (fun q i => least32 false true q (x (i + 1))) (x 0) < 2 ^ 32) ∧
    (tredLine .min ((List.range m).map x)).bits = (List.range n).foldl (fun q i => least32 false false q (x (i + 1))) (x 0) ∧
      (List.range n).foldl (fun q i => least32 false false q (x (i + 1))) (x 0) < 2 ^ 32 := by
  obtain ⟨htail, hhead⟩ := range_split x m n h
  unfold tredLine
  dsimp only
  rw [htail, hhead, List.foldl_map, List.foldl_map]
  exact ⟨foldl_least true x hx n, foldl_least false x hx n⟩

theorem tredLine_sum (x : Nat → Nat) (m : Nat) : (tredLine .sum ((List.range m).map x)).bits = (List.range m).foldl (fun q i => addRne q (x i)) 0 ∧
    (List.range m).foldl (fun q i => addRne q (x i)) 0 < 2 ^ 32 := by
  unfold tredLine
  dsimp only
  rw [List.foldl_map]
  refine ⟨(List.foldl_hom FR.bits fun q i => rfl).symm, ?_⟩
  exact List.foldlRecOn (motive := fun q => q < 2 ^ 32) _ _ (by decide) fun q _ i _ => addRne_lt _ _

theorem tredLine_amax (x : Nat → Nat) (hx : ∀ i, x i < 2 ^ 32) (m : Nat) : (tredLine .amax ((List.range m).map x)).bits =
      (if (List.range m).any (fun i => nan32 (x i)) then 0x7FC00000 else (List.range m).foldl (fun m i => Max.max m (x i % 2 ^ 31)) 0) ∧
    (if (List.range m).any (fun i => nan32 (x i)) then 0x7FC00000 else (List.range m).foldl (fun m i => Max.max m (x i % 2 ^ 31)) 0) < 2 ^ 32 := by
  have hany : (((List.range m).map x).map fun x => f32.val false x).any FVal.isNan = (List.range m).any fun i => nan32 (x i) := by
    rw [List.any_map, List.any_map]
    exact any_eq_any_of_mem _ _ _ fun i _ => isNan_val_f32 false _ (hx i)
  have hlt : (List.range m).foldl (fun m i => Max.max m (x i % 2 ^ 31)) 0 < 2 ^ 31 :=
    List.foldlRecOn (motive := fun q => q < 2 ^ 31) _ _ (by decide) fun q hq i _ => max_lt hq (Nat.mod_lt _ (by decide))
  unfold tredLine
  dsimp only
  rw [hany, List.foldl_map]
  refine ⟨rfl, ?_⟩
  split
  · decide
  · exact hlt.trans (by decide)

/-- A line of TRED is what R163 says of it. -/
theorem tredLine_eq (op : TredOp) (x : Nat → Nat) (hx : ∀ i, x i < 2 ^ 32) :
    (tredLine op ((List.range 64).map x)).bits = lineOf op x ∧ lineOf op x < 2 ^ 32 := by
  cases op with
  | sum => exact tredLine_sum x 64
  | max => exact (tredLine_least x hx 64 63 rfl).1
  | min => exact (tredLine_least x hx 64 63 rfl).2
  | amax => exact tredLine_amax x hx 64

/-- TRED is what R163 says of it. -/
theorem tredOn_lines (a : Array Byte) (op : TredOp) (col : Bool) (mark : Bool) :
    (∀ l < 64, lend (arrByte (tileBytes { data := tileOf (tredOn a op col).1, poison := mark })) (4 * l) 4 =
      lineOf op fun x => lend (arrByte a) ((if col then x * 64 + l else l * 64 + x) * 4) 4) ∧
    ∀ k, 256 ≤ k → arrByte (tileBytes { data := tileOf (tredOn a op col).1, poison := mark }) k = 0 := by
  have hline (l : Nat) := tredLine_eq op (fun x => lend (arrByte a) ((if col then x * 64 + l else l * 64 + x) * 4) 4) fun i =>
    (lend_lt _ (arrByte_lt a) _ _).trans_eq (by decide)
  have heq : (tredOn a op col).1 = packBytes 4 ((List.range 64).map fun l =>
      lineOf op fun x => lend (arrByte a) ((if col then x * 64 + l else l * 64 + x) * 4) 4) := by
    unfold tredOn
    dsimp only
    rw [List.map_map]
    refine congrArg _ (List.map_congr_left fun l _ => ?_)
    rw [← (hline l).1]
    simp only [arrNat_eq]
    rfl
  obtain ⟨hread, hrest⟩ := tileOf_packBytes 4 64 (fun l => lineOf op fun x => lend (arrByte a) ((if col then x * 64 + l else l * 64 + x) * 4) 4) mark
    (by decide) fun l _ => (hline l).2
  rw [heq]
  exact ⟨fun l hl => by rw [Nat.mul_comm]; exact hread l hl, hrest⟩

end Sys2Proof.Machine
end

section
/-! SUPPORT. The moves of TLD and TST between tiles and the frame (R26, R155, R164, R166). -/

open Sys2Proof.Claims

namespace Sys2Proof.Machine

/-! ### Bytes of words -/

/-- A byte of a little-endian number. -/
theorem lend_byte (f : Nat → Nat) (hf : ∀ k, f k < 256) (off n j : Nat) (hj : j < n) : lend f off n / 256 ^ j % 256 = f (off + j) := by
  induction n with
  | zero => omega
  | succ n ih =>
    rw [lend_succ]
    rcases Nat.lt_succ_iff_lt_or_eq.mp hj with hlt | rfl
    · obtain ⟨d, rfl⟩ : ∃ d, n = j + (d + 1) := ⟨n - j - 1, by omega⟩
      rw [show f (off + (j + (d + 1))) * 256 ^ (j + (d + 1)) = 256 ^ j * (256 * (f (off + (j + (d + 1))) * 256 ^ d)) by ring,
        Nat.add_mul_div_left _ _ (by positivity), Nat.add_mul_mod_self_left]
      exact ih hlt
    · rw [Nat.add_mul_div_right _ _ (by positivity), Nat.div_eq_of_lt (lend_lt f hf off j), Nat.zero_add, Nat.mod_eq_of_lt (hf _)]

/-- A byte of words in order. -/
theorem listByte_words (xs : List Nat) (hlt : ∀ x ∈ xs, x < 2 ^ 32) (k : Nat) (hk : k < 4 * xs.length) :
    listByte (packBytes 4 xs) k = xs.getD (k / 4) 0 / 2 ^ (8 * (k % 4)) % 256 := by
  have hi : k / 4 < xs.length := by omega
  have hword := lend_packBytes 4 xs (k / 4) hi
  have hmod : xs[k / 4] % 256 ^ 4 = xs[k / 4] := Nat.mod_eq_of_lt ((hlt _ (List.getElem_mem hi)).trans_eq (by decide))
  have hbyte := lend_byte _ (listByte_lt (packBytes 4 xs)) (k / 4 * 4) 4 (k % 4) (Nat.mod_lt _ (by decide))
  rw [hword, hmod, Nat.div_add_mod'] at hbyte
  rw [← hbyte, List.getD_eq_getElem _ _ hi, Nat.pow_mul]

theorem arrByte_toArray (bs : List Byte) : arrByte bs.toArray = listByte bs := by
  funext k
  simp [arrByte, listByte]

theorem listByte_toList (a : Array Byte) : listByte a.toList = arrByte a := by
  funext k
  simp [arrByte, listByte]

/-! ### Transposes -/

theorem transposed_eq (a : Array Byte) (rows cols e : Nat) (hr : 0 < rows) (he : 0 < e) : transposed a rows cols e =
    (List.range (cols * (rows * e))).map fun q => a.getD ((q % (rows * e) / e * cols + q / (rows * e)) * e + q % (rows * e) % e) 0 := by
  have hinner (j : Nat) := flatMap_range_map rows e he fun i b => a.getD ((i * cols + j) * e + b) 0
  unfold transposed
  simp only [hinner]
  exact flatMap_range_map cols (rows * e) (Nat.mul_pos hr he) fun j k => a.getD ((k / e * cols + j) * e + k % e) 0

/-- The transpose of a matrix holds each element at its place. -/
theorem transposed_spec (a : Array Byte) (rows cols e : Nat) : (transposed a rows cols e).length = cols * (rows * e) ∧
    ∀ i < rows, ∀ j < cols, ∀ b < e, listByte (transposed a rows cols e) ((j * rows + i) * e + b) = arrByte a ((i * cols + j) * e + b) := by
  constructor
  · simp [transposed, List.length_flatMap]
  · intro i hi j hj b hb
    have hr : 0 < rows := Nat.zero_lt_of_lt hi
    have he : 0 < e := Nat.zero_lt_of_lt hb
    have hin : i * e + b < rows * e := by
      have := Nat.mul_le_mul_right e hi
      rw [Nat.succ_mul] at this
      omega
    have hplace : (j * rows + i) * e + b = j * (rows * e) + (i * e + b) := by ring
    have hlt : j * (rows * e) + (i * e + b) < cols * (rows * e) := by
      have := Nat.mul_le_mul_right (rows * e) hj
      rw [Nat.succ_mul] at this
      omega
    have hdiv : (j * (rows * e) + (i * e + b)) / (rows * e) = j := by
      rw [Nat.mul_comm j, Nat.mul_add_div (Nat.mul_pos hr he), Nat.div_eq_of_lt hin, Nat.add_zero]
    have hmod : (j * (rows * e) + (i * e + b)) % (rows * e) = i * e + b := by rw [Nat.mul_comm j, Nat.mul_add_mod, Nat.mod_eq_of_lt hin]
    have hdiv' : (i * e + b) / e = i := by rw [Nat.mul_comm i, Nat.mul_add_div he, Nat.div_eq_of_lt hb, Nat.add_zero]
    have hmod' : (i * e + b) % e = b := by rw [Nat.mul_comm i, Nat.mul_add_mod, Nat.mod_eq_of_lt hb]
    rw [transposed_eq a rows cols e hr he, hplace, listByte, List.getD_eq_getElem _ _ (by simpa using hlt), List.getElem_map, List.getElem_range, hdiv, hmod,
      hdiv', hmod']
    rfl

/-! ### TLD -/

/-- The bytes of the frame that a view range reads, as a function of the address. -/
def frameByte (p : Pack) (a : Nat) : Nat := viewAt p p.m.frame a / 2 ^ (8 * (a % 4)) % 256

theorem viewRange_byte (p : Pack) (base len : Nat) (hb : base % 4 = 0) (hl : len % 4 = 0) :
    (viewRange p.id.n p.m.frame base len).size = len ∧
    ∀ k < len, arrByte (viewRange p.id.n p.m.frame base len) k = frameByte p (base + k) := by
  have heq : viewRange p.id.n p.m.frame base len =
      (packBytes 4 ((List.range (len / 4)).map fun i => (viewWord p.id.n p.m.frame (base / 4 + i)).toNat)).toArray := by
    rw [viewRange, packBytes, List.flatMap_map]
  rw [heq]
  refine ⟨by simp [length_packBytes]; omega, fun k hk => ?_⟩
  have hword : (viewWord p.id.n p.m.frame (base / 4 + k / 4)).toNat = viewAt p p.m.frame (base + k) := by
    rw [viewWord, viewAt, show (base + k) / 4 = base / 4 + k / 4 by omega]
    split <;> rfl
  rw [arrByte_toArray, listByte_words _ (fun x hx => by obtain ⟨i, -, rfl⟩ := List.mem_map.mp hx; exact BitVec.isLt _) k (by simp; omega),
    List.getD_eq_getElem _ _ (by simp; omega), List.getElem_map, List.getElem_range, hword, frameByte, show (base + k) % 4 = k % 4 by omega]

/-- TLD is what R155 and R164 say of it. -/
theorem tldOn_spec (p : Pack) (tr : Bool) (d : Desc) (hb : d.base % 4 = 0) (hl : d.ext % 4 = 0) (hfit : d.ext ≤ 16384) :
    (tr = false → ∀ k, arrByte (tileBytes (tldOn p tr d)) k = if k < d.ext then frameByte p (d.base + k) else 0) ∧
    (tr = true → d.ext = d.rows * d.cols * d.elem.bytes → (∀ i < d.rows, ∀ j < d.cols, ∀ b < d.elem.bytes,
      arrByte (tileBytes (tldOn p tr d)) ((j * d.rows + i) * d.elem.bytes + b) = frameByte p (d.base + (i * d.cols + j) * d.elem.bytes + b)) ∧
      ∀ k, d.ext ≤ k → arrByte (tileBytes (tldOn p tr d)) k = 0) ∧
    ((tldOn p tr d).poison = true ↔ ∃ key ∈ p.m.frameBad, d.base ≤ key * 4 ∧ key * 4 < d.base + d.ext ∧ key % 32 < p.id.n) := by
  obtain ⟨hsize, hbyte⟩ := viewRange_byte p d.base d.ext hb hl
  refine ⟨?_, ?_, ?_⟩
  · rintro rfl k
    unfold tldOn
    dsimp only
    rw [if_neg Bool.false_ne_true, arrByte_tileOf _ _ (by rw [Array.length_toList, hsize]; exact hfit), listByte_toList]
    split
    next h => exact hbyte k h
    next h =>
      rw [← listByte_toList]
      exact listByte_past _ _ (by rw [Array.length_toList, hsize]; omega)
  · rintro rfl hext
    obtain ⟨hlen, hat⟩ := transposed_spec (viewRange p.id.n p.m.frame d.base d.ext) d.rows d.cols d.elem.bytes
    have hlen' : (transposed (viewRange p.id.n p.m.frame d.base d.ext) d.rows d.cols d.elem.bytes).length = d.ext := by
      rw [hlen, hext]
      ring
    unfold tldOn
    dsimp only
    rw [if_pos rfl, arrByte_tileOf _ _ (by rw [hlen']; exact hfit)]
    refine ⟨fun i hi j hj b hb' => ?_, fun k hk => listByte_past _ _ (by rw [hlen']; exact hk)⟩
    have hin : (i * d.cols + j) * d.elem.bytes + b < d.ext := by
      have h1 := Nat.mul_le_mul_right d.cols hi
      rw [Nat.succ_mul] at h1
      have h2 := Nat.mul_le_mul_right d.elem.bytes (show i * d.cols + j + 1 ≤ d.rows * d.cols by omega)
      rw [Nat.succ_mul] at h2
      omega
    rw [hat i hi j hj b hb', hbyte _ hin, Nat.add_assoc]
  · unfold tldOn rangePoison
    dsimp only
    rw [List.any_eq_true]
    simp only [Bool.and_eq_true, decide_eq_true_eq]
    refine exists_congr fun key => and_congr_right fun _ => ?_
    rw [and_assoc]
    refine and_congr (by omega) (and_congr_left fun _ => by omega)

/-! ### TST -/

/-- Words written at the active positions of a range. -/
theorem get_foldl_set_active (f : Nat → Word) (n base len k : Nat) (m : Sparse 32) :
    Sparse.get k (((List.range len).filter fun i => (base + i) % 32 < n).foldl (fun m i => Sparse.set (base + i) (f i) m) m) =
      if base ≤ k ∧ k < base + len ∧ k % 32 < n then f (k - base) else Sparse.get k m := by
  induction len with
  | zero => simp; omega
  | succ len ih =>
    rw [List.range_succ, List.filter_append, List.foldl_append]
    by_cases hact : (base + len) % 32 < n
    · rw [List.filter_cons_of_pos (by simpa using hact), List.filter_nil, List.foldl_cons, List.foldl_nil, Sparse.get_set, ih]
      by_cases hk : k = base + len
      · subst hk
        rw [if_pos rfl, if_pos ⟨by omega, by omega, hact⟩, Nat.add_sub_cancel_left]
      · rw [if_neg hk]
        exact if_congr (by omega) rfl rfl
    · rw [List.filter_cons_of_neg (by simpa using hact), List.filter_nil, List.foldl_nil, ih]
      refine if_congr ⟨fun h => ⟨h.1, by omega, h.2.2⟩, fun h => ⟨h.1, ?_, h.2.2⟩⟩ rfl rfl
      have hne : k ≠ base + len := fun hk => hact (hk ▸ h.2.2)
      omega

theorem mem_foldl_addNew (f : Nat → Nat) (l : List Nat) (m : List Nat) (k : Nat) :
    k ∈ l.foldl (fun l i => addNew (f i) l) m ↔ k ∈ m ∨ ∃ i ∈ l, f i = k := by
  have hadd (a : Nat) (m : List Nat) : k ∈ addNew a m ↔ k ∈ m ∨ a = k := by
    unfold addNew
    split
    next h =>
      have : a ∈ m := by simpa using h
      exact ⟨.inl, fun h => h.elim id fun h => h ▸ this⟩
    next => rw [List.mem_append, List.mem_singleton, eq_comm]
  induction l generalizing m with
  | nil => simp
  | cons i l ih => exact (ih _).trans (by rw [hadd, List.exists_mem_cons_iff, or_assoc])

/-- The bytes that TST stores, from the base of its range. -/
def tstBytes (t : Tile) (tr : Bool) (d : Desc) : Array Byte :=
  (if tr then transposed (tileBytes t) d.cols d.rows d.elem.bytes else (tileBytes t).toList.take d.ext).toArray

theorem tstBytes_spec (t : Tile) (tr : Bool) (d : Desc) :
    (tr = false → ∀ k < d.ext, arrByte (tstBytes t tr d) k = arrByte (tileBytes t) k) ∧
    (tr = true → ∀ i < d.rows, ∀ j < d.cols, ∀ b < d.elem.bytes,
      arrByte (tstBytes t tr d) ((i * d.cols + j) * d.elem.bytes + b) = arrByte (tileBytes t) ((j * d.rows + i) * d.elem.bytes + b)) := by
  constructor
  · rintro rfl k hk
    rw [tstBytes, if_neg Bool.false_ne_true, arrByte_toArray, ← listByte_toList]
    simp [listByte, hk]
  · rintro rfl i hi j hj b hb
    rw [tstBytes, if_pos rfl, arrByte_toArray]
    exact (transposed_spec (tileBytes t) d.cols d.rows d.elem.bytes).2 j hj i hi b hb

/-- The marks that TST leaves in the frame. -/
theorem tstOn_frameBad (p : Pack) (t : Tile) (tr : Bool) (d : Desc) (hb : d.base % 4 = 0) (hl : d.ext % 4 = 0) (key : Nat) :
    key ∈ (tstOn p t tr d).m.frameBad ↔
      if d.base / 4 ≤ key ∧ key < d.base / 4 + d.ext / 4 ∧ key % 32 < p.id.n then t.poison = true else key ∈ p.m.frameBad := by
  have hend : (d.base + d.ext) / 4 = d.base / 4 + d.ext / 4 := by omega
  unfold tstOn
  dsimp only
  cases hp : t.poison with
  | true =>
    have hmem : (∃ i ∈ (List.range (d.ext / 4)).filter (fun i => (d.base / 4 + i) % 32 < p.id.n), d.base / 4 + i = key) ↔
        d.base / 4 ≤ key ∧ key < d.base / 4 + d.ext / 4 ∧ key % 32 < p.id.n := by
      simp only [List.mem_filter, List.mem_range, decide_eq_true_eq]
      exact ⟨fun ⟨i, ⟨h1, h2⟩, h3⟩ => by subst h3; omega,
        fun ⟨h1, h2, h3⟩ => ⟨key - d.base / 4, ⟨by omega, by rwa [Nat.add_sub_cancel' h1]⟩, by omega⟩⟩
    rw [if_pos rfl, mem_foldl_addNew, hmem]
    split
    next h => exact ⟨fun _ => rfl, fun _ => .inr h⟩
    next h => exact or_iff_left h
  | false =>
    rw [if_neg Bool.false_ne_true, List.mem_filter, hend]
    simp only [Bool.not_eq_true', Bool.and_eq_false_iff, decide_eq_false_iff_not]
    split
    next h => exact ⟨fun h' => absurd h' (by omega), fun h' => by cases h'⟩
    next h => exact and_iff_left (by omega)

/-- TST is what R155 and R166 say of it. -/
theorem tstOn_frameResult (p q : Pack) (t : Tile) (tr : Bool) (d : Desc) (hb : d.base % 4 = 0) (hl : d.ext % 4 = 0) (hq : q.m = (tstOn p t tr d).m) :
    FrameResult p q tr d (arrByte (tileBytes t)) t.poison := by
  obtain ⟨hplain, htrans⟩ := tstBytes_spec t tr d
  have hframe (k : Nat) : Sparse.get k q.m.frame = if d.base / 4 ≤ k ∧ k < d.base / 4 + d.ext / 4 ∧ k % 32 < p.id.n
      then BitVec.ofNat 32 (arrNat (tstBytes t tr d) (4 * (k - d.base / 4)) 4) else Sparse.get k p.m.frame := by
    rw [hq, ← get_foldl_set_active fun i => BitVec.ofNat 32 (arrNat (tstBytes t tr d) (4 * i) 4)]
    rfl
  have hin (a : Nat) (ha : d.base ≤ a ∧ a < d.base + d.ext ∧ a / 4 % 32 < p.id.n) : byteOf q.m.frame a = arrByte (tstBytes t tr d) (a - d.base) := by
    have hlt : lend (arrByte (tstBytes t tr d)) (4 * (a / 4 - d.base / 4)) 4 < 2 ^ 32 := (lend_lt _ (arrByte_lt _) _ _).trans_eq (by decide)
    rw [byteOf, hframe, if_pos (by omega), BitVec.toNat_ofNat, arrNat_eq, Nat.mod_eq_of_lt hlt, Nat.pow_mul]
    rw [show (2 : Nat) ^ 8 = 256 from rfl, lend_byte _ (arrByte_lt _) _ _ _ (Nat.mod_lt _ (by decide))]
    congr 1
    omega
  refine ⟨fun htr a ha => ?_, fun htr hext i hi j hj b hb' => ?_, fun a ha => ?_, fun key => ?_⟩
  · rw [hin a ha]
    exact hplain htr _ (by omega)
  · intro a ha
    rw [hin a ha, ← htrans htr i hi j hj b hb']
    congr 1
    simp only [a]
    omega
  · rw [byteOf, hframe, if_neg (by omega)]
    rfl
  · have hinside : (d.base ≤ 4 * key ∧ 4 * key < d.base + d.ext ∧ 4 * key / 4 % 32 < p.id.n) ↔
        d.base / 4 ≤ key ∧ key < d.base / 4 + d.ext / 4 ∧ key % 32 < p.id.n := by omega
    rw [hq, tstOn_frameBad p t tr d hb hl]
    dsimp only
    rw [if_congr hinside rfl rfl]

end Sys2Proof.Machine
end

section
/-! PROOF. The ends of the engine's instructions: what each leaves in its tile, its frame and its pack (R142 to R164). -/

open Sys2Proof Sys2Proof.Machine Sys2Proof.Claims

namespace Sys2Proof.Proofs

section
variable {core pipe : Nat} {s : State} {o : EngOp} {r : PackRef} {p : Pack}

/-- The bytes of the tile of a register, as the engine reads them. -/
def readTile (s : State) (r : PackRef) (p : Pack) (m : Nat) : Array Byte := tileBytes ((s.core r.core).tile r.pipe (p.m.tiles.getD m 16))

theorem tbyte_readTile (m : Nat) : tbyte s r p m = arrByte (readTile s r p m) := tbyte_eq s r p m

/-- The end of an instruction that writes a tile and leaves its pack. -/
theorem engineEnd_tile (hdue : EngineDue s core pipe o r p) {i : Instr} (hinstr : o.instr = i) {m : Nat} {T : Tile}
    (hpack : (engineRun (s.core r.core) r.pipe p { o with instr := i }).1 = p)
    (htile : (engineRun (s.core r.core) r.pipe p { o with instr := i }).2.1 = some (m, T)) (hout : tileOut i = some m)
    (hres : ∀ new bad, new m = arrByte (tileBytes T) → bad m = T.poison → TileResult p o (tbyte s r p) (tpoison s r p) new bad) :
    ∃ t q, exec (.engineInstructionEnd core pipe) s = .next t ∧ t.pack r = some q ∧ t.mem = s.mem ∧ q.r = p.r ∧ q.m.priv = p.m.priv ∧
      q.m.tiles = p.m.tiles ∧ TileResult p o (tbyte s r p) (tpoison s r p) (tbyte t r p) (tpoison t r p) ∧
      (∀ x, (∀ m, tileOut i = some m → x ≠ p.m.tiles.getD m 16) → (t.core core).tile pipe x = (s.core core).tile pipe x) ∧
      q.m.frame = p.m.frame ∧ q.m.frameBad = p.m.frameBad := by
  subst hinstr
  obtain ⟨hgo, ⟨i, hi, hfirst⟩, hbusy, href, hrp, hpipe⟩ := hdue
  obtain rfl := State.refOf_core href
  subst hpipe
  obtain ⟨t, q, hexec, htp, hmem, hr, hm, -, htiles⟩ := engineEnd_next hgo hi hfirst hbusy href hrp
  have hafter (x : Nat) : (t.core r.core).tile r.pipe x = if x = p.m.tiles.getD m 16 then T else (s.core r.core).tile r.pipe x := by
    rw [htiles, tileAfter, htile]
  rw [hpack] at hr hm
  refine ⟨t, q, hexec, htp, hmem, hr, by rw [hm], by rw [hm], hres _ _ ?_ ?_, fun x hx => by rw [hafter, if_neg (hx m hout)], by rw [hm], by rw [hm]⟩
  · rw [tbyte_eq, hafter, if_pos rfl]
  · rw [tpoison, hafter, if_pos rfl]

variable {old : Nat → Array Byte} {was bad : Nat → Bool} {new : Nat → Nat → Nat} {mark : Bool}

theorem tileResult_tzero {m : Nat} (hi : o.instr = .tzero m) (hnew : new m = arrByte (tileBytes { data := [], poison := false })) (hbad : bad m = false) :
    TileResult p o (fun m => arrByte (old m)) was new bad := by
  unfold TileResult
  rw [hi]
  refine ⟨fun k => ?_, hbad⟩
  rw [hnew, arrByte_tileBytes]
  split <;> rfl

theorem tileResult_mma {ta tb : ElemTy} {m a b : Nat} (hi : o.instr = .mma ta tb m a b)
    (hnew : new m = arrByte (tileBytes { data := tileOf (mmaOn (old m) (old b) ta tb (fun i k => elemAt (old a) ta (i * kOf ta + k)) fun _ => false).1
                                         poison := mark }))
    (hbad : bad m = [m, a, b].any was) : TileResult p o (fun m => arrByte (old m)) was new bad := by
  obtain ⟨hlen, hrows⟩ := mmaOn_rows (old m) (old b) ta tb (fun i k => elemAt (old a) ta (i * kOf ta + k)) fun _ => false
  unfold TileResult
  rw [hi]
  refine ⟨fun i hi => ?_, by rw [hbad]; simp [Bool.or_assoc]⟩
  rw [hnew, arrByte_tileOf _ _ hlen.le]
  simpa only [elemAt_eq, kOf_eq] using (hrows i hi).1 rfl

theorem tileResult_mmas {p48 : Bool} {ta tb : ElemTy} {m a b mm : Nat} (hi : o.instr = .mmas p48 ta tb m a b mm)
    (hnew : new m = arrByte (tileBytes { data := tileOf (mmasOn p48 (old m) (old a) (old b) (old mm) ta tb).1, poison := mark }))
    (hbad : bad m = [m, a, b, mm].any was) : TileResult p o (fun m => arrByte (old m)) was new bad := by
  obtain ⟨hlen, hrows⟩ := mmasOn_rows p48 (old m) (old a) (old b) (old mm) ta tb
  unfold TileResult
  rw [hi]
  refine ⟨?_, by rw [hbad]; simp [Bool.or_assoc]⟩
  rw [hnew, arrByte_tileOf _ _ hlen.le]
  exact hrows

theorem tileResult_mmaq {ta tw : ElemTy} {m a b td : Nat} (hi : o.instr = .mmaq ta tw m a b td)
    (hnew : new m = arrByte (tileBytes { data := tileOf (mmaqOn (old m) (old a) (old b) ta tw (Desc.ofWords o.w0 o.w1)).1, poison := mark }))
    (hbad : bad m = [m, a, b].any was) : TileResult p o (fun m => arrByte (old m)) was new bad := by
  obtain ⟨hlen, hquant⟩ := mmaqOn_quantProduct (old m) (old a) (old b) ta tw (Desc.ofWords o.w0 o.w1)
  unfold TileResult
  rw [hi]
  refine ⟨?_, by rw [hbad]; simp [Bool.or_assoc]⟩
  rw [hnew, arrByte_tileOf _ _ hlen.le]
  exact hquant

theorem tileResult_quant {t : ElemTy} {rot : Rot} {m a td : Nat} (hi : o.instr = .quant t rot m a td)
    (hnew : new m = arrByte (tileBytes { data := (quantOn (old a) t rot (Desc.ofWords o.w0 o.w1)).1.foldl (fun x e => Sparse.setRun e.1 e.2 x) []
                                         poison := mark }))
    (hbad : bad m = was a) : TileResult p o (fun m => arrByte (old m)) was new bad := by
  unfold TileResult
  rw [hi]
  refine ⟨fun hw hty hsize => ?_, hbad⟩
  rw [hnew]
  exact quantOn_quantised (old a) t rot _ mark hw hty hsize (Nat.succ_pos _)

theorem tileResult_deq {t : ElemTy} {m a td : Nat} (hi : o.instr = .deq t m a td)
    (hnew : new m = arrByte (tileBytes { data := tileOf (deqOn (old a) t (Desc.ofWords o.w0 o.w1)).1, poison := mark }))
    (hbad : bad m = [a].any was) : TileResult p o (fun m => arrByte (old m)) was new bad := by
  unfold TileResult
  rw [hi]
  refine ⟨fun ht _ hsize => ?_, by rw [hbad]; simp⟩
  rw [hnew]
  exact deqOn_dequantised (old a) t _ mark ht hsize

theorem tileResult_tact {act : Act} {out : ElemTy} {bias : Option Nat} {m a : Nat} (hi : o.instr = .tact act out bias m a)
    (hnew : new m = arrByte (tileBytes { data := tileOf (tactOn (old a) (bias.map old) act out).1, poison := mark }))
    (hbad : bad m = (a :: bias.toList).any was) : TileResult p o (fun m => arrByte (old m)) was new bad := by
  unfold TileResult
  rw [hi]
  refine ⟨fun hout => ?_, by rw [hbad]; cases bias <;> simp⟩
  have := tactOn_epilogue (old a) (bias.map old) act out mark hout
  rw [Option.map_map] at this
  rw [hnew]
  exact this

theorem tileResult_tred {op : TredOp} {col : Bool} {m a : Nat} (hi : o.instr = .tred op col m a)
    (hnew : new m = arrByte (tileBytes { data := tileOf (tredOn (old a) op col).1, poison := mark }))
    (hbad : bad m = [a].any was) : TileResult p o (fun m => arrByte (old m)) was new bad := by
  obtain ⟨hlines, hrest⟩ := tredOn_lines (old a) op col mark
  unfold TileResult
  rw [hi]
  dsimp only
  rw [hnew]
  exact ⟨hlines, hrest, by rw [hbad]; simp⟩

/-- The extent and the base of a descriptor are whole units of 64 bytes, within a tile (R144). -/
theorem ofWords_units (w0 w1 : Nat) : (Desc.ofWords w0 w1).base % 4 = 0 ∧ (Desc.ofWords w0 w1).ext % 4 = 0 ∧ (Desc.ofWords w0 w1).ext ≤ 16384 := by
  have hext : fld w1 20 13 < 256 := Nat.mod_lt _ (by decide)
  simp only [Desc.ofWords]
  omega

theorem tileResult_tld {tr : Bool} {m td : Nat} (hi : o.instr = .tld tr m td) (hnew : new m = arrByte (tileBytes (tldOn p tr (Desc.ofWords o.w0 o.w1))))
    (hbad : bad m = (tldOn p tr (Desc.ofWords o.w0 o.w1)).poison) : TileResult p o (fun m => arrByte (old m)) was new bad := by
  obtain ⟨hb, hl, hfit⟩ := ofWords_units o.w0 o.w1
  obtain ⟨hplain, htrans, hmark⟩ := tldOn_spec p tr (Desc.ofWords o.w0 o.w1) hb hl hfit
  unfold TileResult
  rw [hi]
  dsimp only
  rw [hnew, hbad]
  exact ⟨hplain, htrans, hmark⟩

/-- The end of a TST. -/
theorem engineEnd_tst (hdue : EngineDue s core pipe o r p) {tr : Bool} {m td : Nat} (hi : o.instr = .tst tr m td) :
    ∃ t q, exec (.engineInstructionEnd core pipe) s = .next t ∧ t.pack r = some q ∧ t.mem = s.mem ∧ q.r = p.r ∧ q.m.priv = p.m.priv ∧
      q.m.tiles = p.m.tiles ∧ TileResult p o (tbyte s r p) (tpoison s r p) (tbyte t r p) (tpoison t r p) ∧
      (∀ x, (t.core core).tile pipe x = (s.core core).tile pipe x) ∧
      FrameResult p q tr (Desc.ofWords o.w0 o.w1) (tbyte s r p m) (tpoison s r p m) := by
  obtain ⟨hgo, ⟨i, hqueue, hfirst⟩, hbusy, href, hrp, hpipe⟩ := hdue
  obtain rfl := State.refOf_core href
  subst hpipe
  obtain ⟨t, q, hexec, htp, hmem, hr, hm, -, htiles⟩ := engineEnd_next hgo hqueue hfirst hbusy href hrp
  have hrun : engineRun (s.core r.core) r.pipe p o = (tstOn p ((s.core r.core).tile r.pipe (p.m.tiles.getD m 16)) tr (Desc.ofWords o.w0 o.w1), none, 0,
      ((s.core r.core).tile r.pipe (p.m.tiles.getD m 16)).poison) := by
    unfold engineRun
    rw [hi]
  obtain ⟨hb, hl, -⟩ := ofWords_units o.w0 o.w1
  have hres : TileResult p o (tbyte s r p) (tpoison s r p) (tbyte t r p) (tpoison t r p) := by
    unfold TileResult
    rw [hi]
    trivial
  rw [hrun] at hr hm
  refine ⟨t, q, hexec, htp, hmem, hr, by rw [hm]; rfl, by rw [hm]; rfl, hres, fun x => ?_, ?_⟩
  · rw [htiles, tileAfter, hrun]
  · rw [tbyte_eq]
    exact tstOn_frameResult p q _ tr _ hb hl hm

end

/-- The results of the engine's instructions. -/
theorem engineResults : EngineResults := by
  intro core pipe s o r p hdue hck
  have hold : tbyte s r p = fun m => arrByte (readTile s r p m) := funext tbyte_readTile
  cases hi : o.instr with
  | tzero m => exact engineEnd_tile hdue hi rfl rfl rfl fun new bad hnew hbad => hold ▸ tileResult_tzero hi hnew hbad
  | tld tr m td => exact engineEnd_tile hdue hi rfl rfl rfl fun new bad hnew hbad => hold ▸ tileResult_tld hi hnew hbad
  | mma ta tb m a b => exact engineEnd_tile hdue hi rfl rfl rfl fun new bad hnew hbad => hold ▸ tileResult_mma hi hnew hbad
  | mmas p48 ta tb m a b mm => exact engineEnd_tile hdue hi rfl rfl rfl fun new bad hnew hbad => hold ▸ tileResult_mmas hi hnew hbad
  | mmaq ta tw m a b td => exact engineEnd_tile hdue hi rfl rfl rfl fun new bad hnew hbad => hold ▸ tileResult_mmaq hi hnew hbad
  | quant t rot m a td => exact engineEnd_tile hdue hi rfl rfl rfl fun new bad hnew hbad => hold ▸ tileResult_quant hi hnew hbad
  | deq t m a td => exact engineEnd_tile hdue hi rfl rfl rfl fun new bad hnew hbad => hold ▸ tileResult_deq hi hnew hbad
  | tact act out bias m a => exact engineEnd_tile hdue hi rfl rfl rfl fun new bad hnew hbad => hold ▸ tileResult_tact hi hnew hbad
  | tred op col m a => exact engineEnd_tile hdue hi rfl rfl rfl fun new bad hnew hbad => hold ▸ tileResult_tred hi hnew hbad
  | tst tr m td =>
    obtain ⟨t, q, hexec, htp, hmem, hr, hpriv, htiles, hres, hkeep, hframe⟩ := engineEnd_tst hdue hi
    exact ⟨t, q, hexec, htp, hmem, hr, hpriv, htiles, hres, fun x _ => hkeep x, hframe⟩
  | _ => exact absurd (by rw [engineCk, hi]) hck

/-! ### The first of the queue -/

/-- Sums added to an accumulator far from the bounds of .i32 are never cut. -/
theorem foldl_cut32 (g : Nat → Int) (acc : Int) (hlo : -(2 ^ 30) ≤ acc) (hhi : acc ≤ 2 ^ 30) (hg : ∀ ch, |g ch| ≤ 2 ^ 19) (n : Nat) (hn : n ≤ 8) :
    (List.range n).foldl (fun q ch => cut32 (q + g ch)) acc = acc + ((List.range n).map g).sum ∧ |((List.range n).map g).sum| ≤ n * 2 ^ 19 := by
  induction n with
  | zero => simp
  | succ n ih =>
    obtain ⟨heq, hbound⟩ := ih (by omega)
    have hstep := abs_le.mp (hg n)
    rw [abs_le] at hbound
    rw [List.range_succ, List.foldl_append, List.map_append, List.sum_append, heq]
    simp only [List.foldl_cons, List.foldl_nil, List.map_cons, List.map_nil, List.sum_cons, List.sum_nil, add_zero]
    refine ⟨?_, abs_le.mpr ⟨by push_cast; omega, by push_cast; omega⟩⟩
    unfold cut32
    rw [if_neg (by omega), if_neg (by omega), add_assoc]

/-- A product of two .i8 values, and 32 of them, are small. -/
theorem abs_sum_i8 (u v : Nat → Byte) (n : Nat) : |((List.range n).map fun x => (u x).toInt * (v x).toInt).sum| ≤ n * 2 ^ 14 := by
  induction n with
  | zero => simp
  | succ n ih =>
    have hbyte (b : Byte) : |b.toInt| ≤ 2 ^ 7 := abs_le.mpr ⟨BitVec.le_toInt b, b.toInt_lt.le⟩
    have hprod : |(u n).toInt * (v n).toInt| ≤ 2 ^ 14 := by
      rw [abs_mul]
      exact (mul_le_mul (hbyte _) (hbyte _) (abs_nonneg _) (by norm_num)).trans (by norm_num)
    rw [List.range_succ, List.map_append, List.sum_append, List.map_cons, List.map_nil, List.sum_cons, List.sum_nil, add_zero]
    refine (abs_add_le _ _).trans ?_
    push_cast
    linarith

theorem sum_chunks (h : Nat → Int) : ((List.range 8).map fun ch => ((List.range 32).map fun x => h (ch * 32 + x)).sum).sum = ((List.range 256).map h).sum := by
  have hflat := flatMap_range_map 8 32 (by decide) fun ch x => h (ch * 32 + x)
  simp only [Nat.div_add_mod'] at hflat
  rw [← hflat, List.flatMap_def, List.sum_flatten, List.map_map]
  rfl

/-- A word of a tile is its four bytes. -/
theorem tw_eq (t : Tile) (i : Nat) (hi : i < 4096) : tw t i = lend (arrByte (tileBytes t)) (i * 4) 4 := by
  have hbyte (j : Nat) (hj : j < 4) : arrByte (tileBytes t) (i * 4 + j) = (tb t (4 * i + j)).toNat := by
    rw [arrByte_tileBytes, if_pos (by omega), Nat.mul_comm i]
    rfl
  have hword : tw t i = leNat ((List.range 4).map fun j => tb t (4 * i + j)) := by simp [tw, List.range_succ]
  rw [hword, leNat_range]
  exact lend_offset fun j hj => by rw [Nat.zero_add, hbyte j hj]

theorem sourceInt_i8 (t : Tile) (k : Nat) (hk : k < 16384) : sourceInt .i8 (elt (arrByte (tileBytes t)) .i8 k) = (tb t k).toInt := by
  have hbyte : elt (arrByte (tileBytes t)) .i8 k = (tb t k).toNat := by
    rw [elt, if_neg (by decide), show ElemTy.bytes .i8 = 1 from rfl, Nat.mul_one, lend_one, arrByte_tileBytes, if_pos hk]
    rfl
  rw [hbyte, sourceInt, BitVec.ofNat_toNat, BitVec.setWidth_eq]

/-- A row of .i8 products on an accumulator far from its bounds. -/
theorem productRow_i8 (a b c t : Tile) (i : Nat) (hi : i < 64)
    (hrow : ProductRow .i8 .i8 (fun x => elt (arrByte (tileBytes a)) .i8 (i * 256 + x)) (arrByte (tileBytes b)) (arrByte (tileBytes c)) (arrByte (tileBytes t)) i)
    (j : Nat) (hj : j < 64) (hlo : (BitVec.ofNat 32 (tw c (i * 64 + j))).toInt ≥ -(2 ^ 30)) (hhi : (BitVec.ofNat 32 (tw c (i * 64 + j))).toInt ≤ 2 ^ 30) :
    (BitVec.ofNat 32 (tw t (i * 64 + j))).toInt = (List.range 256).foldl (fun (z : Int) k => z + (tb a (i * 256 + k)).toInt * (tb b (k * 64 + j)).toInt)
      (BitVec.ofNat 32 (tw c (i * 64 + j))).toInt := by
  have hres := hrow j hj
  dsimp only at hres
  rw [if_pos (show ElemTy.isInt .i8 = true from rfl), ← tw_eq t _ (by omega), ← tw_eq c _ (by omega)] at hres
  generalize (BitVec.ofNat 32 (tw c (i * 64 + j))).toInt = acc at hres hlo hhi ⊢
  have hterm (ch : Nat) (hch : ch < 8) : ((List.range 32).map fun x => sourceInt .i8 (elt (arrByte (tileBytes a)) .i8 (i * 256 + (ch * 32 + x))) *
      sourceInt .i8 (elt (arrByte (tileBytes b)) .i8 ((ch * 32 + x) * 64 + j))) =
      (List.range 32).map fun x => (tb a (i * 256 + (ch * 32 + x))).toInt * (tb b ((ch * 32 + x) * 64 + j)).toInt := by
    refine List.map_congr_left fun x hx => ?_
    have hx : x < 32 := List.mem_range.mp hx
    rw [sourceInt_i8 a _ (by omega), sourceInt_i8 b _ (by omega)]
  have hfold : (List.range 8).foldl (fun q ch => cut32 (q + ((List.range 32).map fun x =>
        sourceInt .i8 (elt (arrByte (tileBytes a)) .i8 (i * 256 + (ch * 32 + x))) *
          sourceInt .i8 (elt (arrByte (tileBytes b)) .i8 ((ch * 32 + x) * 64 + j))).sum)) acc =
      (List.range 8).foldl (fun q ch => cut32 (q + ((List.range 32).map fun x =>
        (tb a (i * 256 + (ch * 32 + x))).toInt * (tb b ((ch * 32 + x) * 64 + j)).toInt).sum)) acc :=
    List.foldl_ext _ _ _ fun q ch hch => by rw [hterm ch (List.mem_range.mp hch)]
  obtain ⟨hcut, hsum⟩ := foldl_cut32 (fun ch => ((List.range 32).map fun x =>
    (tb a (i * 256 + (ch * 32 + x))).toInt * (tb b ((ch * 32 + x) * 64 + j)).toInt).sum) acc hlo hhi
    (fun ch => (abs_sum_i8 (fun x => tb a (i * 256 + (ch * 32 + x))) (fun x => tb b ((ch * 32 + x) * 64 + j)) 32).trans (by norm_num)) 8 le_rfl
  rw [abs_le] at hsum
  rw [show kSize .i8 / 32 = 8 from rfl, hfold, hcut] at hres
  rw [hres, BitVec.ofNat_toNat, BitVec.setWidth_eq, toInt_ofInt32 _ (by omega) (by omega), foldl_add_sum,
    sum_chunks fun k => (tb a (i * 256 + k)).toInt * (tb b (k * 64 + j)).toInt]

/-- The end of the first instruction of the queue, which writes a tile and leaves its pack. -/
theorem firstEnd_tile {core pipe : Nat} {s : State} {r : PackRef} {p : Pack} {o : EngOp} {rest : List EngOp} {i : Instr} (hinstr : o.instr = i) {m : Nat} {T : Tile}
    (hqueue : ((s.core core).pipe pipe).queue = o :: rest) (hrun : ((s.core core).pipe pipe).run = some o.uid)
    (hdue : ((s.core core).pipe pipe).busy + engineCk o ≤ s.now) (href : s.refOf core o.serial = some r) (hp : s.pack r = some p)
    (hpack : (engineRun (s.core core) pipe p { o with instr := i }).1 = p)
    (htile : (engineRun (s.core core) pipe p { o with instr := i }).2.1 = some (m, T)) :
    ∃ t q, exec (.engineInstructionEnd core pipe) s = .next t ∧ ((t.core core).pipe pipe).queue = rest ∧ t.mem = s.mem ∧
      t.pack r = some q ∧ q.r = p.r ∧ q.m = p.m ∧ (t.core core).tile pipe (p.m.tiles.getD m 16) = T ∧
      ∀ k, k ≠ p.m.tiles.getD m 16 → (t.core core).tile pipe k = (s.core core).tile pipe k := by
  subst hinstr
  obtain ⟨t, q, hexec, htp, hmem, hqr, hqm, hrest, htiles⟩ := engineEnd_next (i := 0) hrun (by rw [hqueue]; rfl)
    (fun j hj => absurd hj (Nat.not_lt_zero j)) hdue href hp
  have hafter (x : Nat) : (t.core core).tile pipe x = if x = p.m.tiles.getD m 16 then T else (s.core core).tile pipe x := by
    rw [htiles, tileAfter, htile]
  rw [hpack] at hqr hqm
  rw [hqueue] at hrest
  exact ⟨t, q, hexec, hrest, hmem, htp, hqr, hqm, by rw [hafter, if_pos rfl], fun k hk => by rw [hafter, if_neg hk]⟩

/-- The first of the queue ends: TZERO and MMA of .i8. -/
theorem engineEndEvents : EngineEndEvents := by
  intro core pipe s r p o rest _ hqueue hrun href hp
  refine ⟨fun m hi hdue => ?_, fun m a b hi hdue => ?_⟩
  · obtain ⟨t, q, hexec, hrest, hmem, htp, hqr, hqm, htile, hkeep⟩ :=
      firstEnd_tile hi hqueue hrun (by rw [engineCk, hi]; exact hdue) href hp rfl rfl
    exact ⟨t, q, hexec, hrest, hmem, htp, hqr, hqm, fun i => by rw [htile]; rfl, hkeep⟩
  · obtain ⟨t, q, hexec, hrest, hmem, htp, hqr, hqm, htile, hkeep⟩ :=
      firstEnd_tile hi hqueue hrun (by rw [engineCk, hi]; exact hdue) href hp rfl rfl
    refine ⟨t, q, hexec, hrest, hmem, htp, hqr, hqm, hkeep, fun i hi j hj hlo hhi => ?_⟩
    refine productRow_i8 ((s.core core).tile pipe (p.m.tiles.getD a 16)) ((s.core core).tile pipe (p.m.tiles.getD b 16))
      ((s.core core).tile pipe (p.m.tiles.getD m 16)) _ i hi ?_ j hj hlo hhi
    obtain ⟨hlen, hrows⟩ := mmaOn_rows (tileBytes ((s.core core).tile pipe (p.m.tiles.getD m 16))) (tileBytes ((s.core core).tile pipe (p.m.tiles.getD b 16)))
      .i8 .i8 (fun i k => elemAt (tileBytes ((s.core core).tile pipe (p.m.tiles.getD a 16))) .i8 (i * kOf .i8 + k)) fun _ => false
    rw [htile, arrByte_tileOf _ _ hlen.le]
    simpa only [elemAt_eq, show kOf .i8 = 256 from rfl] using (hrows i hi).1 rfl

/-- Settles O57: an engine instruction that has run for its time ends with what its rule gives. -/
theorem engineInstructionEnds : Obligations.EngineInstructionEnds := ⟨engineEndEvents, engineResults⟩

end Sys2Proof.Proofs
end
